-- ==== Sys2Proof/Word.lean ====
section
/-!
DEFINITION. Words of the device (00 R2-R3): the 64-bit word, the byte, and the plainest readings of a word.
-/
namespace Sys2Proof

/-- A 64-bit word (R95, R134). -/
abbrev Word := BitVec 64

/-- A byte of memory (R3). -/
abbrev Byte := BitVec 8

/-- A configuration frame of 256 bits (R112). -/
abbrev Frame := BitVec 256

/-- A general register g0 to g31 (R134). -/
abbrev Reg := BitVec 5

/-- A predicate p0 to p7 (R135). -/
abbrev PReg := BitVec 3

/-- A core of the package, as 96 * die + 12 * cluster + core (R16). -/
abbrev CoreIx := Fin 768

/-- A cluster of the package, as 8 * die + cluster (R16). -/
abbrev ClusterIx := Fin 64

/-- A compute die (R13). -/
abbrev DieIx := Fin 8

end Sys2Proof
end

