-- ==== Sys2Proof/Machine/Bits.lean ====
section
/-!
DEFINITION. Bits of words: sign extension, counts, and the little-endian byte order of 00 R3.
-/
namespace Sys2Proof.Machine

/-- The word with the value `b`. -/
def boolWord (b : Bool) : Word := if b then 1 else 0

/-- Bits `lo + n - 1 : lo` of a word, as a number. -/
def bits {m : Nat} (w : BitVec m) (lo n : Nat) : Nat := w.toNat / 2 ^ lo % 2 ^ n

/-- A word with `w` of its bits, from bit `lo` on, replaced by those of `v`. -/
def setBits {n : Nat} (x : BitVec n) (lo w v : Nat) : BitVec n :=
  BitVec.ofNat n (x.toNat - bits x lo w * 2 ^ lo + v % 2 ^ w * 2 ^ lo)

/-- A number as a word. -/
abbrev word (n : Nat) : Word := BitVec.ofNat 64 n

/-- An integer reduced modulo 2^64 (the helper u64 of chapter 08). -/
def u64 (v : Int) : Word := BitVec.ofInt 64 v

/-- The word with the low `n` bits set: the helper mask(n) of chapter 08. -/
def maskWord (n : Nat) : Word := BitVec.ofNat 64 (2 ^ n - 1)

/-- The number of leading zero bits among the low `n` bits. -/
def leadingZeros (w : Word) : Nat → Nat
  | 0 => 0
  | n + 1 => if w.getLsbD n then 0 else 1 + leadingZeros w n

/-- The number of trailing zero bits, counting from bit `i` for at most `n` bits. -/
def trailingZeros (w : Word) (i : Nat) : Nat → Nat
  | 0 => 0
  | n + 1 => if w.getLsbD i then 0 else 1 + trailingZeros w (i + 1) n

/-- The number of one bits among the low `n` bits. -/
def popCount (w : Word) : Nat → Nat
  | 0 => 0
  | n + 1 => (if w.getLsbD n then 1 else 0) + popCount w n

/-- A list of bytes as a number, the first byte least significant (R3). -/
def leNat : List Byte → Nat
  | [] => 0
  | b :: t => b.toNat + 256 * leNat t

/-- The low `n` bytes of a number, least significant first (R3). -/
def leBytes (v : Nat) : Nat → List Byte
  | 0 => []
  | n + 1 => BitVec.ofNat 8 v :: leBytes (v / 256) n

/-- The consecutive numbers `a`, `a + 1`, ... , `n` of them. -/
def rangeFrom (a : Nat) : Nat → List Nat
  | 0 => []
  | n + 1 => a :: rangeFrom (a + 1) n

/-- The low `b` bits of `v` read as a two's-complement integer. -/
def signedOf (b v : Nat) : Int :=
  let x := v % 2 ^ b
  if b ≠ 0 ∧ 2 ^ (b - 1) ≤ x then (x : Int) - 2 ^ b else x

/-- `f` applied `n` times. -/
def iter {α : Type} (f : α → α) : Nat → α → α
  | 0, x => x
  | n + 1, x => iter f n (f x)

end Sys2Proof.Machine
end

