-- ==== Sys2Proof/Machine/Num.lean ====
section
/-!
DEFINITION. Exact arithmetic: dyadic numbers, and magnitudes known to a binary place, from which every rounding of the
device is made in one place.
-/
namespace Sys2Proof.Machine

/-- The dyadic number m * 2^e. -/
structure Dy where
  m : Int
  e : Int
deriving DecidableEq, Repr

/-- Zero. -/
def Dy.zero : Dy := ⟨0, 0⟩
/-- An integer. -/
def Dy.ofInt (n : Int) : Dy := ⟨n, 0⟩
/-- The mantissa at exponent `e`, which must not exceed the number's own. -/
def Dy.at (x : Dy) (e : Int) : Int := x.m * 2 ^ (x.e - e).toNat
/-- The sum. -/
def Dy.add (x y : Dy) : Dy :=
  if x.m = 0 then y else if y.m = 0 then x else
  let e := min x.e y.e
  ⟨x.at e + y.at e, e⟩
/-- The negation. -/
def Dy.neg (x : Dy) : Dy := ⟨-x.m, x.e⟩
/-- The difference. -/
def Dy.sub (x y : Dy) : Dy := x.add y.neg
/-- The product. -/
def Dy.mul (x y : Dy) : Dy := ⟨x.m * y.m, x.e + y.e⟩
/-- The magnitude. -/
def Dy.abs (x : Dy) : Dy := ⟨x.m.natAbs, x.e⟩
/-- Multiplication by 2^k. -/
def Dy.scale (x : Dy) (k : Int) : Dy := ⟨x.m, x.e + k⟩
/-- The number is negative. -/
def Dy.isNeg (x : Dy) : Bool := decide (x.m < 0)
/-- The number is zero. -/
def Dy.isZero (x : Dy) : Bool := x.m == 0
/-- x < y. -/
def Dy.lt (x y : Dy) : Bool := (x.sub y).isNeg
/-- x ≤ y. -/
def Dy.le (x y : Dy) : Bool := !(y.lt x)
/-- x = y as numbers. -/
def Dy.eqv (x y : Dy) : Bool := (x.sub y).isZero
/-- The greatest integer not above x * 2^k. -/
def Dy.floorScaled (x : Dy) (k : Int) : Int :=
  let s := x.e + k
  if 0 ≤ s then x.m * 2 ^ s.toNat else Int.fdiv x.m (2 ^ (-s).toNat)

/-- floor(log2 x) of a positive magnitude (0 for zero). -/
def Dy.log2 (x : Dy) : Int := (Nat.log2 x.m.natAbs : Int) + x.e

/-- A magnitude x with n * 2^e ≤ x < (n + 1) * 2^e, exact unless `more`. -/
structure Mag where
  n : Nat
  e : Int
  more : Bool
deriving DecidableEq, Repr

/-- The magnitude of a dyadic number. -/
def Dy.mag (x : Dy) : Mag := ⟨x.m.natAbs, x.e, false⟩

/-- What lies beyond a place: nothing, less than half, half, or more than half of a unit there. -/
inductive Rest where
  | zero | low | half | high
deriving DecidableEq, Repr

/-- The whole units of 2^q in a magnitude, and what lies beyond. A magnitude with `more` is known finely enough when its
place `e` is below `q`. -/
def Mag.split (x : Mag) (q : Int) : Nat × Rest :=
  if q ≤ x.e then (x.n * 2 ^ (x.e - q).toNat, if x.more then .low else .zero)
  else
    let k := (q - x.e).toNat
    let r := x.n / 2 ^ k
    let b := x.n % 2 ^ k
    let h := 2 ^ (k - 1)
    (r, if b = 0 then (if x.more then .low else .zero)
      else if b < h then .low
      else if b = h then (if x.more then .high else .half)
      else .high)

/-- floor(log2 x) of a positive magnitude. -/
def Mag.log2 (x : Mag) : Int := (Nat.log2 x.n : Int) + x.e

/-- The rounding modes of R60. `rsr r` is stochastic rounding with the 32 hash bits `r` of R61. -/
inductive RMode where
  | rne | rtz | rup | rdn
  | rsr (r : Nat)
deriving DecidableEq, Repr

/-- The magnitude rounded to whole units of 2^q, and whether it was inexact (R60, R61). -/
def Mag.roundAt (x : Mag) (neg : Bool) (md : RMode) (q : Int) : Nat × Bool :=
  let (r, rest) := x.split q
  let up : Bool := match md with
    | .rne => rest == .high || (rest == .half && r % 2 == 1)
    | .rtz => false
    | .rup => rest != .zero && !neg
    | .rdn => rest != .zero && neg
    | .rsr h => Nat.ble (2 ^ 32) ((x.split (q - 32)).1 % 2 ^ 32 + h)
  (if up then r + 1 else r, rest != .zero)

/-- floor(sqrt n), found bit by bit from bit k down. -/
def isqrtFrom (n : Nat) (r : Nat) : Nat → Nat
  | 0 => r
  | k + 1 =>
    let r' := r + 2 ^ k
    isqrtFrom n (if r' * r' ≤ n then r' else r) k

/-- floor(sqrt n). -/
def isqrt (n : Nat) : Nat := isqrtFrom n 0 (Nat.log2 n / 2 + 1)

/-- The quotient of positive dyadics, known to at least `p` significant bits beyond rounding needs. -/
def Mag.quot (x y : Mag) (p : Nat) : Mag :=
  let k := p + 3 + Nat.log2 y.n
  let n := x.n * 2 ^ k
  ⟨n / y.n, x.e - y.e - k, n % y.n != 0⟩

/-- The square root of a positive exact magnitude, known to at least `p` significant bits. -/
def Mag.sqrt (x : Mag) (p : Nat) : Mag :=
  let k := 2 * (p + 3)
  let (n, e) := if (x.e - k) % 2 = 0 then (x.n * 2 ^ k, x.e - k) else (x.n * 2 ^ (k + 1), x.e - k - 1)
  let r := isqrt n
  ⟨r, e / 2, r * r != n⟩

end Sys2Proof.Machine
end

