-- ==== Sys2Proof/Machine/Fp.lean ====
section
/-!
DEFINITION. Floating-point formats (R50, R51): reading an encoding as a value, and rounding a magnitude into one (R60,
R62, R63).
-/
namespace Sys2Proof.Machine

/-- How a format uses its highest exponent (R51): as IEEE 754 does, as E4M3 does, or for finite values only. -/
inductive Special where
  | ieee | e4m3 | none
deriving DecidableEq, Repr

/-- A floating-point format: fraction bits, exponent bits and bias (R50). -/
structure FFmt where
  man : Nat
  ex : Nat
  bias : Int
  special : Special
deriving DecidableEq, Repr

/-- binary64 -/
def FFmt.fp64 : FFmt := ⟨52, 11, 1023, .ieee⟩
/-- binary32 -/
def FFmt.fp32 : FFmt := ⟨23, 8, 127, .ieee⟩
/-- binary16 -/
def FFmt.fp16 : FFmt := ⟨10, 5, 15, .ieee⟩
/-- bfloat16 -/
def FFmt.bf16 : FFmt := ⟨7, 8, 127, .ieee⟩
/-- OCP FP8 E4M3 -/
def FFmt.e4m3 : FFmt := ⟨3, 4, 7, .e4m3⟩
/-- OCP FP8 E5M2 -/
def FFmt.e5m2 : FFmt := ⟨2, 5, 15, .ieee⟩
/-- MXFP6 E3M2 -/
def FFmt.e3m2 : FFmt := ⟨2, 3, 3, .none⟩
/-- MXFP6 E2M3 -/
def FFmt.e2m3 : FFmt := ⟨3, 2, 1, .none⟩
/-- MXFP4 E2M1 -/
def FFmt.e2m1 : FFmt := ⟨1, 2, 1, .none⟩

/-- The exponent of the unit in the last place of a subnormal. -/
def FFmt.qmin (F : FFmt) : Int := 1 - F.bias - F.man
/-- The width of an encoding. -/
def FFmt.width (F : FFmt) : Nat := 1 + F.ex + F.man
/-- The largest finite magnitude as an encoding without sign. -/
def FFmt.maxBits (F : FFmt) : Nat :=
  match F.special with
  | .ieee => (2 ^ F.ex - 1) * 2 ^ F.man - 1
  | .e4m3 => 2 ^ (F.ex + F.man) - 2
  | .none => 2 ^ (F.ex + F.man) - 1
/-- The canonical NaN (R50); zero for a format that has none (R66). -/
def FFmt.nanBits (F : FFmt) : Nat :=
  match F.special with
  | .ieee => (2 ^ F.ex - 1) * 2 ^ F.man + (if F.man = 2 then 3 else 2 ^ (F.man - 1))
  | .e4m3 => 2 ^ (F.ex + F.man) - 1
  | .none => 0
/-- Infinity without sign, where the format has one. -/
def FFmt.infBits (F : FFmt) : Nat := (2 ^ F.ex - 1) * 2 ^ F.man
/-- The sign bit in place. -/
def FFmt.signBit (F : FFmt) (neg : Bool) : Nat := if neg then 2 ^ (F.ex + F.man) else 0

/-- A floating-point value: a NaN, an infinity, or sign and magnitude m * 2^e. -/
inductive FVal where
  | nan (signalling : Bool)
  | inf (neg : Bool)
  | fin (neg : Bool) (m : Nat) (e : Int)
deriving DecidableEq, Repr

/-- The value an encoding stands for (R51). -/
def FFmt.read (F : FFmt) (x : Nat) : FVal :=
  let neg := x / 2 ^ (F.ex + F.man) % 2 == 1
  let ef := x / 2 ^ F.man % 2 ^ F.ex
  let fr := x % 2 ^ F.man
  let fin : FVal := if ef = 0 then .fin neg fr F.qmin else .fin neg (2 ^ F.man + fr) ((ef : Int) - 1 + F.qmin)
  match F.special with
  | .none => fin
  | .e4m3 => if ef = 2 ^ F.ex - 1 ∧ fr = 2 ^ F.man - 1 then .nan false else fin
  | .ieee =>
    if ef = 2 ^ F.ex - 1 then if fr = 0 then .inf neg else .nan (decide (fr < 2 ^ (F.man - 1))) else fin

/-- A finite value as a dyadic number. -/
def FVal.dy : FVal → Dy
  | .fin neg m e => ⟨if neg then -(m : Int) else m, e⟩
  | _ => Dy.zero

/-- The largest finite magnitude as a dyadic number. -/
def FFmt.maxDy (F : FFmt) : Dy := (F.read F.maxBits).dy

/-- What rounding a magnitude into a format gives: the encoding without sign, unless it overflows; whether it was
inexact; and whether it is tiny after rounding (R163). -/
structure Rounded where
  mag : Nat
  excess : Bool
  inexact : Bool
  tiny : Bool
deriving DecidableEq, Repr

/-- Rounding once (R60). Overflow and tininess are judged on the result with an unbounded exponent (R62, R163). -/
def FFmt.round (F : FFmt) (md : RMode) (neg : Bool) (x : Mag) : Rounded :=
  if x.n = 0 ∧ !x.more then ⟨0, false, false, false⟩ else
  let q := x.log2 - F.man
  let (r, _) := x.roundAt neg md q
  let unb : Dy := ⟨r, q⟩
  if F.maxDy.lt unb then ⟨0, true, true, false⟩ else
  let q' := max q F.qmin
  let (r', inexact) := x.roundAt neg md q'
  ⟨((q' - F.qmin).toNat * 2 ^ F.man) + r', false, inexact, unb.lt ⟨1, F.qmin + F.man⟩⟩

/-- An overflowed result takes the largest finite value rather than infinity: the IEEE column of R62. -/
def overToMax (md : RMode) (neg : Bool) : Bool :=
  match md with
  | .rne => false
  | .rsr _ => false
  | .rtz => true
  | .rup => neg
  | .rdn => !neg

/-- The encoding of an overflowed result, and whether it saturated (R62). -/
def FFmt.overflow (F : FFmt) (md : RMode) (sat neg : Bool) : Nat × Bool :=
  let toMax := (F.signBit neg + F.maxBits, true)
  if sat then toMax else
  match F.special with
  | .none => toMax
  | .e4m3 => if overToMax md neg then toMax else (F.nanBits, false)
  | .ieee => if overToMax md neg then toMax else (F.signBit neg + F.infBits, false)

/-- A magnitude stored in a format: the encoding, and whether it saturated (R60, R62, R63). -/
def FFmt.store (F : FFmt) (md : RMode) (sat neg : Bool) (x : Mag) : Nat × Bool :=
  let r := F.round md neg x
  if r.excess then F.overflow md sat neg else (F.signBit neg + r.mag, false)

end Sys2Proof.Machine
end

