-- ==== Sys2Proof/Syntax.lean ====
section
/-!
DEFINITION. The steps of the device as syntax: one constructor per row of spec/opcode_table.json. Field names and
widths are those of R96 and R104; units are those of R17 and R106.
-/
namespace Sys2Proof

/-- A guard (R97): the form acts when predicate `p`, inverted if `neg`, holds. -/
structure Guard where
  neg : Bool
  p : PReg
deriving DecidableEq, Repr

/-- A source register with its last-use bit (R98). -/
structure Src where
  reg : Reg
  last : Bool
deriving DecidableEq, Repr

/-- The memory operand of a load or store (R104, R109): base, index, offset, ordering and scope. -/
structure MemOp where
  a : Src
  b : Src
  off : BitVec 26
  ar : Bool
  sc : BitVec 3
deriving DecidableEq, Repr

/-- The memory operand of an atomic, which has no index (R104, R109). -/
structure AmoOperand where
  a : Src
  off : BitVec 26
  ar : Bool
  sc : BitVec 3
deriving DecidableEq, Repr

/-- The k-registers of R138. -/
inductive KReg where
  | kstat | kcause | kepc | ktval | ktvec | kscratch | kfpm | kevt | kctx | kcore | ktask | kgroup | kargbase | kprio
  | kqui | kcyc | ktime
deriving DecidableEq, Repr

/-- The precision SZ selects (R105): binary32 or binary64. -/
inductive Prec where
  | s | d
deriving DecidableEq, Repr

/-- The relation of `fcmp` (R166). -/
inductive FRel where
  | eq | lt | le | un
deriving DecidableEq, Repr

/-- The number kinds that C[2:0] of `fcvt` names (R105). -/
inductive FNum where
  | s | d | l | lu | w | wu
deriving DecidableEq, Repr

/-- The unit of `cfg.fetch`, `cfg.load`, `cfg.evict`, `cfg.probe` and `bar.cfg` (R106): a node or every node. -/
inductive CfgUnit where
  | node (id : BitVec 8)
  | core
deriving DecidableEq, Repr

/-- The unit of `bar.rd` and `bar.wr` (R305): one stream of a generator, by handle, or every stream of the core.
`n` counts from ag0 for `bar.rd` and from ag4 for `bar.wr`. -/
inductive BarUnit where
  | ag (n : Fin 4) (a : Src)
  | core
deriving DecidableEq, Repr

/-- The condition of `bar.if` (R307). -/
inductive BarCond where
  | pred (p : PReg) (inv : Bool)
  | buffer (sb : Fin 16) (dbit : BitVec 6) (inv : Bool)
deriving DecidableEq, Repr

/-- The unit of a queue form (R106, R311). -/
inductive QUnit where
  | sb (n : Fin 16)
  | fq (n : Fin 16)
deriving DecidableEq, Repr

/-- The operations of an atomic (R229). -/
inductive AmoOp where
  | add | min | max | minz | maxz | and | or | xor | swap | cas | fadd
deriving DecidableEq, Repr

/-- A node of a core that holds context slots (R361): a local node id of R17, a port of a memory tile, or a Plain
element of the core's cluster. -/
inductive NodeId where
  | pe (n : Fin 16) | rt (n : Fin 16) | ct (n : Fin 8) | port (mt p : Fin 4) | ag (n : Fin 8) | mx
  | sb (n : Fin 16) | tm (n : Fin 16) | pass | plain (e : Fin 128)
deriving DecidableEq, Repr

/-- The channels of R245 inside one core: a face input (side 0 to 3 for N, E, S, W), a PE result, an operand channel of
a PE, and the drain of an endpoint bound to an edge side. -/
inductive ChanId where
  | face (rt : Fin 16) (side : Fin 4)
  | result (pe : Fin 16)
  | operand (pe : Fin 16) (n : Fin 3)
  | drain (node : NodeId)
deriving DecidableEq, Repr

/-- A host access through a BAR (R464): BAR0 or BAR2, the offset, and the bytes written or the count read. -/
structure HostReq where
  bar2 : Bool
  off : BitVec 40
  n : Nat
  write : Option (List Byte)
deriving DecidableEq, Repr

/-- A host AtomicOp to BAR2 (R464): `width` is the operand's width in bits. -/
structure HostAtomic where
  off : BitVec 40
  op : AmoOp
  width : Nat
  operand : Word
  comparand : Word
deriving DecidableEq, Repr

/-- What a request from another package asks of its home (R218). -/
inductive RemoteOp where
  | read (n : Nat)
  | write (bytes : List Byte)
  | amo (op : AmoOp) (wide : Bool) (b d : Word)
deriving DecidableEq, Repr

/-- A request arriving over Stanum (R218): its issuer's package and core and its package-local address. -/
structure RemoteReq where
  pkg : BitVec 9
  core : BitVec 18
  addr : BitVec 49
  op : RemoteOp
deriving DecidableEq, Repr

/-- The KV pool registers of R419. -/
inductive KvPoolReg where
  | bpool | hpool | tab
deriving DecidableEq, Repr

/-- The MMIO and management registers without behaviour of their own (R143, R380, R446, R470). -/
inductive PlainReg where
  | xroot (d : DieIx) (q : Fin 16)
  | tvec (d : DieIx)
  | cecnt (d : DieIx)
  | recaddr | reclen | pwrlim | clkstat | deglvl
deriving DecidableEq, Repr

/-- The order in which contributions meet in an arrival-mode collective (R350): the earlier arrival stands first. -/
inductive Arrival where
  | leaf (g : Nat)
  | comb (x y : Arrival)
deriving DecidableEq, Repr

/-- What is known in this package of a member that lies in another one (R341, R357): its descriptor and the bytes that its
station reads, that it does not agree with the others, or that it has withdrawn. -/
inductive FarNews where
  | issued (desc : BitVec 1024) (data : List (BitVec 8))
  | differs
  | withdrawn
deriving DecidableEq, Repr

/-- A member of another package, by its rank. -/
structure FarMember where
  rank : Nat
  news : FarNews
deriving DecidableEq, Repr

/-- The rendezvous of a collective (R341): its sequence number in the team, and what its members in other packages have done. -/
structure Rendezvous where
  seq : BitVec 16
  far : List FarMember
deriving DecidableEq, Repr

/-- Who has a request at a bank (R199): a core, for its control processor and its units; or the carriers of the host and of other
packages. -/
inductive Requester where
  | core (c : CoreIx)
  | outside
deriving DecidableEq, Repr

/-- A step of a memory-tile port: it takes the flit at its head, a request of its queue is performed, or a flit leaves. -/
inductive PortPart where
  | take
  | access (j : Nat)
  | send
deriving DecidableEq, Repr

/-- Every step of the device: the 184 forms of the control processor and the 106 events of the table. A form's
condition is its guard `g`; an event names the unit it happens at and what arrives from outside. -/
inductive Instr where
  /-- R147. Does nothing; only last-use vacancies take effect. -/
  | nop (g : Guard)
  /-- R150. Privileged; stops instruction issue until COLDRESET, WARMRESET or freeing of the core. -/
  | halt (g : Guard)
  /-- R147. Raises TRAPI with KTVAL holding the 16-bit code. -/
  | trap (g : Guard) (code : BitVec 16)
  /-- R149. Privileged; returns from a trap to KEPC and restores KSTAT.SYS from PSYS. -/
  | tret (g : Guard)
  /-- R148. Stops issue until an event enabled in KEVT holds, using the wake latch. -/
  | wait (g : Guard)
  /-- R147. Raises BRK with KTVAL holding the 16-bit code. -/
  | brk (g : Guard) (code : BitVec 16)
  /-- R151. Writes A + B modulo 2^64. -/
  | add (g : Guard) (d : Reg) (a b : Src)
  /-- R151. Writes A - B modulo 2^64. -/
  | sub (g : Guard) (d : Reg) (a b : Src)
  /-- R151. Writes A & B. -/
  | and (g : Guard) (d : Reg) (a b : Src)
  /-- R151. Writes A | B. -/
  | or (g : Guard) (d : Reg) (a b : Src)
  /-- R151. Writes A ^ B. -/
  | xor (g : Guard) (d : Reg) (a b : Src)
  /-- R151. Writes A & ~B. -/
  | andn (g : Guard) (d : Reg) (a b : Src)
  /-- R151. Shifts A left by B[5:0]. -/
  | shl (g : Guard) (d : Reg) (a b : Src)
  /-- R151. Shifts A right logically by B[5:0]. -/
  | shr (g : Guard) (d : Reg) (a b : Src)
  /-- R151. Shifts A right arithmetically by B[5:0]. -/
  | sra (g : Guard) (d : Reg) (a b : Src)
  /-- R151. Rotates A left by B[5:0]. -/
  | rol (g : Guard) (d : Reg) (a b : Src)
  /-- R151. Writes the signed smaller of A and B. -/
  | min (g : Guard) (d : Reg) (a b : Src)
  /-- R151. Writes the signed larger of A and B. -/
  | max (g : Guard) (d : Reg) (a b : Src)
  /-- R151. Writes the unsigned smaller of A and B. -/
  | minz (g : Guard) (d : Reg) (a b : Src)
  /-- R151. Writes the unsigned larger of A and B. -/
  | maxz (g : Guard) (d : Reg) (a b : Src)
  /-- R151. Writes the low 64 bits of A × B. -/
  | mul (g : Guard) (d : Reg) (a b : Src)
  /-- R151. Writes the high 64 bits of the signed product. -/
  | mulh (g : Guard) (d : Reg) (a b : Src)
  /-- R151. Writes the high 64 bits of the unsigned product. -/
  | mulhz (g : Guard) (d : Reg) (a b : Src)
  /-- R152. Signed division truncating toward zero, with defined results for zero and overflow. -/
  | div (g : Guard) (d : Reg) (a b : Src)
  /-- R152. Unsigned division, all ones for a zero divisor. -/
  | divz (g : Guard) (d : Reg) (a b : Src)
  /-- R152. Signed remainder with defined results for zero and overflow. -/
  | rem (g : Guard) (d : Reg) (a b : Src)
  /-- R152. Unsigned remainder, A for a zero divisor. -/
  | remz (g : Guard) (d : Reg) (a b : Src)
  /-- R151. Counts leading zero bits of A. -/
  | clz (g : Guard) (d : Reg) (a : Src)
  /-- R151. Counts trailing zero bits of A. -/
  | ctz (g : Guard) (d : Reg) (a : Src)
  /-- R151. Counts one bits of A. -/
  | popc (g : Guard) (d : Reg) (a : Src)
  /-- R151. Writes A if predicate C is true, else B. -/
  | sel (g : Guard) (d : Reg) (a b : Src) (p : PReg)
  /-- R153. Extracts a bit field from the 128-bit pair B:A. -/
  | bext (g : Guard) (d : Reg) (a b c : Src)
  /-- R153. Inserts the low bits of B into a field of A. -/
  | bins (g : Guard) (d : Reg) (a b c : Src)
  /-- R154. Adds a sign-extended immediate to A. -/
  | addi (g : Guard) (d : Reg) (a : Src) (imm : BitVec 37)
  /-- R154. ANDs A with a sign-extended immediate. -/
  | andi (g : Guard) (d : Reg) (a : Src) (imm : BitVec 37)
  /-- R154. ORs A with a sign-extended immediate. -/
  | ori (g : Guard) (d : Reg) (a : Src) (imm : BitVec 37)
  /-- R154. XORs A with a sign-extended immediate. -/
  | xori (g : Guard) (d : Reg) (a : Src) (imm : BitVec 37)
  /-- R154. Shifts A left by an immediate count. -/
  | shli (g : Guard) (d : Reg) (a : Src) (n : BitVec 6)
  /-- R154. Shifts A right logically by an immediate count. -/
  | shri (g : Guard) (d : Reg) (a : Src) (n : BitVec 6)
  /-- R154. Shifts A right arithmetically by an immediate count. -/
  | srai (g : Guard) (d : Reg) (a : Src) (n : BitVec 6)
  /-- R154. Loads a sign-extended 37-bit immediate. -/
  | li (g : Guard) (d : Reg) (imm : BitVec 37)
  /-- R154. Keeps A[36:0] and replaces bits 63:37 with the immediate. -/
  | liH (g : Guard) (d : Reg) (a : Src) (imm : BitVec 27)
  /-- R155. Sets a predicate when A equals B. -/
  | cmpEq (g : Guard) (d : PReg) (a b : Src)
  /-- R155. Sets a predicate when A differs from B. -/
  | cmpNe (g : Guard) (d : PReg) (a b : Src)
  /-- R155. Sets a predicate when A < B, signed. -/
  | cmpLt (g : Guard) (d : PReg) (a b : Src)
  /-- R155. Sets a predicate when A >= B, signed. -/
  | cmpGe (g : Guard) (d : PReg) (a b : Src)
  /-- R155. Sets a predicate when A < B, unsigned. -/
  | cmpLo (g : Guard) (d : PReg) (a b : Src)
  /-- R155. Sets a predicate when A >= B, unsigned. -/
  | cmpHs (g : Guard) (d : PReg) (a b : Src)
  /-- R155. Sets a predicate when A equals the immediate. -/
  | cmpiEq (g : Guard) (d : PReg) (a : Src) (imm : BitVec 37)
  /-- R155. Sets a predicate when A differs from the immediate. -/
  | cmpiNe (g : Guard) (d : PReg) (a : Src) (imm : BitVec 37)
  /-- R155. Sets a predicate when A < immediate, signed. -/
  | cmpiLt (g : Guard) (d : PReg) (a : Src) (imm : BitVec 37)
  /-- R155. Sets a predicate when A >= immediate, signed. -/
  | cmpiGe (g : Guard) (d : PReg) (a : Src) (imm : BitVec 37)
  /-- R155. Sets a predicate when A < immediate, unsigned. -/
  | cmpiLo (g : Guard) (d : PReg) (a : Src) (imm : BitVec 37)
  /-- R155. Sets a predicate when A >= immediate, unsigned. -/
  | cmpiHs (g : Guard) (d : PReg) (a : Src) (imm : BitVec 37)
  /-- R156. Writes pA AND pB to a predicate. -/
  | pand (g : Guard) (d a b : PReg)
  /-- R156. Writes pA OR pB to a predicate. -/
  | por (g : Guard) (d a b : PReg)
  /-- R156. Writes pA XOR pB to a predicate. -/
  | pxor (g : Guard) (d a b : PReg)
  /-- R156. Writes pA AND NOT pB to a predicate. -/
  | pandn (g : Guard) (d a b : PReg)
  /-- R156. Copies one predicate to another. -/
  | pmov (g : Guard) (d a : PReg)
  /-- R156. Writes 1 or 0 to a general register from a predicate. -/
  | pget (g : Guard) (d : Reg) (a : PReg)
  /-- R157. Branches to pc + 8 × OFF32. -/
  | br (g : Guard) (off : BitVec 32)
  /-- R157. Writes the link and branches to the target. -/
  | call (g : Guard) (d : Reg) (off : BitVec 32)
  /-- R157. Jumps to the address in A, trapping ALIGN if misaligned. -/
  | ret (g : Guard) (a : Src)
  /-- R157. Jumps to A and writes the link. -/
  | jr (g : Guard) (d : Reg) (a : Src)
  /-- R158. Decrements a counter register and branches while it stays non-zero. -/
  | loop (g : Guard) (b : Reg) (off : BitVec 32)
  /-- R225. Loads a sign-extended byte after translation and region checks. -/
  | ldS8 (g : Guard) (d : Reg) (m : MemOp)
  /-- R225. Loads a zero-extended byte. -/
  | ldZ8 (g : Guard) (d : Reg) (m : MemOp)
  /-- R225. Loads a sign-extended halfword. -/
  | ldS16 (g : Guard) (d : Reg) (m : MemOp)
  /-- R225. Loads a zero-extended halfword. -/
  | ldZ16 (g : Guard) (d : Reg) (m : MemOp)
  /-- R225. Loads a sign-extended word. -/
  | ldS32 (g : Guard) (d : Reg) (m : MemOp)
  /-- R225. Loads a zero-extended word. -/
  | ldZ32 (g : Guard) (d : Reg) (m : MemOp)
  /-- R225. Loads a doubleword. -/
  | ld64 (g : Guard) (d : Reg) (m : MemOp)
  /-- R228. Posts a byte store after translation and region checks. -/
  | st8 (g : Guard) (v : Src) (m : MemOp)
  /-- R228. Posts a halfword store. -/
  | st16 (g : Guard) (v : Src) (m : MemOp)
  /-- R228. Posts a word store. -/
  | st32 (g : Guard) (v : Src) (m : MemOp)
  /-- R228. Posts a doubleword store. -/
  | st64 (g : Guard) (v : Src) (m : MemOp)
  /-- R230. Atomically adds B to a 64-bit location and returns the old value. -/
  | amoAdd64 (g : Guard) (d : Reg) (b : Src) (m : AmoOperand)
  /-- R230. Atomic signed minimum on a 64-bit location. -/
  | amoMin64 (g : Guard) (d : Reg) (b : Src) (m : AmoOperand)
  /-- R230. Atomic signed maximum on a 64-bit location. -/
  | amoMax64 (g : Guard) (d : Reg) (b : Src) (m : AmoOperand)
  /-- R230. Atomic unsigned minimum on a 64-bit location. -/
  | amoMinz64 (g : Guard) (d : Reg) (b : Src) (m : AmoOperand)
  /-- R230. Atomic unsigned maximum on a 64-bit location. -/
  | amoMaxz64 (g : Guard) (d : Reg) (b : Src) (m : AmoOperand)
  /-- R230. Atomic AND on a 64-bit location. -/
  | amoAnd64 (g : Guard) (d : Reg) (b : Src) (m : AmoOperand)
  /-- R230. Atomic OR on a 64-bit location. -/
  | amoOr64 (g : Guard) (d : Reg) (b : Src) (m : AmoOperand)
  /-- R230. Atomic XOR on a 64-bit location. -/
  | amoXor64 (g : Guard) (d : Reg) (b : Src) (m : AmoOperand)
  /-- R230. Atomic swap of a 64-bit location. -/
  | amoSwap64 (g : Guard) (d : Reg) (b : Src) (m : AmoOperand)
  /-- R230. Atomic compare-and-swap of a 64-bit location. -/
  | amoCas64 (g : Guard) (d : Reg) (b : Src) (m : AmoOperand)
  /-- R231. Atomic binary64 add rounded by RNE. -/
  | amoFadd64 (g : Guard) (d : Reg) (b : Src) (m : AmoOperand)
  /-- R230. Atomically adds B to a 32-bit location. -/
  | amoAdd32 (g : Guard) (d : Reg) (b : Src) (m : AmoOperand)
  /-- R230. Atomic signed minimum on a 32-bit location. -/
  | amoMin32 (g : Guard) (d : Reg) (b : Src) (m : AmoOperand)
  /-- R230. Atomic signed maximum on a 32-bit location. -/
  | amoMax32 (g : Guard) (d : Reg) (b : Src) (m : AmoOperand)
  /-- R230. Atomic unsigned minimum on a 32-bit location. -/
  | amoMinz32 (g : Guard) (d : Reg) (b : Src) (m : AmoOperand)
  /-- R230. Atomic unsigned maximum on a 32-bit location. -/
  | amoMaxz32 (g : Guard) (d : Reg) (b : Src) (m : AmoOperand)
  /-- R230. Atomic AND on a 32-bit location. -/
  | amoAnd32 (g : Guard) (d : Reg) (b : Src) (m : AmoOperand)
  /-- R230. Atomic OR on a 32-bit location. -/
  | amoOr32 (g : Guard) (d : Reg) (b : Src) (m : AmoOperand)
  /-- R230. Atomic XOR on a 32-bit location. -/
  | amoXor32 (g : Guard) (d : Reg) (b : Src) (m : AmoOperand)
  /-- R230. Atomic swap of a 32-bit location. -/
  | amoSwap32 (g : Guard) (d : Reg) (b : Src) (m : AmoOperand)
  /-- R230. Atomic compare-and-swap of a 32-bit location. -/
  | amoCas32 (g : Guard) (d : Reg) (b : Src) (m : AmoOperand)
  /-- R231. Atomic binary32 add rounded by RNE. -/
  | amoFadd32 (g : Guard) (d : Reg) (b : Src) (m : AmoOperand)
  /-- R232. Orders CP accesses at a scope. -/
  | fence (g : Guard) (sc : BitVec 3)
  /-- R232. Orders CP accesses ahead of later commanded port, stream and engine accesses at a scope. -/
  | fenceX (g : Guard) (sc : BitVec 3)
  /-- R232. Orders earlier CP stores ahead of later configuration and program-page fills. -/
  | fenceCfg (g : Guard)
  /-- R160. Reads a k-register into a general register. -/
  | krd (g : Guard) (d : Reg) (k : KReg)
  /-- R160. Writes a k-register field by field according to access codes. -/
  | kwr (g : Guard) (k : KReg) (a : Src)
  /-- R160. Sets bits of RW fields of a k-register. -/
  | kset (g : Guard) (k : KReg) (a : Src)
  /-- R160. Clears bits of RW and W1C fields of a k-register. -/
  | kclr (g : Guard) (k : KReg) (a : Src)
  /-- R164. Scalar floating add rounded by KFPM.RM. -/
  | fadd (g : Guard) (f : Prec) (d : Reg) (a b : Src)
  /-- R164. Scalar floating subtract. -/
  | fsub (g : Guard) (f : Prec) (d : Reg) (a b : Src)
  /-- R164. Scalar floating multiply. -/
  | fmul (g : Guard) (f : Prec) (d : Reg) (a b : Src)
  /-- R164. Scalar floating divide. -/
  | fdiv (g : Guard) (f : Prec) (d : Reg) (a b : Src)
  /-- R164. Scalar floating square root. -/
  | fsqrt (g : Guard) (f : Prec) (d : Reg) (a : Src)
  /-- R164. Scalar fused multiply-add with one rounding. -/
  | ffma (g : Guard) (f : Prec) (d : Reg) (a b c : Src)
  /-- R165. Scalar floating minimum with NaN and signed-zero rules. -/
  | fmin (g : Guard) (f : Prec) (d : Reg) (a b : Src)
  /-- R165. Scalar floating maximum with NaN and signed-zero rules. -/
  | fmax (g : Guard) (f : Prec) (d : Reg) (a b : Src)
  /-- R166. Compares two floating values and writes a predicate. -/
  | fcmp (g : Guard) (f : Prec) (rel : FRel) (d : PReg) (a b : Src)
  /-- R167. Converts between floating and integer formats. -/
  | fcvt (g : Guard) (f : Prec) (fromInt : Bool) (n : FNum) (d : Reg) (a : Src)
  /-- R168. Writes a one-hot class mask of a floating value. -/
  | fclass (g : Guard) (f : Prec) (d : Reg) (a : Src)
  /-- R372. Makes an image resident and pinned in the configuration cache. -/
  | cfgFetch (g : Guard) (d : Reg) (u : CfgUnit) (a : Src)
  /-- R372. Fetches, validates and installs an image's frames into named nodes. -/
  | cfgLoad (g : Guard) (d : Reg) (u : CfgUnit) (a : Src)
  /-- R373. Removes cached image blocks or clears context slots of a tag, draining or discarding. -/
  | cfgEvict (g : Guard) (d : Reg) (u : CfgUnit) (a : Src) (mode : BitVec 2) (tag : BitVec 8)
  /-- R374. Emits an image as configuration flits through an inbound generator. -/
  | cfgInband (g : Guard) (d : Reg) (ag : Fin 4) (a : Src)
  /-- R376. Reads a slot's frame quarter, slot word or a directory entry. -/
  | cfgProbe (g : Guard) (d : Reg) (u : CfgUnit) (sel : BitVec 7)
  /-- R377. Sets KCTX and returns the old tag. -/
  | cfgTag (g : Guard) (d : Reg) (tag : BitVec 8)
  /-- R299. Captures a shape record and starts an inbound stream. -/
  | strmRd (g : Guard) (d : Reg) (ag : Fin 4) (a b c : Src) (slot : Fin 4) (defer : Bool)
  /-- R299. Captures a shape record and starts an outbound stream. -/
  | strmWr (g : Guard) (d : Reg) (ag : Fin 4) (a b c : Src) (slot : Fin 4) (defer : Bool)
  /-- R293. Starts an indirect stream driven by indices from a stream buffer. -/
  | strmInd (g : Guard) (d : Reg) (ag : Fin 4) (a b c : Src) (slot : Fin 4) (defer : Bool)
  /-- R302. Starts a stream over a memory holding one constant value. -/
  | strmCst (g : Guard) (d : Reg) (ag : Fin 8) (a b c : Src) (slot : Fin 4) (defer : Bool)
  /-- R299. Starts a stream reusing the record captured by an earlier handle. -/
  | strmRec (g : Guard) (d : Reg) (ag : Fin 8) (a b c : Src) (slot : Fin 4) (defer : Bool)
  /-- R304. Cancels a stream, stopping further elements. -/
  | strmCancel (g : Guard) (d : Reg) (ag : Fin 8) (a : Src)
  /-- R303. Returns a stream's state and counters. -/
  | strmStat (g : Guard) (d : Reg) (ag : Fin 8) (a : Src)
  /-- R306. Waits until named inbound streams' reads are performed. -/
  | barRd (g : Guard) (d : Reg) (u : BarUnit)
  /-- R306. Waits until named outbound streams' writes are performed. -/
  | barWr (g : Guard) (d : Reg) (u : BarUnit)
  /-- R378. Waits for loads to end or for a tag to drain. -/
  | barCfg (g : Guard) (d : Reg) (u : CfgUnit) (drain : Bool) (tag : BitVec 8)
  /-- R306. Waits for every stream and template copy of the core. -/
  | barAll (g : Guard) (d : Reg)
  /-- R307. Launches or cancels a deferred stream by a predicate or a decider. -/
  | barIf (g : Guard) (d : Reg) (ag : Fin 8) (a : Src) (cond : BarCond)
  /-- R437. Overwrites a runtime counter of a controller slot. -/
  | ctlSet (g : Guard) (d : Reg) (ct : Fin 8) (a : Src) (n : BitVec 2)
  /-- R437. Starts a root controller's run with a permit. -/
  | ctlGo (g : Guard) (d : Reg) (ct : Fin 8)
  /-- R437. Waits until a controller slot is not running. -/
  | ctlWait (g : Guard) (d : Reg) (ct : Fin 8)
  /-- R434. Marks a controller and its descendants aborting. -/
  | ctlAbort (g : Guard) (d : Reg) (ct : Fin 8)
  /-- R315. Captures an arming record and arms a template. -/
  | tplArm (g : Guard) (d : Reg) (tm : Fin 16) (a : Src)
  /-- R315. Disarms a template, or makes a disarm pending. -/
  | tplDisarm (g : Guard) (d : Reg) (tm : Fin 16)
  /-- R315. Pushes an entry onto the template's firing queue. -/
  | tplFire (g : Guard) (d : Reg) (tm : Fin 16) (a : Src)
  /-- R317. Returns a template's status word. -/
  | tplStat (g : Guard) (d : Reg) (tm : Fin 16)
  /-- R311. Pushes a word into a stream buffer or firing queue, waiting for room. -/
  | qPush (g : Guard) (d : Reg) (q : QUnit) (a : Src) (last : Bool)
  /-- R311. Pops or peeks an entry of a stream buffer or firing queue, waiting for one. -/
  | qPop (g : Guard) (d : Reg) (q : QUnit) (peek : Bool)
  /-- R312. Returns a buffer's space and fill counts. -/
  | qSpace (g : Guard) (d : Reg) (q : QUnit)
  /-- R311. Waits until fill or space reaches a value. -/
  | qWait (g : Guard) (d : Reg) (q : QUnit) (a : Src) (space : Bool)
  /-- R441. Atomically sets NEXT and SERVE of a semaphore. -/
  | semInit (g : Guard) (d : Reg) (a b : Src)
  /-- R441. Takes a ticket and waits until SERVE reaches it, optionally pushing a ticket token. -/
  | semTake (g : Guard) (d : Reg) (a : Src) (tok : Bool) (sb : Fin 16)
  /-- R441. Waits until SERVE reaches a given value; an acquire. -/
  | semWait (g : Guard) (d : Reg) (a b : Src)
  /-- R441. Atomically advances SERVE; a release. -/
  | semAdv (g : Guard) (d : Reg) (a : Src) (n : BitVec 16)
  /-- R189. Checks a matrix token payload and posts it to the token queue. -/
  | mxTok (g : Guard) (d : Reg) (a : Src)
  /-- R190. Reads one accumulator element in queue order. -/
  | mxAccrd (g : Guard) (d : Reg) (acc : Fin 4) (row col : BitVec 6)
  /-- R191. Posts an acc.clr token for a whole array. -/
  | mxAccclr (g : Guard) (d : Reg) (acc : Fin 4)
  /-- R192. Returns the matrix unit's status word. -/
  | mxStat (g : Guard) (d : Reg)
  /-- R343. Captures a descriptor and issues a reducing collective. -/
  | collRed (g : Guard) (d : Reg) (a : Src)
  /-- R343. Issues an attention-triple reduction or ring rotation. -/
  | collAttn (g : Guard) (d : Reg) (a : Src)
  /-- R351. Issues a gather collective. -/
  | collGath (g : Guard) (d : Reg) (a : Src)
  /-- R351. Issues a scatter collective. -/
  | collScat (g : Guard) (d : Reg) (a : Src)
  /-- R351. Issues a broadcast collective. -/
  | collBcast (g : Guard) (d : Reg) (a : Src)
  /-- R351. Issues an all-to-all collective. -/
  | collA2a (g : Guard) (d : Reg) (a : Src)
  /-- R345. Waits for a collective's local part, frees its slot and returns the result. -/
  | collWait (g : Guard) (d : Reg) (a : Src)
  /-- R406. Captures a box record and takes ownership of the pair engine. -/
  | pairBox (g : Guard) (d : Reg) (a : Src)
  /-- R409. Bins every particle into the cell grid. -/
  | pairBin (g : Guard) (d : Reg)
  /-- R410. Scans home cells and streams neighbour pairs into a stream buffer. -/
  | pairScan (g : Guard) (d : Reg) (a b : Src) (sb : Fin 16) (dig : Bool)
  /-- R416. Returns the pair engine's status. -/
  | pairStat (g : Guard) (d : Reg)
  /-- R414. Stops a running operation and frees the engine. -/
  | pairClr (g : Guard) (d : Reg)
  /-- R422. Allocates a KV page for a sequence block. -/
  | kvAlloc (g : Guard) (d : Reg) (a : Src)
  /-- R423. Unmaps a block, or every block of a sequence, decrementing page counts. -/
  | kvFree (g : Guard) (d : Reg) (a : Src) (all : Bool)
  /-- R424. Maps a destination block to a source block's page, copying at count saturation. -/
  | kvShare (g : Guard) (d : Reg) (a b : Src)
  /-- R425. Returns the page address of a block. -/
  | kvMap (g : Guard) (d : Reg) (a : Src)
  /-- R425. Sets or clears a die's limit register for a sequence. -/
  | kvLimit (g : Guard) (d : Reg) (a b : Src) (clr : Bool)
  /-- R425. Moves free pages from the issuing die to another die's free list. -/
  | kvLend (g : Guard) (d : Reg) (a b : Src)
  /-- R329. Reads a task record and pushes it to a task queue. -/
  | taskSpawn (g : Guard) (d : Reg) (q : Fin 16) (a : Src)
  /-- R330. Cancels deferred streams, waits as bar.all and marks the core done. -/
  | taskDone (g : Guard)
  /-- R333. Freezes the group when a waiting task of equal or higher priority has no placement. -/
  | taskYield (g : Guard) (d : Reg)
  /-- R331. Returns a word of the bound task's captured record. -/
  | taskArg (g : Guard) (d : Reg) (n : BitVec 4)
  /-- R332. Cancels a waiting, ready or frozen task. -/
  | taskCancel (g : Guard) (d : Reg) (a : Src)
  /-- R461. Freezes another running task's group into an image at a physical address. -/
  | frzSave (g : Guard) (d : Reg) (a b : Src)
  /-- R462. Registers a freeze image as a new FROZEN task. -/
  | frzLoad (g : Guard) (d : Reg) (a : Src) (q : Fin 16)
  /-- R447. Reads, or waits for, the group's quiescence verdict. -/
  | quiPoll (g : Guard) (d : Reg) (wait : Bool)
  /-- R447. Reads a performance, dependence, rotation or corrected-error counter. -/
  | quiRep (g : Guard) (d : Reg) (a : Src) (sel : BitVec 2)
  /-- R388. Invalidates cached translations within a scope. -/
  | xlatInv (g : Guard) (d : Reg) (a b : Src) (scope : BitVec 3) (mode : BitVec 2)
  /-- R389. Walks an address under a root without using TLBs. -/
  | xlatProbe (g : Guard) (d : Reg) (a b : Src) (leaf : Bool)
  /-- R390. Resumes a withheld stream, copy or engine at its faulting element. -/
  | xlatRes (g : Guard) (d : Reg) (ag : Fin 8) (a : Src) (target : BitVec 2)
  -- Events: whole steps without an instruction word (95_what_each_step_holds.md).
  /-- R169. A command's or load's return value is written to its pending destination register. -/
  | pendingResultWrite (c : CoreIx) (r : Reg)
  /-- R148. A standing wait ends when an enabled event holds, clearing enabled latch bits. -/
  | waitEnd (c : CoreIx)
  /-- R215. A stream barrier or task.done wait ends once the named accesses are performed. -/
  | barrierEnd (c : CoreIx)
  /-- R232. An access held behind a fence issues once the fence's ordering is met. -/
  | fenceResume (c : CoreIx)
  /-- R311. A queue form standing at issue completes when room, an entry or the awaited count appears. -/
  | queueFormResume (c : CoreIx)
  /-- R437. ctl.wait returns when its controller stops running. -/
  | ctlWaitEnd (c : CoreIx)
  /-- R345. coll.wait returns when the local part completes or fails. -/
  | collWaitEnd (c : CoreIx)
  /-- R447. A waiting qui.poll returns when a verdict forms. -/
  | quiPollWaitEnd (c : CoreIx)
  /-- R442. A waiting semaphore form tests again after a write to the word is performed. -/
  | semRetest (c : CoreIx)
  /-- R450. The highest-priority pending asynchronous trap is taken at an instruction boundary. -/
  | asyncTrap (c : CoreIx)
  /-- R369. A missed instruction page is filled into the configuration cache, or the fetch traps. -/
  | programPageFill (c : CoreIx)
  /-- R199. A bank serves one request per cycle round-robin over its requesters and performs it. -/
  | bankAccess (who : Requester) (id seg : Nat)
  /-- R248. A router moves flits from up to four inputs to outputs with room, round-robin. -/
  | routerForward (c : CoreIx) (rt : Fin 16)
  /-- R88. A KILL reaches a producer, which stops the element when every consumer has killed it. -/
  | kill (c : CoreIx) (pe : Fin 16)
  /-- R254. A KILL leaves a kill return queue and is forwarded upstream, renumbered. -/
  | killReturn (c : CoreIx) (ch : ChanId)
  /-- R267. A PE fires on the heads of its operand channels, or stops with CFGERR. -/
  | peFire (c : CoreIx) (pe : Fin 16)
  /-- R269. A digit operator consumes arrived operand digits and emits its next header, body or end flit. -/
  | digitEmit (c : CoreIx) (pe : Fin 16)
  /-- R259. A steer operator forwards one data record by its decider. -/
  | steer (c : CoreIx) (rt : Fin 16)
  /-- R259. A carry operator forwards an initial or back-edge record by its decider. -/
  | carry (c : CoreIx) (rt : Fin 16)
  /-- R259. An invariant operator re-emits a held record while its decider is true. -/
  | invar (c : CoreIx) (rt : Fin 16)
  /-- R259. A merge operator forwards a record from one of two inputs by its decider. -/
  | merge (c : CoreIx) (rt : Fin 16)
  /-- R260. A join operator compares two keyed heads and takes the configured actions. -/
  | join (c : CoreIx) (rt : Fin 16)
  /-- R261. An order operator forwards the record with the expected sequence number. -/
  | order (c : CoreIx) (rt : Fin 16)
  /-- R262. An arb operator forwards a whole record round-robin or by ticket schedule. -/
  | arb (c : CoreIx) (rt : Fin 16)
  /-- R402. tagin opens a tag space and tags each record, waiting for a free tag. -/
  | tagin (c : CoreIx) (rt : Fin 16)
  /-- R402. tagout frees a record's tag, forwards it and closes a finished space. -/
  | tagout (c : CoreIx) (rt : Fin 16)
  /-- R236. A port performs one read and emits data and a completion flit. -/
  | mld (c : CoreIx) (mt port : Fin 4) (part : PortPart)
  /-- R236. A port performs one write and emits a completion flit. -/
  | mst (c : CoreIx) (mt port : Fin 4) (part : PortPart)
  /-- R238. A port reads a group of up to 64 elements and emits them in order. -/
  | gath (c : CoreIx) (mt port : Fin 4) (part : PortPart)
  /-- R238. A port writes a group of up to 64 elements and emits a completion flit. -/
  | scat (c : CoreIx) (mt port : Fin 4) (part : PortPart)
  /-- R239. A port sends update elements to sparse-update units and emits a completion per record. -/
  | upd (c : CoreIx) (mt port : Fin 4) (part : PortPart)
  /-- R242. A port decrements dependence counts, emitting ready flits for counts reaching zero. -/
  | dep (c : CoreIx) (mt port : Fin 4) (part : PortPart)
  /-- R240. A sparse-update unit applies or merges window elements atomically. -/
  | sparseUpdateApply (c : CoreIx) (mt : Fin 4) (bank : Fin 16) (i : Nat) (into : Option Nat)
  /-- R176. A channel token enters the matrix token queue with a sequence number. -/
  | mxTokenEnqueue (c : CoreIx)
  /-- R177. An mma token at the head clears its rectangle and begins folding plane products. -/
  | mma (c : CoreIx)
  /-- R177. An mma.acc token at the head begins folding plane products into its rectangle. -/
  | mmaAcc (c : CoreIx)
  /-- R184. An acc.rd token sends a rectangle of pairs as digit floats into RSB. -/
  | accRd (c : CoreIx)
  /-- R185. An acc.clr token sets its rectangle to (+0, +0). -/
  | accClr (c : CoreIx)
  /-- R178. The matrix unit performs one (q, g, k) fold step over the rectangle. -/
  | matrixStep (c : CoreIx)
  /-- R295. An inbound stream or copy issues and delivers its next element in pattern order. -/
  | streamElement (c : CoreIx) (ag : Fin 8) (slot : Fin 4)
  /-- R296. An outbound stream consumes an element and writes it in its stored format. -/
  | streamWrite (c : CoreIx) (ag : Fin 8) (slot : Fin 4)
  /-- R296. When every write is performed the stream is DONE and emits its fire token. -/
  | streamDone (c : CoreIx) (ag : Fin 8) (slot : Fin 4)
  /-- R304. A cancelled stream becomes CANCELLED once issued accesses are performed. -/
  | streamCancelComplete (c : CoreIx) (ag : Fin 8) (slot : Fin 4)
  /-- R307. A DECIDING stream pops its decider and launches or cancels. -/
  | barIfDecide (c : CoreIx) (ag : Fin 8) (slot : Fin 4)
  /-- R382. The cluster walker walks the page tables for a missed translation. -/
  | pageWalk (c : CoreIx) (va : Word)
  /-- R316. An armed template takes an entry from its firing queue and starts a copy. -/
  | templateFiring (c : CoreIx) (tm : Fin 16)
  /-- R316. A copy's last write is performed, its fire token is emitted and the template's next state is set. -/
  | copyEnd (c : CoreIx) (tm : Fin 16)
  /-- R319. A compressing copy starts its next phase once the previous phase's writes are performed. -/
  | compressPhase (c : CoreIx) (tm : Fin 16)
  /-- R309. A stream buffer's push port takes one request and adds bytes or a flit. -/
  | sbPush (c : CoreIx) (sb : Fin 16)
  /-- R309. A stream buffer's pop port takes one request and removes bytes or a flit. -/
  | sbPop (c : CoreIx) (sb : Fin 16)
  /-- R363. A frame is installed into a slot once its old tag has no tokens resident. -/
  | frameInstall (c : CoreIx) (i : Nat)
  /-- R364. A flit with no matching slot makes the node fetch its frame from the configuration cache. -/
  | demandFill (c : CoreIx) (node : NodeId)
  /-- R375. An in-band configuration record reaches a router or endpoint and is installed or forwarded. -/
  | configRecord (c : CoreIx) (node : NodeId)
  /-- R373. A mode-1 evict clears a slot once its tag has no tokens resident. -/
  | evictDrainClear (c : CoreIx) (i : Nat)
  /-- R431. A controller receives a permit and begins or continues a run. -/
  | permit (c : CoreIx) (ct : Fin 8)
  /-- R431. A done token reaches a parent, completing an iteration or run. -/
  | doneToken (c : CoreIx) (ct : Fin 8)
  /-- R432. A leaf controller opens its next iteration. -/
  | iterationOpen (c : CoreIx) (ct : Fin 8)
  /-- R47. When every detector's count reaches 1,024 a completion or DEADLOCK verdict forms. -/
  | quiescenceVerdict (c : CoreIx)
  /-- R47. Four cycles after a DEADLOCK verdict, CPs with a root not done take the trap. -/
  | deadlockTrap (c : CoreIx)
  /-- R102. An instruction word with a reserved major or minor opcode, a non-zero must-be-zero field or a reserved handle raises ILLOP. -/
  | reservedOpcode (w : Word)
  /-- R139. Each fabric cycle KCYC rises by one, idle quiescence detector counters rise, and per-cycle performance counters count. -/
  | fabricCycle
  /-- R325. A WAITING task becomes READY when its counter begins a cycle at zero. -/
  | taskReady (d : DieIx) (q : Fin 16) (slot : BitVec 8)
  /-- R334. The scheduler binds or thaws at most one task onto a free placement. -/
  | schedulerBind (d : DieIx)
  /-- R40. After 64 µs at priority 3 with no placement, a victim group is frozen. -/
  | preempt (d : DieIx)
  /-- R41. A freeze wave stops a group, performs its requests and writes its image. -/
  | freeze (d : DieIx)
  /-- R330. When the last core is done, writes are performed, successors signalled and cores freed. -/
  | taskRetire (d : DieIx) (q : Fin 16) (slot : BitVec 8)
  /-- R341. A collective's rendezvous completes when every rank has issued it, or fails with MISMATCH. -/
  | collRendezvous (team : BitVec 16) (r : Rendezvous)
  /-- R349. A station combines contributions by tree or arrival and writes results. -/
  | collCombine (team seq : BitVec 16) (t : Arrival)
  /-- R413. The pair engine reads a home cell's positions, checks staleness and tests its pairs. -/
  | pairHomeCell (k : ClusterIx)
  /-- R412. A pair record is pushed into the scan's stream buffer when room allows. -/
  | pairRecordPush (k : ClusterIx)
  /-- R418. A KV request at a die is handled, forwarded along the chain or failed. -/
  | kvRequestRoute (i : Nat)
  /-- R394. A record arrives at a Plain element input or pass over a link. -/
  | plainDelivery (k : ClusterIx) (i : Nat)
  /-- R396. A Plain element fires on records with one match key at every used input. -/
  | plainElementFire (k : ClusterIx) (e : Fin 128)
  /-- R228. A posted store fails at its home and an asynchronous ECCU or REMOTE trap is made pending. -/
  | storeHomeFailure (c : CoreIx) (id : Nat)
  /-- R399. A pass takes a tag word and record from the grid into the Plain. -/
  | passInbound (c : CoreIx)
  /-- R400. A pass releases a record from the Plain into the grid, in allocation order when ORD = 1. -/
  | passOutbound (c : CoreIx)
  /-- R355. A ring pass pushes K and V blocks and a rotation-counter token when room allows. -/
  | ringPass (c : CoreIx) (slot : Fin 8)
  /-- R204. Fundamental reset zeroes memories and resets all state. -/
  | coldreset
  /-- R463. FLR, hot reset or RESETCTL.WARM resets state while keeping memories, KTIME and latched registers. -/
  | warmreset
  /-- R471. After COLDRESET the management controller verifies and runs the firmware image. -/
  | boot
  /-- R472. RECLEN.GO in RECOVERY fetches and verifies a recovery image from the host. -/
  | recoveryFetch
  /-- R473. An SPDM request over DOE returns signed measurements, index 4 taken anew. -/
  | spdmMeasurement (index : Fin 5)
  /-- R464. A host read or write through BAR0 or BAR2 is performed at its home or completes with Unsupported Request. -/
  | hostAccess (r : HostReq)
  /-- R464. A host AtomicOp to BAR2 is performed as the matching atomic. -/
  | hostAtomicop (r : HostAtomic)
  /-- R465. An ATS translation completion fills the host translation cache. -/
  | atsTranslationCompletion (page frame : BitVec 34)
  /-- R465. A host invalidation request removes entries after their accesses are performed. -/
  | atsInvalidation (page : BitVec 34)
  /-- R327. A 64-byte write stages the first half of a task record. -/
  | tqFirstHalfWrite (d : DieIx) (q : Fin 16) (v : BitVec 512)
  /-- R327. A 64-byte write completes a staged record, which is validated and accepted or rejected. -/
  | tqSecondHalfWrite (d : DieIx) (q : Fin 16) (v : BitVec 512)
  /-- R325. A write to a task counter's MMIO register adds its signed value. -/
  | taskCounterWrite (d : DieIx) (t : Fin 1024) (v : BitVec 32)
  /-- R454. A write removes the head record of the die fault queue. -/
  | fqpop (d : DieIx)
  /-- R459. Sets the freeze area, ignored while any image lies in it. -/
  | fzareaWrite (d : DieIx) (v : Word)
  /-- R419. A write to KVBPOOL, KVHPOOL or KVTAB resets the die's pools unless pages are mapped or lent. -/
  | kvPoolWrite (d : DieIx) (r : KvPoolReg) (v : Word)
  /-- R466. A host write to DWBASEn or DWLIMn changes a window unless latched. -/
  | dmaWindowWrite (n : Fin 8) (limit : Bool) (v : Word)
  /-- R466. The first host write of LOCK = 1 latches every DMA window until COLDRESET. -/
  | dwlock (v : Word)
  /-- R470. Sets the package number; EN rising enables Stanum training and sets every KCORE.PKG. -/
  | stlinkWrite (v : Word)
  /-- R469. Writes a Stanum route entry, accepted only while STLINK.EN = 0. -/
  | routeTableWrite (p : Fin 512) (v : BitVec 16)
  /-- R9. A write to an MMIO register without behaviour of its own, applied by its access codes. -/
  | registerWrite (r : PlainReg) (v : Word)
  /-- R474. The package moves to another clock step within the power limit and MAXSTEP. -/
  | clockStepChange
  /-- R475. A supply sag stretches a die's fabric cycles until the supply recovers. -/
  | cycleStretch (d : DieIx)
  /-- R468. A UCIe link that fails to retrain stops every die and reports a fatal error. -/
  | linkRetrainFailure (l : Fin 18)
  /-- R218. A request arriving over Stanum is performed at its home in this package. -/
  | remoteAccess (r : RemoteReq)
  /-- R139. Each nanosecond KTIME rises by one, independent of the clock step. -/
  | ktimeTick
  /-- R475. When a die's supply recovers, the sag sensor releases the stretch of that die's fabric cycles. -/
  | stretchRelease (d : DieIx)
  /-- R469. A Stanum port enabled by STLINK.EN and FUSECAP.LANES finishes training at the fused rate or stays down. -/
  | stanumPortTraining (p : Fin 18) (up : Bool)
  /-- R469. A Stanum request that stays unacknowledged after link-level replay fails at its issuer with REMOTE. -/
  | remoteReplayFailure (c : CoreIx) (id : Nat)
  /-- R465. The host disabling ATS empties the host translation cache. -/
  | atsDisable
deriving DecidableEq, Repr

end Sys2Proof
end

