-- ==== Sys2Proof/Machine/Flags.lean ====
section
/-!
DEFINITION. The scalar floating-point operations with their flags (R162-R168): a result and the flags it raises, in the
order of KFPM.FLAGS: NX, UF, OF, DZ, NV from bit 0.
-/
namespace Sys2Proof.Machine

/-- The flags of KFPM.FLAGS (R163). -/
abbrev FFlags := BitVec 5

/-- Inexact. -/
def flNX : FFlags := 1
/-- Underflow. -/
def flUF : FFlags := 2
/-- Overflow. -/
def flOF : FFlags := 4
/-- Division by zero. -/
def flDZ : FFlags := 8
/-- Invalid operation. -/
def flNV : FFlags := 16

/-- The scalar rounding mode of KFPM.RM (R60 codes 0 to 3). -/
def scalarMode (rm : BitVec 3) : RMode :=
  match rm.toNat with
  | 0 => .rne
  | 1 => .rtz
  | 2 => .rup
  | _ => .rdn

end Sys2Proof.Machine

namespace Sys2Proof
open Machine

/-- The format of a precision (R105). -/
def Prec.fmt : Prec → FFmt
  | .s => .fp32
  | .d => .fp64

/-- An operand: binary32 uses bits 31:0 alone (R105). -/
def Prec.operand (f : Prec) (w : Word) : FVal :=
  match f with
  | .s => FFmt.fp32.read (w.toNat % 2 ^ 32)
  | .d => FFmt.fp64.read w.toNat

/-- The canonical NaN (R162). -/
def Prec.nan (f : Prec) : Word := word f.fmt.nanBits
/-- A signed infinity. -/
def Prec.inf (f : Prec) (neg : Bool) : Word := word (f.fmt.signBit neg + f.fmt.infBits)
/-- A signed zero. -/
def Prec.zero (f : Prec) (neg : Bool) : Word := word (f.fmt.signBit neg)

/-- An operand as `fmin` and `fmax` return it: a binary32 one with bits 63:32 zero (R162, R165). -/
def Prec.clean (f : Prec) (w : Word) : Word :=
  match f with
  | .s => word (w.toNat % 2 ^ 32)
  | .d => w

/-- The least and greatest value of an integer target (R167). -/
def FNum.range : FNum → Int × Int
  | .l => (-2 ^ 63, 2 ^ 63 - 1)
  | .lu => (0, 2 ^ 64 - 1)
  | .w => (-2 ^ 31, 2 ^ 31 - 1)
  | .wu => (0, 2 ^ 32 - 1)
  | _ => (0, 0)

/-- The value of an integer source (R167). -/
def FNum.source (n : FNum) (a : Word) : Int :=
  match n with
  | .l => a.toInt
  | .lu => a.toNat
  | .w => signedOf 32 a.toNat
  | .wu => (a.toNat % 2 ^ 32 : Nat)
  | _ => 0

end Sys2Proof

namespace Sys2Proof.Machine

/-- The value is a signalling NaN. -/
def FVal.isSignalling : FVal → Bool
  | .nan s => s
  | _ => false
/-- The value is a NaN. -/
def FVal.isNan : FVal → Bool
  | .nan _ => true
  | _ => false
/-- The value is an infinity. -/
def FVal.isInf : FVal → Bool
  | .inf _ => true
  | _ => false
/-- The value is a zero. -/
def FVal.isZero : FVal → Bool
  | .fin _ m _ => m == 0
  | _ => false
/-- The sign of a value that is no NaN. -/
def FVal.sign : FVal → Bool
  | .nan _ => false
  | .inf n => n
  | .fin n _ _ => n
/-- The magnitude of a finite value. -/
def FVal.mag : FVal → Mag
  | .fin _ m e => ⟨m, e, false⟩
  | _ => ⟨0, 0, false⟩
/-- The value with its sign changed. -/
def FVal.negate : FVal → FVal
  | .nan s => .nan s
  | .inf n => .inf (!n)
  | .fin n m e => .fin (!n) m e

/-- NV when any of the operands is a signalling NaN (R162). -/
def signallingFlags (xs : List FVal) : FFlags := if xs.any FVal.isSignalling then flNV else 0

/-- A result rounded once, with NX, UF and OF (R162, R163). -/
def fpRound (f : Prec) (md : RMode) (neg : Bool) (x : Mag) : Word × FFlags :=
  let r := f.fmt.round md neg x
  if r.excess then (word (f.fmt.overflow md false neg).1, flOF ||| flNX)
  else (word (f.fmt.signBit neg + r.mag),
    (if r.inexact then flNX else 0) ||| (if r.inexact && r.tiny then flUF else 0))

/-- An exact sum rounded; an exact zero is +0, or -0 under RDN, unless both addends are zeros of one sign (R164). -/
def fpSum (f : Prec) (md : RMode) (x y : FVal) : Word × FFlags :=
  let v := x.dy.add y.dy
  if v.isZero then (f.zero (if x.isZero && y.isZero && x.sign == y.sign then x.sign else md == .rdn), 0)
  else fpRound f md v.isNeg v.mag

/-- Addition of values (R164). -/
def fpAddVal (f : Prec) (md : RMode) (x y : FVal) : Word × FFlags :=
  if x.isNan || y.isNan then (f.nan, signallingFlags [x, y]) else
  match x, y with
  | .inf a, .inf b => if a == b then (f.inf a, 0) else (f.nan, flNV)
  | .inf a, _ => (f.inf a, 0)
  | _, .inf b => (f.inf b, 0)
  | _, _ => fpSum f md x y

/-- `fadd` (R164). -/
def fpAdd (f : Prec) (md : RMode) (a b : Word) : Word × FFlags := fpAddVal f md (f.operand a) (f.operand b)

/-- `fsub` (R164). -/
def fpSub (f : Prec) (md : RMode) (a b : Word) : Word × FFlags := fpAddVal f md (f.operand a) (f.operand b).negate

/-- The exact product of finite values. -/
def FVal.times (x y : FVal) : FVal :=
  match x, y with
  | .fin n m e, .fin n' m' e' => .fin (n != n') (m * m') (e + e')
  | _, _ => .nan false

/-- `fmul` (R164). -/
def fpMul (f : Prec) (md : RMode) (a b : Word) : Word × FFlags :=
  let x := f.operand a
  let y := f.operand b
  let neg := x.sign != y.sign
  if x.isNan || y.isNan then (f.nan, signallingFlags [x, y])
  else if (x.isInf && y.isZero) || (x.isZero && y.isInf) then (f.nan, flNV)
  else if x.isInf || y.isInf then (f.inf neg, 0)
  else if x.isZero || y.isZero then (f.zero neg, 0)
  else fpRound f md neg (x.times y).mag

/-- `fdiv` (R163, R164). -/
def fpDiv (f : Prec) (md : RMode) (a b : Word) : Word × FFlags :=
  let x := f.operand a
  let y := f.operand b
  let neg := x.sign != y.sign
  if x.isNan || y.isNan then (f.nan, signallingFlags [x, y])
  else if (x.isInf && y.isInf) || (x.isZero && y.isZero) then (f.nan, flNV)
  else if x.isInf then (f.inf neg, 0)
  else if y.isInf then (f.zero neg, 0)
  else if y.isZero then (f.inf neg, flDZ)
  else if x.isZero then (f.zero neg, 0)
  else fpRound f md neg (Mag.quot x.mag y.mag (f.fmt.man + 1))

/-- `fsqrt` (R164). -/
def fpSqrt (f : Prec) (md : RMode) (a : Word) : Word × FFlags :=
  let x := f.operand a
  if x.isNan then (f.nan, signallingFlags [x])
  else if x.isZero then (f.zero x.sign, 0)
  else if x.sign then (f.nan, flNV)
  else if x.isInf then (f.inf false, 0)
  else fpRound f md false (Mag.sqrt x.mag (f.fmt.man + 1))

/-- `ffma`: one rounding of A * B + C; 0 * infinity is invalid even beside a quiet NaN (R163, R164). -/
def fpFma (f : Prec) (md : RMode) (a b c : Word) : Word × FFlags :=
  let x := f.operand a
  let y := f.operand b
  let z := f.operand c
  if (x.isInf && y.isZero) || (x.isZero && y.isInf) then (f.nan, flNV)
  else if x.isNan || y.isNan || z.isNan then (f.nan, signallingFlags [x, y, z])
  else if x.isInf || y.isInf then fpAddVal f md (.inf (x.sign != y.sign)) z
  else fpAddVal f md (x.times y) z

/-- x < y for values that are no NaN; `zeros` says whether -0 counts as less than +0 (R165). -/
def FVal.less (zeros : Bool) (x y : FVal) : Bool :=
  match x, y with
  | .nan _, _ => false
  | _, .nan _ => false
  | .inf a, .inf b => a && !b
  | .inf a, .fin _ _ _ => a
  | .fin _ _ _, .inf b => !b
  | .fin a _ _, .fin b _ _ => if x.isZero && y.isZero then zeros && a && !b else x.dy.lt y.dy

/-- `fmin` and `fmax` (R165). -/
def fpMinMax (f : Prec) (isMax : Bool) (a b : Word) : Word × FFlags :=
  let x := f.operand a
  let y := f.operand b
  let r := match x.isNan, y.isNan with
    | true, true => f.nan
    | true, false => f.clean b
    | false, true => f.clean a
    | false, false => if (if isMax then y.less true x else x.less true y) then f.clean a else f.clean b
  (r, signallingFlags [x, y])

/-- `fcmp` (R166). -/
def fpCmp (f : Prec) (rel : FRel) (a b : Word) : Bool × FFlags :=
  let x := f.operand a
  let y := f.operand b
  let nan := x.isNan || y.isNan
  let eq := !nan && !x.less false y && !y.less false x
  let r := match rel with
    | .eq => eq
    | .lt => !nan && x.less false y
    | .le => !nan && (x.less false y || eq)
    | .un => nan
  let nv := match rel with
    | .lt => nan
    | .le => nan
    | _ => x.isSignalling || y.isSignalling
  (r, if nv then flNV else 0)

/-- A floating-point value to an integer (R167). -/
def fpToInt (n : FNum) (md : RMode) (x : FVal) : Word × FFlags :=
  let (lo, hi) := n.range
  match x with
  | .nan _ => (0, flNV)
  | .inf neg => (u64 (if neg then lo else hi), flNV)
  | .fin neg m e =>
    let (r, inexact) := (Mag.mk m e false).roundAt neg md 0
    let v : Int := if neg then -(r : Int) else r
    if v < lo then (u64 lo, flNV)
    else if hi < v then (u64 hi, flNV)
    else (u64 v, if inexact then flNX else 0)

/-- `fcvt` (R105, R167). -/
def fpConvert (f : Prec) (fromInt : Bool) (n : FNum) (md : RMode) (a : Word) : Word × FFlags :=
  if fromInt then
    let v := n.source a
    if v = 0 then (f.zero false, 0) else fpRound f md (decide (v < 0)) ⟨v.natAbs, 0, false⟩
  else
    let x := f.operand a
    let other (g : Prec) : Word × FFlags :=
      match x with
      | .nan s => (g.nan, if s then flNV else 0)
      | .inf neg => (g.inf neg, 0)
      | .fin neg m e => if m = 0 then (g.zero neg, 0) else fpRound g md neg ⟨m, e, false⟩
    match n with
    | .s => other .s
    | .d => other .d
    | _ => fpToInt n md x

/-- `fclass` (R168). -/
def fpClass (f : Prec) (a : Word) : Word :=
  let x := f.operand a
  let bit : Nat := match x with
    | .nan s => if s then 8 else 9
    | .inf neg => if neg then 0 else 7
    | .fin neg m _ =>
      if m = 0 then (if neg then 3 else 4)
      else if m < 2 ^ f.fmt.man then (if neg then 2 else 5)
      else (if neg then 1 else 6)
  word (2 ^ bit)

end Sys2Proof.Machine
end

