-- ==== Sys2Proof/Machine/StateCp.lean ====
section
/-!
DEFINITION. The state of a control processor (07 R134-R139, 08 R144-R150, 12 R224-R232, 22 R449-R451) as plain data.
-/
namespace Sys2Proof.Machine

/-- The general registers and predicates (R134, R135). Bit r of `vac` says that register r is vacant; bit 0 of `preds`
is p0, which reads true whatever the bit holds. -/
structure Regs where
  pc : Word
  g : Vector Word 32
  vac : BitVec 32
  preds : BitVec 8
deriving DecidableEq, Repr

/-- The fields of the k-registers (R139) but for KCORE, KCYC and KTIME, which the device holds. -/
structure KRegs where
  psys : Bool
  sys : Bool
  vread : Bool
  vstrict : Bool
  cause : BitVec 6
  epc : Word
  tval : Word
  tvec : BitVec 61
  scratch : Word
  flags : BitVec 5
  rm : BitVec 3
  evt : BitVec 4
  ctag : BitVec 8
  queue : BitVec 4
  slot : BitVec 8
  first : BitVec 18
  rank : BitVec 7
  shape : BitVec 4
  argbase : Word
  prio : BitVec 2
  verdict : BitVec 2
  qcount : BitVec 11
deriving DecidableEq, Repr

/-- A part of a CP access inside one aligned 16-byte block, performed as one event (R225): `n` bytes at physical address
`pa`, bytes `off` onwards of the access. -/
structure Seg where
  pa : Nat
  off : Nat
  n : Nat
  done : Bool
deriving DecidableEq, Repr

/-- An access of a unit (R198, R208): its number, its address and bytes; for a write the bit, the width and the bits that it
writes (R52); its parts, one for each 16-byte word; for a read the bytes read, the ORIG of a byte that could not be read, and
the offsets of those that could not (R202); and whether it has been counted as not served in its first cycle (R445). -/
structure UAcc where
  id : Nat
  va : Word
  n : Nat
  put : Option (Nat × Nat × Nat)
  segs : List Seg
  got : List (BitVec 8)
  bad : Option Nat
  lost : List Nat
  waited : Bool
deriving DecidableEq, Repr

/-- What a CP access does at its home (R224, R229); `record` reads the `n` bytes from address `va` for a command (R290). -/
inductive CpOp where
  | load (n : Nat) (signed : Bool)
  | store (n : Nat)
  | amo (op : AmoOp) (wide : Bool)
  | record (va n : Nat)
deriving DecidableEq, Repr

/-- A CP access that has issued and is not wholly performed: its operands, the address of its instruction, its
ordering (R211), for a read the register it fills and the bytes read so far, whether it has been counted as not served
in its first cycle (R445), and for a read on the remote path (`far`) the sources whose reads take effect with its return
(R99, R227). A request with `far` lets nothing issue until it has returned (R144, R227). -/
structure CpReq where
  id : Nat
  op : CpOp
  segs : List Seg
  data : Word
  cmp : Word
  dest : Reg
  pc : Word
  ar : Bool
  sc : BitVec 3
  got : List Byte
  waited : Bool
  far : Bool
  srcs : List Src
deriving DecidableEq, Repr

/-- What a fence holds (R211, R212, R232): `fence` CP accesses, `fence.x` commands too, and `fence.cfg` fills. -/
inductive FenceKind where
  | accesses | commands | fills
deriving DecidableEq, Repr

/-- A fence whose ordering is not met: the accesses it waits for (R232), and what it holds. -/
structure Fence where
  ids : List Nat
  kind : FenceKind
deriving DecidableEq, Repr

/-- What a command has read for the form that stands at issue (R290): address, length in bytes, and value. -/
structure RecordGot where
  va : Nat
  n : Nat
  v : Nat
deriving DecidableEq, Repr

/-- A register awaiting a value (R144, R169, R227), whether the work lies outside the core's scope (the last rows of
R39), and the value once it has returned. -/
structure Pend where
  reg : Reg
  outside : Bool
  val : Option Word
deriving DecidableEq, Repr

/-- A semaphore wait (R442): the physical address of the word, the ticket of a `sem.take`, and whether its test has succeeded
and only the push of its ticket token is left. -/
structure SemWait where
  pa : Nat
  ticket : Option (BitVec 32)
  passed : Bool
deriving DecidableEq, Repr

/-- What stands at issue: a form that waits (R39), with the wait of a semaphore form. -/
structure Standing where
  form : Instr
  sem : Option SemWait
deriving DecidableEq, Repr

/-- The slot of the die's scheduler that the core is bound to is `queue` and `slot`: KTASK may differ after a THAW (R142).
Whether and how the control processor issues (R143, R148, R150, R330), and its pending asynchronous traps (R450)
as pairs of cause and KTVAL, with the bit of a pending CFGERR's KTVAL at which an origin id stands (R127, R186, R449).
`told` says that a verdict has been given since the form that stands at issue began to (R378).
`entry` says that the next fetch is that of a trap handler's first instruction (R451);
`issued` is one more than the cycle of the last issue, or 0 (R144); `entered` is one more than the last cycle in which an
entry came into a stream buffer or firing queue of the core, or 0 (R148). -/
structure CpCtl where
  bound : Bool
  queue : BitVec 4
  slot : BitVec 8
  halted : Bool
  done : Bool
  latch1 : Bool
  latch3 : Bool
  standing : Option Standing
  told : Bool
  records : List RecordGot
  traps : List (BitVec 6 × Word)
  cfgAt : Option Nat
  entry : Bool
  issued : Nat
  again : Bool
  entered : Nat
  pend : List Pend
  reqs : List CpReq
  nextId : Nat
  fences : List Fence
  xroot : BitVec 58
deriving DecidableEq, Repr

/-- A control processor. -/
structure Cp where
  regs : Regs
  k : KRegs
  ctl : CpCtl
deriving DecidableEq, Repr

/-- The registers after COLDRESET (R134, R135); the pc is the model's own choice (DESIGN CHOICE, log entry 3). -/
def Regs.reset : Regs := { pc := 0, g := Vector.replicate 32 0, vac := 0xFFFFFFFE, preds := 0 }

/-- The k-registers after COLDRESET (R139). -/
def KRegs.reset : KRegs :=
  { psys := true, sys := true, vread := false, vstrict := false, cause := 0, epc := 0, tval := 0, tvec := 0,
    scratch := 0, flags := 0, rm := 0, evt := 0, ctag := 0, queue := 0, slot := 0, first := 0, rank := 0, shape := 0,
    argbase := 0, prio := 0, verdict := 0, qcount := 0 }

/-- An unbound control processor (R143). -/
def CpCtl.reset : CpCtl :=
  { bound := false, queue := 0, slot := 0, halted := false, done := false, latch1 := false, latch3 := false,
    standing := none, told := false, records := [], traps := [], cfgAt := none, entry := false, issued := 0, again := false, entered := 0, pend := [], reqs := [], nextId := 0, fences := [], xroot := 0 }

/-- A control processor after COLDRESET. -/
def Cp.reset : Cp := { regs := .reset, k := .reset, ctl := .reset }

end Sys2Proof.Machine
end

