-- ==== Sys2Proof/Machine/StateMem.lean ====
section
/-!
DEFINITION. The state of memory, error marks, translations and the configuration cache (10 R193, R202; 18 R366, R384).
-/
namespace Sys2Proof.Machine

/-- The bytes of memory that differ from zero, in rising order of address (R204). A byte of this package stands at its
package-local address, bits 48:0 of R194; a byte of another package at 2^58 plus its global address. -/
abbrev Memory := List Host.Cell

/-- The error a 64-bit half holds (R202): none, one flipped bit, or more. -/
inductive Ecc where
  | clean | single | double
deriving DecidableEq, Repr

/-- A result of a page walk (R382, R384), tagged with the captured XROOT word: the page's first virtual and physical
bytes, its size 4 KiB * 2^k, and its permissions. -/
structure Xlat where
  root : BitVec 58
  va : Nat
  pa : Nat
  k : Nat
  rd : Bool
  wr : Bool
  ex : Bool
  so : Bool
deriving DecidableEq, Repr

/-- A block of the configuration cache (R366, R367): 512 words, which are 128 frames or a program page. `va` is bits
56:5 of its first byte's address; `ecc` marks the words that hold an error (R202); `used` orders the
blocks by their last use. -/
structure CBlock where
  v : Bool
  prog : Bool
  pin : Bool
  va : BitVec 52
  idx : BitVec 5
  words : Tab Word
  ecc : Tab Ecc
  used : Nat
deriving DecidableEq, Repr

/-- An empty block (R367). -/
def CBlock.empty : CBlock :=
  { v := false, prog := false, pin := false, va := 0, idx := 0, words := [], ecc := [], used := 0 }

/-- The configuration cache of a core: its 32 blocks, and the count of uses that orders them. -/
structure Cache where
  blocks : Tab CBlock
  uses : Nat
deriving DecidableEq, Repr

/-- An empty cache. -/
def Cache.reset : Cache := { blocks := [], uses := 0 }

end Sys2Proof.Machine
end

