-- ==== Sys2Proof/Machine/StateGrid.lean ====
section
/-!
DEFINITION. The state of a core's grid as plain data: flits (06 R129), context slots (18 R361), channels and kills (13
R245-R254), router operators (R263), processing elements (14 R289), memory-tile ports (12 R244), controllers (21 R438),
and configuration in progress (18 R363-R378).
-/
namespace Sys2Proof.Machine

/-- A flit (R129): `kind` is 0 word, 1 digit header, 2 digit body, 3 end of element, 4 end of tile, 5 configuration, 6
control, 7 completion. `src` is the model's own, which no wire carries: for a configuration flit 8 * core + generator + 1 of the
`cfg.inband` that emitted it (R378), and 0 for any other. -/
structure Flit where
  pay : Word
  kind : BitVec 3
  ctag : BitVec 8
  tag : BitVec 8
  poison : Bool
  last : Bool
  par : BitVec 3
  src : Nat
deriving DecidableEq, Repr

/-- A context slot (R361, R376): V, CTAG, frame, and INST, the installs since binding. -/
structure Slot where
  v : Bool
  ctag : BitVec 8
  frame : Frame
  inst : BitVec 32
deriving DecidableEq, Repr

/-- An invalid slot. -/
def Slot.reset : Slot := { v := false, ctag := 0, frame := 0, inst := 0 }

/-- How an install arrived, in the order of R365. -/
inductive InstallKind where
  | bulk | inband | demand
deriving DecidableEq, Repr

/-- An install that has not ended (R363): the frame, how it came, the load it belongs to, the channel whose record it came
from plus one (R375), and the `cfg.inband` that emitted it, as a flit's `src`; the cycle in which step 1 was met, plus one, or 0
(R365); whether step 2 is done, and the outputs whose initial tokens are still to be placed, each with the flits of its token
that have entered (R121). -/
structure Install where
  frame : Frame
  kind : InstallKind
  load : Nat
  via : Nat
  src : Nat
  met : Nat
  placed : Bool
  tokens : List (Nat × Nat)
deriving DecidableEq, Repr

/-- A `cfg.load` that has not ended (R370, R372): the unit, none for core; the register; and its installs. -/
structure LoadCmd where
  id : Nat
  node : Option (BitVec 8)
  reg : Option Reg
  left : Nat
  count : Nat
deriving DecidableEq, Repr

/-- A `cfg.evict` of mode 1 or 2 that has not ended (R373): the slots still to be cleared, once they are known. -/
structure EvictCmd where
  id : Nat
  node : Option (BitVec 8)
  discard : Bool
  slots : Option (List Nat)
  tag : BitVec 8
  reg : Reg
  count : Nat
  after : List Nat
deriving DecidableEq, Repr

/-- A `cfg.inband` in emission (R374): its number, the generator, the tag captured, the words still to be emitted with the
CTAG of their frames (R132), the frames of the image, and its place among the generator's commands. -/
structure InbandCmd where
  id : Nat
  ag : Nat
  tag : BitVec 8
  words : List (Word × BitVec 8)
  frames : Nat
  reg : Reg
  order : Nat
deriving DecidableEq, Repr

/-- What a configuration command does that waits for earlier ones (R370): `cfg.fetch`, `cfg.load`, mode 0 of `cfg.evict`,
and `cfg.inband` with its generator, tag and place. -/
inductive CfgWhat where
  | fetch
  | load
  | evict
  | inband (ag : Nat) (tag : BitVec 8) (order : Nat)
deriving DecidableEq, Repr

/-- A configuration command that takes effect after earlier ones to its unit (R370): its number, its unit, none for core, its
address, the mode captured at issue (R383) and register, and the commands that go first. -/
structure CfgWait where
  id : Nat
  what : CfgWhat
  node : Option (BitVec 8)
  va : Nat
  sys : Bool
  reg : Reg
  after : List Nat
deriving DecidableEq, Repr

/-- A load whose failure no `bar.cfg` has reported (R378): a bulk load of a unit, or a frame of `cfg.inband` through a
generator. -/
inductive LoadFail where
  | bulk (node : Option (BitVec 8))
  | inband (ag : Nat)
deriving DecidableEq, Repr

/-- A KILL (R87, R254): the element's number in the channel and its tag (R362), and the position j. -/
structure KillMsg where
  no : BitVec 8
  tag : BitVec 8
  j : Nat
deriving DecidableEq, Repr

/-- A channel (R247, R254): its flits, oldest first; the cycles of the last entry and departure, plus one; the header flits
that have entered, modulo 256; the numbers of the headers that stand in it; the element that has left in part, as its number
and tag; its kill return queue, and the cycle in which a KILL last left it, plus one; where each element in it came from
when a router forwarded it, as the source channel, the number there and the tag; and for a channel that feeds several
outputs the KILLs those outputs have returned for the element that has left in part, with the output. -/
structure Chan where
  flits : List Flit
  lastIn : Nat
  lastOut : Nat
  count : BitVec 8
  nos : List (BitVec 8)
  part : Option (BitVec 8 × BitVec 8)
  kills : List KillMsg
  lastKill : Nat
  source : Tab (Option (Nat × BitVec 8 × BitVec 8))
  returned : List (Nat × KillMsg)
deriving DecidableEq, Repr

/-- An empty channel. -/
def Chan.reset : Chan :=
  { flits := [], lastIn := 0, lastOut := 0, count := 0, nos := [], part := none, kills := [], lastKill := 0, source := [],
    returned := [] }

/-- The state of a router's operator in one slot (R263): LOOP rather than INIT; the held `invar` record and the part of
it still to be re-emitted; the record in progress, as its input, output mask and whether its decider poisons it; an input
whose record is being consumed; the decision of a decider whose record is consumed, and whether it was poisoned; exp; the
schedule position; the last grant; for `join` the actions still to be taken, and the records emitted in the segment;
for the tag operators the open space, its owner level and whether a tag word has been consumed; and whether
the operator has stopped. -/
structure OpState where
  looping : Bool
  held : List Flit
  replay : List Flit
  taking : Option (Nat × Nat × Bool)
  skipping : Option Nat
  decided : Option (Bool × Bool)
  exp : BitVec 16
  turn : Nat
  grant : Nat
  acts : List (Nat × Nat)
  emitted : Nat
  space : Option (BitVec 4)
  begun : Bool
  stopped : Bool
deriving DecidableEq, Repr

/-- Operator state before any install. -/
def OpState.reset : OpState :=
  { looping := false, held := [], replay := [], taking := none, skipping := none, decided := none, exp := 0, turn := 0,
    grant := 2, acts := [], emitted := 0, space := none, begun := false, stopped := false }

/-- A router beside its slots (R248, DESIGN CHOICE, log entry 14): the last input granted before the cycle of its last
transfers, the last granted in that cycle, and that cycle plus one. -/
structure Router where
  grant : Nat
  last : Nat
  moved : Nat
deriving DecidableEq, Repr

/-- A router after COLDRESET: the next grant starts at N. -/
def Router.reset : Router := { grant := 4, last := 4, moved := 0 }

/-- What a PE has taken of one operand (R267): the header, the digits received, the body flits' end and whether that end
carried LAST; or the word; the element's number in its channel; and the position of the KILL sent for it. -/
structure Operand where
  hdr : Option Word
  poison : Bool
  digits : List Int
  ended : Bool
  last : Bool
  word : Option Word
  no : BitVec 8
  killed : Option Nat
deriving DecidableEq, Repr

/-- An operand of which nothing has been taken. -/
def Operand.empty : Operand :=
  { hdr := none, poison := false, digits := [], ended := false, last := false, word := none, no := 0, killed := none }

/-- The element in progress at a PE (R289): the slot it fires under, its operands, the flits decided and not yet
emitted, whether the header has been emitted and whether poisoned, the digits emitted, the position at which every
consumer has killed it and the first cycle in which that acts (R90), and its number in the result channel. -/
structure PeJob where
  slot : Nat
  ctag : BitVec 8
  ops : List Operand
  out : List Flit
  headed : Bool
  badHdr : Bool
  sent : Nat
  stop : Option Nat
  stopAt : Nat
  no : BitVec 8
  drained : Bool
deriving DecidableEq, Repr

/-- The node state of one slot of a PE or Plain element (R289): the `d.acc` pair as bit patterns with its poison and
ORIG, the elements since the last close, the elements rounded (R278), and the firings of `w.cst` (R285). -/
structure PeSlot where
  s : Word
  c : Word
  poison : Option (BitVec 18)
  count : Nat
  rounded : BitVec 48
  fired : Word
deriving DecidableEq, Repr

/-- The state an install gives (R289). -/
def PeSlot.reset : PeSlot := { s := 0, c := 0, poison := none, count := 0, rounded := 0, fired := 0 }

/-- A PE: the element in progress, and whether it has stopped firing (R267). -/
structure Pe where
  job : Option PeJob
  stopped : Bool
deriving DecidableEq, Repr

/-- An idle PE. -/
def Pe.reset : Pe := { job := none, stopped := false }

/-- An element of a sparse-update window (R240, R242): the slot of its port; the records of the elements it stands for,
each with the slot of its port; the offset, operation, size, ORD and operand; and for `dep` the payload and counter. -/
structure UpdElem where
  port : Nat
  records : List (Nat × Nat)
  off : Nat
  op : Nat
  esz : Nat
  ord : Bool
  val : Word
  dep : Option (Word × Nat)
  seq : BitVec 44
deriving DecidableEq, Repr

/-- A record of updates whose completion flit has not left, or an end-of-tile flit behind it (R239, R242): its number, its
SEQ, the elements outstanding, whether the record has ended, and the ready flits that are about to leave. -/
structure PortRec where
  id : Nat
  seq : BitVec 44
  left : Nat
  ended : Bool
  ready : List Flit
  eot : Option Flit
deriving DecidableEq, Repr

/-- A memory-tile port in one slot (R234-R244): the SEQ of the next access, group or record, the flits of the element
being assembled, the elements of the group in progress, the update records whose completion flits have not left, and whether
the port is withheld. -/
structure Port where
  seq : BitVec 44
  taken : List Flit
  group : Nat
  waiting : List PortRec
  withheld : Bool
deriving DecidableEq, Repr

/-- The state an install gives a port. -/
def Port.reset : Port := { seq := 0, taken := [], group := 0, waiting := [], withheld := false }

/-- A request in a port's queue (R199): the slot that fired it, its SEQ, the offset, whether its address is poisoned, its
data, the flit that fired it, whether it ends a group, whether it has stood at the head at the end of a cycle, and the iteration
it fired for, as the key of the controller's slot and the iteration's index (R432). -/
structure PortReq where
  id : Nat
  slot : Nat
  seq : BitVec 44
  off : Nat
  poison : Bool
  data : List Flit
  fired : Flit
  ends : Bool
  waited : Bool
  iter : Option (Nat × Nat)
deriving DecidableEq, Repr

/-- A response in a port's reorder buffer (R200), or its place until it is there: what is still to be sent. -/
structure PortOut where
  id : Nat
  slot : Nat
  ready : Bool
  flits : List Flit
deriving DecidableEq, Repr

/-- The queues of a memory-tile port (R199, R200): the next number, its requests, and its responses in request order. -/
structure PortQ where
  next : Nat
  reqs : List PortReq
  outs : List PortOut
deriving DecidableEq, Repr

/-- A port with nothing queued. -/
def PortQ.reset : PortQ := { next := 0, reqs := [], outs := [] }

/-- A controller slot (R430-R438): rc0-rc2; their values when the run started; permits granted to and dones returned by
each child, as controller and count; iterations some child returned aborted; a leaf's open iterations, oldest first, each
with the ports (as keys) that have still to fire; iterations opened; iterations counted in ITERS and complete; the index
of the permit; and the flags. -/
structure Ctl where
  rc : List (BitVec 52)
  cur : List (BitVec 52)
  granted : Tab Nat
  returned : Tab Nat
  spoiled : List Nat
  opens : List (Nat × List Nat)
  opened : Nat
  complete : Nat
  iters : BitVec 31
  iter : BitVec 32
  running : Bool
  permitted : Bool
  aborting : Bool
  aborted : Bool
  openedAt : Nat
deriving DecidableEq, Repr

/-- A controller slot that has never been started. -/
def Ctl.reset : Ctl :=
  { rc := [], cur := [], granted := [], returned := [], spoiled := [], opens := [], opened := 0, complete := 0, iters := 0,
    iter := 0, running := false, permitted := false, aborting := false, aborted := false, openedAt := 0 }

/-- A token on the controller network (R433), with the first cycle in which it acts. -/
structure CtlToken where
  done : Bool
  cpsrc : Bool
  src : Nat
  dst : Nat
  ctag : BitVec 8
  aborted : Bool
  iter : BitVec 32
  due : Nat
deriving DecidableEq, Repr

/-- The grid of a core. Keys: a node by its key (`fKey`), a slot as 4 * node + slot, a channel by its kind (Grid.lean).
`collect` holds the flits of a configuration record taken from a channel (R375), `mids` names the
tag of one that has been forwarded in part, as 4 * (tag + 1) + 1; `badCfg` lists channels whose record fails by parity or tag. `windows` are by 16 * tile + bank; `dc`
are the dependence counters by 64 * tile + number (R243); `closed` follows a DEADLOCK verdict (R49), which formed at cycle
`verdictAt`; `doom` is the KTVAL of a DEADLOCK trap that is still to come (R47); `act` says that something happened in this
cycle (R47), `moved` that a flit moved (R445). -/
structure Grid where
  slots : Tab Slot
  installs : List Install
  loads : List LoadCmd
  evicts : List EvictCmd
  inbands : List InbandCmd
  waits : List CfgWait
  fails : List LoadFail
  nextLoad : Nat
  withheld : List (Nat × BitVec 8)
  chans : Tab Chan
  collect : Tab (List Flit)
  mids : Tab Nat
  badCfg : List Nat
  ops : Tab OpState
  routers : Tab Router
  pes : Tab Pe
  peSlots : Tab PeSlot
  ports : Tab Port
  portqs : Tab PortQ
  windows : Tab (List UpdElem)
  dc : Tab (BitVec 32)
  ctls : Tab Ctl
  net : List CtlToken
  pcs : Tab (BitVec 48)
  rot : BitVec 32
  lastp : Bool
  closed : Bool
  verdictAt : Nat
  doom : Option Word
  act : Bool
  moved : Bool
deriving DecidableEq, Repr

/-- The grid after COLDRESET. -/
def Grid.reset : Grid :=
  { slots := [], installs := [], loads := [], evicts := [], inbands := [], waits := [], fails := [],
    nextLoad := 0, withheld := [], chans := [], collect := [], mids := [], badCfg := [], ops := [], routers := [], pes := [], peSlots := [],
    ports := [], portqs := [], windows := [], dc := [], ctls := [], net := [], pcs := [], rot := 0, lastp := false,
    closed := false, verdictAt := 0, doom := none, act := false, moved := false }

end Sys2Proof.Machine
end

