-- ==== Sys2Proof/Machine/StateUnits.lean ====
section
/-!
DEFINITION. The state of a core's streams, stream buffers, firing queues and copy templates (15 R321), of its matrix unit
(09 R187) and of its collectives (17 R345), as plain data.
-/
namespace Sys2Proof.Machine

/-- The states of a stream (R303). -/
inductive StreamPhase where
  | idle | deferred | deciding | running | withheld | done | cancelled
deriving DecidableEq, Repr

/-- The decider that a DECIDING stream awaits (R307): buffer, bit and inversion. -/
structure Decider where
  sb : Nat
  dbit : Nat
  inv : Bool
deriving DecidableEq, Repr

/-- Poisoned elements of the tile in progress (R66): their count, and the position and ORIG of the first. -/
structure TilePoison where
  count : Nat
  first : Nat
  orig : BitVec 18
deriving DecidableEq, Repr

/-- No poisoned element. -/
def TilePoison.none : TilePoison := { count := 0, first := 0, orig := 0 }

/-- An element that an outbound transfer has consumed: its exact value as numerator and binary exponent, with the sign
that a header with Z = 1 gives; and the ORIG of its poison. -/
structure Elem where
  num : Int
  exp : Int
  zs : Option Bool
  poison : Option Nat
deriving DecidableEq, Repr

/-- A stored element as it is read: its bits, its scale code, and the ORIG of one that is poisoned whole (R59, R293). -/
structure RawElem where
  raw : Nat
  scale : Nat
  poison : Option Nat
deriving DecidableEq, Repr

/-- What a transfer has issued and not finished (R200, R214): the position it issued at, the elements that are performed with
its accesses, or for an engine the particle, the cell or the address space that they concern, an element that is read from no memory, the bit at which an element stands, its accesses: for the first
element of an MX block that of the scale byte first, then the element's, then those of padding; and whether they are issued:
a link that fails recalls them (R221, R469). -/
structure Flown where
  pos : Nat
  n : Nat
  known : Option RawElem
  bit : Nat
  accs : List UAcc
  issued : Bool
deriving DecidableEq, Repr

/-- A transfer in progress, of a stream or a copy: the position in pattern order, the index in use with its poison
(R293), what it has issued, in order (R200), the flits of elements read and not yet delivered, the flits of an element being
consumed, the values of a block being consumed, the elements of the tile, its poisoned elements, the translation of its page
(R385), the scale byte of the MX block being read, with the ORIG of one that could not be read (R59, R294), and the counters
of R303. -/
structure Xfer where
  pos : Nat
  index : Option (Word × Bool)
  flown : List Flown
  out : List Flit
  bytes : List (List Byte)
  taken : List Flit
  block : List Elem
  tile : Nat
  poison : TilePoison
  xl : Option Xlat
  scale : Option (Nat × Option Nat)
  elem : BitVec 32
  satcnt : BitVec 16
  ovf : Bool
  pois : Bool
deriving DecidableEq, Repr

/-- A transfer that has not begun. -/
def Xfer.reset : Xfer :=
  { pos := 0, index := none, flown := [], out := [], bytes := [], taken := [], block := [], tile := 0, poison := .none, xl := none,
    scale := none, elem := 0, satcnt := 0, ovf := false, pois := false }

/-- A stream slot (R299, R321). `konst` is the constant of a `strm.cst`; `level` the degrade level captured (R476); `sys`
the mode captured at issue (R383);
`cancel` the destinations of cancels that have not taken their full effect, and `since` the cycle of the first of them plus
one (R304); `skip` says that the rest of a decider is being
consumed; `terminal` that the withhold is terminal (R455); `order` is its place among the generator's commands. -/
structure Stream where
  phase : StreamPhase
  gen : BitVec 6
  record : BitVec 512
  base : Word
  seed : Word
  konst : Option Word
  ctag : BitVec 8
  level : BitVec 2
  sys : Bool
  x : Xfer
  decider : Option Decider
  skip : Option Bool
  cancelling : Bool
  since : Nat
  cancel : List Reg
  terminal : Bool
  order : Nat
deriving DecidableEq, Repr

/-- An IDLE slot (R321). -/
def Stream.reset : Stream :=
  { phase := .idle, gen := 0, record := 0, base := 0, seed := 0, konst := none, ctag := 0, level := 0, sys := false, x := .reset,
    decider := none, skip := none, cancelling := false, since := 0, cancel := [], terminal := false, order := 0 }

/-- The states of a template (R316). -/
inductive TplPhase where
  | disarmed | armed | copying | withheld
deriving DecidableEq, Repr

/-- An arming record with what its `tpl.arm` captured: the tag, the degrade level and the mode (R313, R383, R476). -/
structure Arm where
  record : BitVec 1024
  ctag : BitVec 8
  level : BitVec 2
  sys : Bool
deriving DecidableEq, Repr

/-- A copy template (R316-R321): the arming in force, the tag of the last `tpl.arm` since binding (R315), the pending
arming, a pending disarm, the bases, FIRED, the transfer of the current or last firing, and the generator slot it occupies
as 4 * generator + slot; the position after the last element that the copy has taken of those it has read. For a compressing copy (R319): its stage, the elements kept, the descriptor's words, the elements
kept up to the end of each row, and the row pointers written; `ovf` is OVF of R317, that of the last DKIND 2 firing. -/
structure Tpl where
  phase : TplPhase
  arm : Arm
  known : Option (BitVec 8)
  pending : Option Arm
  dpend : Bool
  saddr : Word
  daddr : Word
  fired : BitVec 16
  x : Xfer
  place : Option Nat
  took : Nat
  stage : Nat
  kept : Nat
  vals : Word
  cols : Word
  rowp : Word
  cap : Word
  ends : List Nat
  rows : Nat
  ovf : Bool
  terminal : Bool
deriving DecidableEq, Repr

/-- A DISARMED template (R321). -/
def Tpl.reset : Tpl :=
  { phase := .disarmed, arm := { record := 0, ctag := 0, level := 0, sys := false }, known := none, pending := none,
    dpend := false, saddr := 0, daddr := 0, fired := 0, x := .reset, place := none, took := 0, stage := 0, kept := 0, vals := 0,
    cols := 0, rowp := 0, cap := 0, ends := [], rows := 0, ovf := false, terminal := false }

/-- A stream buffer in one slot (R308, R309, R182): the position of its head, FILL, the sources that hold its ports, those that
wait at them in order of arrival, each with the cycle plus one in which it last offered its request (R246), the
cycles of the last push and pop plus one, the bytes pushed in the former; the release flag and size of R182, whose reader
count follows from the matrix unit's queue; and for the entries that the control processor pushed, the bytes up to the
entry's end and the accesses that its pop orders (R217). -/
structure Sbuf where
  head : Nat
  fill : Nat
  pushBy : Option Nat
  popBy : Option Nat
  pushers : List (Nat × Nat)
  poppers : List (Nat × Nat)
  lastPush : Nat
  lastPop : Nat
  fresh : Nat
  flag : Bool
  size : Nat
  marks : List (Nat × List Nat)
deriving DecidableEq, Repr

/-- An empty buffer. -/
def Sbuf.reset : Sbuf :=
  { head := 0, fill := 0, pushBy := none, popBy := none, pushers := [], poppers := [], lastPush := 0, lastPop := 0, fresh := 0, flag := false,
    size := 0, marks := [] }

/-- An entry of the matrix token queue (R176): a token, or the read of an element for a register (R190). `bad` marks a
flit that is no CLASS 0 control flit (R175). -/
structure MxEntry where
  seq : BitVec 16
  ctag : BitVec 8
  tok : Option Word
  bad : Bool
  index : Nat
  dest : Reg
deriving DecidableEq, Repr

/-- An `mma` in progress (R177, R187): the next step, the elements still live, those killed, and the byte sizes of the
operands. -/
structure MxOp where
  q : Nat
  g : Nat
  k : Nat
  live : BitVec 4096
  killed : Nat
  aSize : Nat
  bSize : Nat
deriving DecidableEq, Repr

/-- The matrix unit (R187, R192). `acc` holds the accumulators by 4096 * array + 64 * row + column; `out` are the flits of
an `acc.rd` still to enter RSB, once it has begun; `ecc` marks elements that hold an error (R202). -/
structure Mx where
  queue : List MxEntry
  next : BitVec 16
  lastSeq : BitVec 16
  doneSeq : BitVec 16
  killed : Nat
  err : BitVec 6
  op : Option MxOp
  out : Option (List Flit)
  acc : Tab Word
  ecc : Tab Ecc
deriving DecidableEq, Repr

/-- A matrix unit after COLDRESET. -/
def Mx.reset : Mx :=
  { queue := [], next := 0, lastSeq := 0, doneSeq := 0, killed := 0, err := 0, op := none, out := none, acc := [],
    ecc := [] }

/-- What a cancelled inbound stream has still to deliver (R304): its generator and slot, its port (0 for the edge side),
its tag, the flits or the bytes, its place among the generator's commands, and whether it is withheld for want of a frame
(R503). -/
structure Tail where
  ag : Nat
  slot : Nat
  port : Nat
  ctag : BitVec 8
  flits : List Flit
  bytes : List (List Byte)
  order : Nat
  lost : Bool
deriving DecidableEq, Repr

/-- A fire token still to be emitted by a stream (R296): its generator and slot, its destination, payload and tag, and whether
it is withheld for want of a frame (R503). -/
structure FireTok where
  ag : Nat
  slot : Nat
  dst : Nat
  pay : Word
  ctag : BitVec 8
  lost : Bool
deriving DecidableEq, Repr

/-- The units of a core beside its grid: stream slots by 4 * generator + slot, what cancelled streams have still to
deliver, fire tokens, templates, stream buffers by 4 * buffer + slot, firing queues, each entry with the accesses that its
pop orders (R217), the entries of releases that wait for room in one (R246, R310), as queue and entry, the matrix unit, and the
number of the next command that moves data. -/
structure Units where
  streams : Tab Stream
  tails : List Tail
  fires : List FireTok
  tpls : Tab Tpl
  sbufs : Tab Sbuf
  fqs : Tab (List (Word × List Nat))
  owed : List (Nat × Word)
  mx : Mx
  next : Nat
deriving DecidableEq, Repr

/-- The units after COLDRESET. -/
def Units.reset : Units :=
  { streams := [], tails := [], fires := [], tpls := [], sbufs := [], fqs := [], owed := [], mx := .reset, next := 1 }

end Sys2Proof.Machine
end

