-- ==== Sys2Proof/Machine/StateColl.lean ====
section
/-!
DEFINITION. The state of collectives (17 R339-R359) as plain data.
-/
namespace Sys2Proof.Machine

/-- The forms that issue a collective (R342). -/
inductive CollForm where
  | red | attn | gath | scat | bcast | a2a
deriving DecidableEq, Repr

/-- The life of a member's part (R343, R345): waiting for the rendezvous, reading its sources, with its sources read,
writing its destinations, pushing the passes of a ring, or ended. -/
inductive CollPhase where
  | rendezvous | reading | ready | writing | ring | ended
deriving DecidableEq, Repr

/-- Accesses still to be issued: `left` bytes from `va` in the address space of core `core`, in the mode `sys`, by elements
of `unit` bytes; for a write, `data` are the bytes. -/
structure CollRun where
  core : Nat
  sys : Bool
  va : Word
  unit : Nat
  left : Nat
  data : Option (List Byte)
deriving DecidableEq, Repr

/-- A collective slot (R343, R358): what was captured, the order of its issue, the CP accesses that R346 orders ahead, the
collective it joined, the accesses still to be issued and those that are under way, the bytes read, the accesses issued, a withhold and the records that
reported it, the pass of a ring and the step within it, POIS and MASKED, the poison to report, and the result of R345. -/
structure CollSlot where
  used : Bool
  form : CollForm
  phase : CollPhase
  desc : BitVec 1024
  table : List Word
  ctag : BitVec 8
  sys : Bool
  order : Nat
  covered : List Nat
  job : Nat
  todo : List CollRun
  flown : List Flown
  got : List Byte
  pos : Nat
  held : Bool
  nums : List Nat
  pass : Nat
  part : Nat
  masked : Nat
  poison : Option (Nat × Nat × Option Nat)
  result : Word
deriving DecidableEq, Repr

/-- A free slot. -/
def CollSlot.reset : CollSlot :=
  { used := false, form := .red, phase := .ended, desc := 0, table := [], ctag := 0, sys := false, order := 0, covered := [],
    job := 0, todo := [], flown := [], got := [], pos := 0, held := false, nums := [], pass := 0, part := 0, masked := 0, poison := none,
    result := 0 }

/-- A collective after its rendezvous (R341): its number, its identity and form, its members by rank as core and slot with
their descriptors, those whose local part has ended, the source bytes of those that have read them, and for a ring the
blocks read, as rank of the reader and rank of the source. -/
structure CollJob where
  id : Nat
  team : BitVec 16
  seq : BitVec 16
  form : CollForm
  members : List (Nat × Nat)
  descs : List (BitVec 1024)
  ended : List Nat
  data : Tab (Option (List Byte))
  read : List (Nat × Nat)
deriving DecidableEq, Repr

/-- A member has withdrawn from an identity before its rendezvous (R359): the members that have still to fail. -/
structure Withdrawal where
  team : BitVec 16
  seq : BitVec 16
  left : List Nat
deriving DecidableEq, Repr

/-- The collective stations: collectives in progress, oldest first, the withdrawals that members have still to hear of, the
number of the next collective, and of the next issue. -/
structure Stations where
  jobs : List CollJob
  withdrawn : List Withdrawal
  nextJob : Nat
  nextIssue : Nat
deriving DecidableEq, Repr

/-- The stations after COLDRESET. -/
def Stations.reset : Stations := { jobs := [], withdrawn := [], nextJob := 1, nextIssue := 0 }

end Sys2Proof.Machine
end

