-- ==== Sys2Proof/Machine/StateKv.lean ====
section
/-!
DEFINITION. The state of the KV directory (20 R418-R426).
-/
namespace Sys2Proof.Machine

/-- A limit register (R418). -/
structure KvLimit where
  v : Bool
  start : Nat
  limit : Nat
deriving DecidableEq, Repr

/-- A limit register after COLDRESET. -/
def KvLimit.reset : KvLimit := { v := false, start := 0, limit := 0 }

/-- The directory of a die: the pool registers (R419), and the free list in taking order (R422) as runs of pages. A run
is a first key and a count; the key of a page is its block-table entry value without bit 31, plus 2^32 for HBM4 pages. -/
structure KvDie where
  bCount : BitVec 11
  bBase : BitVec 10
  hCount : BitVec 21
  hBase : BitVec 21
  tab : BitVec 13
  free : List (Nat × Nat)
  limits : Tab KvLimit
deriving DecidableEq, Repr

/-- A directory after COLDRESET (R426). -/
def KvDie.reset : KvDie :=
  { bCount := 0, bBase := 0, hCount := 0, hBase := 0, tab := 0, free := [], limits := [] }

/-- The forms of R420. -/
inductive KvKind where
  | alloc | free (all : Bool) | share | map | limit (clr : Bool) | lend
deriving DecidableEq, Repr

/-- The steps of a request: `kv.share` passes through those of R424. -/
inductive KvStage where
  | first
  | source (die : Nat)
  | count (dstDie srcDie : Nat) (page : Nat)
  | copy (srcDie : Nat) (page : Nat)
  | moving (page : Nat)
deriving DecidableEq, Repr

/-- A request in flight (R418): who issued it, the die it stands at, its stage, the CP accesses ordered ahead of it
(R426), for `kv.free` with ALL the blocks freed so far, and for a copy of `kv.share` its accesses, one for each bank word (R208). -/
structure KvReq where
  core : Nat
  dest : Reg
  kind : KvKind
  a : Word
  b : Word
  die : Nat
  stage : KvStage
  after : List Nat
  freed : Nat
  flown : List Flown
deriving DecidableEq, Repr

/-- A block whose entry is reserved, or a source block that takes no later request (R424). -/
structure KvHold where
  seq : Nat
  blk : Nat
  source : Bool
deriving DecidableEq, Repr

/-- The KV store of the package: requests in order of arrival, and holds. -/
structure Kv where
  reqs : List KvReq
  holds : List KvHold
deriving DecidableEq, Repr

/-- The store after COLDRESET. -/
def Kv.reset : Kv := { reqs := [], holds := [] }

end Sys2Proof.Machine
end

