-- ==== Sys2Proof/Machine/StatePair.lean ====
section
/-!
DEFINITION. The state of a cluster's pair engine (20 R405-R417) as plain data.
-/
namespace Sys2Proof.Machine

/-- The states of a pair engine (R416). -/
inductive PairPhase where
  | free | owned | binning | valid | invalid | scanning
deriving DecidableEq, Repr

/-- A coordinate: an fp64 pattern, or the memory that could not deliver it (R202). -/
inductive Coord where
  | val (v : Nat)
  | lost (orig : Nat)
deriving DecidableEq, Repr

/-- A position: three coordinates. -/
abbrev Point := List Coord

/-- A member of a cell (R409): a particle, or a slot that memory could not deliver (R202), with the number of the loss. -/
inductive Member where
  | part (k : Nat)
  | lost (orig n : Nat)
deriving DecidableEq, Repr

/-- An operation in progress: the core that issued it, its register, CTAG and mode, the CP accesses ordered ahead (R417), and
its position. `ahead` are the reads of positions, `cell` those of cells, and `puts` the writes, that have been issued and not
taken (R210); `asked` is the next particle of a bin to be read. A bin: the cell to clear or, once all are, the particle, and its
point once it is read and once its reference is written.
A scan: the home cell and the cell after the last, the buffer and DIG; the cells of the home cell still to be read, the
members of those that have been, in the order of R410, the particles still to be read and those that have been, with their
reference points; the flits of the record being pushed; the tests of the home cell that are left, once it has some; the
records emitted; whether a particle was stale; whether the positions of the home cell have been read and judged. The result word
of either once it has ended, and only its writes or its end of tile are left. -/
structure PairOp where
  core : Nat
  dest : Reg
  ctag : BitVec 8
  sys : Bool
  covered : List Nat
  ahead : List Flown
  cell : List Flown
  puts : List Flown
  asked : Nat
  cleared : Nat
  index : Nat
  point : Option Point
  stored : Bool
  last : Nat
  sb : Nat
  dig : Bool
  cells : List Nat
  members : List (List Member)
  todo : List Nat
  points : List (Nat × Point × Point)
  cur : List Flit
  tests : Option (List (Member × Member))
  emitted : Nat
  stale : Bool
  tested : Bool
  ending : Option Word
deriving DecidableEq, Repr

/-- A pair engine (R405-R417): its owner as first core of the group, the box, the overflow list as particle and cell,
OUTSIDE, NEXT, the operation in progress, the registers of `pair.clr` forms that wait for it, and a withhold with the records
that reported it. -/
structure Pair where
  phase : PairPhase
  owner : Nat
  box : BitVec 1024
  excess : List (Nat × Nat)
  outside : Nat
  next : Nat
  op : Option PairOp
  clear : List (Nat × Reg)
  held : Bool
  nums : List Nat
deriving DecidableEq, Repr

/-- A FREE engine. -/
def Pair.reset : Pair :=
  { phase := .free, owner := 0, box := 0, excess := [], outside := 0, next := 0, op := none, clear := [], held := false,
    nums := [] }

end Sys2Proof.Machine
end

