-- ==== Sys2Proof/Config.lean ====
section
/-!
DEFINITION. What the manual leaves to the part: the fused values of R470, the checks and signatures of the management
controller (R471-R473), and the free values of the log. Each is opaque: no proof can see what it is. All are marked DESIGN CHOICE in
the log: fused values entry 8, firmware 10, measurements 9, power 11, header exponents 5, origins 45, templates 44, lost bits
46, the pair engine 47, freeze images 12.
-/
namespace Sys2Proof.Config

/-- FUSECAP.MINSVN (R470), set at manufacture. -/
opaque minSvn : BitVec 20

/-- FUSECAP.RATE (R470), set at manufacture. -/
opaque stanumRate : BitVec 2

/-- FUSECAP.LANES (R470), set at manufacture: one bit per Stanum port that may train. -/
opaque lanes : BitVec 18

/-- FUSECAP.PWRMAX (R470), set at manufacture. -/
opaque pwrFuse : BitVec 12

/-- FUSECAP.PWRMAX, at most 2,400 (R470). -/
def pwrMax : BitVec 12 := if pwrFuse.toNat ≤ 2400 then pwrFuse else 2400

/-- The checks of a firmware image (R471): its format. -/
opaque imageFormat : List Byte → Bool

/-- The checks of a firmware image (R471): its Ed25519 signature. -/
opaque imageEd25519 : List Byte → Bool

/-- The checks of a firmware image (R471): its ML-DSA-65 signature. -/
opaque imageMlDsa : List Byte → Bool

/-- The security version of a firmware image (R471). -/
opaque imageSvn : List Byte → BitVec 16

/-- The bytes of the management controller's ROM (R473). -/
opaque rom : List Byte

/-- The measurement hash of R473. -/
opaque sha384 : List Byte → BitVec 384

/-- The signature of R473 over a measurement. -/
opaque sign : BitVec 384 → BitVec 768

/-- The power predicted at a clock step, at the n-th prediction (R474). -/
opaque power : Nat → BitVec 3 → Nat

/-- The exponent field of a header with Z = 1, which no rule gives (R54). -/
opaque zeroE : Nat → BitVec 16

/-- The origin id, as a core and a local node id, that stands for a Basin bank or an HBM4 controller where R202 makes the
memory the ORIG of a poisoned element: no rule gives either an id. By the physical address of the element. -/
opaque memOrigin : Nat → Fin 768 × BitVec 8

/-- The stream id of a copy of template `tm` on generator `ag`, which no rule gives (R61, R133, R452). -/
opaque templateSid : (ag tm : Nat) → BitVec 16

/-- The bits that a raw copy moves where its source is uncorrectable, which no rule gives (R202, R314). -/
opaque lostBits : Nat → Nat

/-- Whether a test of the pair engine on a coordinate that is no finite number emits its pair, or finds its particle stale,
which no rule gives (R411, R413). -/
opaque pairTest : Nat → Bool

/-- The fp32 patterns of a record emitted by such a test, which no rule gives (R411). -/
opaque pairPattern : Nat → Nat → BitVec 32

/-- The bytes of a freeze image whose layout R457 leaves to the device, by the number of the image and the offset. -/
opaque imageByte : Nat → Nat → Byte

/-- PSIZE of a freeze image (R457), by the number of the image. -/
opaque imagePlain : Nat → Nat

/-- Bytes of the host's memory above the 2^46 that a device access can name (R194, R472). -/
opaque hostByte : Nat → Byte

end Sys2Proof.Config
end

