-- ==== Sys2Proof/Machine/StatePkg.lean ====
section
/-!
DEFINITION. The state of the package outside its dies (23 R463-R475): the management block, the DMA windows, the Stanum
ports and routes, the host translation cache, and what has left over PCIe.
-/
namespace Sys2Proof.Machine

/-- A DMA window (R466, R470): valid, first page, and last page inclusive. -/
structure Window where
  v : Bool
  base : BitVec 34
  last : BitVec 34
deriving DecidableEq, Repr

/-- A window after COLDRESET (R470). -/
def Window.reset : Window := { v := false, base := 0, last := 0 }

/-- What leaves the package (DESIGN CHOICE, log entry 18): bytes read, an old value of an AtomicOp, a completed write, an
Unsupported Request (R464), a signed measurement (R473), the completion of an invalidation request (R465), or the answer to
another package (R218), which a half that it could not read makes a failure (R202). -/
inductive HostAnswer where
  | data (b : List Byte)
  | old (v : Word)
  | done
  | unsupported
  | measured (index : Nat) (hash : BitVec 384) (sig : BitVec 768)
  | invalidated (page : BitVec 34)
  | remote (pkg : BitVec 9) (core : BitVec 18) (b : List Byte)
  | remoteFailed (pkg : BitVec 9) (core : BitVec 18)
deriving DecidableEq, Repr

/-- An entry of the AER log: a request refused under R464, or the fatal error of R468. -/
inductive AerEntry where
  | unsupported (bar2 : Bool) (off : BitVec 40)
  | fatal
deriving DecidableEq, Repr

/-- A request of the host, or of a core of another package, that spans several bank words, each of them one event (R198, R208): the
bytes of a write, its parts, the bytes read, whether one could not be read, and who asks. -/
structure OutReq where
  id : Nat
  put : Option (List Byte)
  segs : List Seg
  got : List Byte
  lost : Bool
  back : Option (BitVec 9 × BitVec 18)
deriving DecidableEq, Repr

/-- BOOTSTAT.STATE (R470). -/
inductive BootState where
  | rom | verify | running | recovery | failed
deriving DecidableEq, Repr

/-- The package. -/
structure Pkg where
  /-- BOOTSTAT and the firmware: the image in the flash, and the image as verified, once one has been (R471, R473). -/
  svn : BitVec 16
  reason : BitVec 4
  boot : BootState
  flash : List Byte
  /-- The firmware has zeroed HBM4 since COLDRESET (R204). -/
  zeroed : Bool
  image : Option (List Byte)
  /-- RECADDR.ADDR, RECLEN.LEN and a recovery fetch in progress, with the address and length that its GO found (R472). -/
  recAddr : BitVec 46
  recLen : BitVec 28
  fetching : Option (BitVec 46 × BitVec 28)
  /-- PWRLIM.WATTS, CLKSTAT and DEGLVL (R470). -/
  watts : BitVec 12
  stretch : BitVec 32
  maxStep : BitVec 3
  clkStep : BitVec 3
  deg : BitVec 2
  /-- The DMA windows and their lock (R466). -/
  wins : Tab Window
  lock : Bool
  /-- STLINK, the trained ports and the route table (R469). -/
  stEn : Bool
  stPkg : BitVec 9
  ports : BitVec 18
  routes : Tab (BitVec 5)
  /-- The host translation cache, oldest first, as pairs of page and frame (R465). -/
  ats : List (BitVec 34 × BitVec 34)
  aer : List AerEntry
  /-- Requests from outside that are under way, and the number of the next. -/
  outside : List OutReq
  nextOut : Nat
  answers : List HostAnswer
  /-- KCORE.PKG of every core (R139). -/
  kpkg : BitVec 9
deriving DecidableEq, Repr

/-- The package after COLDRESET (R470); the route table's value is the model's (DESIGN CHOICE, log entry 16). -/
def Pkg.reset : Pkg :=
  { svn := 0, reason := 0, boot := .rom, flash := [], zeroed := false, image := none, recAddr := 0, recLen := 0, fetching := none,
    watts := Config.pwrMax, stretch := 0, maxStep := 0, clkStep := 0, deg := 0, wins := [], lock := false,
    stEn := false, stPkg := 0, ports := 0, routes := [], ats := [], aer := [], outside := [], nextOut := 0, answers := [], kpkg := 0 }

end Sys2Proof.Machine
end

