-- ==== Sys2Proof/Machine/StatePlain.lean ====
section
/-!
DEFINITION. The state of a cluster's Plain (19 R394-R403): tag spaces, operand slots, links and passes.
-/
namespace Sys2Proof.Machine

/-- A tag space (R398, R402). `owner` is the first core of the owning group; `order` lists the nibbles allocated and not
yet released through the pass, oldest first. -/
structure TagSpace where
  v : Bool
  closing : Bool
  ord : Bool
  level : Bool
  outer : BitVec 4
  parent : BitVec 4
  limm1 : BitVec 4
  ctag : BitVec 8
  busy : BitVec 16
  count : BitVec 16
  owner : Nat
  order : List (BitVec 4)
  last : Option (Nat × Nat)
deriving DecidableEq, Repr

/-- A space that is not open. -/
def TagSpace.reset : TagSpace :=
  { v := false, closing := false, ord := false, level := false, outer := 0, parent := 0, limm1 := 0, ctag := 0,
    busy := 0, count := 0, owner := 0, order := [], last := none }

/-- A tag-space entry as it is read (R398). -/
def TagSpace.word (x : TagSpace) : Word :=
  BitVec.ofNat 64
    ((if x.v then 2 ^ 63 else 0) + (if x.closing then 2 ^ 62 else 0) + (if x.ord then 2 ^ 61 else 0)
      + (if x.level then 2 ^ 60 else 0) + x.outer.toNat * 2 ^ 56 + x.parent.toNat * 2 ^ 52 + x.limm1.toNat * 2 ^ 48
      + x.ctag.toNat * 2 ^ 40 + x.busy.toNat * 2 ^ 16 + x.count.toNat)

/-- A record in the Plain (R395, R396): its owner, and its flits, which carry CTAG and TAG. -/
structure PRec where
  owner : Nat
  ctag : BitVec 8
  tag : BitVec 8
  flits : List Flit
deriving DecidableEq, Repr

/-- A record on a link (R394): from an element, or from pass k as 128 + k; to input n of an element, or to the outbound
side of pass k as 128 + k, which takes its flits one by one; `begun` says that it has taken some. -/
structure Flight where
  src : Nat
  dst : Nat
  input : Nat
  begun : Bool
  body : PRec
deriving DecidableEq, Repr

/-- A Plain: the owners of its element slots by 4 * element + slot, as first core plus one; operand slots by 3 * element +
input; links; the outbound queue of each pass, the flits of the record that leaves it, and the record that enters it with
its tag word and CTAG; the node state of elements; stopped elements, as 1024 * owner + element; `shut` from a DEADLOCK
verdict on (R47, R49); and its quiescence detector (R47). Owners are named by the origin id of their first core. -/
structure Plain where
  owners : Tab Nat
  inputs : Tab (List PRec)
  links : List Flight
  outs : Tab (List PRec)
  leaving : Tab (List Flit)
  entering : Tab (Option (Word × BitVec 8 × List Flit))
  peSlots : Tab PeSlot
  stopped : List Nat
  shut : Bool
  qcount : BitVec 11
  act : Bool
deriving DecidableEq, Repr

/-- An empty Plain. -/
def Plain.reset : Plain :=
  { owners := [], inputs := [], links := [], outs := [], leaving := [], entering := [], peSlots := [], stopped := [],
    shut := false, qcount := 0, act := false }

end Sys2Proof.Machine
end

