-- ==== Sys2Proof/Machine/StateTask.lean ====
section
/-!
DEFINITION. The state of a die's scheduler and fault queue (16 R322-R338, 22 R452-R459).
-/
namespace Sys2Proof.Machine

/-- The states of an accepted task that holds a slot (R29). -/
inductive TaskPhase where
  | waiting | ready | running | frozen
deriving DecidableEq, Repr

/-- A slot of a task queue (R324): the captured record, the generation, and the task's life (R29, R335). `since` is the
cycle of acceptance and `order` the order of acceptance; `tReady` is t_ready; a bound task has its first core and shape,
its bound priority and the order of its binding; a frozen task has the address of its image, whether the image lies in
the freeze area, and its base priority; `xroot` is the captured XROOT word (R380); its start waits for the CP accesses
`after`, as pairs of core and number (R217, R329). -/
structure TSlot where
  used : Bool
  gen : BitVec 8
  record : BitVec 1024
  phase : TaskPhase
  since : Nat
  order : Nat
  tReady : Word
  first : Nat
  shape : Nat
  prio : BitVec 2
  boundAt : Nat
  xroot : BitVec 58
  image : Option Nat
  inArea : Bool
  after : List (Nat × Nat)
deriving DecidableEq, Repr

/-- A free slot after COLDRESET. -/
def TSlot.reset : TSlot :=
  { used := false, gen := 0, record := 0, phase := .waiting, since := 0, order := 0, tReady := 0, first := 0, shape := 0,
    prio := 0, boundAt := 0, xroot := 0, image := none, inArea := false,
    after := [] }

/-- The port of a task queue (R326, R327): TQSTAT, the staging buffer, and the writes that flow control holds back, each
with whether it is a second half. -/
structure TqPort where
  lastRej : BitVec 8
  lastGen : BitVec 8
  lastSlot : BitVec 8
  rejCnt : BitVec 16
  staged : Option (BitVec 512)
  held : List (Bool × BitVec 512)
deriving DecidableEq, Repr

/-- A port after COLDRESET. -/
def TqPort.reset : TqPort :=
  { lastRej := 0, lastGen := 0, lastSlot := 0, rejCnt := 0, staged := none, held := [] }

/-- Why a group is being frozen: pre-empted (R40), by `task.yield` (R333), or by the `frz.save` of a core, with its register
(R461). -/
inductive WaveCause where
  | preempt | yield | save (core : Nat) (dest : Reg)
deriving DecidableEq, Repr

/-- A freeze wave in progress (R41): the queue and slot of the task, and the address that its image receives. -/
structure Wave where
  queue : Nat
  slot : Nat
  cause : WaveCause
  addr : Nat
deriving DecidableEq, Repr

/-- The scheduler of a die: slots by 256 * queue + slot, ports by queue, task counters as they stood when the cycle began
and the sums of the cycle's changes (R325), q_last (R334, DESIGN CHOICE, log entry 15), counts that order acceptances and
bindings, the CP accesses that the writers of a task counter release to the tasks it makes READY (R330), and the freeze
waves in progress. -/
structure Sched where
  slots : Tab TSlot
  ports : Tab TqPort
  tc : Tab (BitVec 16)
  tcAdd : Tab (BitVec 16)
  qLast : Nat
  seq : Nat
  boundCyc : Nat
  rel : Tab (List (Nat × Nat))
  waves : List Wave
deriving DecidableEq, Repr

/-- A scheduler after COLDRESET. -/
def Sched.reset : Sched :=
  { slots := [], ports := [], tc := [], tcAdd := [], qLast := 0, seq := 0, boundCyc := 0, rel := [], waves := [] }

/-- The die fault queue (R452, R454) and the freeze area (R459); `fixed` keeps the NUM of each record whose cause cannot be
resumed (R390). -/
structure FaultQ where
  recs : List (Vector Word 8)
  next : BitVec 32
  dropped : BitVec 16
  fixed : List (BitVec 32)
  fzSize : BitVec 20
  fzBase : BitVec 20
deriving DecidableEq, Repr

/-- A fault queue after COLDRESET. -/
def FaultQ.reset : FaultQ := { recs := [], next := 0, dropped := 0, fixed := [], fzSize := 0, fzBase := 0 }

end Sys2Proof.Machine
end

