-- ==== Sys2Proof/Machine/State.lean ====
section
/-!
DEFINITION. The state of the package as plain data, its reset value, and the ways a step can stop.
-/
namespace Sys2Proof.Machine

/-- Why the machine stops. -/
inductive Fault where
  /-- Raised by `step` after a UCIe link failed to retrain (R468): every die has stopped, and only COLDRESET and the
  host's accesses to the management block go on.
  Safe: the manual stops here too. -/
  | packageStopped
deriving DecidableEq, Repr

/-- Why a step has no meaning. -/
inductive Refusal where
  /-- Raised by an arm of `exec` whose instruction has no meaning yet. Safe: nothing can be proved of it. -/
  | notModelled (mnemonic : String)
deriving DecidableEq, Repr

/-- Who moves next: a core issues, or an event happens (DESIGN CHOICE, log entry 1). -/
inductive Turn where
  | issue (c : CoreIx)
  | event (i : Instr)
deriving DecidableEq, Repr

/-- A core (R17). -/
structure Core where
  cp : Cp
  tlb : List Xlat
  cache : Cache
  grid : Grid
  units : Units
  colls : Tab CollSlot
deriving DecidableEq, Repr

/-- A core after COLDRESET. -/
def Core.reset : Core := { cp := .reset, tlb := [], cache := .reset, grid := .reset, units := .reset, colls := [] }

/-- A cluster (R17). -/
structure Cluster where
  tlb : List Xlat
  spaces : Tab TagSpace
  slots : Tab Slot
  plain : Plain
  pair : Pair
deriving DecidableEq, Repr

/-- A cluster after COLDRESET. -/
def Cluster.reset : Cluster := { tlb := [], spaces := [], slots := [], plain := .reset, pair := .reset }

/-- What a freeze image holds of one cluster of its group (R403, R417): the group's Plain slots, spaces, records, queues and
elements, and the pair engine when the group owns it. -/
structure ClusterPart where
  slots : Tab Slot
  spaces : Tab TagSpace
  plain : Plain
  pair : Pair
deriving DecidableEq, Repr

/-- A freeze image (R457): its number, the fields of its header, the task's record, the first core of the group, the state
of its cores in rank order, the bytes of their scratch that are not zero, by local offset, and what it holds of its
clusters. -/
structure Image where
  serial : Nat
  shape : Nat
  prio : BitVec 2
  verdict : Bool
  lch : Bool
  task : Nat
  record : BitVec 1024
  xroot : BitVec 58
  first : Nat
  cores : List Core
  scratch : List Memory
  parts : List ClusterPart
deriving DecidableEq, Repr

/-- A compute die (R13). -/
structure Die where
  tvec : BitVec 61
  xroot : Tab (BitVec 58)
  cecnt : BitVec 32
  stretched : Bool
  sched : Sched
  faults : FaultQ
  kv : KvDie
deriving DecidableEq, Repr

/-- A die after COLDRESET. -/
def Die.reset : Die :=
  { tvec := 0, xroot := [], cecnt := 0, stretched := false, sched := .reset, faults := .reset,
    kv := .reset }

/-- The state of the package; `images` are the freeze images that have been written (DESIGN CHOICE, log entry 12). -/
structure State where
  agenda : List Turn
  focus : CoreIx
  rota : Nat
  free : Nat
  cyc : Nat
  kcyc : Word
  ktime : Word
  mem : Memory
  ecc : Tab Ecc
  cores : Tab Core
  clusters : Tab Cluster
  dies : Tab Die
  pkg : Pkg
  kv : Kv
  stations : Stations
  images : List Image
  stopped : Bool
deriving DecidableEq, Repr

/-- The package right after COLDRESET. -/
def State.reset : State :=
  { agenda := [], focus := 0, rota := 0, free := 0, cyc := 0, kcyc := 0, ktime := 0, mem := [], ecc := [],
    cores := [], clusters := [], dies := [], pkg := .reset, kv := .reset, stations := .reset, images := [],
    stopped := false }

/-- Core `c`. -/
def State.core (s : State) (c : Nat) : Core := tabGet Core.reset s.cores c

/-- The state with core `c` replaced. -/
def State.setCore (s : State) (c : Nat) (x : Core) : State :=
  { s with cores := tabSet Core.reset s.cores c x }

/-- The state with core `c` changed by `f`. -/
def State.modCore (s : State) (c : Nat) (f : Core → Core) : State := s.setCore c (f (s.core c))

/-- The control processor of core `c`. -/
def State.cpOf (s : State) (c : Nat) : Cp := (s.core c).cp

/-- The control processor of core `c` changed by `f`. -/
def State.modCpOf (s : State) (c : Nat) (f : Cp → Cp) : State := s.modCore c fun x => { x with cp := f x.cp }

/-- The control processor that issues. -/
def State.cp (s : State) : Cp := s.cpOf s.focus.val

/-- The issuing control processor changed by `f`. -/
def State.modCp (s : State) (f : Cp → Cp) : State := s.modCpOf s.focus.val f

/-- Cluster `k`. -/
def State.cluster (s : State) (k : Nat) : Cluster := tabGet Cluster.reset s.clusters k

/-- The state with cluster `k` changed by `f`. -/
def State.modCluster (s : State) (k : Nat) (f : Cluster → Cluster) : State :=
  { s with clusters := tabSet Cluster.reset s.clusters k (f (s.cluster k)) }

/-- Die `d`. -/
def State.die (s : State) (d : Nat) : Die := tabGet Die.reset s.dies d

/-- The state with die `d` changed by `f`. -/
def State.modDie (s : State) (d : Nat) (f : Die → Die) : State :=
  { s with dies := tabSet Die.reset s.dies d (f (s.die d)) }

/-- What a step answers. -/
abbrev Result := Host.Outcome State Fault Refusal

end Sys2Proof.Machine
end

