-- ==== Sys2Proof/Machine/Mem.lean ====
section
/-!
DEFINITION. Memory: where a byte lives (R193-R195), reads and writes of bytes, error correction (R202, R203), and which
addresses and accesses a region admits (R194, R195, R226).
-/
namespace Sys2Proof.Machine

/-- The package field of a global physical address (R194). -/
def paPkg (pa : Nat) : Nat := pa / 2 ^ 49 % 2 ^ 9

/-- The region kind of a global physical address (R194). -/
def paKind (pa : Nat) : Nat := pa / 2 ^ 46 % 8

/-- The offset of a global physical address (R194). -/
def paOff (pa : Nat) : Nat := pa % 2 ^ 46

/-- The regions that hold plain bytes, MMIO, and the rest (R194). -/
inductive Region where
  | hbm | basin | scratch | mmio | host | none
deriving DecidableEq, Repr

/-- The region a kind code names (R194). -/
def regionOf (kind : Nat) : Region :=
  match kind with
  | 0 => .hbm
  | 1 => .basin
  | 2 => .scratch
  | 3 => .mmio
  | 4 => .host
  | _ => .none

/-- The number by which an address names this package (R195, R470). -/
def State.ownPkg (s : State) : Nat := if s.pkg.stEn then s.pkg.kpkg.toNat else 0

/-- The address names a byte of this package or of its host. -/
def State.isOwn (s : State) (pa : Nat) : Bool := paPkg pa == s.ownPkg

/-- The key of a byte in `State.mem`. -/
def State.memKey (s : State) (pa : Nat) : Nat := if s.isOwn pa then pa % 2 ^ 49 else 2 ^ 58 + pa

/-- The offset is valid in its region (R194); MMIO and host addresses have checks of their own. -/
def offsetOk (pa : Nat) : Bool :=
  let o := paOff pa
  match regionOf (paKind pa) with
  | .hbm => decide (o < 2 ^ 39 ∧ o % 2 ^ 36 < 0xC00000000)
  | .basin => decide (o < 2 ^ 28)
  | .scratch => decide (o < 2 ^ 30 ∧ o / 2 ^ 20 % 16 < 12 ∧ o % 2 ^ 20 ≤ 0xBFFFF)
  | .mmio => decide (o < 2 ^ 19)
  | .host => true
  | .none => false

/-- The die's part of a region in which a byte lies: two bytes of one access must agree in it (R226). -/
def diePart (pa : Nat) : Nat × Nat × Nat :=
  (paPkg pa, paKind pa,
    match regionOf (paKind pa) with
    | .hbm => paOff pa / 2 ^ 36
    | .basin => paOff pa / 2 ^ 25
    | .scratch => paOff pa / 2 ^ 27
    | .mmio => paOff pa / 2 ^ 16
    | _ => 0)

/-- The die on which a byte of this package is homed (R194). -/
def paDie (pa : Nat) : Nat :=
  match regionOf (paKind pa) with
  | .hbm => paOff pa / 2 ^ 36 % 8
  | .basin => paOff pa / 2 ^ 25 % 8
  | .scratch => paOff pa / 2 ^ 27 % 8
  | .mmio => paOff pa / 2 ^ 16 % 8
  | _ => 0

/-- The core whose scratch holds a byte (R194), as 96 * die + 12 * cluster + core. -/
def paCore (pa : Nat) : Nat :=
  96 * (paOff pa / 2 ^ 27 % 8) + 12 * (paOff pa / 2 ^ 24 % 8) + paOff pa / 2 ^ 20 % 16

/-- The global physical address of local scratch offset `o` of core `c` in this package (R194). -/
def State.scratchPa (s : State) (c o : Nat) : Nat :=
  s.ownPkg * 2 ^ 49 + 2 * 2 ^ 46 + (c / 96) * 2 ^ 27 + (c / 12 % 8) * 2 ^ 24 + (c % 12) * 2 ^ 20 + o

/-- A byte of memory; an unlisted byte reads zero (R204). -/
def memGet (m : Memory) (a : Nat) : Byte := tabGet 0 m a

/-- A byte written. -/
def memSet (m : Memory) (a : Nat) (b : Byte) : Memory := tabSet 0 m a b

/-- The canonical form of a memory. -/
def memWf (m : Memory) : Bool := tabWf 0 m

/-- The `n` bytes from `a`. -/
def memBytes (m : Memory) (a : Nat) : Nat → List Byte
  | 0 => []
  | n + 1 => memGet m a :: memBytes m (a + 1) n

/-- Bytes written from `a` on. -/
def memPut (m : Memory) (a : Nat) : List Byte → Memory
  | [] => m
  | b :: l => memPut (memSet m a b) (a + 1) l

/-- The `n` bytes at a physical address. -/
def State.bytesAt (s : State) (pa n : Nat) : List Byte := memBytes s.mem (s.memKey pa) n

/-- The `n` bytes at a physical address as a number (R3). -/
def State.natAt (s : State) (pa n : Nat) : Nat := leNat (s.bytesAt pa n)

/-- The keys of the 64-bit halves that `n` bytes from key `a` touch (R202). -/
def halvesOf (a n : Nat) : List Nat := rangeFrom (a / 8) ((a + n + 7) / 8 - a / 8)

/-- One correction more in a die's counter (R446). -/
def Die.corrected (x : Die) : Die := if x.cecnt.toNat = 0xFFFFFFFF then x else { x with cecnt := x.cecnt + 1 }

/-- A half holds an uncorrectable error. -/
def State.halfBad (s : State) (h : Nat) : Bool := tabGet .clean s.ecc h == .double

/-- One of the halves that `n` bytes at `pa` touch holds an uncorrectable error (R202). -/
def State.eccBad (s : State) (pa n : Nat) : Bool := (halvesOf (s.memKey pa) n).any s.halfBad

/-- A single-bit error in one half is corrected and counted (R202). -/
def State.correctHalf (d : Nat) (s : State) (h : Nat) : State :=
  if tabGet .clean s.ecc h = .single then
    { s with ecc := tabSet .clean s.ecc h .clean }.modDie d Die.corrected
  else s

/-- A read of `n` bytes at `pa` corrects and counts the single-bit errors it meets (R202). -/
def State.eccRead (s : State) (pa n : Nat) : State :=
  (halvesOf (s.memKey pa) n).foldl (State.correctHalf (paDie pa)) s

/-- The half is wholly covered by `n` bytes from key `a`. -/
def halfCovered (a n h : Nat) : Bool := decide (a ≤ 8 * h ∧ 8 * h + 8 ≤ a + n)

/-- A narrow write meets an uncorrectable half (R203). -/
def State.narrowBad (s : State) (pa n : Nat) : Bool :=
  (halvesOf (s.memKey pa) n).any fun h => s.halfBad h && !halfCovered (s.memKey pa) n h

/-- Bytes written at `pa`: halves wholly covered lose their error (R203). -/
def State.writeBytes (s : State) (pa : Nat) (bs : List Byte) : State :=
  let k := s.memKey pa
  { s with
    mem := memPut s.mem k bs
    ecc := (halvesOf k bs.length).foldl
      (fun e h => if halfCovered k bs.length h then tabSet .clean e h .clean else e) s.ecc }

/-- `n` bytes of a number written at `pa`. -/
def State.writeNat (s : State) (pa n v : Nat) : State := s.writeBytes pa (leBytes v n)

/-- The bytes lie inside one valid DMA window (R466). -/
def Window.holds (w : Window) (a n : Nat) : Bool :=
  w.v && decide (w.base.toNat * 4096 ≤ a ∧ a + n ≤ (w.last.toNat + 1) * 4096)

/-- The bytes at a PCIe address lie inside one latched window (R195, R207, R466). -/
def State.inWindow (s : State) (a n : Nat) : Bool :=
  s.pkg.lock && (rangeFrom 0 8).any fun i => (tabGet Window.reset s.pkg.wins i).holds a n

/-- The entry of the route table for a package (R469). -/
def Pkg.route (x : Pkg) (p : Nat) : BitVec 5 := tabGet 0x1F x.routes p

/-- A package is reached through a trained port (R469, R470). -/
def State.reaches (s : State) (p : Nat) : Bool :=
  s.pkg.stEn && decide ((s.pkg.route p).toNat < 18) && s.pkg.ports.getLsbD (s.pkg.route p).toNat

/-- Why an access is not performed: a cause of R449, with the address it reports. -/
structure Fail where
  cause : BitVec 6
  val : Word
deriving DecidableEq, Repr

/-- The kinds of access that R226 tells apart. -/
inductive Acc where
  | plain | atomic (op : AmoOp) | semaphore
deriving DecidableEq, Repr

/-- The operations a PCIe AtomicOp performs (R226, R464). -/
def amoPcie (op : AmoOp) : Bool := op == .add || op == .swap || op == .cas

end Sys2Proof.Machine
end

