-- ==== Sys2Proof/WellFormed.lean ====
section
/-!
DEFINITION. Well-formed instructions: the encoding checks of step 1 of R107 that the types of Syntax.lean do not
already make impossible. An event carries no word, so nothing is checked of it here.
-/
namespace Sys2Proof

/-- R97: the guard "not p0" raises ILLOP. -/
def Guard.ok (g : Guard) : Bool := !(g.neg && g.p == 0)

/-- R98: a last-use bit on g0 raises ILLOP. -/
def Src.ok (a : Src) : Bool := !(a.last && a.reg == 0)

/-- R101: scope codes 6 and 7 raise ILLOP. -/
def scopeOk (sc : BitVec 3) : Bool := decide (sc.toNat < 6)

/-- R104: SC is must-be-zero when AR = 0. -/
def orderOk (ar : Bool) (sc : BitVec 3) : Bool := scopeOk sc && (ar || sc == 0)

/-- The checks of a memory operand (R98, R101, R104). -/
def MemOp.ok (m : MemOp) : Bool := m.a.ok && m.b.ok && orderOk m.ar m.sc

/-- The checks of an atomic's operand (R98, R101, R104). -/
def AmoOperand.ok (m : AmoOperand) : Bool := m.a.ok && orderOk m.ar m.sc

/-- R17: the local node ids that some node has. -/
def nodeIdOk (id : BitVec 8) : Bool :=
  let n := id.toNat
  decide (n < 0x2C) || decide (0x30 ≤ n ∧ n ≤ 0x38) || decide (0x40 ≤ n ∧ n ≤ 0x60)

/-- The unit of a configuration form names a node of R17 or the whole core (R106). -/
def CfgUnit.ok : CfgUnit → Bool
  | .node id => nodeIdOk id
  | .core => true

/-- The stream handle of a barrier (R305). -/
def BarUnit.ok : BarUnit → Bool
  | .ag _ a => a.ok
  | .core => true

/-- R105: the target differs from the source format, and an integer source is an integer. -/
def fcvtOk (f : Prec) (fromInt : Bool) (n : FNum) : Bool :=
  match fromInt, n, f with
  | true, .s, _ => false
  | true, .d, _ => false
  | false, .s, .s => false
  | false, .d, .d => false
  | _, _, _ => true

/-- R376: the operand bits of `cfg.probe`, given by its low seven bits. -/
def probeOk (u : CfgUnit) (sel : BitVec 7) : Bool :=
  match u with
  | .core => decide (sel.toNat < 32)
  | .node id =>
    (sel.toNat < 32 || (0x28 ≤ id.toNat && id.toNat ≤ 0x2B)) && (!sel.getLsbD 4 || sel.extractLsb' 2 2 == 0)

/-- The queue unit is a stream buffer. -/
def QUnit.isSb : QUnit → Bool
  | .sb _ => true
  | .fq _ => false

/-- The well-formed instructions: those some word encodes, and every event. -/
def wf : Instr → Bool
  | .nop g => g.ok
  | .halt g => g.ok
  | .trap g _ => g.ok
  | .tret g => g.ok
  | .wait g => g.ok
  | .brk g _ => g.ok
  | .add g _ a b => g.ok && a.ok && b.ok
  | .sub g _ a b => g.ok && a.ok && b.ok
  | .and g _ a b => g.ok && a.ok && b.ok
  | .or g _ a b => g.ok && a.ok && b.ok
  | .xor g _ a b => g.ok && a.ok && b.ok
  | .andn g _ a b => g.ok && a.ok && b.ok
  | .shl g _ a b => g.ok && a.ok && b.ok
  | .shr g _ a b => g.ok && a.ok && b.ok
  | .sra g _ a b => g.ok && a.ok && b.ok
  | .rol g _ a b => g.ok && a.ok && b.ok
  | .min g _ a b => g.ok && a.ok && b.ok
  | .max g _ a b => g.ok && a.ok && b.ok
  | .minz g _ a b => g.ok && a.ok && b.ok
  | .maxz g _ a b => g.ok && a.ok && b.ok
  | .mul g _ a b => g.ok && a.ok && b.ok
  | .mulh g _ a b => g.ok && a.ok && b.ok
  | .mulhz g _ a b => g.ok && a.ok && b.ok
  | .div g _ a b => g.ok && a.ok && b.ok
  | .divz g _ a b => g.ok && a.ok && b.ok
  | .rem g _ a b => g.ok && a.ok && b.ok
  | .remz g _ a b => g.ok && a.ok && b.ok
  | .clz g _ a => g.ok && a.ok
  | .ctz g _ a => g.ok && a.ok
  | .popc g _ a => g.ok && a.ok
  | .sel g _ a b _ => g.ok && a.ok && b.ok
  | .bext g _ a b c => g.ok && a.ok && b.ok && c.ok
  | .bins g _ a b c => g.ok && a.ok && b.ok && c.ok
  | .addi g _ a _ => g.ok && a.ok
  | .andi g _ a _ => g.ok && a.ok
  | .ori g _ a _ => g.ok && a.ok
  | .xori g _ a _ => g.ok && a.ok
  | .shli g _ a _ => g.ok && a.ok
  | .shri g _ a _ => g.ok && a.ok
  | .srai g _ a _ => g.ok && a.ok
  | .li g _ _ => g.ok
  | .liH g _ a _ => g.ok && a.ok
  | .cmpEq g _ a b => g.ok && a.ok && b.ok
  | .cmpNe g _ a b => g.ok && a.ok && b.ok
  | .cmpLt g _ a b => g.ok && a.ok && b.ok
  | .cmpGe g _ a b => g.ok && a.ok && b.ok
  | .cmpLo g _ a b => g.ok && a.ok && b.ok
  | .cmpHs g _ a b => g.ok && a.ok && b.ok
  | .cmpiEq g _ a _ => g.ok && a.ok
  | .cmpiNe g _ a _ => g.ok && a.ok
  | .cmpiLt g _ a _ => g.ok && a.ok
  | .cmpiGe g _ a _ => g.ok && a.ok
  | .cmpiLo g _ a _ => g.ok && a.ok
  | .cmpiHs g _ a _ => g.ok && a.ok
  | .pand g _ _ _ => g.ok
  | .por g _ _ _ => g.ok
  | .pxor g _ _ _ => g.ok
  | .pandn g _ _ _ => g.ok
  | .pmov g _ _ => g.ok
  | .pget g _ _ => g.ok
  | .br g _ => g.ok
  | .call g _ _ => g.ok
  | .ret g a => g.ok && a.ok
  | .jr g _ a => g.ok && a.ok
  | .loop g b _ => g.ok && !(b == 0)
  | .ldS8 g _ m => g.ok && m.ok
  | .ldZ8 g _ m => g.ok && m.ok
  | .ldS16 g _ m => g.ok && m.ok
  | .ldZ16 g _ m => g.ok && m.ok
  | .ldS32 g _ m => g.ok && m.ok
  | .ldZ32 g _ m => g.ok && m.ok
  | .ld64 g _ m => g.ok && m.ok
  | .st8 g v m => g.ok && v.ok && m.ok
  | .st16 g v m => g.ok && v.ok && m.ok
  | .st32 g v m => g.ok && v.ok && m.ok
  | .st64 g v m => g.ok && v.ok && m.ok
  | .amoAdd64 g _ b m => g.ok && b.ok && m.ok
  | .amoMin64 g _ b m => g.ok && b.ok && m.ok
  | .amoMax64 g _ b m => g.ok && b.ok && m.ok
  | .amoMinz64 g _ b m => g.ok && b.ok && m.ok
  | .amoMaxz64 g _ b m => g.ok && b.ok && m.ok
  | .amoAnd64 g _ b m => g.ok && b.ok && m.ok
  | .amoOr64 g _ b m => g.ok && b.ok && m.ok
  | .amoXor64 g _ b m => g.ok && b.ok && m.ok
  | .amoSwap64 g _ b m => g.ok && b.ok && m.ok
  | .amoCas64 g _ b m => g.ok && b.ok && m.ok
  | .amoFadd64 g _ b m => g.ok && b.ok && m.ok
  | .amoAdd32 g _ b m => g.ok && b.ok && m.ok
  | .amoMin32 g _ b m => g.ok && b.ok && m.ok
  | .amoMax32 g _ b m => g.ok && b.ok && m.ok
  | .amoMinz32 g _ b m => g.ok && b.ok && m.ok
  | .amoMaxz32 g _ b m => g.ok && b.ok && m.ok
  | .amoAnd32 g _ b m => g.ok && b.ok && m.ok
  | .amoOr32 g _ b m => g.ok && b.ok && m.ok
  | .amoXor32 g _ b m => g.ok && b.ok && m.ok
  | .amoSwap32 g _ b m => g.ok && b.ok && m.ok
  | .amoCas32 g _ b m => g.ok && b.ok && m.ok
  | .amoFadd32 g _ b m => g.ok && b.ok && m.ok
  | .fence g sc => g.ok && scopeOk sc
  | .fenceX g sc => g.ok && scopeOk sc
  | .fenceCfg g => g.ok
  | .krd g _ _ => g.ok
  | .kwr g _ a => g.ok && a.ok
  | .kset g _ a => g.ok && a.ok
  | .kclr g _ a => g.ok && a.ok
  | .fadd g _ _ a b => g.ok && a.ok && b.ok
  | .fsub g _ _ a b => g.ok && a.ok && b.ok
  | .fmul g _ _ a b => g.ok && a.ok && b.ok
  | .fdiv g _ _ a b => g.ok && a.ok && b.ok
  | .fsqrt g _ _ a => g.ok && a.ok
  | .ffma g _ _ a b c => g.ok && a.ok && b.ok && c.ok
  | .fmin g _ _ a b => g.ok && a.ok && b.ok
  | .fmax g _ _ a b => g.ok && a.ok && b.ok
  | .fcmp g _ _ _ a b => g.ok && a.ok && b.ok
  | .fcvt g f fromInt n _ a => g.ok && a.ok && fcvtOk f fromInt n
  | .fclass g _ _ a => g.ok && a.ok
  | .cfgFetch g _ u a => g.ok && u.ok && a.ok
  | .cfgLoad g _ u a => g.ok && u.ok && a.ok
  | .cfgEvict g _ u a _ _ => g.ok && u.ok && a.ok
  | .cfgInband g _ _ a => g.ok && a.ok
  | .cfgProbe g _ u sel => g.ok && u.ok && probeOk u sel
  | .cfgTag g _ _ => g.ok
  | .strmRd g _ _ a b c _ _ => g.ok && a.ok && b.ok && c.ok
  | .strmWr g _ _ a b c _ _ => g.ok && a.ok && b.ok && c.ok
  | .strmInd g _ _ a b c _ _ => g.ok && a.ok && b.ok && c.ok
  | .strmCst g _ ag a b c _ _ => g.ok && a.ok && b.ok && c.ok && (decide (4 ≤ ag.val) || c == ⟨0, false⟩)
  | .strmRec g _ _ a b c _ _ => g.ok && a.ok && b.ok && c.ok
  | .strmCancel g _ _ a => g.ok && a.ok
  | .strmStat g _ _ a => g.ok && a.ok
  | .barRd g _ u => g.ok && u.ok
  | .barWr g _ u => g.ok && u.ok
  | .barCfg g _ u drain tag => g.ok && u.ok && (drain || tag == 0)
  | .barAll g _ => g.ok
  | .barIf g _ _ a _ => g.ok && a.ok
  | .ctlSet g _ _ a _ => g.ok && a.ok
  | .ctlGo g _ _ => g.ok
  | .ctlWait g _ _ => g.ok
  | .ctlAbort g _ _ => g.ok
  | .tplArm g _ _ a => g.ok && a.ok
  | .tplDisarm g _ _ => g.ok
  | .tplFire g _ _ a => g.ok && a.ok
  | .tplStat g _ _ => g.ok
  | .qPush g _ q a last => g.ok && a.ok && (!last || q.isSb)
  | .qPop g _ _ _ => g.ok
  | .qSpace g _ _ => g.ok
  | .qWait g _ _ a _ => g.ok && a.ok
  | .semInit g _ a b => g.ok && a.ok && b.ok
  | .semTake g _ a tok sb => g.ok && a.ok && (tok || sb == 0)
  | .semWait g _ a b => g.ok && a.ok && b.ok
  | .semAdv g _ a n => g.ok && a.ok && !(n == 0)
  | .mxTok g _ a => g.ok && a.ok
  | .mxAccrd g _ _ _ _ => g.ok
  | .mxAccclr g _ _ => g.ok
  | .mxStat g _ => g.ok
  | .collRed g _ a => g.ok && a.ok
  | .collAttn g _ a => g.ok && a.ok
  | .collGath g _ a => g.ok && a.ok
  | .collScat g _ a => g.ok && a.ok
  | .collBcast g _ a => g.ok && a.ok
  | .collA2a g _ a => g.ok && a.ok
  | .collWait g _ a => g.ok && a.ok
  | .pairBox g _ a => g.ok && a.ok
  | .pairBin g _ => g.ok
  | .pairScan g _ a b _ _ => g.ok && a.ok && b.ok
  | .pairStat g _ => g.ok
  | .pairClr g _ => g.ok
  | .kvAlloc g _ a => g.ok && a.ok
  | .kvFree g _ a _ => g.ok && a.ok
  | .kvShare g _ a b => g.ok && a.ok && b.ok
  | .kvMap g _ a => g.ok && a.ok
  | .kvLimit g _ a b _ => g.ok && a.ok && b.ok
  | .kvLend g _ a b => g.ok && a.ok && b.ok
  | .taskSpawn g _ _ a => g.ok && a.ok
  | .taskDone g => g.ok
  | .taskYield g _ => g.ok
  | .taskArg g _ _ => g.ok
  | .taskCancel g _ a => g.ok && a.ok
  | .frzSave g _ a b => g.ok && a.ok && b.ok
  | .frzLoad g _ a _ => g.ok && a.ok
  | .quiPoll g _ _ => g.ok
  | .quiRep g _ a _ => g.ok && a.ok
  | .xlatInv g _ a b scope _ => g.ok && a.ok && b.ok && scopeOk scope
  | .xlatProbe g _ a b _ => g.ok && a.ok && b.ok
  | .xlatRes g _ _ a target => g.ok && a.ok && !(target == 3)
  | .pendingResultWrite _ _ => true
  | .storeHomeFailure _ _ => true
  | .waitEnd _ => true
  | .barrierEnd _ => true
  | .fenceResume _ => true
  | .queueFormResume _ => true
  | .ctlWaitEnd _ => true
  | .collWaitEnd _ => true
  | .quiPollWaitEnd _ => true
  | .semRetest _ => true
  | .asyncTrap _ => true
  | .programPageFill _ => true
  | .coldreset => true
  | .warmreset => true
  | .boot => true
  | .recoveryFetch => true
  | .spdmMeasurement _ => true
  | .hostAccess _ => true
  | .hostAtomicop _ => true
  | .atsTranslationCompletion _ _ => true
  | .atsInvalidation _ => true
  | .tqFirstHalfWrite _ _ _ => true
  | .tqSecondHalfWrite _ _ _ => true
  | .taskCounterWrite _ _ _ => true
  | .fqpop _ => true
  | .fzareaWrite _ _ => true
  | .kvPoolWrite _ _ _ => true
  | .dmaWindowWrite _ _ _ => true
  | .dwlock _ => true
  | .stlinkWrite _ => true
  | .routeTableWrite _ _ => true
  | .registerWrite _ _ => true
  | .clockStepChange => true
  | .cycleStretch _ => true
  | .linkRetrainFailure _ => true
  | .remoteAccess _ => true
  | .bankAccess _ _ _ => true
  | .routerForward _ _ => true
  | .kill _ _ => true
  | .killReturn _ _ => true
  | .peFire _ _ => true
  | .digitEmit _ _ => true
  | .steer _ _ => true
  | .carry _ _ => true
  | .invar _ _ => true
  | .merge _ _ => true
  | .join _ _ => true
  | .order _ _ => true
  | .arb _ _ => true
  | .tagin _ _ => true
  | .tagout _ _ => true
  | .mld _ _ _ _ => true
  | .mst _ _ _ _ => true
  | .gath _ _ _ _ => true
  | .scat _ _ _ _ => true
  | .upd _ _ _ _ => true
  | .dep _ _ _ _ => true
  | .sparseUpdateApply _ _ _ _ _ => true
  | .mxTokenEnqueue _ => true
  | .mma _ => true
  | .mmaAcc _ => true
  | .accRd _ => true
  | .accClr _ => true
  | .matrixStep _ => true
  | .streamElement _ _ _ => true
  | .streamWrite _ _ _ => true
  | .streamDone _ _ _ => true
  | .streamCancelComplete _ _ _ => true
  | .barIfDecide _ _ _ => true
  | .pageWalk _ _ => true
  | .templateFiring _ _ => true
  | .copyEnd _ _ => true
  | .compressPhase _ _ => true
  | .sbPush _ _ => true
  | .sbPop _ _ => true
  | .frameInstall _ _ => true
  | .demandFill _ _ => true
  | .configRecord _ _ => true
  | .evictDrainClear _ _ => true
  | .permit _ _ => true
  | .doneToken _ _ => true
  | .iterationOpen _ _ => true
  | .quiescenceVerdict _ => true
  | .deadlockTrap _ => true
  | .taskReady _ _ _ => true
  | .schedulerBind _ => true
  | .preempt _ => true
  | .freeze _ => true
  | .taskRetire _ _ _ => true
  | .collRendezvous _ _ => true
  | .collCombine _ _ _ => true
  | .ringPass _ _ => true
  | .pairHomeCell _ => true
  | .pairRecordPush _ => true
  | .kvRequestRoute _ => true
  | .plainDelivery _ _ => true
  | .plainElementFire _ _ => true
  | .passInbound _ => true
  | .passOutbound _ => true
  | .reservedOpcode _ => true
  | .fabricCycle => true
  | .ktimeTick => true
  | .stretchRelease _ => true
  | .stanumPortTraining _ _ => true
  | .remoteReplayFailure _ _ => true
  | .atsDisable => true

end Sys2Proof
end

