-- ==== Sys2Proof/Decode.lean ====
section
/-!
DEFINITION. Decoding and encoding of instruction words (R95-R107). The decoder makes the checks of step 1 of R107
and names the first that fails; the encoder packs the fields of the five formats of R96.
-/
namespace Sys2Proof

/-- Why a word is no instruction; each raises ILLOP (R107). -/
inductive Reject where
  /-- a reserved major (R102) -/
  | major
  /-- a reserved minor (R103) -/
  | minor
  /-- the guard "not p0" (R97) -/
  | guard
  /-- a must-be-zero field or bit is set (R104) -/
  | mustBeZero
  /-- a last-use bit on g0 (R98) -/
  | lastUse
  /-- a scope code of 6 or 7, or a scope without ordering (R101, R104) -/
  | scope
  /-- SZ of 2 or 3 (R105) -/
  | size
  /-- a conversion R105 forbids -/
  | fcvt
  /-- an unassigned k-register number (R138) -/
  | kreg
  /-- a reserved or unaccepted unit handle (R106) -/
  | handle
  /-- `loop` counting in g0 (R104) -/
  | counter
  /-- an IMM16 value the form's chapter forbids -/
  | operand
deriving DecidableEq, Repr

/-! The fields of a word (R96). -/

/-- MAJ. -/
def fMaj (w : Word) : BitVec 6 := w.extractLsb' 58 6
/-- MIN. -/
def fMin (w : Word) : BitVec 6 := w.extractLsb' 48 6
/-- D. -/
def fD (w : Word) : BitVec 5 := w.extractLsb' 43 5
/-- A. -/
def fA (w : Word) : BitVec 5 := w.extractLsb' 38 5
/-- LA. -/
def fLA (w : Word) : Bool := w.getLsbD 37
/-- B. -/
def fB (w : Word) : BitVec 5 := w.extractLsb' 32 5
/-- LB of the R, M and X formats. -/
def fLB (w : Word) : Bool := w.getLsbD 31
/-- C of the R and X formats. -/
def fC (w : Word) : BitVec 5 := w.extractLsb' 26 5
/-- LC of the R and X formats. -/
def fLC (w : Word) : Bool := w.getLsbD 25
/-- SZ of the R format. -/
def fSZ (w : Word) : BitVec 2 := w.extractLsb' 23 2
/-- Bits 22:0 of the R format. -/
def fLow (w : Word) : BitVec 23 := w.extractLsb' 0 23
/-- IMM37 of the I format. -/
def fImm37 (w : Word) : BitVec 37 := w.extractLsb' 0 37
/-- SC of the M format. -/
def fSC (w : Word) : BitVec 3 := w.extractLsb' 28 3
/-- AR of the M format. -/
def fAR (w : Word) : Bool := w.getLsbD 27
/-- LD of the M format. -/
def fLD (w : Word) : Bool := w.getLsbD 26
/-- OFF26 of the M format. -/
def fOff26 (w : Word) : BitVec 26 := w.extractLsb' 0 26
/-- OFF32 of the B format. -/
def fOff32 (w : Word) : BitVec 32 := w.extractLsb' 0 32
/-- H of the X format. -/
def fH (w : Word) : BitVec 9 := w.extractLsb' 16 9
/-- IMM16 of the X format. -/
def fImm16 (w : Word) : BitVec 16 := w.extractLsb' 0 16

/-- GN and GP (R97). -/
def guardOf (w : Word) : Guard := ⟨w.getLsbD 57, w.extractLsb' 54 3⟩
/-- Source A with its last-use bit. -/
def srcA (w : Word) : Src := ⟨fA w, fLA w⟩
/-- Source B with its last-use bit. -/
def srcB (w : Word) : Src := ⟨fB w, fLB w⟩
/-- Source C with its last-use bit. -/
def srcC (w : Word) : Src := ⟨fC w, fLC w⟩
/-- Store data: D with LD (R98). -/
def srcV (w : Word) : Src := ⟨fD w, fLD w⟩
/-- The memory operand of a load or store. -/
def memOf (w : Word) : MemOp := ⟨srcA w, srcB w, fOff26 w, fAR w, fSC w⟩
/-- The memory operand of an atomic. -/
def amoOf (w : Word) : AmoOperand := ⟨srcA w, fOff26 w, fAR w, fSC w⟩

/-- The predicate in bits 2:0 of D. -/
def predD (w : Word) : PReg := (fD w).extractLsb' 0 3
/-- The predicate in bits 2:0 of A. -/
def predA (w : Word) : PReg := (fA w).extractLsb' 0 3
/-- The predicate in bits 2:0 of B. -/
def predB (w : Word) : PReg := (fB w).extractLsb' 0 3
/-- The predicate in bits 2:0 of C. -/
def predC (w : Word) : PReg := (fC w).extractLsb' 0 3
/-- D names a predicate: its top two bits are zero (R96). -/
def predOkD (w : Word) : Bool := (fD w).extractLsb' 3 2 == 0
/-- A names a predicate: its top two bits and LA are zero (R96, R98). -/
def predOkA (w : Word) : Bool := (fA w).extractLsb' 3 2 == 0 && !fLA w
/-- B names a predicate. -/
def predOkB (w : Word) : Bool := (fB w).extractLsb' 3 2 == 0 && !fLB w
/-- C names a predicate. -/
def predOkC (w : Word) : Bool := (fC w).extractLsb' 3 2 == 0 && !fLC w

/-- IMM37 uses only its low `n` bits. -/
def immFits (w : Word) (n : Nat) : Bool := decide ((fImm37 w).toNat < 2 ^ n)

/-! Must-be-zero fields (R104): each flag says that the form uses the field. -/

/-- The R format. -/
def zeroR (w : Word) (d a b c sz : Bool) : Bool :=
  (d || fD w == 0) && (a || srcA w == ⟨0, false⟩) && (b || srcB w == ⟨0, false⟩) && (c || srcC w == ⟨0, false⟩) &&
    (sz || fSZ w == 0) && fLow w == 0
/-- The I format. -/
def zeroI (w : Word) (d a imm : Bool) : Bool :=
  (d || fD w == 0) && (a || srcA w == ⟨0, false⟩) && (imm || fImm37 w == 0)
/-- The B format, where B has no last-use bit. -/
def zeroB (w : Word) (d a b off : Bool) : Bool :=
  (d || fD w == 0) && (a || srcA w == ⟨0, false⟩) && (b || fB w == 0) && (off || fOff32 w == 0)
/-- The M format; `ld` says that D is store data, `addr` that AR and OFF26 are used. -/
def zeroM (w : Word) (d a b ld sc addr : Bool) : Bool :=
  (d || fD w == 0) && (a || srcA w == ⟨0, false⟩) && (b || srcB w == ⟨0, false⟩) && (ld || !fLD w) &&
    (sc || fSC w == 0) && (addr || (!fAR w && fOff26 w == 0))
/-- The X format; `n` says how many low bits of IMM16 the form uses. -/
def zeroX (w : Word) (d a b c h : Bool) (n : Nat) : Bool :=
  (d || fD w == 0) && (a || srcA w == ⟨0, false⟩) && (b || srcB w == ⟨0, false⟩) && (c || srcC w == ⟨0, false⟩) &&
    (h || fH w == 0) && decide ((fImm16 w).toNat < 2 ^ n)

/-- One check of step 1 of R107, then the rest. -/
def need (ok : Bool) (r : Reject) (k : Except Reject Instr) : Except Reject Instr :=
  if ok then k else .error r

/-- A field whose code must be assigned, then the rest. -/
def withField {α : Type} (o : Option α) (r : Reject) (k : α → Except Reject Instr) : Except Reject Instr :=
  match o with
  | some x => k x
  | none => .error r

/-- The instruction, when its unused fields are zero and no last-use bit stands on g0. -/
def form (zero : Bool) (srcs : List Src) (i : Instr) : Except Reject Instr :=
  need zero .mustBeZero (need (srcs.all Src.ok) .lastUse (.ok i))

/-! The codes of R105, R106, R138 and R307. -/

/-- The precision SZ selects (R105). -/
def precOf (sz : BitVec 2) : Option Prec :=
  match sz.toNat with
  | 0 => some .s
  | 1 => some .d
  | _ => none

/-- The relation of `fcmp` (R105). -/
def relOf (c : BitVec 2) : FRel :=
  match c.toNat with
  | 0 => .eq
  | 1 => .lt
  | 2 => .le
  | _ => .un

/-- The number kind of `fcvt` (R105). -/
def fnumOf (c : BitVec 3) : Option FNum :=
  match c.toNat with
  | 0 => some .s
  | 1 => some .d
  | 2 => some .l
  | 3 => some .lu
  | 4 => some .w
  | 5 => some .wu
  | _ => none

/-- The k-register of a number (R138). -/
def kregOf (k : BitVec 8) : Option KReg :=
  match k.toNat with
  | 0x00 => some .kstat
  | 0x01 => some .kcause
  | 0x02 => some .kepc
  | 0x03 => some .ktval
  | 0x04 => some .ktvec
  | 0x05 => some .kscratch
  | 0x06 => some .kfpm
  | 0x07 => some .kevt
  | 0x08 => some .kctx
  | 0x09 => some .kcore
  | 0x0A => some .ktask
  | 0x0B => some .kgroup
  | 0x0C => some .kargbase
  | 0x0D => some .kprio
  | 0x0E => some .kqui
  | 0x0F => some .kcyc
  | 0x10 => some .ktime
  | _ => none

/-- A handle in the run of `n` handles from `base` (R106). -/
def handleOf (h : BitVec 9) (base n : Nat) : Option (Fin n) :=
  if hn : h.toNat - base < n then if base ≤ h.toNat then some ⟨h.toNat - base, hn⟩ else none else none

/-- The unit of a configuration form: any node, or core (R106). -/
def cfgUnitOf (h : BitVec 9) : Option CfgUnit :=
  if h == 0x1FF then some .core
  else if h.toNat < 0x100 && nodeIdOk (h.extractLsb' 0 8) then some (.node (h.extractLsb' 0 8)) else none

/-- The unit of a queue form (R106). -/
def queueUnitOf (h : BitVec 9) : Option QUnit :=
  match handleOf h 0x40 16 with
  | some n => some (.sb n)
  | none => (handleOf h 0x100 16).map .fq

/-- The unit of a stream barrier (R305): a handle goes with a generator, and A is zero with core. -/
def barUnitOf (h : BitVec 9) (base : Nat) (a : Src) : Option BarUnit :=
  if h == 0x1FF then if a == ⟨0, false⟩ then some .core else none
  else match handleOf h base 4 with
    | some n => if a.ok then some (.ag n a) else none
    | none => none

/-- The condition of `bar.if` (R307). -/
def condOf (w : Word) : Option BarCond :=
  let i := fImm16 w
  if i.getLsbD 0 then
    if fC w == 0 && !fLC w then some (.buffer (i.extractLsb' 8 4).toFin (i.extractLsb' 2 6) (i.getLsbD 1)) else none
  else if predOkC w && i.extractLsb' 2 10 == 0 then some (.pred (predC w) (i.getLsbD 1)) else none

/-- Major 0x00 (R102-R104). -/
def decodeSys (w : Word) : Except Reject Instr :=
  match (fMin w).toNat with
  | 0x00 => form (zeroR w false false false false false) [] (.nop (guardOf w))
  | 0x01 => form (zeroR w false false false false false) [] (.halt (guardOf w))
  | 0x02 => need (immFits w 16) .mustBeZero <| form (zeroI w false false true) []
      (.trap (guardOf w) ((fImm37 w).extractLsb' 0 16))
  | 0x03 => form (zeroR w false false false false false) [] (.tret (guardOf w))
  | 0x04 => form (zeroR w false false false false false) [] (.wait (guardOf w))
  | 0x05 => need (immFits w 16) .mustBeZero <| form (zeroI w false false true) []
      (.brk (guardOf w) ((fImm37 w).extractLsb' 0 16))
  | _ => .error .minor

/-- Major 0x01 (R102-R104). -/
def decodeIntR (w : Word) : Except Reject Instr :=
  match (fMin w).toNat with
  | 0x00 => form (zeroR w true true true false false) [srcA w, srcB w] (.add (guardOf w) (fD w) (srcA w) (srcB w))
  | 0x01 => form (zeroR w true true true false false) [srcA w, srcB w] (.sub (guardOf w) (fD w) (srcA w) (srcB w))
  | 0x02 => form (zeroR w true true true false false) [srcA w, srcB w] (.and (guardOf w) (fD w) (srcA w) (srcB w))
  | 0x03 => form (zeroR w true true true false false) [srcA w, srcB w] (.or (guardOf w) (fD w) (srcA w) (srcB w))
  | 0x04 => form (zeroR w true true true false false) [srcA w, srcB w] (.xor (guardOf w) (fD w) (srcA w) (srcB w))
  | 0x05 => form (zeroR w true true true false false) [srcA w, srcB w] (.andn (guardOf w) (fD w) (srcA w) (srcB w))
  | 0x06 => form (zeroR w true true true false false) [srcA w, srcB w] (.shl (guardOf w) (fD w) (srcA w) (srcB w))
  | 0x07 => form (zeroR w true true true false false) [srcA w, srcB w] (.shr (guardOf w) (fD w) (srcA w) (srcB w))
  | 0x08 => form (zeroR w true true true false false) [srcA w, srcB w] (.sra (guardOf w) (fD w) (srcA w) (srcB w))
  | 0x09 => form (zeroR w true true true false false) [srcA w, srcB w] (.rol (guardOf w) (fD w) (srcA w) (srcB w))
  | 0x0A => form (zeroR w true true true false false) [srcA w, srcB w] (.min (guardOf w) (fD w) (srcA w) (srcB w))
  | 0x0B => form (zeroR w true true true false false) [srcA w, srcB w] (.max (guardOf w) (fD w) (srcA w) (srcB w))
  | 0x0C => form (zeroR w true true true false false) [srcA w, srcB w] (.minz (guardOf w) (fD w) (srcA w) (srcB w))
  | 0x0D => form (zeroR w true true true false false) [srcA w, srcB w] (.maxz (guardOf w) (fD w) (srcA w) (srcB w))
  | 0x0E => form (zeroR w true true true false false) [srcA w, srcB w] (.mul (guardOf w) (fD w) (srcA w) (srcB w))
  | 0x0F => form (zeroR w true true true false false) [srcA w, srcB w] (.mulh (guardOf w) (fD w) (srcA w) (srcB w))
  | 0x10 => form (zeroR w true true true false false) [srcA w, srcB w] (.mulhz (guardOf w) (fD w) (srcA w) (srcB w))
  | 0x11 => form (zeroR w true true true false false) [srcA w, srcB w] (.div (guardOf w) (fD w) (srcA w) (srcB w))
  | 0x12 => form (zeroR w true true true false false) [srcA w, srcB w] (.divz (guardOf w) (fD w) (srcA w) (srcB w))
  | 0x13 => form (zeroR w true true true false false) [srcA w, srcB w] (.rem (guardOf w) (fD w) (srcA w) (srcB w))
  | 0x14 => form (zeroR w true true true false false) [srcA w, srcB w] (.remz (guardOf w) (fD w) (srcA w) (srcB w))
  | 0x15 => form (zeroR w true true false false false) [srcA w] (.clz (guardOf w) (fD w) (srcA w))
  | 0x16 => form (zeroR w true true false false false) [srcA w] (.ctz (guardOf w) (fD w) (srcA w))
  | 0x17 => form (zeroR w true true false false false) [srcA w] (.popc (guardOf w) (fD w) (srcA w))
  | 0x18 => need (predOkC w) .mustBeZero <| form (zeroR w true true true true false) [srcA w, srcB w]
      (.sel (guardOf w) (fD w) (srcA w) (srcB w) (predC w))
  | 0x19 => form (zeroR w true true true true false) [srcA w, srcB w, srcC w]
      (.bext (guardOf w) (fD w) (srcA w) (srcB w) (srcC w))
  | 0x1A => form (zeroR w true true true true false) [srcA w, srcB w, srcC w]
      (.bins (guardOf w) (fD w) (srcA w) (srcB w) (srcC w))
  | _ => .error .minor

/-- Major 0x02 (R102-R104). -/
def decodeIntI (w : Word) : Except Reject Instr :=
  match (fMin w).toNat with
  | 0x00 => form (zeroI w true true true) [srcA w] (.addi (guardOf w) (fD w) (srcA w) (fImm37 w))
  | 0x01 => form (zeroI w true true true) [srcA w] (.andi (guardOf w) (fD w) (srcA w) (fImm37 w))
  | 0x02 => form (zeroI w true true true) [srcA w] (.ori (guardOf w) (fD w) (srcA w) (fImm37 w))
  | 0x03 => form (zeroI w true true true) [srcA w] (.xori (guardOf w) (fD w) (srcA w) (fImm37 w))
  | 0x04 => need (immFits w 6) .mustBeZero <| form (zeroI w true true true) [srcA w]
      (.shli (guardOf w) (fD w) (srcA w) ((fImm37 w).extractLsb' 0 6))
  | 0x05 => need (immFits w 6) .mustBeZero <| form (zeroI w true true true) [srcA w]
      (.shri (guardOf w) (fD w) (srcA w) ((fImm37 w).extractLsb' 0 6))
  | 0x06 => need (immFits w 6) .mustBeZero <| form (zeroI w true true true) [srcA w]
      (.srai (guardOf w) (fD w) (srcA w) ((fImm37 w).extractLsb' 0 6))
  | 0x07 => form (zeroI w true false true) [] (.li (guardOf w) (fD w) (fImm37 w))
  | 0x08 => need (immFits w 27) .mustBeZero <| form (zeroI w true true true) [srcA w]
      (.liH (guardOf w) (fD w) (srcA w) ((fImm37 w).extractLsb' 0 27))
  | _ => .error .minor

/-- Major 0x03 (R102-R104). -/
def decodeCmp (w : Word) : Except Reject Instr :=
  match (fMin w).toNat with
  | 0x00 => need (predOkD w) .mustBeZero <| form (zeroR w true true true false false) [srcA w, srcB w]
      (.cmpEq (guardOf w) (predD w) (srcA w) (srcB w))
  | 0x01 => need (predOkD w) .mustBeZero <| form (zeroR w true true true false false) [srcA w, srcB w]
      (.cmpNe (guardOf w) (predD w) (srcA w) (srcB w))
  | 0x02 => need (predOkD w) .mustBeZero <| form (zeroR w true true true false false) [srcA w, srcB w]
      (.cmpLt (guardOf w) (predD w) (srcA w) (srcB w))
  | 0x03 => need (predOkD w) .mustBeZero <| form (zeroR w true true true false false) [srcA w, srcB w]
      (.cmpGe (guardOf w) (predD w) (srcA w) (srcB w))
  | 0x04 => need (predOkD w) .mustBeZero <| form (zeroR w true true true false false) [srcA w, srcB w]
      (.cmpLo (guardOf w) (predD w) (srcA w) (srcB w))
  | 0x05 => need (predOkD w) .mustBeZero <| form (zeroR w true true true false false) [srcA w, srcB w]
      (.cmpHs (guardOf w) (predD w) (srcA w) (srcB w))
  | 0x08 => need (predOkD w) .mustBeZero <| form (zeroI w true true true) [srcA w]
      (.cmpiEq (guardOf w) (predD w) (srcA w) (fImm37 w))
  | 0x09 => need (predOkD w) .mustBeZero <| form (zeroI w true true true) [srcA w]
      (.cmpiNe (guardOf w) (predD w) (srcA w) (fImm37 w))
  | 0x0A => need (predOkD w) .mustBeZero <| form (zeroI w true true true) [srcA w]
      (.cmpiLt (guardOf w) (predD w) (srcA w) (fImm37 w))
  | 0x0B => need (predOkD w) .mustBeZero <| form (zeroI w true true true) [srcA w]
      (.cmpiGe (guardOf w) (predD w) (srcA w) (fImm37 w))
  | 0x0C => need (predOkD w) .mustBeZero <| form (zeroI w true true true) [srcA w]
      (.cmpiLo (guardOf w) (predD w) (srcA w) (fImm37 w))
  | 0x0D => need (predOkD w) .mustBeZero <| form (zeroI w true true true) [srcA w]
      (.cmpiHs (guardOf w) (predD w) (srcA w) (fImm37 w))
  | _ => .error .minor

/-- Major 0x04 (R102-R104). -/
def decodePred (w : Word) : Except Reject Instr :=
  match (fMin w).toNat with
  | 0x00 => need (predOkD w) .mustBeZero <| need (predOkA w) .mustBeZero <| need (predOkB w) .mustBeZero <|
      form (zeroR w true true true false false) [] (.pand (guardOf w) (predD w) (predA w) (predB w))
  | 0x01 => need (predOkD w) .mustBeZero <| need (predOkA w) .mustBeZero <| need (predOkB w) .mustBeZero <|
      form (zeroR w true true true false false) [] (.por (guardOf w) (predD w) (predA w) (predB w))
  | 0x02 => need (predOkD w) .mustBeZero <| need (predOkA w) .mustBeZero <| need (predOkB w) .mustBeZero <|
      form (zeroR w true true true false false) [] (.pxor (guardOf w) (predD w) (predA w) (predB w))
  | 0x03 => need (predOkD w) .mustBeZero <| need (predOkA w) .mustBeZero <| need (predOkB w) .mustBeZero <|
      form (zeroR w true true true false false) [] (.pandn (guardOf w) (predD w) (predA w) (predB w))
  | 0x04 => need (predOkD w) .mustBeZero <| need (predOkA w) .mustBeZero <|
      form (zeroR w true true false false false) [] (.pmov (guardOf w) (predD w) (predA w))
  | 0x05 => need (predOkA w) .mustBeZero <| form (zeroR w true true false false false) []
      (.pget (guardOf w) (fD w) (predA w))
  | _ => .error .minor

/-- Major 0x05 (R102-R104). -/
def decodeBranch (w : Word) : Except Reject Instr :=
  match (fMin w).toNat with
  | 0x00 => form (zeroB w false false false true) [] (.br (guardOf w) (fOff32 w))
  | 0x01 => form (zeroB w true false false true) [] (.call (guardOf w) (fD w) (fOff32 w))
  | 0x02 => form (zeroB w false true false false) [srcA w] (.ret (guardOf w) (srcA w))
  | 0x03 => form (zeroB w true true false false) [srcA w] (.jr (guardOf w) (fD w) (srcA w))
  | 0x04 => need (!(fB w == 0)) .counter <| form (zeroB w false false true true) []
      (.loop (guardOf w) (fB w) (fOff32 w))
  | _ => .error .minor

/-- Major 0x06 (R102-R104). -/
def decodeLoad (w : Word) : Except Reject Instr :=
  match (fMin w).toNat with
  | 0x00 => need (orderOk (fAR w) (fSC w)) .scope <| form (zeroM w true true true false true true) [srcA w, srcB w]
      (.ldS8 (guardOf w) (fD w) (memOf w))
  | 0x01 => need (orderOk (fAR w) (fSC w)) .scope <| form (zeroM w true true true false true true) [srcA w, srcB w]
      (.ldZ8 (guardOf w) (fD w) (memOf w))
  | 0x02 => need (orderOk (fAR w) (fSC w)) .scope <| form (zeroM w true true true false true true) [srcA w, srcB w]
      (.ldS16 (guardOf w) (fD w) (memOf w))
  | 0x03 => need (orderOk (fAR w) (fSC w)) .scope <| form (zeroM w true true true false true true) [srcA w, srcB w]
      (.ldZ16 (guardOf w) (fD w) (memOf w))
  | 0x04 => need (orderOk (fAR w) (fSC w)) .scope <| form (zeroM w true true true false true true) [srcA w, srcB w]
      (.ldS32 (guardOf w) (fD w) (memOf w))
  | 0x05 => need (orderOk (fAR w) (fSC w)) .scope <| form (zeroM w true true true false true true) [srcA w, srcB w]
      (.ldZ32 (guardOf w) (fD w) (memOf w))
  | 0x06 => need (orderOk (fAR w) (fSC w)) .scope <| form (zeroM w true true true false true true) [srcA w, srcB w]
      (.ld64 (guardOf w) (fD w) (memOf w))
  | _ => .error .minor

/-- Major 0x07 (R102-R104). -/
def decodeStore (w : Word) : Except Reject Instr :=
  match (fMin w).toNat with
  | 0x00 => need (orderOk (fAR w) (fSC w)) .scope <|
      form (zeroM w true true true true true true) [srcA w, srcB w, srcV w] (.st8 (guardOf w) (srcV w) (memOf w))
  | 0x01 => need (orderOk (fAR w) (fSC w)) .scope <|
      form (zeroM w true true true true true true) [srcA w, srcB w, srcV w] (.st16 (guardOf w) (srcV w) (memOf w))
  | 0x02 => need (orderOk (fAR w) (fSC w)) .scope <|
      form (zeroM w true true true true true true) [srcA w, srcB w, srcV w] (.st32 (guardOf w) (srcV w) (memOf w))
  | 0x03 => need (orderOk (fAR w) (fSC w)) .scope <|
      form (zeroM w true true true true true true) [srcA w, srcB w, srcV w] (.st64 (guardOf w) (srcV w) (memOf w))
  | _ => .error .minor

/-- Major 0x08 (R102-R104). -/
def decodeAtomic (w : Word) : Except Reject Instr :=
  match (fMin w).toNat with
  | 0x00 => need (orderOk (fAR w) (fSC w)) .scope <| form (zeroM w true true true false true true) [srcA w, srcB w]
      (.amoAdd64 (guardOf w) (fD w) (srcB w) (amoOf w))
  | 0x01 => need (orderOk (fAR w) (fSC w)) .scope <| form (zeroM w true true true false true true) [srcA w, srcB w]
      (.amoMin64 (guardOf w) (fD w) (srcB w) (amoOf w))
  | 0x02 => need (orderOk (fAR w) (fSC w)) .scope <| form (zeroM w true true true false true true) [srcA w, srcB w]
      (.amoMax64 (guardOf w) (fD w) (srcB w) (amoOf w))
  | 0x03 => need (orderOk (fAR w) (fSC w)) .scope <| form (zeroM w true true true false true true) [srcA w, srcB w]
      (.amoMinz64 (guardOf w) (fD w) (srcB w) (amoOf w))
  | 0x04 => need (orderOk (fAR w) (fSC w)) .scope <| form (zeroM w true true true false true true) [srcA w, srcB w]
      (.amoMaxz64 (guardOf w) (fD w) (srcB w) (amoOf w))
  | 0x05 => need (orderOk (fAR w) (fSC w)) .scope <| form (zeroM w true true true false true true) [srcA w, srcB w]
      (.amoAnd64 (guardOf w) (fD w) (srcB w) (amoOf w))
  | 0x06 => need (orderOk (fAR w) (fSC w)) .scope <| form (zeroM w true true true false true true) [srcA w, srcB w]
      (.amoOr64 (guardOf w) (fD w) (srcB w) (amoOf w))
  | 0x07 => need (orderOk (fAR w) (fSC w)) .scope <| form (zeroM w true true true false true true) [srcA w, srcB w]
      (.amoXor64 (guardOf w) (fD w) (srcB w) (amoOf w))
  | 0x08 => need (orderOk (fAR w) (fSC w)) .scope <| form (zeroM w true true true false true true) [srcA w, srcB w]
      (.amoSwap64 (guardOf w) (fD w) (srcB w) (amoOf w))
  | 0x09 => need (orderOk (fAR w) (fSC w)) .scope <| form (zeroM w true true true false true true) [srcA w, srcB w]
      (.amoCas64 (guardOf w) (fD w) (srcB w) (amoOf w))
  | 0x0A => need (orderOk (fAR w) (fSC w)) .scope <| form (zeroM w true true true false true true) [srcA w, srcB w]
      (.amoFadd64 (guardOf w) (fD w) (srcB w) (amoOf w))
  | 0x10 => need (orderOk (fAR w) (fSC w)) .scope <| form (zeroM w true true true false true true) [srcA w, srcB w]
      (.amoAdd32 (guardOf w) (fD w) (srcB w) (amoOf w))
  | 0x11 => need (orderOk (fAR w) (fSC w)) .scope <| form (zeroM w true true true false true true) [srcA w, srcB w]
      (.amoMin32 (guardOf w) (fD w) (srcB w) (amoOf w))
  | 0x12 => need (orderOk (fAR w) (fSC w)) .scope <| form (zeroM w true true true false true true) [srcA w, srcB w]
      (.amoMax32 (guardOf w) (fD w) (srcB w) (amoOf w))
  | 0x13 => need (orderOk (fAR w) (fSC w)) .scope <| form (zeroM w true true true false true true) [srcA w, srcB w]
      (.amoMinz32 (guardOf w) (fD w) (srcB w) (amoOf w))
  | 0x14 => need (orderOk (fAR w) (fSC w)) .scope <| form (zeroM w true true true false true true) [srcA w, srcB w]
      (.amoMaxz32 (guardOf w) (fD w) (srcB w) (amoOf w))
  | 0x15 => need (orderOk (fAR w) (fSC w)) .scope <| form (zeroM w true true true false true true) [srcA w, srcB w]
      (.amoAnd32 (guardOf w) (fD w) (srcB w) (amoOf w))
  | 0x16 => need (orderOk (fAR w) (fSC w)) .scope <| form (zeroM w true true true false true true) [srcA w, srcB w]
      (.amoOr32 (guardOf w) (fD w) (srcB w) (amoOf w))
  | 0x17 => need (orderOk (fAR w) (fSC w)) .scope <| form (zeroM w true true true false true true) [srcA w, srcB w]
      (.amoXor32 (guardOf w) (fD w) (srcB w) (amoOf w))
  | 0x18 => need (orderOk (fAR w) (fSC w)) .scope <| form (zeroM w true true true false true true) [srcA w, srcB w]
      (.amoSwap32 (guardOf w) (fD w) (srcB w) (amoOf w))
  | 0x19 => need (orderOk (fAR w) (fSC w)) .scope <| form (zeroM w true true true false true true) [srcA w, srcB w]
      (.amoCas32 (guardOf w) (fD w) (srcB w) (amoOf w))
  | 0x1A => need (orderOk (fAR w) (fSC w)) .scope <| form (zeroM w true true true false true true) [srcA w, srcB w]
      (.amoFadd32 (guardOf w) (fD w) (srcB w) (amoOf w))
  | _ => .error .minor

/-- Major 0x09 (R102-R104). -/
def decodeFence (w : Word) : Except Reject Instr :=
  match (fMin w).toNat with
  | 0x00 => need (scopeOk (fSC w)) .scope <| form (zeroM w false false false false true false) []
      (.fence (guardOf w) (fSC w))
  | 0x01 => need (scopeOk (fSC w)) .scope <| form (zeroM w false false false false true false) []
      (.fenceX (guardOf w) (fSC w))
  | 0x02 => form (zeroM w false false false false false false) [] (.fenceCfg (guardOf w))
  | _ => .error .minor

/-- Major 0x0A (R102-R104). -/
def decodeKreg (w : Word) : Except Reject Instr :=
  match (fMin w).toNat with
  | 0x00 => need (immFits w 8) .mustBeZero <| withField (kregOf ((fImm37 w).extractLsb' 0 8)) .kreg fun k =>
      form (zeroI w true false true) [] (.krd (guardOf w) (fD w) k)
  | 0x01 => need (immFits w 8) .mustBeZero <| withField (kregOf ((fImm37 w).extractLsb' 0 8)) .kreg fun k =>
      form (zeroI w false true true) [srcA w] (.kwr (guardOf w) k (srcA w))
  | 0x02 => need (immFits w 8) .mustBeZero <| withField (kregOf ((fImm37 w).extractLsb' 0 8)) .kreg fun k =>
      form (zeroI w false true true) [srcA w] (.kset (guardOf w) k (srcA w))
  | 0x03 => need (immFits w 8) .mustBeZero <| withField (kregOf ((fImm37 w).extractLsb' 0 8)) .kreg fun k =>
      form (zeroI w false true true) [srcA w] (.kclr (guardOf w) k (srcA w))
  | _ => .error .minor

/-- Major 0x0B (R102-R104). -/
def decodeFp (w : Word) : Except Reject Instr :=
  match (fMin w).toNat with
  | 0x00 => withField (precOf (fSZ w)) .size fun f => form (zeroR w true true true false true) [srcA w, srcB w]
      (.fadd (guardOf w) f (fD w) (srcA w) (srcB w))
  | 0x01 => withField (precOf (fSZ w)) .size fun f => form (zeroR w true true true false true) [srcA w, srcB w]
      (.fsub (guardOf w) f (fD w) (srcA w) (srcB w))
  | 0x02 => withField (precOf (fSZ w)) .size fun f => form (zeroR w true true true false true) [srcA w, srcB w]
      (.fmul (guardOf w) f (fD w) (srcA w) (srcB w))
  | 0x03 => withField (precOf (fSZ w)) .size fun f => form (zeroR w true true true false true) [srcA w, srcB w]
      (.fdiv (guardOf w) f (fD w) (srcA w) (srcB w))
  | 0x04 => withField (precOf (fSZ w)) .size fun f => form (zeroR w true true false false true) [srcA w]
      (.fsqrt (guardOf w) f (fD w) (srcA w))
  | 0x05 => withField (precOf (fSZ w)) .size fun f => form (zeroR w true true true true true) [srcA w, srcB w, srcC w]
      (.ffma (guardOf w) f (fD w) (srcA w) (srcB w) (srcC w))
  | 0x06 => withField (precOf (fSZ w)) .size fun f => form (zeroR w true true true false true) [srcA w, srcB w]
      (.fmin (guardOf w) f (fD w) (srcA w) (srcB w))
  | 0x07 => withField (precOf (fSZ w)) .size fun f => form (zeroR w true true true false true) [srcA w, srcB w]
      (.fmax (guardOf w) f (fD w) (srcA w) (srcB w))
  | 0x08 => need (predOkD w) .mustBeZero <| need ((fC w).extractLsb' 2 3 == 0 && !fLC w) .mustBeZero <|
      withField (precOf (fSZ w)) .size fun f => form (zeroR w true true true true true) [srcA w, srcB w]
      (.fcmp (guardOf w) f (relOf ((fC w).extractLsb' 0 2)) (predD w) (srcA w) (srcB w))
  | 0x09 => need (!(fC w).getLsbD 4 && !fLC w) .mustBeZero <| withField (precOf (fSZ w)) .size fun f =>
      withField (fnumOf ((fC w).extractLsb' 0 3)) .fcvt fun n => need (fcvtOk f ((fC w).getLsbD 3) n) .fcvt <|
      form (zeroR w true true false true true) [srcA w] (.fcvt (guardOf w) f ((fC w).getLsbD 3) n (fD w) (srcA w))
  | 0x0A => withField (precOf (fSZ w)) .size fun f => form (zeroR w true true false false true) [srcA w]
      (.fclass (guardOf w) f (fD w) (srcA w))
  | _ => .error .minor

/-- Major 0x10 (R102-R104). -/
def decodeCfg (w : Word) : Except Reject Instr :=
  match (fMin w).toNat with
  | 0x00 => withField (cfgUnitOf (fH w)) .handle fun u => form (zeroX w true true false false true 0) [srcA w]
      (.cfgFetch (guardOf w) (fD w) u (srcA w))
  | 0x01 => withField (cfgUnitOf (fH w)) .handle fun u => form (zeroX w true true false false true 0) [srcA w]
      (.cfgLoad (guardOf w) (fD w) u (srcA w))
  | 0x02 => withField (cfgUnitOf (fH w)) .handle fun u => form (zeroX w true true false false true 10) [srcA w]
      (.cfgEvict (guardOf w) (fD w) u (srcA w) ((fImm16 w).extractLsb' 8 2) ((fImm16 w).extractLsb' 0 8))
  | 0x03 => withField (handleOf (fH w) 0x30 4) .handle fun ag => form (zeroX w true true false false true 0) [srcA w]
      (.cfgInband (guardOf w) (fD w) ag (srcA w))
  | 0x04 => withField (cfgUnitOf (fH w)) .handle fun u => need (probeOk u ((fImm16 w).extractLsb' 0 7)) .operand <|
      form (zeroX w true false false false true 7) [] (.cfgProbe (guardOf w) (fD w) u ((fImm16 w).extractLsb' 0 7))
  | 0x05 => form (zeroX w true false false false false 8) [] (.cfgTag (guardOf w) (fD w) ((fImm16 w).extractLsb' 0 8))
  | _ => .error .minor

/-- Major 0x11 (R102-R104). -/
def decodeStrm (w : Word) : Except Reject Instr :=
  match (fMin w).toNat with
  | 0x00 => withField (handleOf (fH w) 0x30 4) .handle fun ag =>
      form (zeroX w true true true true true 3) [srcA w, srcB w, srcC w]
      (.strmRd (guardOf w) (fD w) ag (srcA w) (srcB w) (srcC w) (((fImm16 w).extractLsb' 0 2).toFin) ((fImm16 w).getLsbD 2))
  | 0x01 => withField (handleOf (fH w) 0x34 4) .handle fun ag =>
      form (zeroX w true true true true true 3) [srcA w, srcB w, srcC w]
      (.strmWr (guardOf w) (fD w) ag (srcA w) (srcB w) (srcC w) (((fImm16 w).extractLsb' 0 2).toFin) ((fImm16 w).getLsbD 2))
  | 0x02 => withField (handleOf (fH w) 0x30 4) .handle fun ag =>
      form (zeroX w true true true true true 3) [srcA w, srcB w, srcC w]
      (.strmInd (guardOf w) (fD w) ag (srcA w) (srcB w) (srcC w) (((fImm16 w).extractLsb' 0 2).toFin) ((fImm16 w).getLsbD 2))
  | 0x03 => withField (handleOf (fH w) 0x30 8) .handle fun ag =>
      need (decide (4 ≤ ag.val) || srcC w == ⟨0, false⟩) .mustBeZero <|
      form (zeroX w true true true true true 3) [srcA w, srcB w, srcC w]
      (.strmCst (guardOf w) (fD w) ag (srcA w) (srcB w) (srcC w) (((fImm16 w).extractLsb' 0 2).toFin) ((fImm16 w).getLsbD 2))
  | 0x04 => withField (handleOf (fH w) 0x30 8) .handle fun ag =>
      form (zeroX w true true true true true 3) [srcA w, srcB w, srcC w]
      (.strmRec (guardOf w) (fD w) ag (srcA w) (srcB w) (srcC w) (((fImm16 w).extractLsb' 0 2).toFin) ((fImm16 w).getLsbD 2))
  | 0x05 => withField (handleOf (fH w) 0x30 8) .handle fun ag => form (zeroX w true true false false true 0) [srcA w]
      (.strmCancel (guardOf w) (fD w) ag (srcA w))
  | 0x06 => withField (handleOf (fH w) 0x30 8) .handle fun ag => form (zeroX w true true false false true 0) [srcA w]
      (.strmStat (guardOf w) (fD w) ag (srcA w))
  | _ => .error .minor

/-- Major 0x12 (R102-R104). -/
def decodeBar (w : Word) : Except Reject Instr :=
  match (fMin w).toNat with
  | 0x00 => withField (barUnitOf (fH w) 0x30 (srcA w)) .handle fun u => form (zeroX w true true false false true 0) []
      (.barRd (guardOf w) (fD w) u)
  | 0x01 => withField (barUnitOf (fH w) 0x34 (srcA w)) .handle fun u => form (zeroX w true true false false true 0) []
      (.barWr (guardOf w) (fD w) u)
  | 0x02 => withField (cfgUnitOf (fH w)) .handle fun u =>
      need ((fImm16 w).getLsbD 8 || (fImm16 w).extractLsb' 0 8 == 0) .operand <|
      form (zeroX w true false false false true 9) []
      (.barCfg (guardOf w) (fD w) u ((fImm16 w).getLsbD 8) ((fImm16 w).extractLsb' 0 8))
  | 0x03 => form (zeroX w true false false false false 0) [] (.barAll (guardOf w) (fD w))
  | 0x04 => withField (handleOf (fH w) 0x30 8) .handle fun ag => withField (condOf w) .operand fun cond =>
      form (zeroX w true true false true true 12) [srcA w] (.barIf (guardOf w) (fD w) ag (srcA w) cond)
  | _ => .error .minor

/-- Major 0x13 (R102-R104). -/
def decodeCtl (w : Word) : Except Reject Instr :=
  match (fMin w).toNat with
  | 0x00 => withField (handleOf (fH w) 0x20 8) .handle fun ct => form (zeroX w true true false false true 2) [srcA w]
      (.ctlSet (guardOf w) (fD w) ct (srcA w) ((fImm16 w).extractLsb' 0 2))
  | 0x01 => withField (handleOf (fH w) 0x20 8) .handle fun ct => form (zeroX w true false false false true 0) []
      (.ctlGo (guardOf w) (fD w) ct)
  | 0x02 => withField (handleOf (fH w) 0x20 8) .handle fun ct => form (zeroX w true false false false true 0) []
      (.ctlWait (guardOf w) (fD w) ct)
  | 0x03 => withField (handleOf (fH w) 0x20 8) .handle fun ct => form (zeroX w true false false false true 0) []
      (.ctlAbort (guardOf w) (fD w) ct)
  | _ => .error .minor

/-- Major 0x14 (R102-R104). -/
def decodeTpl (w : Word) : Except Reject Instr :=
  match (fMin w).toNat with
  | 0x00 => withField (handleOf (fH w) 0x50 16) .handle fun tm => form (zeroX w true true false false true 0) [srcA w]
      (.tplArm (guardOf w) (fD w) tm (srcA w))
  | 0x01 => withField (handleOf (fH w) 0x50 16) .handle fun tm => form (zeroX w true false false false true 0) []
      (.tplDisarm (guardOf w) (fD w) tm)
  | 0x02 => withField (handleOf (fH w) 0x50 16) .handle fun tm => form (zeroX w true true false false true 0) [srcA w]
      (.tplFire (guardOf w) (fD w) tm (srcA w))
  | 0x03 => withField (handleOf (fH w) 0x50 16) .handle fun tm => form (zeroX w true false false false true 0) []
      (.tplStat (guardOf w) (fD w) tm)
  | _ => .error .minor

/-- Major 0x15 (R102-R104). -/
def decodeQ (w : Word) : Except Reject Instr :=
  match (fMin w).toNat with
  | 0x00 => withField (queueUnitOf (fH w)) .handle fun q => need (!(fImm16 w).getLsbD 0 || q.isSb) .operand <|
      form (zeroX w true true false false true 1) [srcA w]
      (.qPush (guardOf w) (fD w) q (srcA w) ((fImm16 w).getLsbD 0))
  | 0x01 => withField (queueUnitOf (fH w)) .handle fun q => form (zeroX w true false false false true 1) []
      (.qPop (guardOf w) (fD w) q ((fImm16 w).getLsbD 0))
  | 0x02 => withField (queueUnitOf (fH w)) .handle fun q => form (zeroX w true false false false true 0) []
      (.qSpace (guardOf w) (fD w) q)
  | 0x03 => withField (queueUnitOf (fH w)) .handle fun q => form (zeroX w true true false false true 1) [srcA w]
      (.qWait (guardOf w) (fD w) q (srcA w) ((fImm16 w).getLsbD 0))
  | _ => .error .minor

/-- Major 0x16 (R102-R104). -/
def decodeSem (w : Word) : Except Reject Instr :=
  match (fMin w).toNat with
  | 0x00 => form (zeroX w true true true false false 0) [srcA w, srcB w]
      (.semInit (guardOf w) (fD w) (srcA w) (srcB w))
  | 0x01 => need ((fImm16 w).getLsbD 4 || (fImm16 w).extractLsb' 0 4 == 0) .operand <|
      form (zeroX w true true false false false 5) [srcA w]
      (.semTake (guardOf w) (fD w) (srcA w) ((fImm16 w).getLsbD 4) (((fImm16 w).extractLsb' 0 4).toFin))
  | 0x02 => form (zeroX w true true true false false 0) [srcA w, srcB w]
      (.semWait (guardOf w) (fD w) (srcA w) (srcB w))
  | 0x03 => need (!(fImm16 w == 0)) .operand <| form (zeroX w true true false false false 16) [srcA w]
      (.semAdv (guardOf w) (fD w) (srcA w) (fImm16 w))
  | _ => .error .minor

/-- Major 0x17 (R102-R104). -/
def decodeMx (w : Word) : Except Reject Instr :=
  match (fMin w).toNat with
  | 0x00 => need (fH w == 0x038) .handle <| form (zeroX w true true false false true 0) [srcA w]
      (.mxTok (guardOf w) (fD w) (srcA w))
  | 0x01 => withField (handleOf (fH w) 0x120 4) .handle fun acc => form (zeroX w true false false false true 12) []
      (.mxAccrd (guardOf w) (fD w) acc ((fImm16 w).extractLsb' 6 6) ((fImm16 w).extractLsb' 0 6))
  | 0x02 => withField (handleOf (fH w) 0x120 4) .handle fun acc => form (zeroX w true false false false true 0) []
      (.mxAccclr (guardOf w) (fD w) acc)
  | 0x03 => need (fH w == 0x038) .handle <| form (zeroX w true false false false true 0) []
      (.mxStat (guardOf w) (fD w))
  | _ => .error .minor

/-- Major 0x18 (R102-R104). -/
def decodeColl (w : Word) : Except Reject Instr :=
  match (fMin w).toNat with
  | 0x00 => form (zeroX w true true false false false 0) [srcA w] (.collRed (guardOf w) (fD w) (srcA w))
  | 0x01 => form (zeroX w true true false false false 0) [srcA w] (.collAttn (guardOf w) (fD w) (srcA w))
  | 0x02 => form (zeroX w true true false false false 0) [srcA w] (.collGath (guardOf w) (fD w) (srcA w))
  | 0x03 => form (zeroX w true true false false false 0) [srcA w] (.collScat (guardOf w) (fD w) (srcA w))
  | 0x04 => form (zeroX w true true false false false 0) [srcA w] (.collBcast (guardOf w) (fD w) (srcA w))
  | 0x05 => form (zeroX w true true false false false 0) [srcA w] (.collA2a (guardOf w) (fD w) (srcA w))
  | 0x06 => form (zeroX w true true false false false 0) [srcA w] (.collWait (guardOf w) (fD w) (srcA w))
  | _ => .error .minor

/-- Major 0x19 (R102-R104). -/
def decodePair (w : Word) : Except Reject Instr :=
  match (fMin w).toNat with
  | 0x00 => form (zeroX w true true false false false 0) [srcA w] (.pairBox (guardOf w) (fD w) (srcA w))
  | 0x01 => form (zeroX w true false false false false 0) [] (.pairBin (guardOf w) (fD w))
  | 0x02 => form (zeroX w true true true false false 5) [srcA w, srcB w]
      (.pairScan (guardOf w) (fD w) (srcA w) (srcB w) (((fImm16 w).extractLsb' 0 4).toFin) ((fImm16 w).getLsbD 4))
  | 0x03 => form (zeroX w true false false false false 0) [] (.pairStat (guardOf w) (fD w))
  | 0x04 => form (zeroX w true false false false false 0) [] (.pairClr (guardOf w) (fD w))
  | _ => .error .minor

/-- Major 0x1A (R102-R104). -/
def decodeKv (w : Word) : Except Reject Instr :=
  match (fMin w).toNat with
  | 0x00 => form (zeroX w true true false false false 0) [srcA w] (.kvAlloc (guardOf w) (fD w) (srcA w))
  | 0x01 => form (zeroX w true true false false false 1) [srcA w]
      (.kvFree (guardOf w) (fD w) (srcA w) ((fImm16 w).getLsbD 0))
  | 0x02 => form (zeroX w true true true false false 0) [srcA w, srcB w]
      (.kvShare (guardOf w) (fD w) (srcA w) (srcB w))
  | 0x03 => form (zeroX w true true false false false 0) [srcA w] (.kvMap (guardOf w) (fD w) (srcA w))
  | 0x04 => form (zeroX w true true true false false 1) [srcA w, srcB w]
      (.kvLimit (guardOf w) (fD w) (srcA w) (srcB w) ((fImm16 w).getLsbD 0))
  | 0x05 => form (zeroX w true true true false false 0) [srcA w, srcB w]
      (.kvLend (guardOf w) (fD w) (srcA w) (srcB w))
  | _ => .error .minor

/-- Major 0x1B (R102-R104). -/
def decodeTask (w : Word) : Except Reject Instr :=
  match (fMin w).toNat with
  | 0x00 => withField (handleOf (fH w) 0x110 16) .handle fun q => form (zeroX w true true false false true 0) [srcA w]
      (.taskSpawn (guardOf w) (fD w) q (srcA w))
  | 0x01 => form (zeroX w false false false false false 0) [] (.taskDone (guardOf w))
  | 0x02 => form (zeroX w true false false false false 0) [] (.taskYield (guardOf w) (fD w))
  | 0x03 => form (zeroX w true false false false false 4) []
      (.taskArg (guardOf w) (fD w) ((fImm16 w).extractLsb' 0 4))
  | 0x04 => form (zeroX w true true false false false 0) [srcA w] (.taskCancel (guardOf w) (fD w) (srcA w))
  | _ => .error .minor

/-- Major 0x1C (R102-R104). -/
def decodeFrz (w : Word) : Except Reject Instr :=
  match (fMin w).toNat with
  | 0x00 => form (zeroX w true true true false false 0) [srcA w, srcB w]
      (.frzSave (guardOf w) (fD w) (srcA w) (srcB w))
  | 0x01 => form (zeroX w true true false false false 4) [srcA w]
      (.frzLoad (guardOf w) (fD w) (srcA w) (((fImm16 w).extractLsb' 0 4).toFin))
  | _ => .error .minor

/-- Major 0x1D (R102-R104). -/
def decodeQui (w : Word) : Except Reject Instr :=
  match (fMin w).toNat with
  | 0x00 => form (zeroX w true false false false false 1) [] (.quiPoll (guardOf w) (fD w) ((fImm16 w).getLsbD 0))
  | 0x01 => form (zeroX w true true false false false 2) [srcA w]
      (.quiRep (guardOf w) (fD w) (srcA w) ((fImm16 w).extractLsb' 0 2))
  | _ => .error .minor

/-- Major 0x1E (R102-R104). -/
def decodeXlat (w : Word) : Except Reject Instr :=
  match (fMin w).toNat with
  | 0x00 => need (scopeOk ((fImm16 w).extractLsb' 4 3)) .scope <|
      need ((fImm16 w).extractLsb' 2 2 == 0) .mustBeZero <|
      form (zeroX w true true true false false 7) [srcA w, srcB w]
      (.xlatInv (guardOf w) (fD w) (srcA w) (srcB w) ((fImm16 w).extractLsb' 4 3) ((fImm16 w).extractLsb' 0 2))
  | 0x01 => form (zeroX w true true true false false 1) [srcA w, srcB w]
      (.xlatProbe (guardOf w) (fD w) (srcA w) (srcB w) ((fImm16 w).getLsbD 0))
  | 0x02 => need (!((fImm16 w).extractLsb' 0 2 == 3)) .operand <| withField (handleOf (fH w) 0x30 8) .handle fun ag =>
      form (zeroX w true true false false true 2) [srcA w]
      (.xlatRes (guardOf w) (fD w) ag (srcA w) ((fImm16 w).extractLsb' 0 2))
  | _ => .error .minor

/-- Decoding: the instruction a word is, or the first check of step 1 of R107 it fails. -/
def decode (w : Word) : Except Reject Instr :=
  need (guardOf w).ok .guard <|
  match (fMaj w).toNat with
  | 0x00 => decodeSys w
  | 0x01 => decodeIntR w
  | 0x02 => decodeIntI w
  | 0x03 => decodeCmp w
  | 0x04 => decodePred w
  | 0x05 => decodeBranch w
  | 0x06 => decodeLoad w
  | 0x07 => decodeStore w
  | 0x08 => decodeAtomic w
  | 0x09 => decodeFence w
  | 0x0A => decodeKreg w
  | 0x0B => decodeFp w
  | 0x10 => decodeCfg w
  | 0x11 => decodeStrm w
  | 0x12 => decodeBar w
  | 0x13 => decodeCtl w
  | 0x14 => decodeTpl w
  | 0x15 => decodeQ w
  | 0x16 => decodeSem w
  | 0x17 => decodeMx w
  | 0x18 => decodeColl w
  | 0x19 => decodePair w
  | 0x1A => decodeKv w
  | 0x1B => decodeTask w
  | 0x1C => decodeFrz w
  | 0x1D => decodeQui w
  | 0x1E => decodeXlat w
  | _ => .error .major

/-! The encoder. -/

/-- Bits 63:48 of a word (R96). -/
def packHeader (maj : BitVec 6) (g : Guard) (mn : BitVec 6) : BitVec 16 := maj ++ BitVec.ofBool g.neg ++ g.p ++ mn

/-- A source field with its last-use bit. -/
def packSrc (a : Src) : BitVec 6 := a.reg ++ BitVec.ofBool a.last

/-- The R format. -/
def packR (maj : BitVec 6) (g : Guard) (mn : BitVec 6) (d : BitVec 5) (a b c : Src) (sz : BitVec 2) : Word :=
  packHeader maj g mn ++ d ++ packSrc a ++ packSrc b ++ packSrc c ++ sz ++ (0 : BitVec 23)

/-- The I format. -/
def packI (maj : BitVec 6) (g : Guard) (mn : BitVec 6) (d : BitVec 5) (a : Src) (imm : BitVec 37) : Word :=
  packHeader maj g mn ++ d ++ packSrc a ++ imm

/-- The M format. -/
def packM (maj : BitVec 6) (g : Guard) (mn : BitVec 6) (d : BitVec 5) (a b : Src) (sc : BitVec 3) (ar ld : Bool)
    (off : BitVec 26) : Word :=
  packHeader maj g mn ++ d ++ packSrc a ++ packSrc b ++ sc ++ BitVec.ofBool ar ++ BitVec.ofBool ld ++ off

/-- The B format. -/
def packB (maj : BitVec 6) (g : Guard) (mn : BitVec 6) (d : BitVec 5) (a : Src) (b : BitVec 5) (off : BitVec 32) : Word :=
  packHeader maj g mn ++ d ++ packSrc a ++ b ++ off

/-- The X format. -/
def packX (maj : BitVec 6) (g : Guard) (mn : BitVec 6) (d : BitVec 5) (a b c : Src) (h : BitVec 9) (imm : BitVec 16) :
    Word :=
  packHeader maj g mn ++ d ++ packSrc a ++ packSrc b ++ packSrc c ++ h ++ imm

/-- A predicate in a register field (R96). -/
def predField (p : PReg) : BitVec 5 := p.setWidth 5

/-- SZ of a precision (R105). -/
def precCode : Prec → BitVec 2
  | .s => 0
  | .d => 1

/-- C[1:0] of a relation (R105). -/
def relCode : FRel → BitVec 2
  | .eq => 0
  | .lt => 1
  | .le => 2
  | .un => 3

/-- C[2:0] of a number kind (R105). -/
def fnumCode : FNum → BitVec 3
  | .s => 0
  | .d => 1
  | .l => 2
  | .lu => 3
  | .w => 4
  | .wu => 5

/-- The C field of `fcvt` (R105). -/
def fcvtCode (fromInt : Bool) (n : FNum) : BitVec 5 := (BitVec.ofBool fromInt ++ fnumCode n).setWidth 5

/-- The number of a k-register (R138). -/
def kregNumber : KReg → BitVec 8
  | .kstat => 0x00
  | .kcause => 0x01
  | .kepc => 0x02
  | .ktval => 0x03
  | .ktvec => 0x04
  | .kscratch => 0x05
  | .kfpm => 0x06
  | .kevt => 0x07
  | .kctx => 0x08
  | .kcore => 0x09
  | .ktask => 0x0A
  | .kgroup => 0x0B
  | .kargbase => 0x0C
  | .kprio => 0x0D
  | .kqui => 0x0E
  | .kcyc => 0x0F
  | .ktime => 0x10

/-- A handle from the base of its run (R106). -/
def handleCode (base n : Nat) : BitVec 9 := BitVec.ofNat 9 (base + n)

/-- The handle of a configuration form's unit (R106). -/
def cfgUnitCode : CfgUnit → BitVec 9
  | .node id => id.setWidth 9
  | .core => 0x1FF

/-- The handle of a queue (R106). -/
def queueUnitCode : QUnit → BitVec 9
  | .sb n => handleCode 0x40 n.val
  | .fq n => handleCode 0x100 n.val

/-- The handle of a stream barrier's unit (R305). -/
def barUnitCode (base : Nat) : BarUnit → BitVec 9
  | .ag n _ => handleCode base n.val
  | .core => 0x1FF

/-- Source A of a stream barrier (R305). -/
def barUnitSrc : BarUnit → Src
  | .ag _ a => a
  | .core => ⟨0, false⟩

/-- Field C of `bar.if` (R305). -/
def condSrc : BarCond → Src
  | .pred p _ => ⟨predField p, false⟩
  | .buffer _ _ _ => ⟨0, false⟩

/-- IMM16 of `bar.if` (R307). -/
def condImm : BarCond → BitVec 16
  | .pred _ inv => (BitVec.ofBool inv ++ (0 : BitVec 1)).setWidth 16
  | .buffer sb dbit inv => ((BitVec.ofFin sb : BitVec 4) ++ dbit ++ BitVec.ofBool inv ++ (1 : BitVec 1)).setWidth 16

/-- The word of an instruction (R96, R104); an event has none. -/
def encode : Instr → Option Word
  | .nop g => some (packR 0x00 g 0x00 0 ⟨0, false⟩ ⟨0, false⟩ ⟨0, false⟩ 0)
  | .halt g => some (packR 0x00 g 0x01 0 ⟨0, false⟩ ⟨0, false⟩ ⟨0, false⟩ 0)
  | .trap g code => some (packI 0x00 g 0x02 0 ⟨0, false⟩ (code.setWidth 37))
  | .tret g => some (packR 0x00 g 0x03 0 ⟨0, false⟩ ⟨0, false⟩ ⟨0, false⟩ 0)
  | .wait g => some (packR 0x00 g 0x04 0 ⟨0, false⟩ ⟨0, false⟩ ⟨0, false⟩ 0)
  | .brk g code => some (packI 0x00 g 0x05 0 ⟨0, false⟩ (code.setWidth 37))
  | .add g d a b => some (packR 0x01 g 0x00 d a b ⟨0, false⟩ 0)
  | .sub g d a b => some (packR 0x01 g 0x01 d a b ⟨0, false⟩ 0)
  | .and g d a b => some (packR 0x01 g 0x02 d a b ⟨0, false⟩ 0)
  | .or g d a b => some (packR 0x01 g 0x03 d a b ⟨0, false⟩ 0)
  | .xor g d a b => some (packR 0x01 g 0x04 d a b ⟨0, false⟩ 0)
  | .andn g d a b => some (packR 0x01 g 0x05 d a b ⟨0, false⟩ 0)
  | .shl g d a b => some (packR 0x01 g 0x06 d a b ⟨0, false⟩ 0)
  | .shr g d a b => some (packR 0x01 g 0x07 d a b ⟨0, false⟩ 0)
  | .sra g d a b => some (packR 0x01 g 0x08 d a b ⟨0, false⟩ 0)
  | .rol g d a b => some (packR 0x01 g 0x09 d a b ⟨0, false⟩ 0)
  | .min g d a b => some (packR 0x01 g 0x0A d a b ⟨0, false⟩ 0)
  | .max g d a b => some (packR 0x01 g 0x0B d a b ⟨0, false⟩ 0)
  | .minz g d a b => some (packR 0x01 g 0x0C d a b ⟨0, false⟩ 0)
  | .maxz g d a b => some (packR 0x01 g 0x0D d a b ⟨0, false⟩ 0)
  | .mul g d a b => some (packR 0x01 g 0x0E d a b ⟨0, false⟩ 0)
  | .mulh g d a b => some (packR 0x01 g 0x0F d a b ⟨0, false⟩ 0)
  | .mulhz g d a b => some (packR 0x01 g 0x10 d a b ⟨0, false⟩ 0)
  | .div g d a b => some (packR 0x01 g 0x11 d a b ⟨0, false⟩ 0)
  | .divz g d a b => some (packR 0x01 g 0x12 d a b ⟨0, false⟩ 0)
  | .rem g d a b => some (packR 0x01 g 0x13 d a b ⟨0, false⟩ 0)
  | .remz g d a b => some (packR 0x01 g 0x14 d a b ⟨0, false⟩ 0)
  | .clz g d a => some (packR 0x01 g 0x15 d a ⟨0, false⟩ ⟨0, false⟩ 0)
  | .ctz g d a => some (packR 0x01 g 0x16 d a ⟨0, false⟩ ⟨0, false⟩ 0)
  | .popc g d a => some (packR 0x01 g 0x17 d a ⟨0, false⟩ ⟨0, false⟩ 0)
  | .sel g d a b p => some (packR 0x01 g 0x18 d a b ⟨predField p, false⟩ 0)
  | .bext g d a b c => some (packR 0x01 g 0x19 d a b c 0)
  | .bins g d a b c => some (packR 0x01 g 0x1A d a b c 0)
  | .addi g d a imm => some (packI 0x02 g 0x00 d a imm)
  | .andi g d a imm => some (packI 0x02 g 0x01 d a imm)
  | .ori g d a imm => some (packI 0x02 g 0x02 d a imm)
  | .xori g d a imm => some (packI 0x02 g 0x03 d a imm)
  | .shli g d a n => some (packI 0x02 g 0x04 d a (n.setWidth 37))
  | .shri g d a n => some (packI 0x02 g 0x05 d a (n.setWidth 37))
  | .srai g d a n => some (packI 0x02 g 0x06 d a (n.setWidth 37))
  | .li g d imm => some (packI 0x02 g 0x07 d ⟨0, false⟩ imm)
  | .liH g d a imm => some (packI 0x02 g 0x08 d a (imm.setWidth 37))
  | .cmpEq g d a b => some (packR 0x03 g 0x00 (predField d) a b ⟨0, false⟩ 0)
  | .cmpNe g d a b => some (packR 0x03 g 0x01 (predField d) a b ⟨0, false⟩ 0)
  | .cmpLt g d a b => some (packR 0x03 g 0x02 (predField d) a b ⟨0, false⟩ 0)
  | .cmpGe g d a b => some (packR 0x03 g 0x03 (predField d) a b ⟨0, false⟩ 0)
  | .cmpLo g d a b => some (packR 0x03 g 0x04 (predField d) a b ⟨0, false⟩ 0)
  | .cmpHs g d a b => some (packR 0x03 g 0x05 (predField d) a b ⟨0, false⟩ 0)
  | .cmpiEq g d a imm => some (packI 0x03 g 0x08 (predField d) a imm)
  | .cmpiNe g d a imm => some (packI 0x03 g 0x09 (predField d) a imm)
  | .cmpiLt g d a imm => some (packI 0x03 g 0x0A (predField d) a imm)
  | .cmpiGe g d a imm => some (packI 0x03 g 0x0B (predField d) a imm)
  | .cmpiLo g d a imm => some (packI 0x03 g 0x0C (predField d) a imm)
  | .cmpiHs g d a imm => some (packI 0x03 g 0x0D (predField d) a imm)
  | .pand g d a b => some (packR 0x04 g 0x00 (predField d) ⟨predField a, false⟩ ⟨predField b, false⟩ ⟨0, false⟩ 0)
  | .por g d a b => some (packR 0x04 g 0x01 (predField d) ⟨predField a, false⟩ ⟨predField b, false⟩ ⟨0, false⟩ 0)
  | .pxor g d a b => some (packR 0x04 g 0x02 (predField d) ⟨predField a, false⟩ ⟨predField b, false⟩ ⟨0, false⟩ 0)
  | .pandn g d a b => some (packR 0x04 g 0x03 (predField d) ⟨predField a, false⟩ ⟨predField b, false⟩ ⟨0, false⟩ 0)
  | .pmov g d a => some (packR 0x04 g 0x04 (predField d) ⟨predField a, false⟩ ⟨0, false⟩ ⟨0, false⟩ 0)
  | .pget g d a => some (packR 0x04 g 0x05 d ⟨predField a, false⟩ ⟨0, false⟩ ⟨0, false⟩ 0)
  | .br g off => some (packB 0x05 g 0x00 0 ⟨0, false⟩ 0 off)
  | .call g d off => some (packB 0x05 g 0x01 d ⟨0, false⟩ 0 off)
  | .ret g a => some (packB 0x05 g 0x02 0 a 0 0)
  | .jr g d a => some (packB 0x05 g 0x03 d a 0 0)
  | .loop g b off => some (packB 0x05 g 0x04 0 ⟨0, false⟩ b off)
  | .ldS8 g d m => some (packM 0x06 g 0x00 d m.a m.b m.sc m.ar false m.off)
  | .ldZ8 g d m => some (packM 0x06 g 0x01 d m.a m.b m.sc m.ar false m.off)
  | .ldS16 g d m => some (packM 0x06 g 0x02 d m.a m.b m.sc m.ar false m.off)
  | .ldZ16 g d m => some (packM 0x06 g 0x03 d m.a m.b m.sc m.ar false m.off)
  | .ldS32 g d m => some (packM 0x06 g 0x04 d m.a m.b m.sc m.ar false m.off)
  | .ldZ32 g d m => some (packM 0x06 g 0x05 d m.a m.b m.sc m.ar false m.off)
  | .ld64 g d m => some (packM 0x06 g 0x06 d m.a m.b m.sc m.ar false m.off)
  | .st8 g v m => some (packM 0x07 g 0x00 v.reg m.a m.b m.sc m.ar v.last m.off)
  | .st16 g v m => some (packM 0x07 g 0x01 v.reg m.a m.b m.sc m.ar v.last m.off)
  | .st32 g v m => some (packM 0x07 g 0x02 v.reg m.a m.b m.sc m.ar v.last m.off)
  | .st64 g v m => some (packM 0x07 g 0x03 v.reg m.a m.b m.sc m.ar v.last m.off)
  | .amoAdd64 g d b m => some (packM 0x08 g 0x00 d m.a b m.sc m.ar false m.off)
  | .amoMin64 g d b m => some (packM 0x08 g 0x01 d m.a b m.sc m.ar false m.off)
  | .amoMax64 g d b m => some (packM 0x08 g 0x02 d m.a b m.sc m.ar false m.off)
  | .amoMinz64 g d b m => some (packM 0x08 g 0x03 d m.a b m.sc m.ar false m.off)
  | .amoMaxz64 g d b m => some (packM 0x08 g 0x04 d m.a b m.sc m.ar false m.off)
  | .amoAnd64 g d b m => some (packM 0x08 g 0x05 d m.a b m.sc m.ar false m.off)
  | .amoOr64 g d b m => some (packM 0x08 g 0x06 d m.a b m.sc m.ar false m.off)
  | .amoXor64 g d b m => some (packM 0x08 g 0x07 d m.a b m.sc m.ar false m.off)
  | .amoSwap64 g d b m => some (packM 0x08 g 0x08 d m.a b m.sc m.ar false m.off)
  | .amoCas64 g d b m => some (packM 0x08 g 0x09 d m.a b m.sc m.ar false m.off)
  | .amoFadd64 g d b m => some (packM 0x08 g 0x0A d m.a b m.sc m.ar false m.off)
  | .amoAdd32 g d b m => some (packM 0x08 g 0x10 d m.a b m.sc m.ar false m.off)
  | .amoMin32 g d b m => some (packM 0x08 g 0x11 d m.a b m.sc m.ar false m.off)
  | .amoMax32 g d b m => some (packM 0x08 g 0x12 d m.a b m.sc m.ar false m.off)
  | .amoMinz32 g d b m => some (packM 0x08 g 0x13 d m.a b m.sc m.ar false m.off)
  | .amoMaxz32 g d b m => some (packM 0x08 g 0x14 d m.a b m.sc m.ar false m.off)
  | .amoAnd32 g d b m => some (packM 0x08 g 0x15 d m.a b m.sc m.ar false m.off)
  | .amoOr32 g d b m => some (packM 0x08 g 0x16 d m.a b m.sc m.ar false m.off)
  | .amoXor32 g d b m => some (packM 0x08 g 0x17 d m.a b m.sc m.ar false m.off)
  | .amoSwap32 g d b m => some (packM 0x08 g 0x18 d m.a b m.sc m.ar false m.off)
  | .amoCas32 g d b m => some (packM 0x08 g 0x19 d m.a b m.sc m.ar false m.off)
  | .amoFadd32 g d b m => some (packM 0x08 g 0x1A d m.a b m.sc m.ar false m.off)
  | .fence g sc => some (packM 0x09 g 0x00 0 ⟨0, false⟩ ⟨0, false⟩ sc false false 0)
  | .fenceX g sc => some (packM 0x09 g 0x01 0 ⟨0, false⟩ ⟨0, false⟩ sc false false 0)
  | .fenceCfg g => some (packM 0x09 g 0x02 0 ⟨0, false⟩ ⟨0, false⟩ 0 false false 0)
  | .krd g d k => some (packI 0x0A g 0x00 d ⟨0, false⟩ ((kregNumber k).setWidth 37))
  | .kwr g k a => some (packI 0x0A g 0x01 0 a ((kregNumber k).setWidth 37))
  | .kset g k a => some (packI 0x0A g 0x02 0 a ((kregNumber k).setWidth 37))
  | .kclr g k a => some (packI 0x0A g 0x03 0 a ((kregNumber k).setWidth 37))
  | .fadd g f d a b => some (packR 0x0B g 0x00 d a b ⟨0, false⟩ (precCode f))
  | .fsub g f d a b => some (packR 0x0B g 0x01 d a b ⟨0, false⟩ (precCode f))
  | .fmul g f d a b => some (packR 0x0B g 0x02 d a b ⟨0, false⟩ (precCode f))
  | .fdiv g f d a b => some (packR 0x0B g 0x03 d a b ⟨0, false⟩ (precCode f))
  | .fsqrt g f d a => some (packR 0x0B g 0x04 d a ⟨0, false⟩ ⟨0, false⟩ (precCode f))
  | .ffma g f d a b c => some (packR 0x0B g 0x05 d a b c (precCode f))
  | .fmin g f d a b => some (packR 0x0B g 0x06 d a b ⟨0, false⟩ (precCode f))
  | .fmax g f d a b => some (packR 0x0B g 0x07 d a b ⟨0, false⟩ (precCode f))
  | .fcmp g f rel d a b => some (packR 0x0B g 0x08 (predField d) a b ⟨(relCode rel).setWidth 5, false⟩ (precCode f))
  | .fcvt g f fromInt n d a => some (packR 0x0B g 0x09 d a ⟨0, false⟩ ⟨fcvtCode fromInt n, false⟩ (precCode f))
  | .fclass g f d a => some (packR 0x0B g 0x0A d a ⟨0, false⟩ ⟨0, false⟩ (precCode f))
  | .cfgFetch g d u a => some (packX 0x10 g 0x00 d a ⟨0, false⟩ ⟨0, false⟩ (cfgUnitCode u) 0)
  | .cfgLoad g d u a => some (packX 0x10 g 0x01 d a ⟨0, false⟩ ⟨0, false⟩ (cfgUnitCode u) 0)
  | .cfgEvict g d u a mode tag =>
    some (packX 0x10 g 0x02 d a ⟨0, false⟩ ⟨0, false⟩ (cfgUnitCode u) ((mode ++ tag).setWidth 16))
  | .cfgInband g d ag a => some (packX 0x10 g 0x03 d a ⟨0, false⟩ ⟨0, false⟩ (handleCode 0x30 ag.val) 0)
  | .cfgProbe g d u sel => some (packX 0x10 g 0x04 d ⟨0, false⟩ ⟨0, false⟩ ⟨0, false⟩ (cfgUnitCode u) (sel.setWidth 16))
  | .cfgTag g d tag => some (packX 0x10 g 0x05 d ⟨0, false⟩ ⟨0, false⟩ ⟨0, false⟩ 0 (tag.setWidth 16))
  | .strmRd g d ag a b c slot defer =>
    some (packX 0x11 g 0x00 d a b c (handleCode 0x30 ag.val) ((BitVec.ofBool defer ++ (BitVec.ofFin slot : BitVec 2) : BitVec 3).setWidth 16))
  | .strmWr g d ag a b c slot defer =>
    some (packX 0x11 g 0x01 d a b c (handleCode 0x34 ag.val) ((BitVec.ofBool defer ++ (BitVec.ofFin slot : BitVec 2) : BitVec 3).setWidth 16))
  | .strmInd g d ag a b c slot defer =>
    some (packX 0x11 g 0x02 d a b c (handleCode 0x30 ag.val) ((BitVec.ofBool defer ++ (BitVec.ofFin slot : BitVec 2) : BitVec 3).setWidth 16))
  | .strmCst g d ag a b c slot defer =>
    some (packX 0x11 g 0x03 d a b c (handleCode 0x30 ag.val) ((BitVec.ofBool defer ++ (BitVec.ofFin slot : BitVec 2) : BitVec 3).setWidth 16))
  | .strmRec g d ag a b c slot defer =>
    some (packX 0x11 g 0x04 d a b c (handleCode 0x30 ag.val) ((BitVec.ofBool defer ++ (BitVec.ofFin slot : BitVec 2) : BitVec 3).setWidth 16))
  | .strmCancel g d ag a => some (packX 0x11 g 0x05 d a ⟨0, false⟩ ⟨0, false⟩ (handleCode 0x30 ag.val) 0)
  | .strmStat g d ag a => some (packX 0x11 g 0x06 d a ⟨0, false⟩ ⟨0, false⟩ (handleCode 0x30 ag.val) 0)
  | .barRd g d u => some (packX 0x12 g 0x00 d (barUnitSrc u) ⟨0, false⟩ ⟨0, false⟩ (barUnitCode 0x30 u) 0)
  | .barWr g d u => some (packX 0x12 g 0x01 d (barUnitSrc u) ⟨0, false⟩ ⟨0, false⟩ (barUnitCode 0x34 u) 0)
  | .barCfg g d u drain tag =>
    some (packX 0x12 g 0x02 d ⟨0, false⟩ ⟨0, false⟩ ⟨0, false⟩ (cfgUnitCode u) ((BitVec.ofBool drain ++ tag).setWidth 16))
  | .barAll g d => some (packX 0x12 g 0x03 d ⟨0, false⟩ ⟨0, false⟩ ⟨0, false⟩ 0 0)
  | .barIf g d ag a cond =>
    some (packX 0x12 g 0x04 d a ⟨0, false⟩ (condSrc cond) (handleCode 0x30 ag.val) (condImm cond))
  | .ctlSet g d ct a n => some (packX 0x13 g 0x00 d a ⟨0, false⟩ ⟨0, false⟩ (handleCode 0x20 ct.val) (n.setWidth 16))
  | .ctlGo g d ct => some (packX 0x13 g 0x01 d ⟨0, false⟩ ⟨0, false⟩ ⟨0, false⟩ (handleCode 0x20 ct.val) 0)
  | .ctlWait g d ct => some (packX 0x13 g 0x02 d ⟨0, false⟩ ⟨0, false⟩ ⟨0, false⟩ (handleCode 0x20 ct.val) 0)
  | .ctlAbort g d ct => some (packX 0x13 g 0x03 d ⟨0, false⟩ ⟨0, false⟩ ⟨0, false⟩ (handleCode 0x20 ct.val) 0)
  | .tplArm g d tm a => some (packX 0x14 g 0x00 d a ⟨0, false⟩ ⟨0, false⟩ (handleCode 0x50 tm.val) 0)
  | .tplDisarm g d tm => some (packX 0x14 g 0x01 d ⟨0, false⟩ ⟨0, false⟩ ⟨0, false⟩ (handleCode 0x50 tm.val) 0)
  | .tplFire g d tm a => some (packX 0x14 g 0x02 d a ⟨0, false⟩ ⟨0, false⟩ (handleCode 0x50 tm.val) 0)
  | .tplStat g d tm => some (packX 0x14 g 0x03 d ⟨0, false⟩ ⟨0, false⟩ ⟨0, false⟩ (handleCode 0x50 tm.val) 0)
  | .qPush g d q a last =>
    some (packX 0x15 g 0x00 d a ⟨0, false⟩ ⟨0, false⟩ (queueUnitCode q) ((BitVec.ofBool last).setWidth 16))
  | .qPop g d q peek =>
    some (packX 0x15 g 0x01 d ⟨0, false⟩ ⟨0, false⟩ ⟨0, false⟩ (queueUnitCode q) ((BitVec.ofBool peek).setWidth 16))
  | .qSpace g d q => some (packX 0x15 g 0x02 d ⟨0, false⟩ ⟨0, false⟩ ⟨0, false⟩ (queueUnitCode q) 0)
  | .qWait g d q a space =>
    some (packX 0x15 g 0x03 d a ⟨0, false⟩ ⟨0, false⟩ (queueUnitCode q) ((BitVec.ofBool space).setWidth 16))
  | .semInit g d a b => some (packX 0x16 g 0x00 d a b ⟨0, false⟩ 0 0)
  | .semTake g d a tok sb =>
    some (packX 0x16 g 0x01 d a ⟨0, false⟩ ⟨0, false⟩ 0 ((BitVec.ofBool tok ++ (BitVec.ofFin sb : BitVec 4) : BitVec 5).setWidth 16))
  | .semWait g d a b => some (packX 0x16 g 0x02 d a b ⟨0, false⟩ 0 0)
  | .semAdv g d a n => some (packX 0x16 g 0x03 d a ⟨0, false⟩ ⟨0, false⟩ 0 n)
  | .mxTok g d a => some (packX 0x17 g 0x00 d a ⟨0, false⟩ ⟨0, false⟩ 0x038 0)
  | .mxAccrd g d acc row col =>
    some (packX 0x17 g 0x01 d ⟨0, false⟩ ⟨0, false⟩ ⟨0, false⟩ (handleCode 0x120 acc.val) ((row ++ col).setWidth 16))
  | .mxAccclr g d acc => some (packX 0x17 g 0x02 d ⟨0, false⟩ ⟨0, false⟩ ⟨0, false⟩ (handleCode 0x120 acc.val) 0)
  | .mxStat g d => some (packX 0x17 g 0x03 d ⟨0, false⟩ ⟨0, false⟩ ⟨0, false⟩ 0x038 0)
  | .collRed g d a => some (packX 0x18 g 0x00 d a ⟨0, false⟩ ⟨0, false⟩ 0 0)
  | .collAttn g d a => some (packX 0x18 g 0x01 d a ⟨0, false⟩ ⟨0, false⟩ 0 0)
  | .collGath g d a => some (packX 0x18 g 0x02 d a ⟨0, false⟩ ⟨0, false⟩ 0 0)
  | .collScat g d a => some (packX 0x18 g 0x03 d a ⟨0, false⟩ ⟨0, false⟩ 0 0)
  | .collBcast g d a => some (packX 0x18 g 0x04 d a ⟨0, false⟩ ⟨0, false⟩ 0 0)
  | .collA2a g d a => some (packX 0x18 g 0x05 d a ⟨0, false⟩ ⟨0, false⟩ 0 0)
  | .collWait g d a => some (packX 0x18 g 0x06 d a ⟨0, false⟩ ⟨0, false⟩ 0 0)
  | .pairBox g d a => some (packX 0x19 g 0x00 d a ⟨0, false⟩ ⟨0, false⟩ 0 0)
  | .pairBin g d => some (packX 0x19 g 0x01 d ⟨0, false⟩ ⟨0, false⟩ ⟨0, false⟩ 0 0)
  | .pairScan g d a b sb dig =>
    some (packX 0x19 g 0x02 d a b ⟨0, false⟩ 0 ((BitVec.ofBool dig ++ (BitVec.ofFin sb : BitVec 4) : BitVec 5).setWidth 16))
  | .pairStat g d => some (packX 0x19 g 0x03 d ⟨0, false⟩ ⟨0, false⟩ ⟨0, false⟩ 0 0)
  | .pairClr g d => some (packX 0x19 g 0x04 d ⟨0, false⟩ ⟨0, false⟩ ⟨0, false⟩ 0 0)
  | .kvAlloc g d a => some (packX 0x1A g 0x00 d a ⟨0, false⟩ ⟨0, false⟩ 0 0)
  | .kvFree g d a all => some (packX 0x1A g 0x01 d a ⟨0, false⟩ ⟨0, false⟩ 0 ((BitVec.ofBool all).setWidth 16))
  | .kvShare g d a b => some (packX 0x1A g 0x02 d a b ⟨0, false⟩ 0 0)
  | .kvMap g d a => some (packX 0x1A g 0x03 d a ⟨0, false⟩ ⟨0, false⟩ 0 0)
  | .kvLimit g d a b clr => some (packX 0x1A g 0x04 d a b ⟨0, false⟩ 0 ((BitVec.ofBool clr).setWidth 16))
  | .kvLend g d a b => some (packX 0x1A g 0x05 d a b ⟨0, false⟩ 0 0)
  | .taskSpawn g d q a => some (packX 0x1B g 0x00 d a ⟨0, false⟩ ⟨0, false⟩ (handleCode 0x110 q.val) 0)
  | .taskDone g => some (packX 0x1B g 0x01 0 ⟨0, false⟩ ⟨0, false⟩ ⟨0, false⟩ 0 0)
  | .taskYield g d => some (packX 0x1B g 0x02 d ⟨0, false⟩ ⟨0, false⟩ ⟨0, false⟩ 0 0)
  | .taskArg g d n => some (packX 0x1B g 0x03 d ⟨0, false⟩ ⟨0, false⟩ ⟨0, false⟩ 0 (n.setWidth 16))
  | .taskCancel g d a => some (packX 0x1B g 0x04 d a ⟨0, false⟩ ⟨0, false⟩ 0 0)
  | .frzSave g d a b => some (packX 0x1C g 0x00 d a b ⟨0, false⟩ 0 0)
  | .frzLoad g d a q => some (packX 0x1C g 0x01 d a ⟨0, false⟩ ⟨0, false⟩ 0 ((BitVec.ofFin q : BitVec 4).setWidth 16))
  | .quiPoll g d wait =>
    some (packX 0x1D g 0x00 d ⟨0, false⟩ ⟨0, false⟩ ⟨0, false⟩ 0 ((BitVec.ofBool wait).setWidth 16))
  | .quiRep g d a sel => some (packX 0x1D g 0x01 d a ⟨0, false⟩ ⟨0, false⟩ 0 (sel.setWidth 16))
  | .xlatInv g d a b scope mode =>
    some (packX 0x1E g 0x00 d a b ⟨0, false⟩ 0 ((scope ++ (0 : BitVec 2) ++ mode).setWidth 16))
  | .xlatProbe g d a b leaf => some (packX 0x1E g 0x01 d a b ⟨0, false⟩ 0 ((BitVec.ofBool leaf).setWidth 16))
  | .xlatRes g d ag a target =>
    some (packX 0x1E g 0x02 d a ⟨0, false⟩ ⟨0, false⟩ (handleCode 0x30 ag.val) (target.setWidth 16))
  | .pendingResultWrite _ _ => none
  | .storeHomeFailure _ _ => none
  | .waitEnd _ => none
  | .barrierEnd _ => none
  | .fenceResume _ => none
  | .queueFormResume _ => none
  | .ctlWaitEnd _ => none
  | .collWaitEnd _ => none
  | .quiPollWaitEnd _ => none
  | .semRetest _ => none
  | .asyncTrap _ => none
  | .programPageFill _ => none
  | .coldreset => none
  | .warmreset => none
  | .boot => none
  | .recoveryFetch => none
  | .spdmMeasurement _ => none
  | .hostAccess _ => none
  | .hostAtomicop _ => none
  | .atsTranslationCompletion _ _ => none
  | .atsInvalidation _ => none
  | .tqFirstHalfWrite _ _ _ => none
  | .tqSecondHalfWrite _ _ _ => none
  | .taskCounterWrite _ _ _ => none
  | .fqpop _ => none
  | .fzareaWrite _ _ => none
  | .kvPoolWrite _ _ _ => none
  | .dmaWindowWrite _ _ _ => none
  | .dwlock _ => none
  | .stlinkWrite _ => none
  | .routeTableWrite _ _ => none
  | .registerWrite _ _ => none
  | .clockStepChange => none
  | .cycleStretch _ => none
  | .linkRetrainFailure _ => none
  | .remoteAccess _ => none
  | .bankAccess _ _ _ => none
  | .routerForward _ _ => none
  | .kill _ _ => none
  | .killReturn _ _ => none
  | .peFire _ _ => none
  | .digitEmit _ _ => none
  | .steer _ _ => none
  | .carry _ _ => none
  | .invar _ _ => none
  | .merge _ _ => none
  | .join _ _ => none
  | .order _ _ => none
  | .arb _ _ => none
  | .tagin _ _ => none
  | .tagout _ _ => none
  | .mld _ _ _ _ => none
  | .mst _ _ _ _ => none
  | .gath _ _ _ _ => none
  | .scat _ _ _ _ => none
  | .upd _ _ _ _ => none
  | .dep _ _ _ _ => none
  | .sparseUpdateApply _ _ _ _ _ => none
  | .mxTokenEnqueue _ => none
  | .mma _ => none
  | .mmaAcc _ => none
  | .accRd _ => none
  | .accClr _ => none
  | .matrixStep _ => none
  | .streamElement _ _ _ => none
  | .streamWrite _ _ _ => none
  | .streamDone _ _ _ => none
  | .streamCancelComplete _ _ _ => none
  | .barIfDecide _ _ _ => none
  | .pageWalk _ _ => none
  | .templateFiring _ _ => none
  | .copyEnd _ _ => none
  | .compressPhase _ _ => none
  | .sbPush _ _ => none
  | .sbPop _ _ => none
  | .frameInstall _ _ => none
  | .demandFill _ _ => none
  | .configRecord _ _ => none
  | .evictDrainClear _ _ => none
  | .permit _ _ => none
  | .doneToken _ _ => none
  | .iterationOpen _ _ => none
  | .quiescenceVerdict _ => none
  | .deadlockTrap _ => none
  | .taskReady _ _ _ => none
  | .schedulerBind _ => none
  | .preempt _ => none
  | .freeze _ => none
  | .taskRetire _ _ _ => none
  | .collRendezvous _ _ => none
  | .collCombine _ _ _ => none
  | .ringPass _ _ => none
  | .pairHomeCell _ => none
  | .pairRecordPush _ => none
  | .kvRequestRoute _ => none
  | .plainDelivery _ _ => none
  | .plainElementFire _ _ => none
  | .passInbound _ => none
  | .passOutbound _ => none
  | .reservedOpcode _ => none
  | .fabricCycle => none
  | .ktimeTick => none
  | .stretchRelease _ => none
  | .stanumPortTraining _ _ => none
  | .remoteReplayFailure _ _ => none
  | .atsDisable => none

/-- The instruction word KTVAL receives (R107): a form's own, or the reserved word; an event has none. -/
def wordOf (i : Instr) : Word :=
  match i with
  | .reservedOpcode w => w
  | i => (encode i).getD 0

/-- The instruction the decoder reads from a word given as the opcode table numbers its bits. -/
def decodeTableWord (_nbits w : Nat) : Option Instr :=
  match decode (BitVec.ofNat 64 w) with
  | .ok i => some i
  | .error _ => none

end Sys2Proof
end

