-- ==== Sys2Proof/Machine/Operands.lean ====
section
/-!
DEFINITION. Operands: guards (R97), sources with their last-use bits and vacancy (R98, R99, R134, R137), destinations,
and the registers an instruction names (R144).
-/
namespace Sys2Proof.Machine

/-- Register r is vacant; g0 never is (R134). -/
def Regs.vacant (x : Regs) (r : Reg) : Bool := r != 0 && x.vac.getLsbD r.toNat

/-- The value a read returns: zero for g0 and for a vacant register (R134, R137). -/
def Regs.get (x : Regs) (r : Reg) : Word := if r = 0 ∨ x.vacant r then 0 else x.g[r.toNat]'r.isLt

/-- A write makes the register occupied; a write to g0 is ignored (R99, R134). -/
def Regs.put (x : Regs) (r : Reg) (v : Word) : Regs :=
  if r = 0 then x else { x with g := x.g.set r.toNat v r.isLt, vac := x.vac &&& ~~~(1#32 <<< r.toNat) }

/-- A last-use read makes the register vacant (R99). -/
def Regs.vacate (x : Regs) (r : Reg) : Regs :=
  if r = 0 then x else { x with g := x.g.set r.toNat 0 r.isLt, vac := x.vac ||| (1#32 <<< r.toNat) }

/-- Step 2 of R99: each source with its last-use bit set becomes vacant. -/
def Regs.vacateAll (x : Regs) : List Src → Regs
  | [] => x
  | a :: l => (if a.last then x.vacate a.reg else x).vacateAll l

/-- Predicate p; p0 reads true (R135). -/
def Regs.pred (x : Regs) (p : PReg) : Bool := p == 0 || x.preds.getLsbD p.toNat

/-- A write to a predicate; a write to p0 is discarded (R135). -/
def Regs.setPred (x : Regs) (p : PReg) (b : Bool) : Regs :=
  if p = 0 then x
  else { x with preds := if b then x.preds ||| (1#8 <<< p.toNat) else x.preds &&& ~~~(1#8 <<< p.toNat) }

/-- The guard holds (R97). -/
def Regs.guard (x : Regs) (g : Guard) : Bool := x.pred g.p != g.neg

/-- The value of a source. -/
def Cp.val (x : Cp) (a : Src) : Word := x.regs.get a.reg

/-- The first vacant source, in field order (R99). -/
def Regs.firstVacant (x : Regs) : List Src → Option Reg
  | [] => none
  | a :: l => if x.vacant a.reg then some a.reg else x.firstVacant l

/-- The reads of an instruction take effect: last-use bits, and KSTAT.VREAD for a vacant read with VSTRICT = 0 (R99, R137). -/
def Cp.readSrcs (x : Cp) (srcs : List Src) : Cp :=
  { x with
    regs := x.regs.vacateAll srcs
    k := { x.k with vread := x.k.vread || (x.regs.firstVacant srcs).isSome } }

/-- The instruction completes: its sources' last-use bits take effect, a vacant read with VSTRICT = 0 sets KSTAT.VREAD
(R137), its results are written by `f`, and the program counter goes to `pc` (R99). -/
def Cp.retireTo (x : Cp) (srcs : List Src) (pc : Word) (f : Cp → Cp) : Cp :=
  let seen := (x.regs.firstVacant srcs).isSome
  f { x with
    regs := { x.regs.vacateAll srcs with pc := pc }
    k := { x.k with vread := x.k.vread || seen } }

/-- The instruction completes and the next one follows. -/
def Cp.retire (x : Cp) (srcs : List Src) (f : Cp → Cp) : Cp := x.retireTo srcs (x.regs.pc + 8) f

/-- A guard that fails: last-use bits alone take effect, and nothing is read (R97, R99). -/
def Cp.skip (x : Cp) (srcs : List Src) : Cp := { x with regs := { x.regs.vacateAll srcs with pc := x.regs.pc + 8 } }

/-- The result written to a general register. -/
def Cp.put (x : Cp) (r : Reg) (v : Word) : Cp := { x with regs := x.regs.put r v }

/-- The result written to a predicate. -/
def Cp.putPred (x : Cp) (p : PReg) (b : Bool) : Cp := { x with regs := x.regs.setPred p b }

end Sys2Proof.Machine
end

