-- ==== Sys2Proof/Machine/Ops.lean ====
section
/-!
DEFINITION. The named operations shared by the control processor's forms: taking a trap and returning from one (R149,
R450, R451), and the checks that every form makes in the order of R107.
-/
namespace Sys2Proof.Machine

/-! Cause codes of KCAUSE (R449). -/

/-- ILLOP -/
def causeIllop : BitVec 6 := 0x01
/-- PRIV -/
def causePriv : BitVec 6 := 0x02
/-- VACANT -/
def causeVacant : BitVec 6 := 0x03
/-- ALIGN -/
def causeAlign : BitVec 6 := 0x04
/-- XLATE -/
def causeXlate : BitVec 6 := 0x05
/-- PROT -/
def causeProt : BitVec 6 := 0x06
/-- ECCU -/
def causeEccu : BitVec 6 := 0x07
/-- BOUND -/
def causeBound : BitVec 6 := 0x08
/-- TRAPI -/
def causeTrapi : BitVec 6 := 0x09
/-- BRK -/
def causeBrk : BitVec 6 := 0x0A
/-- DEADLOCK -/
def causeDeadlock : BitVec 6 := 0x0B
/-- DUPTAG -/
def causeDuptag : BitVec 6 := 0x0C
/-- CFGERR -/
def causeCfgerr : BitVec 6 := 0x0D
/-- BLKAXIS -/
def causeBlkaxis : BitVec 6 := 0x0E
/-- POISON -/
def causePoison : BitVec 6 := 0x0F
/-- REMOTE -/
def causeRemote : BitVec 6 := 0x10
/-- KVERR -/
def causeKverr : BitVec 6 := 0x11

/-- KEPC as it is read and as `tret` uses it: bits 2:0 are zero (R139). -/
def KRegs.epcRead (k : KRegs) : Word := k.epc &&& ~~~7#64

/-- Taking a trap (R149), as one step: KCAUSE, KEPC and KTVAL are written, PSYS takes SYS and SYS becomes 1, and the
program counter goes to KTVEC.BASE * 8. A form that stood at issue no longer stands (R451), and the next fetch is that of
the handler's first instruction. -/
def Cp.trap (x : Cp) (cause : BitVec 6) (epc tval : Word) : Cp :=
  { regs := { x.regs with pc := x.k.tvec.setWidth 64 <<< 3 }
    k := { x.k with cause := cause, epc := epc, tval := tval, psys := x.k.sys, sys := true }
    ctl := { x.ctl with standing := none, told := false, again := false, records := [], entry := true } }

/-- A synchronous trap: KEPC holds the instruction's own address (R449). -/
def Cp.raise (x : Cp) (cause : BitVec 6) (tval : Word) : Cp := x.trap cause x.regs.pc tval

/-- Returning from a trap (R149): the program counter goes to KEPC, SYS takes PSYS, and PSYS stays. -/
def Cp.tret (x : Cp) : Cp :=
  { x with regs := { x.regs with pc := x.k.epcRead }, k := { x.k with sys := x.k.psys } }

/-- The order of asynchronous traps (R450), and then those that only a load at binding raises (R337). -/
def asyncOrder : List (BitVec 6) :=
  [causeEccu, causeRemote, causeBlkaxis, causeCfgerr, causeDuptag, causePoison, causeKverr, causeDeadlock,
    causeXlate, causeProt, causeBound]

/-- A trap made pending, at most one per cause (R450). -/
def Cp.pendTrap (x : Cp) (cause : BitVec 6) (tval : Word) : Cp :=
  if x.ctl.traps.any (fun t => t.1 == cause) then x
  else { x with
    ctl := { x.ctl with
      traps := x.ctl.traps ++ [(cause, tval)], cfgAt := if cause = causeCfgerr then none else x.ctl.cfgAt } }

/-- A CFGERR trap made pending, whose KTVAL names a node at bit `b` (R127, R186, R449). -/
def Cp.pendNode (x : Cp) (b : Nat) (tval : Word) : Cp :=
  if x.ctl.traps.any (fun t => t.1 == causeCfgerr) then x
  else { x with ctl := { x.ctl with traps := x.ctl.traps ++ [(causeCfgerr, tval)], cfgAt := some b } }

/-- The pending trap that is taken next (R450). -/
def nextTrap (ts : List (BitVec 6 × Word)) : List (BitVec 6) → Option (BitVec 6 × Word)
  | [] => none
  | c :: l =>
    match listFind (fun t => t.1 == c) ts with
    | some t => some t
    | none => nextTrap ts l

/-- The control processor is bound and has not stopped (R143, R150, R330). -/
def Cp.alive (x : Cp) : Bool := x.ctl.bound && !x.ctl.halted && !x.ctl.done

/-- An asynchronous trap is pending (R450). -/
def Cp.trapPending (x : Cp) : Bool := (nextTrap x.ctl.traps asyncOrder).isSome

/-- The issuing control processor takes a synchronous trap. -/
def State.raise (s : State) (cause : BitVec 6) (tval : Word) : Result := .next (s.modCp fun x => x.raise cause tval)

/-- The issuing control processor completes its instruction. -/
def State.retire (s : State) (srcs : List Src) (f : Cp → Cp) : State := s.modCp fun x => x.retire srcs f

/-- Every form's checks in the order of R107 after step 1: the guard, the privilege, the source reads, and then the
form's own effect `k`. `srcs` lists the sources in field order (R99). -/
def runForm (s : State) (i : Instr) (g : Guard) (priv : Bool) (srcs : List Src) (k : Result) : Result :=
  if !s.cp.regs.guard g then .next (s.modCp fun x => x.skip srcs)
  else if priv && !s.cp.k.sys then s.raise causePriv (wordOf i)
  else match s.cp.k.vstrict, s.cp.regs.firstVacant srcs with
    | true, some r => s.raise causeVacant (r.setWidth 64)
    | _, _ => k

/-- The state of a result that goes on. -/
def nextState (s : State) : Result → State
  | .next t => t
  | _ => s

/-- A form that writes one general register and changes nothing else. -/
def aluForm (s : State) (i : Instr) (g : Guard) (srcs : List Src) (d : Reg) (v : Word) : Result :=
  runForm s i g false srcs (.next (s.retire srcs fun x => x.put d v))

/-- A form that writes one predicate and changes nothing else. -/
def predForm (s : State) (i : Instr) (g : Guard) (srcs : List Src) (d : PReg) (b : Bool) : Result :=
  runForm s i g false srcs (.next (s.retire srcs fun x => x.putPred d b))

end Sys2Proof.Machine
end

