-- ==== Sys2Proof/Machine/Faults.lean ====
section
/-!
DEFINITION. Fault, poison and deadlock records (22 R449-R455) and the asynchronous traps that go with them.
-/
namespace Sys2Proof.Machine

/-- The origin id of node `n` of core `c` (R16). -/
def originId (c n : Nat) : Nat := c / 96 * 2 ^ 15 + c / 12 % 8 * 2 ^ 12 + c % 12 * 2 ^ 8 + n

/-- The origin id of Plain element e of cluster k (R393). -/
def plainOrig (k e : Nat) : Nat := originId (12 * k) (0x80 + e)

/-- The core that an origin id names (R16). -/
def coreOfOrigin (o : Nat) : Nat := 96 * (o / 2 ^ 15 % 8) + 12 * (o / 2 ^ 12 % 8) + o / 2 ^ 8 % 16

/-- Bits 23:0 of the handle of the task bound to a core (R324, R452). -/
def State.taskField (s : State) (c : Nat) : Nat :=
  let k := (s.cpOf c).ctl
  if k.bound then
    (tabGet TSlot.reset (s.die (c / 96)).sched.slots (256 * k.queue.toNat + k.slot.toNat)).gen.toNat * 2 ^ 16
      + k.queue.toNat * 2 ^ 8 + k.slot.toNat
  else 0

/-- A freeze wave is in progress on the group of core c (R41, R48). -/
def State.waved (s : State) (c : Nat) : Bool :=
  let x := s.cpOf c
  x.ctl.bound && (s.die (c / 96)).sched.waves.any fun w => w.queue == x.ctl.queue.toNat && w.slot == x.ctl.slot.toNat

/-- The task of core c is bound and waits for the accesses ordered ahead of its start (R217, R330). -/
def State.unstarted (s : State) (c : Nat) : Bool :=
  let x := (s.cpOf c).ctl
  x.bound && !(tabGet TSlot.reset (s.die (c / 96)).sched.slots (256 * x.queue.toNat + x.slot.toNat)).after.isEmpty

/-- What a record says (R452) beside NUM and TASK: TYPE, CAUSE, ORIG, the flags RESUME, HELD and DOUBLE, and words 2 to
7. -/
structure FRec where
  typ : Nat
  cause : BitVec 6
  orig : Nat
  resume : Bool
  held : Bool
  double : Bool
  words : List Word
deriving DecidableEq, Repr

/-- The words of a record (R452) that names core `c`. -/
def FRec.build (r : FRec) (num task c : Nat) : Vector Word 8 :=
  #v[word (r.typ * 2 ^ 62 + r.cause.toNat * 2 ^ 56 + r.orig % 2 ^ 18 * 2 ^ 38 + num),
     word ((boolWord r.resume).toNat * 2 ^ 63 + (boolWord r.held).toNat * 2 ^ 62 + (boolWord r.double).toNat * 2 ^ 61
       + originId c 0 * 2 ^ 32 + task),
     listGet 0 r.words 0, listGet 0 r.words 1, listGet 0 r.words 2, listGet 0 r.words 3, listGet 0 r.words 4,
     listGet 0 r.words 5]

/-- A record joins the queue, or is dropped (R454): a poison record at 448 records, any record at 512. The NUM of one whose
cause cannot be resumed is kept (R390, R455). -/
def FaultQ.push (q : FaultQ) (poison : Bool) (v : Vector Word 8) : FaultQ :=
  let cause := bits (v[0]) 56 6
  let q := if cause = causeCfgerr.toNat ∨ cause = causeDuptag.toNat then { q with fixed := q.fixed ++ [q.next] } else q
  if 512 ≤ q.recs.length ∨ (poison ∧ 448 ≤ q.recs.length) then { q with next := q.next + 1, dropped := q.dropped + 1 }
  else { q with recs := q.recs ++ [v], next := q.next + 1 }

/-- The NUM that the next record naming core `c` receives (R452). -/
def State.nextNum (s : State) (c : Nat) : Nat := (s.die (c / 96)).faults.next.toNat

/-- A record is posted to the die of the core it names, and sets that core's wake-latch bit 3 (R453). -/
def State.post (s : State) (c : Nat) (r : FRec) : State :=
  let v := r.build (s.nextNum c) (s.taskField c) c
  (s.modDie (c / 96) fun x => { x with faults := x.faults.push (r.typ == 1) v }).modCpOf c
    fun x => { x with ctl := { x.ctl with latch3 := true } }

/-- A trap made pending at core `c` (R450); an unbound or halted core keeps it until it may be taken. -/
def State.pendTrap (s : State) (c : Nat) (cause : BitVec 6) (tval : Word) : State :=
  s.modCpOf c fun x => x.pendTrap cause tval

/-- A CFGERR trap made pending at core `c`, whose KTVAL names a node at bit `b`. -/
def State.pendNode (s : State) (c b : Nat) (tval : Word) : State := s.modCpOf c fun x => x.pendNode b tval

/-- KTVAL of a CFGERR trap for a terminal withhold (R449): NUM in 63:32 and the node's origin id in 17:0. -/
def withholdVal (num orig : Nat) : Word := word (num * 2 ^ 32 + orig)

/-- A terminal withhold with cause CFGERR (R455): a record naming the node, and the CFGERR trap of R449. -/
def State.postCfgerr (s : State) (c node : Nat) : State :=
  let num := s.nextNum c
  let o := originId c node
  (s.post c { typ := 0, cause := causeCfgerr, orig := o, resume := false, held := true, double := false,
              words := [word o] }).pendNode c 0 (withholdVal num o)

/-- A poison record (R66, R237, R239): the first poisoned element, its count and its ORIG. -/
def State.postPoison (s : State) (c node : Nat) (w2 count : Word) (orig : Nat) : State :=
  s.post c { typ := 1, cause := causePoison, orig := originId c node, resume := false, held := false, double := false,
             words := [w2, count, word orig] }

/-- The core `y` with MXSTAT.ERR of the core `x`, which binding and COLDRESET alone clear (R192). -/
def Core.keepErr (y x : Core) : Core :=
  { y with units := { y.units with mx := { y.units.mx with err := x.units.mx.err } } }

/-- The ORIG of an element that memory could not deliver (R59, R202): the memory tile, or where the byte lies in no tile
a value that no rule gives. -/
def State.memOrig (s : State) (pa : Nat) : Nat :=
  if s.isOwn pa && regionOf (paKind pa) == .scratch then originId (paCore pa) (0x28 + pa % 2 ^ 20 / 0x30000)
  else originId (Config.memOrigin pa).1.val (Config.memOrigin pa).2.toNat

/-- A write that no core commanded meets an uncorrectable half (R203): the record with cause ECCU names the core whose scratch
it is, or else the home die's first core, and the memory itself as ORIG (DESIGN CHOICE, log entry 26). -/
def State.homeRefuses (s : State) (pa : Nat) : State :=
  let c := if regionOf (paKind pa) == .scratch then paCore pa else 96 * paDie pa
  s.post c { typ := 0, cause := causeEccu, orig := s.memOrig pa, resume := false, held := false, double := false,
             words := [word pa, 0] }

/-- Bytes from the host or another package written at their home (R203, R464). -/
def State.outsideWrite (s : State) (pa : Nat) (bs : List Byte) : State :=
  if s.narrowBad pa bs.length then s.homeRefuses pa else s.writeBytes pa bs

end Sys2Proof.Machine
end

