-- ==== Sys2Proof/Machine/Commands.lean ====
section
/-!
DEFINITION. What commands share: fences that hold them at issue (R232), pending destinations (R169), and values that
come back.
-/
namespace Sys2Proof.Machine

/-- Every access that a fence waits for has been performed (R232). -/
def CpCtl.met (x : CpCtl) (f : Fence) : Bool := f.ids.all fun id => !(x.reqs.any fun r => r.id == id)

/-- A fence of this kind whose ordering is not met (R232). -/
def Cp.unmet (x : Cp) (k : FenceKind) : Bool := x.ctl.fences.any fun f => f.kind == k && !x.ctl.met f

/-- A `fence.cfg` whose ordering is not met holds fills (R211, R232). -/
def Cp.fillsHeld (x : Cp) : Bool := x.unmet .fills

/-- The forms that start configuration-cache fills, which a `fence.cfg` holds (R211). -/
def startsFill : Instr → Bool
  | .cfgFetch .. | .cfgLoad .. | .cfgEvict .. | .cfgInband .. => true
  | _ => false

/-- The forms that make CP accesses: loads, stores, atomics and semaphore forms (R225, R230, R441), and the commands that read
a record on the CP path (R290, R313, R329, R339, R406). A plain `fence` holds these (R211, R479). -/
def makesAccess : Instr → Bool
  | .ldS8 .. | .ldZ8 .. | .ldS16 .. | .ldZ16 .. | .ldS32 .. | .ldZ32 .. | .ld64 .. => true
  | .st8 .. | .st16 .. | .st32 .. | .st64 .. => true
  | .amoAdd64 .. | .amoMin64 .. | .amoMax64 .. | .amoMinz64 .. | .amoMaxz64 .. | .amoAnd64 .. => true
  | .amoOr64 .. | .amoXor64 .. | .amoSwap64 .. | .amoCas64 .. | .amoFadd64 .. => true
  | .amoAdd32 .. | .amoMin32 .. | .amoMax32 .. | .amoMinz32 .. | .amoMaxz32 .. | .amoAnd32 .. => true
  | .amoOr32 .. | .amoXor32 .. | .amoSwap32 .. | .amoCas32 .. | .amoFadd32 .. => true
  | .semInit .. | .semAdv .. | .semTake .. | .semWait .. => true
  | .strmRd .. | .strmWr .. | .strmInd .. | .strmCst .. | .tplArm .. | .taskSpawn .. | .pairBox .. => true
  | .collRed .. | .collAttn .. | .collGath .. | .collScat .. | .collBcast .. | .collA2a .. => true
  | _ => false

/-- A fence whose ordering is not met holds this form at issue: a plain one CP accesses alone, `fence.x` commands too, and
`fence.cfg` what starts fills (R211, R212, R232, R479, DEDUCED, log entry 79). -/
def Cp.held (x : Cp) (i : Instr) : Bool :=
  x.unmet .commands || (makesAccess i && x.unmet .accesses) || (startsFill i && x.fillsHeld)

/-- A form stands at issue that waits for no semaphore. -/
def Cp.standsPlain (x : Cp) : Bool :=
  match x.ctl.standing with
  | some f => f.sem.isNone
  | none => false

/-- A fence holds the form that stands at issue (R211, R232). -/
def Cp.heldByFence (x : Cp) : Bool :=
  match x.ctl.standing with
  | some f => f.sem.isNone && x.held f.form
  | none => false

/-- A form stands at issue (R39): its place and its registers stay. -/
def Cp.stand (x : Cp) (i : Instr) (sem : Option SemWait) : Cp :=
  { x with ctl := { x.ctl with standing := some ⟨i, sem⟩, told := x.ctl.standing.isSome && x.ctl.told } }

/-- The issuing control processor stands in a form. -/
def State.stand (s : State) (i : Instr) : Result := .next (s.modCp fun x => x.stand i none)

/-- The checks of a command or access (R107), and the wait behind a fence (R232). -/
def cmdForm (s : State) (i : Instr) (g : Guard) (priv : Bool) (srcs : List Src) (k : Result) : Result :=
  runForm s i g priv srcs (if s.cp.held i then s.stand i else k)

/-- The form completes, a form that stood no longer does, and what was read for it is spent. -/
def Cp.complete (x : Cp) (srcs : List Src) (f : Cp → Cp) : Cp :=
  let y := x.retire srcs f
  { y with ctl := { y.ctl with standing := none, told := false, records := [] } }

/-- The issuing control processor completes a form that may have stood. -/
def State.complete (s : State) (srcs : List Src) (f : Cp → Cp) : State := s.modCp fun x => x.complete srcs f

/-- A command answered at issue writes gD in the step of its issue (DEDUCED, log entry 6). -/
def State.reply (s : State) (srcs : List Src) (d : Reg) (v : Word) : Result :=
  .next (s.complete srcs fun x => x.put d v)

/-- A meaning of a form carried out for core `c`, whose turn it is not (an event that ends a wait). -/
def State.atCore (s : State) (c : CoreIx) (f : State → Result) : Result :=
  match f { s with focus := c } with
  | .next t => .next { t with focus := s.focus }
  | r => r

/-- The form that stands at issue of core `c`. -/
def State.standingAt (s : State) (c : CoreIx) : Option Instr := (s.cpOf c.val).ctl.standing.map fun x => x.form

/-- Register d of core c awaits a value (R169, R227). -/
def Cp.awaitReg (x : Cp) (d : Reg) (outside : Bool) : Cp :=
  if d = 0 then x else { x with ctl := { x.ctl with pend := x.ctl.pend ++ [⟨d, outside, none⟩] } }

/-- The command is posted: its destination is pending (R100, R169). -/
def State.posted (s : State) (srcs : List Src) (d : Reg) (outside : Bool) : State :=
  s.complete srcs fun x => x.awaitReg d outside

/-- A value returns for register d. -/
def Cp.deliver (x : Cp) (d : Reg) (v : Word) : Cp :=
  { x with ctl := { x.ctl with pend := x.ctl.pend.map fun p => if p.reg = d then { p with val := some v } else p } }

/-- A value returns for register d of core c. -/
def State.deliver (s : State) (c : Nat) (d : Reg) (v : Word) : State := s.modCpOf c fun x => x.deliver d v

/-- The home of a byte lies within scope `sc` of core `c` (R207). -/
def State.homeIn (s : State) (c : Nat) (sc : BitVec 3) (pa : Nat) : Bool :=
  let host := regionOf (paKind pa) == .host
  let scratch := regionOf (paKind pa) == .scratch
  match sc.toNat with
  | 0 => s.isOwn pa && scratch && paCore pa == c
  | 1 => s.isOwn pa && scratch && paCore pa / 12 == c / 12
  | 2 => s.isOwn pa && !host && paDie pa == c / 96
  | 3 => s.isOwn pa && !host
  | 4 => !host
  | _ => true

/-- The accesses of core `c` that are not performed yet and whose homes lie within scope `sc`. -/
def State.outstanding (s : State) (c : Nat) (sc : BitVec 3) : List Nat :=
  ((s.cpOf c).ctl.reqs.filter fun r => r.segs.any fun g => s.homeIn c sc g.pa).map fun r => r.id

/-- None of these accesses is outstanding. -/
def Cp.drained (x : Cp) (ids : List Nat) : Bool := ids.all fun id => !(x.ctl.reqs.any fun r => r.id == id)

end Sys2Proof.Machine
end

