-- ==== Sys2Proof/Machine/KvPools.lean ====
section
/-!
DEFINITION. The KV directory (20 R419, R422): the chain of dies, pools, block tables and page counts.
-/
namespace Sys2Proof.Machine

/-- The chain of dies (R418). -/
def kvNext (d : Nat) : Option Nat :=
  match d with
  | 0 => some 1
  | 1 => some 2
  | 2 => some 3
  | 3 => some 7
  | 7 => some 6
  | 6 => some 5
  | 5 => some 4
  | _ => none

/-- The die before d in the chain (R422). -/
def kvPrev (d : Nat) : Option Nat :=
  match d with
  | 1 => some 0
  | 2 => some 1
  | 3 => some 2
  | 7 => some 3
  | 6 => some 7
  | 5 => some 6
  | 4 => some 5
  | _ => none

/-- The directory of die `d`. -/
def State.kvDie (s : State) (d : Nat) : KvDie := (s.die d).kv

/-- The directory of die `d` changed by `f`. -/
def State.modKv (s : State) (d : Nat) (f : KvDie → KvDie) : State := s.modDie d fun x => { x with kv := f x.kv }

/-- The limit register of a sequence (R418). -/
def KvDie.limit (x : KvDie) (q : Nat) : KvLimit := tabGet .reset x.limits q

/-! Pages: a page is its block-table entry value without bit 31, and its key puts Basin pages before HBM4 pages (R422). -/

/-- The key of a page in taking order. -/
def kvKey (page : Nat) : Nat := page + page / 2 ^ 27 % 2 * 2 ^ 32

/-- The page of a key. -/
def kvPage (key : Nat) : Nat := key % 2 ^ 32

/-- The number of pages of a free list. -/
def runCount (l : List (Nat × Nat)) : Nat := l.foldl (fun n r => n + r.2) 0

/-- The first page in taking order, and the rest. -/
def runTake : List (Nat × Nat) → Option (Nat × List (Nat × Nat))
  | [] => none
  | (a, n) :: l => if n = 0 then runTake l else some (a, if n = 1 then l else (a + 1, n - 1) :: l)

/-- A run joins a free list in order. -/
def runAdd (r : Nat × Nat) : List (Nat × Nat) → List (Nat × Nat)
  | [] => [r]
  | x :: l => if r.1 < x.1 then r :: x :: l else x :: runAdd r l

/-- The list without its first `n` pages, and those pages. -/
def runSplit (n : Nat) : List (Nat × Nat) → List (Nat × Nat) × List (Nat × Nat)
  | [] => ([], [])
  | (a, m) :: l =>
    if n = 0 then ([], (a, m) :: l)
    else if m ≤ n then
      let p := runSplit (n - m) l
      ((a, m) :: p.1, p.2)
    else ([(a, n)], (a + n, m - n) :: l)

/-- The list without its last `n` pages in taking order, and those pages. -/
def runSplitLast (n : Nat) (l : List (Nat × Nat)) : List (Nat × Nat) × List (Nat × Nat) :=
  runSplit (runCount l - n) l

/-- Runs join a free list. -/
def runJoin (l m : List (Nat × Nat)) : List (Nat × Nat) := m.foldl (fun l r => runAdd r l) l

/-! Tables in memory (R419). -/

/-- The local address of an HBM4 byte of die `d`. -/
def State.hbmPa (s : State) (d o : Nat) : Nat := s.ownPkg * 2 ^ 49 + d * 2 ^ 36 + o

/-- The address of block-table entry (q, b) of die `d` (R419). -/
def State.kvEntryPa (s : State) (d q b : Nat) : Nat :=
  s.hbmPa d ((s.kvDie d).tab.toNat * 2 ^ 23 + 1024 * q + 4 * (b - ((s.kvDie d).limit q).start))

/-- The address of a page's count, at its home die (R419). -/
def State.kvCountPa (s : State) (page : Nat) : Nat :=
  let h := page / 2 ^ 28 % 8
  s.hbmPa h ((s.kvDie h).tab.toNat * 2 ^ 23 + 2 ^ 22 + 2 * (page % 2 ^ 21) + page / 2 ^ 27 % 2 * 2048)

/-- The bytes lie in the region (R194, R195). -/
def kvOk (pa n : Nat) : Bool := offsetOk pa && offsetOk (pa + n - 1)

/-- An access of the directory whose address breaks R194 is not performed: a record with cause BOUND (R195). The core and the ORIG
that it names are DESIGN CHOICE, log entry 67. -/
def State.kvBound (s : State) (pa : Nat) : State :=
  s.post (96 * paDie pa)
    { typ := 0, cause := causeBound, orig := s.memOrig pa, resume := false, held := false, double := false, words := [word pa, 0] }

/-- A table word, read as an engine reads it. Outside the region nothing is read, and the directory goes on with 0; a word that
an uncorrectable error lost reads as bits that no rule gives (R195, R202, DESIGN CHOICE, log entry 67). -/
def State.kvRead (s : State) (pa n : Nat) : Nat :=
  if !kvOk pa n then 0
  else if s.eccBad pa n then Config.lostBits (s.free + pa) % 2 ^ (8 * n)
  else s.natAt pa n

/-- What a table read leaves: the single-bit errors that it meets are corrected and counted (R202), and an address outside the
region is reported (R195). -/
def State.kvTouch (s : State) (pa n : Nat) : State := if kvOk pa n then s.eccRead pa n else s.kvBound pa

/-- A table word written. A write outside the region is not performed (R195); nor is a narrow one into an uncorrectable half, which
posts a fault record with cause ECCU instead (R203). The record's core and ORIG are DESIGN CHOICE, log entry 67. -/
def State.kvWrite (s : State) (pa n v : Nat) : State :=
  if !kvOk pa n then s.kvBound pa
  else if s.narrowBad pa n then s.homeRefuses pa
  else s.writeNat pa n v

/-- The entry of block (q, b) at die `d`. -/
def State.kvEntry (s : State) (d q b : Nat) : Nat := s.kvRead (s.kvEntryPa d q b) 4

/-- The block is mapped: bit 31 of its entry. -/
def State.kvMapped (s : State) (d q b : Nat) : Bool := s.kvEntry d q b / 2 ^ 31 % 2 == 1

/-- The page's global physical address (R422). -/
def State.kvAddr (s : State) (page : Nat) : Nat :=
  let h := page / 2 ^ 28 % 8
  let i := page % 2 ^ 21
  if page / 2 ^ 27 % 2 = 1 then s.hbmPa h (((s.kvDie h).hBase.toNat + i) * 2 ^ 15)
  else s.ownPkg * 2 ^ 49 + 2 ^ 46 + h * 2 ^ 25 + ((s.kvDie h).bBase.toNat + i) * 2 ^ 15

/-- A page returns to its home die's free list (R423). -/
def State.kvReturn (s : State) (page : Nat) : State :=
  s.modKv (page / 2 ^ 28 % 8) fun x => { x with free := runAdd (kvKey page, 1) x.free }

/-- A page's count falls by one, and at 0 the page returns home (R423); the count after. -/
def State.kvDrop (s : State) (page : Nat) : State × Nat :=
  let n := s.kvRead (s.kvCountPa page) 2
  let s := s.kvTouch (s.kvCountPa page) 2
  if n = 0 then (s, 0)
  else
    let s := s.kvWrite (s.kvCountPa page) 2 (n - 1)
    (if n = 1 then s.kvReturn page else s, n - 1)

/-- A lender's last 64 pages, when it holds at least 128 (R422). -/
def State.kvLender (s : State) (d : Option Nat) : Option Nat :=
  match d with
  | some e => if 128 ≤ runCount (s.kvDie e).free then some e else none
  | none => none

/-- `n` pages, the last in taking order, move from die `e` to die `d` (R422, R425). -/
def State.kvMove (s : State) (e d n : Nat) : State :=
  let p := runSplitLast n (s.kvDie e).free
  (s.modKv e fun x => { x with free := p.1 }).modKv d fun x => { x with free := runJoin x.free p.2 }

/-- Borrowing for an empty free list (R422): first from next(d), then from the die before d. -/
def State.kvBorrow (s : State) (d : Nat) : State :=
  if 0 < runCount (s.kvDie d).free then s
  else match s.kvLender (kvNext d), s.kvLender (kvPrev d) with
    | some e, _ => s.kvMove e d 64
    | none, some e => s.kvMove e d 64
    | none, none => s

/-- A page is taken at die `d` for block (q, b) (R422): its count becomes 1 and the entry names it. -/
def State.kvTake (s : State) (d q b : Nat) : Option (State × Nat) :=
  let s := s.kvBorrow d
  match runTake (s.kvDie d).free with
  | none => none
  | some (k, l) =>
    let page := kvPage k
    let s := s.modKv d fun x => { x with free := l }
    some ((s.kvWrite (s.kvCountPa page) 2 1).kvWrite (s.kvEntryPa d q b) 4 (2 ^ 31 + page), page)

/-- The blocks of die `d` for a sequence that are mapped (R423, R425). -/
def State.kvBlocks (s : State) (d q : Nat) : List Nat :=
  let r := (s.kvDie d).limit q
  if r.v then (rangeFrom r.start (r.limit - r.start)).filter fun b => s.kvMapped d q b else []

/-- The reads of those blocks' entries. -/
def State.kvScan (s : State) (d q : Nat) : State :=
  let r := (s.kvDie d).limit q
  if r.v then (rangeFrom r.start (r.limit - r.start)).foldl (fun s b => s.kvTouch (s.kvEntryPa d q b) 4) s else s

/-! Pool registers (R419). -/

/-- The sequences that a die has a limit register for. -/
def State.kvSeqs (s : State) (e : Nat) : List Nat := ((s.kvDie e).limits.filter fun p => p.2.v).map fun p => p.1

/-- No page homed on die `d` is mapped, as the block tables of the dies hold, or lent out to another die (R419). -/
def State.kvIdle (s : State) (d : Nat) : Bool :=
  let home := fun (page : Nat) => page / 2 ^ 28 % 8 == d
  (rangeFrom 0 8).all fun e =>
    ((s.kvSeqs e).all fun q => (s.kvBlocks e q).all fun b => !home (s.kvEntry e q b))
      && (e == d || (s.kvDie e).free.all fun r => r.2 == 0 || !home (kvPage r.1))

/-- The reads of the block tables. -/
def State.kvScanAll (s : State) : State :=
  (rangeFrom 0 8).foldl (fun (s : State) e => (s.kvSeqs e).foldl (fun (s : State) q => s.kvScan e q) s) s

/-- Every pool page of the die is free and every count is zero (R419). -/
def State.kvRefill (s : State) (d : Nat) : State :=
  let x := s.kvDie d
  let b := d * 2 ^ 28
  let h := d * 2 ^ 28 + 2 ^ 27
  let runs := (if x.bCount = 0 then [] else [(kvKey b, x.bCount.toNat)])
    ++ (if x.hCount = 0 then [] else [(kvKey h, x.hCount.toNat)])
  let foreign := x.free.filter fun r => kvPage r.1 / 2 ^ 28 % 8 != d
  let s := s.modKv d fun y => { y with free := runJoin foreign runs }
  let zero := fun (s : State) (page : Nat) => s.kvWrite (s.kvCountPa page) 2 0
  let s := (rangeFrom b x.bCount.toNat).foldl zero s
  (rangeFrom h x.hCount.toNat).foldl zero s

/-- KV_POOL_WRITE (R419): a write resets the die's pools unless pages are mapped or lent. -/
def execKvPoolWrite (d : DieIx) (r : KvPoolReg) (v : Word) (s : State) : Result :=
  if !s.kvIdle d.val then .next s.kvScanAll
  else
    let s := s.kvScanAll
    let s := s.modKv d.val fun x =>
      match r with
      | .bpool => { x with bCount := v.extractLsb' 32 11, bBase := v.extractLsb' 15 10 }
      | .hpool => { x with hCount := v.extractLsb' 36 21, hBase := v.extractLsb' 15 21 }
      | .tab => { x with tab := v.extractLsb' 23 13 }
    .next (s.kvRefill d.val)

/-- The KV pool registers as they are read (R419). -/
def KvDie.poolWord (x : KvDie) (r : KvPoolReg) : Word :=
  match r with
  | .bpool => word (x.bCount.toNat * 2 ^ 32 + x.bBase.toNat * 2 ^ 15)
  | .hpool => word (x.hCount.toNat * 2 ^ 36 + x.hBase.toNat * 2 ^ 15)
  | .tab => word (x.tab.toNat * 2 ^ 23)

/-- KVFREE (R419). -/
def KvDie.freeWord (x : KvDie) : Word := word (runCount x.free)

end Sys2Proof.Machine
end

