-- ==== Sys2Proof/Machine/Tasks.lean ====
section
/-!
DEFINITION. Task records, slots, counters and ports (16 R322-R327, R335, R336).
-/
namespace Sys2Proof.Machine

/-- Word `n` of a record, counting 8-byte words from offset 0 (R322). -/
def recWord (r : BitVec 1024) (n : Nat) : Word := r.extractLsb' (64 * n) 64

/-- CTL.SHAPE (R322). -/
def recShape (r : BitVec 1024) : Nat := bits (recWord r 0) 0 4
/-- CTL.PRIO (R322). -/
def recPrio (r : BitVec 1024) : Nat := bits (recWord r 0) 4 2
/-- CTL.WEN (R322). -/
def recWen (r : BitVec 1024) : Bool := (recWord r 0).getLsbD 6
/-- CTL.WAITC (R322). -/
def recWaitc (r : BitVec 1024) : Nat := bits (recWord r 0) 8 10
/-- CTL.INIT (R322). -/
def recInit (r : BitVec 1024) : BitVec 16 := (recWord r 0).extractLsb' 32 16
/-- CTL.PCL, when PEN = 1 (R322). -/
def recPcl (r : BitVec 1024) : Option Nat :=
  if (recWord r 0).getLsbD 51 then some (bits (recWord r 0) 48 3) else none
/-- ROWS.ROWOFF, when REN = 1 (R322). -/
def recRows (r : BitVec 1024) : Option Nat :=
  if (recWord r 5).getLsbD 31 then some (bits (recWord r 5) 0 25) else none
/-- The successor counters that are enabled (R322). -/
def recSigs (r : BitVec 1024) : List Nat :=
  ((rangeFrom 0 4).filter fun n => (recWord r 4).getLsbD (16 * n + 15)).map fun n => bits (recWord r 4) (16 * n) 10
/-- The valid menu entries in order, as pairs of shape and MAXROWS (R322). -/
def recMenu (r : BitVec 1024) : List (Nat × Nat) :=
  ((rangeFrom 0 4).filter fun m => (recWord r (6 + m)).getLsbD 7).map fun m =>
    (bits (recWord r (6 + m)) 0 4, bits (recWord r (6 + m)) 8 32)

/-- A menu entry is well formed (R323). -/
def menuOk (w : Word) : Bool :=
  if w.getLsbD 7 then bits w 40 24 == 0 && bits w 4 3 == 0 && decide (bits w 0 4 ≤ 8) else w == 0

/-- The record is accepted rather than rejected with BADREC (R323). -/
def recOk (r : BitVec 1024) : Bool :=
  let ctl := recWord r 0
  bits ctl 52 12 == 0 && bits ctl 18 14 == 0 && !ctl.getLsbD 7
    && (rangeFrom 0 4).all (fun n => bits (recWord r 4) (16 * n + 10) 5 == 0)
    && bits (recWord r 5) 25 6 == 0 && bits (recWord r 5) 32 32 == 0
    && r.extractLsb' 768 256 == 0
    && decide (recShape r ≤ 8)
    && (rangeFrom 0 4).all (fun m => menuOk (recWord r (6 + m)))
    && recWord r 1 != 0 && (recWord r 1).toNat % 8 == 0
    && (recWord r 2).toNat % 32 == 0
    && (match recRows r with
        | some o => o % 4 == 0
        | none => true)
    && (recWen r || (recInit r == 0 && recWaitc r == 0))

/-- Slot `n` of queue `q` (R324). -/
def Sched.slot (x : Sched) (q n : Nat) : TSlot := tabGet .reset x.slots (256 * q + n)

/-- Slot `n` of queue `q` replaced. -/
def Sched.setSlot (x : Sched) (q n : Nat) (t : TSlot) : Sched :=
  { x with slots := tabSet .reset x.slots (256 * q + n) t }

/-- The lowest-numbered free slot of queue `q` (R324). -/
def Sched.freeSlot (x : Sched) (q : Nat) : Option Nat := listFind (fun n => !(x.slot q n).used) (rangeFrom 0 256)

/-- The free slots of queue `q` (R326). -/
def Sched.space (x : Sched) (q : Nat) : Nat := ((rangeFrom 0 256).filter fun n => !(x.slot q n).used).length

/-- Task counter `n` as it stood when the cycle began (R325). -/
def Sched.counter (x : Sched) (n : Nat) : BitVec 16 := tabGet 0 x.tc n

/-- A change to a task counter, which joins the sum of the cycle (R325). -/
def Sched.addCounter (x : Sched) (n : Nat) (v : BitVec 16) : Sched :=
  { x with tcAdd := tabSet 0 x.tcAdd n (tabGet 0 x.tcAdd n + v) }

/-- The end of a cycle: the sums of the cycle's changes are applied (R325). -/
def Sched.endCycle (x : Sched) : Sched :=
  { x with tc := x.tcAdd.foldl (fun t p => tabSet 0 t p.1 (tabGet 0 t p.1 + p.2)) x.tc, tcAdd := [] }

/-- A valid record is accepted into a free slot `n` (R324, R325); the accesses `after` are ordered ahead of its start
(R329). -/
def Sched.accept (x : Sched) (q n : Nat) (r : BitVec 1024) (cyc : Nat) (now : Word) (after : List (Nat × Nat)) : Sched :=
  let t := x.slot q n
  let x := x.setSlot q n
    { t with
      used := true, gen := t.gen + 1, record := r, phase := if recWen r then .waiting else .ready, since := cyc,
      order := x.seq, tReady := now, image := none, inArea := false, after := after }
  let x := { x with seq := x.seq + 1 }
  if recWen r then x.addCounter (recWaitc r) (recInit r) else x

/-- The handle of a task (R324). -/
def Sched.handle (x : Sched) (q n : Nat) : Word := word ((x.slot q n).gen.toNat * 2 ^ 16 + q * 2 ^ 8 + n)

/-- The task that a handle names, if its slot is occupied under that generation (R324, R332). -/
def Sched.named (x : Sched) (a : Word) : Option (Nat × Nat) :=
  let q := bits a 8 4
  let n := bits a 0 8
  if (x.slot q n).used && (x.slot q n).gen.toNat == bits a 16 8 then some (q, n) else none

/-- The port of queue `q` (R326). -/
def Sched.port (x : Sched) (q : Nat) : TqPort := tabGet .reset x.ports q

/-- The port of queue `q` changed by `f`. -/
def Sched.modPort (x : Sched) (q : Nat) (f : TqPort → TqPort) : Sched :=
  { x with ports := tabSet .reset x.ports q (f (x.port q)) }

/-- A port rejection (R327). -/
def TqPort.reject (x : TqPort) (reason : BitVec 8) : TqPort := { x with lastRej := reason, rejCnt := x.rejCnt + 1 }

/-- TQSTAT of queue `q` (R326). -/
def Sched.tqstat (x : Sched) (q : Nat) : Word :=
  let p := x.port q
  word (p.lastRej.toNat * 2 ^ 56 + p.lastGen.toNat * 2 ^ 40 + p.lastSlot.toNat * 2 ^ 32 + p.rejCnt.toNat * 2 ^ 16
    + x.space q)

/-- A write to a port's first-half or second-half window (R327), behind the writes that flow control holds back. -/
def Sched.portWrite (x : Sched) (q : Nat) (cyc : Nat) (now : Word) (second : Bool) (v : BitVec 512) : Sched :=
  let p := x.port q
  if !p.held.isEmpty then x.modPort q fun p => { p with held := p.held ++ [(second, v)] }
  else if !second then x.modPort q fun p => { p with staged := some v }
  else match p.staged with
  | none => x.modPort q fun p => p.reject 3
  | some h =>
    let r : BitVec 1024 := v ++ h
    if !recOk r then x.modPort q fun p => { p.reject 2 with staged := none }
    else match x.freeSlot q with
      | none => x.modPort q fun p => { p with held := [(second, v)] }
      | some n =>
        let x := x.accept q n r cyc now []
        x.modPort q fun p =>
          { p with staged := none, lastGen := (x.slot q n).gen, lastSlot := BitVec.ofNat 8 n }

/-- A slot of queue `q` is freed (R324), and the writes that flow control held back go on (R327). -/
def Sched.freeUp (x : Sched) (q n : Nat) (cyc : Nat) (now : Word) : Sched :=
  let x := x.setSlot q n { TSlot.reset with gen := (x.slot q n).gen }
  let held := (x.port q).held
  held.foldl (fun x w => x.portWrite q cyc now w.1 w.2) (x.modPort q fun p => { p with held := [] })

/-- The effective priority of a task from KTIME (R335). -/
def TSlot.eff (t : TSlot) (now : Word) : Nat :=
  let base := if t.phase = .frozen then t.prio.toNat else recPrio t.record
  min 3 (base + (now - t.tReady).toNat / 64000)

/-- The cores of a shape (R33). -/
def shapeCores (sh : Nat) : Nat :=
  match sh with
  | 0 => 1
  | 1 => 2
  | 2 => 3
  | 3 => 4
  | 4 => 6
  | 5 => 12
  | 6 => 24
  | 7 => 48
  | _ => 96

/-- TQ_FIRST_HALF_WRITE (R327): a 64-byte write stages the first half of a record. -/
def execTqFirstHalfWrite (d : DieIx) (q : Fin 16) (v : BitVec 512) (s : State) : Result :=
  .next (s.modDie d.val fun x => { x with sched := x.sched.portWrite q.val s.cyc s.ktime false v })

/-- TQ_SECOND_HALF_WRITE (R327, R471): a 64-byte write completes a staged record; before RUNNING it has no effect. -/
def execTqSecondHalfWrite (d : DieIx) (q : Fin 16) (v : BitVec 512) (s : State) : Result :=
  if s.pkg.boot = .running then
    .next (s.modDie d.val fun x => { x with sched := x.sched.portWrite q.val s.cyc s.ktime true v })
  else .next s

/-- TASK_COUNTER_WRITE (R325): adds the signed low 16 bits of the value. -/
def execTaskCounterWrite (d : DieIx) (t : Fin 1024) (v : BitVec 32) (s : State) : Result :=
  .next (s.modDie d.val fun x => { x with sched := x.sched.addCounter t.val (v.setWidth 16) })

/-- A WAITING task's counter stands at 0 in a cycle that began so, after the cycle of acceptance (R325). -/
def Sched.isReady (x : Sched) (q n cyc : Nat) : Bool :=
  let t := x.slot q n
  t.used && t.phase == .waiting && decide (t.since < cyc) && x.counter (recWaitc t.record) == 0

/-- A WAITING task whose counter begins the cycle at zero becomes READY; the accesses that the counter's writers released
are ordered ahead of its start (R325, R330). -/
def Sched.ready (x : Sched) (q n cyc : Nat) (now : Word) : Sched :=
  if x.isReady q n cyc then
    let t := x.slot q n
    x.setSlot q n { t with phase := .ready, tReady := now, after := t.after ++ tabGet [] x.rel (recWaitc t.record) }
  else x

/-- Every task that is due becomes READY. -/
def Sched.readyDue (x : Sched) (cyc : Nat) (now : Word) : Sched :=
  x.slots.foldl (fun y p => y.ready (p.1 / 256) (p.1 % 256) cyc now) x

/-- TASK_READY (R325): a WAITING task whose counter begins the cycle at zero becomes READY, in this cycle. -/
def execTaskReady (d : DieIx) (q : Fin 16) (slot : BitVec 8) (s : State) : Result :=
  .next (s.modDie d.val fun y => { y with sched := y.sched.ready q.val slot.toNat s.cyc s.ktime })

/-- FQPOP (R454): a write removes the head record of the die fault queue. -/
def execFqpop (d : DieIx) (s : State) : Result :=
  .next (s.modDie d.val fun x => { x with faults := { x.faults with recs := x.faults.recs.drop 1 } })

/-- The size of an image of n cores in units of 64 KiB. -/
def imageUnits (n : Nat) : Nat := 1 + 0x11 * n

/-- The size of the image of a shape, in bytes (R457). -/
def imageSize (shape : Nat) : Nat := 65536 * imageUnits (shapeCores shape)

/-- The images of a scheduler's tasks, and those being written, as addresses with lengths. -/
def Sched.imagesAt (x : Sched) : List (Nat × Nat) :=
  (x.slots.filterMap fun p => match p.2.used && p.2.phase == .frozen, p.2.image with
    | true, some pa => some (pa, imageSize p.2.shape)
    | _, _ => none)
  ++ x.waves.map fun w => (w.addr, imageSize (x.slot w.queue w.slot).shape)

/-- A byte of the freeze area of die d belongs to an image, whichever die's scheduler holds the task and whether it was the
scheduler, `frz.save` or `frz.load` that placed it (R459). -/
def State.areaUsed (s : State) (d : Nat) : Bool :=
  let f := (s.die d).faults
  let lo := 2 ^ 36 * d + f.fzBase.toNat * 65536
  let hi := lo + f.fzSize.toNat * 65536
  (rangeFrom 0 8).any fun e => (s.die e).sched.imagesAt.any fun i =>
    regionOf (paKind i.1) == .hbm && decide (i.1 % 2 ^ 46 < hi ∧ lo < i.1 % 2 ^ 46 + i.2)

/-- FZAREA_WRITE (R459): sets the freeze area, and is ignored while any image lies in it. -/
def execFzareaWrite (d : DieIx) (v : Word) (s : State) : Result :=
  if s.areaUsed d.val then .next s
  else .next (s.modDie d.val fun x =>
    { x with faults := { x.faults with fzSize := v.extractLsb' 36 20, fzBase := v.extractLsb' 16 20 } })

/-- FQSTAT (R454). -/
def FaultQ.stat (x : FaultQ) : Word :=
  word (x.next.toNat * 2 ^ 32 + x.dropped.toNat * 2 ^ 16 + x.recs.length)

/-- FZAREA as it is read (R459). -/
def FaultQ.fzarea (x : FaultQ) : Word := word (x.fzSize.toNat * 2 ^ 36 + x.fzBase.toNat * 2 ^ 16)

end Sys2Proof.Machine
end

