-- ==== Sys2Proof/Machine/Mgmt.lean ====
section
/-!
DEFINITION. The management block and the events of chapter 23: boot and recovery, measurements, ATS, DMA windows,
Stanum, power and the links (R463-R475).
-/
namespace Sys2Proof.Machine

/-- The first check of R471 that an image fails, as BOOTSTAT.REASON (R470). -/
def imageReason (b : List Byte) : Option (BitVec 4) :=
  if !Config.imageFormat b then some 4
  else if !Config.imageEd25519 b then some 1
  else if !Config.imageMlDsa b then some 2
  else if (Config.imageSvn b).toNat < Config.minSvn.toNat then some 3
  else none

/-- Every HBM4 word of the package is zero (R204). -/
def State.zeroHbm (s : State) : State :=
  { s with mem := s.mem.filter (fun p => decide (2 ^ 46 ≤ p.1)), ecc := s.ecc.filter fun p => decide (2 ^ 43 ≤ p.1) }

/-- A verified image runs (R471): it zeroes HBM4 before the first task record since COLDRESET (R204). -/
def State.runImage (s : State) (b : List Byte) : State :=
  { (if s.pkg.zeroed then s else s.zeroHbm) with
    pkg := { s.pkg with boot := .running, reason := 0, svn := Config.imageSvn b, image := some b, zeroed := true } }

/-- BOOT (R471, R472): from ROM the controller reads the firmware image in the flash and STATE reads VERIFY; the image is
then checked and run (DEDUCED, log entry 64). -/
def execBoot (s : State) : Result :=
  if s.pkg.boot = .rom then .next { s with pkg := { s.pkg with boot := .verify } }
  else if s.pkg.boot = .verify then
    match imageReason s.pkg.flash with
    | none => .next (s.runImage s.pkg.flash)
    | some r => .next { s with pkg := { s.pkg with boot := .recovery, reason := r } }
  else .next s

/-- `n` bytes of host memory from host address `a`: above the 2^46 bytes that a device access can name (R194) nothing of
this package ever writes, and what stands there is free (DESIGN CHOICE, log entry 2). -/
def State.hostBytes (s : State) (a n : Nat) : List Byte :=
  if a + n ≤ 2 ^ 46 then memBytes s.mem (4 * 2 ^ 46 + a) n
  else (rangeFrom a n).map fun i => if i < 2 ^ 46 then memGet s.mem (4 * 2 ^ 46 + i) else Config.hostByte i

/-- RECOVERY_FETCH (R472): the image in the range of host memory that GO found is fetched once and checked, and written to
the flash once every check has passed. -/
def execRecoveryFetch (s : State) : Result :=
  match s.pkg.boot, s.pkg.fetching with
  | .recovery, some r =>
    let b := s.hostBytes (r.1.toNat * 4096) r.2.toNat
    let s := { s with pkg := { s.pkg with fetching := none } }
    match imageReason b with
    | none => let s := s.runImage b; .next { s with pkg := { s.pkg with flash := b } }
    | some r => .next { s with pkg := { s.pkg with reason := r } }
  | _, _ => .next s

/-- The words of a window and the lock as index 4 measures them (R473). -/
def Pkg.windowBytes (x : Pkg) : List Byte :=
  (rangeFrom 0 8).flatMap (fun i =>
    let w := tabGet Window.reset x.wins i
    leBytes (w.base.toNat * 4096 + (boolWord w.v).toNat) 8 ++ leBytes (w.last.toNat * 4096) 8)
    ++ leBytes (boolWord x.lock).toNat 8

/-- What an index measures (R473): there is no index 0, and index 2 measures nothing until an image has been verified
(DESIGN CHOICE, log entry 9). -/
def Pkg.measured (x : Pkg) (index : Nat) : Option (List Byte) :=
  match index with
  | 0 => none
  | 1 => some Config.rom
  | 2 => x.image
  | 3 => some (leBytes (Config.minSvn.toNat * 2 ^ 32 + Config.stanumRate.toNat * 2 ^ 30 + Config.lanes.toNat * 2 ^ 12
      + Config.pwrMax.toNat) 8)
  | _ => some x.windowBytes

/-- An answer leaves over PCIe. -/
def State.answer (s : State) (a : HostAnswer) : State := { s with pkg := { s.pkg with answers := s.pkg.answers ++ [a] } }

/-- SPDM_MEASUREMENT (R473): a signed measurement is returned, index 4 taken anew. -/
def execSpdmMeasurement (index : Fin 5) (s : State) : Result :=
  match s.pkg.measured index.val with
  | none => .next (s.answer .unsupported)
  | some b => .next (s.answer (.measured index.val (Config.sha384 b) (Config.sign (Config.sha384 b))))

/-- ATS_TRANSLATION_COMPLETION (R465): the host translation cache takes a translation, which replaces one of its page. Only
the host, ATS_DISABLE and the resets remove entries, so a cache of 256 others takes none (DESIGN CHOICE, log entry 17). -/
def execAtsTranslationCompletion (page frame : BitVec 34) (s : State) : Result :=
  let l := s.pkg.ats.filter (fun p => p.1 != page)
  if l.length < 256 then .next { s with pkg := { s.pkg with ats := l ++ [(page, frame)] } } else .next s

/-- ATS_INVALIDATION (R465): the entries of a page leave the cache, and the request completes. An access to host memory is
performed by the event that uses a translation, so no access that used the entries is still to be performed (log entry
17). -/
def execAtsInvalidation (page : BitVec 34) (s : State) : Result :=
  .next (({ s with pkg := { s.pkg with ats := s.pkg.ats.filter fun p => p.1 != page } } : State).answer
    (.invalidated page))

/-- ATS_DISABLE (R465): the cache empties. -/
def execAtsDisable (s : State) : Result := .next { s with pkg := { s.pkg with ats := [] } }

/-- DMA_WINDOW_WRITE (R466, R467, R470): a host write of DWBASEn or DWLIMn, ignored once the windows are latched. -/
def execDmaWindowWrite (n : Fin 8) (limit : Bool) (v : Word) (s : State) : Result :=
  if s.pkg.lock then .next s
  else
    let w := tabGet Window.reset s.pkg.wins n.val
    let w := if limit then { w with last := v.extractLsb' 12 34 }
      else { w with base := v.extractLsb' 12 34, v := v.getLsbD 0 }
    .next { s with pkg := { s.pkg with wins := tabSet Window.reset s.pkg.wins n.val w } }

/-- DWLOCK (R466): the first host write of LOCK = 1 latches every window. -/
def execDwlock (v : Word) (s : State) : Result :=
  .next { s with pkg := { s.pkg with lock := s.pkg.lock || v.getLsbD 0 } }

/-- STLINK_WRITE (R470): PKG is written while EN = 0; when EN rises every KCORE.PKG takes it; when EN falls the ports go
down. -/
def execStlinkWrite (v : Word) (s : State) : Result :=
  let x := s.pkg
  let p := if x.stEn then x.stPkg else v.extractLsb' 0 9
  let en := v.getLsbD 15
  .next { s with
    pkg := { x with
      stPkg := p, stEn := en
      kpkg := if en && !x.stEn then p else x.kpkg
      ports := if en then x.ports else 0 } }

/-- ROUTE_TABLE_WRITE (R469): accepted only while STLINK.EN = 0. -/
def execRouteTableWrite (p : Fin 512) (v : BitVec 16) (s : State) : Result :=
  if s.pkg.stEn then .next s
  else .next { s with pkg := { s.pkg with routes := tabSet 0x1F s.pkg.routes p.val (v.extractLsb' 0 5) } }

/-- STANUM_PORT_TRAINING (R469): an enabled port that FUSECAP.LANES does not mask finishes training, or stays down. -/
def execStanumPortTraining (p : Fin 18) (up : Bool) (s : State) : Result :=
  if s.pkg.stEn && Config.lanes.getLsbD p.val then
    .next { s with
      pkg := { s.pkg with
        ports := if up then s.pkg.ports ||| (1#18 <<< p.val) else s.pkg.ports &&& ~~~(1#18 <<< p.val) } }
  else .next s

/-- REGISTER_WRITE (R9, R143, R380, R446, R470): a write to a register without behaviour of its own, by its access
codes. A LEVEL of 3 is ignored; a PWRLIM above PWRMAX acts as PWRMAX; RECLEN.GO outside RECOVERY,
or during a fetch, is ignored. -/
def execRegisterWrite (r : PlainReg) (v : Word) (s : State) : Result :=
  match r with
  | .xroot d q => .next (s.modDie d.val fun x => { x with xroot := tabSet 0 x.xroot q.val (v.setWidth 58) })
  | .tvec d => .next (s.modDie d.val fun x => { x with tvec := v.extractLsb' 3 61 })
  | .cecnt d => .next (s.modDie d.val fun x => { x with cecnt := v.setWidth 32 })
  | .recaddr => .next { s with pkg := { s.pkg with recAddr := v.extractLsb' 12 46 } }
  | .reclen => .next { s with
      pkg := { s.pkg with
        recLen := v.setWidth 28
        fetching := if s.pkg.fetching.isNone && v.getLsbD 63 && s.pkg.boot == .recovery
          then some (s.pkg.recAddr, v.setWidth 28) else s.pkg.fetching } }
  | .pwrlim => .next { s with pkg := { s.pkg with watts := v.setWidth 12 } }
  | .clkstat => .next { s with
      pkg := { s.pkg with
        maxStep := v.extractLsb' 4 3 } }
  | .deglvl => .next { s with
      pkg := { s.pkg with deg := if bits v 0 2 = 3 then s.pkg.deg else v.setWidth 2 } }

/-- The power limit in force (R470, R474). -/
def Pkg.limit (x : Pkg) : Nat := min x.watts.toNat Config.pwrMax.toNat

/-- CLOCK_STEP_CHANGE (R474): the fastest step no faster than MAXSTEP whose predicted power stays within the limit; where
none does, and for a MAXSTEP of 5 to 7, which names no step, the slowest (DEDUCED, log entry 64). -/
def execClockStepChange (s : State) : Result :=
  let ok := fun n => decide (s.pkg.maxStep.toNat ≤ n ∧ Config.power s.free (BitVec.ofNat 3 n) ≤ s.pkg.limit)
  let n := (listFind ok (rangeFrom 0 5)).getD 4
  .next { s with free := s.free + 1, pkg := { s.pkg with clkStep := BitVec.ofNat 3 n } }

/-- CYCLE_STRETCH (R475): a sag stretches the die's cycles, which CLKSTAT.STRETCH counts (R470). -/
def execCycleStretch (d : DieIx) (s : State) : Result :=
  if (s.die d.val).stretched then .next s
  else
    let s := s.modDie d.val fun x => { x with stretched := true }
    .next { s with
      pkg := { s.pkg with stretch := if s.pkg.stretch = 0xFFFFFFFF then s.pkg.stretch else s.pkg.stretch + 1 } }

/-- STRETCH_RELEASE (R475): the supply recovers. -/
def execStretchRelease (d : DieIx) (s : State) : Result :=
  .next (s.modDie d.val fun x => { x with stretched := false })

/-- LINK_RETRAIN_FAILURE (R468): every die stops, the host receives a fatal error, and BOOTSTAT reads FAILED with reason
LINK. -/
def execLinkRetrainFailure (_l : Fin 18) (s : State) : Result :=
  .next { s with
    stopped := true, pkg := { s.pkg with boot := .failed, reason := 5, aer := s.pkg.aer ++ [.fatal] } }

end Sys2Proof.Machine
end

