-- ==== Sys2Proof/Machine/Mmio.lean ====
section
/-!
DEFINITION. The MMIO registers of a die (R9, R143, R326, R380, R398, R419, R446, R454): which offsets are assigned, who
may reach them, and what a read and a write do.
-/
namespace Sys2Proof.Machine

/-- The MMIO registers of a die. -/
inductive MReg where
  | tqstat (q : Nat) | tqHalf (q : Nat) (second : Bool) | tc (c : Nat) | xroot (q : Nat) | kv (r : KvPoolReg) | kvfree
  | space (k sp : Nat) | cecnt | fqstat | fqpop | fqword (w : Nat) | fzarea | tvec
deriving DecidableEq, Repr

/-- The register at an offset, and its first offset. -/
def mregAt (o : Nat) : Option (MReg × Nat) :=
  if 0x0100 ≤ o ∧ o < 0x0180 then some (.tqstat ((o - 0x100) / 8), o / 8 * 8)
  else if 0x1000 ≤ o ∧ o < 0x1800 then
    some (.tqHalf ((o - 0x1000) / 0x80) (decide (o / 0x40 % 2 = 1)), o / 0x40 * 0x40)
  else if 0x2000 ≤ o ∧ o < 0x3000 then some (.tc ((o - 0x2000) / 4), o / 4 * 4)
  else if 0x4000 ≤ o ∧ o < 0x4080 then some (.xroot ((o - 0x4000) / 8), o / 8 * 8)
  else if 0x5000 ≤ o ∧ o < 0x5008 then some (.kv .bpool, 0x5000)
  else if 0x5008 ≤ o ∧ o < 0x5010 then some (.kv .hpool, 0x5008)
  else if 0x5010 ≤ o ∧ o < 0x5018 then some (.kv .tab, 0x5010)
  else if 0x5018 ≤ o ∧ o < 0x5020 then some (.kvfree, 0x5018)
  else if 0x6000 ≤ o ∧ o < 0x6400 then
    some (.space ((o - 0x6000) / 0x80) (o / 8 % 16), o / 8 * 8)
  else if 0x7000 ≤ o ∧ o < 0x7008 then some (.cecnt, 0x7000)
  else if 0x7100 ≤ o ∧ o < 0x7108 then some (.fqstat, 0x7100)
  else if 0x7108 ≤ o ∧ o < 0x7110 then some (.fqpop, 0x7108)
  else if 0x7200 ≤ o ∧ o < 0x7240 then some (.fqword ((o - 0x7200) / 8), o / 8 * 8)
  else if 0x7300 ≤ o ∧ o < 0x7308 then some (.fzarea, 0x7300)
  else if 0x7400 ≤ o ∧ o < 0x7408 then some (.tvec, 0x7400)
  else none

/-- A read of the register as a word (R9: a WO register reads zero). -/
def State.mregRead (s : State) (d : Nat) (r : MReg) : Word :=
  let x := s.die d
  match r with
  | .tqstat q => x.sched.tqstat q
  | .tqHalf _ _ => 0
  | .tc c => (x.sched.counter c).signExtend 64
  | .xroot q => (tabGet 0 x.xroot q).setWidth 64
  | .kv p => x.kv.poolWord p
  | .kvfree => x.kv.freeWord
  | .space k sp => (tabGet .reset (s.cluster (8 * d + k)).spaces sp).word
  | .cecnt => x.cecnt.setWidth 64
  | .fqstat => x.faults.stat
  | .fqpop => 0
  | .fqword w => match x.faults.recs with
    | [] => 0
    | v :: _ => listGet 0 v.toList w
  | .fzarea => x.faults.fzarea
  | .tvec => x.tvec.setWidth 64 <<< 3

/-- A write to a register (R9): `v` is the register's whole new word, with the bytes that the access does not write
taken from a read. A narrow write to a record port is rejected with BADWRITE (R327), and a task counter adds the low 16
bits (R325). -/
def State.mregWrite (s : State) (d : Nat) (r : MReg) (v : Word) : State :=
  let die : DieIx := Fin.ofNat 8 d
  match r with
  | .tqHalf q _ => s.modDie d fun x => { x with sched := x.sched.modPort q fun p => p.reject 4 }
  | .tc c => nextState s (execTaskCounterWrite die (Fin.ofNat 1024 c) (v.setWidth 32) s)
  | .xroot q => nextState s (execRegisterWrite (.xroot die (Fin.ofNat 16 q)) v s)
  | .kv p => nextState s (execKvPoolWrite die p v s)
  | .cecnt => nextState s (execRegisterWrite (.cecnt die) v s)
  | .fqpop => nextState s (execFqpop die s)
  | .fzarea => nextState s (execFzareaWrite die v s)
  | .tvec => nextState s (execRegisterWrite (.tvec die) v s)
  | .tqstat _ | .kvfree | .space _ _ | .fqstat | .fqword _ => s

/-- A control processor in task mode may not reach the register (R143, R380, R419, R446, R454). -/
def MReg.systemOnly (r : MReg) (write : Bool) : Bool :=
  match r with
  | .xroot _ | .fqstat | .fqpop | .fqword _ | .fzarea | .tvec => true
  | .kv _ | .kvfree | .cecnt => write
  | _ => false

/-- The offset is assigned for this access (R194, R195, R398). -/
def mregAssigned (o : Nat) (write : Bool) : Bool :=
  match mregAt o with
  | some (.space _ _, _) => !write
  | some _ => true
  | none => false

/-- A read of `n` bytes at an aligned offset of die `d`: 4 or 8 bytes, of one register or of two task counters. -/
def State.mmioRead (s : State) (d o n : Nat) : Nat :=
  match mregAt o with
  | none => 0
  | some (r, base) =>
    let v := (s.mregRead d r).toNat / 2 ^ (8 * (o - base))
    match r with
    | .tc c =>
      if n = 8 then v % 2 ^ 32 + (s.mregRead d (.tc (c + 1))).toNat % 2 ^ 32 * 2 ^ 32 else v % 2 ^ 32
    | _ => v % 2 ^ (8 * n)

/-- A write of `n` bytes at an aligned offset of die `d`. -/
def State.mmioWrite (s : State) (d o n v : Nat) : State :=
  match mregAt o with
  | none => s
  | some (r, base) =>
    match r with
    | .tc c =>
      let s := s.mregWrite d (.tc c) (word (v % 2 ^ 32))
      if n = 8 then s.mregWrite d (.tc (c + 1)) (word (v / 2 ^ 32)) else s
    | _ =>
      let sh := 8 * (o - base)
      let old := (s.mregRead d r).toNat
      let low := old % 2 ^ sh
      let high := old / 2 ^ (sh + 8 * n) * 2 ^ (sh + 8 * n)
      s.mregWrite d r (word (high + v % 2 ^ (8 * n) * 2 ^ sh + low))

end Sys2Proof.Machine
end

