-- ==== Sys2Proof/Machine/Xlate.lean ====
section
/-!
DEFINITION. Translation (18 R380-R386): walks, the two levels of TLB, and permissions.
-/
namespace Sys2Proof.Machine

/-- A virtual address is canonical when bits 63:57 all equal bit 56 (R380). -/
def canonical (va : Nat) : Bool :=
  if va / 2 ^ 56 % 2 = 1 then va / 2 ^ 57 % 2 ^ 7 == 127 else va / 2 ^ 57 % 2 ^ 7 == 0

/-- The kinds of translated access (R383). -/
inductive Use where
  | read | write | both | fetch
deriving DecidableEq, Repr

/-- The page permits the access in the mode `sys` (R383). -/
def Xlat.permits (x : Xlat) (u : Use) (sys : Bool) : Bool :=
  (match u with
    | .read => x.rd
    | .write => x.wr
    | .both => x.rd && x.wr
    | .fetch => x.ex) && (!x.so || sys)

/-- The translation serves `va` under `root` (R384). -/
def Xlat.covers (x : Xlat) (root : BitVec 58) (va : Nat) : Bool :=
  x.root == root && decide (x.va ≤ va ∧ va < x.va + 2 ^ (12 + x.k))

/-- The physical address of `va` in a page. -/
def Xlat.phys (x : Xlat) (va : Nat) : Nat := x.pa + (va - x.va)

/-- Why 8 bytes of a page table at `pa` cannot be read (R195, R202, R382): page tables stand in plain memory. -/
def State.tableFail (s : State) (pa : Nat) : Option Fail :=
  if !offsetOk pa || regionOf (paKind pa) == .mmio || regionOf (paKind pa) == .host then some ⟨causeBound, word pa⟩
  else if !s.isOwn pa && !s.reaches (paPkg pa) then some ⟨causeRemote, word pa⟩
  else if s.eccBad pa 8 then some ⟨causeEccu, word pa⟩
  else none

/-- What a walk ends in (R382, R389): a translation with its leaf entry, or the level at which it stopped. -/
inductive WalkEnd where
  | leaf (x : Xlat) (e : Word)
  | stop (f : Fail) (level : Nat)
deriving DecidableEq, Repr

/-- The levels `n - 1` down to 0 of a walk (R382) from the table at `t`. -/
def State.walkFrom (s : State) (root : BitVec 58) (va t : Nat) : Nat → State × WalkEnd
  | 0 => (s, .stop ⟨causeXlate, word va⟩ 0)
  | l + 1 =>
    let pa := t + 8 * (va / 2 ^ (12 + 9 * l) % 512)
    match s.tableFail pa with
    | some f => (s, .stop f l)
    | none =>
      let e := s.natAt pa 8
      let s := s.eccRead pa 8
      let bad := (s, WalkEnd.stop ⟨causeXlate, word va⟩ l)
      let next := e / 2 ^ 12 % 2 ^ 46 * 2 ^ 12
      if e % 2 = 0 ∨ e / 2 ^ 58 ≠ 0 ∨ e / 2 ^ 6 % 4 ≠ 0 then bad
      else if e / 2 % 2 = 0 then
        if l = 0 ∨ e / 4 % 2 ^ 10 ≠ 0 then bad else s.walkFrom root va next l
      else
        let k := e / 2 ^ 8 % 16
        if !((l = 0 && k ≤ 8) || (l = 1 && 9 ≤ k)) then bad
        else if next % 2 ^ (12 + k) ≠ 0 then bad
        else
          (s, .leaf
            { root := root, va := va / 2 ^ (12 + k) * 2 ^ (12 + k), pa := next, k := k,
              rd := e / 4 % 2 = 1, wr := e / 8 % 2 = 1, ex := e / 16 % 2 = 1, so := e / 32 % 2 = 1 } (word e))

/-- A walk of a canonical address (R382), from the level-4 table of the root; a non-canonical address reads no table
(R380, R389). -/
def State.walk (s : State) (root : BitVec 58) (va : Nat) : State × WalkEnd :=
  if canonical va then s.walkFrom root va (root.toNat / 2 ^ 12 * 2 ^ 12) 5
  else (s, .stop ⟨causeXlate, word va⟩ 4)

/-- A TLB with a translation added; past `n` entries the oldest is dropped (DESIGN CHOICE, log entry 13). -/
def tlbAdd (n : Nat) (l : List Xlat) (x : Xlat) : List Xlat :=
  let l' := l ++ [x]
  if n < l'.length then l'.drop (l'.length - n) else l'

/-- A TLB holds the translation of `va` (R384). -/
def State.tlbHit (s : State) (c : Nat) (root : BitVec 58) (va : Nat) : Bool :=
  (s.core c).tlb.any (fun x => x.covers root va) || (s.cluster (c / 12)).tlb.any fun x => x.covers root va

/-- A walk for an access of the control processor waits for every CP store issued earlier (R386). -/
def State.walkWaits (s : State) (c : Nat) (va : Nat) : Bool :=
  canonical va && !s.tlbHit c (s.cpOf c).ctl.xroot va
    && (s.cpOf c).ctl.reqs.any fun r => match r.op with
      | .load _ _ => false
      | .record _ _ => false
      | _ => true

/-- The translation of `va` under the root of core `c` (R384): from the first-level TLB, from the second-level TLB, or
by a walk that fills both. No failed walk is held. A miss in both counts (R445). -/
def State.lookup (s : State) (c : Nat) (root : BitVec 58) (va : Nat) : State × Except Fail Xlat :=
  if !canonical va then (s, .error ⟨causeXlate, word va⟩)
  else match listFind (fun x => x.covers root va) (s.core c).tlb with
  | some x => (s, .ok x)
  | none =>
    match listFind (fun x => x.covers root va) (s.cluster (c / 12)).tlb with
    | some x => (s.modCore c fun y => { y with tlb := tlbAdd 128 y.tlb x }, .ok x)
    | none =>
      let s := s.modCore c fun y =>
        { y with grid := { y.grid with pcs := tabSet 0 y.grid.pcs 12 (tabGet 0 y.grid.pcs 12 + 1) } }
      match s.walk root va with
      | (s, .leaf x _) =>
        ((s.modCore c fun y => { y with tlb := tlbAdd 128 y.tlb x }).modCluster (c / 12)
          fun y => { y with tlb := tlbAdd 4096 y.tlb x }, .ok x)
      | (s, .stop f _) => (s, .error f)

/-- The physical address of `va` for a use in the mode `sys` (R383, R384); a failure reports `va` for XLATE and PROT,
and the entry's physical address otherwise. -/
def State.translate (s : State) (c : Nat) (root : BitVec 58) (va : Nat) (u : Use) (sys : Bool) :
    State × Except Fail Nat :=
  match s.lookup c root va with
  | (s, .error f) => (s, .error f)
  | (s, .ok x) =>
    if x.permits u sys then (s, .ok (x.phys va)) else (s, .error ⟨causeProt, word va⟩)

end Sys2Proof.Machine
end

