-- ==== Sys2Proof/Machine/Access.lean ====
section
/-!
DEFINITION. Accesses of the control processor (11 R211, 12 R224-R232): checks, translation, the order of R211, and the
performance of an access at its home (10 R198-R203).
-/
namespace Sys2Proof.Machine

/-- The parts of `n` bytes from `ea`, one for each aligned 16-byte block (R225): offset and length. -/
def accessParts (ea n : Nat) : List (Nat × Nat) :=
  let m := 16 - ea % 16
  if n ≤ m then [(0, n)] else [(0, m), (m, n - m)]

/-- Every part of an access is translated before any byte is read or written (R225). -/
def State.translateParts (s : State) (c : Nat) (ea : Nat) (u : Use) (sys : Bool) :
    List (Nat × Nat) → State × Except Fail (List Seg)
  | [] => (s, .ok [])
  | p :: l =>
    match s.translate c (s.cpOf c).ctl.xroot ((ea + p.1) % 2 ^ 64) u sys with
    | (s, .error f) => (s, .error f)
    | (s, .ok pa) =>
      match s.translateParts c ea u sys l with
      | (s, .error f) => (s, .error f)
      | (s, .ok gs) => (s, .ok ({ pa := pa, off := p.1, n := p.2, done := false } :: gs))

/-- The first and last byte of an access. -/
def segEnds (gs : List Seg) : Nat × Nat :=
  match gs, gs.getLast? with
  | g :: _, some l => (g.pa, l.pa + l.n - 1)
  | _, _ => (0, 0)

/-- The bytes of an access lie inside one latched window (R195, R226, R466). -/
def State.inOneWindow (s : State) (gs : List Seg) : Bool :=
  s.pkg.lock && (rangeFrom 0 8).any fun i => gs.all fun g =>
    (tabGet Window.reset s.pkg.wins i).holds (paOff g.pa) g.n

/-- The region checks of R194, R195 and R226 for an access of `n` bytes at `ea`. The remote path reaches memory alone
(R193): MMIO and host addresses of another package fail (DESIGN CHOICE, log entry 21). -/
def State.regionFail (s : State) (ea n : Nat) (acc : Acc) (write sys : Bool) (gs : List Seg) : Option Fail :=
  let e := segEnds gs
  let bound := some ⟨causeBound, word e.1⟩
  if !gs.all (fun g => offsetOk g.pa && offsetOk (g.pa + g.n - 1)) || diePart e.1 != diePart e.2 then bound
  else if !s.isOwn e.1 then match regionOf (paKind e.1) with
    | .mmio => bound
    | .host => some ⟨causeProt, word e.1⟩
    | _ => none
  else match regionOf (paKind e.1), acc with
    | .mmio, .atomic _ => bound
    | .mmio, .semaphore => bound
    | .mmio, .plain =>
      let o := paOff e.1 % 2 ^ 16
      if !(n == 4 || n == 8) || e.1 % n != 0 || !mregAssigned o write then bound
      else match mregAt o with
        | some (r, _) => if r.systemOnly write && !sys then some ⟨causeProt, word ea⟩ else none
        | none => bound
    | .host, .plain => if s.inOneWindow gs then none else some ⟨causeProt, word e.1⟩
    | .host, .atomic op =>
      if amoPcie op && s.inOneWindow gs then none else some ⟨causeProt, word e.1⟩
    | .host, .semaphore => some ⟨causeProt, word e.1⟩
    | _, _ => none

/-- Two accesses touch a common byte (R211). -/
def segsMeet (a b : List Seg) : Bool :=
  a.any fun x => b.any fun y => decide (x.pa < y.pa + y.n ∧ y.pa < x.pa + x.n)

/-- The access is a load, an atomic, or the read of a record. -/
def CpOp.reads : CpOp → Bool
  | .store _ => false
  | _ => true

/-- The access is a store or an atomic. -/
def CpOp.writes : CpOp → Bool
  | .load _ _ => false
  | .record _ _ => false
  | _ => true

/-- The home of an access lies within scope `sc` (R211). -/
def State.segsIn (s : State) (c : Nat) (sc : BitVec 3) (gs : List Seg) : Bool := gs.any fun g => s.homeIn c sc g.pa

/-- The outstanding access `x` is ordered before a new one (R211). An acquire or release whose own home lies outside its
scope has no ordering effect. -/
def State.ordersBefore (s : State) (c : Nat) (x : CpReq) (op : CpOp) (ar : Bool) (sc : BitVec 3) (gs : List Seg) :
    Bool :=
  segsMeet x.segs gs
    || (x.op.reads && x.ar && s.segsIn c x.sc x.segs && s.segsIn c x.sc gs)
    || (op.writes && ar && s.segsIn c sc gs && s.segsIn c sc x.segs)

/-- An outstanding access may be ordered before a new one whose address is not known (R211, R386): an acquire, or what a
release at scope `sc` waits for. -/
def State.mayOrder (s : State) (c : Nat) (x : CpReq) (op : CpOp) (ar : Bool) (sc : BitVec 3) : Bool :=
  (x.op.reads && x.ar && s.segsIn c x.sc x.segs) || (op.writes && ar && s.segsIn c sc x.segs)

/-- Why an access cannot be performed at its home (R195, R202, R203, R227): the first byte that fails. -/
def State.homeFail (s : State) (op : CpOp) (gs : List Seg) : Option Fail :=
  let bad := fun (g : Seg) =>
    if !s.isOwn g.pa then if s.reaches (paPkg g.pa) then none else some (⟨causeRemote, word g.pa⟩ : Fail)
    else if regionOf (paKind g.pa) == .mmio || regionOf (paKind g.pa) == .host then none
    else if op.reads then
      (listFind (fun a => s.halfBad (s.memKey a / 8)) (rangeFrom g.pa g.n)).map fun a => ⟨causeEccu, word a⟩
    else if s.narrowBad g.pa g.n then some ⟨causeEccu, word g.pa⟩ else none
  gs.foldl (fun r g => match r with
    | some f => some f
    | none => bad g) none

/-- A new request of the issuing core; `far` are the sources of a read on the remote path. -/
def Cp.submit (x : Cp) (op : CpOp) (gs : List Seg) (data cmp : Word) (d : Reg) (ar : Bool) (sc : BitVec 3) (pc : Word)
    (far : Option (List Src)) : Cp :=
  let r : CpReq :=
    { id := x.ctl.nextId, op := op, segs := gs, data := data, cmp := cmp, dest := d, pc := pc, ar := ar, sc := sc,
      got := [], waited := false, far := far.isSome, srcs := far.getD [] }
  { x with ctl := { x.ctl with reqs := x.ctl.reqs ++ [r], nextId := x.ctl.nextId + 1 } }

/-- The byte lies in the scratch of a group in a freeze wave (R223). -/
def State.wavedScratch (s : State) (pa : Nat) : Bool :=
  s.isOwn pa && regionOf (paKind pa) == .scratch && s.waved (paCore pa)

/-- From the first step of a freeze wave, an access from outside the group to its scratch waits (R223). -/
def State.waveBars (s : State) (c pa : Nat) : Bool :=
  s.wavedScratch pa && !(c / 96 == paCore pa / 96 && (s.cpOf c).ctl.bound && (s.cpOf c).k.first == (s.cpOf (paCore pa)).k.first)

/-- The shared effect of loads, stores and atomics (R225, R227-R230): alignment of an atomic, translation, region, the
order of R211, and for a read the failures of its home; then the access is posted and the next instruction issues. A walk
that fails is ordered as the access is (R386). A read
on the remote path may still fail, so that its reads take effect with its return, and no instruction issues before it
(R11, R99, R144, R227, DEDUCED, log entry 7). -/
def accessForm (s : State) (i : Instr) (g : Guard) (srcs : List Src) (ea : Word) (n : Nat) (op : CpOp) (acc : Acc)
    (data cmp : Word) (d : Reg) (ar : Bool) (sc : BitVec 3) : Result :=
  cmdForm s i g false srcs <|
    let c := s.focus.val
    let sys := s.cp.k.sys
    let use : Use := if op.reads && op.writes then .both else if op.reads then .read else .write
    if acc != .plain && ea.toNat % n != 0 then s.raise causeAlign ea
    else if (accessParts ea.toNat n).any fun p => s.walkWaits c ((ea.toNat + p.1) % 2 ^ 64) then .next s
    else match s.translateParts c ea.toNat use sys (accessParts ea.toNat n) with
    | (t, .error f) =>
      if f.cause != causeProt && s.cp.ctl.reqs.any fun x => s.mayOrder c x op ar sc then .next s else t.raise f.cause f.val
    | (t, .ok gs) =>
      match t.regionFail ea.toNat n acc op.writes sys gs with
      | some f => t.raise f.cause f.val
      | none =>
        if s.cp.ctl.reqs.any fun x => s.ordersBefore c x op ar sc gs then .next s
        else match op.reads, t.homeFail op gs with
          | true, some f =>
            if s.cp.ctl.reqs.isEmpty && !(gs.any fun g => s.waveBars c g.pa) then t.raise f.cause f.val else .next s
          | _, _ =>
            let far := op.reads && gs.any fun g => !s.isOwn g.pa
            .next (t.retire (if far then [] else srcs) fun x =>
              (if op.reads then x.awaitReg d true else x).submit op gs data cmp d ar sc s.cp.regs.pc
                (if far then some srcs else none))

/-- The effective address of a load or store (R225). -/
def memAddress (x : Cp) (m : MemOp) : Word := x.val m.a + x.val m.b + m.off.signExtend 64

/-- The effective address of an atomic (R230). -/
def amoAddress (x : Cp) (m : AmoOperand) : Word := x.val m.a + m.off.signExtend 64

/-- A load form (R224). -/
def loadForm (s : State) (i : Instr) (g : Guard) (d : Reg) (m : MemOp) (n : Nat) (signed : Bool) : Result :=
  accessForm s i g [m.a, m.b] (memAddress s.cp m) n (.load n signed) .plain 0 0 d m.ar m.sc

/-- A store form (R224). -/
def storeForm (s : State) (i : Instr) (g : Guard) (v : Src) (m : MemOp) (n : Nat) : Result :=
  accessForm s i g [m.a, m.b, v] (memAddress s.cp m) n (.store n) .plain (s.cp.val v) 0 0 m.ar m.sc

/-- An atomic form (R230); only `amo.cas` reads its D field, as the comparand. -/
def amoForm (s : State) (i : Instr) (g : Guard) (d : Reg) (b : Src) (m : AmoOperand) (op : AmoOp) (wide : Bool) :
    Result :=
  let srcs := if op = .cas then [m.a, b, ⟨d, false⟩] else [m.a, b]
  accessForm s i g srcs (amoAddress s.cp m) (if wide then 8 else 4) (.amo op wide) (.atomic op) (s.cp.val b)
    (s.cp.regs.get d) d m.ar m.sc

/-! What an access does at its home. -/

/-- A w-bit value read as a signed integer. -/
def amoSigned (w v : Nat) : Int := signedOf w v

/-- `amo.fadd` (R231): one rounding by RNE, and no flag. -/
def amoFadd (wide : Bool) (old b : Nat) : Nat :=
  let p : Prec := if wide then .d else .s
  (fpAddVal p .rne (p.fmt.read old) (p.fmt.read b)).1.toNat % 2 ^ (if wide then 64 else 32)

/-- The value an atomic stores (R229), or none where `amo.cas` fails. -/
def amoNew (op : AmoOp) (wide : Bool) (old b d : Nat) : Option Nat :=
  let w := if wide then 64 else 32
  let low := decide (amoSigned w old ≤ amoSigned w b)
  match op with
  | .add => some ((old + b) % 2 ^ w)
  | .min => some (if low then old else b)
  | .max => some (if low then b else old)
  | .minz => some (Nat.min old b)
  | .maxz => some (Nat.max old b)
  | .and => some (old &&& b)
  | .or => some (old ||| b)
  | .xor => some (old ^^^ b)
  | .swap => some b
  | .cas => if old = d then some b else none
  | .fadd => some (amoFadd wide old b)

/-- The value a load writes (R224). -/
def loadValue (n : Nat) (signed : Bool) (v : Nat) : Word :=
  if signed then BitVec.ofInt 64 (signedOf (8 * n) v) else word v

/-- The bytes `bs` at offset `off` of the bytes read so far. -/
def putBytes (got : List Byte) (off : Nat) : List Byte → List Byte
  | [] => got
  | b :: l => putBytes (listSet (got ++ List.replicate (off + 1 - got.length) 0) off b) (off + 1) l

/-- A request of core c replaced, or removed when all its parts are done. -/
def Cp.setReq (x : Cp) (r : CpReq) : Cp :=
  { x with
    ctl := { x.ctl with
      reqs := if r.segs.all (fun g => g.done) then x.ctl.reqs.filter fun q => q.id != r.id
        else x.ctl.reqs.map fun q => if q.id = r.id then r else q } }

/-- A request leaves without having been performed. -/
def Cp.dropReq (x : Cp) (id : Nat) : Cp :=
  { x with ctl := { x.ctl with reqs := x.ctl.reqs.filter fun q => q.id != id } }

/-- A load or atomic on the remote path that fails writes no register and traps with KEPC its own address (R227); none of its
reads has taken effect, and no later instruction has issued (R11, R144). -/
def State.failRead (s : State) (c : Nat) (r : CpReq) (f : Fail) : State :=
  s.modCpOf c fun x =>
    let x := x.dropReq r.id
    ({ x with ctl := { x.ctl with pend := x.ctl.pend.filter fun p => p.reg != r.dest } }).trap f.cause r.pc f.val

/-- A posted store that fails at its home has no effect, and its trap is made pending (R228). -/
def State.failStore (s : State) (c : Nat) (r : CpReq) (f : Fail) : State :=
  (s.modCpOf c fun x => x.dropReq r.id).pendTrap c f.cause f.val

/-- `n` bytes read at a home: an MMIO register, or bytes whose single-bit errors are corrected (R202). -/
def State.homeRead (s : State) (pa n : Nat) : State × List Byte :=
  if s.isOwn pa && regionOf (paKind pa) == .mmio then
    (s, leBytes (s.mmioRead (paDie pa) (paOff pa % 2 ^ 16) n) n)
  else (s.eccRead pa n, s.bytesAt pa n)

/-- Bytes written at a home. -/
def State.homeWrite (s : State) (pa : Nat) (bs : List Byte) : State :=
  if s.isOwn pa && regionOf (paKind pa) == .mmio then
    s.mmioWrite (paDie pa) (paOff pa % 2 ^ 16) bs.length (leNat bs)
  else s.writeBytes pa bs

/-- A store of a control processor to a task counter releases its earlier accesses to the tasks that the counter makes
READY (R325, R330). -/
def State.releaseCounter (s : State) (c : Nat) (r : CpReq) (pa n : Nat) : State :=
  if s.isOwn pa && regionOf (paKind pa) == .mmio then
    match mregAt (paOff pa % 2 ^ 16) with
    | some (.tc t, _) =>
      let ids := ((s.cpOf c).ctl.reqs.filter fun q => q.id < r.id).map fun q => (c, q.id)
      let live := fun (l : List (Nat × Nat)) => l.filter fun p => !(s.cpOf p.1).drained [p.2]
      s.modDie (paDie pa) fun x =>
        { x with
          sched := { x.sched with
            rel := ((t :: if n = 8 then [t + 1] else []) : List Nat).foldl
              (fun l k => tabSet [] l k (live (tabGet [] l k) ++ ids)) x.sched.rel } }
    | _ => s
  else s

/-- A read returns its value; the reads of one on the remote path take effect with it. -/
def State.returnRead (s : State) (c : Nat) (r : CpReq) (v : Word) : State :=
  (s.modCpOf c fun x => if r.far then x.readSrcs r.srcs else x).deliver c r.dest v

/-- Part `j` of a request is performed as one event (R198, R208). -/
def State.perform (s : State) (c : Nat) (r : CpReq) (j : Nat) (g : Seg) : State :=
  let done := { r with segs := listSet r.segs j { g with done := true } }
  match r.op with
  | .load n signed =>
    let p := s.homeRead g.pa g.n
    let got := putBytes r.got g.off p.2
    let s := p.1.modCpOf c fun x => x.setReq { done with got := got }
    if done.segs.all (fun g => g.done) then s.returnRead c r (loadValue n signed (leNat got)) else s
  | .store n =>
    ((s.homeWrite g.pa (((leBytes r.data.toNat n).drop g.off).take g.n)).releaseCounter c r g.pa g.n).modCpOf c
      fun x => x.setReq done
  | .amo op wide =>
    let w := if wide then 64 else 32
    let p := s.homeRead g.pa g.n
    let old := leNat p.2
    let s := match amoNew op wide old (r.data.toNat % 2 ^ w) (r.cmp.toNat % 2 ^ w) with
      | some v => p.1.homeWrite g.pa (leBytes v g.n)
      | none => p.1
    (s.modCpOf c fun x => x.setReq done).returnRead c r (word old)
  | .record va n =>
    let p := s.homeRead g.pa g.n
    let got := putBytes r.got g.off p.2
    p.1.modCpOf c fun x =>
      let x := x.setReq { done with got := got }
      if done.segs.all (fun g => g.done) then { x with ctl := { x.ctl with records := x.ctl.records ++ [⟨va, n, leNat got⟩] } }
      else x

/-- Why a request fails where it is performed: a read has been checked at issue but for the remote path, and a store of
which a part is performed no longer fails (R227, R228). -/
def State.lateFail (s : State) (r : CpReq) : Option Fail :=
  if (r.op.reads && !r.far) || r.segs.any (fun g => g.done) then none else s.homeFail r.op r.segs

/-- A part of a request that is not performed waits for a freeze wave (R223): the request neither acts nor fails. -/
def State.reqBarred (s : State) (c : Nat) (r : CpReq) : Bool := r.segs.any fun g => !g.done && s.waveBars c g.pa

/-- STORE_HOME_FAILURE (R203, R228): a posted store fails at its home, and an asynchronous trap is made pending. -/
def execStoreHomeFailure (c : CoreIx) (id : Nat) (s : State) : Result :=
  match listFind (fun r => r.id == id && !r.op.reads) (s.cpOf c.val).ctl.reqs with
  | none => .next s
  | some r =>
    match s.reqBarred c.val r, s.lateFail r with
    | false, some f => .next (s.failStore c.val r f)
    | _, _ => .next s

/-! Fences. -/

/-- A fence is recorded with the accesses it waits for (R232); one that waits for none is met. -/
def Cp.addFence (x : Cp) (ids : List Nat) (kind : FenceKind) : Cp :=
  let fs := x.ctl.fences.filter fun f => !x.ctl.met f
  { x with ctl := { x.ctl with fences := if ids.isEmpty then fs else fs ++ [⟨ids, kind⟩] } }

/-- FENCE_RESUME (R232): an access or command held behind a fence issues again once the ordering of the fences that hold
it is met. A fence whose ordering is not met still holds what it orders (R211). -/
def execFenceResume (c : CoreIx) (s : State) : Result :=
  let x := s.cpOf c.val
  if x.standsPlain && !x.ctl.fences.isEmpty && !x.heldByFence then
    .next (s.modCpOf c.val fun x =>
      { x with ctl := { x.ctl with standing := none, again := true, fences := x.ctl.fences.filter fun f => !x.ctl.met f } })
  else .next s

/-- `fence` (R211, R232): later CP accesses wait for the earlier CP accesses whose homes lie in scope. -/
def execFence (g : Guard) (sc : BitVec 3) (s : State) : Result :=
  runForm s (.fence g sc) g false []
    (.next (s.retire [] fun x => x.addFence (s.outstanding s.focus.val sc) .accesses))

/-- `fence.x` (R212, R232): as `fence`, and the commands that follow start only once it is met. -/
def execFenceX (g : Guard) (sc : BitVec 3) (s : State) : Result :=
  runForm s (.fenceX g sc) g false []
    (.next (s.retire [] fun x => x.addFence (s.outstanding s.focus.val sc) .commands))

/-- `fence.cfg` (R211, R232): later fills wait for the earlier CP stores. -/
def execFenceCfg (g : Guard) (s : State) : Result :=
  runForm s (.fenceCfg g) g false []
    (.next (s.retire [] fun x => x.addFence ((x.ctl.reqs.filter fun r => r.op.writes).map fun r => r.id) .fills))

end Sys2Proof.Machine
end

