-- ==== Sys2Proof/Machine/Branch.lean ====
section
/-!
DEFINITION. The branch forms of major 0x05 (R95, R157, R158).
-/
namespace Sys2Proof.Machine

/-- The target of a relative branch: the branch's own address plus 8 times the sign-extended offset (R104, R157). -/
def branchTarget (pc : Word) (off : BitVec 32) : Word := pc + (off.signExtend 64 <<< 3)

/-- The address is a multiple of 8 (R95). -/
def aligned8 (t : Word) : Bool := t.toNat % 8 == 0

/-- `br` (R157): Branches to pc + 8 × OFF32. -/
def execBr (g : Guard) (off : BitVec 32) (s : State) : Result :=
  runForm s (.br g off) g false []
    (.next (s.modCp fun x => x.retireTo [] (branchTarget x.regs.pc off) id))

/-- `call` (R157): Writes the link and branches to the target. -/
def execCall (g : Guard) (d : Reg) (off : BitVec 32) (s : State) : Result :=
  runForm s (.call g d off) g false []
    (.next (s.modCp fun x => x.retireTo [] (branchTarget x.regs.pc off) fun y => y.put d (x.regs.pc + 8)))

/-- `ret` (R157): Jumps to the address in A, trapping ALIGN if misaligned. -/
def execRet (g : Guard) (a : Src) (s : State) : Result :=
  runForm s (.ret g a) g false [a] <|
    let t := s.cp.val a
    if aligned8 t then .next (s.modCp fun x => x.retireTo [a] t id) else s.raise causeAlign t

/-- `jr` (R157): Jumps to A and writes the link. -/
def execJr (g : Guard) (d : Reg) (a : Src) (s : State) : Result :=
  runForm s (.jr g d a) g false [a] <|
    let t := s.cp.val a
    if aligned8 t then .next (s.modCp fun x => x.retireTo [a] t fun y => y.put d (x.regs.pc + 8))
    else s.raise causeAlign t

/-- `loop` (R158): Decrements a counter register and branches while it stays non-zero. -/
def execLoop (g : Guard) (b : Reg) (off : BitVec 32) (s : State) : Result :=
  runForm s (.loop g b off) g false [⟨b, false⟩] <|
    let c := s.cp.regs.get b
    if c = 0 then .next (s.retire [⟨b, false⟩] id)
    else if c = 1 then .next (s.retire [⟨b, false⟩] fun x => x.put b 0)
    else .next (s.modCp fun x =>
      x.retireTo [⟨b, false⟩] (branchTarget x.regs.pc off) fun y => y.put b (c - 1))

end Sys2Proof.Machine
end

