-- ==== Sys2Proof/Machine/Frames.lean ====
section
/-!
DEFINITION. Configuration frames (06 R112-R125) and their validation (R126, R127; 12 R233, 13 R257, 14 R266-R288, 19
R401).
-/
namespace Sys2Proof.Machine

/-- Bits hi to lo of a frame. -/
def fb (f : Frame) (hi lo : Nat) : Nat := bits f lo (hi + 1 - lo)

/-- KIND (R112). -/
def fKind (f : Frame) : Nat := fb f 255 252
/-- NODE (R112). -/
def fNode (f : Frame) : Nat := fb f 251 244
/-- SLOT (R112). -/
def fSlot (f : Frame) : BitVec 2 := f.extractLsb' 242 2
/-- CTAG (R112). -/
def fCtag (f : Frame) : BitVec 8 := f.extractLsb' 232 8
/-- OP (R112). -/
def fOp (f : Frame) : Nat := fb f 231 226
/-- NDIG (R118). -/
def fNdig (f : Frame) : Nat := fb f 223 218
/-- WC (R118). -/
def fWc (f : Frame) : Nat := fb f 217 216
/-- GANG (R118). -/
def fGang (f : Frame) : Nat := fb f 215 214
/-- CSEL (R118). -/
def fCsel (f : Frame) : Bool := f.getLsbD 210
/-- RM (R118). -/
def fRm (f : Frame) : Nat := fb f 209 207
/-- SAT (R118). -/
def fSat (f : Frame) : Bool := f.getLsbD 206
/-- CONST (R118). -/
def fConst (f : Frame) : Word := f.extractLsb' 128 64
/-- IMM16 (R118). -/
def fImm (f : Frame) : BitVec 16 := f.extractLsb' 112 16
/-- PORT of a memory-tile port frame (R122). -/
def fPort (f : Frame) : Nat := fb f 223 222

/-- The key of a node: its local id (R17), or 256 + 4 * tile + port for a memory-tile port, or 512 + the element for a
Plain element. -/
def fKey (f : Frame) : Nat :=
  match fKind f with
  | 2 => 256 + 4 * (fNode f - 0x28) + fPort f
  | 6 => 512 + fNode f
  | _ => fNode f

/-- The node range of a kind (R114): first id and count. -/
def kindRange (k : Nat) : Option (Nat × Nat) :=
  match k with
  | 0 => some (0x00, 16)
  | 1 => some (0x10, 16)
  | 2 => some (0x28, 4)
  | 3 => some (0x30, 8)
  | 4 => some (0x20, 8)
  | 5 => some (0x38, 1)
  | 6 => some (0x00, 128)
  | 7 => some (0x60, 1)
  | 8 => some (0x40, 16)
  | 9 => some (0x50, 16)
  | 15 => some (0, 1)
  | _ => none

/-- The digits that a format needs to be exact (R50), for formats other than pb. -/
def fmtDigits (c : Nat) : Nat :=
  match c with
  | 0x00 => 14
  | 0x01 => 7
  | 0x02 => 4
  | 0x03 => 3
  | 0x0B => 3
  | 0x0E => 1
  | 0x0F => 4
  | 0x10 => 4
  | 0x11 => 8
  | 0x12 => 8
  | 0x13 => 16
  | 0x14 => 16
  | 0x16 => 7
  | 0x17 => 14
  | _ => 2

/-- The operands that an operation reads before CSEL is considered (R270, R284), or none for a reserved code (R115). -/
def peArity (op : Nat) : Option Nat :=
  match op with
  | 0x00 | 0x01 | 0x02 | 0x04 | 0x07 | 0x08 | 0x09 | 0x0B => some 2
  | 0x03 => some 3
  | 0x05 | 0x06 | 0x0A | 0x0C | 0x0D | 0x0E | 0x0F | 0x10 => some 1
  | 0x2D => some 3
  | 0x2E | 0x2F | 0x30 => some 1
  | _ => if 0x20 ≤ op ∧ op ≤ 0x2C then some 2 else none

/-- The operation computes on words (R115). -/
def peIsWord (op : Nat) : Bool := decide (0x20 ≤ op)

/-- A CONST that a digit operation can read (R266): finite. -/
def constFinite (c : Word) : Bool :=
  match FFmt.fp64.read c.toNat with
  | .fin _ _ _ => true
  | _ => false

/-- The fields of a digit operation (R118, R270, R275, R276, R279). -/
def digitOk (f : Frame) : Bool :=
  let op := fOp f
  let n := fNdig f
  let imm := (fImm f).toNat
  let md1 := imm / 2 ^ 15 == 1
  let code := imm % 32
  let rounds := op == 0x0E || (op == 0x10 && !md1)
  decide (1 ≤ n) && fb f 215 214 == 0 && !f.getLsbD 211
    && (!f.getLsbD 213 || (op == 0x02 && decide (n ≤ 16)))
    && (!f.getLsbD 212 || op == 0x0F)
    && (if fCsel f then peArity op != some 1 && constFinite (fConst f)
        else fConst f == 0 || op == 0x0E || op == 0x10)
    && (if rounds then decide (fRm f ≤ 4) else fRm f == 0 && !fSat f)
    && (op != 0x0E || !fSat f)
    && (match op with
        | 0x09 => n == 1 && fWc f == 0 && decide (imm < 6)
        | 0x0C => true
        | 0x0E => true
        | 0x0F => decide ((if f.getLsbD 212 then 14 else 7) ≤ n)
        | 0x10 =>
          imm / 32 % 1024 == 0 && decide (fmtDigits code ≤ n)
            && (decide (code ≤ 3) || (decide (0x0C ≤ code ∧ code ≤ 0x14))
                || (!md1 && (code == 4 || code == 5)))
        | _ => imm == 0)

/-- The fields of a word operation (R118, R284-R287). -/
def wordOpOk (f : Frame) : Bool :=
  let op := fOp f
  let imm := (fImm f).toNat
  let half := f.getLsbD 211
  fNdig f == 0 && fWc f == 0 && !f.getLsbD 213 && !f.getLsbD 212
    && (if op == 0x30 then decide (fRm f ≤ 4) && fGang f == 0 else fRm f == 0 && !fSat f)
    && (if fCsel f then peArity op != some 1 else fConst f == 0 || op == 0x2F || op == 0x30)
    && (!half || (fGang f == 3 && (op == 0x24 || op == 0x25 || op == 0x26 || op == 0x2D
          || ((op == 0x2A || op == 0x2B) && imm == 0) || (op == 0x2C && decide (imm < 4)))))
    && (match op with
        | 0x20 | 0x21 | 0x22 | 0x2E => decide (imm < 3)
        | 0x23 | 0x2A | 0x2B => decide (imm < 2)
        | 0x2C => decide (imm < 6)
        | 0x2F => true
        | 0x30 => decide (imm ≤ 3 ∨ (0x0C ≤ imm ∧ imm ≤ 0x14))
        | _ => imm == 0)

/-- The fields that PE and Plain frames share (R118). -/
def peOk (f : Frame) : Bool :=
  (peArity (fOp f)).isSome && fb f 205 192 == 0 && (if peIsWord (fOp f) then wordOpOk f else digitOk f)

/-- The operands that an operation takes from channels (R288). -/
def peInputs (f : Frame) : Nat := (peArity (fOp f)).getD 0 - (if fCsel f then 1 else 0)

/-- A destination of a Plain element (R119). -/
def dstOk (d : Nat) : Bool := decide (d ≤ 0x8B) || d == 0xFF

/-- The fields of a Plain-element frame (R119, R288). -/
def plainOk (f : Frame) : Bool :=
  peOk f && dstOk (fb f 111 104) && dstOk (fb f 103 96) && fb f 95 94 == peInputs f && fb f 92 0 == 0

/-- The route codes of a router frame (R120), by output: 0 to 3 for N, E, S and W, 4 to 6 for op0 to op2. -/
def rtRoute (f : Frame) (o : Nat) : Nat := fb f (223 - 3 * o) (221 - 3 * o)

/-- The sources bound to the operator's inputs (R120). -/
def rtOpi (f : Frame) (k : Nat) : Nat := fb f (202 - 3 * k) (200 - 3 * k)

/-- PARAM (R120). -/
def rtParam (f : Frame) : Word := f.extractLsb' 0 64

/-- The outputs named in a mask of seven bits, bit 6 for N (R256). -/
def maskOuts (m : Nat) : List Nat := (rangeFrom 0 7).filter fun o => m / 2 ^ (6 - o) % 2 == 1

/-- The inputs that an operator uses (R257), where the rule fixes them. -/
def opInputs (op : Nat) : Option Nat :=
  match op with
  | 0 => some 0
  | 1 | 3 | 5 => some 2
  | 2 | 4 => some 3
  | 8 | 9 => some 1
  | _ => none

/-- The PARAM bits that an operator uses (R256, R401). -/
def paramBits (op : Nat) : Nat :=
  match op with
  | 0 => 0
  | 1 => 0x7F7F7F
  | 2 | 3 | 4 => 0x7F007F
  | 5 => 0x1FFF007F
  | 6 => 0xFFFF007F
  | 7 => 0xFFFFFFFF001F007F
  | 8 => 0x1FF7F
  | _ => 0x77F

/-- The conditions of R256, R257 and R401 on an operator's PARAM. -/
def paramOk (op p : Nat) : Bool :=
  let n := fun (lo w : Nat) => p / 2 ^ lo % 2 ^ w
  (n 0 64 &&& (2 ^ 64 - 1 - paramBits op)) == 0
    && (match op with
        | 5 => n 16 2 != 0 && n 26 2 != 0 && !(n 20 2 == 0 && n 22 2 == 0)
        | 7 =>
          if n 16 1 == 0 then n 17 4 == 0 && n 32 32 == 0
          else (rangeFrom 0 16).all fun k => if k ≤ n 17 4 then n (32 + 2 * k) 2 != 3 else n (32 + 2 * k) 2 == 0
        | 8 => n 14 2 != 3 && (n 12 1 == 0 || (n 16 1 == 1 && decide (n 8 4 ≤ 14)))
        | 9 => n 9 2 != 3
        | _ => true)

/-- The fields of a router frame (R120, R121, R257). -/
def routerOk (f : Frame) : Bool :=
  let op := fOp f
  let p := (rtParam f).toNat
  let m0 := p % 128
  let m1 := if op == 1 then p / 2 ^ 8 % 128 else 0
  decide (op ≤ 9) && fb f 184 128 == 0 && fb f 186 185 != 3
    && (fb f 186 185 != 2 || decide (fb f 127 124 < 6))
    && (rangeFrom 0 7).all (fun o => rtRoute f o != 7 && (decide (4 ≤ o) || rtRoute f o != o + 1))
    && (rangeFrom 0 3).all (fun k => decide (rtOpi f k ≤ 5))
    && (if op == 0 then
          p == 0 && (rangeFrom 0 3).all (fun k => rtOpi f k == 0) && (rangeFrom 0 7).all fun o => rtRoute f o != 6
        else
          paramOk op p && (m0 &&& m1) == 0
            && (rangeFrom 0 7).all (fun o => (rtRoute f o == 6) == ((m0 ||| m1) / 2 ^ (6 - o) % 2 == 1))
            && (match opInputs op with
                | some n => (rangeFrom 0 3).all fun k => (rtOpi f k != 0) == decide (k < n)
                | none =>
                  decide ((if op == 6 then 2 else 1) ≤ ((rangeFrom 0 3).filter fun k => rtOpi f k != 0).length)))

/-- A mask entry of `arb`'s schedule names a bound input (R257). -/
def scheduleOk (f : Frame) : Bool :=
  let p := (rtParam f).toNat
  fKind f != 1 || fOp f != 7 || p / 2 ^ 16 % 2 == 0
    || (rangeFrom 0 (p / 2 ^ 17 % 16 + 1)).all fun k => rtOpi f (p / 2 ^ (32 + 2 * k) % 4) != 0

/-- STRIDE of a port frame (R122). -/
def fStride (f : Frame) : Int := signedOf 16 (fb f 187 172)

/-- The fields of a memory-tile port frame (R122, R233, R239). -/
def portOk (f : Frame) : Bool :=
  let op := fOp f
  let esz := fb f 190 188
  let upd := fb f 171 166
  decide (op ≤ 5) && decide (fb f 217 198 < 0xC0000) && fb f 197 196 != 3
    && fb f 192 191 != 3 && decide (esz ≤ 4)
    && fb f 217 198 % 2 ^ esz == 0 && fb f 187 172 % 2 ^ esz == 0
    && (decide (op < 2) || fb f 197 196 == 0)
    && (op != 5 || esz == 1)
    && (if op == 4 then
          decide (1 ≤ upd ∧ upd ≤ 9 ∧ esz ≤ 3) || (upd == 0x0A && esz == 2) || ((upd == 0x0B || upd == 0x0C) && esz == 3)
        else upd == 0 && !f.getLsbD 165)
    && (op == 5 || fb f 164 159 == 0)
    && fb f 158 0 == 0

/-- Push sources and pop destinations of a stream buffer (R123). -/
def sbOk (f : Frame) : Bool :=
  let base := fb f 223 204
  let size := 2 ^ (fb f 203 200 + 8)
  decide (fb f 203 200 ≤ 8) && base % size == 0 && decide (base + size ≤ 0xC0000)
    && base / 0x30000 == (base + size - 1) / 0x30000
    && decide (fb f 199 195 ≤ 0x13)
    && (decide (fb f 194 190 ≤ 0x0F) || (decide (0x13 ≤ fb f 194 190 ∧ fb f 194 190 ≤ 0x15)))
    && fb f 189 0 == 0

/-- Counter n of a controller frame (R124). -/
def fCtr (f : Frame) (n : Nat) : BitVec 52 := f.extractLsb' (156 - 52 * n) 52

/-- The fields of a controller frame (R124). -/
def ctlOk (f : Frame) : Bool :=
  let par := fb f 223 220
  let nctr := fb f 211 210
  decide (fOp f ≤ 2) && (decide (par ≤ 7) || par == 15)
    && (if fOp f == 1 then fb f 219 212 != 0 else fb f 219 212 == 0)
    && fb f 209 208 == 0 && fb f 43 0 == 0
    && (rangeFrom 0 3).all fun n => if n < nctr then bits (fCtr f n) 0 12 != 0 else fCtr f n == 0

/-- A frame passes the conditions of R126 that concern it alone. -/
def frameOk (f : Frame) : Bool :=
  (match kindRange (fKind f) with
    | some (lo, n) => decide (lo ≤ fNode f ∧ fNode f < lo + n)
    | none => false)
    && fb f 241 240 == 0 && fb f 225 224 == 0
    && (match fKind f with
        | 0 => peOk f && fb f 111 0 == 0
        | 1 => routerOk f && scheduleOk f
        | 2 => portOk f
        | 3 => fOp f == 0 && fb f 218 0 == 0
        | 4 => ctlOk f
        | 5 => fOp f == 0 && decide (fb f 215 211 ≤ 0x10) && fb f 206 0 == 0
        | 6 => plainOk f
        | 7 => fOp f == 0 && decide (fb f 219 212 < 128) && fb f 211 0 == 0
        | 8 => fOp f == 0 && sbOk f
        | 9 => fOp f == 0 && fb f 216 0 == 0
        | _ => fb f 251 224 == 0 && fb f 207 0 == 0)

/-! Edge sides (R117). -/

/-- The edge side that a frame's node sends into. -/
def fSends (f : Frame) : Option Nat :=
  match fKind f with
  | 2 => some (fb f 221 218)
  | 3 => if fNode f < 0x34 then some (fb f 223 220) else none
  | 7 => some (fb f 223 220)
  | 8 => if fb f 194 190 < 16 then some (fb f 194 190) else none
  | _ => none

/-- The edge side that a frame's node drains. -/
def fDrains (f : Frame) : Option Nat :=
  match fKind f with
  | 2 => some (fb f 221 218)
  | 3 => if fNode f < 0x34 then none else some (fb f 223 220)
  | 7 => some (fb f 223 220)
  | 8 => if fb f 199 195 < 16 then some (fb f 199 195) else none
  | _ => none

/-- Two frames bind one side in one direction (R117, R126). -/
def sideClash (f g : Frame) : Bool :=
  ((fSends f).isSome && fSends f == fSends g) || ((fDrains f).isSome && fDrains f == fDrains g)

/-- The controller frame of ct n in an image. -/
def ctlIn (fs : List Frame) (n : Nat) : Option Frame := listFind (fun f => fKind f == 4 && fNode f == 0x20 + n) fs

/-- Controller n reaches the root of its image within k steps through PARENT. -/
def reachesRoot (fs : List Frame) (n : Nat) : Nat → Bool
  | 0 => false
  | k + 1 =>
    match ctlIn fs n with
    | none => false
    | some f => if fb f 223 220 = 15 then true else reachesRoot fs (fb f 223 220) k

/-- A controller frame fits the single tree of its image (R124): its parent lists it, each child names it, it reaches
the root, and no earlier controller is another root. -/
def treeOk (fs earlier : List Frame) (f : Frame) : Bool :=
  let n := fNode f - 0x20
  let par := fb f 223 220
  let lists := fun (g : Frame) (c : Nat) => fb g 51 44 / 2 ^ c % 2 == 1
  (if par == 15 then !earlier.any (fun g => fKind g == 4 && fb g 223 220 == 15)
    else match ctlIn fs par with
      | some g => lists g n
      | none => false)
    && (rangeFrom 0 8).all (fun c => !lists f c || (match ctlIn fs c with
        | some g => fb g 223 220 == n
        | none => false))
    && reachesRoot fs n 9

/-- IMASK marks an operand of a PE whose frame in the image names a word operation, with INITK 1 (R121). -/
def initClash (fs : List Frame) (f : Frame) : Bool :=
  fKind f == 1 && fb f 186 185 == 1 && fb f 189 187 != 0
    && fs.any fun g => fKind g == 0 && fNode g + 0x10 == fNode f && peIsWord (fOp g)

/-- Frame `f` fails in the image `fs` after the frames `earlier` (R126). -/
def frameFails (fs earlier : List Frame) (f : Frame) : Bool :=
  !frameOk f || fKind f == 15
    || earlier.any (fun g => (fKey f == fKey g && fKind f == fKind g) || sideClash f g)
    || (match fs with
        | g :: _ => fCtag f != fCtag g
        | [] => false)
    || initClash fs f
    || (fKind f == 4 && !treeOk fs earlier f)

/-- The index of the first failing frame of a list. -/
def firstFail (fs : List Frame) : List Frame → List Frame → Nat → Option Nat
  | _, [], _ => none
  | earlier, f :: l, i => if frameFails fs earlier f then some i else firstFail fs (f :: earlier) l (i + 1)

/-- The frames of an image before its end-of-image frame, and that frame (R125, R126). -/
def splitImage : List Frame → Nat → List Frame × Option Frame
  | _, 0 => ([], none)
  | [], _ => ([], none)
  | f :: l, n + 1 =>
    if fKind f = 15 then ([], some f)
    else
      let r := splitImage l n
      (f :: r.1, r.2)

/-- The index of the first failing frame of an image (R126, R127), or none where it is valid. -/
def imageFail (fs : List Frame) (fin : Frame) : Option Nat :=
  match firstFail fs [] fs 0 with
  | some i => some i
  | none => if !frameOk fin || fb fin 223 208 != fs.length then some fs.length else none

/-- A frame from four 64-bit words at rising addresses (R113). -/
def frameOf (w0 w1 w2 w3 : Word) : Frame := w3 ++ w2 ++ w1 ++ w0

end Sys2Proof.Machine
end

