-- ==== Sys2Proof/Machine/Grid.lean ====
section
/-!
DEFINITION. The grid of a core: slots (18 R361), flits and parity (06 R129-R131), channels (13 R245-R254), sides and long
channels (R117, R252, R253), and counters of the core (21 R445).
-/
namespace Sys2Proof.Machine

/-- The grid of core c. -/
def State.grid (s : State) (c : Nat) : Grid := (s.core c).grid

/-- The grid of core c changed by `f`. -/
def State.modGrid (s : State) (c : Nat) (f : Grid → Grid) : State :=
  s.modCore c fun x => { x with grid := f x.grid }

/-- Something happened in the grid of core c in this cycle (R47). -/
def State.active (s : State) (c : Nat) : State := s.modGrid c fun g => { g with act := true }

/-- A flit moved in the grid of core c in this cycle (R47, R445). -/
def State.movedIn (s : State) (c : Nat) : State := s.modGrid c fun g => { g with act := true, moved := true }

/-- Core c accepts a command that posts work (R501): its quiescence counter is cleared, and a grid that a DEADLOCK verdict
of an earlier cycle closed opens again (R49). -/
def State.postWork (s : State) (c : Nat) : State :=
  let s := s.active c
  if (s.grid c).closed && (s.grid c).verdictAt != s.cyc then
    (s.modGrid c fun g => { g with closed := false }).modCpOf c fun x => { x with k := { x.k with verdict := 0, qcount := 0 } }
  else s

/-- Performance counter n of core c rises by `v` (R445). -/
def State.count (s : State) (c n v : Nat) : State :=
  s.modGrid c fun g => { g with pcs := tabSet 0 g.pcs n (tabGet 0 g.pcs n + BitVec.ofNat 48 v) }

/-! Node keys (`fKey`). -/

/-- The key of a node. -/
def nodeKey : NodeId → Nat
  | .pe n => n.val
  | .rt n => 0x10 + n.val
  | .ct n => 0x20 + n.val
  | .port mt p => 256 + 4 * mt.val + p.val
  | .ag n => 0x30 + n.val
  | .mx => 0x38
  | .sb n => 0x40 + n.val
  | .tm n => 0x50 + n.val
  | .pass => 0x60
  | .plain e => 512 + e.val

/-- The local node id of a key (R17): a port stands under its tile, a Plain element under its number. -/
def keyNode (k : Nat) : Nat := if 512 ≤ k then k - 512 else if 256 ≤ k then 0x28 + (k - 256) / 4 else k

/-- The origin id of the node of a key at core c (R16, R393). -/
def keyOrig (c k : Nat) : Nat := if 512 ≤ k then plainOrig (c / 12) (k - 512) else originId c (keyNode k)

/-- The frame kind of a node (R114). -/
def keyKind (k : Nat) : Nat :=
  if 512 ≤ k then 6 else if 256 ≤ k then 2
  else if k < 0x10 then 0 else if k < 0x20 then 1 else if k < 0x28 then 4 else if k < 0x38 then 3
  else if k < 0x40 then 5 else if k < 0x50 then 8 else if k < 0x60 then 9 else 7

/-- Slot i of a node (R361); the slots of Plain elements stand at the cluster. -/
def State.slotAt (s : State) (c k i : Nat) : Slot :=
  if 512 ≤ k then tabGet .reset (s.cluster (c / 12)).slots (4 * k + i) else tabGet .reset (s.grid c).slots (4 * k + i)

/-- Slot i of a node replaced. -/
def State.setSlotAt (s : State) (c k i : Nat) (x : Slot) : State :=
  if 512 ≤ k then s.modCluster (c / 12) fun y => { y with slots := tabSet .reset y.slots (4 * k + i) x }
  else s.modGrid c fun g => { g with slots := tabSet .reset g.slots (4 * k + i) x }

/-- The owner of slot i of a Plain element, as first core plus one (R395). -/
def State.plainOwner (s : State) (c k i : Nat) : Nat :=
  tabGet 0 (s.cluster (c / 12)).plain.owners (4 * (k - 512) + i)

/-- The valid slot of a node that holds a tag (R361); of a Plain element, one of the core's own group (R395). -/
def State.slotFor (s : State) (c k : Nat) (tag : BitVec 8) : Option (Nat × Frame) :=
  (listFind (fun i => (s.slotAt c k i).v && (s.slotAt c k i).ctag == tag
      && (decide (k < 512) || s.plainOwner c k i == (s.cpOf c).k.first.toNat + 1)) (rangeFrom 0 4)).map
    fun i => (i, (s.slotAt c k i).frame)

/-- The frame under which a node handles a tag. -/
def State.frameFor (s : State) (c k : Nat) (tag : BitVec 8) : Option Frame := (s.slotFor c k tag).map fun p => p.2

/-! Flits. -/

/-- The parity of the low n bits. -/
def parityOf (w : Word) (n : Nat) : Nat := popCount w n % 2

/-- The parity bits of a flit (R131). -/
def Flit.parity (f : Flit) : BitVec 3 :=
  let side := f.kind.toNat + 8 * f.ctag.toNat + 2048 * f.tag.toNat + (boolWord f.poison).toNat * 2 ^ 19
    + (boolWord f.last).toNat * 2 ^ 20
  BitVec.ofNat 3 (parityOf f.pay 32 + 2 * parityOf (f.pay >>> 32) 32 + 4 * parityOf (word side) 21)

/-- The flit with its parity bits set. -/
def Flit.seal (f : Flit) : Flit := { f with par := f.parity }

/-- A flit with TAG 0 (R129). -/
def mkFlit (kind : Nat) (ctag : BitVec 8) (pay : Word) (poison last : Bool) : Flit :=
  Flit.seal { pay := pay, kind := BitVec.ofNat 3 kind, ctag := ctag, tag := 0, poison := poison, last := last, par := 0, src := 0 }

/-- The sideband of a flit fails its parity (R131). -/
def Flit.sideBad (f : Flit) : Bool := f.par / 4 != f.parity / 4

/-- The payload of a flit fails its parity (R131). -/
def Flit.payBad (f : Flit) : Bool := f.par % 4 != f.parity % 4

/-- The sideband bits 87:64 of a flit (R129). -/
def Flit.side (f : Flit) : Nat :=
  f.par.toNat + (boolWord f.last).toNat * 8 + (boolWord f.poison).toNat * 16 + f.tag.toNat * 2 ^ 5
    + f.ctag.toNat * 2 ^ 13 + f.kind.toNat * 2 ^ 21

/-- The flit with a payload and sideband bits (R129). -/
def Flit.ofBits (pay : Word) (side : Nat) : Flit :=
  { pay := pay, kind := BitVec.ofNat 3 (side / 2 ^ 21), ctag := BitVec.ofNat 8 (side / 2 ^ 13),
    tag := BitVec.ofNat 8 (side / 2 ^ 5), poison := side / 16 % 2 == 1, last := side / 8 % 2 == 1,
    par := BitVec.ofNat 3 side, src := 0 }

/-- An end-of-tile payload (R132). -/
def tilePay (status count need : Nat) : Word := word (status % 4 * 2 ^ 62 + count % 2 ^ 30 * 2 ^ 32 + need % 2 ^ 32)

/-- A header payload (R54). -/
def hdrPay (e : Int) (orig ndig wc : Nat) (z zs apx : Bool) : Word :=
  word ((e % 2 ^ 16).toNat * 2 ^ 48 + orig % 2 ^ 18 * 2 ^ 30 + ndig % 64 * 2 ^ 24
    + wc % 4 * 2 ^ 22 + (boolWord z).toNat * 2 ^ 21 + (boolWord zs).toNat * 2 ^ 20 + (boolWord apx).toNat * 2 ^ 19)

/-- E of a header (R54). -/
def hdrE (w : Word) : Int := signedOf 16 (bits w 48 16)
/-- ORIG of a header (R54). -/
def hdrOrig (w : Word) : Nat := bits w 30 18
/-- NDIG of a header (R54). -/
def hdrNdig (w : Word) : Nat := bits w 24 6
/-- WC of a header (R54). -/
def hdrWc (w : Word) : Nat := bits w 22 2
/-- Z of a header (R54). -/
def hdrZ (w : Word) : Bool := w.getLsbD 21
/-- ZS of a header (R54). -/
def hdrZs (w : Word) : Bool := w.getLsbD 20
/-- APX of a header (R54). -/
def hdrApx (w : Word) : Bool := w.getLsbD 19

/-- The E field of a header with Z = 1, which no rule gives (R54, DESIGN CHOICE, log entry 5): a free value. -/
def State.zeroExp (s : State) : State × Int := ({ s with free := s.free + 1 }, (Config.zeroE s.free).toInt)

/-- A digit as its canonical byte (R55, R73). -/
def digitByte (d : Int) : Nat := if 0 ≤ d then d.toNat % 16 * 16 else (-d).toNat % 16

/-- Digits packed into the payload of a body flit (R55). -/
def bodyPay (ds : List Int) : Word :=
  word ((ds.zip (rangeFrom 0 ds.length)).foldl (fun v p => v + digitByte p.1 * 2 ^ (56 - 8 * p.2)) 0)

/-- The first n digits of a body flit (R55, R56). -/
def bodyDigits (w : Word) (n : Nat) : List Int :=
  (rangeFrom 0 n).map fun j => (bits w (60 - 8 * j) 4 : Int) - bits w (56 - 8 * j) 4

/-! Channel keys. -/

/-- The input channel of a router's face. -/
def faceKey (rt d : Nat) : Nat := 4 * rt + d
/-- The result channel of a PE. -/
def resultKey (pe : Nat) : Nat := 64 + pe
/-- An operand channel of a PE. -/
def operandKey (pe n : Nat) : Nat := 80 + 3 * pe + n
/-- The edge drain channel of an endpoint. -/
def drainKey (node : Nat) : Nat := 256 + node
/-- The inbound pass queue. -/
def passInKey : Nat := 1024

/-- The key of a channel named in an event. -/
def chanKey : ChanId → Nat
  | .face rt d => faceKey rt.val d.val
  | .result pe => resultKey pe.val
  | .operand pe n => operandKey pe.val n.val
  | .drain n => drainKey (nodeKey n)

/-- A channel of core c. -/
def State.chan (s : State) (c k : Nat) : Chan := tabGet .reset (s.grid c).chans k

/-- A channel of core c changed by `f`. -/
def State.modChan (s : State) (c k : Nat) (f : Chan → Chan) : State :=
  s.modGrid c fun g => { g with chans := tabSet .reset g.chans k (f (tabGet .reset g.chans k)) }

/-- The flit that may leave a channel in this cycle (R247). Flits behind a configuration record that awaits its install
wait (R375). -/
def State.head (s : State) (c k : Nat) : Option Flit :=
  let x := s.chan c k
  if (tabGet [] (s.grid c).collect k).length = 4 then none
  else match x.flits with
  | f :: t => if x.lastOut == s.cyc + 1 || (t.isEmpty && x.lastIn == s.cyc + 1) then none else some f
  | [] => none

/-- A channel takes a flit in this cycle (R247): it held a free slot when the cycle began, and the grid is open (R49). -/
def State.room (s : State) (c k depth : Nat) : Bool :=
  let x := s.chan c k
  !(s.grid c).closed && x.lastIn != s.cyc + 1
    && decide (x.flits.length + (if x.lastOut = s.cyc + 1 then 1 else 0) < depth)

/-- The number of the next header to leave a channel (R254). -/
def Chan.headNo (x : Chan) : BitVec 8 := listGet x.count x.nos 0

/-- A flit enters a channel (R254); `src` says where a forwarded header comes from. -/
def Chan.push (x : Chan) (cyc : Nat) (f : Flit) (src : Option (Nat × BitVec 8 × BitVec 8)) : Chan :=
  let x := { x with flits := x.flits ++ [f], lastIn := cyc + 1 }
  if f.kind = 1 then
    { x with
      count := x.count + 1
      nos := x.nos ++ [x.count]
      source := tabSet none x.source x.count.toNat src }
  else x

/-- The head of a channel leaves. With a header an element leaves in part; with its end it has left, and the KILLs returned
for it come too late (R90). -/
def Chan.pop (x : Chan) (cyc : Nat) : Chan :=
  let y := { x with flits := x.flits.drop 1, lastOut := cyc + 1 }
  match x.flits with
  | f :: _ =>
    if f.kind = 1 then { y with nos := x.nos.drop 1, part := some (x.headNo, f.ctag), returned := [] }
    else if f.kind = 3 then { y with part := none, returned := [] }
    else y
  | [] => y

/-- The numbers of the headers that stay when the flits of a tag are discarded (R254, R373). -/
def keptNos (t : BitVec 8) : List Flit → List (BitVec 8) → List (BitVec 8)
  | [], _ => []
  | f :: l, nos =>
    if f.kind = 1 then
      match nos with
      | n :: m => if f.ctag = t then keptNos t l m else n :: keptNos t l m
      | [] => []
    else keptNos t l nos

/-- The flits and the kill records of a tag are discarded (R362, R373); the headers that stay keep their numbers. -/
def Chan.dropTag (x : Chan) (t : BitVec 8) : Chan :=
  { x with
    flits := x.flits.filter fun f => f.ctag != t
    nos := keptNos t x.flits x.nos
    part := if x.part.any fun p => p.2 == t then none else x.part
    kills := x.kills.filter fun m => m.tag != t
    returned := x.returned.filter fun r => r.2.tag != t }

/-- A flit or a kill record of a tag stands in a channel (R362). -/
def Chan.holdsTag (x : Chan) (t : BitVec 8) : Bool :=
  x.flits.any (fun f => f.ctag == t) || x.kills.any (fun m => m.tag == t) || x.returned.any fun r => r.2.tag == t

/-- The head of a channel of core c leaves. -/
def State.popChan (s : State) (c k : Nat) : State := (s.modChan c k fun x => x.pop s.cyc).movedIn c

/-- The flit of an element that an error poisons, with its ORIG (R59, R131). A body or end flit names it where a header
does, in bits 47:30 of its payload, since the element's header has gone on (DESIGN CHOICE, log entry 46). -/
def Flit.poisoned (f : Flit) (orig : Nat) : Flit :=
  Flit.seal
    { f with pay := if f.kind = 1 ∨ f.kind = 2 ∨ f.kind = 3 then setBits f.pay 30 18 orig else f.pay, poison := true }

/-- The router whose parity check a channel's flits pass (R131): its own at a face or a result, the PE's at an operand
channel. -/
def chanRouter (k : Nat) : Nat := if k < 64 then k / 4 else if k < 80 then k - 64 else (k - 80) / 3

/-- What the receiver of a flit with a parity error does at once (R131): a payload error on kinds 0 to 4 poisons the
element with router `rt` as ORIG; a sideband error posts a record, and the flit stays in its channel. -/
def State.receive (s : State) (c rt : Nat) (f : Flit) : State × Flit :=
  if f.sideBad then
    (s.post c { typ := 0, cause := causeEccu, orig := originId c (0x10 + rt), resume := false, held := true,
                double := false, words := [0, 0, f.pay, word f.side] }, f)
  else if f.payBad && decide (f.kind.toNat ≤ 4) then (s, f.poisoned (originId c (0x10 + rt)))
  else (s, f)

/-- A flit enters a channel of core c from or at router `rt`, and counts as a move (R445). -/
def State.pushFrom (s : State) (c k rt : Nat) (f : Flit) (src : Option (Nat × BitVec 8 × BitVec 8)) : State :=
  let r := s.receive c rt f
  (r.1.modChan c k fun x => x.push s.cyc r.2 src).movedIn c

/-- A flit enters a channel of a router or a PE. -/
def State.pushChan (s : State) (c k : Nat) (f : Flit) (src : Option (Nat × BitVec 8 × BitVec 8)) : State :=
  s.pushFrom c k (chanRouter k) f src

/-! Edge sides and long channels. -/

/-- The router and face of an edge side (R117). -/
def sideFace (q : Nat) : Nat × Nat :=
  if q < 4 then (q, 0) else if q < 8 then (4 * (q - 4) + 3, 1) else if q < 12 then (15 - (q - 8), 2)
  else (12 - 4 * (q - 12), 3)

/-- The edge side of a router's outward face, or the router beyond it and the face it enters there. -/
def faceBeyond (rt d : Nat) : Nat ⊕ (Nat × Nat) :=
  match d with
  | 0 => if rt < 4 then .inl rt else .inr (rt - 4, 2)
  | 1 => if rt % 4 = 3 then .inl (4 + rt / 4) else .inr (rt + 1, 3)
  | 2 => if 12 ≤ rt then .inl (8 + (15 - rt)) else .inr (rt + 4, 0)
  | _ => if rt % 4 = 0 then .inl (12 + (3 - rt / 4)) else .inr (rt - 1, 1)

/-- The core and side that an edge side faces in its cluster (R252), as core number within the cluster. -/
def facing (i q : Nat) : Option (Nat × Nat) :=
  let north := decide (i < 6)
  if q < 4 then if north then none else some (11 - i, 11 - q)
  else if q < 8 then
    if north then if i < 5 then some (i + 1, 19 - q) else none else if 6 < i then some (i - 1, 19 - q) else none
  else if q < 12 then if north then some (11 - i, 11 - q) else none
  else
    if north then if 0 < i then some (i - 1, 19 - q) else none else if i < 11 then some (i + 1, 19 - q) else none

/-- The keys of the nodes that can bind an edge side (R117). -/
def endpointKeys : List Nat := rangeFrom 0x30 8 ++ rangeFrom 0x40 16 ++ [0x60] ++ rangeFrom 256 16

/-- The endpoint that drains a side in a tag (R117). Where separately loaded frames of one tag bind the same side, the first
node in `endpointKeys` does (DESIGN CHOICE, log entry 94). -/
def State.drainer (s : State) (c q : Nat) (tag : BitVec 8) : Option Nat :=
  listFind (fun k => match s.frameFor c k tag with
    | some f => fDrains f == some q
    | none => false) endpointKeys

/-- The endpoint that sends into a side in a tag (R117), where several are bound the first (DESIGN CHOICE, log entry 94). -/
def State.sender (s : State) (c q : Nat) (tag : BitVec 8) : Option Nat :=
  listFind (fun k => match s.frameFor c k tag with
    | some f => fSends f == some q
    | none => false) endpointKeys

/-- Two cores are bound to one core group (R253). -/
def State.sameGroup (s : State) (c d : Nat) : Bool :=
  let x := s.cpOf c
  let y := s.cpOf d
  x.ctl.bound && y.ctl.bound && c / 96 == d / 96 && x.k.queue == y.k.queue && x.k.slot == y.k.slot
    && x.k.first == y.k.first

/-- The core and side at the far end of a long channel from a side, for a tag (R253). -/
def State.longChannel (s : State) (c q : Nat) (tag : BitVec 8) : Option (Nat × Nat) :=
  match facing (c % 12) q with
  | none => none
  | some (i, r) =>
    let d := c / 12 * 12 + i
    if s.sameGroup c d && (s.drainer c q tag).isNone && (s.sender d r tag).isNone then some (d, r) else none

/-- The tags of the valid slots of core c. -/
def State.slotTags (s : State) (c : Nat) : List (BitVec 8) :=
  ((s.grid c).slots.filter fun p => p.2.v).map fun p => p.2.ctag

/-- The slots of the face input channel at a side (R245, R253): 16 where a long channel in use feeds it, in a tag of a
valid slot of either core (R265). -/
def State.sideDepth (s : State) (c q : Nat) : Nat :=
  match facing (c % 12) q with
  | none => 4
  | some (i, r) =>
    let d := c / 12 * 12 + i
    if (s.slotTags c ++ s.slotTags d).any fun t => (s.longChannel d r t).isSome then 16 else 4

/-- Where a router's output leads for a tag: core, channel and depth (R117, R245, R253). Outputs are N, E, S, W, op0, op1,
op2. -/
def State.target (s : State) (c rt o : Nat) (tag : BitVec 8) : Option (Nat × Nat × Nat) :=
  if 4 ≤ o then some (c, operandKey rt (o - 4), 4)
  else match faceBeyond rt o with
  | .inr (r, d) => some (c, faceKey r d, 4)
  | .inl q =>
    match s.drainer c q tag with
    | some k => some (c, drainKey k, 4)
    | none =>
      match s.longChannel c q tag with
      | some (d, r) => some (d, faceKey (sideFace r).1 (sideFace r).2, 16)
      | none => none

/-- An initial token is due at an output ahead of a flit of a tag (R121): one under the same frame, or one that has entered in
part. -/
def State.tokenDue (s : State) (c rt : Nat) (tag : BitVec 8) (o : Nat) : Bool :=
  (s.grid c).installs.any fun x =>
    x.placed && fKey x.frame == 0x10 + rt
      && x.tokens.any fun p => p.1 == o && (p.2 != 0 || fCtag x.frame == tag)

/-- An output takes a flit of a tag in this cycle. -/
def State.outRoom (s : State) (c rt : Nat) (tag : BitVec 8) (o : Nat) : Bool :=
  !s.tokenDue c rt tag o && match s.target c rt o tag with
  | some (d, k, n) => s.room d k n
  | none => false

/-- A flit leaves through an output. -/
def State.outPush (s : State) (c rt : Nat) (f : Flit) (src : Option (Nat × BitVec 8 × BitVec 8)) (o : Nat) : State :=
  match s.target c rt o f.ctag with
  | some (d, k, _) => s.pushFrom d k (if 256 ≤ k then rt else chanRouter k) f src
  | none => s

/-- An endpoint's flit enters the grid at a side (R117, R253). -/
def State.sideRoom (s : State) (c q : Nat) : Bool :=
  s.room c (faceKey (sideFace q).1 (sideFace q).2) (s.sideDepth c q)

/-- A flit enters the grid at a side. -/
def State.sidePush (s : State) (c q : Nat) (f : Flit) : State :=
  s.pushChan c (faceKey (sideFace q).1 (sideFace q).2) f none

/-! Withheld nodes. -/

/-- A terminal withhold of a node for a tag (R127, R455): it is recorded once. -/
def State.withhold (s : State) (c k : Nat) (tag : BitVec 8) : State :=
  if (s.grid c).withheld.contains (k, tag) then s
  else (s.modGrid c fun g => { g with withheld := g.withheld ++ [(k, tag)] }).postCfgerr c (keyNode k)

/-- A node is withheld for a tag. -/
def State.isWithheld (s : State) (c k : Nat) (tag : BitVec 8) : Bool := (s.grid c).withheld.contains (k, tag)

end Sys2Proof.Machine
end

