-- ==== Sys2Proof/Machine/Convert.lean ====
section
/-!
DEFINITION. Conversion between stored formats and digit floats (03 R50-R63), and the hash of stochastic rounding (R61).
-/
namespace Sys2Proof.Machine

/-- The floating-point format of a code (R50); the MX codes name their element format. -/
def fmtOf (c : Nat) : Option FFmt :=
  match c with
  | 0x00 => some .fp64
  | 0x01 => some .fp32
  | 0x02 => some .fp16
  | 0x03 => some .bf16
  | 0x04 => some .e4m3
  | 0x05 => some .e5m2
  | 0x06 => some .e4m3
  | 0x07 => some .e5m2
  | 0x08 => some .e3m2
  | 0x09 => some .e2m3
  | 0x0A => some .e2m1
  | _ => none

/-- The width and signedness of an integer code (R50). -/
def intOf (c : Nat) : Option (Nat × Bool) :=
  match c with
  | 0x0C => some (8, true)
  | 0x0D => some (8, false)
  | 0x0E => some (4, true)
  | 0x0F => some (16, true)
  | 0x10 => some (16, false)
  | 0x11 => some (32, true)
  | 0x12 => some (32, false)
  | 0x13 => some (64, true)
  | 0x14 => some (64, false)
  | _ => none

/-- A code of an MX format (R50). -/
def isMx (c : Nat) : Bool := decide (6 ≤ c ∧ c ≤ 0x0B)

/-- The bits of a stored element, for formats of one element (R50, R52). -/
def fmtWidth (c : Nat) : Nat :=
  match fmtOf c, intOf c with
  | some f, _ => f.width
  | none, some p => p.1
  | none, none => if c = 0x0B then 8 else if c = 0x16 then 64 else 128

/-- The hash bits of R61. -/
def rsrBits (seed : Word) (sid idx : Nat) : Nat :=
  let x := seed ^^^ (word sid <<< 48) ^^^ word (idx % 2 ^ 48)
  let x := x + 0x9E3779B97F4A7C15#64
  let x := (x ^^^ (x >>> 30)) * 0xBF58476D1CE4E5B9#64
  let x := (x ^^^ (x >>> 27)) * 0x94D049BB133111EB#64
  let x := x ^^^ (x >>> 31)
  bits x 32 32

/-- The rounding mode of a code (R60); `h` are the hash bits of RSR. -/
def rmodeOf (rm h : Nat) : RMode :=
  match rm with
  | 1 => .rtz
  | 2 => .rup
  | 3 => .rdn
  | 4 => .rsr h
  | _ => .rne

/-- The hexadecimal digits of a number, n of them, the first most significant. -/
def hexDigits (t : Nat) : Nat → List Int
  | 0 => []
  | n + 1 => (t / 16 ^ n % 16 : Nat) :: hexDigits t n

/-- A digit float (R54-R56) as a value: Z and ZS, E, its digits, and the origin of its poison. -/
structure DVal where
  z : Bool
  zs : Bool
  e : Int
  ds : List Int
  poison : Bool
deriving DecidableEq, Repr

/-- A zero. -/
def DVal.zero (neg : Bool) : DVal := { z := true, zs := neg, e := 0, ds := [], poison := false }

/-- A poisoned element. -/
def DVal.bad : DVal := { z := true, zs := false, e := 0, ds := [], poison := true }

/-- A non-zero dyadic number in the normalised form of R57, with n digits; further digits are dropped. -/
def normDigits (v : Dy) (n : Nat) : DVal :=
  let e := Int.fdiv v.log2 4 + 1
  let t := (v.abs.floorScaled (4 * ((n : Int) - e))).toNat
  let ds := hexDigits t n
  { z := false, zs := false, e := e, ds := if v.isNeg then ds.map fun d => -d else ds, poison := false }

/-- The digits dropped by `normDigits` are not all zero. -/
def normDrops (v : Dy) (n : Nat) : Bool :=
  let e := Int.fdiv v.log2 4 + 1
  let k := 4 * ((n : Int) - e)
  !(Dy.eqv ⟨v.abs.floorScaled k, -k⟩ v.abs)

/-- Conversion in of a floating-point value (R57, R59). -/
def fvalDigits (v : FVal) (n : Nat) : DVal :=
  match v with
  | .fin neg m e => if m = 0 then .zero neg else normDigits ⟨if neg then -(m : Int) else m, e⟩ n
  | _ => .bad

/-- Conversion in of an integer of h hex digits (R58). -/
def intDigits (v : Int) (h n : Nat) : DVal :=
  if v = 0 then .zero false
  else
    let ds := (hexDigits v.natAbs h).take n
    let ds := ds ++ List.replicate (n - ds.length) 0
    { z := false, zs := false, e := h, ds := if v < 0 then ds.map fun d => -d else ds, poison := false }

/-- Conversion in of a stored element of a format that stands alone (R57, R58). -/
def readFmt (c raw n : Nat) : DVal :=
  match fmtOf c, intOf c with
  | some f, _ => fvalDigits (f.read raw) n
  | none, some (w, signed) =>
    intDigits (if signed then signedOf w raw else ((raw % 2 ^ w : Nat) : Int)) (fmtDigits c) n
  | none, none => .bad

/-- The exact value of digits at exponent e (R56). -/
def digitsDy (e : Int) (ds : List Int) : Dy := ⟨ds.foldl (fun v d => 16 * v + d) 0, 4 * (e - ds.length)⟩

/-- An exact value stored in a format by a mode, and whether it saturated (R60, R62, R63). `zs` is the sign of a Z = 1
element. -/
def storeFmt (c : Nat) (md : RMode) (sat : Bool) (v : Dy) (zs : Option Bool) : Nat × Bool :=
  match fmtOf c, intOf c with
  | some f, _ =>
    if v.isZero then (f.signBit (zs.getD (md == .rdn)), false)
    else f.store md sat v.isNeg v.mag
  | none, some (w, signed) =>
    let r := v.mag.roundAt v.isNeg md 0
    let x : Int := if v.isNeg then -(r.1 : Int) else r.1
    let lo : Int := if signed then -(2 ^ (w - 1)) else 0
    let hi : Int := if signed then 2 ^ (w - 1) - 1 else 2 ^ w - 1
    let y := if x < lo then lo else if hi < x then hi else x
    ((y % 2 ^ w).toNat, y != x)
  | none, none => (0, false)

/-- The pattern of a poisoned element (R66). -/
def poisonPat (c : Nat) : Nat :=
  match fmtOf c with
  | some f => f.nanBits
  | none => 0

/-- The header payload of a digit float (R54); a zero takes the free exponent `zeroE`. -/
def DVal.header (d : DVal) (zeroE : Int) (orig ndig wc : Nat) (apx : Bool) : Word :=
  hdrPay (if d.z then zeroE else d.e) orig ndig wc d.z (d.z && d.zs) apx

/-- Digits in groups of n. -/
def groupsOf (n : Nat) (ds : List Int) : Nat → List (List Int)
  | 0 => []
  | k + 1 => if ds.isEmpty then [] else ds.take n :: groupsOf n (ds.drop n) k

/-- The flits of a digit float (R54, R55, R132): header, body flits and end of element. -/
def DVal.flits (d : DVal) (zeroE : Int) (orig ndig wc : Nat) (apx : Bool) (ctag : BitVec 8) (last : Bool) : List Flit :=
  let ds := if d.z then [] else d.ds
  [mkFlit 1 ctag (d.header zeroE orig ndig wc apx) d.poison false]
    ++ (groupsOf (2 ^ wc) ds 64).map (fun g => mkFlit 2 ctag (bodyPay g) false false)
    ++ [mkFlit 3 ctag (word ds.length) false last]

end Sys2Proof.Machine
end

