-- ==== Sys2Proof/Machine/Online.lean ====
section
/-!
DEFINITION. Online digit arithmetic (04 R73-R93): partial values, the digits of each operator, decisions, roundings, and
pair accumulation. Every function says what is determined by the operand digits that have arrived.
-/
namespace Sys2Proof.Machine

/-- An operand as an operator sees it (R74): the header's fields, the digits received, and the declared count, or once
the element has ended the count received. `whole` is a frame constant or a Z = 1 element (R85). -/
structure Opn where
  e : Int
  ds : List Int
  n : Nat
  ended : Bool
  z : Bool
  zs : Bool
  const : Bool
  apx : Bool
  orig : Nat
  poison : Bool
deriving DecidableEq, Repr

/-- The operand that a PE has taken in part (R267). -/
def Operand.opn (o : Operand) : Opn :=
  let h := o.hdr.getD 0
  { e := hdrE h, ds := o.digits, n := if o.ended then o.digits.length else hdrNdig h, ended := o.ended, z := hdrZ h,
    zs := hdrZs h, const := false, apx := hdrApx h, orig := hdrOrig h, poison := o.poison }

/-- A frame constant (R266): the binary64 value converted at NDIG 14. -/
def constOpn (w : Word) : Opn :=
  let d := readFmt 0 w.toNat 14
  { e := d.e, ds := d.ds, n := 14, ended := true, z := d.z, zs := d.zs, const := true, apx := false, orig := 0,
    poison := false }

/-- Zero as an operand of a decision (R85). -/
def zeroOpn : Opn :=
  { e := 0, ds := [], n := 0, ended := true, z := true, zs := false, const := true, apx := false, orig := 0,
    poison := false }

/-- The first k digits, or as many as the operand has, have arrived. -/
def Opn.has (x : Opn) (k : Int) : Bool := x.z || x.ended || decide (min k x.n ≤ x.ds.length)

/-- X_k (R74). -/
def Opn.first (x : Opn) (k : Int) : Dy := if x.z then .zero else digitsDy x.e (x.ds.take (min k x.n).toNat)

/-- x⟨w⟩ (R74): the digits of weight at least 16^w. -/
def Opn.above (x : Opn) (w : Int) : Dy := x.first (x.e - w)

/-- The digits of x⟨w⟩ have arrived. -/
def Opn.hasAbove (x : Opn) (w : Int) : Bool := x.has (x.e - w)

/-- The whole value of an element that has ended, or of a constant. -/
def Opn.value (x : Opn) : Dy := x.first x.n

/-! Rounding of F_j to the nearest integer at digit j, half up (R75): floor(F * 16^(j - Ez) + 1/2). -/

/-- The nearest integer from twice the value, rounded down. -/
def halfUp (twice : Int) : Int := Int.fdiv (twice + 1) 2

/-- For a dyadic F. -/
def nearDy (f : Dy) (k : Int) : Int := halfUp (f.floorScaled (4 * k + 1))

/-- For a quotient of dyadics. -/
def nearQuot (x y : Dy) (k : Int) : Int :=
  let s := x.e - y.e + 4 * k + 1
  let (m, d) := if y.m < 0 then (-x.m, -y.m) else (x.m, y.m)
  halfUp (if 0 ≤ s then Int.fdiv (m * 2 ^ s.toNat) d else Int.fdiv m (d * 2 ^ (-s).toNat))

/-- For a square root. -/
def nearSqrt (x : Dy) (k : Int) : Int := halfUp (isqrt (x.floorScaled (8 * k + 2)).toNat)

/-- Lower and upper bounds of 2^(r / 2^d), scaled by 2^p: `b` bounds 2^(2^-i), `a` the product so far. -/
def exp2Bounds (p r : Nat) (b a : Nat × Nat) : Nat → Nat × Nat
  | 0 => a
  | d + 1 =>
    let b := (isqrt (b.1 * 2 ^ p), isqrt (b.2 * 2 ^ p) + 1)
    let a := if r / 2 ^ d % 2 = 1 then (a.1 * b.1 / 2 ^ p, a.2 * b.2 / 2 ^ p + 1) else a
    exp2Bounds p r b a d

/-- floor(2^(m / 2^d)) for m not negative: by bounds of rising precision, and at last by d square roots, each exact to
its integer part. -/
def exp2Floor (m d : Nat) : Nat → Nat
  | 0 => iter isqrt d (2 ^ m)
  | fuel + 1 =>
    let n := m / 2 ^ d
    let r := m % 2 ^ d
    if r = 0 then 2 ^ n
    else
      let p := n + 2 * d + 64 * (32 - fuel)
      let a := exp2Bounds p r (2 ^ (p + 1), 2 ^ (p + 1)) (2 ^ p, 2 ^ p) d
      let lo := a.1 * 2 ^ n / 2 ^ p
      let hi := a.2 * 2 ^ n / 2 ^ p
      if lo = hi then lo else exp2Floor m d fuel

/-- For 2^x. -/
def nearExp2 (x : Dy) (k : Int) : Int :=
  let y := x.add (.ofInt (4 * k + 1))
  let d := (-y.e).toNat
  let m := y.m * 2 ^ (y.e + d).toNat
  halfUp (if m < 0 then 0 else exp2Floor m.toNat d 32)

/-- The digits that are determined (R75): `f j` is the nearest integer to F_j * 16^(j - Ez), or none where an operand
digit it reads has not arrived. -/
def onlineDigits (f : Nat → Option Int) (j : Nat) (z : Int) : Nat → List Int
  | 0 => []
  | n + 1 =>
    match f j with
    | none => []
    | some g =>
      let d := max (-15) (min 15 (g - 16 * z))
      d :: onlineDigits f (j + 1) (16 * z + d) n

/-! What an operator knows of its result. -/

/-- A header that is decided: E, or none where no rule gives it (R54); Z and ZS; APX; and poison with its ORIG, none for
the node's own (R76, R82). -/
structure HdrOut where
  e : Option Int
  z : Bool
  zs : Bool
  apx : Bool
  poison : Bool
  orig : Option Nat
deriving DecidableEq, Repr

/-- A result as far as it is determined: the header; the digits known and how many there will be; or a word; and the
KILLs due, as operand and position. -/
structure Res where
  hdr : Option HdrOut
  ds : List Int
  total : Nat
  word : Option (Word × Bool)
  kills : List (Nat × Int)
deriving DecidableEq, Repr

/-- Nothing is determined yet. -/
def Res.unknown : Res := { hdr := none, ds := [], total := 0, word := none, kills := [] }

/-- A poisoned result keeps APX (R76, R84) and kills every operand at 0 (R82). -/
def Res.bad (orig : Option Nat) (ops : Nat) (apx : Bool) : Res :=
  { hdr := some { e := none, z := true, zs := false, apx := apx, poison := true, orig := orig }, ds := [], total := 0,
    word := none, kills := (rangeFrom 0 ops).map fun k => (k, 0) }

/-- A zero result (R80). -/
def Res.zero (zs apx : Bool) (kills : List (Nat × Int)) : Res :=
  { hdr := some { e := none, z := true, zs := zs, apx := apx, poison := false, orig := none }, ds := [], total := 0,
    word := none, kills := kills }

/-- A result at exponent ez whose digits come from F (R75, R76), with the range rule of R81. -/
def Res.online (ez : Int) (ndig ops : Nat) (apx : Bool) (f : Nat → Option Int) (kills : List (Nat × Int)) : Res :=
  if ez < -32768 then .zero false true ((rangeFrom 0 ops).map fun k => (k, 0))
  else if 32767 < ez then .bad none ops apx
  else
    { hdr := some { e := some ez, z := false, zs := false, apx := apx, poison := false, orig := none },
      ds := onlineDigits f 1 0 ndig, total := ndig, word := none, kills := kills }

/-- Digits that are all known (R57), or a zero, with the range rule of R81. -/
def Res.ofVal (d : DVal) (apx : Bool) (kills : List (Nat × Int)) : Res :=
  if d.z then .zero d.zs apx kills
  else if d.e < -32768 then .zero false true [(0, 0)]
  else if 32767 < d.e then .bad none 1 apx
  else
    { hdr := some { e := some d.e, z := false, zs := false, apx := apx, poison := false, orig := none }, ds := d.ds,
      total := d.ds.length, word := none, kills := kills }

/-- Step j of a comparison decides it (R85): the sign of A - B and the step. -/
def compareFrom (a b : Opn) (emax : Int) (j : Nat) : Nat → Option (Int × Nat)
  | 0 => none
  | n + 1 =>
    let w := emax - j
    if !(a.const || a.hasAbove w) || !(b.const || b.hasAbove w) then none
    else
      let val := fun (x : Opn) => if x.const || x.z then x.value else x.above w
      let rem := fun (x : Opn) =>
        let r := Dy.sub ⟨1, 4 * w⟩ ⟨1, 4 * (x.e - x.n)⟩
        if x.const || x.z || r.isNeg then Dy.zero else r
      let d := (val a).sub (val b)
      let r := (rem a).add (rem b)
      if r.lt d.abs then some (if d.isNeg then -1 else 1, j)
      else if r.isZero then some (0, j)
      else compareFrom a b emax (j + 1) n

/-- The comparison of two operands (R85): its sign and the step, once decided. -/
def compareOpn (a b : Opn) : Option (Int × Nat × Int) :=
  if a.z && b.z then some (0, 0, 0)
  else
    let emax := if a.z then b.e else if b.z then a.e else max a.e b.e
    let span := fun (x : Opn) => if x.z then (0 : Int) else emax - x.e + x.n
    (compareFrom a b emax 1 ((max (span a) (span b)).toNat + 2)).map fun p => (p.1, p.2, emax)

/-- The decision position of an operand (R85). No rule gives E of a Z = 1 element (R54), so the position at which one is
killed follows the E it carries, a free value (DESIGN CHOICE, log entry 5). -/
def Opn.posAt (x : Opn) (emax : Int) (j : Nat) : Int := x.e - emax + j

/-- The sign of an operand against 0, with its decision position (R80, R85). -/
def signOpn (x : Opn) : Option (Bool × Int) :=
  (compareOpn x zeroOpn).map fun p => (decide (p.1 < 0), x.posAt p.2.2 p.2.1)

/-- Both headers' operands give digit j of a sum (R77). -/
def sumDigit (x y : Opn) (neg : Bool) (ez : Int) (j : Nat) : Option Int :=
  let w := ez - j - 1
  if x.hasAbove w && y.hasAbove w then
    some (nearDy (if neg then (x.above w).sub (y.above w) else (x.above w).add (y.above w)) (j - ez))
  else none

/-- `d.add` and `d.sub` (R77, R80). -/
def resAdd (x y : Opn) (neg : Bool) (ndig : Nat) : Res :=
  let apx := x.apx || y.apx
  if x.z && y.z then .zero (x.zs && (y.zs != neg)) apx []
  else
    let ez := (if x.z then y.e else if y.z then x.e else max x.e y.e) + 1
    .online ez ndig 2 apx (sumDigit x y neg ez) []

/-- The products of the approximate multiply (R84) as an integer at 16^(Ex + Ey - 2m), with m = j + 2. -/
def apxSum (x y : Opn) (ndig m : Nat) : Dy :=
  (rangeFrom 1 m).foldl (fun v a => (rangeFrom 1 m).foldl (fun v b =>
    if a + b ≤ ndig + 2 then
      v.add ⟨listGet 0 x.ds (a - 1) * listGet 0 y.ds (b - 1), 4 * (x.e + y.e - a - b)⟩
    else v) v) .zero

/-- `d.mul` (R77, R80, R84). -/
def resMul (x y : Opn) (apxm : Bool) (ndig : Nat) : Res :=
  let apx := x.apx || y.apx || apxm
  let oneZero := fun (z o : Opn) (k : Nat) => match signOpn o with
    | none => Res.unknown
    | some (neg, pos) => .zero (z.zs != neg) apx [(k, pos)]
  if x.z && y.z then .zero (x.zs != y.zs) apx []
  else if x.z then oneZero x y 1
  else if y.z then oneZero y x 0
  else
    let ez := x.e + y.e + 1
    .online ez ndig 2 apx (fun j =>
      if x.has (j + 2) && y.has (j + 2) then
        some (nearDy (if apxm then apxSum x y ndig (j + 2) else (x.first (j + 2)).mul (y.first (j + 2))) (j - ez))
      else none) []

/-- `d.fma` (R77, R80). -/
def resFma (x y a : Opn) (ndig : Nat) : Res :=
  let apx := x.apx || y.apx || a.apx
  if x.z || y.z then
    if !a.z then
      let ez := a.e + 1
      .online ez ndig 3 apx (fun j =>
        if a.hasAbove (ez - j - 1) then some (nearDy (a.above (ez - j - 1)) (j - ez)) else none) [(0, 0), (1, 0)]
    else if x.z && y.z then .zero ((x.zs != y.zs) && a.zs) apx []
    else
      let (z, o, k) := if x.z then (x, y, 1) else (y, x, 0)
      match signOpn o with
      | none => .unknown
      | some (neg, pos) => .zero ((z.zs != neg) && a.zs) apx [(k, pos)]
  else
    let ez := (if a.z then x.e + y.e else max (x.e + y.e) a.e) + 1
    .online ez ndig 3 apx (fun j =>
      if x.has (j + 2) && y.has (j + 2) && a.hasAbove (ez - j - 2) then
        some (nearDy (((x.first (j + 2)).mul (y.first (j + 2))).add (a.above (ez - j - 2))) (j - ez))
      else none) []

/-- The normalisation of R78: an index and the value there; none while digits are missing; index 0 for a value of
zero. -/
def normFrom (y : Opn) (k : Nat) : Nat → Option (Nat × Dy)
  | 0 => if y.value.isZero then some (0, .zero) else some (y.n, y.value)
  | n + 1 =>
    if !y.has k then none
    else
      let v := y.first k
      if !(v.abs.lt ⟨2, 4 * (y.e - k)⟩) then some (k, v)
      else if y.n ≤ k then if y.value.isZero then some (0, .zero) else some (y.n, v)
      else normFrom y (k + 1) n

/-- The normalisation of an operand (R78). -/
def normOpn (y : Opn) : Option (Nat × Dy) := if y.n = 0 then some (0, .zero) else normFrom y 1 64

/-- `d.div` (R77, R78, R80). -/
def resDiv (x y : Opn) (ndig : Nat) : Res :=
  let apx := x.apx || y.apx
  if y.z then .bad none 2 apx
  else match normOpn y with
  | none => .unknown
  | some (0, _) => .bad none 2 apx
  | some (k, v) =>
    if x.z then .zero (x.zs != v.isNeg) apx []
    else
      let ez := x.e - y.e + k + 1
      .online ez ndig 2 apx (fun j =>
        if x.has (j + 3) && y.has (k + j + 2) then
          some (nearQuot (x.first (j + 3)) (y.first (k + j + 2)) (j - ez))
        else none) []

/-- `d.sqrt` (R77, R78, R80). -/
def resSqrt (x : Opn) (ndig : Nat) : Res :=
  if x.z then .zero x.zs x.apx []
  else match normOpn x with
  | none => .unknown
  | some (0, _) => .zero false x.apx []
  | some (k, v) =>
    if v.isNeg then .bad none 1 x.apx
    else
      let e2 := x.e - k + 1
      let ez := Int.fdiv e2 2 + 1
      .online ez ndig 1 x.apx (fun j =>
        if x.has (k + j + 2) then some (nearSqrt (x.first (k + j + 2)) (j - ez)) else none) []

/-- `d.exp2` (R77, R79). -/
def resExp2 (x : Opn) (ndig : Nat) : Res :=
  if !x.hasAbove (-4) then .unknown
  else
    let ez := Int.fdiv (nearDy (x.above (-4)) 0) 4 + 1
    .online ez ndig 1 x.apx (fun j =>
      if x.hasAbove (-(j : Int) - 4) then some (nearExp2 (x.above (-(j : Int) - 4)) (j - ez)) else none) []

/-- The winner of a decision (R86, R274): its exponent, APX and first digits. A frame constant of zero has no E. -/
def resWin (w : Opn) (ndig : Nat) (kills : List (Nat × Int)) : Res :=
  let e := if w.z && w.const then none else some w.e
  if w.z then
    { Res.zero w.zs w.apx kills with
      hdr := some { e := e, z := true, zs := w.zs, apx := w.apx, poison := false, orig := none } }
  else
    let ds := w.ds.take ndig
    { hdr := some { e := e, z := false, zs := false, apx := w.apx, poison := false, orig := none },
      ds := if w.ended then ds ++ List.replicate (ndig - ds.length) 0 else ds, total := ndig, word := none,
      kills := kills }

/-- `d.max` and `d.min` (R86): the loser is killed at its decision position, the winner past the digits emitted. -/
def resMax (x y : Opn) (min' : Bool) (ndig : Nat) : Res :=
  match compareOpn x y with
  | none => .unknown
  | some (c, j, emax) =>
    let win := fun (w l : Opn) (k : Nat) =>
      resWin w ndig ((1 - k, l.posAt emax j) :: if !w.z && decide (ndig < w.n) then [(k, (ndig : Int))] else [])
    let xWins := c = 0 ∨ (if min' then c < 0 else 0 < c)
    if xWins then win x y 0 else win y x 1

/-- `d.relu` and `d.thr` (R86): `strict` asks for x above b. Only x is killed, where the result is zero. -/
def resThr (x b : Opn) (strict : Bool) (ndig : Nat) : Res :=
  match compareOpn x b with
  | none => .unknown
  | some (c, j, emax) =>
    if 0 < c ∨ (c = 0 ∧ !strict) then resWin x ndig []
    else .zero false (x.apx || b.apx) [(0, x.posAt emax j)]

/-- `d.cmp` (R274). -/
def resCmp (x y : Opn) (rel : Nat) : Res :=
  match compareOpn x y with
  | none => .unknown
  | some (c, j, emax) =>
    let r := match rel with
      | 0 => decide (c < 0)
      | 1 => decide (c ≤ 0)
      | 2 => c == 0
      | 3 => c != 0
      | 4 => decide (0 ≤ c)
      | _ => decide (0 < c)
    { Res.unknown with
      word := some (word ((boolWord r).toNat * 8 + (if c > 0 then 4 else if c = 0 then 2 else 1)), false)
      kills := [(0, x.posAt emax j), (1, y.posAt emax j)] }

/-- `d.scale` (R271). -/
def resScale (x : Opn) (imm : BitVec 16) (ndig : Nat) : Res :=
  if x.z then .zero x.zs x.apx []
  else
    let s := imm.toInt
    let q := Int.fdiv s 4
    let r := s - 4 * q
    let ez := x.e + q + 1
    .online ez ndig 1 x.apx (fun j =>
      if x.has (j + 1) then some (nearDy ((x.first (j + 1)).scale (r + 4 * q)) (j - ez)) else none) []

/-- `d.neg` (R272). -/
def resNeg (x : Opn) (ndig : Nat) : Res :=
  if x.z then
    { Res.zero (!x.zs) x.apx [] with
      hdr := some { e := some x.e, z := true, zs := !x.zs, apx := x.apx, poison := false, orig := none } }
  else
    let ds := (x.ds.take ndig).map fun d => -d
    { hdr := some { e := some x.e, z := false, zs := false, apx := x.apx, poison := false, orig := none },
      ds := if x.ended then ds ++ List.replicate (ndig - ds.length) 0 else ds, total := ndig, word := none, kills := [] }

/-! Roundings (R275-R278). -/

/-- The step at which a rounding is decided (R277), and the value it stands for: `f` gives the rounded result, of values
of one sign in their order; values of two signs have one result only where both give the same zero. -/
def roundFrom {α : Type} [DecidableEq α] (x : Opn) (f : Dy → α) (j : Nat) : Nat → Option (α × Nat)
  | 0 => none
  | n + 1 =>
    if !x.has j then none
    else
      let a := x.first j
      let r := Dy.sub ⟨1, 4 * (x.e - j)⟩ ⟨1, 4 * (x.e - x.n)⟩
      let r := if r.isNeg then Dy.zero else r
      let lo := a.sub r
      let hi := a.add r
      let one := f lo = f hi ∧ (lo.isNeg = hi.isNeg ∨ f lo = f .zero)
      if one then some (f lo, j) else roundFrom x f (j + 1) n

/-- A rounding's result and decision position, if it is decided (R277): a Z = 1 element has its value at once, at no digit.
Under RSR nothing is decided before the element's end. -/
def roundOpn {α : Type} [DecidableEq α] (x : Opn) (rsr : Bool) (f : Dy → Option Bool → α) : Option (α × Option Nat) :=
  let whole := if x.z then f .zero (some x.zs) else f x.value none
  if rsr then if x.ended then some (whole, none) else none
  else if x.z then some (whole, some 1)
  else match roundFrom x (fun v => f v none) 1 63 with
  | some (r, j) => some (r, some j)
  | none => if x.ended then some (whole, none) else none

/-- The KILL of a rounding (R277). -/
def roundKills (j : Option Nat) : List (Nat × Int) :=
  match j with
  | some j => [(0, (j : Int))]
  | none => []

/-- `d.cvt` in mode 0 (R275): the value rounded into F as a digit float; an infinity or NaN poisons it. -/
def resCvt (x : Opn) (code ndig : Nat) (md : RMode) (rsr sat : Bool) : Res :=
  match roundOpn x rsr fun v zs => (storeFmt code md sat v zs).1 with
  | none => .unknown
  | some (p, j) =>
    let d := readFmt code p ndig
    let d := match intOf code with
      | some _ => if d.z then d else normDigits (digitsDy d.e d.ds) ndig
      | none => d
    if d.poison then .bad none 1 x.apx else .ofVal d x.apx (roundKills j)

/-- `d.trunc` (R276): the value rounded to a multiple of 2^s, as sign and multiple. -/
def truncAt (s : Int) (md : RMode) (v : Dy) (zs : Option Bool) : Int × Bool :=
  if v.isZero then (0, zs.getD (md == .rdn))
  else
    let r := v.mag.roundAt v.isNeg md s
    (if v.isNeg then -(r.1 : Int) else r.1, v.isNeg)

/-- `d.trunc` (R276). -/
def resTrunc (x : Opn) (imm : BitVec 16) (ndig : Nat) (md : RMode) (rsr : Bool) : Res :=
  match roundOpn x rsr (truncAt imm.toInt md) with
  | none => .unknown
  | some ((m, neg), j) =>
    if m = 0 then .zero neg x.apx (roundKills j)
    else .ofVal (normDigits ⟨m, imm.toInt⟩ ndig) (x.apx || normDrops ⟨m, imm.toInt⟩ ndig) (roundKills j)

/-- `w.cvt` (R286): the bit pattern in a word, sign-extended for a signed integer. -/
def resWcvt (x : Opn) (code : Nat) (md : RMode) (rsr sat : Bool) : Res :=
  match roundOpn x rsr fun v zs => (storeFmt code md sat v zs).1 with
  | none => .unknown
  | some (p, j) =>
    let w := match intOf code with
      | some (b, true) => u64 (signedOf b p)
      | _ => word p
    { Res.unknown with word := some (w, false), kills := roundKills j }

/-! Kill positions of an operator stopped at J (R89, R281). -/

/-- The KILLs a stopped operator sends (R89, R281): operand and position. A zero case of R80 sends none here. Neither rule
lists `d.max`, `d.min`, `d.relu` and `d.thr`: they send KILL(J) to every operand not yet killed, since they read no digit
past those they emit (DESIGN CHOICE, log entry 90). -/
def stopKills (op : Nat) (x y a : Opn) (ez : Int) (j : Int) : List (Nat × Int) :=
  let live := fun (o : Opn) (k : Nat) (pos : Int) => if o.z then [] else [(k, pos)]
  match op with
  | 0x00 | 0x01 => live x 0 (x.e - ez + j + 1) ++ live y 1 (y.e - ez + j + 1)
  | 0x02 => [(0, j + 2), (1, j + 2)]
  | 0x03 =>
    if x.z || y.z then [(2, a.e - ez + j + 1)] else [(0, j + 2), (1, j + 2)] ++ live a 2 (a.e - ez + j + 2)
  | 0x04 =>
    match normOpn y with
    | some (k, _) => [(0, j + 3), (1, k + j + 2)]
    | none => []
  | 0x05 =>
    match normOpn x with
    | some (k, _) => [(0, k + j + 2)]
    | none => []
  | 0x06 => live x 0 (x.e + j + 4)
  | 0x0C => [(0, j + 1)]
  | 0x0D => [(0, j)]
  | 0x07 | 0x08 | 0x0A | 0x0B => [(0, j), (1, j)]
  | _ => []

/-! Pair accumulation (R92, R93). -/

/-- rn(f, v) as a bit pattern (R92): RNE with IEEE overflow; a zero keeps the sign `neg`. -/
def rnBits (f : FFmt) (v : Dy) (neg : Bool) : Nat :=
  if v.isZero then f.signBit neg else (f.store .rne false v.isNeg v.mag).1

/-- The exact value of a pattern. -/
def patDy (f : FFmt) (b : Nat) : Dy := (f.read b).dy

/-- The sign bit of a pattern. -/
def patNeg (f : FFmt) (b : Nat) : Bool := b / 2 ^ (f.ex + f.man) % 2 == 1

/-- A pattern is an infinity or NaN. -/
def patBad (f : FFmt) (b : Nat) : Bool :=
  match f.read b with
  | .fin _ _ _ => false
  | _ => true

/-- rn(f, a + b) of two patterns; a sum of zero is -0 only where both are. -/
def rnAdd (f : FFmt) (a b : Nat) : Nat :=
  if patBad f a || patBad f b then f.nanBits
  else rnBits f ((patDy f a).add (patDy f b)) (patNeg f a && patNeg f b && (patDy f a).isZero && (patDy f b).isZero)

/-- The pattern with its sign inverted. -/
def patFlip (f : FFmt) (b : Nat) : Nat :=
  if patNeg f b then b - f.signBit true else b + f.signBit true

/-- rn(f, a - b) of two patterns. -/
def rnSub (f : FFmt) (a b : Nat) : Nat := rnAdd f a (patFlip f b)

/-- two_sum (R92). -/
def twoSum (f : FFmt) (a b : Nat) : Nat × Nat :=
  let s := rnAdd f a b
  let bv := rnSub f s a
  let av := rnSub f s bv
  (s, rnAdd f (rnSub f a av) (rnSub f b bv))

/-- pair_add (R92); an infinity or NaN in any rounding makes the pair poisoned (R93). -/
def pairAdd (f : FFmt) (s c : Nat) (v : Dy) : Option (Nat × Nat) :=
  let h := rnBits f v v.isNeg
  if patBad f h then none
  else
    let t := rnBits f (v.sub (patDy f h)) false
    let (s1, e1) := twoSum f s h
    let c1 := rnAdd f c e1
    let c2 := rnAdd f c1 t
    let r := twoSum f s1 c2
    if [s1, e1, c1, c2, r.1, r.2].any (patBad f) then none else some r

end Sys2Proof.Machine
end

