-- ==== Sys2Proof/Machine/Pe.lean ====
section
/-!
DEFINITION. Processing elements (14 R266-R287): word operations, firing, and the emission of digit results.
-/
namespace Sys2Proof.Machine

/-! Word operations. -/

/-- The lanes of a word, w bits each (R283). -/
def lanesOf (w : Nat) (v : Word) : Nat → List Nat
  | 0 => []
  | n + 1 => v.toNat % 2 ^ w :: lanesOf w (v >>> w) n

/-- The word with the given lanes. -/
def ofLanes (w : Nat) : List Nat → Nat
  | [] => 0
  | x :: l => x % 2 ^ w + 2 ^ w * ofLanes w l

/-- An exact sum, difference or product in a lane: 0 wraps, 1 saturates signed, 2 unsigned (R284). -/
def laneFit (w md : Nat) (s u : Int) : Nat :=
  match md with
  | 1 => (max (-(2 ^ (w - 1))) (min (2 ^ (w - 1) - 1) s) % 2 ^ w).toNat
  | 2 => (max 0 (min (2 ^ w - 1) u)).toNat
  | _ => (u % 2 ^ w).toNat

/-- The relation of `w.cmp` (R284). -/
def laneRel (rel : Nat) (sx sy : Int) (x y : Nat) : Bool :=
  match rel with
  | 0 => x == y
  | 1 => x != y
  | 2 => decide (sx < sy)
  | 3 => decide (sy ≤ sx)
  | 4 => decide (x < y)
  | _ => decide (y ≤ x)

/-- The result of one lane of w bits (R284). -/
def laneOp (op imm w x y a : Nat) : Nat :=
  let sx := signedOf w x
  let sy := signedOf w y
  let n := y % w
  match op with
  | 0x20 => laneFit w (imm % 4) (sx + sy) ((x : Int) + y)
  | 0x21 => laneFit w (imm % 4) (sx - sy) ((x : Int) - y)
  | 0x22 => laneFit w (imm % 4) (sx * sy) ((x : Int) * y)
  | 0x23 => if imm % 2 = 0 then (Int.fdiv (sx * sy) (2 ^ w) % 2 ^ w).toNat else x * y / 2 ^ w
  | 0x24 => x &&& y
  | 0x25 => x ||| y
  | 0x26 => x ^^^ y
  | 0x27 => x * 2 ^ n % 2 ^ w
  | 0x28 => x / 2 ^ n
  | 0x29 => (Int.fdiv sx (2 ^ n) % 2 ^ w).toNat
  | 0x2A => if imm % 2 = 0 then (if sy < sx then y else x) else (if y < x then y else x)
  | 0x2B => if imm % 2 = 0 then (if sx < sy then y else x) else (if x < y then y else x)
  | 0x2C => if laneRel (imm % 8) sx sy x y then 2 ^ w - 1 else 0
  | 0x2D => (a &&& x) ||| ((2 ^ w - 1 - a) &&& y)
  | _ =>
    match imm % 4 with
    | 0 => popCount (word x) w
    | 1 => leadingZeros (word x) w
    | _ => trailingZeros (word x) 0 w

/-- The order of two E2M1 codes (R287): -1, 0 or 1. -/
def e2m1Cmp (x y : Nat) : Int :=
  let d := (patDy .e2m1 x).sub (patDy .e2m1 y)
  if d.isZero then 0 else if d.isNeg then -1 else 1

/-- The result of one E2M1 lane (R287). -/
def halfOp (op imm x y a : Nat) : Nat :=
  match op with
  | 0x2A => if e2m1Cmp y x < 0 then y else x
  | 0x2B => if e2m1Cmp x y < 0 then y else x
  | 0x2C =>
    let c := e2m1Cmp x y
    let r := match imm % 8 with
      | 0 => c == 0
      | 1 => c != 0
      | 2 => decide (c < 0)
      | _ => decide (0 ≤ c)
    if r then 0xF else 0
  | _ => laneOp op imm 4 x y a

/-- The lane-wise combination of three words. -/
def zipLanes (f : Nat → Nat → Nat → Nat) : List Nat → List Nat → List Nat → List Nat
  | x :: l, y :: m, a :: n => f x y a :: zipLanes f l m n
  | _, _, _ => []

/-- A word operation (R283-R287). -/
def wordOp (f : Frame) (x y a : Word) : Word :=
  let half := f.getLsbD 211
  let w := if half then 4 else 64 / 2 ^ fGang f
  let n := 64 / w
  let g := if half then halfOp (fOp f) (fImm f).toNat else laneOp (fOp f) (fImm f).toNat w
  word (ofLanes w (zipLanes g (lanesOf w x n) (lanesOf w y n) (lanesOf w a n)))

/-- The word that `w.cst` emits at its firing number c (R285). -/
def cstWord (f : Frame) (c : Word) : Word :=
  let w := 64 / 2 ^ fGang f
  word (ofLanes w ((lanesOf w (fConst f) (64 / w)).map fun (k : Nat) =>
    (((k : Int) + c.toNat * (fImm f).toInt) % 2 ^ w).toNat))

/-! Results of operations. -/

/-- The operand channels that an operation reads (R266, R288). -/
def peReads (f : Frame) : List Nat :=
  let n := (peArity (fOp f)).getD 0
  [0] ++ (if 2 ≤ n ∧ !fCsel f then [1] else []) ++ (if n = 3 then [2] else [])

/-- The operation takes words at its inputs: a word operation but `w.cvt`, or `d.cvt` in mode 1 (R267, R275). -/
def peTakesWord (f : Frame) : Bool :=
  (peIsWord (fOp f) && fOp f != 0x30) || (fOp f == 0x10 && (fImm f).getLsbD 15)

/-- The operation accumulates, and has no result of its own kind (R279). -/
def peIsAcc (f : Frame) : Bool := fOp f == 0x0F

/-- The operation counts its triggers (R285). -/
def peIsCst (f : Frame) : Bool := fOp f == 0x2F

/-- The result of an operation on the operands taken so far (R270-R286); `rounded` counts the elements rounded (R278). -/
def peResult (f : Frame) (ops : List Operand) (rounded : BitVec 48) : Res :=
  let op := fOp f
  let nd := fNdig f
  let opn := fun k => (listGet Operand.empty ops k).opn
  let x := opn 0
  let y := if fCsel f then constOpn (fConst f) else opn 1
  let a := opn 2
  let md := rmodeOf (fRm f) (rsrBits (fConst f) 0 rounded.toNat)
  let rsr := fRm f == 4
  let apx := (peReads f).any (fun k => (opn k).apx) || (op == 0x02 && f.getLsbD 213)
  let bad := listFind (fun k => (listGet Operand.empty ops k).poison) (peReads f)
  match bad with
  | some k =>
    if op = 0x09 then { Res.unknown with word := some (0, true), kills := [(0, 0), (1, 0)] }
    else if op = 0x30 then
      { Res.unknown with word := some (word (poisonPat ((fImm f).toNat % 32)), true), kills := [(0, 0)] }
    else if peTakesWord f then .bad none 0 false
    else .bad (some (opn k).orig) 3 apx
  | none =>
    match op with
    | 0x00 => resAdd x y false nd
    | 0x01 => resAdd x y true nd
    | 0x02 => resMul x y (f.getLsbD 213) nd
    | 0x03 => resFma x y a nd
    | 0x04 => resDiv x y nd
    | 0x05 => resSqrt x nd
    | 0x06 => resExp2 x nd
    | 0x07 => resMax x y false nd
    | 0x08 => resMax x y true nd
    | 0x09 => resCmp x y ((fImm f).toNat % 8)
    | 0x0A => resThr x zeroOpn true nd
    | 0x0B => resThr x y false nd
    | 0x0C => resScale x (fImm f) nd
    | 0x0D => resNeg x nd
    | 0x0E => resTrunc x (fImm f) nd md rsr
    | 0x10 =>
      let code := (fImm f).toNat % 32
      if (fImm f).getLsbD 15 then
        let d := readFmt code (((listGet Operand.empty ops 0).word.getD 0).toNat % 2 ^ fmtWidth code) nd
        let d := match intOf code with
          | some _ => if d.z then d else normDigits (digitsDy d.e d.ds) nd
          | none => d
        if d.poison then .bad none 0 false else .ofVal d false []
      else resCvt x code nd md rsr (fSat f)
    | 0x30 => resWcvt x ((fImm f).toNat % 32) md rsr (fSat f)
    | _ => .unknown

/-- The operation rounds, so that its elements count under R278. -/
def peRounds (f : Frame) : Bool := fOp f == 0x0E || fOp f == 0x30 || (fOp f == 0x10 && !(fImm f).getLsbD 15)

/-! Taking operands. -/

/-- The operand after its first flit. -/
def Operand.start (f : Flit) (no : BitVec 8) : Operand :=
  if f.kind = 1 then { Operand.empty with hdr := some f.pay, poison := f.poison, no := no }
  else { Operand.empty with word := some f.pay, poison := f.poison, ended := true, last := f.last, no := no }

/-- The operand after a body or end flit (R55, R74): an end flit fixes the digits that count. An error on either poisons the
element (R131). -/
def Operand.take (o : Operand) (f : Flit) : Operand :=
  let o := if f.poison ∧ !o.poison then
    { o with poison := true, hdr := o.hdr.map fun h => setBits h 30 18 (hdrOrig f.pay) } else o
  let h := o.hdr.getD 0
  if f.kind = 2 then { o with digits := o.digits ++ bodyDigits f.pay (min (2 ^ hdrWc h) (hdrNdig h - o.digits.length)) }
  else { o with digits := o.digits.take (bits f.pay 0 6), ended := true, last := f.last }

/-! Accumulation (R279). -/

/-- The format of a `d.acc` pair (R118). -/
def accFmt (f : Frame) : FFmt := if f.getLsbD 212 then .fp64 else .fp32

/-- The pair after an element (R92, R93). -/
def PeSlot.fold (x : PeSlot) (f : Frame) (own : Nat) (o : Opn) : PeSlot :=
  let x := { x with count := x.count + 1 }
  if x.poison.isSome then x
  else if o.poison then { x with poison := some (BitVec.ofNat 18 o.orig) }
  else match pairAdd (accFmt f) x.s.toNat x.c.toNat o.value with
  | some (s, c) => { x with s := word s, c := word c }
  | none => { x with poison := some (BitVec.ofNat 18 own) }

/-- The two elements of a pair at its close (R279), with APX 0: `d.acc` is none of the operators of R76 (DEDUCED, log entry
106). -/
def PeSlot.flits (x : PeSlot) (f : Frame) (own : Nat) (zeroE : Int) (ctag : BitVec 8) : List Flit :=
  let one := fun (w : Word) (last : Bool) =>
    match x.poison with
    | some o => DVal.bad.flits zeroE o.toNat (fNdig f) (fWc f) false ctag last
    | none => (fvalDigits ((accFmt f).read w.toNat) (fNdig f)).flits zeroE own (fNdig f) (fWc f) false ctag last
  one x.s false ++ one x.c true

/-- The accumulation restarts at (+0, +0) (R279). -/
def PeSlot.restart (x : PeSlot) : PeSlot := { x with s := 0, c := 0, poison := none, count := 0 }

/-! Firing. -/

/-- PE n of core c. -/
def State.pe (s : State) (c n : Nat) : Pe := tabGet .reset (s.grid c).pes n

/-- PE n of core c replaced. -/
def State.setPe (s : State) (c n : Nat) (p : Pe) : State :=
  s.modGrid c fun g => { g with pes := tabSet .reset g.pes n p }

/-- The node state of slot i of PE n. -/
def State.peSlot (s : State) (c n i : Nat) : PeSlot := tabGet .reset (s.grid c).peSlots (4 * n + i)

/-- The node state of slot i of PE n replaced. -/
def State.setPeSlot (s : State) (c n i : Nat) (p : PeSlot) : State :=
  s.modGrid c fun g => { g with peSlots := tabSet .reset g.peSlots (4 * n + i) p }

/-- The matrix unit takes its tokens of this tag from op2 of the router (R123). -/
def State.tokensFrom (s : State) (c rt : Nat) (tag : BitVec 8) : Bool :=
  match s.frameFor c 0x38 tag with
  | some f => fb f 215 211 == rt
  | none => false

/-- The flit that a PE finds at an operand channel. -/
def State.peHead (s : State) (c n k : Nat) : Option Flit :=
  match s.head c (operandKey n k) with
  | some f => if f.sideBad || (k == 2 && s.tokensFrom c n f.ctag) then none else some f
  | none => none

/-- Flits at PE inputs start an element of the kind an operation takes (R267). -/
def peStart (f : Frame) (x : Flit) : Bool :=
  if peIsCst f then x.kind == 0 || x.kind == 1
  else if peTakesWord f then x.kind == 0 else x.kind == 1

/-- The PE stops firing with a fault record (R267). -/
def State.peStop (s : State) (c n : Nat) (tag : BitVec 8) : State :=
  (s.setPe c n { s.pe c n with stopped := true }).withhold c n tag

/-- The operands' heads leave, and the PE holds a new element. -/
def State.peBegin (s : State) (c n i : Nat) (tag : BitVec 8) (reads : List Nat) (heads : List Flit) : State :=
  let ops := (rangeFrom 0 3).map fun k =>
    match listFind (fun (p : Nat × Flit) => p.1 == k) (reads.zip heads) with
    | some p => Operand.start p.2 (s.chan c (operandKey n k)).headNo
    | none => { Operand.empty with ended := true }
  let s := reads.foldl (fun s k => s.popChan c (operandKey n k)) s
  (s.setPe c n
    { s.pe c n with
      job := some { slot := i, ctag := tag, ops := ops, out := [], headed := false, badHdr := false, sent := 0,
                    stop := none, stopAt := 0, no := 0, drained := false } }).count c 1 1

/-- The free exponent of zero headers is taken anew. -/
def State.withZero (s : State) (k : State → Int → State) : State := let p := s.zeroExp; k p.1 p.2

/-- An end-of-tile flit at every input (R267, R279): it is emitted, after an open accumulation. -/
def State.peTile (s : State) (c n i : Nat) (f : Frame) (reads : List Nat) (x : Flit) : State :=
  let pop := fun (s : State) => reads.foldl (fun s k => s.popChan c (operandKey n k)) s
  if peIsAcc f ∧ (s.peSlot c n i).count ≠ 0 then
    (pop s).withZero fun s z =>
      let out := (s.peSlot c n i).flits f (originId c n) z x.ctag ++ [x]
      (s.setPeSlot c n i (s.peSlot c n i).restart).setPe c n
        { s.pe c n with
          job := some { slot := i, ctag := x.ctag, ops := [], out := out, headed := false, badHdr := false, sent := 0,
                        stop := none, stopAt := 0, no := 0, drained := true } }
  else if s.room c (resultKey n) 4 then (pop s).pushChan c (resultKey n) x none else s

/-- A word operation fires on its heads (R284): the result leaves in the same step. -/
def State.peWord (s : State) (c n i : Nat) (f : Frame) (tag : BitVec 8) (reads : List Nat) (heads : List Flit) :
    State :=
  if !s.room c (resultKey n) 4 then s
  else
    let at' := fun k => (listFind (fun (p : Nat × Flit) => p.1 == k) (reads.zip heads)).map fun p => p.2
    let val := fun k => ((at' k).map fun x => x.pay).getD 0
    let x := val 0
    let y := if fCsel f then fConst f else val 1
    let poison := heads.any fun h => h.poison
    let last := ((at' 0).map fun x => x.last).getD false
    let s := reads.foldl (fun s k => s.popChan c (operandKey n k)) s
    let p := s.peSlot c n i
    let s := (s.count c 1 1)
    if peIsCst f then
      (s.setPeSlot c n i { p with fired := p.fired + 1 }).pushChan c (resultKey n)
        (mkFlit 0 tag (cstWord f p.fired) poison true) none
    else s.pushChan c (resultKey n) (mkFlit 0 tag (wordOp f x y (val 2)) poison last) none

/-- PE_FIRE (R267): an operation fires on the heads of its operand channels, or the PE stops. A configuration flit at an
input is handled first. -/
def execPeFire (c : CoreIx) (pe : Fin 16) (s : State) : Result :=
  let n := pe.val
  let p := s.pe c.val n
  if p.job.isSome || p.stopped then .next s
  else match s.peHead c.val n 0 with
  | none => .next s
  | some x =>
    match s.slotFor c.val n x.ctag with
    | none => .next s
    | some (i, f) =>
      let reads := peReads f
      let heads := reads.filterMap (s.peHead c.val n)
      if s.isWithheld c.val n x.ctag || heads.length != reads.length || heads.any (fun h => h.kind == 5) then .next s
      else if heads.all (fun h => h.kind == 4) then .next (s.peTile c.val n i f reads x)
      else if heads.all (peStart f) && heads.all (fun h => h.ctag == x.ctag) then
        if peIsWord (fOp f) && fOp f != 0x30 && (!peIsCst f || x.last) then
          .next (s.peWord c.val n i f x.ctag reads heads)
        else .next (s.peBegin c.val n i x.ctag reads heads)
      else .next (s.peStop c.val n x.ctag)

/-! Emission. -/

/-- The body or end flit at the head of the channel of an operand that has not ended. -/
def State.peNext (s : State) (c n : Nat) (j : PeJob) (k : Nat) : Option Flit :=
  if (listGet Operand.empty j.ops k).ended then none
  else match s.head c (operandKey n k) with
  | some f => if !f.sideBad && (f.kind == 2 || f.kind == 3) then some f else none
  | none => none

/-- Each operand of the element in progress takes the flit at its channel's head (R269). -/
def State.peTake (s : State) (c n : Nat) (j : PeJob) (k : Nat) : State × PeJob :=
  match s.peNext c n j k with
  | some f =>
    (s.popChan c (operandKey n k), { j with ops := listSet j.ops k ((listGet Operand.empty j.ops k).take f) })
  | none => (s, j)

/-- `w.cst` takes the next flit of its trigger record, the last of them where its word has room (R251, R285). -/
def State.peDrain (s : State) (c n : Nat) (j : PeJob) : State × PeJob :=
  match s.head c (operandKey n 0) with
  | some f =>
    let o := listGet Operand.empty j.ops 0
    if j.drained || f.sideBad || (f.last && !s.room c (resultKey n) 4) then (s, j)
    else (s.popChan c (operandKey n 0),
      { j with ops := listSet j.ops 0 { o with poison := o.poison || f.poison }, drained := f.last })
  | none => (s, j)

/-- The KILLs that are due are sent, one for each element, where the return queue has room (R87, R254). A position above 63,
the last that R87 gives, goes as 63 (DEDUCED, log entry 105). -/
def State.peKills (s : State) (c n : Nat) (j : PeJob) (reads : List Nat) : List (Nat × Int) → State × PeJob
  | [] => (s, j)
  | (k, pos) :: l =>
    let o := listGet Operand.empty j.ops k
    if reads.contains k && !o.ended && o.killed.isNone && decide ((s.chan c (operandKey n k)).kills.length < 4) then
      let q := (max 0 (min 63 pos)).toNat
      let s := (s.modChan c (operandKey n k) fun x => { x with kills := x.kills ++ [⟨o.no, j.ctag, q⟩] }).count c 3 1
      s.peKills c n { j with ops := listSet j.ops k { o with killed := some q } } reads l
    else s.peKills c n j reads l

/-- The position at which a KILL that acts in this cycle stops the element (R90). -/
def PeJob.stops (j : PeJob) (cyc : Nat) : Option Nat := if j.stopAt ≤ cyc then j.stop else none

/-- The flit of a result that is due next: header, body or end (R76, R88, R269); none when nothing more is known. An
element that turns out poisoned after its header has its end flit say so (R131). -/
def PeJob.next (j : PeJob) (f : Frame) (own : Nat) (r : Res) (cyc : Nat) (zeroE : Int) : Option (Flit × PeJob × Bool) :=
  let ended := j.ops.all fun o => o.ended
  let last := (listGet Operand.empty j.ops 0).last
  match r.word, r.hdr with
  | some (w, p), _ => if ended then some (mkFlit 0 j.ctag w p last, j, true) else none
  | none, none => none
  | none, some h =>
    if !j.headed then
      some (mkFlit 1 j.ctag (hdrPay (h.e.getD zeroE) (h.orig.getD own) (fNdig f) (fWc f) h.z (h.z && h.zs) h.apx) h.poison
        false, { j with headed := true, badHdr := h.poison }, false)
    else
      let limit := max j.sent (min r.total ((j.stops cyc).getD r.total))
      let m := min (2 ^ fWc f) (limit - j.sent)
      if j.sent < limit then
        if j.sent + m ≤ r.ds.length then
          some (mkFlit 2 j.ctag (bodyPay ((r.ds.drop j.sent).take m)) false false, { j with sent := j.sent + m }, false)
        else none
      else if ended then
        let x := mkFlit 3 j.ctag (word j.sent) false last
        some (if h.poison && !j.badHdr then x.poisoned (h.orig.getD own) else x, j, true)
      else none

/-- The element's flit goes to the result channel. -/
def State.peEmit (s : State) (c n : Nat) (f : Frame) (j : PeJob) (r : Res) : State :=
  let stay := s.setPe c n { s.pe c n with job := some j }
  if !s.room c (resultKey n) 4 then stay
  else
    let go := fun (s : State) (z : Int) =>
      match j.next f (originId c n) r s.cyc z with
      | none => stay
      | some (x, j', fin) =>
        let j' := if x.kind = 1 then { j' with no := (s.chan c (resultKey n)).count } else j'
        let s := (s.pushChan c (resultKey n) x none).count c 2 (if x.kind = 2 then j'.sent - j.sent else 0)
        let s := if fin ∧ r.word.isNone then s.count c 4 (r.total - j.sent) else s
        if fin then
          let p := s.peSlot c n j.slot
          (s.setPe c n { s.pe c n with job := none }).setPeSlot c n j.slot
            (if peRounds f then { p with rounded := p.rounded + 1 } else p)
        else s.setPe c n { s.pe c n with job := some j' }
    match r.hdr, j.headed with
    | some h, false => if h.e.isNone then s.withZero go else go s 0
    | _, _ => go s 0

/-- The flits of a close that are still to leave, when a KILL has stopped the element at a position (R88, R280): no body
flit past it. -/
def cutBodies (sent : Nat) (stop : Option Nat) (l : List Flit) : List Flit :=
  match stop with
  | some q => if q ≤ sent then l.dropWhile fun f => f.kind == 2 else l
  | none => l

/-- The next flit of a close as it leaves, with the digits of its element sent after it (R88, R280): a body flit holds no
digit past the position of a KILL, and the end flit counts the digits sent. -/
def closeFlit (f : Frame) (sent : Nat) (stop : Option Nat) (x : Flit) : Flit × Nat :=
  if x.kind = 2 then
    let m := min (2 ^ fWc f) (fNdig f - sent)
    match stop with
    | some q =>
      if q < sent + m then (mkFlit 2 x.ctag (bodyPay (bodyDigits x.pay (q - sent))) false false, q) else (x, sent + m)
    | none => (x, sent + m)
  else if x.kind = 3 then (mkFlit 3 x.ctag (word sent) false x.last, sent)
  else (x, 0)

/-- Flits decided at a close leave in order (R279); a KILL cuts the element it names short (R280). -/
def State.peSend (s : State) (c n : Nat) (f : Frame) (j : PeJob) : State :=
  match cutBodies j.sent (j.stops s.cyc) j.out with
  | [] => s.setPe c n { s.pe c n with job := none }
  | x :: l =>
    if s.room c (resultKey n) 4 then
      let r := closeFlit f j.sent (j.stops s.cyc) x
      let no := (s.chan c (resultKey n)).count
      let s := (s.pushChan c (resultKey n) r.1 none).count c 2 (r.2 - j.sent)
      let s := if x.kind = 3 ∧ j.stop.isSome then s.count c 4 (fNdig f - j.sent) else s
      let j := { j with out := l, sent := r.2, headed := x.kind == 1 || (j.headed && x.kind == 2) }
      s.setPe c n
        { s.pe c n with
          job := if l.isEmpty then none
            else some (if x.kind = 1 then { j with no := no, stop := none, stopAt := 0 } else j) }
    else s.setPe c n { s.pe c n with job := some j }

/-- The step of a `d.acc` element (R279): at its end it is folded, and a close decides the pair's flits. -/
def State.peAcc (s : State) (c n : Nat) (f : Frame) (j : PeJob) : State :=
  let o := listGet Operand.empty j.ops 0
  if !o.ended then s.setPe c n { s.pe c n with job := some j }
  else
    let p := (s.peSlot c n j.slot).fold f (originId c n) o.opn
    let close := o.last || ((fImm f) != 0 && decide ((fImm f).toNat ≤ p.count))
    if close then
      s.withZero fun s z =>
        (s.setPeSlot c n j.slot p.restart).setPe c n
          { s.pe c n with job := some { j with drained := true, out := p.flits f (originId c n) z j.ctag } }
    else (s.setPeSlot c n j.slot p).setPe c n { s.pe c n with job := none }

/-- The step of a `w.cst` whose trigger record has several flits (R285). -/
def State.peCst (s : State) (c n : Nat) (f : Frame) (j : PeJob) : State :=
  let r := s.peDrain c n j
  let p := r.1.peSlot c n j.slot
  if r.2.drained then
    ((r.1.setPeSlot c n j.slot { p with fired := p.fired + 1 }).pushChan c (resultKey n)
      (mkFlit 0 j.ctag (cstWord f p.fired) (listGet Operand.empty r.2.ops 0).poison true) none).setPe c n
        { r.1.pe c n with job := none }
  else r.1.setPe c n { r.1.pe c n with job := some r.2 }

/-- The result of the element in progress at PE n, on the operand flits taken so far. -/
def State.peRes (s : State) (c n : Nat) (f : Frame) (j : PeJob) : Res :=
  peResult f j.ops (s.peSlot c n j.slot).rounded

/-- The KILLs that are due on the operand flits taken so far (R87, R89). -/
def State.peDue (s : State) (f : Frame) (j : PeJob) (res : Res) : List (Nat × Int) :=
  let opn := fun k => (listGet Operand.empty j.ops k).opn
  let stops := match j.stops s.cyc, res.hdr with
    | some q, some h =>
      if h.z then [] else
        stopKills (fOp f) (opn 0) (if fCsel f then constOpn (fConst f) else opn 1) (opn 2) (h.e.getD 0) q
    | _, _ => []
  res.kills ++ stops

/-- DIGIT_EMIT (R269): the element in progress takes the operand flits at its heads, sends the KILLs that are due, and
emits its next flit. Where that flit has no room, the operands stay in their channels (R251). -/
def execDigitEmit (c : CoreIx) (pe : Fin 16) (s : State) : Result :=
  let n := pe.val
  match (s.pe c.val n).job with
  | none => .next s
  | some j =>
    let f := (s.slotAt c.val n j.slot).frame
    if peIsCst f then .next (s.peCst c.val n f j)
    else if peIsAcc f && j.drained then .next (s.peSend c.val n f j)
    else
      let r := (peReads f).foldl (fun (p : State × PeJob) k => p.1.peTake c.val n p.2 k) (s, j)
      if peIsAcc f then .next (r.1.peAcc c.val n f r.2)
      else
        let res := s.peRes c.val n f r.2
        let due := (r.2.next f (originId c.val n) res s.cyc 0).isSome
        let r := if due && !s.room c.val (resultKey n) 4 then (s, j) else r
        let res := s.peRes c.val n f r.2
        let r := r.1.peKills c.val n r.2 (peReads f) (s.peDue f r.2 res)
        .next (r.1.peEmit c.val n f r.2 res)

/-- A KILL reaches the element in progress (R88, R90): it is discarded when it names another, comes a second time, or comes
after the last digit; it acts from the next cycle on. -/
def PeJob.kill (j : PeJob) (m : KillMsg) (more : Bool) (cyc : Nat) : PeJob :=
  if j.headed && j.no == m.no && j.stop.isNone && more then { j with stop := some m.j, stopAt := cyc + 1 } else j

/-- KILL (R88, R254): a KILL reaches a PE, at most one in a cycle, and stops the element it names at the position given;
one that comes too late is discarded (R90). -/
def execKill (c : CoreIx) (pe : Fin 16) (s : State) : Result :=
  let n := pe.val
  let x := s.chan c.val (resultKey n)
  match x.kills with
  | [] => .next s
  | m :: rest =>
    if x.lastKill = s.cyc + 1 then .next s
    else
      let s := s.modChan c.val (resultKey n) fun x => { x with kills := rest, lastKill := s.cyc + 1 }
      match (s.pe c.val n).job with
      | none => .next s
      | some j =>
        let f := (s.slotAt c.val n j.slot).frame
        let more := if j.drained then j.out.head?.any fun y => y.kind == 2
          else decide (j.sent < (s.peRes c.val n f j).total)
        .next (s.setPe c.val n { s.pe c.val n with job := some (j.kill m more s.cyc) })

end Sys2Proof.Machine
end

