-- ==== Sys2Proof/Machine/Ctl.lean ====
section
/-!
DEFINITION. Controllers (21 R429-R438): counter chains, permits and dones, leaves and their bound ports, and the forms of
major 0x13.
-/
namespace Sys2Proof.Machine

/-- The controller state of slot i of ct n. -/
def State.ctl (s : State) (c n i : Nat) : Ctl := tabGet .reset (s.grid c).ctls (4 * n + i)

/-- The controller state of slot i of ct n replaced. -/
def State.setCtl (s : State) (c n i : Nat) (x : Ctl) : State :=
  s.modGrid c fun g => { g with ctls := tabSet .reset g.ctls (4 * n + i) x }

/-- The trip count of a counter (R429). -/
def tripCount (v : BitVec 52) : Nat :=
  let start : Int := bits v 32 20
  let bound : Int := bits v 12 20
  let step := signedOf 12 (bits v 0 12)
  if step = 0 then 0
  else if 0 < step then ((bound - start + step - 1) / step).toNat else ((start - bound - step - 1) / -step).toNat

/-- NCTR of a controller frame (R124). -/
def fNctr (f : Frame) : Nat := fb f 211 210
/-- PARENT of a controller frame, 15 for the root (R124). -/
def fParent (f : Frame) : Nat := fb f 223 220
/-- The children of a controller frame in increasing number (R124, R431). -/
def fChildren (f : Frame) : List Nat := (rangeFrom 0 8).filter fun n => fb f 51 44 / 2 ^ n % 2 == 1

/-- Counter n among runtime values. -/
def rcAt (l : List (BitVec 52)) (n : Nat) : BitVec 52 := listGet 0 l n

/-- The iterations of a run (R429). -/
def runLength (f : Frame) (cur : List (BitVec 52)) : Nat :=
  (rangeFrom 0 (fNctr f)).foldl (fun m n => m * tripCount (rcAt cur n)) 1

/-- The value of counter n in iteration i, counter 0 varying fastest (R429). -/
def counterValue (f : Frame) (cur : List (BitVec 52)) (n i : Nat) : Int :=
  let k := (rangeFrom 0 (min n (fNctr f))).foldl (fun m j => m / tripCount (rcAt cur j)) i
  let v := rcAt cur n
  let k := if n < fNctr f then k % tripCount v else 0
  bits v 32 20 + (k : Int) * signedOf 12 (bits v 0 12)

/-- A token enters the controller network, with its delivery time of 2 cycles (R433). -/
def State.sendCtl (s : State) (c : Nat) (t : CtlToken) : State :=
  s.modGrid c fun g => { g with net := g.net ++ [{ t with due := s.cyc + 2 }] }

/-- A controller becomes done (R431, R434): its done goes to its parent, and latch bit 1 is set (R148). -/
def State.endRun (s : State) (c n i : Nat) (f : Frame) (x : Ctl) : State :=
  let s := s.setCtl c n i
    { x with running := false, permitted := false, aborting := false, aborted := x.aborting, opens := [] }
  let s := s.modCpOf c fun y => { y with ctl := { y.ctl with latch1 := true } }
  if fParent f = 15 then s
  else s.sendCtl c
    { done := true, cpsrc := false, src := n, dst := fParent f, ctag := fCtag f, aborted := x.aborting, iter := x.iter,
      due := 0 }

/-- The iterations of an inner controller that are complete (R431). -/
def Ctl.doneCount (x : Ctl) (f : Frame) : Nat :=
  let l := (fChildren f).map fun c => tabGet 0 x.returned c
  if fOp f = 1 then l.getLast?.getD 0 else l.foldl min (runLength f x.cur)

/-- A permit for child `ch` is due (R431); `prev` is the child before it. -/
def Ctl.mayGrant (x : Ctl) (f : Frame) (prev : Option Nat) (ch : Nat) : Bool :=
  let it := tabGet 0 x.granted ch
  let ret := fun c => tabGet 0 x.returned c
  let before := match prev with
    | none => true
    | some p => decide (it < ret p)
  decide (it < runLength f x.cur)
    && (match fOp f with
        | 0 => match prev with
          | none => (fChildren f).all fun c => decide (it ≤ ret c)
          | some p => decide (it < ret p)
        | 1 => before && decide (it ≤ ret ch) && decide (it < x.doneCount f + fb f 219 212)
        | _ => decide (it ≤ ret ch))

/-- Permits that are due are granted, in increasing controller number (R431). -/
def State.grantPermits (s : State) (c n i : Nat) (f : Frame) (x : Ctl) (prev : Option Nat) : List Nat → State
  | [] => s.setCtl c n i x
  | ch :: l =>
    if x.mayGrant f prev ch then
      let it := tabGet 0 x.granted ch
      (s.sendCtl c
        { done := false, cpsrc := false, src := n, dst := ch, ctag := fCtag f, aborted := false,
          iter := BitVec.ofNat 32 it, due := 0 }).grantPermits c n i f
        { x with granted := tabSet 0 x.granted ch (it + 1) } (some ch) l
    else s.grantPermits c n i f x (some ch) l

/-- Every child that holds a permit has returned its done (R434). -/
def Ctl.settled (x : Ctl) (f : Frame) : Bool :=
  (fChildren f).all fun c => tabGet 0 x.granted c == tabGet 0 x.returned c

/-- A running controller goes on (R431, R434): it ends its run, or an inner one grants the permits that are due. -/
def State.advance (s : State) (c n i : Nat) (f : Frame) : State :=
  let x := s.ctl c n i
  let inner := !(fChildren f).isEmpty
  let x := if inner then
      let k := x.doneCount f
      { x with
        complete := k
        iters := BitVec.ofNat 31 (((rangeFrom 0 k).filter fun j => !x.spoiled.contains j).length) }
    else x
  let s := s.setCtl c n i x
  if !x.permitted then s
  else if x.aborting then if x.settled f then s.endRun c n i f x else s
  else if runLength f x.cur ≤ x.complete && x.settled f then s.endRun c n i f x
  else if inner then s.grantPermits c n i f x none (fChildren f)
  else s

/-- The first token of the network that acts on controller n now. -/
def Grid.tokenFor (g : Grid) (cyc n : Nat) (done : Bool) : Option CtlToken :=
  listFind (fun t => t.done == done && t.dst == n && decide (t.due ≤ cyc)) g.net

/-- A token leaves the network. -/
def State.takeToken (s : State) (c : Nat) (t : CtlToken) : State :=
  s.modGrid c fun g => { g with net := g.net.erase t }

/-- PERMIT (R431, R437): a controller receives a permit and begins a run from the runtime counters. -/
def execPermit (c : CoreIx) (ct : Fin 8) (s : State) : Result :=
  match (s.grid c.val).tokenFor s.cyc ct.val false with
  | none => .next s
  | some t =>
    let s := s.takeToken c.val t
    match s.slotFor c.val (0x20 + ct.val) t.ctag with
    | none => .next s
    | some (i, f) =>
      let x := s.ctl c.val ct.val i
      let x := { x with
        cur := x.rc, granted := [], returned := [], spoiled := [], opens := [], opened := 0, complete := 0, iters := 0,
        iter := t.iter, running := true, permitted := true, aborted := false }
      .next ((s.setCtl c.val ct.val i x).advance c.val ct.val i f)

/-- DONE_TOKEN (R431): a done reaches a parent. -/
def execDoneToken (c : CoreIx) (ct : Fin 8) (s : State) : Result :=
  match (s.grid c.val).tokenFor s.cyc ct.val true with
  | none => .next s
  | some t =>
    let s := s.takeToken c.val t
    match s.slotFor c.val (0x20 + ct.val) t.ctag with
    | none => .next s
    | some (i, f) =>
      let x := s.ctl c.val ct.val i
      let x := { x with
        returned := tabSet 0 x.returned t.src (tabGet 0 x.returned t.src + 1)
        spoiled := if t.aborted then x.spoiled ++ [t.iter.toNat] else x.spoiled }
      .next ((s.setCtl c.val ct.val i x).advance c.val ct.val i f)

/-- The ports bound to a leaf, as keys (R432). -/
def State.boundPorts (s : State) (c n : Nat) (tag : BitVec 8) : List Nat :=
  (rangeFrom 256 16).filter fun k => match s.frameFor c k tag with
    | some f => fb f 197 196 == 1 && fb f 195 193 == n
    | none => false

/-- The open iterations that a leaf keeps at most (R432). -/
def leafLimit (f : Frame) : Nat :=
  match fOp f with
  | 0 => 1
  | 1 => fb f 219 212
  | _ => 255

/-- ITERATION_OPEN (R432): a leaf opens its next iteration, at most one in a cycle. -/
def execIterationOpen (c : CoreIx) (ct : Fin 8) (s : State) : Result :=
  let n := ct.val
  let due := listFind (fun i =>
    let x := s.ctl c.val n i
    let sl := s.slotAt c.val (0x20 + n) i
    sl.v && x.permitted && !x.aborting && (fChildren sl.frame).isEmpty && decide (x.opened < runLength sl.frame x.cur)
      && decide (x.opens.length < leafLimit sl.frame) && x.openedAt != s.cyc + 1) (rangeFrom 0 4)
  match due with
  | none => .next s
  | some i =>
    let f := (s.slotAt c.val (0x20 + n) i).frame
    let x := s.ctl c.val n i
    let ports := s.boundPorts c.val n (fCtag f)
    let x := { x with opened := x.opened + 1, openedAt := s.cyc + 1 }
    let x := if ports.isEmpty then { x with complete := x.complete + 1, iters := x.iters + 1 }
      else { x with opens := x.opens ++ [(x.opened - 1, ports)] }
    .next ((s.setCtl c.val n i x).advance c.val n i f)

/-- What a bound port finds at its controller (R432). -/
inductive Bound where
  | value (n i k : Nat) (v : Int)
  | wait
  | bad
deriving DecidableEq, Repr

/-- The oldest open iteration for which a bound port has not fired, and its counter's value there (R432). -/
def State.boundIter (s : State) (c key : Nat) (f : Frame) : Bound :=
  let n := fb f 195 193
  match s.slotFor c (0x20 + n) (fCtag f) with
  | none => .bad
  | some (i, g) =>
    if !(fChildren g).isEmpty then .bad
    else match listFind (fun (p : Nat × List Nat) => p.2.contains key) (s.ctl c n i).opens with
    | some p => .value n i p.1 (counterValue g (s.ctl c n i).cur (fb f 192 191) p.1)
    | none => .wait

/-- A bound port has fired for iteration k, which is complete once every bound port has (R432). -/
def State.portFired (s : State) (c key n i k : Nat) : State :=
  let x := s.ctl c n i
  let opens := x.opens.map fun p => if p.1 = k then (p.1, p.2.filter fun q => q != key) else p
  let full := opens.filter fun p => p.2.isEmpty
  let x := { x with
    opens := opens.filter fun p => !p.2.isEmpty
    complete := x.complete + full.length
    iters := x.iters + BitVec.ofNat 31 full.length }
  (s.setCtl c n i x).advance c n i (s.slotAt c (0x20 + n) i).frame

/-- The controllers reachable from those of a list through CHILD in one tag (R437). -/
def State.treeOf (s : State) (c : Nat) (tag : BitVec 8) (l : List Nat) : Nat → List Nat
  | 0 => l
  | k + 1 =>
    let next := l.flatMap fun n => match s.frameFor c (0x20 + n) tag with
      | some f => fChildren f
      | none => []
    s.treeOf c tag ((rangeFrom 0 8).filter fun n => l.contains n || next.contains n) k

/-- The controller status word (R436). -/
def State.ctlStatus (s : State) (c n : Nat) (tag : BitVec 8) (reason : Nat) : Word :=
  let r := if reason = 0 then 0 else 2 ^ 62 + reason * 2 ^ 56
  match s.slotFor c (0x20 + n) tag with
  | none => word r
  | some (i, _) =>
    let x := s.ctl c n i
    word (r + (boolWord x.running).toNat * 2 ^ 40 + tag.toNat * 2 ^ 32
      + (boolWord (x.aborted || x.aborting)).toNat * 2 ^ 31 + x.iters.toNat)

/-- A controller form answers with its status word. -/
def ctlReply (s : State) (c : Nat) (tag : BitVec 8) (srcs : List Src) (d : Reg) (n reason : Nat) : Result :=
  s.reply srcs d (s.ctlStatus c n tag reason)

/-- The answer of a controller command that is accepted: it posts work (R501). -/
def ctlAccept (s : State) (c : Nat) (tag : BitVec 8) (srcs : List Src) (d : Reg) (n : Nat) : Result :=
  ctlReply (s.postWork c) c tag srcs d n 0

/-- `ctl.set` (R437). -/
def execCtlSet (g : Guard) (d : Reg) (ct : Fin 8) (a : Src) (n : BitVec 2) (s : State) : Result :=
  cmdForm s (.ctlSet g d ct a n) g false [a] <|
    let c := s.focus.val
    let tag := s.cp.k.ctag
    let v := s.cp.val a
    match s.slotFor c (0x20 + ct.val) tag with
    | none => ctlReply s c tag [a] d ct.val 0x0F
    | some (i, f) =>
      let x := s.ctl c ct.val i
      if x.running then ctlReply s c tag [a] d ct.val 0x01
      else if bits v 52 12 != 0 || bits v 0 12 == 0 || decide (fNctr f ≤ n.toNat) then ctlReply s c tag [a] d ct.val 0x05
      else ctlAccept (s.setCtl c ct.val i
        { x with rc := listSet ((rangeFrom 0 3).map (rcAt x.rc)) n.toNat (v.setWidth 52) }) c tag [a] d ct.val

/-- `ctl.go` (R437): the root counts as running from this cycle, and its permit takes effect 2 cycles later. -/
def execCtlGo (g : Guard) (d : Reg) (ct : Fin 8) (s : State) : Result :=
  cmdForm s (.ctlGo g d ct) g false [] <|
    let c := s.focus.val
    let tag := s.cp.k.ctag
    match s.slotFor c (0x20 + ct.val) tag with
    | none => ctlReply s c tag [] d ct.val 0x0F
    | some (_, f) =>
      let tree := s.treeOf c tag [ct.val] 8
      let at' := fun (s : State) (n : Nat) => (s.slotFor c (0x20 + n) tag).map fun p => (p.1, s.ctl c n p.1)
      if fParent f != 15 then ctlReply s c tag [] d ct.val 0x10
      else if tree.any fun n => match at' s n with
          | some p => p.2.running
          | none => false then ctlReply s c tag [] d ct.val 0x01
      else
        let s := tree.foldl (fun s n => match at' s n with
          | some (i, x) => s.setCtl c n i
              { x with
                cur := [], granted := [], returned := [], spoiled := [], opens := [], opened := 0, complete := 0, iters := 0,
                aborted := false, aborting := false, running := decide (n = ct.val) }
          | none => s) s
        ctlAccept (s.sendCtl c
          { done := false, cpsrc := true, src := 0, dst := ct.val, ctag := tag, aborted := false, iter := 0, due := 0 })
          c tag [] d ct.val

/-- A controller of the focus core is running under KCTX. -/
def State.ctlRunning (s : State) (c n : Nat) (tag : BitVec 8) : Bool :=
  match s.slotFor c (0x20 + n) tag with
  | some (i, _) => (s.ctl c n i).running
  | none => false

/-- `ctl.wait` (R437): it stands until the slot is not running. -/
def execCtlWait (g : Guard) (d : Reg) (ct : Fin 8) (s : State) : Result :=
  cmdForm s (.ctlWait g d ct) g false [] <|
    let c := s.focus.val
    let tag := s.cp.k.ctag
    match s.slotFor c (0x20 + ct.val) tag with
    | none => ctlReply s c tag [] d ct.val 0x0F
    | some _ =>
      if s.ctlRunning c ct.val tag then s.stand (.ctlWait g d ct) else ctlReply s c tag [] d ct.val 0

/-- CTL_WAIT_END (R437): `ctl.wait` returns when its controller stops running. -/
def execCtlWaitEnd (c : CoreIx) (s : State) : Result :=
  match s.standingAt c with
  | some (.ctlWait g d ct) =>
    if s.ctlRunning c.val ct.val (s.cpOf c.val).k.ctag then .next s else s.atCore c (execCtlWait g d ct)
  | _ => .next s

/-- What ends a run of the core's controllers in this cycle happens (R434): permits and dones that act now are taken, and
leaves open the iteration that is due. -/
def State.runsDue (s : State) (c : CoreIx) : State :=
  (rangeFrom 0 8).foldl (fun (s : State) n =>
    let ct := Fin.ofNat 8 n
    let s := nextState s (execPermit c ct s)
    let s := (rangeFrom 0 8).foldl (fun (s : State) _ => nextState s (execDoneToken c ct s)) s
    nextState s (execIterationOpen c ct s)) s

end Sys2Proof.Machine
end

