-- ==== Sys2Proof/Machine/Ports.lean ====
section
/-!
DEFINITION. Memory-tile ports (12 R233-R244): single accesses, gather and scatter, sparse update and dependence counts.
-/
namespace Sys2Proof.Machine

/-- The port state of slot i of a port. -/
def State.port (s : State) (c key i : Nat) : Port := tabGet .reset (s.grid c).ports (4 * key + i)

/-- The port state of slot i of a port replaced. -/
def State.setPort (s : State) (c key i : Nat) (p : Port) : State :=
  s.modGrid c fun g => { g with ports := tabSet .reset g.ports (4 * key + i) p }

/-- BASE of a port frame (R122). -/
def fBase (f : Frame) : Nat := fb f 217 198
/-- ESZ of a port frame (R122). -/
def fEsz (f : Frame) : Nat := fb f 190 188
/-- ASRC of a port frame (R122). -/
def fAsrc (f : Frame) : Nat := fb f 197 196
/-- The bytes of an element. -/
def fBytes (f : Frame) : Nat := 2 ^ fEsz f
/-- The data flits of an element (R236). -/
def fWords (f : Frame) : Nat := if fEsz f = 4 then 2 else 1

/-- The offset that an address flit names (R233, R242). -/
def addrOffset (f : Frame) (u : Word) : Int := fBase f + u.toNat * fBytes f

/-- An access at an offset lies inside scratch, and for `upd` and `dep` inside the port's tile (R234). -/
def offsetIn (f : Frame) (o : Int) : Bool :=
  decide (0 ≤ o ∧ o + fBytes f ≤ 0xC0000)
    && (decide (fOp f < 4) || o / 0x30000 == ((fNode f - 0x28 : Nat) : Int))

/-- The stream id of a port (R235). -/
def portSid (key : Nat) : Nat := (0x28 + (key - 256) / 4) * 256 + (key - 256) % 4

/-- A completion flit of a port (R132, R235). -/
def completionFlit (key cls : Nat) (tag : BitVec 8) (seq : BitVec 44) : Flit :=
  mkFlit 7 tag (word (cls * 2 ^ 60 + portSid key * 2 ^ 44 + seq.toNat)) false true

/-- An out-of-bounds access, or a flit that no port takes, withholds the port (R234, R235). -/
def State.portBound (s : State) (c key i : Nat) (o : Int) : State :=
  let p := s.port c key i
  (s.setPort c key i { p with withheld := true }).post c
    { typ := 0, cause := causeBound, orig := originId c (keyNode key), resume := false, held := true, double := false,
      words := [u64 o, word p.seq.toNat] }

/-- One poison record of a port (R237): its origin id, SEQ, and the offset in word 5 (R452). -/
def State.portPoison (s : State) (c key : Nat) (seq : BitVec 44) (o : Int) : State :=
  s.post c
    { typ := 1, cause := causePoison, orig := originId c (keyNode key), resume := false, held := false, double := false,
      words := [word (portSid key * 2 ^ 48 + seq.toNat), 1, word (originId c (keyNode key)), u64 o] }

/-- A fault record with cause ECCU for a write or an update that an uncorrectable half refuses (R203, R241). -/
def State.portEccu (s : State) (c key : Nat) (seq : BitVec 44) (o : Int) : State :=
  s.post c
    { typ := 0, cause := causeEccu, orig := originId c (keyNode key), resume := false, held := false, double := false,
      words := [u64 o, word seq.toNat] }

/-- A port reads one element: its data flits, poisoned on an uncorrectable error or a poisoned address (R236, R237). -/
def State.portRead (s : State) (c key : Nat) (f : Frame) (r : PortReq) : State × List Flit :=
  let n := fBytes f
  let pa := s.scratchPa c r.off
  let bad := r.poison || s.eccBad pa n
  let s1 := if r.poison then s else s.eccRead pa n
  let s2 := if bad then s1.portPoison c key r.seq r.off else s1
  let v := if bad then 0 else s.natAt pa n
  (s2, (rangeFrom 0 (fWords f)).map fun k =>
    mkFlit 0 (fCtag f) (word (v / 2 ^ (64 * k))) bad (r.fired.last && k + 1 == fWords f))

/-- A port writes one element, unless its address or data are poisoned or the half refuses it (R203, R237). -/
def State.portWrite (s : State) (c key : Nat) (f : Frame) (r : PortReq) : State :=
  let n := fBytes f
  let pa := s.scratchPa c r.off
  let v := r.data.foldr (fun d v => d.pay.toNat + 2 ^ 64 * v) 0
  if r.poison || r.data.any fun d => d.poison then s.portPoison c key r.seq r.off
  else if s.narrowBad pa n then (s.portEccu c key r.seq r.off).portPoison c key r.seq r.off
  else s.writeNat pa n v

/-- What a port does with the next flits of its record. -/
inductive PortAct where
  /-- The flits are kept, and more are awaited. -/
  | keep
  /-- An access at an offset, with a poisoned address; the data flits; and the controller iteration it fires for. -/
  | fire (o : Int) (poison : Bool) (data : List Flit) (it : Option (Nat × Nat × Nat))
  /-- The flit is consumed with no access. -/
  | drop
  /-- Nothing can happen yet. -/
  | wait
  /-- The port withholds with cause CFGERR. -/
  | bad
deriving DecidableEq, Repr

/-- The offset of an access that no address flit names (R233), with the iteration it fires for (R432). -/
def State.portSource (s : State) (c key : Nat) (f : Frame) (data : List Flit) : PortAct :=
  if fAsrc f = 2 then .fire (fBase f) false data none
  else match s.boundIter c key f with
  | .value n i k v => .fire (fBase f + v * fStride f) false data (some (n, i, k))
  | .wait => .wait
  | .bad => .bad

/-- What the flits taken and the next one make of a port's operation (R235, R236, R238). A word flit that no operand needs is
consumed with no access (DEDUCED, log entry 109). -/
def State.portStep (s : State) (c key : Nat) (f : Frame) (taken : List Flit) (x : Flit) : PortAct :=
  let all := taken ++ [x]
  let data := if fOp f = 0 ∨ fOp f = 2 ∨ fOp f = 5 then 0 else if fOp f = 4 then 1 else fWords f
  match x.kind.toNat with
  | 0 =>
    if fAsrc f = 0 then
      if all.length < 1 + data then .keep
      else match all with
        | a :: l => .fire (addrOffset f a.pay) a.poison l none
        | [] => .keep
    else if fOp f = 0 then .drop
    else if all.length < data then .keep
    else s.portSource c key f all
  | 6 | 7 => if fOp f = 0 ∧ fAsrc f ≠ 0 then s.portSource c key f [] else .drop
  | _ => .bad

/-- The class of a port's completion flit (R132). -/
def portClass (op : Nat) : Nat :=
  match op with
  | 0 => 0
  | 1 => 1
  | 2 | 3 => 2
  | _ => 3

/-! The queues of a port (R199, R200, R245). -/

/-- The queues of a port. -/
def State.portq (s : State) (c key : Nat) : PortQ := tabGet .reset (s.grid c).portqs key

/-- The queues of a port changed. -/
def State.modPortq (s : State) (c key : Nat) (f : PortQ → PortQ) : State :=
  s.modGrid c fun g => { g with portqs := tabSet .reset g.portqs key (f (tabGet .reset g.portqs key)) }

/-- A request may be issued: fewer than 32 responses stand before its own in the reorder buffer (R200). -/
def PortQ.mayIssue (q : PortQ) (id : Nat) : Bool := (q.outs.take 32).any fun o => o.id == id

/-- A request stands that the bank performs before a freeze or the task's end (R41, R264): any but those that wait behind 32
responses, which stay in the queue as tokens (R244). A request of `upd` or `dep` has no response of its own. -/
def PortQ.pending (q : PortQ) : Bool := q.reqs.any fun r => q.mayIssue r.id || !(q.outs.any fun o => o.id == r.id)

/-- Responses at the front with nothing to send leave. -/
def dropSent : List PortOut → List PortOut
  | [] => []
  | o :: l => if o.ready && o.flits.isEmpty then dropSent l else o :: l

/-- The bank of a local offset, as 16 * tile + bank (R197). -/
def bankOf (o : Nat) : Nat := 16 * (o / 0x30000) + o % 0x30000 / 16 % 16

/-- The elements waiting in a window. -/
def State.window (s : State) (c w : Nat) : List UpdElem := tabGet [] (s.grid c).windows w

/-- A window replaced. -/
def State.setWindow (s : State) (c w : Nat) (l : List UpdElem) : State :=
  s.modGrid c fun g => { g with windows := tabSet [] g.windows w l }

/-- The ready flit that may leave next, with the records after it: one of a record that stands behind no end-of-tile flit
(R235, R242). -/
def takeReady : List PortRec → Option (Flit × List PortRec)
  | [] => none
  | r :: l =>
    if r.eot.isSome then none
    else match r.ready with
    | f :: m => some (f, { r with ready := m } :: l)
    | [] => (takeReady l).map fun p => (p.1, r :: p.2)

/-- The next flit that an update port sends, with the records after it: a ready flit, the completion flit of the first record
once it is complete, or an end-of-tile flit at its place (R235, R239, R242). -/
def nextUpdate (key : Nat) (tag : BitVec 8) (l : List PortRec) : Option (Flit × List PortRec) :=
  match takeReady l, l with
  | some p, _ => some p
  | none, r :: m =>
    match r.eot with
    | some x => some (x, m)
    | none => if r.ended && r.left == 0 then some (completionFlit key 3 tag r.seq, m) else none
  | none, [] => none

/-- Record n may emit a ready flit (R251): it stands behind no end-of-tile flit, and no ready flit of it is about to leave. -/
def mayReady (n : Nat) : List PortRec → Bool
  | [] => false
  | r :: l => r.eot.isNone && (if r.id = n then r.ready.isEmpty else mayReady n l)

/-- The update records of a slot replaced. -/
def State.setRecords (s : State) (c key i : Nat) (l : List PortRec) : State :=
  s.setPort c key i { s.port c key i with waiting := l }

/-- One more element of the update record in progress, which ends with it or not (R239, R242). -/
def addElement (n : Nat) (seq : BitVec 44) (last : Bool) : List PortRec → List PortRec
  | [] => [{ id := n, seq := seq, left := 1, ended := last, ready := [], eot := none }]
  | [r] =>
    if r.ended then [r, { id := n, seq := seq, left := 1, ended := last, ready := [], eot := none }]
    else [{ r with left := r.left + 1, ended := last }]
  | r :: l => r :: addElement n seq last l

/-- One element of record `n` is done with. -/
def endElement (n : Nat) (l : List PortRec) : List PortRec :=
  l.map fun r => if r.id = n ∧ r.eot.isNone then { r with left := r.left - 1 } else r

/-- A port fires: its request enters the queue (R199, R238, R239). -/
def State.portFire (s : State) (c key i : Nat) (f : Frame) (o : Nat) (poison : Bool) (data : List Flit) (x : Flit)
    (it : Option (Nat × Nat)) : State :=
  let p := s.port c key i
  let n := (s.portq c key).next
  if 4 ≤ fOp f then
    let l := addElement n p.seq x.last p.waiting
    let id := (l.getLast?.map fun (r : PortRec) => r.id).getD n
    (s.setPort c key i { p with taken := [], seq := if x.last then p.seq + 1 else p.seq, waiting := l }).modPortq c key
      fun q => { q with
        next := q.next + 1
        reqs := q.reqs ++ [{ id := id, slot := i, seq := p.seq, off := o, poison := poison, data := data, fired := x,
                             ends := x.last, waited := false, iter := it }] }
  else
    let group := fOp f == 2 || fOp f == 3
    let ends := !group || x.last || p.group + 1 == 64
    (s.setPort c key i
      { p with taken := [], seq := if ends then p.seq + 1 else p.seq, group := if ends then 0 else p.group + 1 }).modPortq
      c key fun q =>
        { q with
          next := q.next + 1
          reqs := q.reqs ++ [{ id := n, slot := i, seq := p.seq, off := o, poison := poison, data := data, fired := x,
                               ends := ends, waited := false, iter := it }]
          outs := q.outs ++ [{ id := n, slot := i, ready := false, flits := [] }] }

/-- The update record in progress ends (R37, R239). -/
def endRecord : List PortRec → List PortRec
  | [] => []
  | [r] => [{ r with ended := true }]
  | r :: l => r :: endRecord l

/-- A record of updates is in progress. -/
def recordOpen (l : List PortRec) : Bool := (l.getLast?.map fun (r : PortRec) => !r.ended).getD false

/-- An end-of-tile flit takes its place in the stream (R235). It ends a record in progress (R37), as behind a cancelled
stream (R304): the record's group or update is complete with the elements it has, and an element in part is dropped
(DEDUCED, log entry 92). It waits for a place in the reorder buffer (R245). -/
def State.portEot (s : State) (c key i : Nat) (f : Frame) (x : Flit) : State :=
  let p := s.port c key i
  if 4 ≤ fOp f then
    let cut := recordOpen p.waiting
    (s.popChan c (drainKey key)).setPort c key i
      { p with
        taken := [], seq := if cut then p.seq + 1 else p.seq
        waiting := (if cut then endRecord p.waiting else p.waiting)
          ++ [{ id := 0, seq := 0, left := 0, ended := true, ready := [], eot := some x }] }
  else if 32 ≤ (s.portq c key).outs.length then s
  else
    let cut := p.group != 0
    let l := if cut then [completionFlit key 2 (fCtag f) p.seq, x] else [x]
    ((s.popChan c (drainKey key)).setPort c key i
      { p with taken := [], seq := if cut then p.seq + 1 else p.seq, group := 0 }).modPortq c key fun q =>
        { q with outs := q.outs ++ [{ id := q.next, slot := i, ready := true, flits := l }], next := q.next + 1 }

/-- The flit of a port's head is handled (R235); a poisoned address fires its access wherever it points (R237, R241). -/
def State.portTake (s : State) (c key i : Nat) (f : Frame) (x : Flit) : State :=
  let p := s.port c key i
  let pop := s.popChan c (drainKey key)
  if x.kind = 4 then s.portEot c key i f x
  else match s.portStep c key f p.taken x with
  | .wait => s
  | .bad => (s.setPort c key i { p with withheld := true }).withhold c key (fCtag f)
  | .keep => pop.setPort c key i { p with taken := p.taken ++ [x] }
  | .drop => pop
  | .fire o poison data it =>
    if !poison && !offsetIn f o then s.portBound c key i o
    else
      let s := pop.portFire c key i f o.toNat poison data x (it.map fun p => (4 * p.1 + p.2.1, p.2.2))
      match it with
      | some (n, j, k) => s.portFired c key n j k
      | none => s

/-- What an update port has to send, each record and each end-of-tile flit taking one place of the port's reorder buffer (R245,
DEDUCED, log entry 100). -/
def State.portHeld (s : State) (c key : Nat) : Nat :=
  (s.portq c key).outs.length + ((rangeFrom 0 4).map fun i => (s.port c key i).waiting.length).foldl (fun a b => a + b) 0

/-- Slot i of a port is withheld (R234, R235, R455). -/
def State.portWithheld (s : State) (c key i : Nat) : Bool :=
  (s.port c key i).withheld || s.isWithheld c key (fCtag (s.slotAt c key i).frame)

/-- A port takes the flit at its head (R235), unless it is withheld (R234), its request queue is full (R199), or, for an update
port, its reorder buffer is (R200, R245). -/
def State.portHead (s : State) (c key op : Nat) : State :=
  match s.head c (drainKey key) with
  | none => s
  | some x =>
    match s.slotFor c key x.ctag with
    | none => s
    | some (i, f) =>
      if fOp f != op || x.sideBad || x.kind == 5 || s.portWithheld c key i
          || decide (16 ≤ (s.portq c key).reqs.length) || (decide (4 ≤ op) && decide (32 ≤ s.portHeld c key)) then s
      else s.portTake c key i f x

/-- An access is performed (R236, R238), and its response is there; `r` is its request. -/
def State.portAccess (s : State) (c key : Nat) (f : Frame) (r : PortReq) : State :=
  let op := fOp f
  let t := if op = 0 ∨ op = 2 then s.portRead c key f r else (s.portWrite c key f r, [])
  let l := t.2 ++ (if r.ends then [completionFlit key (portClass op) (fCtag f) r.seq] else [])
  t.1.modPortq c key fun q =>
    { q with
      reqs := q.reqs.filter fun y => y.id != r.id
      outs := dropSent (q.outs.map fun o => if o.id = r.id then { o with ready := true, flits := l } else o) }

/-- An element of `upd` or `dep` goes to its sparse-update unit (R239, R242), which must have room (R240); a poisoned one
is not applied (R241). -/
def State.portUpdate (s : State) (c key : Nat) (f : Frame) (j : Nat) (r : PortReq) : State :=
  let bad := r.poison || r.data.any fun d => d.poison
  let w := bankOf r.off
  if !bad && decide (16 ≤ (s.window c w).length) then s
  else
    let t := s.modPortq c key fun q => { q with reqs := q.reqs.eraseIdx j }
    if bad then (t.portPoison c key r.seq r.off).setRecords c key r.slot (endElement r.id (t.port c key r.slot).waiting)
    else
      let isDep := fOp f == 5
      t.setWindow c w (s.window c w ++
        [{ port := 4 * key + r.slot, records := [(4 * key + r.slot, r.id)], off := r.off,
           op := if isDep then 0 else fb f 171 166, esz := fEsz f, ord := f.getLsbD 165,
           val := ((r.data.head?.map fun d => d.pay).getD 0),
           dep := if isDep then some (r.fired.pay, fb f 164 159) else none, seq := r.seq }])

/-- Two requests touch a common byte. -/
def PortReq.meets (n : Nat) (a b : PortReq) : Bool := decide (a.off < b.off + n ∧ b.off < a.off + n)

/-- Request j may be performed now: the writes of a scatter group to a common byte are performed in element order (R238),
and the elements of a slot enter their windows in order (R240). Any other two are unordered (R213). -/
def requestReady (f : Frame) (l : List PortReq) (j : Nat) (r : PortReq) : Bool :=
  !((l.take j).any fun a => a.slot == r.slot
    && (decide (4 ≤ fOp f) || (fOp f == 3 && a.seq == r.seq && a.meets (fBytes f) r)))

/-- A request of a closed iteration is not performed (R434): it leaves the queue, its response has no data, and its group is
complete with the rest (DEDUCED, log entry 101). -/
def State.portForget (s : State) (c key : Nat) (r : PortReq) : State :=
  let f := (s.slotAt c key r.slot).frame
  let s := s.modPortq c key fun q => { q with reqs := q.reqs.filter fun y => y != r }
  if 4 ≤ fOp f then s.setRecords c key r.slot (endElement r.id (s.port c key r.slot).waiting)
  else
    let l := if fOp f = 2 ∨ fOp f = 3 then
        if r.ends then [completionFlit key (portClass (fOp f)) (fCtag f) r.seq] else []
      else []
    s.modPortq c key fun q =>
      { q with outs := dropSent (q.outs.map fun o => if o.id = r.id then { o with ready := true, flits := l } else o) }

/-- The ports of core c perform no further access for the iterations that a leaf closes, whose slot has key `n` (R434). -/
def State.portsForget (s : State) (c n : Nat) (ks : List Nat) : State :=
  (rangeFrom 256 16).foldl (fun (s : State) key =>
    ((s.portq c key).reqs.filter fun r => match r.iter with
      | some p => p.1 == n && ks.contains p.2
      | none => false).foldl (fun (s : State) r => s.portForget c key r) s) s

/-- Request j of a port is performed. -/
def State.portPerform (s : State) (c key op j : Nat) : State :=
  let q := s.portq c key
  match q.reqs[j]? with
  | none => s
  | some r =>
    let f := (s.slotAt c key r.slot).frame
    if fOp f ≠ op ∨ !requestReady f q.reqs j r then s
    else if 4 ≤ op then (s.portUpdate c key f j r).active c
    else if !q.mayIssue r.id then s
    else (s.portAccess c key f r).active c

/-- The place, in the reorder buffer, of the response whose flits leave next (R200): the oldest that has not left, but for those
of a slot that is withheld, which emits nothing further (R455). -/
def State.portFront (s : State) (c key : Nat) (l : List PortOut) : Option Nat :=
  listFind (fun n => match l[n]? with
    | some o => !s.portWithheld c key o.slot && !(o.ready && o.flits.isEmpty)
    | none => false) (rangeFrom 0 l.length)

/-- The first flit that waits to leave a port leaves for its side. -/
def State.portSend (s : State) (c key op : Nat) : State :=
  let side := fun i => fb (s.slotAt c key i).frame 221 218
  let is := fun i => fOp (s.slotAt c key i).frame == op
  if 4 ≤ op then
    let next := fun i => nextUpdate key (fCtag (s.slotAt c key i).frame) (s.port c key i).waiting
    match listFind (fun i => (s.slotAt c key i).v && is i && !s.portWithheld c key i && (next i).isSome
        && s.sideRoom c (side i)) (rangeFrom 0 4) with
    | none => s
    | some i =>
      match next i with
      | some (x, l) => (s.setRecords c key i l).sidePush c (side i) x
      | none => s
  else
    let l := (s.portq c key).outs
    match (s.portFront c key l).bind fun n => l[n]?.map fun o => (n, o) with
    | some (n, o) =>
      match o.flits with
      | x :: m =>
        if is o.slot && s.sideRoom c (side o.slot) then
          (s.modPortq c key fun q => { q with outs := dropSent (listSet l n { o with flits := m }) }).sidePush c
            (side o.slot) x
        else s
      | [] => s
    | none => s

/-- One step of a port under operation `op`. -/
def portEvent (op : Nat) (c : CoreIx) (mt port : Fin 4) (part : PortPart) (s : State) : Result :=
  let key := 256 + 4 * mt.val + port.val
  match part with
  | .take => .next (s.portHead c.val key op)
  | .access j => .next (s.portPerform c.val key op j)
  | .send => .next (s.portSend c.val key op)

/-- MLD (R236). -/
def execMld (c : CoreIx) (mt port : Fin 4) (part : PortPart) (s : State) : Result := portEvent 0 c mt port part s
/-- MST (R236). -/
def execMst (c : CoreIx) (mt port : Fin 4) (part : PortPart) (s : State) : Result := portEvent 1 c mt port part s
/-- GATH (R238). -/
def execGath (c : CoreIx) (mt port : Fin 4) (part : PortPart) (s : State) : Result := portEvent 2 c mt port part s
/-- SCAT (R238). -/
def execScat (c : CoreIx) (mt port : Fin 4) (part : PortPart) (s : State) : Result := portEvent 3 c mt port part s
/-- UPD (R239). -/
def execUpd (c : CoreIx) (mt port : Fin 4) (part : PortPart) (s : State) : Result := portEvent 4 c mt port part s
/-- DEP (R242). -/
def execDep (c : CoreIx) (mt port : Fin 4) (part : PortPart) (s : State) : Result := portEvent 5 c mt port part s

/-! The end of a controller's run by `ctl.abort`. -/

/-- Controller n of a tag is aborting, if it runs or holds a permit on its way: it closes its open iterations, for which the
ports bound to it perform no further access (R434). -/
def State.markAborting (s : State) (c : Nat) (tag : BitVec 8) (n : Nat) : State :=
  match s.slotFor c (0x20 + n) tag with
  | some (i, _) =>
    let x := s.ctl c n i
    let coming := (s.grid c).net.any fun t => !t.done && t.dst == n && t.ctag == tag
    if x.running || coming then
      (s.portsForget c (4 * n + i) (x.opens.map fun p => p.1)).setCtl c n i { x with aborting := true, opens := [] }
    else s
  | none => s

/-- Controller n of a tag ends, if it is aborting and waits for no child (R434). -/
def State.settleAborting (s : State) (c : Nat) (tag : BitVec 8) (n : Nat) : State :=
  match s.slotFor c (0x20 + n) tag with
  | some (i, f) => if (s.ctl c n i).aborting then s.advance c n i f else s
  | none => s

/-- The controllers of a tree are aborted (R434). -/
def State.abortTree (s : State) (c : Nat) (tag : BitVec 8) (l : List Nat) : State :=
  l.foldl (fun s n => s.settleAborting c tag n) (l.foldl (fun s n => s.markAborting c tag n) s)

/-- `ctl.abort` (R434, R437): the controller and its descendants are aborted; a leaf ends at once. A run that ends in this
cycle ends first. -/
def execCtlAbort (g : Guard) (d : Reg) (ct : Fin 8) (s : State) : Result :=
  cmdForm s (.ctlAbort g d ct) g false [] <|
    let c := s.focus.val
    let tag := s.cp.k.ctag
    match s.slotFor c (0x20 + ct.val) tag with
    | none => ctlReply s c tag [] d ct.val 0x0F
    | some _ =>
      if !s.ctlRunning c ct.val tag then ctlAccept s c tag [] d ct.val
      else
        let s := s.runsDue s.focus
        ctlAccept (s.abortTree c tag (s.treeOf c tag [ct.val] 8)) c tag [] d ct.val

/-! Sparse-update units. -/

/-- A binary floating-point sum by RNE (R231). -/
def updFadd (f : Prec) (a b : Nat) : Nat :=
  (fpAddVal f .rne (f.fmt.read a) (f.fmt.read b)).1.toNat % 2 ^ (if f = .d then 64 else 32)

/-- The value an update stores (R239), and whether a pair fold gave an infinity or NaN. -/
def updNew (op w old b : Nat) : Nat × Bool :=
  let b := b % 2 ^ w
  let low := decide (signedOf w old ≤ signedOf w b)
  match op with
  | 0x01 => ((old + b) % 2 ^ w, false)
  | 0x02 => (if low then old else b, false)
  | 0x03 => (if low then b else old, false)
  | 0x04 => (Nat.min old b, false)
  | 0x05 => (Nat.max old b, false)
  | 0x06 => (old &&& b, false)
  | 0x07 => (old ||| b, false)
  | 0x08 => (old ^^^ b, false)
  | 0x09 => (b, false)
  | 0x0A => (updFadd .s old b, false)
  | 0x0B => (updFadd .d old b, false)
  | _ =>
    let v := b % 2 ^ 32
    let bad := ((FFmt.fp32.nanBits + FFmt.fp32.nanBits * 2 ^ 32), true)
    if patBad .fp32 v || patBad .fp32 (old % 2 ^ 32) || patBad .fp32 (old / 2 ^ 32) then bad
    else match pairAdd .fp32 (old % 2 ^ 32) (old / 2 ^ 32) (patDy .fp32 v) with
      | some (s, c) => (s + c * 2 ^ 32, false)
      | none => bad

/-- An element of a record has been applied (R239). -/
def State.updDone (s : State) (c : Nat) (r : Nat × Nat) : State :=
  s.setRecords c (r.1 / 4) (r.1 % 4) (endElement r.2 (s.port c (r.1 / 4) (r.1 % 4)).waiting)

/-- An element is applied as one atomic read-modify-write (R219, R239, R242). A ready flit has LAST 0, since its record goes on
to the completion flit (DEDUCED, log entry 108). -/
def State.updApply (s : State) (c : Nat) (e : UpdElem) : State :=
  let key := e.port / 4
  let i := e.port % 4
  let n := 2 ^ e.esz
  let pa := s.scratchPa c e.off
  if s.eccBad pa n then s.portEccu c key e.seq e.off
  else
    let old := s.natAt pa n
    let s := s.eccRead pa n
    match e.dep with
    | none =>
      let r := updNew e.op (8 * n) old e.val.toNat
      let s := s.writeNat pa n r.1
      if r.2 then s.portPoison c key e.seq e.off else s
    | some (u, dc) =>
      let s := s.writeNat pa 2 ((old + 0xFFFF) % 2 ^ 16)
      if old = 1 then
        let x := mkFlit 0 (fCtag (s.slotAt c key i).frame) u false false
        let s := s.setRecords c key i ((s.port c key i).waiting.map fun r =>
          if r.eot.isNone && e.records.any (fun q => q.2 == r.id) then { r with ready := r.ready ++ [x] } else r)
        s.modGrid c fun g =>
          let k := 64 * (e.off / 0x30000) + dc
          { g with dc := tabSet 0 g.dc k (tabGet 0 g.dc k + 1) }
      else s

/-- Two elements of a window touch a common byte. -/
def UpdElem.meets (a b : UpdElem) : Bool := decide (a.off < b.off + 2 ^ b.esz ∧ b.off < a.off + 2 ^ a.esz)

/-- The element may be applied now: with ORD = 1 no earlier one of its location stands before it (R240). -/
def applyReady (l : List UpdElem) (i : Nat) (e : UpdElem) : Bool := !e.ord || !((l.take i).any fun a => a.meets e)

/-- A `dep` element whose count is 1 is applied only when its record may emit the ready flit (R242, R251), or when a freeze or
the task's end performs every access (R41, R330). -/
def State.mayApply (s : State) (c : Nat) (e : UpdElem) : Bool :=
  e.dep.isNone || s.waved c || (s.cpOf c).ctl.done || s.natAt (s.scratchPa c e.off) 2 != 1
    || e.records.all fun r => mayReady r.2 (s.port c (r.1 / 4) (r.1 % 4)).waiting

/-- The element that stands for two merged ones (R240), `a` the earlier. -/
def UpdElem.merge (a b : UpdElem) : UpdElem :=
  let w := 8 * 2 ^ a.esz
  let v := match a.op with
    | 0x09 => b.val.toNat
    | op => (updNew op w (a.val.toNat % 2 ^ w) b.val.toNat).1
  { a with val := word v, records := a.records ++ b.records }

/-- Two elements may be merged (R240): ORD = 0, and one operation, size and location; never pair32 or `dep`. -/
def mergeReady (a b : UpdElem) : Bool :=
  !a.ord && !b.ord && a.op == b.op && a.esz == b.esz && a.off == b.off && a.op != 0x0C
    && a.dep.isNone && b.dep.isNone

/-- SPARSE_UPDATE_APPLY (R240, R242): an element of a window is applied, or merged into an earlier one. -/
def execSparseUpdateApply (c : CoreIx) (mt : Fin 4) (bank : Fin 16) (i : Nat) (into : Option Nat) (s : State) : Result :=
  let w := 16 * mt.val + bank.val
  let l := s.window c.val w
  match l[i]?, into with
  | none, _ => .next s
  | some e, none =>
    if applyReady l i e && s.mayApply c.val e then
      let t := (s.setWindow c.val w (l.eraseIdx i)).updApply c.val e
      .next ((e.records.foldl (fun s r => s.updDone c.val r) t).active c.val)
    else .next s
  | some e, some j =>
    match l[j]? with
    | some a =>
      if j < i ∧ mergeReady a e then
        .next ((s.setWindow c.val w ((listSet l j (a.merge e)).eraseIdx i)).active c.val)
      else .next s
    | none => .next s

end Sys2Proof.Machine
end

