-- ==== Sys2Proof/Machine/Router.lean ====
section
/-!
DEFINITION. Routers: the flits they may move (13 R248-R250), the seven control operators (R255-R262), and the return of
KILLs (R254).
-/
namespace Sys2Proof.Machine

/-- The channel of a router's input: 0 to 3 for the faces, 4 for the PE result. -/
def inputKey (rt k : Nat) : Nat := if k < 4 then faceKey rt k else resultKey rt

/-- The flit is the first of a configuration record that names the router or its PE (R375). -/
def cfgMine (rt : Nat) (f : Flit) : Bool :=
  f.kind == 5 && ((bits f.pay 60 4 == 1 && bits f.pay 52 8 == 0x10 + rt) || (bits f.pay 60 4 == 0 && bits f.pay 52 8 == rt))

/-- The flit at a router's input that is handled as data (R133, R375): not one of a configuration record that the router
takes, and not one with a sideband error (R131). -/
def State.dataHead (s : State) (c rt kk : Nat) : Option Flit :=
  match s.head c kk with
  | none => none
  | some f =>
    if f.sideBad || tabGet [] (s.grid c).collect kk != [] then none
    else if tabGet 0 (s.grid c).mids kk == 0 && cfgMine rt f then none
    else some f

/-- A data flit leaves a router's input and goes to the outputs `outs` (R249). A header carries its number in the
channel (R254); the count of a configuration record in passage is kept. -/
def State.forward (s : State) (c rt kk : Nat) (f : Flit) (outs : List Nat) : State :=
  let src := if f.kind = 1 then some (kk, (s.chan c kk).headNo, f.ctag) else none
  let s := s.popChan c kk
  let s := if f.kind = 5 then s.modGrid c fun g =>
      { g with mids := tabSet 0 g.mids kk (if f.last then 0 else 4 * (f.ctag.toNat + 1) + 1) }
    else s
  outs.foldl (fun s o => s.outPush c rt f src o) s

/-- The outputs that name a source (R120). -/
def plainOuts (f : Frame) (code : Nat) : List Nat := (rangeFrom 0 7).filter fun o => rtRoute f o == code

/-- The operator inputs bound to a source (R120). -/
def boundInputs (f : Frame) (code : Nat) : List Nat := (rangeFrom 0 3).filter fun k => rtOpi f k == code

/-- The flit that a plain route of a router may move from input k in this cycle, with its outputs (R249, R251). -/
def State.movable (s : State) (c rt k : Nat) : Option (Flit × List Nat) :=
  match s.dataHead c rt (inputKey rt k) with
  | none => none
  | some f =>
    match s.frameFor c (0x10 + rt) f.ctag with
    | none => none
    | some F =>
      let outs := plainOuts F (k + 1)
      if !(boundInputs F (k + 1)).isEmpty || outs.isEmpty || s.isWithheld c (0x10 + rt) f.ctag then none
      else if outs.all (s.outRoom c rt f.ctag) then some (f, outs) else none

/-- A router beside its slots. -/
def State.router (s : State) (c rt : Nat) : Router := tabGet .reset (s.grid c).routers rt

/-- The inputs of a router that a flit has left in this cycle: four at the most (R248). -/
def State.routerMoves (s : State) (c rt : Nat) : Nat :=
  ((rangeFrom 0 5).filter fun k => (s.chan c (inputKey rt k)).lastOut == s.cyc + 1).length

/-- The input after which the grant of a cycle starts (R248). -/
def Router.start (r : Router) (cyc : Nat) : Nat := if r.moved = cyc + 1 then r.grant else r.last

/-- The router has granted input k in a cycle: the last of those granted is the furthest from the start (R248). -/
def Router.granted (r : Router) (cyc k : Nat) : Router :=
  let far := fun n => (n + 4 - r.start cyc) % 5
  { grant := r.start cyc, last := if r.moved = cyc + 1 ∧ far k < far r.last then r.last else k, moved := cyc + 1 }

/-- A flit of input k leaves: the router has granted it (R248). -/
def State.grantTo (s : State) (c rt k : Nat) : State :=
  s.modGrid c fun g => { g with routers := tabSet .reset g.routers rt ((tabGet .reset g.routers rt).granted s.cyc k) }

/-! Operators. -/

/-- What an operator does with its next flits: it takes the heads of `ks`, emits at most one flit to some outputs, and
goes on; or it stops with a fault and the candidates' first flits. -/
inductive OpAct where
  | move (ks : List Nat) (emit : Option (List Nat × Flit)) (st : OpState)
  | stop (cause : BitVec 6) (first : List Flit)
  | wait
deriving DecidableEq, Repr

/-- A flit of the record in progress is forwarded (R255, R258). -/
def opForward (head : Nat → Option Flit) (st : OpState) (k mask : Nat) (poison : Bool) : OpAct :=
  match head k with
  | none => .wait
  | some f =>
    let g := if poison && (f.kind == 0 || f.kind == 1) then Flit.seal { f with poison := true } else f
    let st := { st with taking := if f.last then none else some (k, mask, poison) }
    .move [k] (if mask = 0 then none else some (maskOuts mask, g)) st

/-- The rest of a record is consumed. -/
def opSkip (head : Nat → Option Flit) (st : OpState) (k : Nat) : OpAct :=
  match head k with
  | none => .wait
  | some f => .move [k] none { st with skipping := if f.last then none else some k }

/-- A decider is taken from input k (R258); `f` gives the state after its value and its poison. -/
def opDecide (p : Nat) (head : Nat → Option Flit) (st : OpState) (k : Nat) (f : Bool → Bool → OpState → OpState) :
    OpAct :=
  match head k with
  | none => .wait
  | some x =>
    if !(x.kind == 0 || x.kind == 6) then .stop causeCfgerr [x]
    else
      let v := !x.poison && (x.pay.getLsbD (bits (word p) 16 6) != (word p).getLsbD 22)
      .move [k] none (f v x.poison { st with skipping := if x.last then none else some k })

/-- A decider is taken once the first flit of the record that it selects stands at the head of input `sel`, if it selects one:
an operator keeps no decider that it has not followed (R255, R263, DEDUCED, log entry 102). -/
def opSelect (head : Nat → Option Flit) (sel : Bool → Option Nat) : OpAct → OpAct
  | .move ks e st =>
    match st.decided.bind fun p => sel p.1 with
    | some k => if (head k).isSome then .move ks e st else .wait
    | none => .move ks e st
  | a => a

/-- `steer` (R259). -/
def opSteer (p : Nat) (head : Nat → Option Flit) (st : OpState) : OpAct :=
  match st.taking, st.skipping, st.decided with
  | some (k, m, x), _, _ => opForward head st k m x
  | _, some k, _ => opSkip head st k
  | _, _, some (d, x) =>
    opForward head { st with decided := none } 1 (if d then p % 128 else p / 2 ^ 8 % 128) x
  | _, _, none =>
    opSelect head (fun _ => some 1) (opDecide p head st 0 fun d x st => { st with decided := some (d, x) })

/-- `carry` (R259). -/
def opCarry (p : Nat) (head : Nat → Option Flit) (st : OpState) : OpAct :=
  match st.taking, st.skipping, st.looping, st.decided with
  | some (k, m, x), _, _, _ => opForward head st k m x
  | _, some k, _, _ => opSkip head st k
  | _, _, false, _ => opForward head { st with looping := true } 0 (p % 128) false
  | _, _, true, some _ => opForward head { st with decided := none } 1 (p % 128) false
  | _, _, true, none =>
    opSelect head (fun _ => some 1) (opDecide p head st 2 fun d _ st =>
      { st with looping := d, decided := if d then some (true, false) else none })

/-- `invar` (R259): a record of more than 8 flits stops it. -/
def opInvar (p : Nat) (head : Nat → Option Flit) (st : OpState) : OpAct :=
  match st.skipping, st.replay with
  | some k, _ => opSkip head st k
  | none, f :: l => .move [] (some (maskOuts (p % 128), f)) { st with replay := l }
  | none, [] =>
    if st.looping && st.taking.isNone then
      opDecide p head st 1 fun d _ st => if d then { st with replay := st.held }
        else { st with held := [], looping := false }
    else match head 0 with
      | none => .wait
      | some f =>
        if 8 ≤ st.held.length then .stop causeCfgerr [f]
        else opForward head { st with looping := true, held := st.held ++ [f] } 0 (p % 128) false

/-- `merge` (R259). -/
def opMerge (p : Nat) (head : Nat → Option Flit) (st : OpState) : OpAct :=
  match st.taking, st.skipping, st.decided with
  | some (k, m, x), _, _ => opForward head st k m x
  | _, some k, _ => opSkip head st k
  | _, _, some (d, x) => opForward head { st with decided := none } (if d then 1 else 2) (p % 128) x
  | _, _, none =>
    opSelect head (fun d => some (if d then 1 else 2))
      (opDecide p head st 0 fun d x st => { st with decided := some (d, x) })

/-- The next action of `join` (R260): 1 discard, 2 emit, 3 reset; 4 is a reset inside a record, 5 inside the
end-of-tile record that ends it. -/
def opAct (p : Nat) (head : Nat → Option Flit) (st : OpState) : List (Nat × Nat) → OpAct
  | [] => .wait
  | (k, a) :: l =>
    match head k with
    | none => .wait
    | some f =>
      let go := fun (a' : Nat) (e : Option (List Nat × Flit)) (n : Nat) =>
        OpAct.move [k] e { st with acts := if a' = 0 then l else (k, a') :: l, emitted := st.emitted + n }
      match a with
      | 2 => go (if f.last then 0 else 2) (some (maskOuts (p % 128), f)) (if f.last then 1 else 0)
      | 3 => if f.kind = 4 then go (if f.last then 0 else 5) none 0 else go (if f.last then 3 else 4) none 0
      | 4 => go (if f.last then 3 else 4) none 0
      | 5 => go (if f.last then 0 else 5) none 0
      | _ => go (if f.last then 0 else 1) none 0

/-- `join` (R260). -/
def opJoin (p : Nat) (tag : BitVec 8) (head : Nat → Option Flit) (st : OpState) : OpAct :=
  let act := fun lo => p / 2 ^ lo % 4
  let begin' := fun (l : List (Nat × Nat)) => opAct p head st (l.filter fun x => x.2 != 0)
  if !st.acts.isEmpty then opAct p head st st.acts
  else match head 0, head 1 with
  | some a, some b =>
    let ea := a.kind == 4
    let eb := b.kind == 4
    if (!ea && a.kind != 0) || (!eb && b.kind != 0) then .stop causeCfgerr [a, b]
    else if ea && eb then
      let st' := { st with
        emitted := 0, acts := (if a.last then [] else [(0, 1)]) ++ (if b.last then [] else [(1, 1)]) }
      let status := if bits a.pay 62 2 = 1 ∨ bits b.pay 62 2 = 1 then 1 else 0
      .move [0, 1] (some (maskOuts (p % 128), mkFlit 4 tag (tilePay status st.emitted 0) false true)) st'
    else if eb then begin' [(0, act 16)]
    else if ea then begin' [(1, act 26)]
    else
      let lt := if p / 2 ^ 28 % 2 = 1 then a.pay.slt b.pay else a.pay.ult b.pay
      if lt then begin' [(0, act 16), (1, act 18)]
      else if a.pay = b.pay then begin' [(0, act 20), (1, act 22)]
      else begin' [(0, act 24), (1, act 26)]
  | _, _ => .wait

/-- `order` (R261): it waits for the record with the expected number; two candidates are a duplicate tag. -/
def opOrder (p : Nat) (f : Frame) (head : Nat → Option Flit) (st : OpState) : OpAct :=
  match st.taking with
  | some (k, m, x) => opForward head st k m x
  | none =>
    let heads := ((rangeFrom 0 3).filter fun k => rtOpi f k != 0).filterMap fun k => (head k).map fun x => (k, x)
    match listFind (fun (x : Nat × Flit) => x.2.kind != 0) heads with
    | some x => .stop causeCfgerr [x.2]
    | none =>
      match heads.filter fun x => bits x.2.pay 0 16 == st.exp.toNat with
      | [] => .wait
      | [x] => opForward head { st with exp := st.exp + 1 } x.1 (p % 128) false
      | l => .stop causeDuptag (l.map fun x => x.2)

/-- `arb` (R262). -/
def opArb (p : Nat) (f : Frame) (head : Nat → Option Flit) (st : OpState) : OpAct :=
  match st.taking with
  | some (k, m, x) => opForward head st k m x
  | none =>
    if p / 2 ^ 16 % 2 = 0 then
      let order := (rangeFrom (st.grant + 1) 3).map fun k => k % 3
      match listFind (fun k => rtOpi f k != 0 && (head k).isSome) order with
      | none => .wait
      | some k => opForward head { st with grant := k } k (p % 128) false
    else
      let k := p / 2 ^ (32 + 2 * st.turn) % 4
      opForward head { st with turn := (st.turn + 1) % (p / 2 ^ 17 % 16 + 1) } k (p % 128) false

/-- The channel of an operator's input (R120). -/
def opChan (f : Frame) (rt k : Nat) : Nat := inputKey rt (rtOpi f k - 1)

/-- The flit at an operator's input, under the slot of its tag. -/
def State.opHead (s : State) (c rt : Nat) (f : Frame) (tag : BitVec 8) (k : Nat) : Option Flit :=
  if rtOpi f k = 0 then none
  else match s.dataHead c rt (opChan f rt k) with
    | some x => if x.ctag = tag then some x else none
    | none => none

/-- The operator state of a slot. -/
def State.opState (s : State) (c rt i : Nat) : OpState := tabGet .reset (s.grid c).ops (4 * (0x10 + rt) + i)

/-- The operator state of a slot replaced. -/
def State.setOpState (s : State) (c rt i : Nat) (st : OpState) : State :=
  s.modGrid c fun g => { g with ops := tabSet .reset g.ops (4 * (0x10 + rt) + i) st }

/-- The channels of the inputs consumed, each once. -/
def distinctCodes (f : Frame) : List Nat → List Nat
  | [] => []
  | k :: l => let r := distinctCodes f l; if r.contains (rtOpi f k) then r else rtOpi f k :: r

/-- Every destination takes the flits of a firing (R249, R251): the plain outputs of each source consumed, every operator
input bound to it, and the outputs of the result. -/
def State.opRoom (s : State) (c rt : Nat) (f : Frame) (tag : BitVec 8) (ks : List Nat)
    (emit : Option (List Nat × Flit)) : Bool :=
  ks.all (fun k =>
      (boundInputs f (rtOpi f k)).all (fun j => ks.contains j)
        && (plainOuts f (rtOpi f k)).all (s.outRoom c rt tag))
    && (match emit with
        | some (outs, _) => outs.all (s.outRoom c rt tag)
        | none => true)

/-- A firing is carried out. -/
def State.opMove (s : State) (c rt : Nat) (f : Frame) (ks : List Nat) (emit : Option (List Nat × Flit)) : State :=
  let s := (distinctCodes f ks).foldl (fun s code =>
    match s.head c (inputKey rt (code - 1)) with
    | some x => (s.forward c rt (inputKey rt (code - 1)) x (plainOuts f code)).grantTo c rt (code - 1)
    | none => s) s
  match emit with
  | some (outs, x) => (outs.foldl (fun s o => s.outPush c rt x none o) s).active c
  | none => s

/-- An operator stops with a fault record (R258, R261). -/
def State.opStop (s : State) (c rt i : Nat) (tag : BitVec 8) (cause : BitVec 6) (first : List Flit) : State :=
  let s := s.setOpState c rt i { s.opState c rt i with stopped := true }
  if cause = causeDuptag then
    let o := originId c (0x10 + rt)
    let pay := fun n => (first[n]?.map fun (f : Flit) => f.pay).getD 0
    let side := fun n => (first[n]?.map fun (f : Flit) => f.side).getD 0
    ((s.post c { typ := 0, cause := causeDuptag, orig := o, resume := false, held := true, double := false,
                 words := [0, 0, pay 0, pay 1, word (side 0 + side 1 * 2 ^ 24)] }).pendTrap c causeDuptag
      (word o)).modGrid c fun g => { g with withheld := g.withheld ++ [(0x10 + rt, tag)] }
  else s.withhold c (0x10 + rt) tag

/-! KILL. -/

/-- The outputs of a router that a source feeds for a tag, where no operator input is bound to it (R254). -/
def State.fedOuts (s : State) (c src : Nat) (tag : BitVec 8) : List Nat :=
  let rt := if src < 64 then src / 4 else src - 64
  let code := if src < 64 then src % 4 + 1 else 5
  match s.frameFor c (0x10 + rt) tag with
  | some f => if (boundInputs f code).isEmpty then plainOuts f code else []
  | none => []

/-- The channel beyond an output of the router that owns a source channel. -/
def State.fedChan (s : State) (c src : Nat) (tag : BitVec 8) (o : Nat) : Option (Nat × Nat) :=
  let rt := if src < 64 then src / 4 else src - 64
  (s.target c rt o tag).map fun t => (t.1, t.2.1)

/-- The largest position among KILLs. -/
def maxKill (l : List (Nat × KillMsg)) : Nat := l.foldl (fun m r => max m r.2.j) 0

/-- A channel records that output `o` has returned a KILL. -/
def Chan.killFrom (x : Chan) (o : Nat) (m : KillMsg) : Chan :=
  { x with returned := (x.returned.filter fun r => r.1 != o) ++ [(o, m)] }

/-- KILL_RETURN (R254): a KILL leaves a kill return queue, at most one in a cycle. On a plain route it is renumbered to the
element of the source; once every output has returned one, the source's own return queue takes the largest position. One
for an element that has left the source, and every other sender's, is absorbed (R90). -/
def execKillReturn (c : CoreIx) (ch : ChanId) (s : State) : Result :=
  let k := chanKey ch
  let isResult := match ch with
    | .result _ => true
    | _ => false
  if (s.chan c.val k).lastKill == s.cyc + 1 then .next s
  else match (s.chan c.val k).kills, isResult with
  | m :: rest, false =>
    let drop := s.modChan c.val k fun x => { x with kills := rest, lastKill := s.cyc + 1 }
    match tabGet none (s.chan c.val k).source m.no.toNat with
    | none => .next drop
    | some (src, no, tag) =>
      let outs := s.fedOuts c.val src tag
      let x := s.chan c.val src
      match listFind (fun o => s.fedChan c.val src tag o == some (c.val, k)) outs with
      | none => .next drop
      | some o =>
        let y := x.killFrom o ⟨no, tag, m.j⟩
        if x.part != some (no, tag) then .next drop
        else if !(outs.all fun o => y.returned.any fun r => r.1 == o) then
          .next (drop.modChan c.val src fun x => x.killFrom o ⟨no, tag, m.j⟩)
        else if x.kills.length < 4 then
          .next (drop.modChan c.val src fun x =>
            { x with kills := x.kills ++ [⟨no, tag, maxKill y.returned⟩], returned := [] })
        else .next s
  | _, _ => .next s

end Sys2Proof.Machine
end

