-- ==== Sys2Proof/Machine/Resident.lean ====
section
/-!
DEFINITION. Tokens resident (18 R362), and the units of a core.
-/
namespace Sys2Proof.Machine

/-- The units of core c. -/
def State.units (s : State) (c : Nat) : Units := (s.core c).units

/-- The units of core c changed by `f`. -/
def State.modUnits (s : State) (c : Nat) (f : Units → Units) : State :=
  s.modCore c fun x => { x with units := f x.units }

/-- Slot i of generator n. -/
def State.stream (s : State) (c n i : Nat) : Stream := tabGet .reset (s.units c).streams (4 * n + i)

/-- Slot i of generator n replaced. -/
def State.setStream (s : State) (c n i : Nat) (x : Stream) : State :=
  s.modUnits c fun u => { u with streams := tabSet .reset u.streams (4 * n + i) x }

/-- Template n. -/
def State.tpl (s : State) (c n : Nat) : Tpl := tabGet .reset (s.units c).tpls n

/-- Template n replaced. -/
def State.setTpl (s : State) (c n : Nat) (x : Tpl) : State :=
  s.modUnits c fun u => { u with tpls := tabSet .reset u.tpls n x }

/-- Stream buffer n in slot i. -/
def State.sbuf (s : State) (c n i : Nat) : Sbuf := tabGet .reset (s.units c).sbufs (4 * n + i)

/-- Stream buffer n in slot i replaced. -/
def State.setSbuf (s : State) (c n i : Nat) (x : Sbuf) : State :=
  s.modUnits c fun u => { u with sbufs := tabSet .reset u.sbufs (4 * n + i) x }

/-- The matrix unit of core c. -/
def State.mx (s : State) (c : Nat) : Mx := (s.units c).mx

/-- The matrix unit of core c replaced. -/
def State.setMx (s : State) (c : Nat) (x : Mx) : State := s.modUnits c fun u => { u with mx := x }

/-- A stream slot holds work (R299, R362). -/
def StreamPhase.busy (p : StreamPhase) : Bool :=
  match p with
  | .deferred | .deciding | .running | .withheld => true
  | _ => false

/-- A template is copying, or withheld in a copy (R316). -/
def TplPhase.busy (p : TplPhase) : Bool :=
  match p with
  | .copying | .withheld => true
  | _ => false

/-- The input channels of a node. -/
def nodeInputs (k : Nat) : List Nat :=
  if k < 0x10 then [operandKey k 0, operandKey k 1, operandKey k 2]
  else if k < 0x20 then (rangeFrom 0 5).map fun j => if j < 4 then faceKey (k - 0x10) j else resultKey (k - 0x10)
  else if k = 0x60 then [drainKey k, passInKey]
  else if k < 0x30 ∨ k = 0x38 then []
  else [drainKey k]

/-- The operator of a router's slot holds something (R362, R263). -/
def OpState.holds (x : OpState) : Bool :=
  x.looping || !x.held.isEmpty || !x.replay.isEmpty || x.taking.isSome || x.skipping.isSome || x.decided.isSome
    || !x.acts.isEmpty || x.space.isSome

/-- A port's slot holds an element or record in progress (R362, R244). -/
def Port.holds (x : Port) : Bool :=
  !x.taken.isEmpty || x.group != 0 || !x.waiting.isEmpty

/-- The node state of a kind that counts as tokens of tag t (R362); `i` is the slot that holds t, if one does. -/
def State.nodeHolds (s : State) (c k : Nat) (t : BitVec 8) (i : Option Nat) : Bool :=
  let inSlot := fun (f : Nat → Bool) => match i with
    | some i => f i
    | none => false
  match keyKind k with
  | 0 =>
    (match (s.pe c k).job with
      | some j => j.ctag == t
      | none => false)
      || inSlot fun i => (s.peSlot c k i).count != 0
  | 1 => inSlot fun i => (s.opState c (k - 0x10) i).holds
  | 2 => inSlot fun i => (s.port c k i).holds || (s.portq c k).reqs.any (fun r => r.slot == i)
      || (s.portq c k).outs.any fun r => r.slot == i
  | 3 =>
    (rangeFrom 0 4).any (fun i => (s.stream c (k - 0x30) i).phase.busy && (s.stream c (k - 0x30) i).ctag == t)
      || (s.units c).tpls.any fun p => p.2.phase.busy && p.2.arm.ctag == t
        && (match p.2.place with
          | some v => v / 4 == k - 0x30
          | none => false)
  | 4 => inSlot fun i => (s.ctl c (k - 0x20) i).running
  | 5 => (s.mx c).queue.any (fun e => e.tok.isSome && e.ctag == t) || (rangeFrom 0 16).any fun pe =>
      s.tokensFrom c pe t && (s.chan c (operandKey pe 2)).flits.any fun f => f.ctag == t
  | 6 => (rangeFrom 0 3).any (fun n =>
        (tabGet [] (s.cluster (c / 12)).plain.inputs (3 * (k - 512) + n)).any fun r =>
          r.ctag == t && r.owner == (s.cpOf c).k.first.toNat)
      || inSlot fun i => (tabGet PeSlot.reset (s.cluster (c / 12)).plain.peSlots (4 * (k - 512) + i)).count != 0
  | 7 =>
    let x := (s.cluster (c / 12)).plain
    (tabGet [] x.outs (c % 12)).any (fun r => r.ctag == t) || (tabGet [] x.leaving (c % 12)).any (fun f => f.ctag == t)
      || (match tabGet none x.entering (c % 12) with
        | some p => p.2.1 == t
        | none => false)
  | 8 => inSlot fun i => (s.sbuf c (k - 0x40) i).fill != 0
  | _ => false

/-- Tag t has tokens resident at a node (R362). -/
def State.resident (s : State) (c k : Nat) (t : BitVec 8) : Bool :=
  (nodeInputs k).any (fun n => (s.chan c n).holdsTag t)
    || s.nodeHolds c k t ((s.slotFor c k t).map fun p => p.1)

end Sys2Proof.Machine
end

