-- ==== Sys2Proof/Machine/Buffers.lean ====
section
/-!
DEFINITION. Stream buffers and firing queues (15 R308-R312, R123, 09 R182-R183, 11 R217, 21 R444).
-/
namespace Sys2Proof.Machine

/-! Frames of stream buffers (R123). -/

/-- BASE of a stream-buffer frame. -/
def sbBase (f : Frame) : Nat := fb f 223 204
/-- The size of a stream buffer in bytes. -/
def sbSize (f : Frame) : Nat := 2 ^ (fb f 203 200 + 8)
/-- PSRC. -/
def sbPsrc (f : Frame) : Nat := fb f 199 195
/-- QDST. -/
def sbQdst (f : Frame) : Nat := fb f 194 190
/-- The buffer is raw: it holds bytes (R308). -/
def sbRaw (f : Frame) : Bool := sbQdst f == 0x13

/-- The slot and frame of stream buffer n in a tag. -/
def State.sbAt (s : State) (c n : Nat) (tag : BitVec 8) : Option (Nat × Frame) := s.slotFor c (0x40 + n) tag

/-! Writes of units. -/

/-- Canonical NaN in both words (R177). -/
def accPoison : Word := 0x7FC000007FC00000#64

/-- A fault record of a unit with cause ECCU, its own ORIG and word 3: a write that an uncorrectable half refuses (R203). -/
def State.postEccu (s : State) (c orig : Nat) (w : List Word) : State :=
  s.post c { typ := 0, cause := causeEccu, orig := orig, resume := false, held := false, double := false, words := w }

/-- A write of a unit (R203): a half that it does not cover and that holds an uncorrectable error refuses it, with a fault
record, and with it the half of the same part that it covers (DEDUCED, log entry 107). -/
def State.unitWrite (s : State) (c orig : Nat) (w3 : Word) (pa : Nat) (bs : List Byte) : State :=
  if s.narrowBad pa bs.length then s.postEccu c orig [word pa, w3] else s.writeBytes pa bs

/-! The contents of a buffer (R308), which lie in scratch (R201). -/

/-- The parts of `n` bytes from position p of a region that wraps: offset and length. -/
def wrapParts (f : Frame) (p n : Nat) : List (Nat × Nat) :=
  let p := p % sbSize f
  if p + n ≤ sbSize f then [(sbBase f + p, n)] else [(sbBase f + p, sbSize f - p), (sbBase f, n - (sbSize f - p))]

/-- `n` bytes from position p, whether one of their halves is uncorrectable, and the memory after the read (R202). -/
def State.sbRead (s : State) (c : Nat) (f : Frame) (p n : Nat) : State × List Byte × Bool :=
  let l := (wrapParts f p n).map fun (x : Nat × Nat) => (s.scratchPa c x.1, x.2)
  (l.foldl (fun (s : State) (x : Nat × Nat) => s.eccRead x.1 x.2) s,
    l.flatMap fun (x : Nat × Nat) => s.bytesAt x.1 x.2,
    l.any fun (x : Nat × Nat) => s.eccBad x.1 x.2)

/-- Bytes written from position p. -/
def State.sbWrite (s : State) (c n : Nat) (f : Frame) (p : Nat) (bs : List Byte) : State :=
  let put := fun (s : State) (o : Nat) (bs : List Byte) => s.unitWrite c (originId c (0x40 + n)) 0 (s.scratchPa c o) bs
  match wrapParts f p bs.length with
  | [(o, k), (o', _)] => put (put s o (bs.take k)) o' (bs.drop k)
  | (o, _) :: _ => put s o bs
  | [] => s

/-- The 16 bytes that a flit takes (R308). -/
def flitBytes (f : Flit) : List Byte := leBytes f.pay.toNat 8 ++ leBytes f.side 8

/-! Push and pop ports (R309). Sources and destinations of one buffer are told apart by numbers. -/

/-- An edge side. -/
def byEdge : Nat := 1
/-- The control processor. -/
def byCp : Nat := 2
/-- Matrix results. -/
def byMatrix : Nat := 3
/-- The pair engine. -/
def byPairs : Nat := 4
/-- The pass. -/
def byPass : Nat := 5
/-- A fire token. -/
def byFire : Nat := 6
/-- A ring pass of a collective. -/
def byRing : Nat := 7
/-- A stream. -/
def byStream (ag slot : Nat) : Nat := 16 + 4 * ag + slot
/-- A copy template. -/
def byTemplate (n : Nat) : Nat := 64 + n

/-- The requests that wait at a port: a source offers its own in every cycle (R246), and one that it no longer offers is
withdrawn (DEDUCED, log entry 97). -/
def waitingAt (l : List (Nat × Nat)) (cyc : Nat) : List (Nat × Nat) := l.filter fun p => decide (cyc ≤ p.2)

/-- The request of a source is the next at a port (R309): none that waits arrived before it. -/
def nextAt (l : List (Nat × Nat)) (cyc src : Nat) : Bool :=
  match waitingAt l cyc with
  | [] => true
  | p :: _ => p.1 == src

/-- A source offers its request in this cycle: it keeps its place, or joins at the end (R309). -/
def askAt (l : List (Nat × Nat)) (cyc src : Nat) : List (Nat × Nat) :=
  let l := waitingAt l cyc
  if l.any fun p => p.1 == src then l.map fun p => if p.1 = src then (src, cyc + 1) else p else l ++ [(src, cyc + 1)]

/-- The push port takes `n` bytes from a source in this cycle (R308, R309, R49). -/
def State.sbRoom (s : State) (c n i : Nat) (f : Frame) (src bytes : Nat) : Bool :=
  let b := s.sbuf c n i
  !(s.grid c).closed && b.lastPush != s.cyc + 1
    && ((!sbRaw f && b.pushBy == some src) || ((sbRaw f || b.pushBy.isNone) && nextAt b.pushers s.cyc src))
    && decide (b.fill + bytes ≤ sbSize f)

/-- A source waits at the push port (R309). -/
def State.sbAsk (s : State) (c n i src : Nat) : State :=
  let b := s.sbuf c n i
  s.setSbuf c n i { b with pushers := askAt b.pushers s.cyc src }

/-- A destination waits at the pop port (R309). -/
def State.sbAskPop (s : State) (c n i dst : Nat) : State :=
  let b := s.sbuf c n i
  s.setSbuf c n i { b with poppers := askAt b.poppers s.cyc dst }

/-- An entry comes into a stream buffer or firing queue of core c in this cycle (R148). -/
def State.entryIn (s : State) (c : Nat) : State :=
  (s.modCpOf c fun x => { x with ctl := { x.ctl with entered := s.cyc + 1 } }).active c

/-- Bytes enter a buffer; `last` releases its push port (R309). -/
def State.sbPut (s : State) (c n i : Nat) (f : Frame) (src : Nat) (bs : List Byte) (last : Bool) : State :=
  let b := s.sbuf c n i
  let s := s.sbWrite c n f (b.head + b.fill) bs
  ((s.setSbuf c n i
    { b with
      fill := b.fill + bs.length, pushBy := if sbRaw f || last then none else some src, lastPush := s.cyc + 1,
      fresh := bs.length, pushers := b.pushers.filter fun p => p.1 != src }).entryIn c).movedIn c

/-- A flit enters a buffer. -/
def State.sbPutFlit (s : State) (c n i : Nat) (f : Frame) (src : Nat) (x : Flit) : State :=
  s.sbPut c n i f src (flitBytes x) x.last

/-- The bytes that a pop may see: those present when the cycle began (R309). -/
def Sbuf.seen (b : Sbuf) (cyc : Nat) : Nat := b.fill - (if b.lastPush = cyc + 1 then b.fresh else 0)

/-- The pop port gives `n` bytes to a destination in this cycle (R309). -/
def State.sbReady (s : State) (c n i : Nat) (f : Frame) (dst bytes : Nat) : Bool :=
  let b := s.sbuf c n i
  b.lastPop != s.cyc + 1
    && ((!sbRaw f && b.popBy == some dst) || ((sbRaw f || b.popBy.isNone) && nextAt b.poppers s.cyc dst))
    && decide (bytes ≤ b.seen s.cyc)

/-- The flit at the head of a buffer, as a destination sees it: an uncorrectable error poisons it, with the memory tile as
ORIG (R202, R59). Its kind, its tags and what is no element are the stored bits (DESIGN CHOICE, log entry 46). -/
def State.sbHead (s : State) (c n i : Nat) (f : Frame) (dst : Nat) : Option Flit :=
  if sbRaw f || !s.sbReady c n i f dst 16 then none
  else
    let r := s.sbRead c f (s.sbuf c n i).head 16
    let x := Flit.ofBits (word (leNat (r.2.1.take 8))) (leNat ((r.2.1.drop 8).take 3))
    if r.2.2 && decide (x.kind.toNat ≤ 4) then
      some (x.poisoned (originId c (0x28 + sbBase f / 0x30000)))
    else some x

/-- The next 8 bytes of a raw buffer (R311); where an uncorrectable error lost them, bits that no rule gives (R202, DESIGN
CHOICE, log entry 46). -/
def State.sbRawWord (s : State) (c n i : Nat) (f : Frame) : Word :=
  let r := s.sbRead c f (s.sbuf c n i).head 8
  word (if r.2.2 then Config.lostBits s.free else leNat r.2.1)

/-- The pop of `n` bytes orders no access that is still outstanding (R217). -/
def State.sbAcquired (s : State) (c n i bytes : Nat) : Bool :=
  (s.sbuf c n i).marks.all fun m => bytes < m.1 || (s.cpOf c).drained m.2

/-- `n` bytes leave a buffer; `last` releases its pop port (R309). -/
def State.sbDrop (s : State) (c n i : Nat) (f : Frame) (dst bytes : Nat) (last : Bool) : State :=
  let b := s.sbuf c n i
  let s := (s.sbRead c f b.head bytes).1
  (s.setSbuf c n i
    { b with
      head := (b.head + bytes) % sbSize f
      fill := b.fill - bytes
      popBy := if sbRaw f || last then none else some dst
      lastPop := s.cyc + 1
      poppers := b.poppers.filter fun p => p.1 != dst
      marks := (b.marks.filter fun m => bytes < m.1).map fun m => (m.1 - bytes, m.2) }).movedIn c

/-- The flit at the head leaves; a rotation-counter token counts (R444). -/
def State.sbDropFlit (s : State) (c n i : Nat) (f : Frame) (dst : Nat) (x : Flit) : State :=
  let s := s.sbDrop c n i f dst 16 x.last
  if x.kind = 6 ∧ bits x.pay 60 4 = 4 then
    s.modGrid c fun g => { g with rot := g.rot + 1, lastp := g.lastp || x.pay.getLsbD 47 }
  else s

/-! Firing queues (R310). -/

/-- The entries of firing queue n. -/
def State.fq (s : State) (c n : Nat) : List (Word × List Nat) := tabGet [] (s.units c).fqs n

/-- A firing queue takes an entry (R246, R310). -/
def State.fqRoom (s : State) (c n : Nat) : Bool := decide ((s.fq c n).length < 16) && !(s.grid c).closed

/-- An entry joins a firing queue, with the accesses that its pop orders (R217). -/
def State.fqPut (s : State) (c n : Nat) (v : Word) (ids : List Nat) : State :=
  (s.modUnits c fun u => { u with fqs := tabSet [] u.fqs n (tabGet [] u.fqs n ++ [(v, ids)]) }).entryIn c

/-- The oldest entry leaves a firing queue. -/
def State.fqDrop (s : State) (c n : Nat) : State :=
  (s.modUnits c fun u => { u with fqs := tabSet [] u.fqs n ((tabGet [] u.fqs n).drop 1) }).active c

/-- The uses of stream buffer n as an operand in a matrix-unit frame (R123). -/
def mxUses (f : Frame) (n : Nat) : Nat := (if fb f 223 220 = n then 1 else 0) + (if fb f 219 216 = n then 1 else 0)

/-- The entry is an `mma` or `mma.acc` token (R116). -/
def MxEntry.isMma (e : MxEntry) : Bool :=
  !e.bad && (match e.tok with
    | some w => bits w 54 6 == 0 || bits w 54 6 == 1
    | none => false)

/-- RC of stream buffer n in a tag (R182): the `mma` and `mma.acc` tokens in the queue that read it. -/
def State.readerCount (s : State) (c n : Nat) (tag : BitVec 8) : Nat :=
  match s.frameFor c 0x38 tag with
  | some f => ((s.mx c).queue.filter fun e => e.isMma && e.ctag == tag).length * mxUses f n
  | none => 0

/-- The entries of releases that wait enter their firing queues where there is room (R246, R310). -/
def State.fqOwed (s : State) (c : Nat) : State :=
  (s.units c).owed.foldl (fun (s : State) p =>
    if s.fqRoom c p.1 then (s.modUnits c fun u => { u with owed := u.owed.erase p }).fqPut c p.1 p.2 [] else s) s

/-- The release of a stream buffer (R182, R183): no reader counts and the flag is set. Its operand is popped at once; its entry
waits where the firing queue has no room (R246, R310). -/
def State.sbRelease (s : State) (c n i : Nat) (f : Frame) : State :=
  let b := s.sbuf c n i
  if s.readerCount c n (s.slotAt c (0x40 + n) i).ctag = 0 ∧ b.flag then
    let s := s.sbDrop c n i f byMatrix b.size true
    ((s.setSbuf c n i { s.sbuf c n i with flag := false, size := 0 }).modUnits c fun u =>
      { u with owed := u.owed ++ [(n, word b.size)] }).fqOwed c
  else s

/-- Every release of a core that is due (R182): it takes place in the cycle in which no reader counts and the flag is set. -/
def State.sbReleases (s : State) (c : Nat) : State :=
  ((s.units c).sbufs.foldl (fun (s : State) p =>
    if p.2.flag then s.sbRelease c (p.1 / 4) (p.1 % 4) (s.slotAt c (0x40 + p.1 / 4) (p.1 % 4)).frame else s) s).fqOwed c

/-- SB_PUSH (R308, R309): the push port takes the flit at the head of the edge side that the buffer drains. -/
def execSbPush (c : CoreIx) (sb : Fin 16) (s : State) : Result :=
  let n := sb.val
  match s.head c.val (drainKey (0x40 + n)) with
  | none => .next s
  | some x =>
    match s.sbAt c.val n x.ctag with
    | none => .next s
    | some (i, f) =>
      if x.kind == 5 || x.sideBad || sbRaw f || !decide (sbPsrc f < 16) then .next s
      else if !s.sbRoom c.val n i f byEdge 16 then .next (s.sbAsk c.val n i byEdge)
      else .next ((s.popChan c.val (drainKey (0x40 + n))).sbPutFlit c.val n i f byEdge x)

/-- SB_POP (R308, R309, R182): a buffer is released, or its pop port gives a flit to its edge side. -/
def execSbPop (c : CoreIx) (sb : Fin 16) (s : State) : Result :=
  let n := sb.val
  let slots := (rangeFrom 0 4).filter fun i => (s.slotAt c.val (0x40 + n) i).v
  let frame := fun i => (s.slotAt c.val (0x40 + n) i).frame
  match listFind (fun i => s.readerCount c.val n (s.slotAt c.val (0x40 + n) i).ctag == 0
      && (s.sbuf c.val n i).flag) slots with
  | some i => .next (s.sbRelease c.val n i (frame i))
  | none =>
    match listFind (fun i => decide (sbQdst (frame i) < 16) && s.sideRoom c.val (sbQdst (frame i))
        && (s.sbHead c.val n i (frame i) byEdge).isSome) slots with
    | none =>
      .next ((slots.filter fun i => decide (sbQdst (frame i) < 16) && s.sideRoom c.val (sbQdst (frame i))
        && (s.sbuf c.val n i).fill != 0).foldl (fun s i => s.sbAskPop c.val n i byEdge) s)
    | some i =>
      match s.sbHead c.val n i (frame i) byEdge with
      | some x => .next ((s.sbDropFlit c.val n i (frame i) byEdge x).sidePush c.val (sbQdst (frame i)) x)
      | none => .next s

/-! Queue instructions (R311, R312). -/

/-- The count word (R312). -/
def countWord (never : Bool) (space fill : Nat) : Word :=
  word ((boolWord never).toNat * 2 ^ 63 + space % 2 ^ 17 * 2 ^ 32 + fill % 2 ^ 17)

/-- The count word of a queue under a tag (R312). -/
def State.queueWord (s : State) (c : Nat) (q : QUnit) (tag : BitVec 8) (never : Bool) : Word :=
  match q with
  | .fq n => countWord never (16 - (s.fq c n.val).length) (s.fq c n.val).length
  | .sb n =>
    match s.sbAt c n.val tag with
    | none => 0
    | some (i, f) => countWord never (sbSize f - (s.sbuf c n.val i).fill) (s.sbuf c n.val i).fill

/-- The CP accesses that a push covers (R217): those that are still outstanding. -/
def State.covered (s : State) (c : Nat) : List Nat := (s.cpOf c).ctl.reqs.map fun r => r.id

/-- `q.push` (R311): it stands until there is room. -/
def execQPush (g : Guard) (d : Reg) (q : QUnit) (a : Src) (last : Bool) (s : State) : Result :=
  let form := Instr.qPush g d q a last
  cmdForm s form g false [a] <|
    let c := s.focus.val
    let tag := s.cp.k.ctag
    let v := s.cp.val a
    let done := fun (t : State) => (t.postWork c).reply [a] d ((t.postWork c).queueWord c q tag false)
    match q with
    | .fq n => if s.fqRoom c n.val then done (s.fqPut c n.val v (s.covered c)) else s.stand form
    | .sb n =>
      match s.sbAt c n.val tag with
      | none => s.stand form
      | some (i, f) =>
        if sbRaw f && last then s.raise causeIllop (wordOf form)
        else
          let x := mkFlit 0 tag v false last
          let bs := if sbRaw f then leBytes v.toNat 8 else flitBytes x
          if !s.sbRoom c n.val i f byCp bs.length then (s.sbAsk c n.val i byCp).stand form
          else
            let t := s.sbPut c n.val i f byCp bs last
            let b := t.sbuf c n.val i
            done (t.setSbuf c n.val i
              { b with marks := if (s.covered c).isEmpty then b.marks else b.marks ++ [(b.fill, s.covered c)] })

/-- `q.pop` (R311): it stands until there is an entry, and a pop until the accesses that its entry orders are performed
(R217). -/
def execQPop (g : Guard) (d : Reg) (q : QUnit) (peek : Bool) (s : State) : Result :=
  let form := Instr.qPop g d q peek
  cmdForm s form g false [] <|
    let c := s.focus.val
    match q with
    | .fq n =>
      match s.fq c n.val with
      | [] => s.stand form
      | (v, ids) :: _ =>
        if peek then s.reply [] d 0
        else if !s.cp.drained ids then s.stand form
        else ((s.fqDrop c n.val).postWork c).reply [] d v
    | .sb n =>
      match s.sbAt c n.val s.cp.k.ctag with
      | none => s.stand form
      | some (i, f) =>
        if sbRaw f then
          if !s.sbReady c n.val i f byCp 8 then (s.sbAskPop c n.val i byCp).stand form
          else if peek then s.reply [] d 0
          else if !s.sbAcquired c n.val i 8 then s.stand form
          else
            let v := s.sbRawWord c n.val i f
            ((({ s with free := s.free + 1 } : State).sbDrop c n.val i f byCp 8 true).postWork c).reply [] d v
        else match s.sbHead c n.val i f byCp with
          | none => (s.sbAskPop c n.val i byCp).stand form
          | some x =>
            if peek then s.reply [] d (word x.side)
            else if !s.sbAcquired c n.val i 16 then s.stand form
            else ((s.sbDropFlit c n.val i f byCp x).postWork c).reply [] d x.pay

/-- `q.space` (R312). -/
def execQSpace (g : Guard) (d : Reg) (q : QUnit) (s : State) : Result :=
  cmdForm s (.qSpace g d q) g false [] (s.reply [] d (s.queueWord s.focus.val q s.cp.k.ctag false))

/-- `q.wait` (R311, R312): it stands until FILL or SPACE reaches A, and returns at once where that cannot happen. -/
def execQWait (g : Guard) (d : Reg) (q : QUnit) (a : Src) (space : Bool) (s : State) : Result :=
  let form := Instr.qWait g d q a space
  cmdForm s form g false [a] <|
    let c := s.focus.val
    let tag := s.cp.k.ctag
    let v := (s.cp.val a).toNat
    let test := fun (size fill : Nat) =>
      if size < v then s.reply [a] d (s.queueWord c q tag true)
      else if v ≤ (if space then size - fill else fill) then s.reply [a] d (s.queueWord c q tag false)
      else s.stand form
    match q with
    | .fq n => test 16 (s.fq c n.val).length
    | .sb n =>
      match s.sbAt c n.val tag with
      | none => s.stand form
      | some (i, f) => test (sbSize f) (s.sbuf c n.val i).fill

end Sys2Proof.Machine
end

