-- ==== Sys2Proof/Machine/Cache.lean ====
section
/-!
DEFINITION. The configuration cache (18 R366-R369): its blocks, and the fetch of instruction words.
-/
namespace Sys2Proof.Machine

/-- Block `n` of the cache. -/
def Cache.block (x : Cache) (n : Nat) : CBlock := tabGet .empty x.blocks n

/-- Block `n` replaced. -/
def Cache.setBlock (x : Cache) (n : Nat) (b : CBlock) : Cache := { x with blocks := tabSet .empty x.blocks n b }

/-- The first block that `p` accepts. -/
def Cache.find (x : Cache) (p : CBlock → Bool) : Option Nat := listFind (fun n => p (x.block n)) (rangeFrom 0 32)

/-- Block `n` becomes the most recently used. -/
def Cache.touch (x : Cache) (n : Nat) : Cache :=
  { x.setBlock n { x.block n with used := x.uses + 1 } with uses := x.uses + 1 }

/-- Word `n` of the block holds an uncorrectable error (R202). -/
def CBlock.wordBad (b : CBlock) (n : Nat) : Bool := tabGet .clean b.ecc n == .double

/-- A word of frame `n` of the block holds an uncorrectable error. -/
def CBlock.frameBad (b : CBlock) (n : Nat) : Bool := (rangeFrom (4 * n) 4).any b.wordBad

/-- A read of word `n` of block `m` corrects and counts a single-bit error (R202, R446). -/
def State.cacheRead (s : State) (c m n : Nat) : State :=
  let b := (s.core c).cache.block m
  if tabGet .clean b.ecc n = .single then
    (s.modCore c fun y => { y with cache := y.cache.setBlock m { b with ecc := tabSet .clean b.ecc n .clean } }).modDie
      (c / 96) Die.corrected
  else s

/-- A read of frame `n` of block `m`. -/
def State.cacheReadFrame (s : State) (c m n : Nat) : State :=
  (rangeFrom (4 * n) 4).foldl (fun s w => s.cacheRead c m w) s

/-- Bits 56:5 of an address (R367). -/
def dirVa (va : Nat) : BitVec 52 := BitVec.ofNat 52 (va / 32)

/-- The block holds the program page of `va` (R369). -/
def CBlock.isPage (b : CBlock) (va : Nat) : Bool := b.v && b.prog && b.va == dirVa (va / 4096 * 4096)

/-- The block that a fill replaces: an invalid one, else the least recently used that is not pinned (R366). -/
def Cache.victim (x : Cache) : Option Nat :=
  match x.find fun b => !b.v with
  | some n => some n
  | none =>
    (rangeFrom 0 32).foldl (fun best n =>
      if (x.block n).pin then best
      else match best with
        | none => some n
        | some m => if (x.block n).used < (x.block m).used then some n else some m) none

/-- The words of a list, as the table of a block. -/
def wordTab (l : List Word) : Tab Word := (l.zip (rangeFrom 0 l.length)).foldl (fun t p => tabSet 0 t p.2 p.1) []

/-- The 64-bit words of a list of bytes (R3). -/
def wordsOf : List Byte → Nat → List Word
  | _, 0 => []
  | l, n + 1 => word (leNat (l.take 8)) :: wordsOf (l.drop 8) n

/-- What fetching an instruction gives. -/
inductive Fetch where
  | word (w : Word) (block : Nat)
  | miss
deriving DecidableEq, Repr

/-- The instruction word at the program counter, from a resident program page (R369), unless its error cannot be corrected
(R202). -/
def State.fetch (s : State) (c : Nat) : Fetch :=
  let pc := (s.cpOf c).regs.pc.toNat
  if !canonical pc then .miss
  else match (s.core c).cache.find fun b => b.isPage pc with
    | some n =>
      if ((s.core c).cache.block n).wordBad (pc / 8 % 512) then .miss
      else .word (tabGet 0 ((s.core c).cache.block n).words (pc / 8 % 512)) n
    | none => .miss

/-- Why `n` bytes at `pa` lie beyond the reach of fills, streams and engines (R193-R195); the remote path reaches memory
alone (DESIGN CHOICE, log entry 21). -/
def State.pathFail (s : State) (pa n : Nat) : Option Fail :=
  if !offsetOk pa || !offsetOk (pa + n - 1) || diePart pa != diePart (pa + n - 1)
      || regionOf (paKind pa) == .mmio then some ⟨causeBound, word pa⟩
  else if regionOf (paKind pa) == .host && !(s.isOwn pa && s.inWindow (paOff pa) n) then some ⟨causeProt, word pa⟩
  else if !s.isOwn pa && !s.reaches (paPkg pa) then some ⟨causeRemote, word pa⟩
  else none

/-- Why `n` bytes at `pa` cannot be read by a fill (R194, R195, R369). -/
def State.fillFail (s : State) (pa n : Nat) : Option Fail :=
  match s.pathFail pa n with
  | some f => some f
  | none => if s.eccBad pa n then some ⟨causeEccu, word pa⟩ else none

/-- A fetch that fails (R369, R451): a trap of the instruction being fetched, with KTVAL its virtual address. The
fetch of a trap handler's first instruction stops the control processor as `halt` does and posts a record with
DOUBLE = 1. -/
def State.fetchFail (s : State) (c : Nat) (cause : BitVec 6) : State :=
  let x := s.cpOf c
  if x.ctl.entry then
    (s.modCpOf c fun x => { x with ctl := { x.ctl with halted := true, entry := false } }).post c
      { typ := 0, cause := cause, orig := originId c 0, resume := false, held := false, double := true,
        words := [x.regs.pc] }
  else s.modCpOf c fun x => x.raise cause x.regs.pc

/-- The page of the program counter is filled into the cache, or the fetch fails (R369). A page that stands there is not
fetched again: its word at the program counter holds an uncorrectable error (R202), and the fetch fails with ECCU
(DEDUCED, log entry 88). -/
def State.fillPage (s : State) (c : Nat) : State :=
  let x := s.cpOf c
  let va := x.regs.pc.toNat
  if canonical va && ((s.core c).cache.find fun b => b.isPage va).isSome then s.fetchFail c causeEccu
  else match s.translate c x.ctl.xroot va .fetch x.k.sys with
  | (s, .error f) => s.fetchFail c f.cause
  | (s, .ok pa) =>
    let page := pa / 4096 * 4096
    match s.fillFail page 4096 with
    | some f => s.fetchFail c f.cause
    | none =>
      match (s.core c).cache.victim with
      | none => s
      | some n =>
        let ws := wordTab (wordsOf (s.bytesAt page 4096) 512)
        (s.eccRead page 4096).modCore c fun y =>
          let k := y.cache
          let k := k.setBlock n
            { v := true, prog := true, pin := false, va := dirVa (va / 4096 * 4096), idx := 0, words := ws, ecc := [],
              used := 0 }
          { y with cache := k.touch n }

end Sys2Proof.Machine
end

