-- ==== Sys2Proof/Machine/Contexts.lean ====
section
/-!
DEFINITION. Configuration contexts (18 R361-R378): installs, demand fills, in-band records, and the forms of major 0x10
with `bar.cfg`.
-/
namespace Sys2Proof.Machine

/-! Installs. -/

/-- The node state that an install gives a slot (R363, R263, R289, R244, R430, R308). -/
def State.initNode (s : State) (c k i : Nat) (f : Frame) : State :=
  match keyKind k with
  | 0 => s.setPeSlot c k i .reset
  | 1 => s.setOpState c (k - 0x10) i
    { OpState.reset with exp := if fOp f = 6 then (rtParam f).extractLsb' 16 16 else 0 }
  | 2 => (s.setPort c k i .reset).modPortq c k fun q =>
    { q with reqs := q.reqs.filter fun r => r.slot != i, outs := q.outs.filter fun r => r.slot != i }
  | 4 => s.setCtl c (k - 0x20) i { Ctl.reset with rc := [fCtr f 0, fCtr f 1, fCtr f 2] }
  | 6 => s.modCluster (c / 12) fun x =>
    { x with
      plain := { x.plain with
        peSlots := tabSet .reset x.plain.peSlots (4 * (k - 512) + i) .reset
        owners := tabSet 0 x.plain.owners (4 * (k - 512) + i) ((s.cpOf c).k.first.toNat + 1) } }
  | 8 => s.setSbuf c (k - 0x40) i .reset
  | _ => s

/-- The owner of a Plain slot is another group (R395). -/
def State.otherOwner (s : State) (c k i : Nat) : Bool :=
  decide (512 ≤ k) && (s.slotAt c k i).v
    && tabGet 0 (s.cluster (c / 12)).plain.owners (4 * (k - 512) + i) != (s.cpOf c).k.first.toNat + 1

/-- Step 1 of R363 holds: nothing of the slot's old tag is resident, and nothing of the new tag in another slot. -/
def State.installReady (s : State) (c : Nat) (f : Frame) : Bool :=
  let k := fKey f
  let i := (fSlot f).toNat
  let old := s.slotAt c k i
  !s.otherOwner c k i
    && (!old.v || !s.resident c k old.ctag)
    && (match s.slotFor c k (fCtag f) with
      | some (j, _) => j == i || !s.resident c k (fCtag f)
      | none => true)

/-- Step 2 of R363. -/
def State.installWrite (s : State) (c : Nat) (f : Frame) : State :=
  let k := fKey f
  let i := (fSlot f).toNat
  let s := match s.slotFor c k (fCtag f) with
    | some (j, _) => if j = i then s else s.setSlotAt c k j { s.slotAt c k j with v := false }
    | none => s
  (s.setSlotAt c k i { v := true, ctag := fCtag f, frame := f, inst := (s.slotAt c k i).inst + 1 }).initNode c k i f

/-- The outputs on which a router frame places an initial token (R121). -/
def initOuts (f : Frame) : List Nat := if fKind f = 1 then maskOuts (fb f 193 187) else []

/-- The flits of a router frame's initial token (R121). -/
def initFlits (f : Frame) (orig : Nat) : List Flit :=
  match fb f 186 185 with
  | 1 => [mkFlit 1 (fCtag f) (hdrPay 0 orig 1 0 true false false) false false, mkFlit 3 (fCtag f) 0 false true]
  | 2 => [mkFlit 6 (fCtag f) (f.extractLsb' 64 64) false true]
  | _ => [mkFlit 0 (fCtag f) (f.extractLsb' 64 64) false true]

/-- The next flit of an initial token enters its output channel (R121, R247): the first where there is room for all of the
token. What is left of it is given back. -/
def State.placeToken (s : State) (c : Nat) (f : Frame) (p : Nat × Nat) : State × Option (Nat × Nat) :=
  let rt := fNode f - 0x10
  let l := initFlits f (originId c (fNode f))
  match s.target c rt p.1 (fCtag f), l[p.2]? with
  | some (d, k, depth), some x =>
    if s.room d k (depth + 1 - (l.length - p.2)) then
      (s.pushFrom d k (if 256 ≤ k then rt else chanRouter k) x none,
        if p.2 + 1 < l.length then some (p.1, p.2 + 1) else none)
    else (s, some p)
  | _, _ => (s, some p)

/-- Every initial token that is due places what it can in this cycle. -/
def State.placeTokens (s : State) (c : Nat) (f : Frame) : List (Nat × Nat) → State × List (Nat × Nat)
  | [] => (s, [])
  | p :: l =>
    let r := s.placeToken c f p
    let q := r.1.placeTokens c f l
    (q.1, match r.2 with
      | some p => p :: q.2
      | none => q.2)

/-- An install of a load has ended (R372): the load counts it, and is done after the last. -/
def State.loadStep (s : State) (c id : Nat) : State :=
  match listFind (fun l => l.id == id) (s.grid c).loads with
  | none => s
  | some l =>
    let l := { l with left := l.left - 1, count := l.count + 1 }
    if l.left = 0 then
      let s := s.modGrid c fun g => { g with loads := g.loads.filter fun x => x.id != id }
      match l.reg with
      | some r => s.deliver c r (word l.count)
      | none => s
    else s.modGrid c fun g => { g with loads := g.loads.map fun x => if x.id = id then l else x }

/-- Install i leaves the list, and the channel its record came from goes on (R375). -/
def State.endInstall (s : State) (c i : Nat) (x : Install) : State :=
  let s := s.modGrid c fun g =>
    { g with
      installs := g.installs.eraseIdx i
      collect := if x.via = 0 then g.collect else tabSet [] g.collect (x.via - 1) [] }
  if x.load = 0 then s else s.loadStep c x.load

/-- Commands by number have ended. -/
def Grid.ended (g : Grid) (ids : List Nat) : Bool :=
  ids.all fun id => !(g.loads.any fun l => l.id == id) && !(g.evicts.any fun e => e.id == id)
    && !(g.waits.any fun w => w.id == id) && !(g.inbands.any fun b => b.id == id)

/-- Step 1 of R363 is met for an install that waits in it. -/
def State.mayWrite (s : State) (c : Nat) (x : Install) : Bool :=
  !x.placed && s.installReady c x.frame

/-- The rank of an install among those that meet step 1 in one cycle (R365). -/
def InstallKind.rank : InstallKind → Nat
  | .bulk => 0
  | .inband => 1
  | .demand => 2

/-- The cores whose installs reach a node: those of the cluster for a Plain element (R361). -/
def coresAt (c k : Nat) : List Nat := if 512 ≤ k then rangeFrom (c / 12 * 12) 12 else [c]

/-- The cycle in which an install that meets step 1 met it, plus one. -/
def Install.metAt (x : Install) (cyc : Nat) : Nat := if x.met = 0 then cyc + 1 else x.met

/-- An install goes ahead of another at its node that meets step 1 (R365): the one that met it in an earlier cycle; of one
cycle bulk, then in band, then on demand; and of one kind the lower core and the older (DESIGN CHOICE, log entry 98). -/
def Install.ahead (cyc : Nat) (a b : Install × Nat × Nat) : Bool :=
  let key := fun (p : Install × Nat × Nat) => [p.1.metAt cyc, p.1.kind.rank, p.2.1, p.2.2]
  decide (key a ≤ key b)

/-- Install i goes ahead of every other at its node that meets step 1, and none is in step 3: installs at one node take effect
one at a time (R365). -/
def State.firstInstall (s : State) (c i : Nat) (x : Install) : Bool :=
  (coresAt c (fKey x.frame)).all fun n =>
    ((s.grid n).installs.zip (rangeFrom 0 (s.grid n).installs.length)).all fun p =>
      fKey p.1.frame != fKey x.frame
        || (!p.1.placed && (!s.mayWrite n p.1 || Install.ahead s.cyc (x, c, i) (p.1, n, p.2)))

/-- Step 3 of R363 in one cycle: install i, which is written, places what it can, and ends once nothing is left. -/
def State.goOnInstall (s : State) (c i : Nat) (x : Install) : State :=
  let r := s.placeTokens c x.frame x.tokens
  if r.2.isEmpty then r.1.endInstall c i x
  else r.1.modGrid c fun g => { g with installs := listSet g.installs i { x with placed := true, tokens := r.2 } }

/-- Install i goes on in this cycle: it is written once step 1 holds, and places its initial tokens, ahead of every flit under
its frame (R121). A demand fill whose tag a slot holds by then installs nothing. -/
def State.stepInstall (s : State) (c i : Nat) (x : Install) : State :=
  if x.placed then s.goOnInstall c i x
  else if !s.mayWrite c x || !s.firstInstall c i x then s
  else if x.kind == .demand && (s.slotFor c (fKey x.frame) (fCtag x.frame)).isSome then s.endInstall c i x
  else (s.installWrite c x.frame).goOnInstall c i { x with tokens := (initOuts x.frame).map fun o => (o, 0) }

/-- FRAME_INSTALL (R363-R365): install i of a core goes on. -/
def execFrameInstall (c : CoreIx) (i : Nat) (s : State) : Result :=
  match (s.grid c.val).installs[i]? with
  | none => .next s
  | some x => .next (s.stepInstall c.val i x)

/-- The installs of one kind from index i on go on, `n` at the most. -/
def State.installsOf (s : State) (c : Nat) (kind : InstallKind) (i : Nat) : Nat → State
  | 0 => s
  | n + 1 =>
    match (s.grid c).installs[i]? with
    | none => s
    | some x =>
      let t := if x.kind = kind then s.stepInstall c i x else s
      t.installsOf c kind (if (t.grid c).installs.length < (s.grid c).installs.length then i else i + 1) n

/-- Every install that can go on does so in the cycle in which it can (R363, R365). -/
def State.installsDue (s : State) (cs : List Nat) : State :=
  [InstallKind.bulk, .inband, .demand].foldl (fun (s : State) k =>
    cs.foldl (fun (s : State) c => s.installsOf c k 0 (s.grid c).installs.length) s) s

/-- The installs of a core that meet step 1 at the end of a cycle (R365). -/
def State.installsMet (s : State) (c : Nat) : State :=
  if (s.grid c).installs.isEmpty then s
  else s.modGrid c fun g =>
    { g with installs := g.installs.map fun x => { x with met := if s.mayWrite c x then x.metAt s.cyc else 0 } }

/-! Fills on demand. -/

/-- The frames of a block of the configuration cache (R366). -/
def CBlock.frames (b : CBlock) : List Frame :=
  (rangeFrom 0 128).map fun n =>
    frameOf (tabGet 0 b.words (4 * n)) (tabGet 0 b.words (4 * n + 1)) (tabGet 0 b.words (4 * n + 2))
      (tabGet 0 b.words (4 * n + 3))

/-- The frames of a block that belong to its image: those before and with the end-of-image frame. -/
def CBlock.imageFrames (b : CBlock) : List Frame :=
  let p := splitImage b.frames 128
  p.1

/-- Where a demand fill ends its search (R364), as block and frame: at the lowest image block, and within it the lowest
frame, that names the node and the tag or that cannot be read (R202). -/
def Cache.placeFor (x : Cache) (k : Nat) (tag : BitVec 8) : Option (Nat × Nat) :=
  (rangeFrom 0 32).foldl (fun r n =>
    let b := x.block n
    match r with
    | some p => some p
    | none =>
      if b.v && !b.prog then
        (listFind (fun (p : Nat × Frame) =>
          b.frameBad p.1 || (fCtag p.2 == tag && fKind p.2 == keyKind k && fKey p.2 == k))
          ((rangeFrom 0 128).zip b.imageFrames)).map fun p => (n, p.1)
      else none) none

/-- The frame that a demand fill finds (R364); none where its read meets an uncorrectable error (DEDUCED, log entry 88). -/
def Cache.frameFor (x : Cache) (k : Nat) (tag : BitVec 8) : Option Frame :=
  match x.placeFor k tag with
  | some (n, i) => if (x.block n).frameBad i then none else (x.block n).frames[i]?
  | none => none

/-- The read of the frame that a demand fill finds. -/
def State.readPlace (s : State) (c k : Nat) (tag : BitVec 8) : State :=
  match (s.core c).cache.placeFor k tag with
  | some (n, i) => s.cacheReadFrame c n i
  | none => s

/-- A demand fill or an in-band frame fails (R127, R455): a record names the node, and the trap's KTVAL is its origin
id. Work that needs the frame is withheld. -/
def State.frameFault (s : State) (c k : Nat) : State :=
  let o := keyOrig c k
  (s.post c { typ := 0, cause := causeCfgerr, orig := o, resume := false, held := true, double := false,
              words := [word o] }).pendNode c 0 (word o)

/-- Tokens of a tag at a node wait for a frame that failed (R127). -/
def State.withholdTag (s : State) (c k : Nat) (t : BitVec 8) : State :=
  s.modGrid c fun g => { g with withheld := if g.withheld.contains (k, t) then g.withheld else g.withheld ++ [(k, t)] }

/-- The tags of flits that wait at a node's inputs for a frame (R133, R364). -/
def State.waitingTags (s : State) (c k : Nat) : List (BitVec 8) :=
  let x := (s.cluster (c / 12)).plain
  let records :=
    if 512 ≤ k then (rangeFrom 0 3).flatMap fun n => (tabGet [] x.inputs (3 * (k - 512) + n)).filter fun r =>
      r.owner == (s.cpOf c).k.first.toNat
    else if k = 0x60 then tabGet [] x.outs (c % 12) else []
  (records.filterMap fun r => if (s.slotFor c k r.ctag).isSome then none else some r.ctag) ++
  (nodeInputs k).filterMap fun n =>
    match (s.chan c n).flits with
    | f :: _ =>
      let cfg := f.kind == 5 && (keyKind k != 1 || (tabGet 0 (s.grid c).mids n == 0 && cfgMine (k - 0x10) f))
      let token := decide (k < 0x10) && n == operandKey k 2 && s.tokensFrom c k f.ctag
      if cfg || f.sideBad || (s.slotFor c k f.ctag).isSome || token then none else some f.ctag
    | [] => none

/-- The nodes whose frames a stream needs (R503): its decider's buffer while it decides, and then its port's node and its
index buffer. -/
def Stream.needs (x : Stream) (ag : Nat) : List Nat :=
  let w := (x.record.extractLsb' 0 64 : Word)
  let port := bits w 26 5
  match x.phase, x.decider with
  | .deciding, some d => [0x40 + d.sb]
  | .running, _ =>
    (if x.konst.isSome ∧ 4 ≤ ag then [] else if port = 0 then [0x30 + ag] else [0x40 + port % 16])
      ++ (if w.getLsbD 31 then [0x40 + bits (x.record.extractLsb' 448 64 : Word) 32 4] else [])
  | _, _ => []

/-- The nodes whose frames an armed or copying template needs (R503): its own, and while it copies its generator's, its
destination buffer's and that of its fire token. -/
def Tpl.needs (x : Tpl) (n : Nat) : List Nat :=
  let src := (x.arm.record.extractLsb' 0 64 : Word)
  let dctl := (x.arm.record.extractLsb' 768 64 : Word)
  let fdst := bits src 40 6
  match x.phase, x.place with
  | .armed, _ => [0x50 + n]
  | .copying, some v =>
    [0x30 + v / 4] ++ (if bits dctl 9 2 = 1 ∨ (bits dctl 9 2 = 2 ∧ x.stage = 5) then [0x40 + bits dctl 11 4] else [])
      ++ (if 0x20 ≤ fdst then [0x40 + fdst % 16] else [])
  | _, _ => []

/-- What a cancelled stream has still to deliver needs a frame at a node. -/
def Tail.needs (x : Tail) (k : Nat) : Bool := k == 0x30 + (if x.port = 0 then x.ag else x.port)

/-- A fire token needs a frame at a node. -/
def FireTok.needs (x : FireTok) (k : Nat) : Bool := decide (0x20 ≤ x.dst) && k == 0x40 + x.dst % 16

/-- The tags for which work of the core's units needs a frame at a node (R503). -/
def State.unitTags (s : State) (c k : Nat) : List (BitVec 8) :=
  ((s.units c).streams.filterMap fun p => if (p.2.needs (p.1 / 4)).contains k then some p.2.ctag else none)
    ++ ((s.units c).tpls.filterMap fun p =>
      if (p.2.needs p.1).contains k then some p.2.arm.ctag else none)
    ++ ((s.units c).tails.filterMap fun x => if !x.lost && x.needs k then some x.ctag else none)
    ++ (s.units c).fires.filterMap fun x => if !x.lost && x.needs k then some x.ctag else none

/-- The tags for which the matrix unit, or a `tpl.fire` that stands at issue, needs a frame at a node (R315, R503). -/
def State.issueTags (s : State) (c k : Nat) : List (BitVec 8) :=
  (match (s.mx c).queue with
      | e :: _ => if k = 0x38 ∧ e.tok.isSome then [e.ctag] else []
      | [] => [])
    ++ (match (s.cpOf c).ctl.standing with
      | some ⟨.tplFire _ _ tm _, _⟩ =>
        if k = 0x50 + tm.val then
          [(s.tpl c tm.val).known.getD (s.cpOf c).k.ctag]
        else []
      | _ => [])

/-! Withholds of units (R455, R503). -/

/-- The terminal withhold of a stream (R293, R296, R297, R307, R503). -/
def State.streamBad (s : State) (c ag slot : Nat) : State :=
  ((s.setStream c ag slot { s.stream c ag slot with phase := .withheld, terminal := true }).postCfgerr c
    (0x30 + ag)).active c

/-- The terminal withhold of a template (R316, R503). -/
def State.tplBad (s : State) (c n : Nat) : State :=
  let t := s.tpl c n
  ((s.setTpl c n { t with phase := .withheld, terminal := true }).postCfgerr c
    (match t.place with
      | some v => 0x30 + v / 4
      | none => 0x50 + n)).active c

/-- The terminal withhold of a fire token (R503). -/
def State.fireBad (s : State) (c : Nat) (t : FireTok) : State :=
  (s.modUnits c fun u =>
    { u with fires := u.fires.map fun x => if x = t then { x with lost := true } else x }).postCfgerr c (0x30 + t.ag)

/-- The terminal withhold of what a cancelled stream has still to deliver (R503). -/
def State.tailBad (s : State) (c : Nat) (t : Tail) : State :=
  (s.modUnits c fun u =>
    { u with tails := u.tails.map fun x => if x = t then { x with lost := true } else x }).postCfgerr c (0x30 + t.ag)

/-- The work of units that waits for a frame at a node in a tag is withheld (R503). -/
def State.withholdUnits (s : State) (c k : Nat) (t : BitVec 8) : State :=
  let u := s.units c
  let s := u.streams.foldl (fun (s : State) p =>
    if p.2.ctag == t && (p.2.needs (p.1 / 4)).contains k then s.streamBad c (p.1 / 4) (p.1 % 4) else s) s
  let s := u.tpls.foldl (fun (s : State) p =>
    if p.2.arm.ctag == t && (p.2.needs p.1).contains k then s.tplBad c p.1 else s) s
  let s := (u.tails.filter fun x => !x.lost && x.needs k && x.ctag == t).foldl (fun (s : State) x => s.tailBad c x) s
  (u.fires.filter fun x => !x.lost && x.needs k && x.ctag == t).foldl (fun (s : State) x => s.fireBad c x) s

/-- A demand fill fails (R127, R503): flits that waited for it stay, with a record; work of a unit that waited for it is
withheld with a record of its own, and the node raises the trap alone. -/
def State.fillFault (s : State) (c k : Nat) (t : BitVec 8) : State :=
  let flits := (s.waitingTags c k).contains t && !s.isWithheld c k t
  let s := if flits then s.frameFault c k else s.pendNode c 0 (word (keyOrig c k))
  let s := if flits || (s.issueTags c k).contains t then s.withholdTag c k t else s
  s.withholdUnits c k t

/-- A tag for which a flit, a record or work of a unit waits at a node for a frame that nothing fetches yet (R39, R364). -/
def State.fillDue (s : State) (c k : Nat) : Option (BitVec 8) :=
  listFind (fun t =>
    (s.slotFor c k t).isNone
      && !((s.grid c).installs.any fun x => x.kind == .demand && fKey x.frame == k && fCtag x.frame == t))
    (((s.waitingTags c k ++ s.issueTags c k).filter fun t => !s.isWithheld c k t) ++ s.unitTags c k)

/-- DEMAND_FILL (R364): a node fetches from the configuration cache the frame that a waiting flit or transfer needs. -/
def execDemandFill (c : CoreIx) (node : NodeId) (s : State) : Result :=
  let k := nodeKey node
  match s.fillDue c.val k with
  | none => .next s
  | some t =>
    let s := (s.count c.val 9 1).active c.val
    match (s.core c.val).cache.frameFor k t with
    | some f =>
      if frameOk f && fKind f != 15 then
        .next ((s.readPlace c.val k t).modGrid c.val fun g =>
          { g with installs := g.installs ++
              [{ frame := f, kind := .demand, load := 0, via := 0, src := 0, met := 0, placed := false, tokens := [] }] })
      else .next (s.fillFault c.val k t)
    | none => .next (s.fillFault c.val k t)

/-! In-band records (CONFIG_RECORD is in Forward.lean). -/

/-- The channel's next configuration flit is taken into its record (R375); a payload error, or a CTAG that is not the frame's,
fails it (R131, R132). What a mode-2 evict has left of a record is no frame and is discarded at its last flit (R373). -/
def State.collectFlit (s : State) (c kk : Nat) (f : Flit) : State :=
  let old := tabGet [] (s.grid c).collect kk
  let l := old ++ [f]
  let tag := match l with
    | h :: _ => bits h.pay 40 8
    | [] => 0
  let bad := f.payBad || tag != f.ctag.toNat
  let cut := f.last && decide (l.length < 4)
  (s.popChan c kk).modGrid c fun g =>
    { g with
      collect := tabSet [] g.collect kk (if cut then [] else l)
      badCfg := if cut then g.badCfg.filter fun x => x != kk else if bad then g.badCfg ++ [kk] else g.badCfg }

/-- A frame of `cfg.inband` has failed: its core keeps it for `bar.cfg` (R378). -/
def State.noteInband (s : State) (src : Nat) : State :=
  if src = 0 then s
  else s.modGrid ((src - 1) / 8) fun g => { g with fails := g.fails ++ [.inband ((src - 1) % 8)] }

/-- A whole record stands at an input (R375): its frame is installed, or fails for the node it names (R127), whose tokens of
its tag then wait; `mine` says that it names the node that collected it, and any other is discarded. -/
def State.recordDone (s : State) (c k kk : Nat) (mine : Frame → Bool) : State :=
  let l := tabGet [] (s.grid c).collect kk
  let w := l.map fun x => x.pay
  let src := match l with
    | h :: _ => h.src
    | [] => 0
  let f := frameOf (listGet 0 w 3) (listGet 0 w 2) (listGet 0 w 1) (listGet 0 w 0)
  let clear := fun (s : State) => (s.modGrid c fun g =>
    { g with collect := tabSet [] g.collect kk [], badCfg := g.badCfg.filter fun x => x != kk }).active c
  if (s.grid c).badCfg.contains kk || (mine f && !(frameOk f && fKind f != 15)) then
    let n := if mine f then fKey f else k
    let s := (clear (s.frameFault c n)).noteInband src
    if (s.slotFor c n (fCtag f)).isSome then s else s.withholdTag c n (fCtag f)
  else if !mine f then clear s
  else if (s.grid c).installs.any fun x => x.via == kk + 1 then s
  else (s.modGrid c fun g =>
    { g with installs := g.installs ++
        [{ frame := f, kind := .inband, load := 0, via := kk + 1, src := src, met := 0, placed := false, tokens := [] }] }).active c

/-! Images. -/

/-- A configuration status word (R371). -/
def cfgStatus (status reason count : Nat) : Word := word (status * 2 ^ 62 + reason % 64 * 2 ^ 56 + count % 2 ^ 16)

/-- The frames of a resident image before its end-of-image frame, block after block (R366, R368). -/
def Cache.imageAt (x : Cache) (va idx : Nat) : Nat → List Frame
  | 0 => []
  | n + 1 =>
    match x.find fun b => b.v && !b.prog && b.va == dirVa (va + 4096 * idx) && b.idx.toNat == idx with
    | none => []
    | some m =>
      let p := splitImage (x.block m).frames 128
      match p.2 with
      | some _ => p.1
      | none => p.1 ++ x.imageAt va (idx + 1) n

/-- The block that holds frame `i` of the image at `va`. -/
def Cache.frameBlock (x : Cache) (va i : Nat) : Option Nat :=
  x.find fun b => b.v && !b.prog && b.va == dirVa (va + i / 128 * 4096) && b.idx.toNat == i / 128

/-- The first of `n` frames of a resident image that cannot be read (R202). -/
def Cache.imageBad (x : Cache) (va n : Nat) : Option Nat :=
  listFind (fun i => match x.frameBlock va i with
    | some m => (x.block m).frameBad (i % 128)
    | none => false) (rangeFrom 0 n)

/-- The read of `n` frames of a resident image. -/
def State.imageRead (s : State) (c va n : Nat) : State :=
  (rangeFrom 0 n).foldl (fun s i => match (s.core c).cache.frameBlock va i with
    | some m => s.cacheReadFrame c m (i % 128)
    | none => s) s

/-- An image is resident (R368). -/
def Cache.hasImage (x : Cache) (va : Nat) : Bool :=
  (x.find fun b => b.v && !b.prog && b.idx == 0 && b.va == dirVa va).isSome

/-- The frames read from memory until the end-of-image frame (R372); no failure is named where a walk has to wait for a CP
store issued earlier (R386), which `waits` says may be; `sys` is the mode captured at issue (R383). -/
def State.readImage (s : State) (c va : Nat) (waits sys : Bool) : Nat → State × Except (Option Fail) (List Frame)
  | 0 => (s, .error (some ⟨causeCfgerr, 4096⟩))
  | n + 1 =>
    if waits && s.walkWaits c va then (s, .error none)
    else match s.translate c (s.cpOf c).ctl.xroot va .read sys with
    | (s, .error f) => (s, .error (some f))
    | (s, .ok pa) =>
      match s.fillFail pa 32 with
      | some f => (s, .error (some f))
      | none =>
        let w := wordsOf (s.bytesAt pa 32) 4
        let f := frameOf (listGet 0 w 0) (listGet 0 w 1) (listGet 0 w 2) (listGet 0 w 3)
        let s := s.eccRead pa 32
        if fKind f = 15 then (s, .ok [f])
        else match s.readImage c (va + 32) waits sys n with
          | (s, .ok l) => (s, .ok (f :: l))
          | (s, .error e) => (s, .error e)

/-- The words of a frame at rising addresses (R113). -/
def frameWords (f : Frame) : List Word :=
  [f.extractLsb' 0 64, f.extractLsb' 64 64, f.extractLsb' 128 64, f.extractLsb' 192 64]

/-- An image is placed and pinned, 128 frames to a block (R366). -/
def Cache.placeImage (x : Cache) (va idx : Nat) (fs : List Frame) : Nat → Cache
  | 0 => x
  | n + 1 =>
    if fs.isEmpty then x
    else match x.victim with
      | none => x
      | some m =>
        let b : CBlock :=
          { v := true, prog := false, pin := true, va := dirVa (va + 4096 * idx), idx := BitVec.ofNat 5 idx,
            words := wordTab ((fs.take 128).flatMap frameWords), ecc := [], used := 0 }
        ((x.setBlock m b).touch m).placeImage va (idx + 1) (fs.drop 128) n

/-- The blocks that images occupy (R366). -/
def Cache.imageBlocks (x : Cache) : Nat := ((rangeFrom 0 32).filter fun n => (x.block n).v && !(x.block n).prog).length

/-- What comes of a configuration command's reads: they wait for a CP store (R386), they end in a status word, or they go
on. -/
inductive CfgEnd (α : Type) where
  | wait
  | ends (s : State) (w : Word)
  | goes (s : State) (a : α)

/-- `cfg_fetch` of R372: the frames before the end-of-image frame, or the status word. A fill waits for the stores that a
`fence.cfg` before it orders (R211). -/
def State.cfgFetch (s : State) (c va : Nat) (sys : Bool) : CfgEnd (List Frame) :=
  if va % 32 ≠ 0 then .ends s (cfgStatus 1 0x04 0)
  else if (s.core c).cache.hasImage va then .goes s ((s.core c).cache.imageAt va 0 32)
  else if (s.cpOf c).fillsHeld then .wait
  else match s.readImage c va true sys 4096 with
  | (_, .error none) => .wait
  | (s, .error (some e)) => .ends s (cfgStatus 2 e.cause.toNat 0)
  | (s, .ok l) =>
    if 30 < (s.core c).cache.imageBlocks + (l.length + 127) / 128 then .ends s (cfgStatus 1 0x0B 0)
    else .goes (s.modCore c fun y => { y with cache := y.cache.placeImage va 0 l 32 }) l.dropLast

/-- The node of a unit, none for core (R106). -/
def unitNode : CfgUnit → Option (BitVec 8)
  | .node id => some id
  | .core => none

/-- Two units have a node in common. -/
def unitsMeet (a b : Option (BitVec 8)) : Bool := a.isNone || b.isNone || a == b

/-- The unit of a `cfg.inband`: its generator. -/
def InbandCmd.unit (b : InbandCmd) : Option (BitVec 8) := some (BitVec.ofNat 8 (0x30 + b.ag))

/-- The commands that have not ended and whose unit meets this one (R370). -/
def Grid.before (g : Grid) (u : Option (BitVec 8)) : List Nat :=
  ((g.loads.filter fun l => unitsMeet l.node u).map fun l => l.id)
    ++ ((g.evicts.filter fun e => unitsMeet e.node u).map fun e => e.id)
    ++ ((g.waits.filter fun w => unitsMeet w.node u).map fun w => w.id)
    ++ ((g.inbands.filter fun b => unitsMeet b.unit u).map fun b => b.id)

/-- A frame's node lies in a unit; Plain frames belong to core alone (R372). -/
def inUnit (u : Option (BitVec 8)) (f : Frame) : Bool :=
  match u with
  | none => true
  | some id => fKind f != 6 && fNode f == id.toNat

/-- The frames of a valid image are submitted for installing (R363, R372); `reg` receives their number. -/
def State.submitLoad (s : State) (c : Nat) (u : Option (BitVec 8)) (fs : List Frame) (reg : Option Reg) : State :=
  let fs := fs.filter (inUnit u)
  s.modGrid c fun g =>
    let id := g.nextLoad + 1
    { g with
      nextLoad := id
      loads := g.loads ++ [{ id := id, node := u, reg := reg, left := fs.length, count := 0 }]
      installs := g.installs ++ fs.map fun f =>
        { frame := f, kind := .bulk, load := id, via := 0, src := 0, met := 0, placed := false, tokens := [] } }

/-- A load fails its validation, or finds no end-of-image frame (R127, R372). -/
def State.loadFault (s : State) (c index : Nat) : State := s.pendTrap c causeCfgerr (word index)

/-- A failed load is kept for `bar.cfg` (R378). -/
def State.noteFail (s : State) (c : Nat) (u : Option (BitVec 8)) : State :=
  s.modGrid c fun g => { g with fails := g.fails ++ [.bulk u] }

/-- The lower of two failing indexes (R127). -/
def lowerFail (a b : Option Nat) : Option Nat :=
  match a, b with
  | some i, some j => some (min i j)
  | some i, none => some i
  | none, r => r

/-- The frames of a resident image are validated and submitted (R126, R372): a load that fails, or installs nothing, ends. -/
def State.loadFrames (s : State) (c va : Nat) (u : Option (BitVec 8)) (reg : Option Reg) (fs : List Frame) : CfgEnd Unit :=
  let fin : Frame := BitVec.ofNat 256 (15 * 2 ^ 252 + fs.length * 2 ^ 208)
  let fin := match (s.core c).cache.frameBlock va fs.length with
    | some m => ((s.core c).cache.block m).frames[fs.length % 128]?.getD fin
    | none => fin
  let bad := lowerFail ((s.core c).cache.imageBad va (fs.length + 1)) (imageFail fs fin)
  let s := s.imageRead c va (fs.length + 1)
  match bad with
  | some i => .ends ((s.noteFail c u).loadFault c i) (cfgStatus 2 causeCfgerr.toNat 0)
  | none =>
    if (fs.filter (inUnit u)).isEmpty then .ends s (cfgStatus 0 0 0)
    else .goes (s.submitLoad c u fs reg) ()

/-- `cfg_load` of R372: a missing end-of-image frame takes the trap of R127. -/
def State.cfgLoad (s : State) (c va : Nat) (sys : Bool) (u : Option (BitVec 8)) (reg : Option Reg) : CfgEnd Unit :=
  match s.cfgFetch c va sys with
  | .wait => .wait
  | .goes s fs => s.loadFrames c va u reg fs
  | .ends s w =>
    if w = cfgStatus 2 causeCfgerr.toNat 0 then .ends ((s.noteFail c u).loadFault c 4096) w
    else if bits w 62 2 = 2 then .ends (s.noteFail c u) w
    else .ends s w

/-- An in-band image that cannot be read fails for its generator (R127, R202, R378). -/
def State.inbandFail (s : State) (c ag : Nat) : State :=
  s.modGrid c fun g => { g with fails := g.fails ++ [.inband ag] }

/-- The words of a frame as configuration flits carry them, first to last, with its CTAG (R132). -/
def inbandWords (f : Frame) : List (Word × BitVec 8) := (frameWords f).reverse.map fun w => (w, fCtag f)

/-- The emission of `cfg.inband` of a resident image begins (R374), at place `order`; a frame of it that cannot be read fails
the command (DEDUCED, log entry 88). -/
def State.inbandFrames (s : State) (c va ag : Nat) (tag : BitVec 8) (order : Nat) (d : Reg) (fs : List Frame) :
    CfgEnd Unit :=
  if (s.slotFor c (0x30 + ag) tag).isNone then .ends s (cfgStatus 1 0x0E 0)
  else if fs.any fun f => !(decide (fKind f ≤ 3) || fKind f == 7) then .ends s (cfgStatus 1 0x05 0)
  else if fs.isEmpty then .ends s (cfgStatus 0 0 0)
  else match (s.core c).cache.imageBad va fs.length with
  | some i => .ends ((s.inbandFail c ag).loadFault c i) (cfgStatus 2 causeCfgerr.toNat 0)
  | none =>
    let s := s.imageRead c va fs.length
    .goes (s.modGrid c fun g =>
      { g with
        nextLoad := g.nextLoad + 1
        inbands := g.inbands ++
          [{ id := g.nextLoad + 1, ag := ag, tag := tag, words := fs.flatMap inbandWords, frames := fs.length, reg := d,
             order := order }] }) ()

/-- `cfg_inband` (R374): the image is made resident first. -/
def State.cfgInband (s : State) (c va : Nat) (sys : Bool) (ag : Nat) (tag : BitVec 8) (order : Nat) (d : Reg) :
    CfgEnd Unit :=
  match s.cfgFetch c va sys with
  | .wait => .wait
  | .ends s w => .ends s w
  | .goes s fs => s.inbandFrames c va ag tag order d fs

/-- Mode 0 of `cfg.evict` (R373): the blocks of the image at A, and any program page that contains A. -/
def Cache.evict (x : Cache) (va : Nat) : Cache × Nat :=
  let f := (x.imageAt va 0 32).length
  let mine := fun (b : CBlock) =>
    (b.v && !b.prog && x.hasImage va && decide (b.idx.toNat * 128 ≤ f)
      && b.va == dirVa (va + 4096 * b.idx.toNat)) || b.isPage va
  let l := (rangeFrom 0 32).filter fun n => mine (x.block n)
  (l.foldl (fun x n => x.setBlock n .empty) x, l.length)

/-- Mode 0 of `cfg.evict`: it is refused where no block holds A. -/
def State.cfgEvict (s : State) (c va : Nat) : CfgEnd Unit :=
  let p := (s.core c).cache.evict va
  if p.2 = 0 then .ends s (cfgStatus 1 0x0C 0)
  else .ends (s.modCore c fun y => { y with cache := p.1 }) (cfgStatus 0 0 p.2)

/-- What a configuration command does once the commands before it have ended (R370). -/
def State.cfgRun (s : State) (c : Nat) (what : CfgWhat) (u : Option (BitVec 8)) (va : Nat) (sys : Bool) (d : Reg) :
    CfgEnd Unit :=
  match what with
  | .fetch =>
    match s.cfgFetch c va sys with
    | .wait => .wait
    | .ends s w => .ends s w
    | .goes s fs => .ends s (cfgStatus 0 0 fs.length)
  | .load => s.cfgLoad c va sys u (some d)
  | .evict => s.cfgEvict c va
  | .inband ag tag order => s.cfgInband c va sys ag tag order d

/-- A configuration command joins those that wait for earlier ones to its unit (R370). -/
def State.cfgQueue (s : State) (c : Nat) (what : CfgWhat) (u : Option (BitVec 8)) (va : Nat) (d : Reg) : State :=
  s.modGrid c fun g =>
    { g with
      nextLoad := g.nextLoad + 1
      waits := g.waits ++
        [{ id := g.nextLoad + 1, what := what, node := u, va := va, sys := (s.cpOf c).k.sys, reg := d, after := g.before u }] }

/-- A `cfg.inband` has its place among the generator's commands; the next command takes the next place. -/
def State.takePlace (s : State) (c : Nat) (what : CfgWhat) : State :=
  match what with
  | .inband _ _ _ => s.modUnits c fun x => { x with next := x.next + 1 }
  | _ => s

/-- The first configuration command that waits no more takes effect (R370). -/
def State.cfgDue (s : State) (c : Nat) : State :=
  match listFind (fun w => (s.grid c).ended w.after) (s.grid c).waits with
  | none => s
  | some w =>
    let drop := fun (s : State) => s.modGrid c fun g => { g with waits := g.waits.filter fun x => x.id != w.id }
    match s.cfgRun c w.what w.node w.va w.sys w.reg with
    | .wait => s
    | .ends t v => ((drop t).deliver c w.reg v).active c
    | .goes t _ => (drop t).active c

/-- A configuration command at issue (R370, R371): it takes effect at once, or behind the commands to its unit that have not
ended. One that is refused posts no work. -/
def State.cfgIssue (s : State) (what : CfgWhat) (u : Option (BitVec 8)) (a : Src) (d : Reg) : Result :=
  let c := s.focus.val
  let va := (s.cp.val a).toNat
  if !((s.grid c).before u).isEmpty then
    .next ((((s.cfgQueue c what u va d).takePlace c what).postWork c).posted [a] d false)
  else match s.cfgRun c what u va s.cp.k.sys d with
  | .wait => .next s
  | .ends t w => if bits w 62 2 = 1 then t.reply [a] d w else (t.postWork c).reply [a] d w
  | .goes t _ => .next (((t.takePlace c what).postWork c).posted [a] d false)

/-- `cfg.fetch` (R372). -/
def execCfgFetch (g : Guard) (d : Reg) (u : CfgUnit) (a : Src) (s : State) : Result :=
  cmdForm s (.cfgFetch g d u a) g false [a] (s.cfgIssue .fetch (unitNode u) a d)

/-- `cfg.load` (R372). -/
def execCfgLoad (g : Guard) (d : Reg) (u : CfgUnit) (a : Src) (s : State) : Result :=
  cmdForm s (.cfgLoad g d u a) g false [a] (s.cfgIssue .load (unitNode u) a d)

/-! Evicting. -/

/-- The keys of the nodes in a unit (R372, R373); with core, the Plain slots of the group too. -/
def State.unitKeys (s : State) (c : Nat) (u : Option (BitVec 8)) : List Nat :=
  match u with
  | none =>
    rangeFrom 0 0x39 ++ rangeFrom 0x40 33 ++ rangeFrom 256 16
      ++ (rangeFrom 512 128).filter fun k => (rangeFrom 0 4).any fun i => (s.slotAt c k i).v && !s.otherOwner c k i
  | some id =>
    let n := id.toNat
    if 0x28 ≤ n ∧ n < 0x2C then rangeFrom (256 + 4 * (n - 0x28)) 4 else [n]

/-- The slots of a unit that hold a tag, as 4 * node + slot. -/
def State.tagSlots (s : State) (c : Nat) (u : Option (BitVec 8)) (t : BitVec 8) : List Nat :=
  (s.unitKeys c u).filterMap fun k => (s.slotFor c k t).map fun p => 4 * k + p.1

/-- The flits of a tag are discarded from a channel. -/
def State.dropTag (s : State) (c k : Nat) (t : BitVec 8) : State :=
  if (s.chan c k).holdsTag t || (s.chan c k).part.any fun p => p.2 == t then
    s.modChan c k fun x => x.dropTag t
  else s

/-- What an input of a node has taken of a configuration record of a tag, or has forwarded of one, is forgotten (R373). -/
def State.dropRecord (s : State) (c k : Nat) (t : BitVec 8) : State :=
  let got := match tabGet [] (s.grid c).collect k with
    | h :: _ => h.ctag == t
    | [] => false
  let sent := (tabGet 0 (s.grid c).mids k) / 4 == t.toNat + 1
  if got || sent then s.modGrid c fun g =>
    { g with
      collect := if got then tabSet [] g.collect k [] else g.collect
      badCfg := if got then g.badCfg.filter fun x => x != k else g.badCfg
      mids := if sent then tabSet 0 g.mids k 0 else g.mids }
  else s

/-- Every flit and item of node state that R362 lists for a tag is discarded at a node (R373). -/
def State.discardTag (s : State) (c k i : Nat) (t : BitVec 8) : State :=
  let s := (nodeInputs k).foldl (fun s n => (s.dropRecord c n t).dropTag c n t) s
  let s := match keyKind k with
    | 0 =>
      let p := s.pe c k
      let mine := match p.job with
        | some j => j.ctag == t
        | none => false
      s.setPe c k { job := if mine then none else p.job, stopped := p.stopped && !s.isWithheld c k t }
    | 5 =>
      let s := (rangeFrom 0 16).foldl (fun (s : State) pe =>
        if s.tokensFrom c pe t then s.dropTag c (operandKey pe 2) t else s) s
      let m := s.mx c
      let first := match m.queue with
        | e :: _ => e.tok.isSome && e.ctag == t
        | [] => false
      s.setMx c { m with
        queue := m.queue.filter fun e => e.tok.isNone || e.ctag != t
        op := if first then none else m.op
        out := if first then none else m.out }
    | 6 => s.modCluster (c / 12) fun x =>
      { x with
        plain := { x.plain with
          inputs := (rangeFrom 0 3).foldl (fun l n =>
            tabSet [] l (3 * (k - 512) + n) ((tabGet [] l (3 * (k - 512) + n)).filter fun r =>
              r.ctag != t || r.owner != (s.cpOf c).k.first.toNat))
            x.plain.inputs
          stopped := x.plain.stopped.filter fun e => e != 1024 * (s.cpOf c).k.first.toNat + (k - 512) } }
    | 7 => s.modCluster (c / 12) fun x =>
      { x with
        plain := { x.plain with
          outs := tabSet [] x.plain.outs (c % 12) ((tabGet [] x.plain.outs (c % 12)).filter fun r => r.ctag != t)
          leaving := tabSet [] x.plain.leaving (c % 12)
            ((tabGet [] x.plain.leaving (c % 12)).filter fun f => f.ctag != t)
          links := x.plain.links.filter fun f => !(f.dst == 128 + c % 12 && f.begun && f.body.ctag == t)
          entering := tabSet none x.plain.entering (c % 12) (match tabGet none x.plain.entering (c % 12) with
            | some p => if p.2.1 = t then none else some p
            | none => none) } }
    | _ => s
  let f := (s.slotAt c k i).frame
  (s.initNode c k i f).modGrid c fun g => { g with withheld := g.withheld.filter fun p => p != (k, t) }

/-- A slot is cleared. -/
def State.clearSlot (s : State) (c k i : Nat) : State := s.setSlotAt c k i { s.slotAt c k i with v := false }

/-- An evict has ended (R371, R373). -/
def State.endEvict (s : State) (c : Nat) (e : EvictCmd) : State :=
  (s.modGrid c fun g => { g with evicts := g.evicts.filter fun x => x.id != e.id }).deliver c e.reg
    (cfgStatus 0 0 e.count)

/-- EVICT_DRAIN_CLEAR (R373): evict i clears a slot that still holds its tag once no token of it is resident, or, in mode 2,
every slot at once after what it discards. -/
def execEvictDrainClear (c : CoreIx) (i : Nat) (s : State) : Result :=
  match (s.grid c.val).evicts[i]? with
  | none => .next s
  | some e =>
    if !(s.grid c.val).ended e.after then .next s
    else
      let slots := (e.slots.getD (s.tagSlots c.val e.node e.tag)).filter fun k =>
        (s.slotAt c.val (k / 4) (k % 4)).v && (s.slotAt c.val (k / 4) (k % 4)).ctag == e.tag
      let put := fun (s : State) (e : EvictCmd) =>
        s.modGrid c.val fun g => { g with evicts := listSet g.evicts i e }
      if e.discard then
        let s := slots.foldl (fun s k => (s.discardTag c.val (k / 4) (k % 4) e.tag).clearSlot c.val (k / 4) (k % 4)) s
        .next (s.endEvict c.val { e with count := slots.length })
      else match listFind (fun k => !s.resident c.val (k / 4) e.tag) slots with
      | some k =>
        let e := { e with slots := some (slots.filter fun x => x != k), count := e.count + 1 }
        let s := s.clearSlot c.val (k / 4) (k % 4)
        if (slots.filter fun x => x != k).isEmpty then .next (s.endEvict c.val e) else .next (put s e)
      | none =>
        if slots.isEmpty then .next (s.endEvict c.val e)
        else if e.slots.isSome then .next s
        else .next (put s { e with slots := some slots })

/-- `cfg.evict` (R373). -/
def execCfgEvict (g : Guard) (d : Reg) (u : CfgUnit) (a : Src) (mode : BitVec 2) (tag : BitVec 8) (s : State) : Result :=
  cmdForm s (.cfgEvict g d u a mode tag) g false [a] <|
    let c := s.focus.val
    match mode.toNat with
    | 0 => if u != .core then s.reply [a] d (cfgStatus 1 0x05 0) else s.cfgIssue .evict none a d
    | 3 => s.reply [a] d (cfgStatus 1 0x05 0)
    | m =>
      let after := (s.grid c).before (unitNode u)
      let s := s.modGrid c fun g =>
        { g with
          nextLoad := g.nextLoad + 1
          evicts := g.evicts ++
            [{ id := g.nextLoad + 1, node := (unitNode u), discard := m == 2, slots := none, tag := tag, reg := d, count := 0,
               after := after }] }
      .next ((s.postWork c).posted [a] d false)

/-! The other forms. -/

/-- `cfg.inband` (R374): it takes its place among the generator's commands at issue. -/
def execCfgInband (g : Guard) (d : Reg) (ag : Fin 4) (a : Src) (s : State) : Result :=
  cmdForm s (.cfgInband g d ag a) g false [a] <|
    let c := s.focus.val
    s.cfgIssue (.inband ag.val s.cp.k.ctag (s.units c).next)
      (some (BitVec.ofNat 8 (0x30 + ag.val))) a d

/-- The key of a node handle, with a port for a memory tile (R376). -/
def handleKey (id : Nat) (port : Nat) : Nat := if 0x28 ≤ id ∧ id < 0x2C then 256 + 4 * (id - 0x28) + port else id

/-- A directory entry (R367). -/
def CBlock.dirWord (b : CBlock) : Word :=
  if b.v then word (2 ^ 63 + (boolWord b.prog).toNat * 2 ^ 62 + (boolWord b.pin).toNat * 2 ^ 61
    + b.va.toNat * 2 ^ 5 + b.idx.toNat) else 0

/-- The context-slot word (R376). -/
def State.slotWord (s : State) (c k i : Nat) : Word :=
  let x := s.slotAt c k i
  let busy := x.v && s.resident c k x.ctag
  let pend := (s.grid c).installs.any fun y => !y.placed && fKey y.frame == k && (fSlot y.frame).toNat == i
  word ((boolWord x.v).toNat * 2 ^ 63 + (boolWord busy).toNat * 2 ^ 62 + (boolWord pend).toNat * 2 ^ 61
    + x.ctag.toNat * 2 ^ 32 + x.inst.toNat)

/-- `cfg.probe` (R376): it reads at issue. -/
def execCfgProbe (g : Guard) (d : Reg) (u : CfgUnit) (sel : BitVec 7) (s : State) : Result :=
  cmdForm s (.cfgProbe g d u sel) g false [] <|
    let c := s.focus.val
    match u with
    | .core => s.reply [] d ((s.core c).cache.block (sel.toNat % 32)).dirWord
    | .node id =>
      let k := handleKey id.toNat (sel.toNat / 32)
      let i := sel.toNat % 4
      if sel.getLsbD 4 then s.reply [] d (s.slotWord c k i)
      else
        let x := s.slotAt c k i
        s.reply [] d (if x.v then listGet 0 (frameWords x.frame).reverse (sel.toNat / 4 % 4) else 0)

/-- `cfg.tag` (R377): KCTX changes in the cycle of issue. -/
def execCfgTag (g : Guard) (d : Reg) (tag : BitVec 8) (s : State) : Result :=
  cmdForm s (.cfgTag g d tag) g false [] <|
    .next (s.complete [] fun x => { x.put d (x.k.ctag.setWidth 64) with k := { x.k with ctag := tag } })

/-- The generators that a unit names, for in-band images (R378). -/
def unitAgs (u : Option (BitVec 8)) : List Nat :=
  match u with
  | none => rangeFrom 0 4
  | some id => if 0x30 ≤ id.toNat ∧ id.toNat < 0x34 then [id.toNat - 0x30] else []

/-- A frame that `cfg.inband` has emitted through a generator of core c is neither installed nor discarded yet: it stands in
some grid, or its install has not ended (R378). -/
def State.inbandOpen (s : State) (c ag : Nat) : Bool :=
  let src := 8 * c + ag + 1
  s.cores.any fun (p : Nat × Core) =>
    (p.2.grid.chans.any fun q => q.2.flits.any fun f => f.kind == 5 && f.src == src)
      || (p.2.grid.collect.any fun q => q.2.any fun f => f.src == src)
      || p.2.grid.installs.any fun x => x.src == src

/-- The loads and evicts of a unit have ended, and its in-band frames are installed or discarded (R378). -/
def State.cfgSettled (s : State) (c : Nat) (u : Option (BitVec 8)) : Bool :=
  let g := s.grid c
  !(g.loads.any fun l => unitsMeet l.node u) && !(g.evicts.any fun e => unitsMeet e.node u)
    && !(g.waits.any fun w => w.what != .fetch && unitsMeet w.node u)
    && (unitAgs u).all fun n =>
      !(g.inbands.any fun x => x.ag == n) && !s.inbandOpen c n

/-- The failures that a `bar.cfg` of a unit reports (R378). -/
def failCovered (u : Option (BitVec 8)) (x : LoadFail) : Bool :=
  match x with
  | .bulk n => unitsMeet n u
  | .inband ag => (unitAgs u).contains ag

/-- A tag is drained at the nodes of a unit (R378). -/
def State.tagDrained (s : State) (c : Nat) (u : Option (BitVec 8)) (t : BitVec 8) : Bool :=
  (s.unitKeys c u).all (fun k => !s.resident c k t)
    && !((s.units c).streams.any fun p => p.2.phase.busy && p.2.ctag == t)
    && !((s.units c).tpls.any fun p => p.2.phase.busy && p.2.arm.ctag == t)

/-- The end of a `bar.cfg` with DRAIN 0: the failures it covers are reported once (R378). -/
def State.barCfgEnd (s : State) (d : Reg) (u : Option (BitVec 8)) : Result :=
  let c := s.focus.val
  let hit := (s.grid c).fails.any (failCovered u)
  (s.modGrid c fun g => { g with fails := g.fails.filter fun x => !failCovered u x }).reply [] d (boolWord hit)

/-- `bar.cfg` (R378): it stands until its condition holds; a verdict that the detector gives while a DRAIN 1 wait stands ends
it with bit 1 set. -/
def execBarCfg (g : Guard) (d : Reg) (u : CfgUnit) (drain : Bool) (tag : BitVec 8) (s : State) : Result :=
  cmdForm s (.barCfg g d u drain tag) g false [] <|
    let c := s.focus.val
    if drain then
      if s.tagDrained c (unitNode u) tag then s.reply [] d 0
      else if s.cp.ctl.told then s.reply [] d 2
      else s.stand (.barCfg g d u drain tag)
    else if s.cfgSettled c (unitNode u) then s.barCfgEnd d (unitNode u)
    else s.stand (.barCfg g d u drain tag)

end Sys2Proof.Machine
end

