-- ==== Sys2Proof/Machine/Fields.lean ====
section
/-!
DEFINITION. The registers and the guard that an instruction names (05 R104, 08 R144).
-/
namespace Sys2Proof.Machine

/-- The stream handle that a barrier reads (R305). -/
def srcsOfUnit : BarUnit → List Src
  | .ag _ a => [a]
  | .core => []

/-- The sources of a form. -/
def srcsOf : Instr → List Src
  | .add _ _ a b => [a, b]
  | .sub _ _ a b => [a, b]
  | .and _ _ a b => [a, b]
  | .or _ _ a b => [a, b]
  | .xor _ _ a b => [a, b]
  | .andn _ _ a b => [a, b]
  | .shl _ _ a b => [a, b]
  | .shr _ _ a b => [a, b]
  | .sra _ _ a b => [a, b]
  | .rol _ _ a b => [a, b]
  | .min _ _ a b => [a, b]
  | .max _ _ a b => [a, b]
  | .minz _ _ a b => [a, b]
  | .maxz _ _ a b => [a, b]
  | .mul _ _ a b => [a, b]
  | .mulh _ _ a b => [a, b]
  | .mulhz _ _ a b => [a, b]
  | .div _ _ a b => [a, b]
  | .divz _ _ a b => [a, b]
  | .rem _ _ a b => [a, b]
  | .remz _ _ a b => [a, b]
  | .clz _ _ a => [a]
  | .ctz _ _ a => [a]
  | .popc _ _ a => [a]
  | .sel _ _ a b _ => [a, b]
  | .bext _ _ a b c => [a, b, c]
  | .bins _ _ a b c => [a, b, c]
  | .addi _ _ a _ => [a]
  | .andi _ _ a _ => [a]
  | .ori _ _ a _ => [a]
  | .xori _ _ a _ => [a]
  | .shli _ _ a _ => [a]
  | .shri _ _ a _ => [a]
  | .srai _ _ a _ => [a]
  | .liH _ _ a _ => [a]
  | .cmpEq _ _ a b => [a, b]
  | .cmpNe _ _ a b => [a, b]
  | .cmpLt _ _ a b => [a, b]
  | .cmpGe _ _ a b => [a, b]
  | .cmpLo _ _ a b => [a, b]
  | .cmpHs _ _ a b => [a, b]
  | .cmpiEq _ _ a _ => [a]
  | .cmpiNe _ _ a _ => [a]
  | .cmpiLt _ _ a _ => [a]
  | .cmpiGe _ _ a _ => [a]
  | .cmpiLo _ _ a _ => [a]
  | .cmpiHs _ _ a _ => [a]
  | .ret _ a => [a]
  | .jr _ _ a => [a]
  | .ldS8 _ _ m => [m.a, m.b]
  | .ldZ8 _ _ m => [m.a, m.b]
  | .ldS16 _ _ m => [m.a, m.b]
  | .ldZ16 _ _ m => [m.a, m.b]
  | .ldS32 _ _ m => [m.a, m.b]
  | .ldZ32 _ _ m => [m.a, m.b]
  | .ld64 _ _ m => [m.a, m.b]
  | .st8 _ v m => [m.a, m.b, v]
  | .st16 _ v m => [m.a, m.b, v]
  | .st32 _ v m => [m.a, m.b, v]
  | .st64 _ v m => [m.a, m.b, v]
  | .amoAdd64 _ _ b m => [m.a, b]
  | .amoMin64 _ _ b m => [m.a, b]
  | .amoMax64 _ _ b m => [m.a, b]
  | .amoMinz64 _ _ b m => [m.a, b]
  | .amoMaxz64 _ _ b m => [m.a, b]
  | .amoAnd64 _ _ b m => [m.a, b]
  | .amoOr64 _ _ b m => [m.a, b]
  | .amoXor64 _ _ b m => [m.a, b]
  | .amoSwap64 _ _ b m => [m.a, b]
  | .amoCas64 _ d b m => [m.a, b, ⟨d, false⟩]
  | .amoFadd64 _ _ b m => [m.a, b]
  | .amoAdd32 _ _ b m => [m.a, b]
  | .amoMin32 _ _ b m => [m.a, b]
  | .amoMax32 _ _ b m => [m.a, b]
  | .amoMinz32 _ _ b m => [m.a, b]
  | .amoMaxz32 _ _ b m => [m.a, b]
  | .amoAnd32 _ _ b m => [m.a, b]
  | .amoOr32 _ _ b m => [m.a, b]
  | .amoXor32 _ _ b m => [m.a, b]
  | .amoSwap32 _ _ b m => [m.a, b]
  | .amoCas32 _ d b m => [m.a, b, ⟨d, false⟩]
  | .amoFadd32 _ _ b m => [m.a, b]
  | .kwr _ _ a => [a]
  | .kset _ _ a => [a]
  | .kclr _ _ a => [a]
  | .fadd _ _ _ a b => [a, b]
  | .fsub _ _ _ a b => [a, b]
  | .fmul _ _ _ a b => [a, b]
  | .fdiv _ _ _ a b => [a, b]
  | .fsqrt _ _ _ a => [a]
  | .ffma _ _ _ a b c => [a, b, c]
  | .fmin _ _ _ a b => [a, b]
  | .fmax _ _ _ a b => [a, b]
  | .fcmp _ _ _ _ a b => [a, b]
  | .fcvt _ _ _ _ _ a => [a]
  | .fclass _ _ _ a => [a]
  | .cfgFetch _ _ _ a => [a]
  | .cfgLoad _ _ _ a => [a]
  | .cfgEvict _ _ _ a _ _ => [a]
  | .cfgInband _ _ _ a => [a]
  | .strmRd _ _ _ a b c _ _ => [a, b, c]
  | .strmWr _ _ _ a b c _ _ => [a, b, c]
  | .strmInd _ _ _ a b c _ _ => [a, b, c]
  | .strmCst _ _ _ a b c _ _ => [a, b, c]
  | .strmRec _ _ _ a b c _ _ => [a, b, c]
  | .strmCancel _ _ _ a => [a]
  | .strmStat _ _ _ a => [a]
  | .barRd _ _ u => srcsOfUnit u
  | .barWr _ _ u => srcsOfUnit u
  | .barIf _ _ _ a _ => [a]
  | .ctlSet _ _ _ a _ => [a]
  | .tplArm _ _ _ a => [a]
  | .tplFire _ _ _ a => [a]
  | .qPush _ _ _ a _ => [a]
  | .qWait _ _ _ a _ => [a]
  | .semInit _ _ a b => [a, b]
  | .semTake _ _ a _ _ => [a]
  | .semWait _ _ a b => [a, b]
  | .semAdv _ _ a _ => [a]
  | .mxTok _ _ a => [a]
  | .collRed _ _ a => [a]
  | .collAttn _ _ a => [a]
  | .collGath _ _ a => [a]
  | .collScat _ _ a => [a]
  | .collBcast _ _ a => [a]
  | .collA2a _ _ a => [a]
  | .collWait _ _ a => [a]
  | .pairBox _ _ a => [a]
  | .pairScan _ _ a b _ _ => [a, b]
  | .kvAlloc _ _ a => [a]
  | .kvFree _ _ a _ => [a]
  | .kvShare _ _ a b => [a, b]
  | .kvMap _ _ a => [a]
  | .kvLimit _ _ a b _ => [a, b]
  | .kvLend _ _ a b => [a, b]
  | .taskSpawn _ _ _ a => [a]
  | .taskCancel _ _ a => [a]
  | .frzSave _ _ a b => [a, b]
  | .frzLoad _ _ a _ => [a]
  | .quiRep _ _ a _ => [a]
  | .xlatInv _ _ a b _ _ => [a, b]
  | .xlatProbe _ _ a b _ => [a, b]
  | .xlatRes _ _ _ a _ => [a]
  | _ => []

/-- The general register that a form writes, or reads and writes. -/
def destOf : Instr → Option Reg
  | .add _ d _ _ => some d
  | .sub _ d _ _ => some d
  | .and _ d _ _ => some d
  | .or _ d _ _ => some d
  | .xor _ d _ _ => some d
  | .andn _ d _ _ => some d
  | .shl _ d _ _ => some d
  | .shr _ d _ _ => some d
  | .sra _ d _ _ => some d
  | .rol _ d _ _ => some d
  | .min _ d _ _ => some d
  | .max _ d _ _ => some d
  | .minz _ d _ _ => some d
  | .maxz _ d _ _ => some d
  | .mul _ d _ _ => some d
  | .mulh _ d _ _ => some d
  | .mulhz _ d _ _ => some d
  | .div _ d _ _ => some d
  | .divz _ d _ _ => some d
  | .rem _ d _ _ => some d
  | .remz _ d _ _ => some d
  | .clz _ d _ => some d
  | .ctz _ d _ => some d
  | .popc _ d _ => some d
  | .sel _ d _ _ _ => some d
  | .bext _ d _ _ _ => some d
  | .bins _ d _ _ _ => some d
  | .addi _ d _ _ => some d
  | .andi _ d _ _ => some d
  | .ori _ d _ _ => some d
  | .xori _ d _ _ => some d
  | .shli _ d _ _ => some d
  | .shri _ d _ _ => some d
  | .srai _ d _ _ => some d
  | .li _ d _ => some d
  | .liH _ d _ _ => some d
  | .pget _ d _ => some d
  | .call _ d _ => some d
  | .jr _ d _ => some d
  | .loop _ b _ => some b
  | .ldS8 _ d _ => some d
  | .ldZ8 _ d _ => some d
  | .ldS16 _ d _ => some d
  | .ldZ16 _ d _ => some d
  | .ldS32 _ d _ => some d
  | .ldZ32 _ d _ => some d
  | .ld64 _ d _ => some d
  | .amoAdd64 _ d _ _ => some d
  | .amoMin64 _ d _ _ => some d
  | .amoMax64 _ d _ _ => some d
  | .amoMinz64 _ d _ _ => some d
  | .amoMaxz64 _ d _ _ => some d
  | .amoAnd64 _ d _ _ => some d
  | .amoOr64 _ d _ _ => some d
  | .amoXor64 _ d _ _ => some d
  | .amoSwap64 _ d _ _ => some d
  | .amoCas64 _ d _ _ => some d
  | .amoFadd64 _ d _ _ => some d
  | .amoAdd32 _ d _ _ => some d
  | .amoMin32 _ d _ _ => some d
  | .amoMax32 _ d _ _ => some d
  | .amoMinz32 _ d _ _ => some d
  | .amoMaxz32 _ d _ _ => some d
  | .amoAnd32 _ d _ _ => some d
  | .amoOr32 _ d _ _ => some d
  | .amoXor32 _ d _ _ => some d
  | .amoSwap32 _ d _ _ => some d
  | .amoCas32 _ d _ _ => some d
  | .amoFadd32 _ d _ _ => some d
  | .krd _ d _ => some d
  | .fadd _ _ d _ _ => some d
  | .fsub _ _ d _ _ => some d
  | .fmul _ _ d _ _ => some d
  | .fdiv _ _ d _ _ => some d
  | .fsqrt _ _ d _ => some d
  | .ffma _ _ d _ _ _ => some d
  | .fmin _ _ d _ _ => some d
  | .fmax _ _ d _ _ => some d
  | .fcvt _ _ _ _ d _ => some d
  | .fclass _ _ d _ => some d
  | .cfgFetch _ d _ _ => some d
  | .cfgLoad _ d _ _ => some d
  | .cfgEvict _ d _ _ _ _ => some d
  | .cfgInband _ d _ _ => some d
  | .cfgProbe _ d _ _ => some d
  | .cfgTag _ d _ => some d
  | .strmRd _ d _ _ _ _ _ _ => some d
  | .strmWr _ d _ _ _ _ _ _ => some d
  | .strmInd _ d _ _ _ _ _ _ => some d
  | .strmCst _ d _ _ _ _ _ _ => some d
  | .strmRec _ d _ _ _ _ _ _ => some d
  | .strmCancel _ d _ _ => some d
  | .strmStat _ d _ _ => some d
  | .barRd _ d _ => some d
  | .barWr _ d _ => some d
  | .barCfg _ d _ _ _ => some d
  | .barAll _ d => some d
  | .barIf _ d _ _ _ => some d
  | .ctlSet _ d _ _ _ => some d
  | .ctlGo _ d _ => some d
  | .ctlWait _ d _ => some d
  | .ctlAbort _ d _ => some d
  | .tplArm _ d _ _ => some d
  | .tplDisarm _ d _ => some d
  | .tplFire _ d _ _ => some d
  | .tplStat _ d _ => some d
  | .qPush _ d _ _ _ => some d
  | .qPop _ d _ _ => some d
  | .qSpace _ d _ => some d
  | .qWait _ d _ _ _ => some d
  | .semInit _ d _ _ => some d
  | .semTake _ d _ _ _ => some d
  | .semWait _ d _ _ => some d
  | .semAdv _ d _ _ => some d
  | .mxTok _ d _ => some d
  | .mxAccrd _ d _ _ _ => some d
  | .mxAccclr _ d _ => some d
  | .mxStat _ d => some d
  | .collRed _ d _ => some d
  | .collAttn _ d _ => some d
  | .collGath _ d _ => some d
  | .collScat _ d _ => some d
  | .collBcast _ d _ => some d
  | .collA2a _ d _ => some d
  | .collWait _ d _ => some d
  | .pairBox _ d _ => some d
  | .pairBin _ d => some d
  | .pairScan _ d _ _ _ _ => some d
  | .pairStat _ d => some d
  | .pairClr _ d => some d
  | .kvAlloc _ d _ => some d
  | .kvFree _ d _ _ => some d
  | .kvShare _ d _ _ => some d
  | .kvMap _ d _ => some d
  | .kvLimit _ d _ _ _ => some d
  | .kvLend _ d _ _ => some d
  | .taskSpawn _ d _ _ => some d
  | .taskYield _ d => some d
  | .taskArg _ d _ => some d
  | .taskCancel _ d _ => some d
  | .frzSave _ d _ _ => some d
  | .frzLoad _ d _ _ => some d
  | .quiPoll _ d _ => some d
  | .quiRep _ d _ _ => some d
  | .xlatInv _ d _ _ _ _ => some d
  | .xlatProbe _ d _ _ _ => some d
  | .xlatRes _ d _ _ _ => some d
  | _ => none

/-- The guard of a form. -/
def guardOf : Instr → Guard
  | .nop g => g
  | .halt g => g
  | .trap g _ => g
  | .tret g => g
  | .wait g => g
  | .brk g _ => g
  | .add g _ _ _ => g
  | .sub g _ _ _ => g
  | .and g _ _ _ => g
  | .or g _ _ _ => g
  | .xor g _ _ _ => g
  | .andn g _ _ _ => g
  | .shl g _ _ _ => g
  | .shr g _ _ _ => g
  | .sra g _ _ _ => g
  | .rol g _ _ _ => g
  | .min g _ _ _ => g
  | .max g _ _ _ => g
  | .minz g _ _ _ => g
  | .maxz g _ _ _ => g
  | .mul g _ _ _ => g
  | .mulh g _ _ _ => g
  | .mulhz g _ _ _ => g
  | .div g _ _ _ => g
  | .divz g _ _ _ => g
  | .rem g _ _ _ => g
  | .remz g _ _ _ => g
  | .clz g _ _ => g
  | .ctz g _ _ => g
  | .popc g _ _ => g
  | .sel g _ _ _ _ => g
  | .bext g _ _ _ _ => g
  | .bins g _ _ _ _ => g
  | .addi g _ _ _ => g
  | .andi g _ _ _ => g
  | .ori g _ _ _ => g
  | .xori g _ _ _ => g
  | .shli g _ _ _ => g
  | .shri g _ _ _ => g
  | .srai g _ _ _ => g
  | .li g _ _ => g
  | .liH g _ _ _ => g
  | .cmpEq g _ _ _ => g
  | .cmpNe g _ _ _ => g
  | .cmpLt g _ _ _ => g
  | .cmpGe g _ _ _ => g
  | .cmpLo g _ _ _ => g
  | .cmpHs g _ _ _ => g
  | .cmpiEq g _ _ _ => g
  | .cmpiNe g _ _ _ => g
  | .cmpiLt g _ _ _ => g
  | .cmpiGe g _ _ _ => g
  | .cmpiLo g _ _ _ => g
  | .cmpiHs g _ _ _ => g
  | .pand g _ _ _ => g
  | .por g _ _ _ => g
  | .pxor g _ _ _ => g
  | .pandn g _ _ _ => g
  | .pmov g _ _ => g
  | .pget g _ _ => g
  | .br g _ => g
  | .call g _ _ => g
  | .ret g _ => g
  | .jr g _ _ => g
  | .loop g _ _ => g
  | .ldS8 g _ _ => g
  | .ldZ8 g _ _ => g
  | .ldS16 g _ _ => g
  | .ldZ16 g _ _ => g
  | .ldS32 g _ _ => g
  | .ldZ32 g _ _ => g
  | .ld64 g _ _ => g
  | .st8 g _ _ => g
  | .st16 g _ _ => g
  | .st32 g _ _ => g
  | .st64 g _ _ => g
  | .amoAdd64 g _ _ _ => g
  | .amoMin64 g _ _ _ => g
  | .amoMax64 g _ _ _ => g
  | .amoMinz64 g _ _ _ => g
  | .amoMaxz64 g _ _ _ => g
  | .amoAnd64 g _ _ _ => g
  | .amoOr64 g _ _ _ => g
  | .amoXor64 g _ _ _ => g
  | .amoSwap64 g _ _ _ => g
  | .amoCas64 g _ _ _ => g
  | .amoFadd64 g _ _ _ => g
  | .amoAdd32 g _ _ _ => g
  | .amoMin32 g _ _ _ => g
  | .amoMax32 g _ _ _ => g
  | .amoMinz32 g _ _ _ => g
  | .amoMaxz32 g _ _ _ => g
  | .amoAnd32 g _ _ _ => g
  | .amoOr32 g _ _ _ => g
  | .amoXor32 g _ _ _ => g
  | .amoSwap32 g _ _ _ => g
  | .amoCas32 g _ _ _ => g
  | .amoFadd32 g _ _ _ => g
  | .fence g _ => g
  | .fenceX g _ => g
  | .fenceCfg g => g
  | .krd g _ _ => g
  | .kwr g _ _ => g
  | .kset g _ _ => g
  | .kclr g _ _ => g
  | .fadd g _ _ _ _ => g
  | .fsub g _ _ _ _ => g
  | .fmul g _ _ _ _ => g
  | .fdiv g _ _ _ _ => g
  | .fsqrt g _ _ _ => g
  | .ffma g _ _ _ _ _ => g
  | .fmin g _ _ _ _ => g
  | .fmax g _ _ _ _ => g
  | .fcmp g _ _ _ _ _ => g
  | .fcvt g _ _ _ _ _ => g
  | .fclass g _ _ _ => g
  | .cfgFetch g _ _ _ => g
  | .cfgLoad g _ _ _ => g
  | .cfgEvict g _ _ _ _ _ => g
  | .cfgInband g _ _ _ => g
  | .cfgProbe g _ _ _ => g
  | .cfgTag g _ _ => g
  | .strmRd g _ _ _ _ _ _ _ => g
  | .strmWr g _ _ _ _ _ _ _ => g
  | .strmInd g _ _ _ _ _ _ _ => g
  | .strmCst g _ _ _ _ _ _ _ => g
  | .strmRec g _ _ _ _ _ _ _ => g
  | .strmCancel g _ _ _ => g
  | .strmStat g _ _ _ => g
  | .barRd g _ _ => g
  | .barWr g _ _ => g
  | .barCfg g _ _ _ _ => g
  | .barAll g _ => g
  | .barIf g _ _ _ _ => g
  | .ctlSet g _ _ _ _ => g
  | .ctlGo g _ _ => g
  | .ctlWait g _ _ => g
  | .ctlAbort g _ _ => g
  | .tplArm g _ _ _ => g
  | .tplDisarm g _ _ => g
  | .tplFire g _ _ _ => g
  | .tplStat g _ _ => g
  | .qPush g _ _ _ _ => g
  | .qPop g _ _ _ => g
  | .qSpace g _ _ => g
  | .qWait g _ _ _ _ => g
  | .semInit g _ _ _ => g
  | .semTake g _ _ _ _ => g
  | .semWait g _ _ _ => g
  | .semAdv g _ _ _ => g
  | .mxTok g _ _ => g
  | .mxAccrd g _ _ _ _ => g
  | .mxAccclr g _ _ => g
  | .mxStat g _ => g
  | .collRed g _ _ => g
  | .collAttn g _ _ => g
  | .collGath g _ _ => g
  | .collScat g _ _ => g
  | .collBcast g _ _ => g
  | .collA2a g _ _ => g
  | .collWait g _ _ => g
  | .pairBox g _ _ => g
  | .pairBin g _ => g
  | .pairScan g _ _ _ _ _ => g
  | .pairStat g _ => g
  | .pairClr g _ => g
  | .kvAlloc g _ _ => g
  | .kvFree g _ _ _ => g
  | .kvShare g _ _ _ => g
  | .kvMap g _ _ => g
  | .kvLimit g _ _ _ _ => g
  | .kvLend g _ _ _ => g
  | .taskSpawn g _ _ _ => g
  | .taskDone g => g
  | .taskYield g _ => g
  | .taskArg g _ _ => g
  | .taskCancel g _ _ => g
  | .frzSave g _ _ _ => g
  | .frzLoad g _ _ _ => g
  | .quiPoll g _ _ => g
  | .quiRep g _ _ _ => g
  | .xlatInv g _ _ _ _ _ => g
  | .xlatProbe g _ _ _ _ => g
  | .xlatRes g _ _ _ _ => g
  | _ => ⟨false, 0⟩

end Sys2Proof.Machine
end

