-- ==== Sys2Proof/Machine/Records.lean ====
section
/-!
DEFINITION. Records that commands read at issue as CP-path loads (15 R290, R313; 16 R329; 17 R343; 20 R406).
-/
namespace Sys2Proof.Machine

/-- What reading a record gives: it waits for earlier accesses or walks, it traps, its reads go out, or it has the record's
value. -/
inductive RecordRead where
  | wait
  | trap (s : State) (f : Fail)
  | post (s : State) (gs : List Seg)
  | ok (s : State) (v : Nat)

/-- The parts of `n` bytes at `pa`, one for each 16-byte word that they touch (R198). -/
def wordSegs (pa n : Nat) : List Seg :=
  let a := pa % 16
  (rangeFrom 0 ((a + n + 15) / 16)).map fun j =>
    { pa := pa + (16 * j - a), off := 16 * j - a, n := min (16 * j + 16 - a) n - (16 * j - a), done := false }

/-- A record of `n` bytes at `va`, which must be a multiple of `align`, read as a load of the issuing core is (R211, R227,
R290): alignment, translation, region, the accesses ordered before it, and a request for each bank word (R198). Once they are
performed the form has its value. -/
def State.readRecord (s : State) (va n align : Nat) : RecordRead :=
  let c := s.focus.val
  match listFind (fun r => r.va == va && r.n == n) s.cp.ctl.records with
  | some r => .ok s r.v
  | none =>
    if va % align ≠ 0 then .trap s ⟨causeAlign, word va⟩
    else if s.walkWaits c va then .wait
    else match s.translate c s.cp.ctl.xroot va .read s.cp.k.sys with
    | (t, .error f) =>
      if f.cause != causeProt && s.cp.ctl.reqs.any fun x => s.mayOrder c x (.load n false) false 0 then .wait else .trap t f
    | (t, .ok pa) =>
      let gs := wordSegs pa n
      match t.regionFail va n .plain false s.cp.k.sys gs with
      | some f => .trap t f
      | none =>
        if gs.any (fun g => t.waveBars c g.pa) || s.cp.ctl.reqs.any fun x => s.ordersBefore c x (.load n false) false 0 gs
        then .wait
        else match t.homeFail (.load n false) gs with
        | some f => if s.cp.ctl.reqs.isEmpty then .trap t f else .wait
        | none => .post t gs

/-- The form `i` stands while the words of the record that it reads are on their way; nothing issues until they have
returned (R144, R290). -/
def State.postRecord (s : State) (i : Instr) (va n : Nat) (gs : List Seg) : State :=
  s.modCp fun x => (x.submit (.record va n) gs 0 0 0 false 0 x.regs.pc (some [])).stand i none

/-- A form that goes on with a record. -/
def withRecord (s : State) (i : Instr) (va n align : Nat) (k : State → Nat → Result) : Result :=
  match s.readRecord va n align with
  | .wait => .next s
  | .trap t f => t.raise f.cause f.val
  | .post t gs => .next (t.postRecord i va n gs)
  | .ok t v => k t v

end Sys2Proof.Machine
end

