-- ==== Sys2Proof/Machine/Shape.lean ====
section
/-!
DEFINITION. Shape and arming records (15 R290-R294, R300, R313, R314): their fields, the reasons for refusing them, and the
patterns they describe.
-/
namespace Sys2Proof.Machine

/-- A shape record (R290). -/
abbrev Shape := BitVec 512

/-- Word n of a shape record. -/
def shWord (r : Shape) (n : Nat) : Word := r.extractLsb' (64 * n) 64
/-- FMT (R291). -/
def shFmt (r : Shape) : Nat := bits (shWord r 0) 0 5
/-- RM (R291). -/
def shRm (r : Shape) : Nat := bits (shWord r 0) 5 3
/-- SAT (R291). -/
def shSat (r : Shape) : Bool := (shWord r 0).getLsbD 8
/-- DEGRADE (R291). -/
def shDegrade (r : Shape) : Bool := (shWord r 0).getLsbD 9
/-- TRAP (R291). -/
def shTrap (r : Shape) : Bool := (shWord r 0).getLsbD 10
/-- WORD (R291). -/
def shIsWord (r : Shape) : Bool := (shWord r 0).getLsbD 11
/-- NDIG (R291). -/
def shNdig (r : Shape) : Nat := bits (shWord r 0) 12 6
/-- WC (R291). -/
def shWc (r : Shape) : Nat := bits (shWord r 0) 18 2
/-- The number of levels (R291). -/
def shLevels (r : Shape) : Nat := bits (shWord r 0) 20 2 + 1
/-- RLEV (R291). -/
def shRlev (r : Shape) : Nat := bits (shWord r 0) 22 2
/-- TLEV (R291). -/
def shTlev (r : Shape) : Nat := bits (shWord r 0) 24 2
/-- PORT (R291). -/
def shPort (r : Shape) : Nat := bits (shWord r 0) 26 5
/-- IND (R291). -/
def shInd (r : Shape) : Bool := (shWord r 0).getLsbD 31
/-- PAX (R291). -/
def shPax (r : Shape) : Bool := (shWord r 0).getLsbD 32
/-- PCNT (R291). -/
def shPcnt (r : Shape) : Nat := bits (shWord r 0) 34 6
/-- FDST (R291). -/
def shFdst (r : Shape) : Nat := bits (shWord r 0) 40 6
/-- COUNT of level l (R291). -/
def shCount (r : Shape) (l : Nat) : Nat := bits (shWord r (1 + l)) 0 32
/-- STRIDE of level l (R291). -/
def shStride (r : Shape) (l : Nat) : Int := signedOf 32 (bits (shWord r (1 + l)) 32 32)
/-- SBASE (R291). -/
def shSbase (r : Shape) : Word := shWord r 5
/-- SSC of level l (R291). -/
def shSsc (r : Shape) (l : Nat) : Int := signedOf 16 (bits (shWord r 6) (16 * l) 16)
/-- ICOUNT (R291). -/
def shIcount (r : Shape) : Nat := bits (shWord r 7) 0 32
/-- ISB (R291). -/
def shIsb (r : Shape) : Nat := bits (shWord r 7) 32 4

/-- The code of plane-blocks (R50). -/
def fmtPb : Nat := 0x15
/-- A pair format (R50). -/
def isPair (c : Nat) : Bool := c == 0x16 || c == 0x17
/-- The digits that a format needs to be exact (R50); pb takes its plane count. -/
def fmtNeed (c pcnt : Nat) : Nat := if c = fmtPb then (pcnt + 7) / 4 else fmtDigits c

/-- The bits of a stored element (R292). -/
def elemBits (c pcnt : Nat) : Nat := if c = fmtPb then 8 * (8 + 4 * (pcnt + 1)) else fmtWidth c

/-! Refusals (R300). -/

/-- Stream forms, as the checks tell them apart: `strm.rd` or `strm.wr`, `strm.ind`, `strm.cst`, and `strm.rec`. -/
inductive StreamForm where
  | plain | ind | cst | again
deriving DecidableEq, Repr

/-- A stream of pb delivers raw blocks (R291, R295, R297): into a buffer of a matrix operand. Where no frame says what the
buffer is, an NDIG of 0 does (DEDUCED, log entry 41). -/
def shRaw (r : Shape) (inbound : Bool) (raw : Option Bool) : Bool :=
  inbound && shFmt r == fmtPb && (raw.getD (shNdig r == 0))

/-- The digits that a stream delivers are declared (R291): an inbound stream of no words and of no raw blocks. -/
def shDigits (r : Shape) (inbound : Bool) (raw : Option Bool) : Bool := inbound && !shIsWord r && !shRaw r inbound raw

/-- The levels of a record are well formed (R300). -/
def shLevelsOk (r : Shape) : Bool :=
  (rangeFrom 0 4).all fun l => if l < shLevels r then shCount r l != 0 else shWord r (1 + l) == 0

/-- The fields of a record that BADREC refuses (R300), but for IND and PAX. -/
def shFieldsBad (r : Shape) (inbound : Bool) : Bool :=
  bits (shWord r 0) 46 18 != 0 || (shWord r 0).getLsbD 33
    || !shLevelsOk r || decide (shTlev r < shRlev r)
    || (shPort r != 0 && decide (shPort r < 0x10))
    || (if inbound then shFdst r != 0 else shFdst r != 0 && !decide (0x10 ≤ shFdst r ∧ shFdst r ≤ 0x2F))
    || (if isMx (shFmt r) then shSbase r == 0 else shSbase r != 0 || shWord r 6 != 0)
    || (if shInd r then bits (shWord r 7) 36 28 != 0 || isMx (shFmt r) else shWord r 7 != 0)
    || ((!inbound || shIsWord r) && shNdig r != 0)
    || (shPcnt r != 0 && shFmt r != fmtPb)

/-- The reason for which a record is refused (R300), 0 for none; `raw` says whether its PORT is a buffer of a matrix
operand. -/
def refusal (form : StreamForm) (r : Shape) (inbound : Bool) (raw : Option Bool) : Nat :=
  let c := shFmt r
  let need := fmtNeed c (shPcnt r)
  if 0x18 ≤ c ∨ (shIsWord r ∧ (intOf c).isNone) ∨ (form = .cst ∧ (c = fmtPb ∨ isPair c)) then 0x02
  else if 4 < shRm r then 0x03
  else if shDigits r inbound raw ∧ (shNdig r = 0 ∨ shNdig r + (if shDegrade r then 2 else 0) < need) then 0x04
  else
    let ind : Bool := match form with
      | .ind => !shInd r
      | .again => shInd r && !inbound
      | _ => shInd r
    if shFieldsBad r inbound ∨ ind ∨ (shRaw r inbound raw ∧ shNdig r ≠ 0) ∨ (shPax r ∧ (inbound ∨ c ≠ fmtPb)) then 0x05 else 0

/-! Patterns (R292-R294). -/

/-- The points of levels 0 to l. -/
def shPoints (r : Shape) : Nat → Nat
  | 0 => shCount r 0
  | l + 1 => if l + 1 < shLevels r then shPoints r l * shCount r (l + 1) else shPoints r l

/-- The points of the affine pattern. -/
def shAffine (r : Shape) : Nat := shPoints r 3

/-- The elements of a stream (R292, R293). -/
def shTotal (r : Shape) : Nat := if shInd r then shIcount r * shAffine r else shAffine r

/-- The iteration index of level l at position p in pattern order. -/
def shIter (r : Shape) (p l : Nat) : Nat :=
  match l with
  | 0 => p % shCount r 0
  | l + 1 => if l + 1 < shLevels r then p / shPoints r l % shCount r (l + 1) else 0

/-- The element at position p ends a pass of levels 0 to l (R295). -/
def shEnds (r : Shape) (p l : Nat) : Bool := (p + 1) % shPoints r l == 0

/-- The element offset of position p (R292, R293); `i0` replaces the index of level 0, which runs on past COUNT_0 in the
padding of an MX block. -/
def shOffset (r : Shape) (p i0 : Nat) (u : Int) : Int :=
  u + i0 * shStride r 0
    + (rangeFrom 1 3).foldl (fun (e : Int) l => e + shIter r p l * shStride r l) 0

/-- The byte and bit at which the element of an offset stands (R292). -/
def elemAddr (c pcnt : Nat) (base : Word) (e : Int) : Word × Nat :=
  let b := elemBits c pcnt
  if b % 8 = 0 then (base + u64 (e * ((b / 8 : Nat) : Int)), 0)
  else (base + u64 (Int.fdiv (e * b) 8), (Int.emod (e * b) 8).toNat)

/-- The bytes that an element at a bit touches. -/
def elemBytes (c pcnt bit : Nat) : Nat := (bit + elemBits c pcnt + 7) / 8

/-- The address of the scale byte of position p (R294). -/
def scaleAddr (r : Shape) (p : Nat) : Word :=
  shSbase r + u64 ((shIter r p 0 / 32 : Nat) * shSsc r 0
    + (rangeFrom 1 3).foldl (fun (e : Int) l => e + shIter r p l * shSsc r l) 0)

/-! Arming records (R313, R314). -/

/-- An arming record. -/
abbrev Arming := BitVec 1024

/-- Word n of an arming record. -/
def armWord (r : Arming) (n : Nat) : Word := r.extractLsb' (64 * n) 64
/-- SOURCE. -/
def armShape (r : Arming) : Shape := r.extractLsb' 0 512
/-- DFMT. -/
def armFmt (r : Arming) : Nat := bits (armWord r 12) 0 5
/-- DRM. -/
def armRm (r : Arming) : Nat := bits (armWord r 12) 5 3
/-- DSAT. -/
def armSat (r : Arming) : Bool := (armWord r 12).getLsbD 8
/-- DKIND. -/
def armKind (r : Arming) : Nat := bits (armWord r 12) 9 2
/-- DSB. -/
def armSb (r : Arming) : Nat := bits (armWord r 12) 11 4
/-- FCOUNT. -/
def armCount (r : Arming) : Nat := bits (armWord r 12) 32 16

/-- The copy converts to pb (R313). -/
def armToPb (r : Arming) : Bool := armFmt r == fmtPb && !(armKind r == 0 && shFmt (armShape r) == fmtPb)

/-- The reason for which arming is refused (R314), 0 for none: the lowest of those of R300 that hold of either format. -/
def armRefusal (r : Arming) : Nat :=
  let a := armShape r
  let c := shFmt a
  let d := armFmt r
  if 0x18 ≤ c ∨ 0x18 ≤ d ∨ isMx d ∨ (armKind r = 2 ∧ (fmtOf d).isNone ∧ (intOf d).isNone) ∨ (shIsWord a ∧ (intOf c).isNone)
  then 0x02
  else if 4 < shRm a ∨ 4 < armRm r then 0x03
  else
    let a' := if d = fmtPb then a &&& ~~~(BitVec.ofNat 512 (63 * 2 ^ 34)) else a
    let bad := shFieldsBad (if c = fmtPb then a else a') false || shInd a || shPort a != 0 || shWc a != 0 || shIsWord a
      || shRlev a != 0 || shTlev a != 0 || (shPax a && !armToPb r) || armKind r == 3
      || bits (armWord r 12) 15 17 != 0 || bits (armWord r 12) 48 16 != 0 || armWord r 14 != 0 || armWord r 15 != 0
      || (armKind r == 2 && shLevels a != 2)
    if bad then 0x05 else 0

end Sys2Proof.Machine
end

