-- ==== Sys2Proof/Machine/Stored.lean ====
section
/-!
DEFINITION. Stored elements of more than one word (03 R53, R58, R59, R64-R71): pairs, MX blocks and plane-blocks, in and
out.
-/
namespace Sys2Proof.Machine

/-! Conversion in. -/

/-- The unscaled value of an MX element (R50, R51). -/
def mxElem (c raw : Nat) : FVal :=
  match fmtOf c with
  | some f => f.read raw
  | none =>
    let v := signedOf 8 raw
    .fin (decide (v < 0)) v.natAbs (-6)

/-- An MX element with its scale code (R53, R58, R59). -/
def mxDigits (c scale raw n : Nat) : DVal :=
  if scale = 0xFF then .bad
  else match mxElem c raw with
    | .fin neg m e => fvalDigits (.fin neg m (e + scale - 127)) n
    | v => fvalDigits v n

/-- The values of a plane-block (R58, R59, R67); one with X = 0x8000 is all zero (DEDUCED, log entry 29). -/
def pbDigits (raw pcnt n : Nat) : List DVal :=
  let h := raw % 2 ^ 32
  let x := signedOf 16 (h / 2 ^ 16)
  (rangeFrom 0 32).map fun k =>
    let m := (rangeFrom 0 (pcnt + 1)).foldl (fun m j => 2 * m + raw / 2 ^ (64 + 32 * j + k) % 2) 0
    let neg := raw / 2 ^ (32 + k) % 2 == 1
    if h % 128 ≠ 0 ∨ h / 2 ^ 8 % 256 ≠ pcnt + 1 then .bad
    else if h / 2 ^ 16 = 0x8000 then .zero false
    else if m = 0 then .zero neg
    else normDigits ⟨if neg then -(m : Int) else m, x - pcnt⟩ n

/-- The digit floats of one stored element (R57-R59): two for a pair, 32 for a plane-block, else one. -/
def elemDigits (c pcnt n : Nat) (scale raw : Nat) : List DVal :=
  if c = fmtPb then pbDigits raw pcnt n
  else if c = 0x16 then [readFmt 0x01 (raw % 2 ^ 32) n, readFmt 0x01 (raw / 2 ^ 32) n]
  else if c = 0x17 then [readFmt 0x00 (raw % 2 ^ 64) n, readFmt 0x00 (raw / 2 ^ 64) n]
  else if isMx c then [mxDigits c scale raw n]
  else [readFmt c raw n]

/-- The number of digit floats of one stored element. -/
def elemFloats (c : Nat) : Nat := if c = fmtPb then 32 else if isPair c then 2 else 1

/-! Conversion out. -/

/-- The exact value of an element. -/
def Elem.dy (x : Elem) : Dy := ⟨x.num, x.exp⟩

/-- An element that counts in a block: not poisoned and not zero. -/
def Elem.live (x : Elem) : Bool := x.poison.isNone && x.num != 0

/-- The sign of an element, that of a zero included (R63). -/
def Elem.neg (x : Elem) (md : RMode) : Bool := if x.num = 0 then x.zs.getD (md == .rdn) else decide (x.num < 0)

/-- A pair (R71). -/
def pairPat (f : FFmt) (x : Elem) : Nat :=
  let w := f.width
  if x.poison.isSome then f.nanBits + 2 ^ w * f.nanBits
  else
    let s := rnBits f x.dy (x.neg .rne)
    if patBad f s then s else s + 2 ^ w * rnBits f (x.dy.sub (patDy f s)) false

/-- An element stored in a format that is neither MX nor pb (R60-R63, R66, R71), and whether it saturated. -/
def elemPat (c : Nat) (md : RMode) (sat : Bool) (x : Elem) : Nat × Bool :=
  if c = 0x16 then (pairPat .fp32 x, false)
  else if c = 0x17 then (pairPat .fp64 x, false)
  else if x.poison.isSome then (poisonPat c, false)
  else storeFmt c md sat x.dy x.zs

/-- floor(log2) of the largest magnitude among the elements of a block that count, none where there is none. -/
def blockLog2 (l : List Elem) : Option Int :=
  l.foldl (fun (m : Option Int) x =>
    if x.live then some (match m with
      | some v => max v x.dy.log2
      | none => x.dy.log2)
    else m) none

/-- emax of an MX format (R64). -/
def mxEmax (c : Nat) : Int :=
  match c with
  | 0x06 => 8
  | 0x07 => 15
  | 0x08 => 4
  | 0x0B => 0
  | _ => 2

/-- The exponent X of an MX block (R64), or none where its elements are all +0 under scale code 0x00 (R65). -/
def mxExp (c : Nat) (l : List Elem) : Option Int := (blockLog2 l).map fun v => max (v - mxEmax c) (-127)

/-- The scale code of an MX block (R64, R65). -/
def mxScale (c : Nat) (sat : Bool) (l : List Elem) : Nat :=
  match mxExp c l with
  | none => 0
  | some x => if 127 < x then if sat then 254 else 0xFF else (x + 127).toNat

/-- One element of an MX block (R64-R66), and whether it saturated. In a block that overflow stores with scale 0xFF a poisoned
element is +0 as every other is (DEDUCED, log entry 103). -/
def mxPat (c : Nat) (md : RMode) (sat : Bool) (l : List Elem) (x : Elem) : Nat × Bool :=
  match mxExp c l with
  | none => (0, false)
  | some e =>
    if 127 < e ∧ !sat then (0, false)
    else if x.poison.isSome then (poisonPat c, false)
    else
      let v := x.dy.scale (-(min e 127))
      match fmtOf c with
      | some f => if v.isZero then (f.signBit (x.neg md), false) else f.store md true v.isNeg v.mag
      | none =>
        let m := ((v.scale 6).mag.roundAt v.isNeg md 0).1
        let m' := min m 127
        ((if v.isNeg then (256 - m') % 256 else m'), m' != m)

/-- The magnitudes of a plane-block's values at weight X in P planes (R69). -/
def pbMags (md : Nat → RMode) (l : List Elem) (x : Int) (p : Nat) : List Nat :=
  (l.zip (rangeFrom 0 l.length)).map fun (v : Elem × Nat) =>
    if v.1.live then (v.1.dy.mag.roundAt (decide (v.1.num < 0)) (md v.2) (x - p + 1)).1 else 0

/-- A plane-block from its header's X, signs and magnitudes (R67): P planes in the header, `p` of them significant. -/
def pbBuild (x : Nat) (pax : Bool) (planes p : Nat) (signs : List Bool) (mags : List Nat) : Nat :=
  let word32 := fun (f : Nat → Bool) => (rangeFrom 0 32).foldl (fun w k => w + (if f k then 2 ^ k else 0)) 0
  x * 2 ^ 16 + planes * 2 ^ 8 + (if pax then 128 else 0)
    + 2 ^ 32 * word32 (listGet false signs)
    + (rangeFrom 0 p).foldl (fun w j =>
        w + 2 ^ (64 + 32 * j) * word32 fun k => listGet 0 mags k / 2 ^ (p - 1 - j) % 2 == 1) 0

/-- Conversion out to pb (R69, R476): the block, and the results that saturated. `md` gives each value its rounding mode,
`planes` is the declared count and `p` the planes that carry digits. X rises by 1 where any rounded magnitude reaches 2^P
(DEDUCED, log entry 93). -/
def pbPat (md : Nat → RMode) (pax : Bool) (planes p : Nat) (l : List Elem) : Nat × Nat :=
  let none0 := pbBuild 0x8000 pax planes p [] []
  match blockLog2 l with
  | none => (none0, 0)
  | some x =>
    let up := (pbMags md l x p).any fun m => decide (2 ^ p ≤ m)
    let x := if up then x + 1 else x
    if 32767 < x then
      (pbBuild 32767 pax planes p (l.map fun v => v.live && decide (v.num < 0))
        (l.map fun v => if v.live then 2 ^ p - 1 else 0), (l.filter Elem.live).length)
    else if x < -32767 then (none0, 0)
    else
      (pbBuild (x % 2 ^ 16).toNat pax planes p
        ((l.zip (rangeFrom 0 l.length)).map fun (v : Elem × Nat) => v.1.poison.isNone && v.1.neg (md v.2))
        (pbMags md l x p), 0)

/-! Flits of outbound elements. -/

/-- The element that the flits of a digit float make (R56). -/
def floatElem (l : List Flit) : Elem :=
  match l with
  | h :: t =>
    let n := hdrNdig h.pay
    let ds := (t.filter fun f => f.kind == 2).flatMap fun f => bodyDigits f.pay (2 ^ hdrWc h.pay)
    let v := digitsDy (hdrE h.pay) (ds.take n)
    let p := (listFind (fun (f : Flit) => f.poison) (h :: t)).map fun f => hdrOrig f.pay
    if hdrZ h.pay then { num := 0, exp := 0, zs := some (hdrZs h.pay), poison := p }
    else { num := v.m, exp := v.e, zs := none, poison := p }
  | [] => { num := 0, exp := 0, zs := none, poison := none }

/-- The element that a word flit makes (R58), for an integer format; the store itself is the ORIG of a poisoned one. -/
def wordElem (c : Nat) (f : Flit) (orig : Nat) : Elem :=
  let v : Int := match intOf c with
    | some (_, false) => f.pay.toNat
    | _ => f.pay.toInt
  { num := v, exp := 0, zs := none, poison := if f.poison then some orig else none }

/-! Constants (R302). -/

/-- The constant of `strm.cst` as a stored element of a format that is neither MX, pb nor a pair, and whether it
saturated. An infinite constant stays an infinity in a format that has one, under SATFINITE too (DEDUCED, log entry 43). -/
def constPat (c : Nat) (md : RMode) (sat : Bool) (a : Word) : Nat × Bool :=
  match fmtOf c, intOf c with
  | some f, _ =>
    match FFmt.fp64.read a.toNat with
    | .nan _ => (f.nanBits, false)
    | .inf neg => if f.special = .ieee then (f.signBit neg + f.infBits, false) else f.overflow md sat neg
    | .fin neg m e => storeFmt c md sat ⟨if neg then -(m : Int) else m, e⟩ (some neg)
  | none, some (_, signed) => storeFmt c md sat ⟨if signed then a.toInt else a.toNat, 0⟩ none
  | none, none => (0, false)

/-- The constant of `strm.cst` as an element of an MX block: an infinity exceeds every scale. -/
def constElem (a : Word) (orig : Nat) : Elem :=
  match FFmt.fp64.read a.toNat with
  | .nan _ => { num := 0, exp := 0, zs := none, poison := some orig }
  | .inf neg => { num := if neg then -1 else 1, exp := 4096, zs := none, poison := none }
  | .fin neg m e => { num := if neg then -(m : Int) else m, exp := e, zs := if m = 0 then some neg else none, poison := none }

end Sys2Proof.Machine
end

