-- ==== Sys2Proof/Machine/UnitAccess.lean ====
section
/-!
DEFINITION. Accesses of units: streams, copies and engines (10 R193-R203; 11 R208-R214; 18 R383-R386): their translation, what
a transfer issues, and how the home performs it.
-/
namespace Sys2Proof.Machine

/-! Translation (R383-R386). -/

/-- The parts of `n` bytes from `va`, one for each 16-byte word that they touch (R198): offset and length. -/
def wordParts (va n : Nat) : List (Nat × Nat) :=
  let a := va % 16
  (rangeFrom 0 ((a + n + 15) / 16)).map fun j => (16 * j - a, min (16 * j + 16 - a) n - (16 * j - a))

/-- The translation of `va` for a unit of core `c` (R384): from the cluster's second-level TLB, or by a walk that fills it;
none while the walk waits for earlier stores of the control processor (R386). -/
def State.unitLookup (s : State) (c : Nat) (root : BitVec 58) (va : Nat) : State × Except (Option Fail) Xlat :=
  if !canonical va then (s, .error (some ⟨causeXlate, word va⟩))
  else match listFind (fun x => x.covers root va) (s.cluster (c / 12)).tlb with
  | some x => (s, .ok x)
  | none =>
    if (s.cpOf c).ctl.reqs.any fun r => r.op.writes then (s, .error none)
    else
      let s := s.count c 12 1
      match s.walk root va with
      | (s, .leaf x _) => (s.modCluster (c / 12) fun y => { y with tlb := tlbAdd 4096 y.tlb x }, .ok x)
      | (s, .stop f _) => (s, .error (some f))

/-- The translation of one address, from the unit's own entry or by a lookup (R385), with its permission (R383). -/
def State.unitTranslate (s : State) (c : Nat) (xl : Option Xlat) (va : Nat) (u : Use) (sys : Bool) :
    State × Except (Option Fail) Xlat :=
  let root := (s.cpOf c).ctl.xroot
  let r : State × Except (Option Fail) Xlat := match xl with
    | some x => if x.covers root va && canonical va then (s, .ok x) else s.unitLookup c root va
    | none => s.unitLookup c root va
  match r with
  | (t, .error f) => (t, .error f)
  | (t, .ok x) => if x.permits u sys then (t, .ok x) else (t, .error (some ⟨causeProt, word va⟩))

/-- The parts of an access of a unit: every part is translated and checked before any byte is read or written. The last
translation is the unit's entry from then on. An error without a cause says that the access waits. -/
def State.unitSegs (s : State) (c : Nat) (xl : Option Xlat) (va : Word) (u : Use) (sys : Bool) :
    List (Nat × Nat) → State × Except (Option Fail) (List Seg × Option Xlat)
  | [] => (s, .ok ([], xl))
  | p :: l =>
    let a := (va + word p.1).toNat
    match s.unitTranslate c xl a u sys with
    | (t, .error f) => (t, .error f)
    | (t, .ok x) =>
      match t.pathFail (x.phys a) p.2 with
      | some f => (t, .error (some f))
      | none =>
        match t.unitSegs c (some x) va u sys l with
        | (t, .error f) => (t, .error f)
        | (t, .ok (gs, y)) => (t, .ok ({ pa := x.phys a, off := p.1, n := p.2, done := false } :: gs, y))

/-- The conditions on the bytes of an access as a whole: they lie in one region of one die (R226), and those in host memory
inside one window (R466). -/
def State.spanFail (s : State) (gs : List Seg) : Option Fail :=
  let e := segEnds gs
  if diePart e.1 != diePart e.2 then some ⟨causeBound, word e.1⟩
  else if s.isOwn e.1 && regionOf (paKind e.1) == .host && !s.inOneWindow gs then some ⟨causeProt, word e.1⟩
  else none

/-- The parts of an access of a unit, with the conditions on the whole. -/
def State.unitParts (s : State) (c : Nat) (xl : Option Xlat) (va : Word) (u : Use) (sys : Bool) (l : List (Nat × Nat)) :
    State × Except (Option Fail) (List Seg × Option Xlat) :=
  match s.unitSegs c xl va u sys l with
  | (t, .error f) => (t, .error f)
  | (t, .ok (gs, y)) => match t.spanFail gs with
    | some f => (t, .error (some f))
    | none => (t, .ok (gs, y))

/-! What a transfer issues. -/

/-- One write of an element: where, how many bits at which bit, and the bits. -/
structure Put where
  va : Word
  bit : Nat
  w : Nat
  v : Nat
deriving DecidableEq, Repr

/-- A read of `n` bytes, not yet issued. -/
def readAcc (va : Word) (n : Nat) : UAcc :=
  { id := 0, va := va, n := n, put := none, segs := [], got := [], bad := none, lost := [], waited := false }

/-- A write, not yet issued. -/
def Put.acc (p : Put) : UAcc :=
  { id := 0, va := p.va, n := (p.bit + p.w + 7) / 8, put := some (p.bit, p.w, p.v), segs := [], got := [], bad := none,
    lost := [], waited := false }

/-- The parts of an access that is issued again: those that are performed already are not performed once more (R221). -/
def keepDone (old new : List Seg) : List Seg :=
  (new.zip (rangeFrom 0 new.length)).map fun (p : Seg × Nat) =>
    match old[p.2]? with
    | some g => { p.1 with done := g.done }
    | none => p.1

/-- Several accesses are issued, all translated and checked (R221); the transfer's translation follows. -/
def State.issueAccs (s : State) (c : Nat) (xl : Option Xlat) (sys : Bool) :
    List UAcc → State × Except (Option Fail) (List UAcc × Option Xlat)
  | [] => (s, .ok ([], xl))
  | a :: l =>
    match s.unitParts c xl a.va (if a.put.isSome then .write else .read) sys (wordParts a.va.toNat a.n) with
    | (t, .error f) => (t, .error f)
    | (t, .ok (gs, y)) =>
      match t.issueAccs c y sys l with
      | (t, .error f) => (t, .error f)
      | (t, .ok (as, z)) => (t, .ok ({ a with segs := keepDone a.segs gs } :: as, z))

/-- Accesses numbered as the next of core c. -/
def State.numbered (s : State) (c : Nat) (as : List UAcc) : State × List UAcc :=
  let n := (s.cpOf c).ctl.nextId
  (s.modCpOf c fun x => { x with ctl := { x.ctl with nextId := n + as.length } },
    (as.zip (rangeFrom n as.length)).map fun (p : UAcc × Nat) => { p.1 with id := p.2 })

/-- What issuing accesses comes to: they wait, one faults, or they are under way. -/
inductive Issued where
  | wait
  | fault (s : State) (f : Fail)
  | ok (s : State) (as : List UAcc) (xl : Option Xlat)

/-- Accesses are issued together. -/
def State.issue (s : State) (c : Nat) (xl : Option Xlat) (sys : Bool) (as : List UAcc) : Issued :=
  match s.issueAccs c xl sys as with
  | (_, .error none) => .wait
  | (t, .error (some f)) => .fault t f
  | (t, .ok (as, xl)) =>
    let p := t.numbered c as
    .ok p.1 p.2 xl

/-! What has been issued. -/

/-- Every part is performed. -/
def UAcc.done (a : UAcc) : Bool := a.segs.all fun g => g.done

/-- Every access is performed. -/
def Flown.done (f : Flown) : Bool := f.issued && f.accs.all UAcc.done

/-- It writes memory. -/
def Flown.writes (f : Flown) : Bool := f.accs.any fun a => a.put.isSome

/-- Every access that a transfer has issued is performed (R221). -/
def Xfer.performed (x : Xfer) : Bool := x.flown.all Flown.done

/-- An access is under way: issued, and not performed. -/
def flying (l : List Flown) : Bool := l.any fun f => f.issued && !f.done

/-- An access of a transfer is under way. -/
def Xfer.underway (x : Xfer) : Bool := flying x.flown

/-- What is recalled is not issued again (R304). -/
def Xfer.recalled (x : Xfer) : Xfer := { x with flown := x.flown.filter fun f => f.issued }

/-- The accesses that have been issued, in order. -/
def flownAccs (l : List Flown) : List UAcc := l.flatMap fun f => if f.issued then f.accs else []

/-- The accesses that a transfer has issued, in order. -/
def Xfer.accs (x : Xfer) : List UAcc := flownAccs x.flown

/-- The reads of a transfer whose responses have not left it (R200): one entry for each element, whatever
accesses it takes (DEDUCED, log entry 53). -/
def Xfer.waiting (x : Xfer) : Nat :=
  (x.flown.filter fun f => !f.writes).length + (if x.out.isEmpty && x.bytes.isEmpty then 0 else 1)

/-- The writes of a transfer whose responses have not left it (R200). -/
def Xfer.writing (x : Xfer) : Nat := (x.flown.filter Flown.writes).length

/-- The next of what a transfer has read, if it is there (R200). -/
def Xfer.front (x : Xfer) : Option Flown :=
  match listFind (fun f => !f.writes) x.flown with
  | some f => if f.done then some f else none
  | none => none

/-- What was at the front leaves. -/
def Xfer.drop (x : Xfer) (f : Flown) : Xfer := { x with flown := x.flown.erase f }

/-- An access may be performed once the earlier ones, of its direction, to a common byte are (R214, R216). -/
def mayPerform (l : List Flown) (a : UAcc) (g : Seg) : Bool :=
  ((flownAccs l).takeWhile fun b => b.id != a.id).all fun b =>
    b.put.isSome != a.put.isSome || b.segs.all fun h => h.done || !segsMeet [h] [g]

/-- The access of this number, and its part `j` if that may be performed. -/
def flownRequest (l : List Flown) (id j : Nat) : Option (UAcc × Seg) :=
  match listFind (fun a => a.id == id) (flownAccs l) with
  | none => none
  | some a =>
    match a.segs[j]? with
    | some g => if g.done || !mayPerform l a g then none else some (a, g)
    | none => none

/-- One of the accesses has this number. -/
def hasAccess (l : List Flown) (id : Nat) : Bool := (flownAccs l).any fun a => a.id == id

/-- An access has changed. -/
def putFlown (l : List Flown) (a : UAcc) : List Flown :=
  l.map fun f =>
    if f.accs.any fun b => b.id == a.id then { f with accs := f.accs.map fun b => if b.id = a.id then a else b } else f

/-- The writes that are performed leave, in the order of their issue (R200). -/
def leaveWrites : List Flown → List Flown
  | [] => []
  | f :: l => if !f.writes then f :: leaveWrites l else if f.done then leaveWrites l else f :: l

/-- An access of a transfer has changed: the elements that are performed thereby. -/
def Xfer.putAcc (x : Xfer) (a : UAcc) : Xfer × Nat :=
  let l := putFlown x.flown a
  let n := ((l.filter fun f => f.accs.any (fun b => b.id == a.id) && f.done).map fun f => f.n).foldl (fun m k => m + k) 0
  ({ x with flown := leaveWrites l, elem := x.elem + BitVec.ofNat 32 n }, n)

/-- The next of what was recalled is issued again (R221). -/
def againOf (l : List Flown) : Option Flown := listFind (fun f => !f.issued) l

/-- What was recalled is under way again. -/
def reissued (l : List Flown) (f : Flown) (as : List UAcc) : List Flown :=
  l.map fun g => if g = f then { g with accs := as, issued := true } else g

/-- Everything that is issued is performed. -/
def issuedDone (l : List Flown) : Bool := (l.filter fun f => f.issued).all Flown.done

/-- An access fails at its home or on its way there (R202, R221, R469): with every one before it performed, it and the later
ones are recalled, where no write among them is performed in part. What was recalled, and the position of the failing one. -/
def recallFrom (l : List Flown) (id : Nat) : Option (List Flown × Nat) :=
  let has := fun (f : Flown) => f.issued && f.accs.any fun a => a.id == id
  let before := l.takeWhile fun f => !has f
  let after := l.dropWhile fun f => !has f
  match after with
  | f :: _ =>
    if before.all Flown.done && after.all (fun g => !g.writes || g.accs.all fun a => a.segs.all fun h => !h.done) then
      some (before ++ after.map fun g => if g.done then g else { g with issued := false }, f.pos)
    else none
  | [] => none

/-- The position that an access of a transfer was issued at. -/
def Xfer.posOf (x : Xfer) (id : Nat) : Nat :=
  match listFind (fun f => f.accs.any fun b => b.id == id) x.flown with
  | some f => f.pos
  | none => x.pos

/-- `n` bytes at offset `off` of an element's, with the bits that a write covers replaced (R52). -/
def mergePart (old : List Byte) (off : Nat) (p : Nat × Nat × Nat) : List Byte :=
  let x := leNat old
  let m := (2 ^ p.2.1 - 1) * 2 ^ p.1 / 2 ^ (8 * off) % 2 ^ (8 * old.length)
  let v := p.2.2 % 2 ^ p.2.1 * 2 ^ p.1 / 2 ^ (8 * off) % 2 ^ (8 * old.length)
  leBytes (x - (x &&& m) + v) old.length

/-- The home performs part `j` of an access (R198, R202, R203, R208): the access after it. -/
def State.unitPerform (s : State) (c orig : Nat) (w3 : Word) (a : UAcc) (j : Nat) (g : Seg) : State × UAcc :=
  let a := { a with segs := listSet a.segs j { g with done := true } }
  match a.put with
  | some p => (s.unitWrite c orig w3 g.pa (mergePart (s.bytesAt g.pa g.n) g.off p), a)
  | none =>
    (s.eccRead g.pa g.n,
      { a with
        got := putBytes a.got g.off (s.bytesAt g.pa g.n)
        bad := if a.bad.isNone && s.eccBad g.pa g.n then some (s.memOrig g.pa) else a.bad
        lost := a.lost ++ ((rangeFrom 0 g.n).filter fun i => s.halfBad (s.memKey (g.pa + i) / 8)).map fun i => g.off + i })

/-- A part of an access of an engine is performed, if it may be: the accesses after it. -/
def State.flownPerform (s : State) (c orig : Nat) (w3 : Word) (l : List Flown) (id j : Nat) : Option (State × List Flown) :=
  match flownRequest l id j with
  | none => none
  | some (a, g) =>
    if s.waveBars c g.pa then none
    else
      let p := s.unitPerform c orig w3 a j g
      some (p.1, putFlown l p.2)

end Sys2Proof.Machine
end

