-- ==== Sys2Proof/Machine/Streams.lean ====
section
/-!
DEFINITION. Streams (15 R290-R307, R503; 11 R214-R216, R221; 18 R385; 23 R476) and the stream barriers.
-/
namespace Sys2Proof.Machine

/-! Streams as units. -/

/-- The stream id (R301). -/
def Stream.sid (x : Stream) (ag slot : Nat) : Nat := (0x30 + ag) * 256 + x.gen.toNat * 4 + slot

/-- The status word (R303). -/
def Stream.word (x : Stream) : Word :=
  let st := match x.phase with
    | .idle => 0
    | .deferred => 1
    | .deciding => 2
    | .running => 3
    | .withheld => 4
    | .done => 5
    | .cancelled => 6
  Machine.word (st * 2 ^ 61 + (boolWord x.x.ovf).toNat * 2 ^ 60 + (boolWord x.x.pois).toNat * 2 ^ 59
    + x.x.satcnt.toNat * 2 ^ 32 + x.x.elem.toNat)

/-- Every element of the pattern has been performed. -/
def Stream.atEnd (x : Stream) : Bool := decide (shTotal x.record ≤ x.x.pos)

/-- Nothing that was read is in hand, still to be delivered. -/
def Xfer.sent (x : Xfer) : Bool := x.out.isEmpty && x.bytes.isEmpty

/-- Everything issued is performed, and what was read has been delivered. -/
def Xfer.delivered (x : Xfer) : Bool := x.flown.isEmpty && x.sent

/-- The slot of the stream that a handle names (R301, R303), of generator ag. -/
def State.named (s : State) (c ag : Nat) (h : Word) : Option Nat :=
  listFind (fun i => (s.stream c ag i).phase != .idle && h == word ((s.stream c ag i).sid ag i)) (rangeFrom 0 4)

/-- The template that occupies a slot of a generator (R316). -/
def State.copyIn (s : State) (c ag slot : Nat) : Option Nat :=
  listFind (fun n =>
    let t := s.tpl c n
    t.phase.busy && t.place == some (4 * ag + slot)) (rangeFrom 0 16)

/-- The withhold of a stream by a fault on an access of the element at position `n` (R221, R452, R455): it can be resumed. -/
def State.streamFault (s : State) (c ag slot n : Nat) (f : Fail) : State :=
  let x := s.stream c ag slot
  ((s.setStream c ag slot { x with phase := .withheld }).post c
    { typ := 0, cause := f.cause, orig := originId c (0x30 + ag), resume := true, held := true, double := false,
      words := [f.val, word (x.sid ag slot * 2 ^ 48 + n)] }).active c

/-- A stream starts to run: it takes its place among the generator's commands. -/
def State.launch (s : State) (c ag slot : Nat) : State :=
  ((s.setStream c ag slot { s.stream c ag slot with phase := .running, order := (s.units c).next }).modUnits c
    fun u => { u with next := u.next + 1 }).active c

/-- The stream ends in a phase, and those who cancelled it receive its status (R303). -/
def State.streamEnd (s : State) (c ag slot : Nat) (p : StreamPhase) : State :=
  let x := { s.stream c ag slot with phase := p, cancelling := false }
  let s := s.setStream c ag slot { x with cancel := [] }
  (x.cancel.foldl (fun (s : State) r => s.deliver c r x.word) s).active c

/-- The stream is DONE; an outbound one has its fire token to emit (R296). -/
def State.streamFinish (s : State) (c ag slot : Nat) : State :=
  let x := s.stream c ag slot
  let s := s.streamEnd c ag slot .done
  if 4 ≤ ag ∧ shFdst x.record ≠ 0 then
    s.modUnits c fun u =>
      { u with fires := u.fires ++
          [{ ag := ag, slot := slot, dst := shFdst x.record, pay := word (3 * 2 ^ 60 + x.sid ag slot * 2 ^ 44),
             ctag := x.ctag, lost := false }] }
  else s

/-! Ports (R117, R297, R503). -/

/-- Where an inbound transfer delivers, or whether its frame is still to come, or cannot serve it. -/
inductive Target where
  | side (q : Nat)
  | raw (sb i : Nat) (f : Frame)
  | buf (sb i : Nat) (f : Frame)
  | wait
  | bad
deriving DecidableEq, Repr

/-- The target of a port in a tag: an edge side, or a stream buffer. -/
def State.portTarget (s : State) (c ag port : Nat) (tag : BitVec 8) : Target :=
  let k := if port = 0 then 0x30 + ag else 0x30 + port
  match s.slotFor c k tag with
  | none => .wait
  | some (i, f) =>
    if port = 0 then .side (fb f 223 220)
    else if sbPsrc f ≠ 0x10 then .bad
    else if sbRaw f then .raw (port - 16) i f else .buf (port - 16) i f

/-- The target of an inbound stream, with the pairings of R297. -/
def State.streamTarget (s : State) (c ag : Nat) (x : Stream) : Target :=
  let pb := shFmt x.record == fmtPb
  match s.portTarget c ag (shPort x.record) x.ctag with
  | .raw n i f => if pb then .raw n i f else .bad
  | t => t

/-- Two ports of one generator are one place. Of an edge side that an outbound generator drains, a stream takes the flits of
its own tag alone (R297, R361). -/
def State.samePort (s : State) (c ag p : Nat) (t : BitVec 8) (q : Nat) (u : BitVec 8) : Bool :=
  p == q && (t == u || (p == 0 && decide (ag < 4) && (match s.frameFor c (0x30 + ag) t, s.frameFor c (0x30 + ag) u with
    | some f, some g => fb f 223 220 == fb g 223 220
    | _, _ => false)))

/-- The places among the commands of a generator of those that deliver to a port, or take from it, and have not
finished: streams, what cancelled streams left, and in-band images (R296, R297, R374). -/
def State.portUsers (s : State) (c ag port : Nat) (tag : BitVec 8) : List Nat :=
  ((rangeFrom 0 4).filterMap fun i =>
    let x := s.stream c ag i
    if x.order != 0 && (x.phase == .running || x.phase == .withheld) && (decide (ag < 4) || x.konst.isNone)
        && s.samePort c ag (shPort x.record) x.ctag port tag && !(x.atEnd && x.x.delivered) then some x.order
    else none)
  ++ ((s.units c).tails.filterMap fun t =>
    if t.ag == ag && !t.lost && s.samePort c ag t.port t.ctag port tag then some t.order else none)
  ++ ((s.grid c).inbands.filterMap fun b =>
    if b.ag == ag && s.samePort c ag 0 b.tag port tag then some b.order else none)
  ++ ((s.grid c).waits.filterMap fun w => match w.what with
    | .inband g t o => if g == ag && s.samePort c ag 0 t port tag then some o else none
    | _ => none)

/-- It is the turn of the command at place `order` on a port. -/
def State.hasTurn (s : State) (c ag port : Nat) (tag : BitVec 8) (order : Nat) : Bool :=
  !((s.portUsers c ag port tag).any fun o => decide (o < order))

/-- What comes of delivering to a target: it waits, it has happened, or the pairing is bad. -/
inductive Delivery where
  | wait (s : State)
  | sent (s : State)
  | bad

/-- One flit goes to a target. -/
def State.deliverFlit (s : State) (c src : Nat) (t : Target) (x : Flit) : Delivery :=
  match t with
  | .side q => if s.sideRoom c q then .sent (s.sidePush c q x) else .wait s
  | .buf n i f => if s.sbRoom c n i f src 16 then .sent (s.sbPutFlit c n i f src x) else .wait (s.sbAsk c n i src)
  | .wait => .wait s
  | _ => .bad

/-- The bytes of a plane-block go to a target. -/
def State.deliverBytes (s : State) (c src : Nat) (t : Target) (bs : List Byte) : Delivery :=
  match t with
  | .raw n i f =>
    if s.sbRoom c n i f src bs.length then .sent (s.sbPut c n i f src bs true) else .wait (s.sbAsk c n i src)
  | .wait => .wait s
  | _ => .bad

/-! Inbound elements (R292-R295, R302). -/

/-- The flits of a list of digit floats, the last with LAST as given. -/
def State.valFlits (s : State) (orig nd wc : Nat) (apx : Bool) (tag : BitVec 8) (last : Bool) :
    List DVal → State × List Flit
  | [] => (s, [])
  | d :: l =>
    let p := if d.z then s.zeroExp else (s, 0)
    let fs := d.flits p.2 orig nd wc (apx && !d.poison) tag (last && l.isEmpty)
    let r := p.1.valFlits orig nd wc apx tag last l
    (r.1, fs ++ r.2)

/-- The digits that an inbound stream delivers (R57, R476). -/
def Stream.digits (x : Stream) : Nat := max 1 (shNdig x.record - x.level.toNat)

/-- The flits of the element at position `p` (R295), with the end of tile that follows it, or the bytes of a plane-block. A
plane-block that memory could not deliver goes into a raw buffer as its bytes stand, with no record; and the payload of a
poisoned word is 0 (DESIGN CHOICE, log entry 46: R59 gives neither). -/
def State.elemFlits (s : State) (c ag : Nat) (x : Stream) (t : Target) (p : Nat) (e : RawElem) :
    State × List Flit × List Byte :=
  let r := x.record
  let fmt := shFmt r
  let last := shEnds r p (shRlev r)
  let tile := shEnds r p (shTlev r)
  match t with
  | .raw _ _ _ => (s, [], leBytes e.raw (elemBits fmt (shPcnt r) / 8))
  | _ =>
    let floats := if shIsWord r then 1 else elemFloats fmt
    let orig := e.poison.getD (originId c (0x30 + ag))
    let q :=
      if shIsWord r then
        let v : Word := match intOf fmt with
          | some (w, true) => u64 (signedOf w e.raw)
          | some (w, false) => word (e.raw % 2 ^ w)
          | none => 0
        (s, [mkFlit 0 x.ctag (if e.poison.isSome then 0 else v) e.poison.isSome last])
      else
        let nd := x.digits
        let ds := if e.poison.isSome then List.replicate floats DVal.bad else elemDigits fmt (shPcnt r) nd e.scale e.raw
        s.valFlits orig nd (shWc r) (decide (nd < fmtNeed fmt (shPcnt r))) x.ctag last ds
    let n := x.x.tile + (if fmt = fmtPb then 32 else 1)
    (q.1, q.2 ++ (if tile then [mkFlit 4 x.ctag (tilePay 0 n 0) false true] else []), [])

/-- The rounding mode of a stream at an index (R60, R61). -/
def Stream.mode (x : Stream) (ag slot idx : Nat) : RMode :=
  rmodeOf (shRm x.record) (rsrBits x.seed (x.sid ag slot) idx)

/-- The elements of the MX block of position p: 32, or fewer at the end of level 0 (R294). -/
def blockLen (r : Shape) (p : Nat) : Nat := min 32 (shCount r 0 - shIter r p 0 / 32 * 32)

/-- The rounding mode of a constant (R302): A is rounded once, which RSR does with the index 0 (DEDUCED, log
entry 43: no rule gives the index). -/
def Stream.constMode (x : Stream) (ag slot : Nat) : RMode := x.mode ag slot 0

/-- The stored element of a constant (R302). -/
def Stream.constRaw (x : Stream) (ag slot : Nat) (a : Word) : RawElem :=
  let r := x.record
  let md := x.constMode ag slot
  if isMx (shFmt r) then
    let l := List.replicate (blockLen r x.x.pos) (constElem a 0)
    { raw := (mxPat (shFmt r) md (shSat r) l (constElem a 0)).1, scale := mxScale (shFmt r) (shSat r) l, poison := none }
  else { raw := (constPat (shFmt r) md (shSat r) a).1, scale := 0, poison := none }

/-- The address and bit of the element at a transfer's position whose index at level 0 is `i0` (R292, R293). -/
def Xfer.elemAt (x : Xfer) (r : Shape) (base : Word) (u : Int) (i0 : Nat) : Word × Nat :=
  elemAddr (shFmt r) (shPcnt r) base (shOffset r x.pos i0 u)

/-- The position opens an MX block, and reads its scale (R294). -/
def opensBlock (r : Shape) (p : Nat) : Bool := isMx (shFmt r) && shIter r p 0 % 32 == 0

/-- What reading the element at a transfer's position reads (R53, R292-R294): the block's scale with the first element of an
MX block, the element, and the padding after the last element of a short block. -/
def Xfer.reads (x : Xfer) (r : Shape) (base : Word) (u : Int) : List (Word × Nat) :=
  let i0 := shIter r x.pos 0
  let one := fun (i : Nat) =>
    let a := x.elemAt r base u i
    (a.1, elemBytes (shFmt r) (shPcnt r) a.2)
  (if opensBlock r x.pos then [(scaleAddr r x.pos, 1)] else []) ++ [one i0]
    ++ (if isMx (shFmt r) && i0 + 1 == shCount r 0 then (rangeFrom (i0 + 1) (31 - i0 % 32)).map one else [])

/-- What issuing an element comes to: it waits, it faults, or its accesses are under way. -/
inductive Issue where
  | wait
  | fault (s : State) (f : Fail)
  | ok (s : State) (x : Xfer)

/-- The element at a transfer's position is issued (R292-R294): all its accesses are translated and checked first. `n` are the
elements that are performed with it; `u` is the index of an indirect stream. -/
def State.issueRead (s : State) (c : Nat) (x : Xfer) (r : Shape) (base : Word) (sys : Bool) (u : Int) (n : Nat) : Issue :=
  match s.issue c x.xl sys ((x.reads r base u).map fun (p : Word × Nat) => readAcc p.1 p.2) with
  | .wait => .wait
  | .fault t f => .fault t f
  | .ok t as xl =>
    .ok t { x with
      pos := x.pos + 1
      xl := xl
      flown := x.flown ++
        [{ pos := x.pos, n := n, known := none, bit := (x.elemAt r base u (shIter r x.pos 0)).2, accs := as, issued := true }] }

/-- Writes are issued for the element at a transfer's position (R221, R296). -/
def State.issueWrite (s : State) (c : Nat) (x : Xfer) (sys : Bool) (pos n : Nat) (l : List Put) : Issue :=
  match s.issue c x.xl sys (l.map Put.acc) with
  | .wait => .wait
  | .fault t f => .fault t f
  | .ok t as xl =>
    .ok t { x with
      xl := xl
      flown := x.flown ++
        (if as.isEmpty then [] else [{ pos := pos, n := n, known := none, bit := 0, accs := as, issued := true }])
      elem := if as.isEmpty then x.elem + BitVec.ofNat 32 n else x.elem }

/-- What was recalled of a transfer is issued again, one element at a time (R221). -/
def State.issueAgain (s : State) (c : Nat) (x : Xfer) (sys : Bool) (f : Flown) : Issue :=
  match s.issue c x.xl sys f.accs with
  | .wait => .wait
  | .fault t e => .fault t e
  | .ok t as xl => .ok t { x with xl := xl, flown := reissued x.flown f as }

/-- The stored element that has come to the front of a transfer, with the scale of its block (R59, R294). Where neither the
element nor its scale could be read, its ORIG names the element's memory (DEDUCED, log entry 104). -/
def Xfer.takeRaw (x : Xfer) (r : Shape) (f : Flown) : Xfer × RawElem :=
  match f.known with
  | some e => (x.drop f, e)
  | none =>
    let none' : UAcc := readAcc 0 0
    let first := opensBlock r f.pos
    let sc := if first then (let a := listGet none' f.accs 0
      some (leNat a.got, a.bad)) else if isMx (shFmt r) then x.scale else none
    let a := listGet none' f.accs (if first then 1 else 0)
    ({ x.drop f with scale := sc },
      { raw := leNat a.got / 2 ^ f.bit % 2 ^ elemBits (shFmt r) (shPcnt r)
        scale := (sc.map fun p => p.1).getD 0
        poison := match a.bad, sc with
          | some o, _ => some o
          | none, some (_, o) => o
          | none, none => none })

/-- What stands at the front of an inbound stream is taken: its flits or bytes wait to leave. -/
def State.takeElem (s : State) (c ag slot : Nat) (t : Target) (f : Flown) : State :=
  let x := s.stream c ag slot
  let r := x.record
  let q := x.x.takeRaw r f
  let p := s.elemFlits c ag x t f.pos q.2
  let x' := { q.1 with
    out := x.x.out ++ p.2.1
    bytes := x.x.bytes ++ (if p.2.2.isEmpty then [] else [p.2.2])
    tile := if shEnds r f.pos (shTlev r) then 0 else x.x.tile + (if shFmt r = fmtPb then 32 else 1) }
  ((p.1).setStream c ag slot { x with x := x' }).active c

/-- The next element that an inbound stream has read leaves its reorder buffer (R200, R297); a bad pairing shows when the
first element reaches the buffer. -/
def State.inTake (s : State) (c ag slot : Nat) : State :=
  let x := s.stream c ag slot
  match x.x.front, s.streamTarget c ag x with
  | none, _ => s
  | _, .wait => s
  | some f, .bad => if x.terminal then s else (s.setStream c ag slot { x with x := x.x.drop f }).streamBad c ag slot
  | some f, t => s.takeElem c ag slot t f

/-- Everything that an inbound stream has read is taken. -/
def State.inTakeAll (s : State) (c ag slot : Nat) : State :=
  let x := s.stream c ag slot
  x.x.flown.foldl (fun (s : State) f => s.takeElem c ag slot (s.streamTarget c ag x) f) s

/-- An indirect stream pops its next index (R293). -/
def State.popIndex (s : State) (c ag slot : Nat) : State :=
  let x := s.stream c ag slot
  let n := shIsb x.record
  match s.sbAt c n x.ctag with
  | none => s
  | some (i, f) =>
    if sbQdst f ≠ 0x14 then s.streamBad c ag slot
    else match s.sbHead c n i f (byStream ag slot) with
    | none => s.sbAskPop c n i (byStream ag slot)
    | some h =>
      if h.kind ≠ 0 then s.streamBad c ag slot
      else (s.sbDropFlit c n i f (byStream ag slot) h).setStream c ag slot
        { x with x := { x.x with index := some (h.pay, h.poison) } }

/-- An element that is read from no memory is issued: it is performed at once. -/
def Xfer.known (x : Xfer) (e : RawElem) : Xfer :=
  { x with
    pos := x.pos + 1
    elem := x.elem + 1
    flown := x.flown ++ [{ pos := x.pos, n := 0, known := some e, bit := 0, accs := [], issued := true }] }

/-- The element at an inbound stream's position has been issued: the index of an indirect stream serves one pass (R293). -/
def State.inIssued (s : State) (c ag slot n : Nat) (x : Stream) (y : Xfer) : State :=
  let y := { y with index := if y.pos % shAffine x.record = 0 then none else y.index }
  ((s.setStream c ag slot { x with x := y }).count c 7 n).active c

/-- The next element of an inbound stream is issued (R292-R295, R302), where its port has a frame. A fault waits until the
elements before it are performed (R221). -/
def State.inRead (s : State) (c ag slot : Nat) : State :=
  let x := s.stream c ag slot
  let r := x.record
  match s.streamTarget c ag x with
  | .wait => s
  | _ =>
    let known := fun (e : RawElem) => s.inIssued c ag slot 1 x (x.x.known e)
    let read := fun (u : Int) => match s.issueRead c x.x r x.base x.sys u 1 with
      | .wait => s
      | .fault t f => if x.x.performed then t.streamFault c ag slot x.x.pos f else s
      | .ok t y => t.inIssued c ag slot 0 x y
    match x.konst with
    | some a => known (x.constRaw ag slot a)
    | none =>
      if !shInd r then read 0
      else match x.x.index with
      | none => s.popIndex c ag slot
      | some (_, true) => known { raw := 0, scale := 0, poison := some (originId c (0x30 + ag)) }
      | some (u, false) => read u.toInt

/-- What an inbound stream has in hand goes to its port (R295, R297). -/
def State.inDeliver (s : State) (c ag slot : Nat) : State :=
  let x := s.stream c ag slot
  let t := s.streamTarget c ag x
  if !s.hasTurn c ag (shPort x.record) x.ctag x.order then s
  else
    let d := match x.x.out with
      | f :: l => (s.deliverFlit c (byStream ag slot) t f, { x.x with out := l })
      | [] => match x.x.bytes with
        | b :: l => (s.deliverBytes c (byStream ag slot) t b, { x.x with bytes := l })
        | [] => (.wait s, x.x)
    match d with
    | (.wait s, _) => s
    | (.sent s, y) => s.setStream c ag slot { s.stream c ag slot with x := y }
    | (.bad, _) => if x.terminal then s else s.streamBad c ag slot

/-- What was recalled of a stream is issued again (R221). -/
def State.streamAgain (s : State) (c ag slot : Nat) (f : Flown) : State :=
  let x := s.stream c ag slot
  match s.issueAgain c x.x x.sys f with
  | .wait => s
  | .fault t e =>
    if issuedDone x.x.flown then t.streamFault c ag slot f.pos e else s
  | .ok t y => (t.setStream c ag slot { x with x := y }).active c

/-- One step of an inbound stream: what it has in hand goes to its port, the next element that it has read follows, and it
issues ahead while its reorder buffer has room (R200). A withheld one emits nothing further (R455). -/
def State.inStep (s : State) (c ag slot : Nat) : State :=
  let x := s.stream c ag slot
  if x.phase ≠ .running then s
  else
    let s := if x.x.sent then s else s.inDeliver c ag slot
    let s := if (s.stream c ag slot).x.sent then s.inTake c ag slot else s
    let x := s.stream c ag slot
    if x.phase ≠ .running ∨ x.cancelling then s
    else match againOf x.x.flown with
    | some f => s.streamAgain c ag slot f
    | none => if x.atEnd ∨ 32 ≤ x.x.waiting then s else s.inRead c ag slot

/-- The next word of an in-band image leaves its generator (R374). -/
def State.inbandStep (s : State) (c ag : Nat) : State :=
  match listFind (fun b => b.ag == ag && s.hasTurn c ag 0 b.tag b.order) (s.grid c).inbands with
  | none => s
  | some b =>
    match s.portTarget c ag 0 b.tag, b.words with
    | .side q, w :: l =>
      if !s.sideRoom c q then s
      else
        let s := s.sidePush c q { mkFlit 5 w.2 w.1 false (l.length % 4 == 0) with src := 8 * c + ag + 1 }
        if l.isEmpty then
          (s.modGrid c fun g => { g with inbands := g.inbands.filter fun y => y.order != b.order }).deliver c b.reg
            (cfgStatus 0 0 b.frames)
        else s.modGrid c fun g =>
          { g with inbands := g.inbands.map fun y => if y.order = b.order then { y with words := l } else y }
    | _, _ => s

/-! Outbound elements (R296, R60-R66, R69). -/

/-- The digit floats or words that an outbound stream gathers before it writes. -/
def Stream.gathers (x : Stream) : Nat :=
  if shFmt x.record = fmtPb then 32 else if isMx (shFmt x.record) then blockLen x.record x.x.pos else 1

/-- The elements of a block of constants. -/
def Stream.block (x : Stream) (c ag : Nat) : List Elem :=
  match x.konst with
  | some a => List.replicate x.gathers (constElem a (originId c (0x30 + ag)))
  | none => x.x.block

/-- The writes of the element at a stream's position (R292, R294), and the results that saturated. With the first element
of an MX block goes its scale, with the last the padding. -/
def Stream.puts (x : Stream) (c ag slot : Nat) : List Put × Nat :=
  let r := x.record
  let fmt := shFmt r
  let p := x.x.pos
  let sat := shSat r
  let md := fun idx => if x.konst.isSome then x.constMode ag slot else x.mode ag slot idx
  let at' := fun (i0 v : Nat) =>
    let a := elemAddr fmt (shPcnt r) x.base (shOffset r p i0 0)
    ({ va := a.1, bit := a.2, w := elemBits fmt (shPcnt r), v := v } : Put)
  let i0 := shIter r p 0
  let b := x.block c ag
  if fmt = fmtPb then
    let planes := shPcnt r + 1
    let v := pbPat (fun k => md (32 * p + k)) (shPax r) planes (max 1 (planes - x.level.toNat)) b
    ([at' i0 v.1], v.2)
  else if isMx fmt then
    let v := mxPat fmt (md p) sat b (listGet (constElem 0 0) b (i0 % 32))
    let scale : List Put :=
      if i0 % 32 = 0 then [{ va := scaleAddr r p, bit := 0, w := 8, v := mxScale fmt sat b }] else []
    let pad := if i0 + 1 = shCount r 0 then (rangeFrom (i0 + 1) (31 - i0 % 32)).map fun i => at' i 0 else []
    (scale ++ [at' i0 v.1] ++ pad, if v.2 then 1 else 0)
  else
    let v := match x.konst with
      | some a => constPat fmt (md p) sat a
      | none => elemPat fmt (md p) sat (listGet (constElem 0 0) b 0)
    ([at' i0 v.1], if v.2 then 1 else 0)

/-- The saturation count after n more (R303). -/
def satAdd (v : BitVec 16) (n : Nat) : BitVec 16 := BitVec.ofNat 16 (min 0xFFFF (v.toNat + n))

/-- A tile's poisoned elements after those of one more element (R66). The index of a plane-block's first poisoned value is the
position of its block in the pattern (DEDUCED, log entry 93). -/
def TilePoison.add (x : TilePoison) (pos : Nat) (l : List Elem) : TilePoison :=
  match l.filterMap fun e => e.poison with
  | [] => x
  | o :: t =>
    { count := x.count + t.length + 1, first := if x.count = 0 then pos else x.first,
      orig := if x.count = 0 then BitVec.ofNat 18 o else x.orig }

/-- The poison record of a tile, and the trap where the sink is marked (R66, R449). -/
def State.tilePoison (s : State) (c node sid : Nat) (trap : Bool) (p : TilePoison) : State :=
  if p.count = 0 then s
  else
    let num := s.nextNum c
    let s := s.postPoison c node (word (sid * 2 ^ 48 + p.first)) (word p.count) p.orig.toNat
    if trap then s.pendTrap c causePoison (word (num * 2 ^ 32 + sid)) else s

/-- The element at an outbound stream's position is issued (R296). A fault waits until the elements before it are performed
(R221). -/
def State.outWrite (s : State) (c ag slot : Nat) : State :=
  let x := s.stream c ag slot
  let r := x.record
  let p := x.puts c ag slot
  match s.issueWrite c x.x x.sys x.x.pos 1 p.1 with
  | .wait => s
  | .fault t f => if x.x.performed then t.streamFault c ag slot x.x.pos f else s
  | .ok t y =>
    let mine := if isMx (shFmt r) then [listGet (constElem 0 0) x.x.block (shIter r x.x.pos 0 % 32)] else x.x.block
    let poison := if x.konst.isSome then x.x.poison else x.x.poison.add x.x.pos mine
    let tile := shEnds r x.x.pos (shTlev r)
    let endBlock := !isMx (shFmt r) || (shIter r x.x.pos 0 + 1) % 32 == 0 || shIter r x.x.pos 0 + 1 == shCount r 0
    let y := { y with
      pos := x.x.pos + 1
      block := if endBlock then [] else x.x.block
      tile := if tile then 0 else x.x.tile + 1
      poison := if tile then .none else poison
      satcnt := satAdd x.x.satcnt p.2
      pois := x.x.pois || (tile && poison.count != 0) }
    let t := (t.setStream c ag slot { x with x := y }).active c
    if tile then t.tilePoison c (0x30 + ag) (x.sid ag slot) (shTrap r) poison else t

/-- The flit at an outbound stream's port, how it is consumed, or that the port is bad (R297, R503). -/
inductive PortHead where
  | none (s : State)
  | bad
  | flit (f : Flit) (s : State)

/-- The flit at an outbound port that the stream may take. -/
def State.outHead (s : State) (c ag slot : Nat) (x : Stream) : PortHead :=
  let port := shPort x.record
  let k := if port = 0 then 0x30 + ag else 0x30 + port
  match s.slotFor c k x.ctag with
  | none => .none s
  | some (i, f) =>
    if port = 0 then
      match s.head c (drainKey k) with
      | some h => if h.ctag = x.ctag ∧ h.kind ≠ 5 ∧ !h.sideBad then .flit h (s.popChan c (drainKey k)) else .none s
      | none => .none s
    else if sbQdst f ≠ 0x14 then if 0 < (s.sbuf c (port - 16) i).fill then .bad else .none s
    else match s.sbHead c (port - 16) i f (byStream ag slot) with
      | some h => .flit h (s.sbDropFlit c (port - 16) i f (byStream ag slot) h)
      | none => .none (s.sbAskPop c (port - 16) i (byStream ag slot))

/-- An outbound stream takes the next flit at its port (R296). -/
def State.outTake (s : State) (c ag slot : Nat) : State :=
  let x := s.stream c ag slot
  let r := x.record
  match s.outHead c ag slot x with
  | .none s => s
  | .bad => s.streamBad c ag slot
  | .flit f t =>
    let put := fun (y : Xfer) => t.setStream c ag slot { x with x := y }
    if f.kind = 4 then put { x.x with ovf := x.x.ovf || bits f.pay 62 2 == 1 }
    else if shIsWord r then
      if f.kind ≠ 0 then s.streamBad c ag slot
      else put { x.x with block := x.x.block ++ [wordElem (shFmt r) f (originId c (0x30 + ag))] }
    else if (f.kind = 1 ∧ x.x.taken.isEmpty) ∨ (f.kind = 2 ∧ !x.x.taken.isEmpty) then
      put { x.x with taken := x.x.taken ++ [f] }
    else if f.kind = 3 ∧ !x.x.taken.isEmpty then
      put { x.x with taken := [], block := x.x.block ++ [floatElem (x.x.taken ++ [f])] }
    else s.streamBad c ag slot

/-- One step of an outbound stream. -/
def State.outStep (s : State) (c ag slot : Nat) : State :=
  let x := s.stream c ag slot
  if x.phase ≠ .running ∨ x.cancelling then s
  else match againOf x.x.flown with
  | some f => s.streamAgain c ag slot f
  | none =>
  if x.atEnd then s
  else if x.konst.isSome ∨ x.gathers ≤ x.x.block.length then
    if x.x.writing < 32 then s.outWrite c ag slot else s
  else if s.hasTurn c ag (shPort x.record) x.ctag x.order then s.outTake c ag slot
  else s

/-- STREAM_WRITE (R296); a freeze wave holds it (R41). -/
def execStreamWrite (c : CoreIx) (ag : Fin 8) (slot : Fin 4) (s : State) : Result :=
  .next (if 4 ≤ ag.val ∧ s.waved c.val = false then s.outStep c.val ag.val slot.val else s)

/-! Ends. -/

/-- A fire token enters its destination (R296): done, not yet, or its buffer cannot take it (R503). -/
def State.emitFire (s : State) (c : Nat) (src dst : Nat) (pay : Word) (tag : BitVec 8) : Delivery :=
  if dst < 0x20 then
    if s.fqRoom c (dst % 16) then .sent (s.fqPut c (dst % 16) pay []) else .wait s
  else match s.sbAt c (dst % 16) tag with
  | none => .wait s
  | some (i, f) =>
    if sbRaw f then .bad
    else if s.sbRoom c (dst % 16) i f src 16 then
      .sent (s.sbPutFlit c (dst % 16) i f src (mkFlit 6 tag pay false true))
    else .wait (s.sbAsk c (dst % 16) i src)

/-- A stream that has performed and delivered everything is complete (R303). A cancel of the same cycle does not hold it up
(R304). -/
def Stream.complete (x : Stream) (cyc : Nat) : Bool :=
  x.phase == .running && (!x.cancelling || x.since == cyc + 1) && x.atEnd && x.x.delivered

/-- STREAM_DONE (R296, R303): a stream that is complete is DONE, and then its fire token goes.
An end of tile that stands behind the last element at the edge side is consumed. -/
def execStreamDone (c : CoreIx) (ag : Fin 8) (slot : Fin 4) (s : State) : Result :=
  let x := s.stream c.val ag.val slot.val
  match listFind (fun t => t.ag == ag.val && t.slot == slot.val && !t.lost) (s.units c.val).fires with
  | some t =>
    match s.emitFire c.val byFire t.dst t.pay t.ctag with
    | .wait s => .next s
    | .sent s => .next (s.modUnits c.val fun u => { u with fires := u.fires.erase t })
    | .bad => .next (s.fireBad c.val t)
  | none =>
    if x.complete s.cyc then
      .next (s.streamFinish c.val ag.val slot.val)
    else if 4 ≤ ag.val ∧ (x.phase = .done ∨ x.phase = .cancelled) ∧ shPort x.record = 0
        ∧ (s.portUsers c.val ag.val 0 x.ctag).isEmpty then
      match s.outHead c.val ag.val slot.val x with
      | .flit f t =>
        .next (if f.kind = 4 then
          t.setStream c.val ag.val slot.val { x with x := { x.x with ovf := x.x.ovf || bits f.pay 62 2 == 1 } }
        else s)
      | _ => .next s
    else .next s

/-- No frame gives the cancelled stream a port: no slot holds one and a demand fill would find none, and the stream was
withheld for want of it, or had nothing in hand and was not running (DEDUCED, log entry 39). -/
def State.noPort (s : State) (c ag : Nat) (x : Stream) : Bool :=
  let k := 0x30 + if shPort x.record = 0 then ag else shPort x.record
  x.phase != .running && (x.terminal || x.x.out.isEmpty) && (s.frameFor c k x.ctag).isNone
    && ((s.core c).cache.frameFor k x.ctag).isNone

/-- A cancelled inbound stream ends its tile (R304): what it has in hand, and then the end of tile, still leave by its port; a
raw buffer takes no end of tile (R295). A cancelled tile's poison record is that of no rule, and none is posted (DESIGN
CHOICE, log entry 96). -/
def State.cancelTail (s : State) (c ag slot : Nat) (x : Stream) : State :=
  let eot := x.x.out ++ [mkFlit 4 x.ctag (tilePay 0 x.x.tile 0) false true]
  let left : List Flit × List (List Byte) := match s.streamTarget c ag x with
    | .bad => ([], [])
    | .raw _ _ _ => ([], x.x.bytes)
    | .wait => if shFmt x.record == fmtPb && shNdig x.record == 0 then ([], x.x.bytes) else (eot, [])
    | _ => (eot, [])
  if 4 ≤ ag ∨ s.noPort c ag x ∨ (left.1.isEmpty && left.2.isEmpty) then s
  else s.modUnits c fun u =>
    { u with
      tails := u.tails ++
        [{ ag := ag, slot := slot, port := shPort x.record, ctag := x.ctag, flits := left.1, bytes := left.2,
           order := if x.order = 0 then u.next else x.order, lost := false }]
      next := if x.order = 0 then u.next + 1 else u.next }

/-- STREAM_CANCEL_COMPLETE (R304): once its accesses are performed a cancelled stream stands CANCELLED, from the cycle after
the cancel, in which its completion wins; the elements it had
issued are then delivered, and the end of its tile after them. A tile that an outbound cancel cuts short posts no poison
record (DESIGN CHOICE, log entry 96). -/
def execStreamCancelComplete (c : CoreIx) (ag : Fin 8) (slot : Fin 4) (s : State) : Result :=
  match listFind (fun (t : Tail) => t.ag == ag.val && t.slot == slot.val && !t.lost) (s.units c.val).tails with
  | some t =>
    let set := fun (s : State) (l : List Flit) (bs : List (List Byte)) => s.modUnits c.val fun u =>
      { u with tails := if l.isEmpty && bs.isEmpty then u.tails.erase t
          else u.tails.map fun y => if y = t then { y with flits := l, bytes := bs } else y }
    if !s.hasTurn c.val ag.val t.port t.ctag t.order then .next s
    else
      let d := match t.flits with
        | f :: l =>
          (s.deliverFlit c.val (byStream ag.val slot.val) (s.portTarget c.val ag.val t.port t.ctag) f, l, t.bytes)
        | [] => match t.bytes with
          | b :: l =>
            (s.deliverBytes c.val (byStream ag.val slot.val) (s.portTarget c.val ag.val t.port t.ctag) b, [], l)
          | [] => (.bad, [], [])
      match d with
      | (.wait s, _, _) => .next s
      | (.sent s, l, bs) => .next (set s l bs)
      | (.bad, _, _) => .next (set s [] [])
  | none =>
    let x := s.stream c.val ag.val slot.val
    if x.complete s.cyc then .next (s.streamFinish c.val ag.val slot.val)
    else if !x.cancelling || !x.x.performed || x.since == s.cyc + 1 then .next s
    else
      let s := if ag.val < 4 then s.inTakeAll c.val ag.val slot.val else s
      let x := s.stream c.val ag.val slot.val
      .next ((s.streamEnd c.val ag.val slot.val .cancelled).cancelTail c.val ag.val slot.val x)

/-! Stream commands (R298-R304). -/

/-- The word of a refusal (R301). -/
def refused (reason : Nat) : Word := word (2 ^ 62 + reason * 2 ^ 56)

/-- Whether the buffer that a record's PORT names is one of a matrix operand (R291, R297), as the frame of KCTX says that a
slot of it holds, or that a demand fill would find; none where neither says so (DEDUCED, log entry 41). -/
def State.portRaw (s : State) (c : Nat) (r : Shape) : Option Bool :=
  let k := 0x30 + shPort r
  let tag := (s.cpOf c).k.ctag
  if shPort r = 0 then some false
  else match s.frameFor c k tag with
  | some f => some (sbRaw f)
  | none => ((s.core c).cache.frameFor k tag).map sbRaw

/-- The check and start of a stream (R299, R300) from its record. -/
def State.startStream (s : State) (srcs : List Src) (d : Reg) (ag slot : Nat) (kind : StreamForm) (r : Shape)
    (base seed : Word) (konst : Option Word) (defer : Bool) : Result :=
  let c := s.focus.val
  let old := s.stream c ag slot
  if old.phase.busy || (s.copyIn c ag slot).isSome then s.reply srcs d (refused 1)
  else if refusal kind r (decide (ag < 4)) (s.portRaw c r) ≠ 0 then
    s.reply srcs d (refused (refusal kind r (decide (ag < 4)) (s.portRaw c r)))
  else
    let x : Stream := { Stream.reset with
      phase := .deferred, gen := old.gen + 1, record := r, base := base, seed := seed, konst := konst,
      ctag := s.cp.k.ctag, level := if shDegrade r then s.pkg.deg else 0, sys := s.cp.k.sys }
    let s := (s.setStream c ag slot x).postWork c
    let s := if defer then s else s.launch c ag slot
    s.reply srcs d (word (x.sid ag slot))

/-- A stream form that reads its record from memory (R290, R299). -/
def strmForm (s : State) (i : Instr) (g : Guard) (d : Reg) (ag slot : Nat) (a b c : Src) (kind : StreamForm)
    (base seed : Word) (konst : Option Word) (defer : Bool) : Result :=
  cmdForm s i g false [a, b, c] <|
    withRecord s i (s.cp.val b).toNat 64 64 fun t v =>
      t.startStream [a, b, c] d ag slot kind (BitVec.ofNat 512 v) base seed konst defer

/-- `strm.rd` (R299). -/
def execStrmRd (g : Guard) (d : Reg) (ag : Fin 4) (a b c : Src) (slot : Fin 4) (defer : Bool) (s : State) : Result :=
  strmForm s (.strmRd g d ag a b c slot defer) g d ag.val slot.val a b c .plain (s.cp.val a) (s.cp.val c) none defer

/-- `strm.wr` (R299), on ag4 to ag7. -/
def execStrmWr (g : Guard) (d : Reg) (ag : Fin 4) (a b c : Src) (slot : Fin 4) (defer : Bool) (s : State) : Result :=
  strmForm s (.strmWr g d ag a b c slot defer) g d (4 + ag.val) slot.val a b c .plain (s.cp.val a) (s.cp.val c) none
    defer

/-- `strm.ind` (R293, R299). -/
def execStrmInd (g : Guard) (d : Reg) (ag : Fin 4) (a b c : Src) (slot : Fin 4) (defer : Bool) (s : State) : Result :=
  strmForm s (.strmInd g d ag a b c slot defer) g d ag.val slot.val a b c .ind (s.cp.val a) (s.cp.val c) none defer

/-- `strm.cst` (R302). -/
def execStrmCst (g : Guard) (d : Reg) (ag : Fin 8) (a b c : Src) (slot : Fin 4) (defer : Bool) (s : State) : Result :=
  strmForm s (.strmCst g d ag a b c slot defer) g d ag.val slot.val a b c .cst (s.cp.val c) 0 (some (s.cp.val a)) defer

/-- `strm.rec` (R299): the record that an earlier stream of the generator captured. -/
def execStrmRec (g : Guard) (d : Reg) (ag : Fin 8) (a b c : Src) (slot : Fin 4) (defer : Bool) (s : State) : Result :=
  cmdForm s (.strmRec g d ag a b c slot defer) g false [a, b, c] <|
    match s.named s.focus.val ag.val (s.cp.val b) with
    | none => s.reply [a, b, c] d (refused 6)
    | some i =>
      s.startStream [a, b, c] d ag.val slot.val .again (s.stream s.focus.val ag.val i).record (s.cp.val a) (s.cp.val c)
        none defer

/-- A cancel takes hold of a stream (R304): one that is DEFERRED stands CANCELLED; one that has performed everything is
DONE; any other issues no further element. -/
def State.cancelStream (s : State) (c ag i : Nat) : State :=
  let x := s.stream c ag i
  let held := { x with
    cancelling := true, since := if x.cancelling then x.since else s.cyc + 1, x := x.x.recalled }
  match x.phase with
  | .deferred => (s.streamEnd c ag i .cancelled).cancelTail c ag i x
  | .deciding | .withheld => s.setStream c ag i held
  | .running => if x.atEnd && x.x.delivered then s.streamFinish c ag i else s.setStream c ag i held
  | _ => s

/-- A stream of core c that is complete when the cycle of its cancel ends is DONE (R304). -/
def State.cancelsDue (s : State) (c : Nat) : State :=
  (s.units c).streams.foldl (fun (s : State) p =>
    if p.2.cancelling && (s.stream c (p.1 / 4) (p.1 % 4)).complete s.cyc then s.streamFinish c (p.1 / 4) (p.1 % 4) else s) s

/-- `strm.cancel` (R303, R304). -/
def execStrmCancel (g : Guard) (d : Reg) (ag : Fin 8) (a : Src) (s : State) : Result :=
  cmdForm s (.strmCancel g d ag a) g false [a] <|
    let c := s.focus.val
    match s.named c ag.val (s.cp.val a) with
    | none => s.reply [a] d 0
    | some i =>
      let t := if (s.stream c ag.val i).phase.busy then s.postWork c else s
      let t := t.cancelStream c ag.val i
      let x := t.stream c ag.val i
      if x.phase.busy then
        .next ((t.setStream c ag.val i { x with cancel := x.cancel ++ [d] }).posted [a] d false)
      else t.reply [a] d x.word

/-- `strm.stat` (R303). -/
def execStrmStat (g : Guard) (d : Reg) (ag : Fin 8) (a : Src) (s : State) : Result :=
  cmdForm s (.strmStat g d ag a) g false [a] <|
    match s.named s.focus.val ag.val (s.cp.val a) with
    | none => s.reply [a] d 0
    | some i => s.reply [a] d (s.stream s.focus.val ag.val i).word

/-! Barriers and conditional launch (R305-R307). -/

/-- The slots of a stream barrier (R306), as 4 * generator + slot. -/
def State.barrierSlots (s : State) (c : Nat) (u : BarUnit) (out : Bool) : List Nat :=
  match u with
  | .core => rangeFrom (if out then 16 else 0) 16
  | .ag n a =>
    let ag := n.val + (if out then 4 else 0)
    match s.named c ag ((s.cpOf c).val a) with
    | some i => [4 * ag + i]
    | none => []

/-- Every named stream is complete (R306). -/
def State.slotsDone (s : State) (c : Nat) (l : List Nat) : Bool := l.all fun k => !(s.stream c (k / 4) (k % 4)).phase.busy

/-- The result of a stream barrier (R306). -/
def State.slotsWord (s : State) (c : Nat) (l : List Nat) : Word :=
  let any := fun (p : Stream → Bool) => l.any fun k => p (s.stream c (k / 4) (k % 4))
  word ((boolWord (any fun x => x.phase == .cancelled)).toNat + 2 * (boolWord (any fun x => x.x.ovf)).toNat
    + 4 * (boolWord (any fun x => x.x.pois)).toNat)

/-- A stream barrier ends, or stands (R306). -/
def barForm (s : State) (i : Instr) (g : Guard) (d : Reg) (u : BarUnit) (out : Bool) : Result :=
  cmdForm s i g false (srcsOfUnit u) <|
    let c := s.focus.val
    let l := s.barrierSlots c u out
    if s.slotsDone c l then s.reply (srcsOfUnit u) d (s.slotsWord c l) else s.stand i

/-- `bar.rd` (R306). -/
def execBarRd (g : Guard) (d : Reg) (u : BarUnit) (s : State) : Result := barForm s (.barRd g d u) g d u false

/-- `bar.wr` (R306). -/
def execBarWr (g : Guard) (d : Reg) (u : BarUnit) (s : State) : Result := barForm s (.barWr g d u) g d u true

/-- Firing queue q holds an entry, or one is on its way there: a fire token or a release has been made and waits for room
(R212, R310). -/
def State.fqFed (s : State) (c q : Nat) : Bool :=
  !(s.fq c q).isEmpty || (s.units c).owed.any (fun p => p.1 == q)
    || (s.units c).fires.any fun t => decide (t.dst < 0x20) && t.dst % 16 == q && !t.lost

/-- A template has a copy commanded and not ended (R215, R306): it is copying, or an entry waits for the firing queue that its
frame names. Where no slot holds its frame, any waiting entry may be for it (R503). -/
def State.copyOpen (s : State) (c n : Nat) : Bool :=
  let t := s.tpl c n
  t.phase.busy || (t.phase == .armed && (match s.frameFor c (0x50 + n) t.arm.ctag with
    | some f => s.fqFed c (fb f 223 220)
    | none => match (s.core c).cache.frameFor (0x50 + n) t.arm.ctag with
      | some f => s.fqFed c (fb f 223 220)
      | none => (rangeFrom 0 16).any (s.fqFed c)))

/-- Every stream and template copy of a core is complete (R306). -/
def State.allDone (s : State) (c : Nat) : Bool :=
  s.slotsDone c (rangeFrom 0 32) && (rangeFrom 0 16).all fun n => !s.copyOpen c n

/-- `bar.all` (R306). -/
def execBarAll (g : Guard) (d : Reg) (s : State) : Result :=
  cmdForm s (.barAll g d) g false [] <|
    let c := s.focus.val
    if s.allDone c then s.reply [] d (s.slotsWord c (rangeFrom 0 32)) else s.stand (.barAll g d)

/-- `bar.if` (R307). -/
def execBarIf (g : Guard) (d : Reg) (ag : Fin 8) (a : Src) (cond : BarCond) (s : State) : Result :=
  cmdForm s (.barIf g d ag a cond) g false [a] <|
    let c := s.focus.val
    let no := s.reply [a] d 0x4000000000000000
    match s.named c ag.val (s.cp.val a) with
    | none => no
    | some i =>
      let x := s.stream c ag.val i
      if x.phase ≠ .deferred then no
      else
        let t := s.postWork c
        match cond with
        | .pred p inv =>
          if s.cp.regs.pred p != inv then (t.launch c ag.val i).reply [a] d 0
          else (t.cancelStream c ag.val i).reply [a] d 0
        | .buffer sb dbit inv =>
          (t.setStream c ag.val i
            { x with phase := .deciding, decider := some ⟨sb.val, dbit.toNat, inv⟩ }).reply [a] d 0

/-- BAR_IF_DECIDE (R307): a DECIDING stream pops its decider, one flit in a step. -/
def execBarIfDecide (c : CoreIx) (ag : Fin 8) (slot : Fin 4) (s : State) : Result :=
  let x := s.stream c.val ag.val slot.val
  match x.phase, x.decider with
  | .deciding, some q =>
    if x.cancelling || s.waved c.val then .next s
    else match s.sbAt c.val q.sb x.ctag with
    | none => .next s
    | some (i, f) =>
      if sbQdst f ≠ 0x14 then .next (s.streamBad c.val ag.val slot.val)
      else match s.sbHead c.val q.sb i f (byStream ag.val slot.val) with
      | none => .next (s.sbAskPop c.val q.sb i (byStream ag.val slot.val))
      | some h =>
        if x.skip.isNone ∧ h.kind ≠ 0 ∧ h.kind ≠ 6 then .next (s.streamBad c.val ag.val slot.val)
        else
          let v := x.skip.getD (!h.poison && (h.pay.getLsbD q.dbit != q.inv))
          let t := s.sbDropFlit c.val q.sb i f (byStream ag.val slot.val) h
          let t := t.setStream c.val ag.val slot.val { x with skip := if h.last then none else some v }
          if !h.last then .next t
          else if v then .next (t.launch c.val ag.val slot.val)
          else .next (t.setStream c.val ag.val slot.val { t.stream c.val ag.val slot.val with cancelling := true })
  | _, _ => .next s

end Sys2Proof.Machine
end

