-- ==== Sys2Proof/Machine/Matrix.lean ====
section
/-!
DEFINITION. Accumulator arrays and the matrix unit (09 R171-R192).
-/
namespace Sys2Proof.Machine

/-! Tokens (R174). -/

/-- MOP. -/
def mxMop (w : Word) : Nat := bits w 54 6
/-- The array. -/
def mxArray (w : Word) : Nat := bits w 52 2
/-- pA. -/
def mxPa (w : Word) : Nat := bits w 46 6 + 1
/-- pB. -/
def mxPb (w : Word) : Nat := bits w 40 6 + 1
/-- ROW0 of `acc.rd` and `acc.clr`. -/
def mxRow0 (w : Word) : Nat := bits w 46 6
/-- COL0 of `acc.rd` and `acc.clr`. -/
def mxCol0 (w : Word) : Nat := bits w 40 6
/-- M. -/
def mxM (w : Word) : Nat := bits w 34 6 + 1
/-- N. -/
def mxN (w : Word) : Nat := bits w 28 6 + 1
/-- K blocks. -/
def mxKb (w : Word) : Nat := bits w 22 6
/-- TA. -/
def mxTa (w : Word) : Bool := w.getLsbD 21
/-- TB. -/
def mxTb (w : Word) : Bool := w.getLsbD 20
/-- THR. -/
def mxThr (w : Word) : Bool := w.getLsbD 19
/-- RA. -/
def mxRa (w : Word) : Bool := w.getLsbD 18
/-- RB. -/
def mxRb (w : Word) : Bool := w.getLsbD 17
/-- THRV as a value. -/
def mxThrv (w : Word) : FVal := FFmt.bf16.read (bits w 0 16)

/-- The payload conditions of R175. -/
def mxPayloadOk (w : Word) : Bool :=
  bits w 60 4 == 0 && decide (mxMop w ≤ 3) && !w.getLsbD 16
    && !(mxThrv w).isNan
    && (if mxMop w ≤ 1 then mxKb w != 0 && (mxThr w || bits w 0 16 == 0)
        else mxKb w == 0 && bits w 0 22 == 0 && decide (mxRow0 w + mxM w ≤ 64) && decide (mxCol0 w + mxN w ≤ 64))

/-- The key of an accumulator element. -/
def accKey (a i j : Nat) : Nat := 4096 * a + 64 * i + j

/-- The rows and columns of a token's rectangle (R174, R175). -/
def mxRect (w : Word) : List (Nat × Nat) :=
  let r := if mxMop w ≤ 1 then 0 else mxRow0 w
  let c := if mxMop w ≤ 1 then 0 else mxCol0 w
  (rangeFrom r (mxM w)).flatMap fun i => (rangeFrom c (mxN w)).map fun j => (i, j)

/-! Accumulators (R71, R136, R179). -/

/-- An accumulator element is poisoned (R179). -/
def accIsPoison (w : Word) : Bool := patBad .fp32 (bits w 0 32) || patBad .fp32 (bits w 32 32)

/-- An accumulator element as it is read (R202): poisoned where its error cannot be corrected. -/
def Mx.accGet (m : Mx) (k : Nat) : Word := if tabGet .clean m.ecc k = .double then accPoison else tabGet 0 m.acc k

/-- An accumulator element written. -/
def Mx.accPut (m : Mx) (k : Nat) (v : Word) : Mx := { m with acc := tabSet 0 m.acc k v, ecc := tabSet .clean m.ecc k .clean }

/-- Reads of accumulator elements correct single-bit errors (R202). -/
def State.accFix (s : State) (c : Nat) (ks : List Nat) : State :=
  ks.foldl (fun (s : State) k =>
    if tabGet .clean (s.mx c).ecc k = .single then
      (s.setMx c { s.mx c with ecc := tabSet .clean (s.mx c).ecc k .clean }).modDie (c / 96) Die.corrected
    else s) s

/-! The queue (R176). -/

/-- The queue takes another entry. -/
def Mx.room (m : Mx) : Bool := decide (m.queue.length < 16)

/-- An entry joins the queue, with the next sequence number. -/
def Mx.enter (m : Mx) (ctag : BitVec 8) (tok : Option Word) (bad : Bool) (index : Nat) (d : Reg) : Mx :=
  { m with
    queue := m.queue ++ [{ seq := m.next, ctag := ctag, tok := tok, bad := bad, index := index, dest := d }]
    next := m.next + 1, lastSeq := m.next }

/-- The router whose op2 channel gives the matrix unit its next token: the first, in slot order, whose head carries a tag
whose frame names it (R123, R176). -/
def State.mxSource (s : State) (c : Nat) : Option (Nat × Flit) :=
  let rts := ((rangeFrom 0 4).filter fun i => (s.slotAt c 0x38 i).v).map fun i => fb (s.slotAt c 0x38 i).frame 215 211
  match listFind (fun rt => decide (rt < 16) && (match s.head c (operandKey rt 2) with
      | some f => !f.sideBad && s.tokensFrom c rt f.ctag
      | none => false)) rts with
  | some rt => (s.head c (operandKey rt 2)).map fun f => (rt, f)
  | none => none

/-- A command for the token queue stands at issue of core c: it enters ahead of a channel token (R176). -/
def State.mxOffered (s : State) (c : Nat) : Bool :=
  match (s.cpOf c).ctl.standing with
  | some ⟨.mxTok g d a, _⟩ => !(s.cpOf c).held (.mxTok g d a)
  | some ⟨.mxAccrd g d x y z, _⟩ => !(s.cpOf c).held (.mxAccrd g d x y z)
  | some ⟨.mxAccclr g d x, _⟩ => !(s.cpOf c).held (.mxAccclr g d x)
  | _ => false

/-- MX_TOKEN_ENQUEUE (R175, R176): any flit at the token input enters the queue, unless a command offers. -/
def execMxTokenEnqueue (c : CoreIx) (s : State) : Result :=
  match s.mxSource c.val with
  | none => .next s
  | some (rt, f) =>
    if (s.mx c.val).room && !s.mxOffered c.val then
      let t := s.popChan c.val (operandKey rt 2)
      .next (t.setMx c.val ((t.mx c.val).enter f.ctag (some f.pay) (f.kind != 6 || bits f.pay 60 4 != 0) 0 0))
    else .next s

/-! Operands (R171-R173). -/

/-- A block of an operand (R67), with whether it could not be read (R202). -/
structure MxBlk where
  x : Nat
  p : Nat
  ax : Bool
  res : Nat
  sign : Nat
  planes : List Nat
  lost : Bool
deriving DecidableEq, Repr

/-- Words of 32 bits. -/
def words32 : List Byte → Nat → List Nat
  | _, 0 => []
  | l, n + 1 => leNat (l.take 4) :: words32 (l.drop 4) n

/-- The block in its bytes (R67). -/
def mxBlk (bs : List Byte) (lost : Bool) : MxBlk :=
  let w := words32 bs (bs.length / 4)
  let h := listGet 0 w 0
  { x := h / 2 ^ 16, p := h / 2 ^ 8 % 2 ^ 8, ax := h / 2 ^ 7 % 2 == 1, res := h % 2 ^ 7, sign := listGet 0 w 1,
    planes := w.drop 2, lost := lost }

/-- X = 0x8000: the block contributes zero (R173). -/
def MxBlk.none0 (b : MxBlk) : Bool := b.x == 0x8000

/-- An operand in its buffer: the buffer, its slot and frame, the bytes of a block, and the block's axis. -/
structure MxOperand where
  sb : Nat
  slot : Nat
  frame : Frame
  blocks : Nat
  bytes : Nat
deriving DecidableEq, Repr

/-- The operand's size (R172). -/
def MxOperand.size (x : MxOperand) : Nat := x.blocks * x.bytes

/-- Block n of an operand, in place (R171). -/
def State.mxBlock (s : State) (c : Nat) (x : MxOperand) (n : Nat) : MxBlk :=
  let r := s.sbRead c x.frame ((s.sbuf c x.sb x.slot).head + n * x.bytes) x.bytes
  mxBlk r.2.1 r.2.2

/-- The operand of `n` blocks in a buffer, once the header of its first block stands there (R172). A header that could not be
read gives the size from its stored bits (R202, DESIGN CHOICE, log entry 46). -/
def State.mxOperand (s : State) (c sb slot : Nat) (f : Frame) (n : Nat) : Option MxOperand :=
  let b := s.sbuf c sb slot
  if b.fill < 4 then none
  else
    let h := leNat (s.sbRead c f b.head 4).2.1
    some { sb := sb, slot := slot, frame := f, blocks := n, bytes := 8 + 4 * (h / 2 ^ 8 % 2 ^ 8) }

/-- The index of the A block for row i and k (R172). -/
def mxIndexA (w : Word) (i k : Nat) : Nat := if mxTa w then k * mxM w + i else i * mxKb w + k

/-- The index of the B block for k and column j (R172). -/
def mxIndexB (w : Word) (k j : Nat) : Nat := if mxTb w then j * mxKb w + k else k * mxN w + j

/-- A block is bad (R173): reserved bits, another P than the first block's; or it cannot be read (R202). -/
def MxBlk.bad (b first : MxBlk) : Bool := b.lost || b.res != 0 || b.p != first.p

/-! The head of the queue. -/

/-- What the frame of a token gives it (R171): its buffers, as buffer, slot and frame. -/
structure MxPlace where
  asb : Nat × Nat × Frame
  bsb : Nat × Nat × Frame
  rsb : Nat × Nat × Frame
deriving DecidableEq, Repr

/-- Buffer n of a tag. -/
def State.sbNamed (s : State) (c n : Nat) (tag : BitVec 8) : Option (Nat × Nat × Frame) :=
  (s.sbAt c n tag).map fun p => (n, p.1, p.2)

/-- The frame conditions of R171. -/
def State.mxPlace (s : State) (c : Nat) (f : Frame) (tag : BitVec 8) : Option MxPlace :=
  match s.sbNamed c (fb f 223 220) tag, s.sbNamed c (fb f 219 216) tag, s.sbNamed c (fb f 210 207) tag with
  | some a, some b, some r =>
    if sbQdst a.2.2 = 0x13 ∧ sbQdst b.2.2 = 0x13 ∧ sbPsrc r.2.2 = 0x13 ∧ a.1 ≠ b.1 then
      some { asb := a, bsb := b, rsb := r }
    else none
  | _, _, _ => none

/-- What stands at the head of the queue: a read for a register, a token that waits for its frame, a malformed token, or a
token and its buffers. -/
inductive MxHead where
  | empty | read (e : MxEntry) | wait | bad (e : MxEntry) | token (e : MxEntry) (w : Word) (p : MxPlace)

/-- The head of the queue (R175): frame conditions are checked as it is reached. A freeze wave holds the queue (R41). -/
def State.mxHead (s : State) (c : Nat) : MxHead :=
  match (s.mx c).queue with
  | [] => .empty
  | e :: _ =>
    if s.waved c then .wait
    else match e.tok with
    | none => .read e
    | some w =>
      match s.frameFor c 0x38 e.ctag with
      | none => .wait
      | some f =>
        if e.bad || !mxPayloadOk w then .bad e
        else match s.mxPlace c f e.ctag with
          | some p => .token e w p
          | none => .bad e

/-- The head entry ends (R182, R192). -/
def Mx.finish (m : Mx) (e : MxEntry) : Mx := { m with queue := m.queue.drop 1, doneSeq := e.seq, op := none, out := none }

/-- The head entry ends; the buffers that are then due are released (R182). -/
def State.mxFinish (s : State) (c : Nat) (e : MxEntry) : State :=
  ((s.setMx c ((s.mx c).finish e)).active c).sbReleases c

/-- The release flag of a buffer is set, with the size that was read (R182). -/
def State.sbFlag (s : State) (c : Nat) (x : Nat × Nat × Frame) (size : Nat) : State :=
  s.setSbuf c x.1 x.2.1 { s.sbuf c x.1 x.2.1 with flag := true, size := size }

/-- The release flags that a token sets when its operation ends (R182). -/
def State.mxFlags (s : State) (c : Nat) (w : Word) (p : MxPlace) (a b : Nat) : State :=
  let s := if mxRa w then s.sbFlag c p.asb a else s
  if mxRb w then s.sbFlag c p.bsb b else s

/-- The origin id of the matrix unit. -/
def mxOrig (c : Nat) : Nat := originId c 0x38

/-- The error path of R186: a record, the trap and ERR. -/
def State.mxError (s : State) (c : Nat) (e : MxEntry) (cause : BitVec 6) : State :=
  let v := word (e.seq.toNat + mxOrig c * 2 ^ 32)
  let s := s.post c { typ := 0, cause := cause, orig := mxOrig c, resume := false, held := false, double := false,
                      words := [v, e.tok.getD 0] }
  let s := s.setMx c { s.mx c with err := cause }
  let s := if cause = causeCfgerr then s.pendNode c 32 v else s.pendTrap c cause v
  s.mxFinish c e

/-! `mma` and `mma.acc` (R172, R173, R177-R181). -/

/-- The operand reads before the first fold (R172, R173): malformed, still to wait for, with a wrong axis, or ready with
the operands. -/
inductive MxOperands where
  | malformed | wait | axis (a b : Nat) | ready (a b : MxOperand)

/-- The size condition of R172 is broken by an operand whose first header stands in its buffer. -/
def mxTooLarge (x : Option MxOperand) : Bool :=
  match x with
  | some o => decide (sbSize o.frame < o.size)
  | none => false

/-- The checks of R172 and R173 on an operation's operands. -/
def State.mxOperands (s : State) (c : Nat) (w : Word) (p : MxPlace) : MxOperands :=
  let a := s.mxOperand c p.asb.1 p.asb.2.1 p.asb.2.2 (mxM w * mxKb w)
  let b := s.mxOperand c p.bsb.1 p.bsb.2.1 p.bsb.2.2 (mxKb w * mxN w)
  if mxTooLarge a || mxTooLarge b then .malformed
  else match a, b with
  | some a, some b =>
    if (s.sbuf c a.sb a.slot).fill < a.size ∨ (s.sbuf c b.sb b.slot).fill < b.size then .wait
    else if (rangeFrom 0 a.blocks).any (fun n => let x := s.mxBlock c a n; !x.lost && x.ax != mxTa w)
        || (rangeFrom 0 b.blocks).any (fun n => let x := s.mxBlock c b n; !x.lost && x.ax == mxTb w) then
      .axis a.size b.size
    else .ready a b
  | _, _ => .wait

/-- A row that a bad A block feeds (R173). -/
def State.mxBadRow (s : State) (c : Nat) (w : Word) (a : MxOperand) (i : Nat) : Bool :=
  (rangeFrom 0 (mxKb w)).any fun k => (s.mxBlock c a (mxIndexA w i k)).bad (s.mxBlock c a 0)

/-- A column that a bad B block feeds (R173). -/
def State.mxBadCol (s : State) (c : Nat) (w : Word) (b : MxOperand) (j : Nat) : Bool :=
  (rangeFrom 0 (mxKb w)).any fun k => (s.mxBlock c b (mxIndexB w k j)).bad (s.mxBlock c b 0)

/-- The reads of both operands, which correct single-bit errors (R202). -/
def State.mxReadAll (s : State) (c : Nat) (a b : MxOperand) : State :=
  let s := (s.sbRead c a.frame (s.sbuf c a.sb a.slot).head a.size).1
  (s.sbRead c b.frame (s.sbuf c b.sb b.slot).head b.size).1

/-- The state of an operation before its first step (R177): `mma` clears its rectangle, elements that a bad block feeds
are poisoned, and the rest are live unless they were poisoned. -/
def State.mxBegin (s : State) (c : Nat) (w : Word) (a b : MxOperand) : State :=
  let rows := (rangeFrom 0 (mxM w)).filter (s.mxBadRow c w a)
  let cols := (rangeFrom 0 (mxN w)).filter (s.mxBadCol c w b)
  let rect := mxRect w
  let s := (s.mxReadAll c a b).accFix c
    (if mxMop w = 0 then [] else rect.map fun (x : Nat × Nat) => accKey (mxArray w) x.1 x.2)
  let m := rect.foldl (fun (m : Mx) (x : Nat × Nat) =>
    let k := accKey (mxArray w) x.1 x.2
    if rows.contains x.1 || cols.contains x.2 then m.accPut k accPoison
    else if mxMop w = 0 then m.accPut k 0 else m) (s.mx c)
  let live := rect.foldl (fun (l : BitVec 4096) (x : Nat × Nat) =>
    if accIsPoison (m.accGet (accKey (mxArray w) x.1 x.2)) then l else l ||| BitVec.ofNat 4096 (2 ^ (64 * x.1 + x.2))) 0
  (s.setMx c
    { m with op := some { q := 0, g := 0, k := 0, live := live, killed := 0, aSize := a.size, bSize := b.size } }).active c

/-- The head is an `mma` or `mma.acc` token (by MOP) that has not begun: it begins, waits for its operands, or ends by an
error (R172, R173, R186). -/
def State.mxStart (s : State) (c mop : Nat) : State :=
  match s.mxHead c with
  | .bad e => if mxMop (e.tok.getD 0) = mop ∧ !e.bad then s.mxError c e causeCfgerr else s
  | .token e w p =>
    if mxMop w ≠ mop ∨ (s.mx c).op.isSome then s
    else match s.mxOperands c w p with
    | .malformed => s.mxError c e causeCfgerr
    | .wait => s
    | .axis a b => (s.mxFlags c w p a b).mxError c e causeBlkaxis
    | .ready a b => s.mxBegin c w a b
  | _ => s

/-- MMA (R177): an `mma` token at the head clears its rectangle and begins. -/
def execMma (c : CoreIx) (s : State) : Result := .next (s.mxStart c.val 0)

/-- MMA_ACC (R177): an `mma.acc` token at the head begins. -/
def execMmaAcc (c : CoreIx) (s : State) : Result := .next (s.mxStart c.val 1)

/-- The set bits of a 32-bit word. -/
def pop32 (n : Nat) : Int := popCount (word n) 32

/-- plane_sum of two blocks (R177). -/
def planeSum (a b : MxBlk) (q g pa : Nat) : Dy :=
  if a.none0 || b.none0 || decide (b.p ≤ q) then .zero
  else
    let bq := listGet 0 b.planes q
    let sx := a.sign ^^^ b.sign
    let base := signedOf 16 a.x + signedOf 16 b.x - q
    (rangeFrom (8 * g) 8).foldl (fun (v : Dy) p =>
      if p < pa ∧ p < a.p then
        let m := listGet 0 a.planes p &&& bq
        v.add ⟨pop32 m - 2 * pop32 (m &&& sx), base - p⟩
      else v) .zero

/-- The folded element (R177), poisoned where the fold yields an infinity or NaN. -/
def accFold (w : Word) (v : Dy) : Word :=
  match pairAdd .fp32 (bits w 0 32) (bits w 32 32) v with
  | some (s, c) => word (c * 2 ^ 32 + s)
  | none => accPoison

/-- The live elements of an operation, in row order. -/
def MxOp.lives (o : MxOp) (w : Word) : List (Nat × Nat) :=
  (mxRect w).filter fun x => o.live.getLsbD (64 * x.1 + x.2)

/-- One (q, g, k) step (R177, R178). -/
def State.mxFoldStep (s : State) (c : Nat) (w : Word) (a b : MxOperand) (o : MxOp) : State × MxOp :=
  let rows := (rangeFrom 0 (mxM w)).map fun i => s.mxBlock c a (mxIndexA w i o.k)
  let cols := (rangeFrom 0 (mxN w)).map fun j => s.mxBlock c b (mxIndexB w o.k j)
  let lives := o.lives w
  let s := s.accFix c (lives.map fun (x : Nat × Nat) => accKey (mxArray w) x.1 x.2)
  let zero := mxBlk [] true
  let r := lives.foldl (fun (r : Mx × BitVec 4096) (x : Nat × Nat) =>
    let k := accKey (mxArray w) x.1 x.2
    let v := accFold (r.1.accGet k) (planeSum (listGet zero rows x.1) (listGet zero cols x.2) o.q o.g (mxPa w))
    (r.1.accPut k v, if accIsPoison v then r.2 &&& ~~~(BitVec.ofNat 4096 (2 ^ (64 * x.1 + x.2))) else r.2))
    (s.mx c, o.live)
  (s.setMx c r.1, { o with live := r.2 })

/-- SA(i, k) (R180). -/
def mxSa (a : MxBlk) (pa : Nat) : Dy :=
  if a.none0 then .zero
  else (rangeFrom 0 (min pa a.p)).foldl
    (fun (v : Dy) p => v.add ⟨pop32 (listGet 0 a.planes p), signedOf 16 a.x - p⟩) .zero

/-- U(i, j, q) from the SA of a row and the blocks of a column (R180). -/
def mxBound (sa : List Dy) (col : List MxBlk) (q pb : Nat) : Dy :=
  (sa.zip col).foldl (fun (v : Dy) (x : Dy × MxBlk) =>
    if x.2.none0 then v
    else
      let e := signedOf 16 x.2.x
      v.add (x.1.mul (Dy.sub ⟨1, e - q⟩ ⟨1, e - pb + 1⟩))) .zero

/-- The element is killed (R180). -/
def mxKills (t : FVal) (w : Word) (u : Dy) : Bool :=
  match t with
  | .fin neg m e =>
    (((patDy .fp32 (bits w 0 32)).add (patDy .fp32 (bits w 32 32))).add u).lt ⟨if neg then -(m : Int) else m, e⟩
  | .inf neg => !neg
  | .nan _ => false

/-- The check after B plane q (R180). -/
def State.mxThreshold (s : State) (c : Nat) (w : Word) (a b : MxOperand) (o : MxOp) : MxOp :=
  let ks := rangeFrom 0 (mxKb w)
  let sas := (rangeFrom 0 (mxM w)).map fun i => ks.map fun k => mxSa (s.mxBlock c a (mxIndexA w i k)) (mxPa w)
  let cols := (rangeFrom 0 (mxN w)).map fun j => ks.map fun k => s.mxBlock c b (mxIndexB w k j)
  (o.lives w).foldl (fun (o : MxOp) (x : Nat × Nat) =>
    let v := (s.mx c).accGet (accKey (mxArray w) x.1 x.2)
    if mxKills (mxThrv w) v (mxBound (listGet [] sas x.1) (listGet [] cols x.2) o.q (mxPb w)) then
      { o with live := o.live &&& ~~~(BitVec.ofNat 4096 (2 ^ (64 * x.1 + x.2))), killed := o.killed + 1 }
    else o) o

/-- The steps of one B plane (R178). -/
def mxPlaneSteps (w : Word) : Nat := mxKb w * ((mxPa w + 7) / 8)

/-- The operation ends (R181, R182); the steps that it skips are counted (R445). -/
def State.mxComplete (s : State) (c : Nat) (e : MxEntry) (w : Word) (p : MxPlace) (o : MxOp) (planes : Nat) : State :=
  let s := s.count c 6 ((mxPb w - planes) * mxPlaneSteps w)
  let s := if mxThr w then s.setMx c { s.mx c with killed := o.killed } else s
  (s.mxFlags c w p o.aSize o.bSize).mxFinish c e

/-- One step of the operation in progress, and what follows it (R177, R180, R181). -/
def State.mxStep (s : State) (c : Nat) (e : MxEntry) (w : Word) (p : MxPlace) (o : MxOp) : State :=
  let na := mxM w * mxKb w
  let nb := mxKb w * mxN w
  let a : MxOperand := { sb := p.asb.1, slot := p.asb.2.1, frame := p.asb.2.2, blocks := na, bytes := o.aSize / na }
  let b : MxOperand := { sb := p.bsb.1, slot := p.bsb.2.1, frame := p.bsb.2.2, blocks := nb, bytes := o.bSize / nb }
  let r := (s.count c 5 1).mxFoldStep c w a b o
  let s := r.1.active c
  let o := r.2
  if o.k + 1 < mxKb w then s.setMx c { s.mx c with op := some { o with k := o.k + 1 } }
  else if o.g + 1 < (mxPa w + 7) / 8 then s.setMx c { s.mx c with op := some { o with k := 0, g := o.g + 1 } }
  else
    let o := if mxThr w && decide (o.q + 1 < mxPb w) then s.mxThreshold c w a b o else o
    if o.q + 1 = mxPb w ∨ o.live = 0 then s.mxComplete c e w p o (o.q + 1)
    else s.setMx c { s.mx c with op := some { o with k := 0, g := 0, q := o.q + 1 } }

/-! Reading and clearing (R184, R185, R190). -/

/-- The flits of one fp32 word of a pair (R57, R184). -/
def State.accFlits (s : State) (c : Nat) (tag : BitVec 8) (pat : Nat) (poison last : Bool) : State × List Flit :=
  s.valFlits (mxOrig c) 7 3 false tag last [if poison then .bad else readFmt 0x01 pat 7]

/-- The flits of an `acc.rd` (R184). -/
def State.rectFlits (s : State) (c : Nat) (tag : BitVec 8) (w : Word) : List (Nat × Nat) → State × List Flit
  | [] => (s, [mkFlit 4 tag (tilePay 0 (mxM w * mxN w) 0) false true])
  | x :: l =>
    let v := (s.mx c).accGet (accKey (mxArray w) x.1 x.2)
    let bad := accIsPoison v
    let p := s.accFlits c tag (bits v 0 32) bad false
    let q := p.1.accFlits c tag (bits v 32 32) bad (x.2 + 1 == mxCol0 w + mxN w)
    let r := q.1.rectFlits c tag w l
    (r.1, p.2 ++ q.2 ++ r.2)

/-- ACC_RD (R184): the rectangle enters RSB flit by flit; the entry ends with its end of tile. A raw RSB takes the 16 bytes of
each flit (R308, DEDUCED, log entry 99). -/
def execAccRd (c : CoreIx) (s : State) : Result :=
  match s.mxHead c.val with
  | .bad e => if mxMop (e.tok.getD 0) = 2 ∧ !e.bad then .next (s.mxError c.val e causeCfgerr) else .next s
  | .token e w p =>
    if mxMop w ≠ 2 then .next s
    else match (s.mx c.val).out with
    | none =>
      let r := (s.accFix c.val ((mxRect w).map fun (x : Nat × Nat) => accKey (mxArray w) x.1 x.2)).rectFlits c.val e.ctag w
        (mxRect w)
      .next ((r.1.setMx c.val { r.1.mx c.val with out := some r.2 }).active c.val)
    | some [] => .next (s.mxFinish c.val e)
    | some (x :: l) =>
      if s.sbRoom c.val p.rsb.1 p.rsb.2.1 p.rsb.2.2 byMatrix 16 then
        let t := s.sbPutFlit c.val p.rsb.1 p.rsb.2.1 p.rsb.2.2 byMatrix x
        let t := t.setMx c.val { t.mx c.val with out := some l }
        .next (if l.isEmpty then t.mxFinish c.val e else t)
      else .next (s.sbAsk c.val p.rsb.1 p.rsb.2.1 byMatrix)
  | _ => .next s

/-- ACC_CLR (R185). -/
def execAccClr (c : CoreIx) (s : State) : Result :=
  match s.mxHead c.val with
  | .bad e => if mxMop (e.tok.getD 0) = 3 ∧ !e.bad then .next (s.mxError c.val e causeCfgerr) else .next s
  | .token e w _ =>
    if mxMop w ≠ 3 then .next s
    else
      let m := (mxRect w).foldl (fun (m : Mx) (x : Nat × Nat) => m.accPut (accKey (mxArray w) x.1 x.2) 0) (s.mx c.val)
      .next ((s.setMx c.val m).mxFinish c.val e)
  | _ => .next s

/-- MATRIX_STEP (R178, R190): one step of the operation in progress; the read of an element for a register, which waits
for every entry ahead of it; and the discard of a flit or payload that is no token (R186). -/
def execMatrixStep (c : CoreIx) (s : State) : Result :=
  match s.mxHead c.val with
  | .read e =>
    let t := s.accFix c.val [e.index]
    let v := (t.mx c.val).accGet e.index
    let v := if accIsPoison v then accPoison else v
    .next ((t.mxFinish c.val e).deliver c.val e.dest v)
  | .bad e => if e.bad ∨ 3 < mxMop (e.tok.getD 0) then .next (s.mxError c.val e causeCfgerr) else .next s
  | .token e w p =>
    match (s.mx c.val).op with
    | some o => if mxMop w ≤ 1 then .next (s.mxStep c.val e w p o) else .next s
    | none => .next s
  | _ => .next s

/-! Commands (R188-R192). -/

/-- BADTOK (R189). -/
def mxBadTok : Word := 0x4000000000000000#64

/-- A token enters from a command, which stands while the queue is full (R176, R189). -/
def mxSubmit (s : State) (form : Instr) (srcs : List Src) (d : Reg) (w : Word) : Result :=
  let c := s.focus.val
  let m := s.mx c
  if m.room then
    ((s.setMx c (m.enter s.cp.k.ctag (some w) false 0 0)).postWork c).reply srcs d (m.next.setWidth 64)
  else s.stand form

/-- `mx.tok` (R189). -/
def execMxTok (g : Guard) (d : Reg) (a : Src) (s : State) : Result :=
  cmdForm s (.mxTok g d a) g false [a] <|
    if mxPayloadOk (s.cp.val a) then mxSubmit s (.mxTok g d a) [a] d (s.cp.val a) else s.reply [a] d mxBadTok

/-- `mx.accrd` (R190): it enters the queue, and its register awaits the element. -/
def execMxAccrd (g : Guard) (d : Reg) (acc : Fin 4) (row col : BitVec 6) (s : State) : Result :=
  cmdForm s (.mxAccrd g d acc row col) g false [] <|
    let c := s.focus.val
    let m := s.mx c
    if m.room then
      .next (((s.setMx c (m.enter s.cp.k.ctag none false (accKey acc.val row.toNat col.toNat) d)).postWork c).posted
        [] d false)
    else s.stand (.mxAccrd g d acc row col)

/-- The token of `mx.accclr` (R191). -/
def mxClearTok (acc : Fin 4) : Word := word (3 * 2 ^ 54 + acc.val * 2 ^ 52 + 63 * 2 ^ 34 + 63 * 2 ^ 28)

/-- `mx.accclr` (R191). -/
def execMxAccclr (g : Guard) (d : Reg) (acc : Fin 4) (s : State) : Result :=
  cmdForm s (.mxAccclr g d acc) g false [] (mxSubmit s (.mxAccclr g d acc) [] d (mxClearTok acc))

/-- The status word (R192). -/
def Mx.stat (m : Mx) : Word :=
  word (m.doneSeq.toNat * 2 ^ 48 + m.lastSeq.toNat * 2 ^ 32 + m.killed % 2 ^ 13 * 2 ^ 19
    + m.queue.length % 2 ^ 5 * 2 ^ 14 + m.err.toNat * 2 ^ 8)

/-- `mx.stat` (R192). -/
def execMxStat (g : Guard) (d : Reg) (s : State) : Result :=
  cmdForm s (.mxStat g d) g false [] (s.reply [] d (s.mx s.focus.val).stat)

end Sys2Proof.Machine
end

