-- ==== Sys2Proof/Machine/Coll.lean ====
section
/-!
DEFINITION. Collectives and the attention-triple reduction (17 R339-R359, R492, R504).
-/
namespace Sys2Proof.Machine

/-! Descriptors (R339, R340). -/

/-- A descriptor. -/
abbrev CollDesc := BitVec 1024

/-- Word n of a descriptor. -/
def cdWord (d : CollDesc) (n : Nat) : Word := d.extractLsb' (64 * n) 64
/-- OFMT. -/
def cdOfmt (d : CollDesc) : Bool := (cdWord d 0).getLsbD 25
/-- DSAT. -/
def cdDsat (d : CollDesc) : Bool := (cdWord d 0).getLsbD 24
/-- DRM. -/
def cdDrm (d : CollDesc) : Nat := bits (cdWord d 0) 21 3
/-- DFMT. -/
def cdDfmt (d : CollDesc) : Nat := bits (cdWord d 0) 16 5
/-- SFMT. -/
def cdSfmt (d : CollDesc) : Nat := bits (cdWord d 0) 8 5
/-- MODE: a ring. -/
def cdRing (d : CollDesc) : Bool := (cdWord d 0).getLsbD 6
/-- NORM. -/
def cdNorm (d : CollDesc) : Bool := (cdWord d 0).getLsbD 5
/-- DET. -/
def cdDet (d : CollDesc) : Bool := (cdWord d 0).getLsbD 4
/-- WIRE. -/
def cdWire (d : CollDesc) : Nat := bits (cdWord d 0) 2 2
/-- OP. -/
def cdOp (d : CollDesc) : Nat := bits (cdWord d 0) 0 2
/-- TEAMID. -/
def cdTeam (d : CollDesc) : BitVec 16 := (cdWord d 1).extractLsb' 0 16
/-- SEQ. -/
def cdSeq (d : CollDesc) : BitVec 16 := (cdWord d 1).extractLsb' 16 16
/-- NMEM. -/
def cdNmem (d : CollDesc) : Nat := bits (cdWord d 1) 32 13
/-- MYRANK. -/
def cdRank (d : CollDesc) : Nat := bits (cdWord d 1) 48 12
/-- The root rank. -/
def cdRoot (d : CollDesc) : Nat := bits (cdWord d 3) 0 12
/-- ALL. -/
def cdAll (d : CollDesc) : Bool := (cdWord d 3).getLsbD 63
/-- A0-A3. -/
def cdAddr (d : CollDesc) (n : Nat) : Word := cdWord d (4 + n)
/-- LEN. -/
def cdLen (d : CollDesc) : Nat := (cdWord d 8).toNat
/-- GLO. -/
def cdGlo (d : CollDesc) : Nat := (cdWord d 9).toNat
/-- GCNT. -/
def cdGcnt (d : CollDesc) : Nat := (cdWord d 10).toNat
/-- GTOT. -/
def cdGtot (d : CollDesc) : Nat := (cdWord d 11).toNat
/-- ROWS. -/
def cdRows (d : CollDesc) : Nat := bits (cdWord d 12) 0 32
/-- DIM. -/
def cdDim (d : CollDesc) : Nat := bits (cdWord d 12) 32 16
/-- FADDR. -/
def cdFaddr (d : CollDesc) : Word := cdWord d 13
/-- KSB, VSB and TSB. -/
def cdBuf (d : CollDesc) (n : Nat) : Nat := bits (cdWord d 14) (4 * n) 4
/-- K or V block bytes. -/
def cdBytes (d : CollDesc) (n : Nat) : Nat := bits (cdWord d 15) (32 * n) 32

/-- The form rounds results (R344). -/
def cdRounds (form : CollForm) (d : CollDesc) : Bool := form == .red || (form == .attn && !cdRing d && cdNorm d)

/-- The words that a form uses beside words 0 to 2 (R340). -/
def cdUsed (form : CollForm) (d : CollDesc) : List Nat :=
  match form with
  | .red => [3, 4, 5, 8, 9, 10, 11]
  | .attn => if cdRing d then [4, 5, 14, 15]
    else [3, 4, 5, 6, 9, 10, 11, 12, 13] ++ (if cdNorm d then [7] else [])
  | _ => [3, 4, 5, 8]

/-- The reserved bits of the words a form uses are zero (R339). -/
def cdReserved (form : CollForm) (d : CollDesc) : Bool :=
  bits (cdWord d 0) 26 38 == 0 && bits (cdWord d 0) 13 3 == 0 && !(cdWord d 0).getLsbD 7
    && bits (cdWord d 1) 45 3 == 0 && bits (cdWord d 1) 60 4 == 0
    && (!(cdUsed form d).contains 3 || bits (cdWord d 3) 12 51 == 0)
    && (!(cdUsed form d).contains 12 || bits (cdWord d 12) 48 16 == 0)
    && (!(cdUsed form d).contains 14 || bits (cdWord d 14) 12 52 == 0)

/-- The count fields that a form uses lie in the ranges of R339, and MYRANK, ROOT and GLO in those of R344. -/
def cdCounts (form : CollForm) (d : CollDesc) : Bool :=
  let u := cdUsed form d
  decide (1 ≤ cdNmem d ∧ cdNmem d ≤ 4096) && decide (cdRank d < cdNmem d)
    && (!u.contains 3 || form == .a2a || cdAll d || decide (cdRoot d < cdNmem d))
    && (!u.contains 8 || decide (1 ≤ cdLen d ∧ cdLen d < 2 ^ 32))
    && (!u.contains 9 || decide (1 ≤ cdGcnt d ∧ 1 ≤ cdGtot d ∧ cdGtot d ≤ 2 ^ 32 ∧ cdGlo d + cdGcnt d ≤ cdGtot d))
    && (!u.contains 12 || decide (1 ≤ cdRows d ∧ 1 ≤ cdDim d ∧ cdDim d ≤ 1024))

/-- The ring conditions of R344, under the frames of a tag. -/
def State.cdRingOk (s : State) (c : Nat) (tag : BitVec 8) (d : CollDesc) : Bool :=
  let block := fun n => match s.sbAt c (cdBuf d n) tag with
    | some (_, f) => sbPsrc f == 0x10 && sbQdst f == 0x13 && decide (cdBytes d n ≤ sbSize f)
    | none => false
  decide (2 ≤ cdNmem d ∧ cdNmem d ≤ 16) && block 0 && block 1
    && (match s.sbAt c (cdBuf d 2) tag with
        | some (_, f) => sbPsrc f == 0x10 && sbQdst f != 0x13
        | none => false)

/-- The reason that refuses a descriptor (R344, R351), or 0. -/
def State.collCheck (s : State) (c : Nat) (tag : BitVec 8) (form : CollForm) (d : CollDesc) : Nat :=
  let wireFmt := fun x => x == 0 || x == 1 || x == 2 || x == 3 || x == 0x16
  let moving := form != .red && form != .attn
  if (form == .red && !(wireFmt (cdSfmt d) && wireFmt (cdDfmt d)))
      || (form == .attn && !cdRing d && cdNorm d && !decide (1 ≤ cdDfmt d ∧ cdDfmt d ≤ 3)) then 0x02
  else if cdRounds form d && decide (5 ≤ cdDrm d) then 0x03
  else if !cdReserved form d || cdOp d == 3 || cdWire d == 3 || (cdRing d && form != .attn) || (cdNorm d && cdRing d)
      || (rangeFrom 3 13).any (fun n => !(cdUsed form d).contains n && cdWord d n != 0)
      || !cdCounts form d
      || (moving && (cdSfmt d != 0 || cdDfmt d != 0 || cdWire d != 0))
      || ((form == .scat || form == .bcast) && cdAll d)
      || (form == .attn && cdRing d && !s.cdRingOk c tag d) then 0x05
  else 0

/-! Slots (R343). -/

/-- Collective slot i of core c. -/
def State.coll (s : State) (c i : Nat) : CollSlot := tabGet .reset (s.core c).colls i

/-- Collective slot i of core c replaced. -/
def State.setColl (s : State) (c i : Nat) (x : CollSlot) : State :=
  s.modCore c fun y => { y with colls := tabSet .reset y.colls i x }

/-- The stations changed by `f`. -/
def State.modStations (s : State) (f : Stations → Stations) : State := { s with stations := f s.stations }

/-- A refused command (R343). -/
def collRefused (reason : Nat) : Word := word (2 ^ 62 + reason * 2 ^ 56)

/-- The handle of a slot (R343). -/
def collHandle (i : Nat) (d : CollDesc) : Word := word (i * 2 ^ 32 + (cdSeq d).toNat * 2 ^ 16 + (cdTeam d).toNat)

/-- The member table, read 8 bytes at a time as the descriptor is (R339), for the form `i`: how the form ends or waits if an
entry is not there, or the entries. -/
def State.readTable (s : State) (i : Instr) (va : Word) : Nat → List Word → Except Result (List Word)
  | 0, l => .ok l
  | n + 1, l =>
    match s.readRecord va.toNat 8 8 with
    | .wait => .error (.next s)
    | .trap t f => .error (t.raise f.cause f.val)
    | .post t gs => .error (.next (t.postRecord i va.toNat 8 gs))
    | .ok t v => t.readTable i (va + 8) n (l ++ [word v])

/-- A reserved bit of a member-table entry is set (R10, R341), which refuses the command with BADREC. -/
def tableReserved (l : List Word) : Bool := l.any fun e => bits e 27 37 != 0

/-- `issue_coll` of R343. -/
def collForm (s : State) (i : Instr) (g : Guard) (d : Reg) (a : Src) (form : CollForm) : Result :=
  cmdForm s i g false [a] <|
    let c := s.focus.val
    withRecord s i (s.cp.val a).toNat 128 128 fun t v =>
      let x : CollDesc := BitVec.ofNat 1024 v
      match t.readTable i (cdWord x 2) (cdNmem x) [] with
      | .error r => r
      | .ok table =>
        match listFind (fun n => !(t.coll c n).used) (rangeFrom 0 8) with
        | none => t.reply [a] d (collRefused 0x01)
        | some n =>
          let r := if t.collCheck c t.cp.k.ctag form x = 0 ∧ tableReserved table then 0x05
            else t.collCheck c t.cp.k.ctag form x
          if r ≠ 0 then t.reply [a] d (collRefused r)
          else if (rangeFrom 0 8).any (fun m => (t.coll c m).used && cdTeam (t.coll c m).desc == cdTeam x
              && cdSeq (t.coll c m).desc == cdSeq x) then t.reply [a] d (collRefused 0x08)
          else
            ((t.setColl c n
              { CollSlot.reset with
                used := true, form := form, phase := .rendezvous, desc := x, table := table, ctag := t.cp.k.ctag,
                sys := t.cp.k.sys, order := t.stations.nextIssue
                covered := t.covered c }).modStations fun y => { y with nextIssue := y.nextIssue + 1 }).reply
              [a] d (collHandle n x)

/-- `coll.red` (R343). -/
def execCollRed (g : Guard) (d : Reg) (a : Src) (s : State) : Result := collForm s (.collRed g d a) g d a .red

/-- `coll.attn` (R343, R352, R355). -/
def execCollAttn (g : Guard) (d : Reg) (a : Src) (s : State) : Result := collForm s (.collAttn g d a) g d a .attn

/-- `coll.gath` (R343, R351). -/
def execCollGath (g : Guard) (d : Reg) (a : Src) (s : State) : Result := collForm s (.collGath g d a) g d a .gath

/-- `coll.scat` (R343, R351). -/
def execCollScat (g : Guard) (d : Reg) (a : Src) (s : State) : Result := collForm s (.collScat g d a) g d a .scat

/-- `coll.bcast` (R343, R351). -/
def execCollBcast (g : Guard) (d : Reg) (a : Src) (s : State) : Result := collForm s (.collBcast g d a) g d a .bcast

/-- `coll.a2a` (R343, R351). -/
def execCollA2a (g : Guard) (d : Reg) (a : Src) (s : State) : Result := collForm s (.collA2a g d a) g d a .a2a

/-- The slot of the issuing core that a handle names (R345). -/
def State.collNamed (s : State) (c : Nat) (h : Word) : Option Nat :=
  let i := bits h 32 3
  let x := s.coll c i
  if x.used && h == collHandle i x.desc then some i else none

/-- `coll.wait` (R345): it stands until the local part is complete or has failed, and frees the slot. -/
def execCollWait (g : Guard) (d : Reg) (a : Src) (s : State) : Result :=
  cmdForm s (.collWait g d a) g false [a] <|
    let c := s.focus.val
    match s.collNamed c (s.cp.val a) with
    | none => s.reply [a] d (collRefused 0x06)
    | some i =>
      if (s.coll c i).phase = .ended then (s.setColl c i .reset).reply [a] d (s.coll c i).result
      else s.stand (.collWait g d a)

/-- COLL_WAIT_END (R345). -/
def execCollWaitEnd (c : CoreIx) (s : State) : Result :=
  match s.standingAt c with
  | some (.collWait g d a) => s.atCore c (execCollWait g d a)
  | _ => .next s

/-! The rendezvous (R341). -/

/-- The slots that await the rendezvous of an identity, in the order of their issue. -/
def State.collIssued (s : State) (team seq : BitVec 16) : List (Nat × Nat) :=
  let all := s.cores.flatMap fun (p : Nat × Core) => (p.2.colls.filter fun (q : Nat × CollSlot) =>
    q.2.used && q.2.phase == .rendezvous && cdTeam q.2.desc == team && cdSeq q.2.desc == seq).map
      fun (q : Nat × CollSlot) => (p.1, q.1)
  sortBy (fun x y => decide ((s.coll x.1 x.2).order ≤ (s.coll y.1 y.2).order)) all

/-- The core that an entry of a member table names in this package (R341, R139), as core number. -/
def State.memberCore (s : State) (e : Word) : Option Nat :=
  let o := bits e 0 18
  if bits e 18 9 = s.pkg.kpkg.toNat ∧ o % 2 ^ 8 = 0 ∧ o / 2 ^ 8 % 16 < 12 then
    some (o / 2 ^ 15 * 96 + o / 2 ^ 12 % 8 * 12 + o / 2 ^ 8 % 16)
  else none

/-- An entry names a member that is absent or cannot be reached (R357). -/
def State.memberLost (s : State) (e : Word) : Bool :=
  if bits e 18 9 = s.pkg.kpkg.toNat then (s.memberCore e).isNone else !s.reaches (bits e 18 9)

/-- A member's part fails (R345, R357). -/
def State.collFail (s : State) (c i reason : Nat) : State :=
  s.setColl c i
    { s.coll c i with phase := .ended, todo := [], flown := [], held := false, result := word (2 * 2 ^ 62 + reason * 2 ^ 56) }

/-- The members that have issued an identity from which a member has withdrawn fail with REMOTE, each once (R359). -/
def State.failWithdrawn (s : State) (team seq : BitVec 16) : State :=
  (s.collIssued team seq).foldl (fun (s : State) q =>
    let hit := fun (w : Withdrawal) => w.team == team && w.seq == seq && w.left.contains q.1
    match listFind hit s.stations.withdrawn with
    | none => s
    | some w =>
      (s.collFail q.1 q.2 0x0A).modStations fun y =>
        { y with
          withdrawn := (y.withdrawn.map fun v => if v = w then { v with left := v.left.filter fun n => n != q.1 } else v).filter
            fun v => !v.left.isEmpty }) s

/-- A slot that awaits its rendezvous is freed (R359): the member withdraws, and the members of its table fail with REMOTE,
those that have not issued the identity yet when they do. -/
def State.withdrawSlot (s : State) (c : Nat) (x : CollSlot) : State :=
  if x.used && x.phase == .rendezvous then
    let others := (x.table.filterMap s.memberCore).filter fun n => n != c
    (s.modStations fun y =>
      { y with withdrawn := y.withdrawn ++ [⟨cdTeam x.desc, cdSeq x.desc, others⟩] }).failWithdrawn (cdTeam x.desc)
      (cdSeq x.desc)
  else s

/-- Binding frees every collective slot of a core (R359): what it waited for is withdrawn, and what it was to hear of an
earlier withdrawal is forgotten, since its task has ended. -/
def State.withdrawCore (s : State) (c : Nat) : State :=
  let s := s.modStations fun y =>
    { y with
      withdrawn := (y.withdrawn.map fun v => { v with left := v.left.filter fun n => n != c }).filter
        fun v => !v.left.isEmpty }
  (s.core c).colls.foldl (fun (s : State) p => s.withdrawSlot c p.2) s

/-- The ranges of the members partition 0 to G - 1 (R341): from `n` on, each next range is some member's. -/
def partitions (g : Nat) (l : List (Nat × Nat)) : Nat → Nat → Bool
  | n, 0 => n == g && l.isEmpty
  | n, k + 1 =>
    match listFind (fun r => r.1 == n) l with
    | some r => partitions g (l.erase r) (n + r.2) k
    | none => n == g && l.isEmpty

/-- Two descriptors agree in the words of R341. -/
def cdAgree (d e : CollDesc) : Bool :=
  [0, 3, 8, 11, 12].all (fun n => cdWord d n == cdWord e n) && bits (cdWord d 1) 0 48 == bits (cdWord e 1) 0 48

/-- The members agree as R341 asks; `x` is the first to have issued, `l` the members of this package, and `far` the
descriptors of the others by rank. -/
def State.collAgrees (s : State) (x : CollSlot) (l : List (Nat × Nat)) (far : List (Nat × CollDesc)) : Bool :=
  let ring := x.form == .attn && cdRing x.desc
  let descs := l.map (fun p => (s.coll p.1 p.2).desc) ++ far.map fun p => p.2
  descs.length == cdNmem x.desc && descs.all (cdAgree x.desc)
    && l.all (fun p => let y := s.coll p.1 p.2
        y.form == x.form && y.table == x.table && s.memberCore (listGet 0 x.table (cdRank y.desc)) == some p.1)
    && far.all (fun p => cdRank p.2 == p.1)
    && (!(x.form == .red || (x.form == .attn && !ring))
        || partitions (cdGtot x.desc) (descs.map fun d => (cdGlo d, cdGcnt d)) 0 descs.length)
    && (!ring || x.table.all fun e => bits e 18 9 == bits (listGet 0 x.table 0) 18 9)

/-- Bytes of an element of a reducing source. -/
def cdSourceBytes (d : CollDesc) : Nat := fmtWidth (cdSfmt d) / 8

/-- Bytes of an element of the triple vector (R352). -/
def cdVecBytes (d : CollDesc) : Nat := if cdOfmt d then 2 else 4

/-- The reads of a member's sources (R351, R352, R492). -/
def collReads (x : CollSlot) (c : Nat) : List CollRun :=
  let d := x.desc
  let run := fun (a : Word) (unit n : Nat) =>
    ({ core := c, sys := x.sys, va := a, unit := unit, left := n, data := none } : CollRun)
  let shards := cdRows d * cdGcnt d
  (match x.form with
   | .red => [run (cdAddr d 0) (cdSourceBytes d) (cdGcnt d * cdLen d * cdSourceBytes d)]
   | .attn => if cdRing d then [] else
     [run (cdAddr d 0) 4 (4 * shards), run (cdAddr d 1) 4 (4 * shards),
      run (cdAddr d 2) (cdVecBytes d) (cdVecBytes d * shards * cdDim d)]
   | .gath => [run (cdAddr d 0) 8 (cdLen d)]
   | .scat => if cdRank d = cdRoot d then [run (cdAddr d 0) 8 (cdNmem d * cdLen d)] else []
   | .bcast => if cdRank d = cdRoot d then [run (cdAddr d 0) 8 (cdLen d)] else []
   | .a2a => [run (cdAddr d 0) 8 (cdNmem d * cdLen d)]).filter fun r => r.left != 0

/-- The ranks of a table that lie in another package. -/
def State.farRanks (s : State) (table : List Word) : List Nat :=
  (rangeFrom 0 table.length).filter fun r => bits (listGet 0 table r) 18 9 != s.pkg.kpkg.toNat

/-- The core number of a member of another package, of which the station's ORIG takes the die (R504). -/
def farCore (e : Word) : Nat := let o := bits e 0 18
  o / 2 ^ 15 * 96 + o / 2 ^ 12 % 8 * 12 + o / 2 ^ 8 % 16

/-- What a member reads, of a form and a descriptor: how many bytes. -/
def sourceBytes (x : CollSlot) (d : CollDesc) : Nat :=
  ((collReads { x with desc := d } 0).map fun r => r.left).foldl (fun n k => n + k) 0

/-- The rendezvous is complete (R341): the collective begins. A member of another package has slot 8, which no core has; it has
read its sources, and its part ends there. -/
def State.collBegin (s : State) (team seq : BitVec 16) (x : CollSlot) (l : List (Nat × Nat))
    (far : List (Nat × CollDesc × List Byte)) : State :=
  let id := s.stations.nextJob
  let farOf := fun (r : Nat) => listFind (fun (p : Nat × CollDesc × List Byte) => p.1 == r) far
  let ranks := (rangeFrom 0 x.table.length).map fun r => match farOf r with
    | some _ => (farCore (listGet 0 x.table r), 8)
    | none => (listFind (fun (q : Nat × Nat) => cdRank (s.coll q.1 q.2).desc == r) l).getD (0, 0)
  let descs := (ranks.zip (rangeFrom 0 ranks.length)).map fun (q : (Nat × Nat) × Nat) => match farOf q.2 with
    | some p => p.2.1
    | none => (s.coll q.1.1 q.1.2).desc
  let s := l.foldl (fun (s : State) q =>
    let y := s.coll q.1 q.2
    s.setColl q.1 q.2
      { y with
        job := id, phase := if y.form == .attn && cdRing y.desc then .ring else .reading
        todo := collReads y q.1 }) s
  s.modStations fun y =>
    { y with
      nextJob := id + 1
      jobs := y.jobs ++ [{ id := id, team := team, seq := seq, form := x.form, members := ranks, descs := descs
                           ended := far.map fun p => p.1
                           data := far.foldl (fun t p =>
                             let n := sourceBytes x p.2.1
                             tabSet none t p.1 (some ((p.2.2 ++ List.replicate (n - p.2.2.length) 0).take n))) []
                           read := [] }] }

/-- COLL_RENDEZVOUS (R341, R357): the rendezvous of an identity is complete, or fails. `v.far`
says what is known of its members in other packages (DESIGN CHOICE, log entry 21). -/
def execCollRendezvous (team : BitVec 16) (v : Rendezvous) (s : State) : Result :=
  let s := s.failWithdrawn team v.seq
  let l := s.collIssued team v.seq
  match l with
  | [] => .next s
  | p :: _ =>
    let x := s.coll p.1 p.2
    let fail := fun (n : Nat) => Host.Outcome.next (l.foldl (fun (s : State) q => s.collFail q.1 q.2 n) s)
    let news := (s.farRanks x.table).map fun r => (r, (listFind (fun (f : FarMember) => f.rank == r) v.far).map fun f => f.news)
    if x.table.any s.memberLost || news.any fun p => p.2 == some .withdrawn then fail 0x0A
    else if news.any (fun p => p.2.isNone) || !(x.table.filterMap s.memberCore).all (fun c => l.any fun q => q.1 == c) then
      .next s
    else
      let there := news.filterMap fun (p : Nat × Option FarNews) => match p.2 with
        | some (.issued d b) => some (p.1, d, b)
        | _ => none
      if there.length != news.length || !s.collAgrees x l (there.map fun p => (p.1, p.2.1)) then fail 0x09
      else .next (s.collBegin team v.seq x l there)

/-! Wire arithmetic (R347, R348). -/

/-- A wire value: poisoned, with the lowest poisoned leaf and its ORIG if there is one; or one or two patterns. -/
inductive Wire where
  | bad (leaf : Option (Nat × Nat))
  | val (s c : Nat)
deriving DecidableEq, Repr

/-- The poison of two operands: that of the lowest-indexed poisoned leaf (R348). -/
def worse (a b : Option (Nat × Nat)) : Option (Nat × Nat) :=
  match a, b with
  | some x, some y => if x.1 ≤ y.1 then some x else some y
  | some x, none => some x
  | none, y => y

/-- The format of single wire values. -/
def wireFmt (wire : Nat) : FFmt := if wire = 0 then .bf16 else .fp32

/-- The exact value of a wire value. -/
def wireDy (wire s c : Nat) : Dy :=
  if wire = 2 then (patDy .fp32 s).add (patDy .fp32 c) else patDy (wireFmt wire) s

/-- A source element in wire form (R347): leaf g, with its ORIG should it be poisoned. -/
def toWire (sfmt wire raw g orig : Nat) : Wire :=
  let bad := Wire.bad (some (g, orig))
  if sfmt = 0x16 then
    let s := raw % 2 ^ 32
    let c := raw / 2 ^ 32
    if patBad .fp32 s || patBad .fp32 c then bad
    else if wire = 2 then .val s c
    else
      let r := rnBits (wireFmt wire) ((patDy .fp32 s).add (patDy .fp32 c)) (patNeg .fp32 s && patNeg .fp32 c)
      if patBad (wireFmt wire) r then bad else .val r 0
  else match fmtOf sfmt with
  | none => bad
  | some f =>
    if patBad f raw then bad
    else
      let v := patDy f raw
      let r := rnBits (wireFmt wire) v (patNeg f raw)
      if patBad (wireFmt wire) r then bad
      else .val r (if wire = 2 then rnBits .fp32 (v.sub (patDy .fp32 r)) false else 0)

/-- A combined value, poisoned where it is an infinity or NaN (R348). -/
def wireOf (wire s c : Nat) : Wire :=
  if patBad (wireFmt wire) s || patBad .fp32 c then .bad none else .val s c

/-- comb (R347). -/
def wireComb (op wire : Nat) (x y : Wire) : Wire :=
  match x, y with
  | .bad a, .bad b => .bad (worse a b)
  | .bad a, _ => .bad a
  | _, .bad b => .bad b
  | .val xs xc, .val ys yc =>
    match op with
    | 0 =>
      if wire = 2 then
        let (s1, e1) := twoSum .fp32 xs ys
        let c := rnAdd .fp32 (rnAdd .fp32 xc yc) e1
        let r := twoSum .fp32 s1 c
        wireOf wire r.1 r.2
      else wireOf wire (rnAdd (wireFmt wire) xs ys) 0
    | 1 => if (wireDy wire xs xc).lt (wireDy wire ys yc) then y else x
    | _ => if (wireDy wire ys yc).lt (wireDy wire xs xc) then y else x

/-! The trees (R349, R350). -/

/-- One level of the deterministic tree (R349): an EMPTY operand leaves the other as it is. -/
def pairUp {α : Type} (f : α → α → α) : List α → List α
  | x :: y :: l => f x y :: pairUp f l
  | l => l

/-- The root of the deterministic tree over the leaves (R349). -/
def treeRoot {α : Type} (f : α → α → α) (l : List α) : Nat → Option α
  | 0 => l.head?
  | n + 1 => if l.length ≤ 1 then l.head? else treeRoot f (pairUp f l) n

/-- The leaves of an arrival order. -/
def arrivalLeaves : Arrival → List Nat
  | .leaf g => [g]
  | .comb x y => arrivalLeaves x ++ arrivalLeaves y

/-- Every contribution enters exactly once (R350). -/
def arrivalOk (t : Arrival) (n : Nat) : Bool :=
  let l := arrivalLeaves t
  l.length == n && (rangeFrom 0 n).all fun g => l.contains g

/-- The value of an arrival order (R350). -/
def arrivalRoot {α : Type} (f : α → α → α) (l : List α) : Arrival → Option α
  | .leaf g => l[g]?
  | .comb x y =>
    match arrivalRoot f l x, arrivalRoot f l y with
    | some a, some b => some (f a b)
    | a, none => a
    | none, b => b

/-- The result over the leaves (R349, R350). -/
def collRoot {α : Type} (f : α → α → α) (det : Bool) (t : Arrival) (l : List α) : Option α :=
  if det then treeRoot f l l.length else arrivalRoot f l t

/-! Attention triples (R352-R354). -/

/-- A row's triple as patterns, or a poisoned row. -/
inductive Triple where
  | bad (leaf : Option (Nat × Nat))
  | val (m l : Nat) (o : List Nat)
deriving DecidableEq, Repr

/-- -infinity of fp32. -/
def negInf32 : Nat := 0xFF800000

/-- A triple in memory (R353): poisoned if m is a NaN or +infinity, or l or an element of o is a NaN or an infinity. -/
def toTriple (w : FFmt) (m l : Nat) (o : List Nat) (g orig : Nat) : Triple :=
  if (patBad .fp32 m && m != negInf32) || patBad .fp32 l || o.any (patBad w) then .bad (some (g, orig)) else .val m l o

/-- 2^x rounded once by RNE into fp32, for x at most 0 (R353). -/
def exp2Single (x : Dy) : Nat :=
  if x.lt ⟨-151, 0⟩ then 0
  else
    let k := (-x.e).toNat
    let m := (x.m * 2 ^ (x.e + k).toNat + 200 * 2 ^ k).toNat
    (FFmt.fp32.store .rne false false ⟨exp2Floor m k 32, -200, m % 2 ^ k != 0⟩).1

/-- rn(fp32, a * b). -/
def rnMul32 (f : FFmt) (a b : Nat) : Nat :=
  rnBits .fp32 ((patDy f a).mul (patDy .fp32 b)) (patNeg f a != patNeg .fp32 b)

/-- rn(W, a + b) of two fp32 patterns; an infinity among them makes a NaN. -/
def rnSumTo (w : FFmt) (a b : Nat) : Nat :=
  if patBad .fp32 a || patBad .fp32 b then w.nanBits
  else
    let x := patDy .fp32 a
    let y := patDy .fp32 b
    rnBits w (x.add y) (patNeg .fp32 a && patNeg .fp32 b && x.isZero && y.isZero)

/-- attn_comb (R353). -/
def tripleComb (w : FFmt) (a b : Triple) : Triple :=
  match a, b with
  | .bad x, .bad y => .bad (worse x y)
  | .bad x, _ => .bad x
  | _, .bad y => .bad y
  | .val am al ao, .val bm bl bo =>
    if am = negInf32 ∧ bm = negInf32 then .val negInf32 0 (ao.map fun _ => 0)
    else if am = negInf32 then b
    else if bm = negInf32 then a
    else
      let x := patDy .fp32 am
      let y := patDy .fp32 bm
      let m := if x.lt y then bm else am
      let fa := exp2Single (x.sub (patDy .fp32 m))
      let fb := exp2Single (y.sub (patDy .fp32 m))
      let l := rnSumTo .fp32 (rnMul32 .fp32 al fa) (rnMul32 .fp32 bl fb)
      let o := (ao.zip bo).map fun (p : Nat × Nat) => rnSumTo w (rnMul32 w p.1 fa) (rnMul32 w p.2 fb)
      if patBad .fp32 l || o.any (patBad w) then .bad none else .val m l o

/-- o / l rounded once into a format (R354). -/
def quotPat (dfmt : Nat) (md : RMode) (sat : Bool) (w : FFmt) (o l : Nat) : Nat :=
  match fmtOf dfmt with
  | none => 0
  | some f =>
    let neg := patNeg w o != patNeg .fp32 l
    if (patDy w o).isZero then f.signBit neg
    else (f.store md sat neg ((patDy w o).mag.quot (patDy .fp32 l).mag 64)).1

/-! The work of a collective. -/

/-- The origin id of the station of the die of core c (R504). -/
def stationOrig (c : Nat) : Nat := originId (c / 96 * 96) 0x74

/-- A collective replaced in the list of those in progress. -/
def State.setJob (s : State) (j : CollJob) : State :=
  s.modStations fun y => { y with jobs := y.jobs.map fun x => if x.id = j.id then j else x }

/-- A collective that has ended at every member leaves the list. -/
def State.closeJob (s : State) (j : CollJob) : State :=
  if (rangeFrom 0 j.members.length).all j.ended.contains then
    s.modStations fun y => { y with jobs := y.jobs.filter fun x => x.id != j.id }
  else s.setJob j

/-- A member's local part is complete (R345, R348): a poisoned result posts its record, which raises POISON at the core it
names (R449, R453, R504, DEDUCED, log entry 55). -/
def State.memberEnd (s : State) (c i : Nat) : State :=
  let x := s.coll c i
  let s := match x.poison with
    | some (idx, n, orig) =>
      (s.post c
        { typ := 1, cause := causePoison, orig := stationOrig c, resume := false, held := false, double := false,
          words := [word ((cdTeam x.desc).toNat * 2 ^ 48 + idx % 2 ^ 48), word n, word (orig.getD (stationOrig c))] }).pendTrap
        c causePoison (word (s.nextNum c * 2 ^ 32 + (cdTeam x.desc).toNat))
    | none => s
  s.setColl c i
    { x with
      phase := .ended, todo := [], flown := [], got := []
      result := word ((boolWord x.poison.isSome).toNat * 2 ^ 32 + x.masked) }

/-- The access stream of a member is withheld at access `n` (R221, R357). -/
def State.collHold (s : State) (c i n : Nat) (f : Fail) : State :=
  let num := s.nextNum c
  let x := s.coll c i
  (s.setColl c i { x with held := true, nums := x.nums ++ [num] }).post c
    { typ := 0, cause := f.cause, orig := stationOrig c, resume := true, held := true, double := false,
      words := [f.val, word n] }

/-- The address space of an access: the core whose translation it takes, and its mode (R351, R355). -/
def CollRun.space (r : CollRun) : Nat := 2 * r.core + (boolWord r.sys).toNat

/-- The next access of a run: its bytes, and the run without it. -/
def CollRun.split (r : CollRun) : UAcc × List CollRun :=
  let n := min r.unit r.left
  (match r.data with
   | some d => Put.acc { va := r.va, bit := 0, w := 8 * n, v := leNat (d.take n) }
   | none => readAcc r.va n,
   if r.left ≤ n then [] else [{ r with va := r.va + word n, left := r.left - n, data := r.data.map fun d => d.drop n }])

/-- The next access of a member is issued (R221, R351): one element to read or to write. A fault waits until those before it are
performed. -/
def State.collIssue (s : State) (c i : Nat) : State :=
  let x := s.coll c i
  let put := fun (t : State) (y : CollSlot → CollSlot) => t.setColl c i (y (t.coll c i))
  if x.held then s
  else match againOf x.flown, x.todo with
  | some f, _ =>
    match s.issue (f.n / 2) none (f.n % 2 == 1) f.accs with
    | .wait => s
    | .fault t e => if issuedDone x.flown then t.collHold c i f.pos e else s
    | .ok t as _ => put t fun y => { y with flown := reissued y.flown f as }
  | none, [] => s
  | none, r :: l =>
    let p := r.split
    match s.issue r.core none r.sys [p.1] with
    | .wait => s
    | .fault t e => if x.flown.all Flown.done then t.collHold c i x.pos e else s
    | .ok t as _ => put t fun y =>
      { y with
        todo := p.2 ++ l, pos := y.pos + 1
        flown := y.flown ++ [{ pos := y.pos, n := r.space, known := none, bit := 0, accs := as, issued := true }] }

/-- The reads that have come back leave in the order of their issue (R216): their bytes, and what is left. -/
def takeReads : List Flown → List Byte × List Flown
  | [] => ([], [])
  | f :: l =>
    if f.writes || !f.done then ([], f :: l)
    else let p := takeReads l
      ((f.accs.flatMap fun a => a.got) ++ p.1, p.2)

/-- A part of an access of a member is performed (R198, R208). An uncorrectable error withholds the access stream (R357). -/
def State.collPerform (s : State) (c i id j : Nat) : State :=
  let x := s.coll c i
  let space := match listFind (fun f => f.accs.any fun a => a.id == id) x.flown with
    | some f => f.n / 2
    | none => c
  match flownRequest x.flown id j with
  | none => s
  | some (a, g) =>
    if s.waveBars space g.pa then s
    else if if a.put.isSome then s.narrowBad g.pa g.n else s.eccBad g.pa g.n then
      match recallFrom x.flown id with
      | none => s
      | some (l, n) => (s.setColl c i { x with flown := l }).collHold c i n ⟨causeEccu, word g.pa⟩
    else
      let p := s.unitPerform c (stationOrig c) 0 a j g
      let q := takeReads (leaveWrites (putFlown x.flown p.2))
      (p.1).setColl c i { (p.1).coll c i with got := x.got ++ q.1, flown := q.2 }

/-- A member has no access to issue and none under way. -/
def CollSlot.idle (x : CollSlot) : Bool := x.todo.isEmpty && x.flown.isEmpty

/-- A member may issue an access. -/
def CollSlot.ready (x : CollSlot) : Bool := !x.held && (!x.todo.isEmpty || (againOf x.flown).isSome)

/-- A member receives (R339, R351). -/
def collReceives (x : CollSlot) : Bool :=
  match x.form with
  | .scat => true
  | .bcast => true
  | .a2a => true
  | _ => cdAll x.desc || cdRank x.desc == cdRoot x.desc

/-- The source bytes of a rank. -/
def CollJob.bytes (j : CollJob) (r : Nat) : List Byte := (tabGet none j.data r).getD []

/-- Element n of w bytes. -/
def elemAt (l : List Byte) (w n : Nat) : Nat := leNat ((l.drop (w * n)).take w)

/-- The leaves of a reduction at an element (R347, R492): contribution g of the member that holds it. -/
def CollJob.redLeaf (j : CollJob) (e g : Nat) : Wire :=
  match listFind (fun r => let d := listGet 0 j.descs r
      decide (cdGlo d ≤ g ∧ g < cdGlo d + cdGcnt d)) (rangeFrom 0 j.descs.length) with
  | none => .bad none
  | some r =>
    let d := listGet 0 j.descs r
    toWire (cdSfmt d) (cdWire d) (elemAt (j.bytes r) (cdSourceBytes d) ((g - cdGlo d) * cdLen d + e)) g
      (stationOrig (listGet (0, 0) j.members r).1)

/-- The rounding mode of a result (R504). -/
def cdMode (d : CollDesc) (idx : Nat) : RMode :=
  rmodeOf (cdDrm d) (rsrBits ((cdSeq d).setWidth 64) (cdTeam d).toNat idx)

/-- What a result element is stored as (R66, R71, R347). -/
def wireResult (d : CollDesc) (e : Nat) (r : Wire) : List Byte :=
  let x : Elem := match r with
    | .bad _ => { num := 0, exp := 0, zs := none, poison := some 0 }
    | .val s c =>
      let v := wireDy (cdWire d) s c
      { num := v.m, exp := v.e
        zs := some (if cdWire d = 2 then patNeg .fp32 s && patNeg .fp32 c else patNeg (wireFmt (cdWire d)) s)
        poison := none }
  leBytes (elemPat (cdDfmt d) (cdMode d e) (cdDsat d) x).1 (fmtWidth (cdDfmt d) / 8)

/-- The results of a reduction: bytes, and the first poisoned element, their number and the ORIG. -/
def CollJob.redResult (j : CollJob) (t : Arrival) :
    List Byte × Option (Nat × Nat × Option Nat) :=
  let d := listGet 0 j.descs 0
  let rs := (rangeFrom 0 (cdLen d)).map fun e =>
    (collRoot (wireComb (cdOp d) (cdWire d)) (cdDet d) t ((rangeFrom 0 (cdGtot d)).map (j.redLeaf e))).getD (.bad none)
  let bads := (rs.zip (rangeFrom 0 rs.length)).filterMap fun (p : Wire × Nat) => match p.1 with
    | .bad a => some (p.2, a.map fun x => x.2)
    | .val _ _ => none
  ((rs.zip (rangeFrom 0 rs.length)).flatMap fun (p : Wire × Nat) => wireResult d p.2 p.1,
    bads.head?.map fun b => (b.1, bads.length, b.2))

/-- The triple of a row and a shard (R352). -/
def CollJob.tripleLeaf (j : CollJob) (row g : Nat) : Triple :=
  match listFind (fun r => let d := listGet 0 j.descs r
      decide (cdGlo d ≤ g ∧ g < cdGlo d + cdGcnt d)) (rangeFrom 0 j.descs.length) with
  | none => .bad none
  | some r =>
    let d := listGet 0 j.descs r
    let b := j.bytes r
    let n := cdRows d * cdGcnt d
    let i := row * cdGcnt d + (g - cdGlo d)
    toTriple (if cdOfmt d then .bf16 else .fp32) (elemAt b 4 i) (elemAt (b.drop (4 * n)) 4 i)
      ((rangeFrom 0 (cdDim d)).map fun e => elemAt (b.drop (8 * n)) (cdVecBytes d) (i * cdDim d + e)) g
      (stationOrig (listGet (0, 0) j.members r).1)

/-- The flag of a row (R352, R354): 1 masked, 2 poisoned. -/
def rowFlag (r : Triple) : Nat :=
  match r with
  | .bad _ => 2
  | .val _ l _ => if (patDy .fp32 l).isZero then 1 else 0

/-- The normalised elements of a row (R354). -/
def rowNorm (d : CollDesc) (row : Nat) (r : Triple) : List Byte :=
  let n := fmtWidth (cdDfmt d) / 8
  match r with
  | .bad _ => (rangeFrom 0 (cdDim d)).flatMap fun _ => leBytes (poisonPat (cdDfmt d)) n
  | .val _ l o => (o.zip (rangeFrom 0 o.length)).flatMap fun (p : Nat × Nat) =>
    if rowFlag r = 1 then leBytes 0 n
    else leBytes (quotPat (cdDfmt d) (cdMode d (row * cdDim d + p.2)) (cdDsat d)
      (if cdOfmt d then .bf16 else .fp32) p.1 l) n

/-- m, l and o of a row as they are written (R353). -/
def rowTriple (d : CollDesc) (r : Triple) : Nat × Nat × List Byte :=
  let w : FFmt := if cdOfmt d then .bf16 else .fp32
  match r with
  | .bad _ => (FFmt.fp32.nanBits, FFmt.fp32.nanBits, (rangeFrom 0 (cdDim d)).flatMap fun _ => leBytes w.nanBits (cdVecBytes d))
  | .val m l o => (m, l, o.flatMap fun v => leBytes v (cdVecBytes d))

/-- The writes of a receiving member (R351, R352, R354, R492), from its results. -/
def collWrites (x : CollSlot) (c : Nat) (runs : List (Word × Nat × List Byte)) : List CollRun :=
  (runs.map fun (p : Word × Nat × List Byte) =>
    ({ core := c, sys := x.sys, va := p.1, unit := p.2.1, left := p.2.2.length, data := some p.2.2 } : CollRun)).filter
    fun r => r.left != 0

/-- The rows' results of an attention collective. -/
def CollJob.tripleRows (j : CollJob) (t : Arrival) : List Triple :=
  let d := listGet 0 j.descs 0
  (rangeFrom 0 (cdRows d)).map fun row =>
    (collRoot (tripleComb (if cdOfmt d then .bf16 else .fp32)) (cdDet d) t
      ((rangeFrom 0 (cdGtot d)).map (j.tripleLeaf row))).getD (.bad none)

/-- What an attention collective writes at a member (R352). -/
def tripleWrites (d : CollDesc) (rows : List Triple) : List (Word × Nat × List Byte) :=
  let ps := rows.zip (rangeFrom 0 rows.length)
  let flags := rows.flatMap fun r => leBytes (rowFlag r) 1
  (if cdNorm d then [(cdAddr d 3, fmtWidth (cdDfmt d) / 8, ps.flatMap fun (p : Triple × Nat) => rowNorm d p.2 p.1)]
   else ps.flatMap fun (p : Triple × Nat) =>
    let r := rowTriple d p.1
    let k := p.2 * cdGcnt d
    [(cdAddr d 0 + word (4 * k), 4, leBytes r.1 4), (cdAddr d 1 + word (4 * k), 4, leBytes r.2.1 4),
     (cdAddr d 2 + word (cdVecBytes d * k * cdDim d), cdVecBytes d, r.2.2)])
  ++ (if cdFaddr d = 0 then [] else [(cdFaddr d, 1, flags)])

/-- The poison of an attention collective: the position of its first poisoned row, the elements, and the ORIG. -/
def triplePoison (d : CollDesc) (rows : List Triple) : Option (Nat × Nat × Option Nat) :=
  let bads := (rows.zip (rangeFrom 0 rows.length)).filterMap fun (p : Triple × Nat) => match p.1 with
    | .bad a => some (p.2, a.map fun x => x.2)
    | .val _ _ _ => none
  bads.head?.map fun b => (b.1 * cdDim d, bads.length * cdDim d, b.2)

/-- The bytes that a moving collective writes at rank r (R351). -/
def CollJob.moved (j : CollJob) (form : CollForm) (d : CollDesc) (r : Nat) : List Byte :=
  let part := fun (l : List Byte) (n : Nat) => (l.drop (n * cdLen d)).take (cdLen d)
  match form with
  | .gath => (rangeFrom 0 (cdNmem d)).flatMap j.bytes
  | .scat => part (j.bytes (cdRoot d)) r
  | .bcast => j.bytes (cdRoot d)
  | _ => (rangeFrom 0 (cdNmem d)).flatMap fun n => part (j.bytes n) r

/-- Every source has been read: the results of each receiving member are ready to be written. `t` is the arrival order of
R350. -/
def State.collCompute (s : State) (j : CollJob) (t : Arrival) : State :=
  let ps := j.members.zip (rangeFrom 0 j.members.length)
  let ready := ps.filter fun (p : (Nat × Nat) × Nat) => !j.ended.contains p.2
  let d := listGet 0 j.descs 0
  let give := fun (runs : CollSlot → Nat → List (Word × Nat × List Byte)) (masked : Nat)
      (poison : Option (Nat × Nat × Option Nat)) =>
    ready.foldl (fun (s : State) (q : (Nat × Nat) × Nat) =>
      let y := s.coll q.1.1 q.1.2
      s.setColl q.1.1 q.1.2
        { y with
          phase := .writing, todo := collWrites y q.1.1 (runs y q.2), masked := masked, poison := poison }) s
  match j.form with
  | .red =>
    let r := j.redResult t
    give (fun y _ => [(cdAddr y.desc 1, fmtWidth (cdDfmt y.desc) / 8, r.1)]) 0 r.2
  | .attn =>
    let rows := j.tripleRows t
    give (fun y _ => tripleWrites y.desc rows) (rows.filter fun r => rowFlag r == 1).length (triplePoison d rows)
  | f => give (fun y r => [(cdAddr y.desc 1, 8, j.moved f y.desc r)]) 0 none

/-- A member whose slot no longer belongs to the collective has withdrawn (R359). -/
def State.withdrawn (s : State) (j : CollJob) : Bool :=
  (j.members.zip (rangeFrom 0 j.members.length)).any fun (p : (Nat × Nat) × Nat) =>
    !j.ended.contains p.2 && !((s.coll p.1.1 p.1.2).used && (s.coll p.1.1 p.1.2).job == j.id)

/-- The others fail with REMOTE (R357, R359). -/
def State.jobFail (s : State) (j : CollJob) : State :=
  let s := j.members.foldl (fun (s : State) m =>
    if (s.coll m.1 m.2).used && (s.coll m.1 m.2).job == j.id && (s.coll m.1 m.2).phase != .ended then
      s.collFail m.1 m.2 0x0A
    else s) s
  s.modStations fun y => { y with jobs := y.jobs.filter fun x => x.id != j.id }

/-- The accesses of a collective may be made (R341, R346): an earlier collective of its identity has ended, and the CP
accesses of its members are performed. -/
def State.jobOpen (s : State) (j : CollJob) : Bool :=
  !(s.stations.jobs.any fun x => x.team == j.team && x.seq == j.seq && decide (x.id < j.id))
    && (j.members.zip (rangeFrom 0 j.members.length)).all fun (p : (Nat × Nat) × Nat) =>
      j.ended.contains p.2 || (s.cpOf p.1.1).drained (s.coll p.1.1 p.1.2).covered

/-- The arrival order may be used. -/
def CollJob.arrives (j : CollJob) (t : Arrival) : Bool :=
  let d := listGet 0 j.descs 0
  (j.form != .red && j.form != .attn) || cdDet d || arrivalOk t (cdGtot d)

/-- The collective is a ring (R355). -/
def CollJob.isRing (j : CollJob) : Bool := j.form == .attn && cdRing (listGet 0 j.descs 0)

/-- A member ends: what remains of the collective goes on without its slot. -/
def State.memberDone (s : State) (j : CollJob) (r c i : Nat) : State :=
  (s.memberEnd c i).closeJob { j with ended := j.ended ++ [r] }

/-- One step of a collective that is no ring (R349-R354, R357). -/
def State.jobStep (s : State) (j : CollJob) (t : Arrival) : State :=
  let ps := j.members.zip (rangeFrom 0 j.members.length)
  let slot := fun (p : (Nat × Nat) × Nat) => s.coll p.1.1 p.1.2
  let live := ps.filter fun p => !j.ended.contains p.2
  if s.withdrawn j then s.jobFail j
  else if !s.jobOpen j then s
  else match listFind (fun p => (slot p).ready) live with
  | some p => s.collIssue p.1.1 p.1.2
  | none =>
    match listFind (fun p => (slot p).idle && (slot p).phase == .reading) live with
    | some p =>
      let x := slot p
      let j := { j with data := tabSet none j.data p.2 (some x.got) }
      if collReceives x then (s.setColl p.1.1 p.1.2 { x with phase := .ready, got := [] }).setJob j
      else s.memberDone j p.2 p.1.1 p.1.2
    | none =>
      match listFind (fun p => (slot p).idle && (slot p).phase == .writing) live with
      | some p => s.memberDone j p.2 p.1.1 p.1.2
      | none =>
        if live.all (fun p => (slot p).phase == .ready) && j.arrives t then s.collCompute j t else s

/-- COLL_COMBINE (R349-R354): one step of the oldest collective of an identity. -/
def execCollCombine (team seq : BitVec 16) (t : Arrival) (s : State) : Result :=
  match listFind (fun (j : CollJob) => j.team == team && j.seq == seq) s.stations.jobs with
  | none => .next s
  | some j =>
    if j.isRing then .next s else .next (s.jobStep j t)

/-! Rings (R355, R356). -/

/-- The rotation-counter token (R356). -/
def ringToken (step src n : Nat) : Word :=
  word (4 * 2 ^ 60 + step * 2 ^ 56 + src * 2 ^ 52 + (n - 1) * 2 ^ 48 + (if step + 1 = n then 2 ^ 47 else 0))

/-- The K and V blocks of a rank, read through its own translation (R355). -/
def ringReads (y : CollSlot) (c : Nat) : List CollRun :=
  ((rangeFrom 0 2).map fun n =>
    ({ core := c, sys := y.sys, va := cdAddr y.desc n, unit := 8, left := cdBytes y.desc n, data := none } : CollRun)).filter
    fun r => r.left != 0

/-- A push of a ring pass into a buffer of the member's core, after which it goes on by `f`. -/
def State.ringPush (s : State) (c n : Nat) (tag : BitVec 8) (bs : List Byte) (f : State → State) : State :=
  match s.sbAt c n tag with
  | none => s
  | some (i, F) =>
    if s.sbRoom c n i F byRing bs.length then f (s.sbPut c n i F byRing bs true) else s.sbAsk c n i byRing

/-- One step of the passes of the member of rank r (R355): its reads go on, and K enters KSB once every byte of it is read, then V
VSB, and then the token TSB. -/
def State.ringStep (s : State) (j : CollJob) (r c i : Nat) : State :=
  let x := s.coll c i
  let n := j.members.length
  if x.pass = n then
    if (rangeFrom 0 n).all fun q => j.read.contains (q, r) then s.memberDone j r c i else s
  else
    let b := (r + n - x.pass % n) % n
    let m := listGet (0, 0) j.members b
    let kLen := cdBytes (listGet 0 j.descs b) 0
    let vLen := cdBytes (listGet 0 j.descs b) 1
    if x.part = 0 then s.setColl c i { x with part := 1, todo := ringReads (s.coll m.1 m.2) m.1, got := [] }
    else
      let s := s.collIssue c i
      let y := s.coll c i
      let s := if y.idle && !j.read.contains (r, b) then s.setJob { j with read := j.read ++ [(r, b)] } else s
      let next := fun (t : State) => t.setColl c i { t.coll c i with part := x.part + 1 }
      if x.part = 1 then
        if y.got.length < kLen then s
        else if kLen = 0 then next s
        else s.ringPush c (cdBuf x.desc 0) x.ctag (y.got.take kLen) next
      else if x.part = 2 then
        if y.got.length < kLen + vLen then s
        else if vLen = 0 then next s
        else s.ringPush c (cdBuf x.desc 1) x.ctag (y.got.drop kLen) next
      else if !y.idle then s
      else
        s.ringPush c (cdBuf x.desc 2) x.ctag (flitBytes (mkFlit 6 x.ctag (ringToken x.pass b n) false true)) fun t =>
          t.setColl c i { t.coll c i with part := 0, pass := x.pass + 1, got := [] }

/-- RING_PASS (R355): one step of the passes of a member. -/
def execRingPass (c : CoreIx) (slot : Fin 8) (s : State) : Result :=
  let x := s.coll c.val slot.val
  match listFind (fun (j : CollJob) => x.used && x.phase == .ring && j.id == x.job) s.stations.jobs with
  | none => .next s
  | some j =>
    if s.withdrawn j then .next (s.jobFail j)
    else if !s.jobOpen j then .next s
    else .next (s.ringStep j (cdRank x.desc) c.val slot.val)

/-- A collective access stream that a record's number names, of a core of die d (R390): its slot, and whether it is
withheld. -/
def State.collByNum (s : State) (d num : Nat) : Option (Nat × Nat × Bool) :=
  (s.cores.flatMap fun (p : Nat × Core) =>
    if p.1 / 96 = d then
      (p.2.colls.filter fun (q : Nat × CollSlot) => q.2.nums.contains num).map fun (q : Nat × CollSlot) =>
        (p.1, q.1, q.2.held && q.2.nums.getLast? == some num)
    else []).head?

end Sys2Proof.Machine
end

