-- ==== Sys2Proof/Machine/Integer.lean ====
section
/-! DEFINITION. The integer forms of majors 0x01 and 0x02 (R151-R154): each result is computed from the operands' values and
written to one general register; nothing else changes. -/
namespace Sys2Proof.Machine

/-- The product as integers, high 64 bits (R151). -/
def mulHigh (x y : Int) : Word := u64 (Int.fdiv (x * y) (2 ^ 64))

/-- `div` of R152. -/
def divSigned (a b : Word) : Word :=
  if b = 0 then 0xFFFFFFFFFFFFFFFF
  else if a = 0x8000000000000000 ∧ b = 0xFFFFFFFFFFFFFFFF then 0x8000000000000000
  else u64 (Int.tdiv a.toInt b.toInt)

/-- `divz` of R152. -/
def divUnsigned (a b : Word) : Word := if b = 0 then 0xFFFFFFFFFFFFFFFF else word (a.toNat / b.toNat)

/-- `rem` of R152. -/
def remSigned (a b : Word) : Word :=
  if b = 0 then a
  else if a = 0x8000000000000000 ∧ b = 0xFFFFFFFFFFFFFFFF then 0
  else u64 (a.toInt - b.toInt * Int.tdiv a.toInt b.toInt)

/-- `remz` of R152. -/
def remUnsigned (a b : Word) : Word := if b = 0 then a else word (a.toNat - b.toNat * (a.toNat / b.toNat))

/-- The position of a field descriptor (R153). -/
def fieldPos (c : Word) : Nat := bits c 0 6

/-- The length of a field descriptor (R153). -/
def fieldLen (c : Word) : Nat := min (bits c 8 7) 64

/-- `bext` of R153: a field of the 128-bit pair B:A. -/
def bitExtract (a b c : Word) : Word :=
  word ((b.toNat * 2 ^ 64 + a.toNat) / 2 ^ fieldPos c % 2 ^ fieldLen c)

/-- `bins` of R153: field bits above bit 63 are dropped. -/
def bitInsert (a b c : Word) : Word :=
  let m := maskWord (fieldLen c) <<< fieldPos c
  (a &&& ~~~m) ||| ((b <<< fieldPos c) &&& m)

/-- The count of a shift by a register: B[5:0] (R151). -/
def shiftCount (b : Word) : Nat := bits b 0 6

/-- The immediate of the I format, sign-extended (R104). -/
def immWord (imm : BitVec 37) : Word := imm.signExtend 64

/-- `add` (R151): Writes A + B modulo 2^64. -/
def execAdd (g : Guard) (d : Reg) (a : Src) (b : Src) (s : State) : Result :=
  aluForm s (.add g d a b) g [a, b] d (s.cp.val a + s.cp.val b)

/-- `sub` (R151): Writes A - B modulo 2^64. -/
def execSub (g : Guard) (d : Reg) (a : Src) (b : Src) (s : State) : Result :=
  aluForm s (.sub g d a b) g [a, b] d (s.cp.val a - s.cp.val b)

/-- `and` (R151): Writes A & B. -/
def execAnd (g : Guard) (d : Reg) (a : Src) (b : Src) (s : State) : Result :=
  aluForm s (.and g d a b) g [a, b] d (s.cp.val a &&& s.cp.val b)

/-- `or` (R151): Writes A | B. -/
def execOr (g : Guard) (d : Reg) (a : Src) (b : Src) (s : State) : Result :=
  aluForm s (.or g d a b) g [a, b] d (s.cp.val a ||| s.cp.val b)

/-- `xor` (R151): Writes A ^ B. -/
def execXor (g : Guard) (d : Reg) (a : Src) (b : Src) (s : State) : Result :=
  aluForm s (.xor g d a b) g [a, b] d (s.cp.val a ^^^ s.cp.val b)

/-- `andn` (R151): Writes A & ~B. -/
def execAndn (g : Guard) (d : Reg) (a : Src) (b : Src) (s : State) : Result :=
  aluForm s (.andn g d a b) g [a, b] d (s.cp.val a &&& ~~~(s.cp.val b))

/-- `shl` (R151): Shifts A left by B[5:0]. -/
def execShl (g : Guard) (d : Reg) (a : Src) (b : Src) (s : State) : Result :=
  aluForm s (.shl g d a b) g [a, b] d (s.cp.val a <<< shiftCount (s.cp.val b))

/-- `shr` (R151): Shifts A right logically by B[5:0]. -/
def execShr (g : Guard) (d : Reg) (a : Src) (b : Src) (s : State) : Result :=
  aluForm s (.shr g d a b) g [a, b] d (s.cp.val a >>> shiftCount (s.cp.val b))

/-- `sra` (R151): Shifts A right arithmetically by B[5:0]. -/
def execSra (g : Guard) (d : Reg) (a : Src) (b : Src) (s : State) : Result :=
  aluForm s (.sra g d a b) g [a, b] d ((s.cp.val a).sshiftRight (shiftCount (s.cp.val b)))

/-- `rol` (R151): Rotates A left by B[5:0]. -/
def execRol (g : Guard) (d : Reg) (a : Src) (b : Src) (s : State) : Result :=
  aluForm s (.rol g d a b) g [a, b] d ((s.cp.val a).rotateLeft (shiftCount (s.cp.val b)))

/-- `min` (R151): Writes the signed smaller of A and B. -/
def execMin (g : Guard) (d : Reg) (a : Src) (b : Src) (s : State) : Result :=
  aluForm s (.min g d a b) g [a, b] d (if (s.cp.val a).slt (s.cp.val b) then s.cp.val a else s.cp.val b)

/-- `max` (R151): Writes the signed larger of A and B. -/
def execMax (g : Guard) (d : Reg) (a : Src) (b : Src) (s : State) : Result :=
  aluForm s (.max g d a b) g [a, b] d (if (s.cp.val a).slt (s.cp.val b) then s.cp.val b else s.cp.val a)

/-- `minz` (R151): Writes the unsigned smaller of A and B. -/
def execMinz (g : Guard) (d : Reg) (a : Src) (b : Src) (s : State) : Result :=
  aluForm s (.minz g d a b) g [a, b] d (if s.cp.val a < s.cp.val b then s.cp.val a else s.cp.val b)

/-- `maxz` (R151): Writes the unsigned larger of A and B. -/
def execMaxz (g : Guard) (d : Reg) (a : Src) (b : Src) (s : State) : Result :=
  aluForm s (.maxz g d a b) g [a, b] d (if s.cp.val a < s.cp.val b then s.cp.val b else s.cp.val a)

/-- `mul` (R151): Writes the low 64 bits of A × B. -/
def execMul (g : Guard) (d : Reg) (a : Src) (b : Src) (s : State) : Result :=
  aluForm s (.mul g d a b) g [a, b] d (s.cp.val a * s.cp.val b)

/-- `mulh` (R151): Writes the high 64 bits of the signed product. -/
def execMulh (g : Guard) (d : Reg) (a : Src) (b : Src) (s : State) : Result :=
  aluForm s (.mulh g d a b) g [a, b] d (mulHigh (s.cp.val a).toInt (s.cp.val b).toInt)

/-- `mulhz` (R151): Writes the high 64 bits of the unsigned product. -/
def execMulhz (g : Guard) (d : Reg) (a : Src) (b : Src) (s : State) : Result :=
  aluForm s (.mulhz g d a b) g [a, b] d (mulHigh (s.cp.val a).toNat (s.cp.val b).toNat)

/-- `div` (R152): Signed division truncating toward zero, with defined results for zero and overflow. -/
def execDiv (g : Guard) (d : Reg) (a : Src) (b : Src) (s : State) : Result :=
  aluForm s (.div g d a b) g [a, b] d (divSigned (s.cp.val a) (s.cp.val b))

/-- `divz` (R152): Unsigned division, all ones for a zero divisor. -/
def execDivz (g : Guard) (d : Reg) (a : Src) (b : Src) (s : State) : Result :=
  aluForm s (.divz g d a b) g [a, b] d (divUnsigned (s.cp.val a) (s.cp.val b))

/-- `rem` (R152): Signed remainder with defined results for zero and overflow. -/
def execRem (g : Guard) (d : Reg) (a : Src) (b : Src) (s : State) : Result :=
  aluForm s (.rem g d a b) g [a, b] d (remSigned (s.cp.val a) (s.cp.val b))

/-- `remz` (R152): Unsigned remainder, A for a zero divisor. -/
def execRemz (g : Guard) (d : Reg) (a : Src) (b : Src) (s : State) : Result :=
  aluForm s (.remz g d a b) g [a, b] d (remUnsigned (s.cp.val a) (s.cp.val b))

/-- `clz` (R151): Counts leading zero bits of A. -/
def execClz (g : Guard) (d : Reg) (a : Src) (s : State) : Result :=
  aluForm s (.clz g d a) g [a] d (word (leadingZeros (s.cp.val a) 64))

/-- `ctz` (R151): Counts trailing zero bits of A. -/
def execCtz (g : Guard) (d : Reg) (a : Src) (s : State) : Result :=
  aluForm s (.ctz g d a) g [a] d (word (trailingZeros (s.cp.val a) 0 64))

/-- `popc` (R151): Counts one bits of A. -/
def execPopc (g : Guard) (d : Reg) (a : Src) (s : State) : Result :=
  aluForm s (.popc g d a) g [a] d (word (popCount (s.cp.val a) 64))

/-- `sel` (R151): Writes A if predicate C is true, else B. -/
def execSel (g : Guard) (d : Reg) (a : Src) (b : Src) (p : PReg) (s : State) : Result :=
  aluForm s (.sel g d a b p) g [a, b] d (if s.cp.regs.pred p then s.cp.val a else s.cp.val b)

/-- `bext` (R153): Extracts a bit field from the 128-bit pair B:A. -/
def execBext (g : Guard) (d : Reg) (a : Src) (b : Src) (c : Src) (s : State) : Result :=
  aluForm s (.bext g d a b c) g [a, b, c] d (bitExtract (s.cp.val a) (s.cp.val b) (s.cp.val c))

/-- `bins` (R153): Inserts the low bits of B into a field of A. -/
def execBins (g : Guard) (d : Reg) (a : Src) (b : Src) (c : Src) (s : State) : Result :=
  aluForm s (.bins g d a b c) g [a, b, c] d (bitInsert (s.cp.val a) (s.cp.val b) (s.cp.val c))

/-- `addi` (R154): Adds a sign-extended immediate to A. -/
def execAddi (g : Guard) (d : Reg) (a : Src) (imm : BitVec 37) (s : State) : Result :=
  aluForm s (.addi g d a imm) g [a] d (s.cp.val a + immWord imm)

/-- `andi` (R154): ANDs A with a sign-extended immediate. -/
def execAndi (g : Guard) (d : Reg) (a : Src) (imm : BitVec 37) (s : State) : Result :=
  aluForm s (.andi g d a imm) g [a] d (s.cp.val a &&& immWord imm)

/-- `ori` (R154): ORs A with a sign-extended immediate. -/
def execOri (g : Guard) (d : Reg) (a : Src) (imm : BitVec 37) (s : State) : Result :=
  aluForm s (.ori g d a imm) g [a] d (s.cp.val a ||| immWord imm)

/-- `xori` (R154): XORs A with a sign-extended immediate. -/
def execXori (g : Guard) (d : Reg) (a : Src) (imm : BitVec 37) (s : State) : Result :=
  aluForm s (.xori g d a imm) g [a] d (s.cp.val a ^^^ immWord imm)

/-- `shli` (R154): Shifts A left by an immediate count. -/
def execShli (g : Guard) (d : Reg) (a : Src) (n : BitVec 6) (s : State) : Result :=
  aluForm s (.shli g d a n) g [a] d (s.cp.val a <<< n.toNat)

/-- `shri` (R154): Shifts A right logically by an immediate count. -/
def execShri (g : Guard) (d : Reg) (a : Src) (n : BitVec 6) (s : State) : Result :=
  aluForm s (.shri g d a n) g [a] d (s.cp.val a >>> n.toNat)

/-- `srai` (R154): Shifts A right arithmetically by an immediate count. -/
def execSrai (g : Guard) (d : Reg) (a : Src) (n : BitVec 6) (s : State) : Result :=
  aluForm s (.srai g d a n) g [a] d ((s.cp.val a).sshiftRight n.toNat)

/-- `li` (R154): Loads a sign-extended 37-bit immediate. -/
def execLi (g : Guard) (d : Reg) (imm : BitVec 37) (s : State) : Result :=
  aluForm s (.li g d imm) g [] d (immWord imm)

/-- `liH` (R154): Keeps A[36:0] and replaces bits 63:37 with the immediate. -/
def execLiH (g : Guard) (d : Reg) (a : Src) (imm : BitVec 27) (s : State) : Result :=
  aluForm s (.liH g d a imm) g [a] d (imm ++ (s.cp.val a).extractLsb' 0 37)

end Sys2Proof.Machine
end

