-- ==== Sys2Proof/Machine/Compare.lean ====
section
/-!
DEFINITION. The compare and predicate forms of majors 0x03 and 0x04 (R155, R156).
-/
namespace Sys2Proof.Machine

/-- `cmpEq` (R155): Sets a predicate when A equals B. -/
def execCmpEq (g : Guard) (d : PReg) (a : Src) (b : Src) (s : State) : Result :=
  predForm s (.cmpEq g d a b) g [a, b] d (s.cp.val a == s.cp.val b)

/-- `cmpNe` (R155): Sets a predicate when A differs from B. -/
def execCmpNe (g : Guard) (d : PReg) (a : Src) (b : Src) (s : State) : Result :=
  predForm s (.cmpNe g d a b) g [a, b] d (s.cp.val a != s.cp.val b)

/-- `cmpLt` (R155): Sets a predicate when A < B, signed. -/
def execCmpLt (g : Guard) (d : PReg) (a : Src) (b : Src) (s : State) : Result :=
  predForm s (.cmpLt g d a b) g [a, b] d ((s.cp.val a).slt (s.cp.val b))

/-- `cmpGe` (R155): Sets a predicate when A >= B, signed. -/
def execCmpGe (g : Guard) (d : PReg) (a : Src) (b : Src) (s : State) : Result :=
  predForm s (.cmpGe g d a b) g [a, b] d (!(s.cp.val a).slt (s.cp.val b))

/-- `cmpLo` (R155): Sets a predicate when A < B, unsigned. -/
def execCmpLo (g : Guard) (d : PReg) (a : Src) (b : Src) (s : State) : Result :=
  predForm s (.cmpLo g d a b) g [a, b] d ((s.cp.val a).ult (s.cp.val b))

/-- `cmpHs` (R155): Sets a predicate when A >= B, unsigned. -/
def execCmpHs (g : Guard) (d : PReg) (a : Src) (b : Src) (s : State) : Result :=
  predForm s (.cmpHs g d a b) g [a, b] d (!(s.cp.val a).ult (s.cp.val b))

/-- `cmpiEq` (R155): Sets a predicate when A equals the immediate. -/
def execCmpiEq (g : Guard) (d : PReg) (a : Src) (imm : BitVec 37) (s : State) : Result :=
  predForm s (.cmpiEq g d a imm) g [a] d (s.cp.val a == immWord imm)

/-- `cmpiNe` (R155): Sets a predicate when A differs from the immediate. -/
def execCmpiNe (g : Guard) (d : PReg) (a : Src) (imm : BitVec 37) (s : State) : Result :=
  predForm s (.cmpiNe g d a imm) g [a] d (s.cp.val a != immWord imm)

/-- `cmpiLt` (R155): Sets a predicate when A < immediate, signed. -/
def execCmpiLt (g : Guard) (d : PReg) (a : Src) (imm : BitVec 37) (s : State) : Result :=
  predForm s (.cmpiLt g d a imm) g [a] d ((s.cp.val a).slt (immWord imm))

/-- `cmpiGe` (R155): Sets a predicate when A >= immediate, signed. -/
def execCmpiGe (g : Guard) (d : PReg) (a : Src) (imm : BitVec 37) (s : State) : Result :=
  predForm s (.cmpiGe g d a imm) g [a] d (!(s.cp.val a).slt (immWord imm))

/-- `cmpiLo` (R155): Sets a predicate when A < immediate, unsigned. -/
def execCmpiLo (g : Guard) (d : PReg) (a : Src) (imm : BitVec 37) (s : State) : Result :=
  predForm s (.cmpiLo g d a imm) g [a] d ((s.cp.val a).ult (immWord imm))

/-- `cmpiHs` (R155): Sets a predicate when A >= immediate, unsigned. -/
def execCmpiHs (g : Guard) (d : PReg) (a : Src) (imm : BitVec 37) (s : State) : Result :=
  predForm s (.cmpiHs g d a imm) g [a] d (!(s.cp.val a).ult (immWord imm))

/-- `pand` (R156): Writes pA AND pB to a predicate. -/
def execPand (g : Guard) (d : PReg) (a : PReg) (b : PReg) (s : State) : Result :=
  predForm s (.pand g d a b) g [] d (s.cp.regs.pred a && s.cp.regs.pred b)

/-- `por` (R156): Writes pA OR pB to a predicate. -/
def execPor (g : Guard) (d : PReg) (a : PReg) (b : PReg) (s : State) : Result :=
  predForm s (.por g d a b) g [] d (s.cp.regs.pred a || s.cp.regs.pred b)

/-- `pxor` (R156): Writes pA XOR pB to a predicate. -/
def execPxor (g : Guard) (d : PReg) (a : PReg) (b : PReg) (s : State) : Result :=
  predForm s (.pxor g d a b) g [] d (s.cp.regs.pred a != s.cp.regs.pred b)

/-- `pandn` (R156): Writes pA AND NOT pB to a predicate. -/
def execPandn (g : Guard) (d : PReg) (a : PReg) (b : PReg) (s : State) : Result :=
  predForm s (.pandn g d a b) g [] d (s.cp.regs.pred a && !s.cp.regs.pred b)

/-- `pmov` (R156): Copies one predicate to another. -/
def execPmov (g : Guard) (d : PReg) (a : PReg) (s : State) : Result :=
  predForm s (.pmov g d a) g [] d (s.cp.regs.pred a)

/-- `pget` (R156): Writes 1 or 0 to a general register from a predicate. -/
def execPget (g : Guard) (d : Reg) (a : PReg) (s : State) : Result :=
  aluForm s (.pget g d a) g [] d (boolWord (s.cp.regs.pred a))

end Sys2Proof.Machine
end

