-- ==== Sys2Proof/Machine/Plain.lean ====
section
/-!
DEFINITION. Tag tables and the Plain (19 R393-R403, 14 R288): `tagin` and `tagout`, passes, links and elements.
-/
namespace Sys2Proof.Machine

/-! Tags (R398, R399). -/

/-- The Plain of cluster k. -/
def State.plain (s : State) (k : Nat) : Plain := (s.cluster k).plain

/-- The Plain of cluster k changed by `f`; something happened in it (R47). -/
def State.modPlain (s : State) (k : Nat) (f : Plain → Plain) : State :=
  s.modCluster k fun x => { x with plain := { f x.plain with act := true } }

/-- A space of cluster k. -/
def State.space (s : State) (k n : Nat) : TagSpace := tabGet .reset (s.cluster k).spaces n

/-- A space of cluster k replaced. -/
def State.setSpace (s : State) (k n : Nat) (x : TagSpace) : State :=
  s.modCluster k fun y => { y with spaces := tabSet .reset y.spaces n x }

/-- The group that core c belongs to, as its first core (R395). -/
def State.groupOf (s : State) (c : Nat) : Nat := (s.cpOf c).k.first.toNat

/-- A flit with a TAG (R399). -/
def Flit.withTag (f : Flit) (t : BitVec 8) : Flit := Flit.seal { f with tag := t }

/-- A tag word (R399). -/
def tagWord (tag input space : Nat) : Word := word (tag % 256 + input % 4 * 2 ^ 8 + space % 16 * 2 ^ 12)

/-- The nibble of a tag that a space hands out (R398). -/
def TagSpace.nibble (x : TagSpace) (tag : Nat) : Nat := if x.level then tag % 16 else tag / 16 % 16

/-- The tag of nibble n (R398, R402). -/
def TagSpace.tag (x : TagSpace) (n : Nat) : Nat := if x.level then x.outer.toNat * 16 + n else n * 16

/-- The lowest free nibble of a space (R402). -/
def TagSpace.freeNibble (x : TagSpace) : Option Nat :=
  listFind (fun n => !x.busy.getLsbD n && !(x.level && n == 0)) (rangeFrom 0 16)

/-- The tags in flight. -/
def TagSpace.inFlight (x : TagSpace) : Nat := popCount (x.busy.setWidth 64) 16

/-- The end-of-tile flit of a loop (R402). -/
def loopEnd (tag : BitVec 8) (count : Nat) : Flit := mkFlit 4 tag (tilePay 0 count 0) false true

/-! `tagin` and `tagout` (R401, R402). -/

/-- What a tag operator does: as an operator, and to the Plain. -/
structure TagAct where
  act : OpAct
  also : State → State

/-- Nothing can be done yet. -/
def TagAct.wait : TagAct := { act := .wait, also := fun s => s }

/-- The flits that go to OMASK0. -/
def toMask (p : Nat) (f : Flit) : Option (List Nat × Flit) :=
  if p % 128 = 0 then none else some (maskOuts (p % 128), f)

/-- A space is closed (R402): the `tagout` that cleared BUSY last has the end-of-tile flit to emit. -/
def State.closeSpace (s : State) (k n : Nat) : State :=
  let x := s.space k n
  let s := s.setSpace k n .reset
  match x.last with
  | some (c, key) => s.modGrid c fun g =>
    let st := tabGet OpState.reset g.ops key
    { g with ops := tabSet .reset g.ops key { st with replay := st.replay ++ [loopEnd x.ctag x.count.toNat] } }
  | none => s

/-- The open space that a `tagin` may open: the lowest free one, unless a space of its owner, CTAG and level is open. -/
def State.spaceToOpen (s : State) (k owner : Nat) (tag : BitVec 8) (level : Bool) (o : Nat) : Option Nat :=
  if (rangeFrom 0 16).any fun n => let x := s.space k n
      x.v && x.owner == owner && x.ctag == tag && x.level == level && (!level || x.outer.toNat == o) then none
  else listFind (fun n => !(s.space k n).v) (rangeFrom 0 16)

/-- A record is tagged (R402): the tag word goes out, ahead of the record; `take` says that the record's own tag word is
consumed. -/
def tagRecord (p : Nat) (tag : BitVec 8) (st : OpState) (k n : Nat) (x : TagSpace) (take : Bool) : TagAct :=
  if p / 2 ^ 8 % 16 < x.inFlight then .wait
  else match x.freeNibble with
  | none => .wait
  | some i =>
    { act := .move (if take then [0] else [])
        (toMask p (mkFlit 0 tag (tagWord (x.tag i) (p / 2 ^ 14) n) false false))
        { st with space := some (BitVec.ofNat 4 n), begun := true }
      also := fun s => s.setSpace k n
        { x with busy := x.busy ||| BitVec.ofNat 16 (2 ^ i), order := x.order ++ [BitVec.ofNat 4 i] } }

/-- A flit of a tagged record is forwarded: the record has begun until its last flit. -/
def recordAct (a : OpAct) : OpAct :=
  match a with
  | .move ks emit st => .move ks emit { st with begun := st.taking.isSome }
  | a => a

/-- `tagin` (R402) at core c. -/
def State.tagIn (s : State) (c : Nat) (p : Nat) (tag : BitVec 8) (head : Nat → Option Flit) (st : OpState) : TagAct :=
  let k := c / 12
  let hastw := p / 2 ^ 16 % 2 == 1
  let level := p / 2 ^ 12 % 2 == 1
  let same := fun (s : State) => s
  if st.begun then
    { act := recordAct (match st.taking with
        | some (i, m, x) => opForward head st i m x
        | none => opForward head st 0 (p % 128) false)
      also := same }
  else if st.skipping.isSome then { act := opSkip head st 0, also := same }
  else match head 0 with
  | none => .wait
  | some f =>
    if f.kind = 4 then
      let st' := { st with space := none, skipping := if f.last then none else some 0 }
      match st.space with
      | none => { act := .move [0] (toMask p (loopEnd tag 0)) st', also := same }
      | some n =>
        { act := .move [0] none st'
          also := fun s =>
            let x := s.space k n.toNat
            let s := s.setSpace k n.toNat { x with closing := true }
            if x.busy = 0 then s.closeSpace k n.toNat else s }
    else if f.kind != 0 then { act := .stop causeCfgerr [f], also := same }
    else
      let o := if level then bits f.pay 4 4 else 0
      match st.space with
      | some n =>
        let x := s.space k n.toNat
        if level && x.outer.toNat != o then { act := .stop causeCfgerr [f], also := same }
        else tagRecord p tag st k n.toNat x hastw
      | none =>
        match s.spaceToOpen k (s.groupOf c) tag level o with
        | none => .wait
        | some n => tagRecord p tag st k n
          { TagSpace.reset with
            v := true, ord := p / 2 ^ 13 % 2 == 1, level := level, outer := BitVec.ofNat 4 o
            parent := if level then f.pay.extractLsb' 12 4 else 0
            limm1 := BitVec.ofNat 4 (p / 2 ^ 8), ctag := tag, owner := s.groupOf c } hastw

/-- `tagout` (R402) at core c, with its key among operators. -/
def State.tagOut (s : State) (c key : Nat) (p : Nat) (tag : BitVec 8) (head : Nat → Option Flit) (st : OpState) : TagAct :=
  let k := c / 12
  let same := fun (s : State) => s
  if st.begun then
    match head 0 with
    | none => .wait
    | some f =>
      let n := (st.space.getD 0).toNat
      if f.last then
        { act := .move [0] (toMask p f) { st with begun := false, space := none }
          also := fun s =>
            let x := s.space k n
            let i := x.nibble st.exp.toNat
            let y := { x with busy := x.busy &&& ~~~(BitVec.ofNat 16 (2 ^ i)), count := x.count + 1, last := some (c, key) }
            let s := s.setSpace k n y
            if y.closing && y.busy == 0 then s.closeSpace k n else s }
      else { act := .move [0] (toMask p f) st, also := same }
  else match st.replay with
  | f :: l => { act := .move [] (toMask p f) { st with replay := l }, also := same }
  | [] =>
    match head 0 with
    | none => .wait
    | some f =>
      let n := bits f.pay 12 4
      let x := s.space k n
      if f.kind ≠ 0 ∨ !(x.v && x.owner == s.groupOf c) then { act := .stop causeCfgerr [f], also := same }
      else
        { act := .move [0]
            (if p / 2 ^ 8 % 2 = 1 ∧ x.level then
              toMask p (mkFlit 0 tag (tagWord (x.outer.toNat * 16) (p / 2 ^ 9) x.parent.toNat) false false)
             else none)
            { st with begun := true, space := some (BitVec.ofNat 4 n), exp := (f.pay.setWidth 8).setWidth 16 }
          also := same }

/-! Links and elements (R394-R397, R288). -/

/-- No record of a source waits on its link to a destination input (R394, R396). -/
def Plain.linkFree (x : Plain) (src dst input : Nat) : Bool :=
  !(x.links.any fun f => f.src == src && f.dst == dst && f.input == input)

/-- The records at an input of an element. -/
def Plain.inputAt (x : Plain) (e n : Nat) : List PRec := tabGet [] x.inputs (3 * e + n)

/-- The flits in the outbound queue of a pass (R245): those of the records that wait, and of the one that leaves, whose tag
word is made as it leaves. -/
def Plain.outFlits (x : Plain) (p : Nat) : Nat :=
  ((tabGet [] x.outs p).map fun r => r.flits.length).foldl (· + ·) (tabGet [] x.leaving p).length

/-- A record has entered the outbound queue of a pass in part. -/
def Plain.passBusy (x : Plain) (p : Nat) : Bool := x.links.any fun f => f.dst == 128 + p && f.begun

/-- The youngest record in the outbound queue of a pass is there in part; another that is in part leaves already. -/
def Plain.tailOpen (x : Plain) (p : Nat) : Bool :=
  match (tabGet [] x.outs p).getLast? with
  | some r => !(match r.flits.getLast? with
    | some f => f.last
    | none => false)
  | none => false

/-- The next flit of the record on link i enters the outbound queue of pass p, behind the record's flits that are there or
that leave already. -/
def Plain.passFlit (x : Plain) (i p : Nat) (f : Flight) (y : Flit) : Plain :=
  let q := tabGet [] x.outs p
  let rest := f.body.flits.drop 1
  let links := if rest.isEmpty then x.links.eraseIdx i
    else listSet x.links i { f with begun := true, body := { f.body with flits := rest } }
  if !f.begun then { x with links := links, outs := tabSet [] x.outs p (q ++ [{ f.body with flits := [y] }]) }
  else match q.getLast? with
  | some r =>
    if x.tailOpen p then
      { x with links := links, outs := tabSet [] x.outs p (q.dropLast ++ [{ r with flits := r.flits ++ [y] }]) }
    else { x with links := links, leaving := tabSet [] x.leaving p (tabGet [] x.leaving p ++ [y.withTag 0]) }
  | none => { x with links := links, leaving := tabSet [] x.leaving p (tabGet [] x.leaving p ++ [y.withTag 0]) }

/-- The match key of a record, beside its CTAG (R396). -/
def matchKey (f : Frame) (r : PRec) : Nat := if f.getLsbD 93 then r.tag.toNat else r.tag.toNat / 16

/-- The slot of an element that serves an owner and a tag (R395). -/
def State.plainSlot (s : State) (k e owner : Nat) (tag : BitVec 8) : Option (Nat × Frame) :=
  let y := s.cluster k
  (listFind (fun i => let x := tabGet Slot.reset y.slots (4 * (512 + e) + i)
      x.v && x.ctag == tag && tabGet 0 y.plain.owners (4 * e + i) == owner + 1) (rangeFrom 0 4)).map
    fun i => (i, (tabGet Slot.reset y.slots (4 * (512 + e) + i)).frame)

/-- The Plain of cluster k carries records of an owner (R47): the owner has a slot, a space or a record in it. -/
def State.carries (s : State) (k owner : Nat) : Bool :=
  let x := s.plain k
  let mine := fun (r : PRec) => r.owner == owner
  x.owners.any (fun p => p.2 == owner + 1 && (tabGet Slot.reset (s.cluster k).slots (2048 + p.1)).v)
    || (s.cluster k).spaces.any (fun p => p.2.v && p.2.owner == owner)
    || x.inputs.any (fun p => p.2.any mine) || x.links.any (fun f => mine f.body)
    || x.outs.any fun p => p.2.any mine

/-- The Plain of cluster k accepts no flit (R47, R49): a DEADLOCK verdict has shut it, and a core of the cluster whose records
it carries has not reopened (DEDUCED, log entry 63). -/
def State.plainShut (s : State) (k : Nat) : Bool :=
  (s.plain k).shut && (rangeFrom (12 * k) 12).any fun c =>
    (s.cpOf c).ctl.bound && (s.grid c).closed && s.carries k (s.groupOf c)

/-- The records of an owner stand where they are in the Plain of cluster k: it is shut, or a freeze wave is in progress on the
owner's group (R41, R47). -/
def State.plainHeld (s : State) (k owner : Nat) : Bool := s.plainShut k || s.waved (coreOfOrigin owner)

/-- The element stops for its owner (R397, R288). -/
def State.plainStop (s : State) (k e owner : Nat) : State :=
  s.modPlain k fun x =>
    if x.stopped.contains (1024 * owner + e) then x else { x with stopped := x.stopped ++ [1024 * owner + e] }

/-- DUPTAG (R397): the element stops, with a record of both first flits and the trap of the owner's rank-0 core. -/
def State.plainDuptag (s : State) (k e : Nat) (a b : PRec) : State :=
  let o := plainOrig k e
  let pay := fun (r : PRec) => (r.flits.head?.map fun f => f.pay).getD 0
  let side := fun (r : PRec) => (r.flits.head?.map fun f => f.side).getD 0
  let c := coreOfOrigin a.owner
  ((s.plainStop k e a.owner).post c
    { typ := 0, cause := causeDuptag, orig := o, resume := false, held := true, double := false,
      words := [0, 0, pay a, pay b, word (side a + side b * 2 ^ 24)] }).pendTrap c causeDuptag (word o)

/-- The element stops with a CFGERR record (R267, R288). -/
def State.plainBad (s : State) (k e owner : Nat) : State :=
  let c := coreOfOrigin owner
  let num := s.nextNum c
  let o := plainOrig k e
  ((s.plainStop k e owner).post c
    { typ := 0, cause := causeCfgerr, orig := o, resume := false, held := true, double := false,
      words := [word o] }).pendNode c 0 (withholdVal num o)

/-- PLAIN_DELIVERY (R394, R396, R397): a record arrives at an input, or its next flit at a pass, if no earlier one of its
source and destination waits and there is room (R246). -/
def execPlainDelivery (k : ClusterIx) (i : Nat) (s : State) : Result :=
  let x := s.plain k.val
  match x.links[i]? with
  | none => .next s
  | some f =>
    let first := (x.links.take i).all fun g => !(g.src == f.src && g.dst == f.dst && g.input == f.input)
    if !first || s.plainHeld k.val f.body.owner then .next s
    else
      let links := x.links.eraseIdx i
      if 128 ≤ f.dst then
        let p := f.dst - 128
        let c := 12 * k.val + p
        match f.body.flits with
        | y :: _ =>
          if (s.cpOf c).ctl.bound ∧ s.groupOf c = f.body.owner ∧ (f.begun ∨ !x.passBusy p) ∧ x.outFlits p < 16 then
            .next ((s.modPlain k.val fun x => x.passFlit i p f y).active c)
          else .next s
        | [] => .next (s.modPlain k.val fun x => { x with links := links })
      else
        let q := x.inputAt f.dst f.input
        if 8 ≤ q.length then .next s
        else
          let t := s.modPlain k.val fun x =>
            { x with links := links, inputs := tabSet [] x.inputs (3 * f.dst + f.input) (q ++ [f.body]) }
          match s.plainSlot k.val f.dst f.body.owner f.body.ctag with
          | none => .next t
          | some (_, F) =>
            match listFind (fun r => r.owner == f.body.owner && r.ctag == f.body.ctag && matchKey F r == matchKey F f.body) q with
            | some r => .next (t.plainDuptag k.val f.dst r f.body)
            | none => .next t

/-- The elements of a record: a digit float, or a flit alone. -/
def recordElems : List Flit → List Flit → List (List Flit)
  | [], [] => []
  | [], cur => [cur]
  | f :: l, [] => if f.kind = 1 then recordElems l [f] else [f] :: recordElems l []
  | f :: l, cur => if f.kind = 3 then (cur ++ [f]) :: recordElems l [] else recordElems l (cur ++ [f])

/-- An operand whose flits are all there (R267). -/
def wholeOperand (l : List Flit) : Operand :=
  match l with
  | [] => { Operand.empty with ended := true }
  | f :: t => t.foldl Operand.take (Operand.start f 0)

/-- The flits of a result whose operands are all there (R76, R288). -/
def resultFlits (f : Frame) (own : Nat) (r : Res) (zeroE : Int) (j : PeJob) : Nat → List Flit
  | 0 => []
  | n + 1 =>
    match j.next f own r 0 zeroE with
    | none => []
    | some (x, j', fin) => if fin then [x] else x :: resultFlits f own r zeroE j' n

/-- One element of a firing (R288, R267): the flits it emits and the slot's state, or none where the heads do not fit. -/
def State.plainElem (s : State) (f : Frame) (own : Nat) (tag : BitVec 8) (p : PeSlot) (heads : List (Nat × List Flit)) :
    State × Option (PeSlot × List Flit) :=
  let firsts := heads.filterMap fun h => h.2.head?
  let at' := fun k => ((listFind (fun (h : Nat × List Flit) => h.1 == k) heads).map fun h => h.2).getD []
  let pay := fun k => ((at' k).head?.map fun (x : Flit) => x.pay).getD 0
  if firsts.length ≠ heads.length then (s, none)
  else if firsts.all fun x => x.kind == 4 then
    let z := s.zeroExp
    let tile := (at' 0).take 1
    if peIsAcc f ∧ p.count ≠ 0 then (z.1, some (p.restart, p.flits f own z.2 tag ++ tile)) else (s, some (p, tile))
  else if !firsts.all (peStart f) then (s, none)
  else if peIsWord (fOp f) && fOp f != 0x30 then
    let y := if fCsel f then fConst f else pay 1
    (s, some (p, [mkFlit 0 tag (wordOp f (pay 0) y (pay 2)) (firsts.any fun x => x.poison)
      (((at' 0).head?.map fun x => x.last).getD false)]))
  else
    let ops := (rangeFrom 0 3).map fun k => wholeOperand (at' k)
    let x := listGet Operand.empty ops 0
    if peIsAcc f then
      let q := p.fold f own x.opn
      if x.last || ((fImm f) != 0 && decide ((fImm f).toNat ≤ q.count)) then
        let z := s.zeroExp
        (z.1, some (q.restart, q.flits f own z.2 tag))
      else (s, some (q, []))
    else
      let r := peResult f ops p.rounded
      let z := match r.hdr with
        | some h => if h.e.isNone then s.zeroExp else (s, 0)
        | none => (s, 0)
      let j : PeJob := { slot := 0, ctag := tag, ops := ops, out := [], headed := false, badHdr := false, sent := 0,
                         stop := none, stopAt := 0, no := 0, drained := false }
      (z.1, some (if peRounds f then { p with rounded := p.rounded + 1 } else p, resultFlits f own r z.2 j 80))

/-- The elements of a firing in order. -/
def State.plainElems (s : State) (f : Frame) (own : Nat) (tag : BitVec 8) (p : PeSlot) (heads : List (Nat × List (List Flit))) :
    Nat → State × Option (PeSlot × List Flit)
  | 0 => (s, some (p, []))
  | n + 1 =>
    match s.plainElem f own tag p (heads.map fun h => (h.1, h.2.headD [])) with
    | (s, none) => (s, none)
    | (s, some (p, out)) =>
      match s.plainElems f own tag p (heads.map fun h => (h.1, h.2.tail)) n with
      | (s, none) => (s, none)
      | (s, some (p, out')) => (s, some (p, out ++ out'))

/-- The result of a firing on one record at each used input (R288): `w.cst` fires once for a record. -/
def State.plainResult (s : State) (f : Frame) (own : Nat) (tag : BitVec 8) (p : PeSlot) (rs : List (Nat × PRec)) :
    State × Option (PeSlot × List Flit) :=
  let x := rs.head?.map fun r => r.2.flits
  let heads := rs.map fun r => (r.1, recordElems r.2.flits [])
  let n := (heads.head?.map fun h => h.2.length).getD 0
  let tile := (x.getD []).all fun y => y.kind == 4
  if peIsCst f ∧ !tile then
    if ((x.getD []).head?.map (peStart f)).getD false then
      (s, some ({ p with fired := p.fired + 1 },
        [mkFlit 0 tag (cstWord f p.fired) ((x.getD []).any fun y => y.poison) true]))
    else (s, none)
  else if heads.all fun h => h.2.length == n then s.plainElems f own tag p heads n else (s, none)

/-- The destinations of an element's results, as destination and input (R394). -/
def plainDests (f : Frame) : List (Nat × Nat) :=
  [(fb f 111 104, 0), (fb f 103 96, 1)].filter fun d => d.1 != 0xFF

/-- The slot of an element under which a record at its input 0 would fire, and the records that fire with it (R395, R396):
those with its key, one at each used input. -/
def State.plainMatch (s : State) (k e : Nat) (r : PRec) : Option (Nat × Frame × List (Nat × PRec)) :=
  match s.plainSlot k e r.owner r.ctag with
  | none => none
  | some (i, f) =>
    let mine := fun n => listFind (fun (q : PRec) => q.owner == r.owner && q.ctag == r.ctag && matchKey f q == matchKey f r)
      ((s.plain k).inputAt e n)
    let rs := (peReads f).filterMap fun n => (mine n).map fun q => (n, q)
    if rs.length = (peReads f).length then some (i, f, rs) else none

/-- Two unconsumed records of one input with one key, which met before their frame was there (R397). -/
def State.plainTwins (s : State) (k e owner : Nat) (tag : BitVec 8) (f : Frame) : Option (PRec × PRec) :=
  let x := s.plain k
  ((rangeFrom 0 3).flatMap fun n =>
    let l := (x.inputAt e n).filter fun r => r.owner == owner && r.ctag == tag
    (l.zip (rangeFrom 0 l.length)).filterMap fun (p : PRec × Nat) =>
      (listFind (fun q => matchKey f q == matchKey f p.1) (l.drop (p.2 + 1))).map fun q => (p.1, q)).head?

/-- The records that the flits of a firing form, one after each flit with LAST (R37, R288). -/
def splitLast : List Flit → List Flit → List (List Flit)
  | [], [] => []
  | [], acc => [acc]
  | f :: l, acc => if f.last then (acc ++ [f]) :: splitLast l [] else splitLast l (acc ++ [f])

/-- One slot of an element fires: each record of its result is matched and routed by itself. -/
def State.plainFire (s : State) (k e i owner : Nat) (tag : BitVec 8) (f : Frame) (rs : List (Nat × PRec)) : State :=
  let x := s.plain k
  let p := tabGet PeSlot.reset x.peSlots (4 * e + i)
  match s.plainResult f (plainOrig k e) tag p rs with
  | (_, none) => s.plainBad k e owner
  | (s, some (p, out)) =>
    let t := (rs.head?.map fun r => r.2.tag).getD 0
    let bodies := (splitLast (out.map fun y => y.withTag t) []).map fun l =>
      ({ owner := owner, ctag := tag, tag := t, flits := l } : PRec)
    s.modPlain k fun x =>
      { x with
        inputs := rs.foldl (fun l r => tabSet [] l (3 * e + r.1) ((tabGet [] l (3 * e + r.1)).erase r.2)) x.inputs
        peSlots := tabSet .reset x.peSlots (4 * e + i) p
        links := x.links ++ bodies.flatMap fun body => (plainDests f).map fun d =>
          { src := e, dst := d.1, input := if 128 ≤ d.1 then 0 else d.2, begun := false, body := body } }

/-- An element has stopped firing (R397): what stopped it may belong to any owner. -/
def Plain.elemStopped (x : Plain) (e : Nat) : Bool := x.stopped.any fun n => n % 1024 == e

/-- PLAIN_ELEMENT_FIRE (R288, R396, R397): two records of one key stop the element; else it fires on the key, among those that
can fire, whose record reached input 0 earliest, whatever its context tag. -/
def execPlainElementFire (k : ClusterIx) (e : Fin 128) (s : State) : Result :=
  let y := s.cluster k.val
  let slots := (rangeFrom 0 4).filterMap fun i =>
    let x := tabGet Slot.reset y.slots (4 * (512 + e.val) + i)
    let o := tabGet 0 y.plain.owners (4 * e.val + i)
    if x.v && o != 0 && !s.plainHeld k.val (o - 1) then s.plainTwins k.val e.val (o - 1) x.ctag x.frame else none
  let fires := ((y.plain.inputAt e.val 0).filter fun r => !s.plainHeld k.val r.owner).filterMap fun r =>
    (s.plainMatch k.val e.val r).bind fun (p : Nat × Frame × List (Nat × PRec)) =>
      if (plainDests p.2.1).all fun d => y.plain.linkFree e.val d.1 (if 128 ≤ d.1 then 0 else d.2) then some (r, p) else none
  if y.plain.elemStopped e.val then .next s
  else match slots, fires with
  | (a, b) :: _, _ => .next (s.plainDuptag k.val e.val a b)
  | [], (r, i, f, rs) :: _ => .next (s.plainFire k.val e.val i r.owner r.ctag f rs)
  | [], [] => .next s

/-! Passes (R399, R400). -/

/-- A tag word that a pass accepts (R399). -/
def State.passTagOk (s : State) (c : Nat) (f : Flit) : Bool :=
  let x := s.space (c / 12) (bits f.pay 12 4)
  f.kind == 0 && bits f.pay 10 2 == 0 && bits f.pay 16 48 == 0 && bits f.pay 8 2 != 3
    && x.v && x.owner == s.groupOf c && x.ctag == f.ctag && x.busy.getLsbD (x.nibble (bits f.pay 0 8))

/-- The inbound queue of a pass takes the head of its side (R245). -/
def State.passTake (s : State) (c : Nat) : State :=
  match s.head c (drainKey 0x60) with
  | some f =>
    if f.sideBad || f.kind == 5 || !s.room c passInKey 16 then s
    else (s.popChan c (drainKey 0x60)).pushFrom c passInKey 0 f none
  | none => s

/-- The record that enters the Plain through a pass takes its next flit; whole, it goes on the link (R394, R399). -/
def State.passEnter (s : State) (c : Nat) : State :=
  let k := c / 12
  let x := s.plain k
  match s.head c passInKey with
  | none => s
  | some f =>
    match s.frameFor c 0x60 f.ctag with
    | none => s
    | some F =>
      if s.isWithheld c 0x60 f.ctag || s.plainHeld (c / 12) (s.groupOf c) then s
      else match tabGet none x.entering (c % 12) with
      | none =>
        if !s.passTagOk c f then s.withhold c 0x60 f.ctag
        else if !x.linkFree (128 + c % 12) (fb F 219 212) (bits f.pay 8 2) then s
        else (s.popChan c passInKey).modPlain k fun x =>
          { x with entering := tabSet none x.entering (c % 12) (some (f.pay, f.ctag, [])) }
      | some (w, tag, l) =>
        let t : BitVec 8 := w.setWidth 8
        let l := l ++ [f.withTag t]
        let s := s.popChan c passInKey
        if f.last then s.modPlain k fun x =>
          { x with
            entering := tabSet none x.entering (c % 12) none
            links := x.links ++ [{ src := 128 + c % 12, dst := fb F 219 212, input := bits w 8 2, begun := false,
                                   body := { owner := s.groupOf c, ctag := tag, tag := t, flits := l } }] }
        else s.modPlain k fun x => { x with entering := tabSet none x.entering (c % 12) (some (w, tag, l)) }

/-- PASS_INBOUND (R399): a flit moves from the side into the inbound queue, and one from the queue towards the Plain. -/
def execPassInbound (c : CoreIx) (s : State) : Result := .next ((s.passEnter c.val).passTake c.val)

/-- The space of a record that leaves (R400). -/
def State.spaceOf (s : State) (k : Nat) (r : PRec) : Option (Nat × TagSpace) :=
  let o := r.tag.toNat / 16
  (listFind (fun n => let x := s.space k n
      x.v && x.owner == r.owner && x.ctag == r.ctag
        && (if r.tag.toNat % 16 = 0 then !x.level else x.level && x.outer.toNat == o)) (rangeFrom 0 16)).map
    fun n => (n, s.space k n)

/-- The record may leave through the pass (R400). -/
def State.mayLeave (s : State) (k : Nat) (r : PRec) : Bool :=
  match s.spaceOf k r with
  | none => false
  | some (_, x) => !x.ord || x.order.head? == some (BitVec.ofNat 4 (x.nibble r.tag.toNat))

/-- The next record leaves the outbound queue, once the flits of the one before it are there (R399, R400): its tag word goes
first, and its own flits carry TAG 0. One whose pass slot is still to be filled keeps its place (R364). -/
def State.passChoose (s : State) (c : Nat) : State :=
  let k := c / 12
  let q := tabGet [] (s.plain k).outs (c % 12)
  if (s.plain k).passBusy (c % 12) && !(s.plain k).tailOpen (c % 12) then s
  else match listFind (fun r => s.mayLeave k r) q with
  | none => s
  | some r =>
    match s.spaceOf k r, s.slotFor c 0x60 r.ctag with
    | none, _ | _, none => s
    | some (n, x), some _ =>
      let i := BitVec.ofNat 4 (x.nibble r.tag.toNat)
      (s.setSpace k n { x with order := x.order.erase i }).modPlain k fun x =>
        { x with
          outs := tabSet [] x.outs (c % 12) (q.erase r)
          leaving := tabSet [] x.leaving (c % 12)
            (mkFlit 0 r.ctag (tagWord r.tag.toNat 0 n) false false :: r.flits.map fun f => f.withTag 0) }

/-- The stream buffer that a pass pushes into (R123, R308): the first that takes its tag from the pass. Without one, what
leaves the pass goes to its side (DEDUCED, log entry 91). -/
def State.passBuffer (s : State) (c : Nat) (tag : BitVec 8) : Option (Nat × Nat × Frame) :=
  ((rangeFrom 0 16).filterMap fun n => match s.sbAt c n tag with
    | some (i, f) => if sbPsrc f = 0x12 then some (n, i, f) else none
    | none => none).head?

/-- A flit of the record that leaves goes where the pass sends it, if there is room; else it waits there. -/
def State.passSend (s : State) (c : Nat) (F : Frame) (f : Flit) : Except State State :=
  match s.passBuffer c f.ctag with
  | some (n, i, b) =>
    if sbRaw b then .error s
    else if s.sbRoom c n i b byPass 16 then .ok (s.sbPutFlit c n i b byPass f)
    else .error (s.sbAsk c n i byPass)
  | none => if s.sideRoom c (fb F 223 220) then .ok (s.sidePush c (fb F 223 220) f) else .error s

/-- PASS_OUTBOUND (R399, R400): a flit of the record that leaves enters the grid at the pass's side, or a stream buffer. -/
def execPassOutbound (c : CoreIx) (s : State) : Result :=
  let s := if (tabGet [] (s.plain (c.val / 12)).leaving (c.val % 12)).isEmpty then s.passChoose c.val else s
  match tabGet [] (s.plain (c.val / 12)).leaving (c.val % 12) with
  | [] => .next s
  | f :: l =>
    match s.frameFor c.val 0x60 f.ctag with
    | none => .next s
    | some F =>
      match s.passSend c.val F f with
      | .ok t => .next (t.modPlain (c.val / 12) fun x => { x with leaving := tabSet [] x.leaving (c.val % 12) l })
      | .error t => .next t

end Sys2Proof.Machine
end

