-- ==== Sys2Proof/Machine/Forward.lean ====
section
/-!
DEFINITION. What a router moves in a cycle (13 R248-R251): its plain routes, its operators and the configuration records
that it takes (18 R375) are granted together, up to four of its five inputs.
-/
namespace Sys2Proof.Machine

/-- What the operator in slot i of a router does next (R116, R255). -/
def State.opDoes (s : State) (c rt i : Nat) : OpAct :=
  let x := s.slotAt c (0x10 + rt) i
  let p := (rtParam x.frame).toNat
  let h := s.opHead c rt x.frame x.ctag
  let st := s.opState c rt i
  if !x.v || st.stopped then .wait
  else match fOp x.frame with
  | 1 => opSteer p h st
  | 2 => opCarry p h st
  | 3 => opInvar p h st
  | 4 => opMerge p h st
  | 5 => opJoin p x.ctag h st
  | 6 => opOrder p x.frame h st
  | 7 => opArb p x.frame h st
  | 8 => (s.tagIn c p x.ctag h st).act
  | 9 => (s.tagOut c (4 * (0x10 + rt) + i) p x.ctag h st).act
  | _ => .wait

/-- An operator of the router would take the head of input k in this cycle. -/
def State.opTakes (s : State) (c rt k : Nat) : Bool :=
  (rangeFrom 0 4).any fun i =>
    let x := s.slotAt c (0x10 + rt) i
    match s.opDoes c rt i with
    | .move ks emit _ => ks.any (fun j => rtOpi x.frame j == k + 1) && s.opRoom c rt x.frame x.ctag ks emit
    | _ => false

/-- The router would take the head of input k into a configuration record that names it or its PE (R375). -/
def State.cfgTakes (s : State) (c rt k : Nat) : Bool :=
  let kk := inputKey rt k
  match s.head c kk with
  | none => false
  | some f =>
    f.kind == 5 && !f.sideBad
      && (!(tabGet [] (s.grid c).collect kk).isEmpty || (tabGet 0 (s.grid c).mids kk == 0 && cfgMine rt f))

/-- Input k has a flit at its head whose destinations all have room, or had one that has left in this cycle (R248). -/
def State.inputReady (s : State) (c rt k : Nat) : Bool :=
  (s.chan c (inputKey rt k)).lastOut == s.cyc + 1 || (s.movable c rt k).isSome || s.opTakes c rt k || s.cfgTakes c rt k

/-- Input k may move in this cycle (R248): at most four do, and when all five are ready the last one in the order of the grant
waits. -/
def State.mayMove (s : State) (c rt k : Nat) : Bool :=
  decide (s.routerMoves c rt < 4)
    && !(k == (s.router c rt).start s.cyc && (rangeFrom 0 5).all (s.inputReady c rt))

/-- One input's turn in a plain forwarding. -/
def State.forwardInput (c rt : Nat) (s : State) (k : Nat) : State :=
  if !s.mayMove c rt k then s
  else match s.movable c rt k with
  | some (f, outs) => (s.forward c rt (inputKey rt k) f outs).grantTo c rt k
  | none => s

/-- ROUTER_FORWARD (R248, R249): the inputs that a plain route takes move their head flits in a cycle, in round-robin order
after the last input granted. -/
def execRouterForward (c : CoreIx) (rt : Fin 16) (s : State) : Result :=
  let order := (rangeFrom ((s.router c.val rt.val).start s.cyc + 1) 5).map fun k => k % 5
  .next (order.foldl (State.forwardInput c.val rt.val) s)

/-! Operators. -/

/-- The firing may happen now: every destination takes its flits, and the router may move every input that it consumes (R248,
R249, R251). -/
def State.opReady (s : State) (c rt : Nat) (f : Frame) (tag : BitVec 8) (ks : List Nat)
    (emit : Option (List Nat × Flit)) : Bool :=
  decide (s.routerMoves c rt + (distinctCodes f ks).length ≤ 4) && (distinctCodes f ks).all (fun n => s.mayMove c rt (n - 1))
    && s.opRoom c rt f tag ks emit

/-- One firing of operator `op` at a router: the first slot that holds it and can fire (R255). -/
def opEvent (op : Nat) (act : Frame → BitVec 8 → (Nat → Option Flit) → OpState → OpAct) (c : CoreIx) (rt : Fin 16)
    (s : State) : Result :=
  let slots := (rangeFrom 0 4).filter fun i =>
    let x := s.slotAt c.val (0x10 + rt.val) i
    x.v && fOp x.frame == op && !(s.opState c.val rt.val i).stopped
  let ready := slots.filterMap fun i =>
    let x := s.slotAt c.val (0x10 + rt.val) i
    match act x.frame x.ctag (s.opHead c.val rt.val x.frame x.ctag) (s.opState c.val rt.val i) with
    | .wait => none
    | .stop cause first => some (i, x, OpAct.stop cause first)
    | .move ks emit st =>
      if s.opReady c.val rt.val x.frame x.ctag ks emit then some (i, x, OpAct.move ks emit st) else none
  match ready with
  | (i, x, .move ks emit st) :: _ =>
    .next ((s.opMove c.val rt.val x.frame ks emit).setOpState c.val rt.val i st)
  | (i, x, .stop cause first) :: _ => .next (s.opStop c.val rt.val i x.ctag cause first)
  | _ => .next s

/-- STEER (R259). -/
def execSteer (c : CoreIx) (rt : Fin 16) (s : State) : Result :=
  opEvent 1 (fun f _ h st => opSteer (rtParam f).toNat h st) c rt s

/-- CARRY (R259). -/
def execCarry (c : CoreIx) (rt : Fin 16) (s : State) : Result :=
  opEvent 2 (fun f _ h st => opCarry (rtParam f).toNat h st) c rt s

/-- INVAR (R259). -/
def execInvar (c : CoreIx) (rt : Fin 16) (s : State) : Result :=
  opEvent 3 (fun f _ h st => opInvar (rtParam f).toNat h st) c rt s

/-- MERGE (R259). -/
def execMerge (c : CoreIx) (rt : Fin 16) (s : State) : Result :=
  opEvent 4 (fun f _ h st => opMerge (rtParam f).toNat h st) c rt s

/-- JOIN (R260). -/
def execJoin (c : CoreIx) (rt : Fin 16) (s : State) : Result :=
  opEvent 5 (fun f t h st => opJoin (rtParam f).toNat t h st) c rt s

/-- ORDER (R261). -/
def execOrder (c : CoreIx) (rt : Fin 16) (s : State) : Result :=
  opEvent 6 (fun f _ h st => opOrder (rtParam f).toNat f h st) c rt s

/-- ARB (R262). -/
def execArb (c : CoreIx) (rt : Fin 16) (s : State) : Result :=
  opEvent 7 (fun f _ h st => opArb (rtParam f).toNat f h st) c rt s

/-- One firing of a tag operator at a router: the first slot that holds it and can fire (R255). -/
def tagEvent (op : Nat) (act : State → Nat → Frame → BitVec 8 → (Nat → Option Flit) → OpState → TagAct) (c : CoreIx)
    (rt : Fin 16) (s : State) : Result :=
  let slots := (rangeFrom 0 4).filter fun i =>
    let x := s.slotAt c.val (0x10 + rt.val) i
    x.v && fOp x.frame == op && !(s.opState c.val rt.val i).stopped
  let one := fun i =>
    let x := s.slotAt c.val (0x10 + rt.val) i
    act s (4 * (0x10 + rt.val) + i) x.frame x.ctag (s.opHead c.val rt.val x.frame x.ctag) (s.opState c.val rt.val i)
  let ready := fun i =>
    let x := s.slotAt c.val (0x10 + rt.val) i
    match (one i).act with
    | .wait => false
    | .stop _ _ => true
    | .move ks emit _ => s.opReady c.val rt.val x.frame x.ctag ks emit
  match listFind ready slots with
  | none => .next s
  | some i =>
    let x := s.slotAt c.val (0x10 + rt.val) i
    let a := one i
    match a.act with
    | .move ks emit st =>
      .next (a.also ((s.opMove c.val rt.val x.frame ks emit).setOpState c.val rt.val i st))
    | .stop cause first => .next (s.opStop c.val rt.val i x.ctag cause first)
    | .wait => .next s

/-- TAGIN (R402). -/
def execTagin (c : CoreIx) (rt : Fin 16) (s : State) : Result :=
  tagEvent 8 (fun s _ f t h st => s.tagIn c.val (rtParam f).toNat t h st) c rt s

/-- TAGOUT (R402). -/
def execTagout (c : CoreIx) (rt : Fin 16) (s : State) : Result :=
  tagEvent 9 (fun s key f t h st => s.tagOut c.val key (rtParam f).toNat t h st) c rt s

/-! Configuration records. -/

/-- The input of a router that a channel is, as 0 to 4. -/
def inputOf (kk : Nat) : Nat := if kk < 64 then kk % 4 else 4

/-- CONFIG_RECORD (R375): a configuration record at a router that it names, at a PE or at an edge endpoint. -/
def execConfigRecord (c : CoreIx) (node : NodeId) (s : State) : Result :=
  let k := nodeKey node
  let head := fun kk => match s.head c.val kk with
    | some f => if f.kind == 5 && !f.sideBad then some f else none
    | none => none
  let mine := fun (f : Frame) =>
    if keyKind k = 1 then fKey f == k && fKind f == 1 || (fKind f == 0 && fNode f + 0x10 == k) else fKey f == k && fKind f == keyKind k
  let full := listFind (fun kk => (tabGet [] (s.grid c.val).collect kk).length == 4
    && !((s.grid c.val).installs.any fun x => x.via == kk + 1)) (nodeInputs k)
  match full with
  | some kk => .next (s.recordDone c.val k kk mine)
  | none =>
    let takes := fun kk => match head kk with
      | none => false
      | some f =>
        if keyKind k = 1 then s.cfgTakes c.val (k - 0x10) (inputOf kk) && s.mayMove c.val (k - 0x10) (inputOf kk)
        else kk != passInKey
          && !(keyKind k == 0 && kk == operandKey k 2 && s.tokensFrom c.val k f.ctag)
    match listFind takes (nodeInputs k) with
    | none => .next s
    | some kk =>
      match head kk with
      | none => .next s
      | some f =>
        if keyKind k = 0 then .next (s.popChan c.val kk)
        else if keyKind k = 1 then .next ((s.collectFlit c.val kk f).grantTo c.val (k - 0x10) (inputOf kk))
        else .next (s.collectFlit c.val kk f)

end Sys2Proof.Machine
end

