-- ==== Sys2Proof/Machine/Pairs.lean ====
section
/-!
DEFINITION. The pair engine (20 R405-R417).
-/
namespace Sys2Proof.Machine

/-- The pair engine of cluster k. -/
def State.pair (s : State) (k : Nat) : Pair := (s.cluster k).pair

/-- The pair engine of cluster k replaced. -/
def State.setPair (s : State) (k : Nat) (x : Pair) : State := s.modCluster k fun y => { y with pair := x }

/-- The origin id of the engine of cluster k (R405). -/
def pairOrig (k : Nat) : Nat := originId (12 * k) 0x70

/-! The box (R406, R407). -/

/-- A box record. -/
abbrev Box := BitVec 1024

/-- Word n of a box record. -/
def boxWord (b : Box) (n : Nat) : Word := b.extractLsb' (64 * n) 64
/-- Positions are in fp64. -/
def boxWide (b : Box) : Bool := (boxWord b 0).getLsbD 0
/-- PER of axis a. -/
def boxPer (b : Box) (a : Nat) : Bool := (boxWord b 0).getLsbD (1 + a)
/-- A binary64 field as a value. -/
def boxDy (b : Box) (n : Nat) : Dy := patDy .fp64 (boxWord b n).toNat
/-- LO of axis a. -/
def boxLo (b : Box) (a : Nat) : Dy := boxDy b (1 + a)
/-- L of axis a. -/
def boxLen (b : Box) (a : Nat) : Dy := boxDy b (4 + a)
/-- RC. -/
def boxRc (b : Box) : Dy := boxDy b 7
/-- RS. -/
def boxRs (b : Box) : Dy := boxDy b 8
/-- PBASE. -/
def boxPbase (b : Box) : Word := boxWord b 9
/-- PSTRIDE. -/
def boxStride (b : Box) : Word := boxWord b 10
/-- NPART. -/
def boxNpart (b : Box) : Nat := (boxWord b 11).toNat
/-- GBASE. -/
def boxGbase (b : Box) : Word := boxWord b 12
/-- REFBASE. -/
def boxRef (b : Box) : Word := boxWord b 13
/-- The bytes of a coordinate. -/
def boxSize (b : Box) : Nat := if boxWide b then 8 else 4

/-- floor(x / y) for y positive. -/
def dyFloorDiv (x y : Dy) : Int := let e := min x.e y.e; Int.fdiv (x.at e) (y.at e)

/-- n_a (R407). -/
def boxCells (b : Box) (a : Nat) : Nat := min 64 (dyFloorDiv (boxLen b a) ((boxRc b).add (boxRs b))).toNat

/-- The number of cells. -/
def boxTotal (b : Box) : Nat := boxCells b 0 * boxCells b 1 * boxCells b 2

/-- The conditions of BADREC (R406, R407). -/
def boxRecOk (b : Box) : Bool :=
  bits (boxWord b 0) 4 60 == 0 && boxWord b 14 == 0 && boxWord b 15 == 0
    && (boxStride b).toNat % boxSize b == 0 && decide (3 * boxSize b ≤ (boxStride b).toNat)
    && decide (1 ≤ boxNpart b ∧ boxNpart b < 2 ^ 24)
    && (boxGbase b).toNat % 128 == 0 && (boxRef b).toNat % 8 == 0

/-- The conditions of BADBOX (R407). -/
def boxOk (b : Box) : Bool :=
  (rangeFrom 1 8).all (fun n => !patBad .fp64 (boxWord b n).toNat)
    && (rangeFrom 0 3).all (fun a => (Dy.zero).lt (boxLen b a))
    && (Dy.zero).lt (boxRc b) && (boxRc b).lt ⟨1, 63⟩ && !(boxRs b).isNeg
    && (rangeFrom 0 3).all fun a => decide (1 ≤ boxCells b a) && (!boxPer b a || decide (3 ≤ boxCells b a))

/-! Result words (R415, R416). -/

/-- A result word. -/
def pairWord (status code next count : Nat) : Word :=
  word (status * 2 ^ 62 + code % 64 * 2 ^ 56 + next % 2 ^ 19 * 2 ^ 32 + count % 2 ^ 32)

/-- A refusal. -/
def pairRefused (code : Nat) : Word := pairWord 1 code 0 0

/-- An operation runs. -/
def Pair.running (x : Pair) : Bool := x.op.isSome

/-- The group of core c owns the engine. -/
def State.pairMine (s : State) (c : Nat) : Bool :=
  (s.pair (c / 12)).phase != .free && (s.pair (c / 12)).owner == (s.cpOf c).k.first.toNat

/-- `pair.box` (R406, R407). -/
def execPairBox (g : Guard) (d : Reg) (a : Src) (s : State) : Result :=
  cmdForm s (.pairBox g d a) g false [a] <|
    let c := s.focus.val
    withRecord s (.pairBox g d a) (s.cp.val a).toNat 128 128 fun t v =>
      let b : Box := BitVec.ofNat 1024 v
      let x := t.pair (c / 12)
      if x.phase ≠ .free ∧ !t.pairMine c then t.reply [a] d (pairRefused 0x14)
      else if x.running then t.reply [a] d (pairRefused 0x01)
      else if !boxRecOk b then t.reply [a] d (pairRefused 0x05)
      else if !boxOk b then t.reply [a] d (pairRefused 0x10)
      else
        (t.setPair (c / 12)
          { x with phase := .owned, owner := t.cp.k.first.toNat, box := b, excess := [] }).reply [a] d
          (pairWord 0 0 0 ((boxCells b 2 - 1) * 2 ^ 12 + (boxCells b 1 - 1) * 2 ^ 6 + (boxCells b 0 - 1)))

/-- An operation that begins. -/
def State.pairOp (s : State) (d : Reg) : PairOp :=
  { core := s.focus.val, dest := d, ctag := s.cp.k.ctag, sys := s.cp.k.sys, covered := s.covered s.focus.val, ahead := [], cell := [],
    puts := [], asked := 0, cleared := 0, index := 0, point := none, stored := false, last := 0, sb := 0, dig := false, cells := [], members := [], todo := [],
    points := [], cur := [], tests := none, emitted := 0, stale := false, tested := false, ending := none }

/-- `pair.bin` (R409). -/
def execPairBin (g : Guard) (d : Reg) (s : State) : Result :=
  cmdForm s (.pairBin g d) g false [] <|
    let c := s.focus.val
    let x := s.pair (c / 12)
    if !s.pairMine c then s.reply [] d (pairRefused 0x14)
    else if x.running then s.reply [] d (pairRefused 0x01)
    else .next ((s.setPair (c / 12)
      { x with phase := .binning, excess := [], outside := 0, op := some (s.pairOp d) }).posted [] d true)

/-- The cells that a home cell's tests read (R410): itself, and the neighbours that exist, in order. -/
def homeCells (b : Box) (h : Nat) : List Nat :=
  let nx := boxCells b 0
  let ny := boxCells b 1
  let at' : List Int := [(h % nx : Nat), (h / nx % ny : Nat), (h / nx / ny : Nat)]
  let offs : List (List Int) :=
    [[0, 0, 0], [1, 0, 0], [-1, 1, 0], [0, 1, 0], [1, 1, 0], [-1, -1, 1], [0, -1, 1], [1, -1, 1], [-1, 0, 1], [0, 0, 1],
     [1, 0, 1], [-1, 1, 1], [0, 1, 1], [1, 1, 1]]
  offs.filterMap fun o =>
    let v := (rangeFrom 0 3).map fun a =>
      let n : Int := boxCells b a
      let x := listGet 0 at' a + listGet 0 o a
      if boxPer b a then some (x % n) else if x < 0 ∨ n ≤ x then none else some x
    match v with
    | [some x, some y, some z] => some (x.toNat + nx * (y.toNat + ny * z.toNat))
    | _ => none

/-- `pair.scan` (R410, R412). -/
def execPairScan (g : Guard) (d : Reg) (a b : Src) (sb : Fin 16) (dig : Bool) (s : State) : Result :=
  cmdForm s (.pairScan g d a b sb dig) g false [a, b] <|
    let c := s.focus.val
    let x := s.pair (c / 12)
    let first := (s.cp.val a).toNat
    let cnt := (s.cp.val b).toNat
    let total := boxTotal x.box
    if !s.pairMine c then s.reply [a, b] d (pairRefused 0x14)
    else if x.running then s.reply [a, b] d (pairRefused 0x01)
    else if x.phase ≠ .valid then s.reply [a, b] d (pairRefused 0x11)
    else if total ≤ first ∨ total < first + cnt then s.reply [a, b] d (pairRefused 0x12)
    else match s.sbAt c sb.val s.cp.k.ctag with
    | none => s.reply [a, b] d (pairRefused 0x13)
    | some (_, f) =>
      if sbPsrc f ≠ 0x11 then s.reply [a, b] d (pairRefused 0x13)
      else .next ((s.setPair (c / 12)
        { x with
          phase := .scanning
          op := some { s.pairOp d with
            index := first, last := if cnt = 0 then total else first + cnt, sb := sb.val, dig := dig,
            cells := homeCells x.box first } }).posted [a, b] d true)

/-- `pair.stat` (R416). -/
def execPairStat (g : Guard) (d : Reg) (s : State) : Result :=
  cmdForm s (.pairStat g d) g false [] <|
    let c := s.focus.val
    let x := s.pair (c / 12)
    let st := match x.phase with
      | .free => 0
      | .owned => 1
      | .binning => 2
      | .valid => 3
      | .invalid => 4
      | .scanning => 5
    s.reply [] d (word (st * 2 ^ 61 + (boolWord (s.pairMine c)).toNat * 2 ^ 60 + x.excess.length * 2 ^ 47
      + x.next % 2 ^ 19 * 2 ^ 28 + x.outside % 2 ^ 24))

/-- The engine becomes FREE (R405, R414): OUTSIDE stays, and NEXT, which a scan that is stopped sets. -/
def Pair.freed (x : Pair) : Pair :=
  { Pair.reset with
    outside := x.outside
    next := match x.phase, x.op with
      | .scanning, some o => o.index
      | _, _ => x.next }

/-- `pair.clr` (R414): a bin is abandoned at once, a scan stops at a record boundary. -/
def execPairClr (g : Guard) (d : Reg) (s : State) : Result :=
  cmdForm s (.pairClr g d) g false [] <|
    let c := s.focus.val
    let x := s.pair (c / 12)
    if !s.pairMine c then s.reply [] d (pairRefused 0x14)
    else match x.op with
    | none => (s.setPair (c / 12) x.freed).reply [] d 0
    | some o =>
      if x.phase = .binning then
        ((s.setPair (c / 12) x.freed).deliver o.core o.dest (pairWord 2 0x23 0 o.index)).reply [] d 0
      else .next ((s.setPair (c / 12) { x with clear := x.clear ++ [(c, d)], held := false }).posted [] d true)

/-! Accesses of the engine (R405, R417). -/

/-- The operation is withheld by a fault at element `n` (R221, R417, R452). -/
def State.pairHold (s : State) (k : Nat) (o : PairOp) (n : Nat) (f : Fail) : State :=
  let num := s.nextNum o.core
  let x := s.pair k
  (s.setPair k { x with held := true, nums := x.nums ++ [num] }).post o.core
    { typ := 0, cause := f.cause, orig := pairOrig k, resume := true, held := true, double := false,
      words := [f.val, word n] }

/-- The operation in progress replaced. -/
def State.setPairOp (s : State) (k : Nat) (o : PairOp) : State := s.setPair k { s.pair k with op := some o }

/-- Accesses of the operation are issued for element `n`, and it goes on by `f` (R384, R405). A fault waits for its turn: until
`turn` holds, nothing happens (R221). A grid write to any region but a Basin faults (R408). -/
def State.pairIssue (s : State) (k : Nat) (o : PairOp) (n : Nat) (turn grid : Bool) (as : List UAcc) (f : List UAcc → PairOp) :
    State :=
  match s.issue o.core none o.sys as with
  | .wait => s
  | .fault t e => if turn then t.pairHold k o n e else s
  | .ok t as _ =>
    match listFind (fun (g : Seg) => grid && regionOf (paKind g.pa) != .basin) (as.flatMap fun a => a.segs) with
    | some g => if turn then t.pairHold k o n ⟨causeBound, word g.pa⟩ else s
    | none => t.setPairOp k (f as)

/-- What has been issued for element `n`; `k` is the particle or cell that it concerns. -/
def flownOf (n k : Nat) (as : List UAcc) : Flown := { pos := n, n := k, known := none, bit := 0, accs := as, issued := true }

/-- The operation ends (R415): its result is written, and the engine takes a state. -/
def State.pairEnd (s : State) (k : Nat) (o : PairOp) (p : PairPhase) (v : Word) : State :=
  (s.setPair k { s.pair k with phase := p, op := none, held := false }).deliver o.core o.dest v

/-- What was recalled of the operation is issued again (R221). -/
def State.pairAgain (s : State) (k : Nat) (o : PairOp) : Option State :=
  match againOf o.ahead, againOf o.cell, againOf o.puts with
  | some f, _, _ =>
    some (s.pairIssue k o f.pos (issuedDone o.ahead) false f.accs fun as => { o with ahead := reissued o.ahead f as })
  | none, some f, _ =>
    some (s.pairIssue k o f.pos (issuedDone o.cell) false f.accs fun as => { o with cell := reissued o.cell f as })
  | none, none, some f =>
    some (s.pairIssue k o f.pos (issuedDone o.puts) false f.accs fun as => { o with puts := reissued o.puts f as })
  | none, none, none => none

/-- An access of the operation of cluster k's engine is performed (R198, R208). The read of a cell comes after the writes to it
that the operation has made before. -/
def State.pairPerform (s : State) (k : Nat) (o : PairOp) (id j : Nat) : State :=
  let orig := pairOrig k
  let w3 := word o.index
  if hasAccess o.ahead id then
    match s.flownPerform o.core orig w3 o.ahead id j with
    | some (t, l) => t.setPairOp k { o with ahead := l }
    | none => s
  else if hasAccess o.cell id then
    match flownRequest o.cell id j with
    | none => s
    | some (_, g) =>
      if (flownAccs o.puts).any fun b => b.segs.any fun h => !h.done && segsMeet [h] [g] then s
      else match s.flownPerform o.core orig w3 o.cell id j with
      | some (t, l) => t.setPairOp k { o with cell := l }
      | none => s
  else match s.flownPerform o.core orig w3 o.puts id j with
    | some (t, l) => t.setPairOp k { o with puts := leaveWrites l }
    | none => s

/-! Binning (R409). -/

/-- A coordinate as it is read, converted exactly to binary64 (R409). -/
def readCoord (a : UAcc) : Coord :=
  match a.bad with
  | some o => .lost o
  | none =>
    let v := leNat a.got
    if a.n = 8 then .val v
    else if patBad .fp32 v then .val FFmt.fp64.nanBits
    else .val (rnBits .fp64 (patDy .fp32 v) (patNeg .fp32 v))

/-- The reads of a point. -/
def pointReads (va : Word) (size : Nat) : List UAcc := [0, size, 2 * size].map fun o => readAcc (va + word o) size

/-- A point whose coordinates are all finite. -/
def Point.finite (p : Point) : Bool := p.all fun x => match x with
  | .val v => !patBad .fp64 v
  | .lost _ => false

/-- The bits of a coordinate. -/
def Coord.bits (x : Coord) : Nat := match x with
  | .val v => v
  | .lost _ => 0

/-- The memory that could not deliver a coordinate. -/
def Coord.orig (x : Coord) : Option Nat := match x with
  | .val _ => none
  | .lost o => some o

/-- Coordinate a of a finite point. -/
def Point.dy (p : Point) (a : Nat) : Dy := patDy .fp64 (listGet (.val 0) p a).bits

/-- The cell of a coordinate, and whether it lies outside (R409). -/
def coordCell (b : Box) (a : Nat) (p : Dy) : Nat × Bool :=
  let n := boxCells b a
  let v := dyFloorDiv ((p.sub (boxLo b a)).mul (.ofInt n)) (boxLen b a)
  if boxPer b a then ((v % (n : Int)).toNat, false)
  else if v < 0 then (0, true)
  else if (n : Int) ≤ v then (n - 1, true)
  else (v.toNat, false)

/-- The cell of a point, and whether the particle is outside. -/
def pointCell (b : Box) (p : Point) : Nat × Bool :=
  let l := (rangeFrom 0 3).map fun a => coordCell b a (p.dy a)
  let c := fun n => (listGet (0, false) l n).1
  (c 0 + boxCells b 0 * (c 1 + boxCells b 1 * c 2), l.any fun x => x.2)

/-- The address of a cell (R408). -/
def cellAddr (b : Box) (c : Nat) : Word := boxGbase b + word (128 * c)

/-- The slots of a cell from its read: their values, or the memory that lost them (R202). -/
def slotsOf (as : List UAcc) : List (Nat × Option Nat) :=
  as.flatMap fun a => ((words32 a.got 32).zip (rangeFrom 0 32)).map fun (p : Nat × Nat) =>
    (p.1, if a.lost.contains (4 * p.2) then a.bad else none)

/-- One step of a bin (R409): a cell is cleared, the particle in hand has its reference written, its cell read or its slot taken,
and the positions of the next ones are read. A slot that memory could not deliver counts as taken, and a coordinate that it
could not deliver is no number (DESIGN CHOICE, log entry 47). -/
def State.binStep (s : State) (k : Nat) (x : Pair) (o : PairOp) : State :=
  let b := x.box
  let stop := fun (y : Pair) (code : Nat) =>
    s.setPair k { y with op := some { o with ending := some (pairWord 2 code 0 o.index), ahead := [], cell := [] } }
  let ask := fun (_ : Unit) =>
    if o.asked < boxNpart b ∧ o.ahead.length < 32 then
      s.pairIssue k o o.asked (o.asked == o.index && o.point.isNone && o.puts.isEmpty) false
        (pointReads (boxPbase b + word o.asked * boxStride b) (boxSize b))
        fun as => { o with asked := o.asked + 1, ahead := o.ahead ++ [flownOf o.asked o.asked as] }
    else s
  match o.ending with
  | some v => if o.puts.isEmpty then s.pairEnd k o (if bits v 62 2 = 2 then .invalid else .valid) v else s
  | none =>
  if o.cleared < boxTotal b then
    s.pairIssue k o o.index o.puts.isEmpty true
      [Put.acc { va := cellAddr b o.cleared, bit := 0, w := 1024, v := 2 ^ 1024 - 1 }]
      fun as => { o with cleared := o.cleared + 1, puts := o.puts ++ [flownOf o.index o.cleared as] }
  else if o.index = boxNpart b then s.setPairOp k { o with ending := some (pairWord 0 0 0 o.index) }
  else match o.point with
  | none =>
    match o.ahead with
    | f :: l =>
      if !f.done then ask ()
      else
        let p : Point := f.accs.map readCoord
        if p.finite then s.setPairOp k { o with point := some p, stored := false, ahead := l } else stop x 0x22
    | [] => ask ()
  | some p =>
    let c := pointCell b p
    if !o.stored then
      s.pairIssue k o o.index o.puts.isEmpty false
        [Put.acc { va := boxRef b + word (24 * o.index), bit := 0, w := 192, v := leNat (p.flatMap fun v => leBytes v.bits 8) }]
        fun as => { o with stored := true, puts := o.puts ++ [flownOf o.index o.index as] }
    else match o.cell with
    | [] =>
      s.pairIssue k o o.index o.puts.isEmpty false [readAcc (cellAddr b c.1) 128]
        fun as => { o with cell := [flownOf o.index c.1 as] }
    | f :: _ =>
      if !f.done then ask ()
      else
        let slots := slotsOf f.accs
        let next := { o with index := o.index + 1, point := none, stored := false, cell := [] }
        let outside := x.outside + (if c.2 then 1 else 0)
        match listFind (fun n => listGet (0, none) slots n == (0xFFFFFFFF, none)) (rangeFrom 0 32) with
        | some n =>
          let t := s.pairIssue k o o.index o.puts.isEmpty true
            [Put.acc { va := cellAddr b c.1 + word (4 * n), bit := 0, w := 32, v := o.index }]
            fun as => { next with puts := o.puts ++ [flownOf o.index c.1 as] }
          if (t.pair k).op = some o ∨ (t.pair k).held then t else t.setPair k { t.pair k with outside := outside }
        | none =>
          if x.excess.length < 4096 then
            s.setPair k { x with op := some next, excess := x.excess ++ [(o.index, c.1)], outside := outside }
          else stop { x with outside := outside } 0x20

/-! Scanning (R410-R413). -/

/-- The difference of two coordinates, by the nearest image on a periodic axis (R411). -/
def imageDiff (b : Box) (a : Nat) (p q : Dy) : Dy :=
  let d := q.sub p
  let l := boxLen b a
  if boxPer b a then d.sub (l.mul (.ofInt (dyFloorDiv (d.add d |>.add l) (l.add l)))) else d

/-- The three differences from p to q. -/
def pointDiffs (b : Box) (p q : Point) : List Dy := (rangeFrom 0 3).map fun a => imageDiff b a (p.dy a) (q.dy a)

/-- The square of a difference's length. -/
def squareSum (l : List Dy) : Dy := l.foldl (fun v d => v.add (d.mul d)) .zero

/-- The position has moved by more than RS / 2 from the reference (R413). -/
def isStale (b : Box) (p ref : Point) : Bool :=
  ((boxRs b).mul (boxRs b)).lt ((squareSum (pointDiffs b ref p)).mul (.ofInt 4))

/-- A particle read for the home cell is stale; where a coordinate is no finite number no rule says so, and the answer is
free. -/
def State.staleOne (s : State) (b : Box) (p ref : Point) : State × Bool :=
  if p.finite && ref.finite then (s, isStale b p ref)
  else ({ s with free := s.free + 1 }, Config.pairTest s.free)

/-- One of the particles is stale. -/
def State.staleAny (s : State) (b : Box) : List (Nat × Point × Point) → State × Bool
  | [] => (s, false)
  | x :: l =>
    let r := s.staleOne b x.2.1 x.2.2
    let q := r.1.staleAny b l
    (q.1, r.2 || q.2)

/-- A value of a record (R411): its fp32 pattern, or the memory that lost a coordinate it comes from (R202). -/
abbrev PairVal := Nat × Option Nat

/-- A word flit of a record: poisoned where a value in it is (R59, R202). -/
def pairFlit (o : PairOp) (v : Word) (lost last : Bool) : Flit := mkFlit 0 o.ctag (if lost then 0 else v) lost last

/-- The number of a particle, and whether it is lost. -/
def Member.num (m : Member) : Nat × Option Nat := match m with
  | .part k => (k, none)
  | .lost o _ => (0, some o)

/-- The flits of digit values, each poisoned with its own ORIG. -/
def State.pairDigits (s : State) (k : Nat) (o : PairOp) : List PairVal → State × List Flit
  | [] => (s, [])
  | v :: l =>
    let p := s.valFlits (v.2.getD (pairOrig k)) 7 3 false o.ctag l.isEmpty
      [if v.2.isSome then .bad else readFmt 0x01 v.1 7]
    let q := p.1.pairDigits k o l
    (q.1, p.2 ++ q.2)

/-- The flits of a record (R412) from dx, dy, dz and r2. A value that comes from data which memory could not deliver is poisoned,
with the memory as ORIG where its flit has one (R202, R59). -/
def State.pairRecord (s : State) (k : Nat) (o : PairOp) (i j : Member) (v : List PairVal) : State × List Flit :=
  let n := fun (a : Nat) => listGet (0, none) v a
  let first := pairFlit o (word (i.num.1 + j.num.1 * 2 ^ 32)) (i.num.2.isSome || j.num.2.isSome) false
  let two := fun (a b : Nat) (last : Bool) =>
    pairFlit o (word ((n a).1 + (n b).1 * 2 ^ 32)) ((n a).2.isSome || (n b).2.isSome) last
  if o.dig then
    let r := s.pairDigits k o v
    (r.1, first :: r.2)
  else (s, [first, two 0 1 false, two 2 3 true])

/-- The position of a member: that of its particle, or three lost coordinates. -/
def PairOp.pointOf (o : PairOp) (m : Member) : Point := match m with
  | .part k => match listFind (fun (x : Nat × Point × Point) => x.1 == k) o.points with
    | some x => x.2.1
    | none => []
  | .lost g _ => List.replicate 3 (.lost g)

/-- The ORIG of a value that comes from two coordinates. -/
def lostOf (p q : Point) (a : Nat) : Option Nat :=
  match (listGet (.val 0) p a).orig, (listGet (.val 0) q a).orig with
  | some o, _ => some o
  | none, o => o

/-- One test (R411): the record of a pair that is emitted. Of two finite positions the test decides; else the outcome is free,
and so is a value that comes from a coordinate which is no finite number (DESIGN CHOICE, log entry 47). -/
def State.pairTestOne (s : State) (k : Nat) (b : Box) (o : PairOp) (i j : Member) : State × Option (List Flit) :=
  let p := o.pointOf i
  let q := o.pointOf j
  if p.finite && q.finite then
    let ds := pointDiffs b p q
    let r := squareSum ds
    if r.lt ((boxRc b).mul (boxRc b)) then
      let x := s.pairRecord k o i j ((ds ++ [r]).map fun d => (rnBits .fp32 d d.isNeg, none))
      (x.1, some x.2)
    else (s, none)
  else
    let t : State := { s with free := s.free + 1 }
    if Config.pairTest s.free then
      let lost := (rangeFrom 0 3).map (lostOf p q)
      let any := lost.foldl (fun (r : Option Nat) o => match r with
        | some g => some g
        | none => o) none
      let v := (lost.zip (rangeFrom 0 3)).map fun (x : Option Nat × Nat) => ((Config.pairPattern s.free x.2).toNat, x.1)
      let x := t.pairRecord k o i j (v ++ [((Config.pairPattern s.free 3).toNat, any)])
      (x.1, some x.2)
    else (t, none)

/-- The pairs that a home cell tests, in order (R410). -/
def homePairs (ms : List (List Member)) : List (Member × Member) :=
  match ms with
  | [] => []
  | h :: l =>
    ((h.zip (rangeFrom 0 h.length)).flatMap fun (p : Member × Nat) => (h.drop (p.2 + 1)).map fun j => (p.1, j))
      ++ l.flatMap fun t => h.flatMap fun i => t.map fun j => (i, j)

/-- The tests of a list are made up to the first that emits its pair: the tests that are left, and the record. -/
def State.pairTests (s : State) (k : Nat) (b : Box) (o : PairOp) :
    List (Member × Member) → State × List (Member × Member) × Option (List Flit)
  | [] => (s, [], none)
  | p :: l =>
    let r := s.pairTestOne k b o p.1 p.2
    match r.2 with
    | some x => (r.1, l, some x)
    | none => r.1.pairTests k b o l

/-- The members of a cell (R409): the occupied slots, a lost one counting as occupied, and then the overflow entries. -/
def cellMembers (slots : List (Nat × Option Nat)) (excess : List (Nat × Nat)) (c : Nat) : List Member :=
  ((slots.zip (rangeFrom 0 slots.length)).filterMap fun (p : (Nat × Option Nat) × Nat) => match p.1 with
    | (_, some g) => some (.lost g (32 * c + p.2))
    | (v, none) => if v = 0xFFFFFFFF then none else some (.part v))
  ++ (excess.filter fun p => p.2 == c).map fun p => .part p.1

/-- The particles among the members, each once, in the order of the first. -/
def particles (l : List Member) : List Nat :=
  l.foldl (fun r m => match m with
    | .part n => if r.contains n then r else r ++ [n]
    | .lost _ _ => r) []

/-- One step of the scan of a home cell (R410, R413): the reads of its cells and then of its particles with their references are
issued, what comes back is taken in order, and at last it is judged whether one is stale. -/
def State.scanStep (s : State) (k : Nat) (x : Pair) (o : PairOp) : State :=
  let b := x.box
  match o.cell, o.cells, o.ahead, o.todo with
  | f :: l, cs, _, _ =>
    if f.done then
      let ms := o.members ++ [cellMembers (slotsOf f.accs) x.excess f.n]
      s.setPairOp k
        { o with cell := l, members := ms, todo := if l.isEmpty && cs.isEmpty then particles ms.flatten else [] }
    else match cs with
    | c :: cs =>
      s.pairIssue k o o.index false false [readAcc (cellAddr b c) 128]
        fun as => { o with cells := cs, cell := o.cell ++ [flownOf o.index c as] }
    | [] => s
  | [], c :: cs, _, _ =>
    s.pairIssue k o o.index true false [readAcc (cellAddr b c) 128]
      fun as => { o with cells := cs, cell := [flownOf o.index c as] }
  | [], [], f :: l, todo =>
    let reads := fun (n : Nat) =>
      pointReads (boxPbase b + word n * boxStride b) (boxSize b) ++ pointReads (boxRef b + word (24 * n)) 8
    if f.done then
      let p : Point := f.accs.map readCoord
      s.setPairOp k { o with ahead := l, points := o.points ++ [(f.n, p.take 3, p.drop 3)] }
    else match todo with
    | n :: ns =>
      s.pairIssue k o o.index false false (reads n)
        fun as => { o with todo := ns, ahead := o.ahead ++ [flownOf o.index n as] }
    | [] => s
  | [], [], [], n :: ns =>
    s.pairIssue k o o.index true false
      (pointReads (boxPbase b + word n * boxStride b) (boxSize b) ++ pointReads (boxRef b + word (24 * n)) 8)
      fun as => { o with todo := ns, ahead := [flownOf o.index n as] }
  | [], [], [], [] =>
    let r := s.staleAny b o.points
    r.1.setPairOp k
      { o with tests := some (o.tests.getD (homePairs o.members)), stale := o.stale || r.2, tested := true }

/-- The scan stops here (R412-R414): only its end-of-tile flit is left. -/
def State.scanEnds (s : State) (k : Nat) (o : PairOp) (v : Word) : State :=
  s.setPairOp k
    { o with
      ending := some v, tests := none, cells := [], todo := [], ahead := [], cell := []
      cur := [mkFlit 4 o.ctag (tilePay 0 o.emitted 0) false true] }

/-- The step of a scan between records (R410, R413, R414): the next record, the next home cell, or the end. -/
def State.scanNext (s : State) (k : Nat) (x : Pair) (o : PairOp) : State :=
  if !x.clear.isEmpty then s.scanEnds k o (pairWord 2 0x23 o.index o.emitted)
  else match o.tests with
  | some (p :: l) =>
    let q := s.pairTests k x.box o (p :: l)
    q.1.setPairOp k
      { o with
        cur := q.2.2.getD [], tests := some q.2.1, emitted := o.emitted + (if q.2.2.isSome then 1 else 0) }
  | _ =>
    if o.stale then s.scanEnds k o (pairWord 2 0x21 (o.index + 1) o.emitted)
    else if o.index + 1 = o.last then s.scanEnds k o (pairWord 0 0 o.last o.emitted)
    else s.setPairOp k
      { o with
        index := o.index + 1, tested := false, cells := homeCells x.box (o.index + 1), members := [], todo := [],
        points := [], tests := none }

/-- The end of tile is in the buffer: the scan ends (R413, R414). -/
def State.scanDone (s : State) (k : Nat) (x : Pair) (o : PairOp) (v : Word) : State :=
  let next := bits v 32 19
  match x.clear with
  | p :: l =>
    (p :: l).foldl (fun (s : State) q => s.deliver q.1 q.2 0)
      ((s.setPair k { x.freed with next := next }).deliver o.core o.dest v)
  | [] =>
    (s.setPair k { x with next := next }).pairEnd k o (if bits v 62 2 = 2 then .invalid else .valid) v

/-- PAIR_HOME_CELL (R409, R413): one step of the engine that moves no flit. -/
def execPairHomeCell (k : ClusterIx) (s : State) : Result :=
  let x := s.pair k.val
  match x.op with
  | none => .next s
  | some o =>
    if x.held ∨ s.waved o.core ∨ !(s.cpOf o.core).drained o.covered then .next s
    else match s.pairAgain k.val o with
    | some t => .next t
    | none =>
    if x.phase = .binning then .next (s.binStep k.val x o)
    else if !o.cur.isEmpty then .next s
    else match o.ending with
    | some v => .next (s.scanDone k.val x o v)
    | none => if o.tested ∨ !x.clear.isEmpty then .next (s.scanNext k.val x o) else .next (s.scanStep k.val x o)

/-- PAIR_RECORD_PUSH (R412): the next flit of a record enters the scan's buffer. -/
def execPairRecordPush (k : ClusterIx) (s : State) : Result :=
  let x := s.pair k.val
  match x.op with
  | none => .next s
  | some o =>
    match o.cur, s.sbAt o.core o.sb o.ctag with
    | f :: l, some (i, F) =>
      if !sbRaw F && s.sbRoom o.core o.sb i F byPairs 16 then
        .next ((s.sbPutFlit o.core o.sb i F byPairs f).setPairOp k.val { o with cur := l })
      else .next (if sbRaw F then s else s.sbAsk o.core o.sb i byPairs)
    | _, _ => .next s

/-- The engine operation that a record's number names, of a cluster of die d (R390), and whether it is withheld. -/
def State.pairByNum (s : State) (d num : Nat) : Option (Nat × Bool) :=
  (listFind (fun k => (s.pair (8 * d + k)).nums.contains num) (rangeFrom 0 8)).map fun k =>
    (8 * d + k, (s.pair (8 * d + k)).held && (s.pair (8 * d + k)).nums.getLast? == some num)

end Sys2Proof.Machine
end

