-- ==== Sys2Proof/Machine/Quiet.lean ====
section
/-!
DEFINITION. Quiescence (02 R47-R49, 21 R444-R447): groups, verdicts, deadlock records, and the forms and events that read
detectors and counters; `wait` (08 R148).
-/
namespace Sys2Proof.Machine

/-! Groups. -/

/-- The cores of a group in rank order (R33, R34): from its first core. -/
def coresFrom (first shape : Nat) : List Nat := rangeFrom first (shapeCores shape)

/-- The cores of the group that core c belongs to. -/
def State.groupCores (s : State) (c : Nat) : List Nat :=
  coresFrom (coreOfOrigin (s.groupOf c)) (s.cpOf c).k.shape.toNat

/-- The clusters that a list of cores touches. -/
def clustersOf (cs : List Nat) : List Nat :=
  (cs.map fun c => c / 12).foldl (fun l k => if l.contains k then l else l ++ [k]) []

/-- The Plains that carry the records of the group of core c. -/
def State.groupPlains (s : State) (c : Nat) : List Nat :=
  (clustersOf (s.groupCores c)).filter fun k => s.carries k (s.groupOf c)

/-- The core is quiet (R47). -/
def State.coreQuiet (s : State) (c : Nat) : Bool := decide (1024 ≤ (s.cpOf c).k.qcount.toNat)

/-- Every Plain that carries the group's records is quiet (R47). -/
def State.plainsQuiet (s : State) (c : Nat) : Bool :=
  (s.groupPlains c).all fun k => decide (1024 ≤ (s.plain k).qcount.toNat)

/-- Every root controller of every valid slot of the core is done (R38, R47). -/
def State.rootsDone (s : State) (c : Nat) : Bool :=
  (rangeFrom 0 8).all fun n => (rangeFrom 0 4).all fun i =>
    let x := s.slotAt c (0x20 + n) i
    !(x.v && fParent x.frame == 15 && (s.ctl c n i).running)

/-! Deadlock records (R452). -/

/-- The keys of a local node. -/
def keysOfNode (n : Nat) : List Nat := if 0x28 ≤ n ∧ n < 0x2C then rangeFrom (256 + 4 * (n - 0x28)) 4 else [n]

/-- A node holds flits at its inputs, or tokens of a tag of one of its slots. -/
def State.nodeBusy (s : State) (c n : Nat) : Bool :=
  (keysOfNode n).any fun k =>
    (nodeInputs k).any (fun m => !(s.chan c m).flits.isEmpty)
      || (rangeFrom 0 4).any fun i => (s.slotAt c k i).v && s.resident c k (s.slotAt c k i).ctag

/-- The PE that feeds output `o` of a router under a tag, through the routes of R120. -/
def State.feeder (s : State) (c : Nat) (tag : BitVec 8) : Nat → Nat → Nat → Option Nat
  | 0, _, _ => none
  | fuel + 1, rt, o =>
    match s.frameFor c (0x10 + rt) tag with
    | none => none
    | some f =>
      let code := rtRoute f o
      if code = 5 then some rt
      else if 1 ≤ code ∧ code ≤ 4 then
        match faceBeyond rt (code - 1) with
        | .inr (r, d) => s.feeder c tag fuel r d
        | .inl _ => none
      else none

/-- The PEs that a PE waits for: those that feed an operand channel which is empty. -/
def State.awaited (s : State) (c pe : Nat) : List Nat :=
  (rangeFrom 0 4).flatMap fun i =>
    let x := s.slotAt c pe i
    if x.v then
      (rangeFrom 0 3).filterMap fun n =>
        if (s.chan c (operandKey pe n)).flits.isEmpty then s.feeder c x.ctag 64 pe (4 + n) else none
    else []

/-- The blocked nodes (R452): those that hold something, and PEs that a blocked PE waits for. -/
def State.blocked (s : State) (c : Nat) : Nat → List Nat
  | 0 => (rangeFrom 0 128).filter fun n => s.nodeBusy c n
  | n + 1 =>
    let l := s.blocked c n
    (l.filter fun p => p < 16).foldl (fun l p =>
      (s.awaited c p).foldl (fun l q => if l.contains q then l else l ++ [q]) l) l

/-- Sixteen occupancies as nibbles that saturate (R452). -/
def nibbles (f : Nat → Nat) : Word := word ((rangeFrom 0 16).foldl (fun v p => v + min 15 (f p) * 16 ^ p) 0)

/-- Words 2 to 7 of the deadlock record of a core (R452); the verdict cycle is the one that has just ended. -/
def State.deadlockWords (s : State) (c : Nat) : List Word :=
  let l := s.blocked c 16
  let len := fun k => (s.chan c k).flits.length
  let map := fun (lo : Nat) => word ((l.filter fun n => lo ≤ n ∧ n < lo + 64).foldl (fun v n => v + 2 ^ (n - lo)) 0)
  [s.kcyc - 1, 0, map 0, map 64,
    nibbles fun p => len (operandKey p 0) + len (operandKey p 1) + len (operandKey p 2),
    nibbles fun r => len (faceKey r 0) + len (faceKey r 1) + len (faceKey r 2) + len (faceKey r 3) + len (resultKey r)]

/-! Verdicts (R47-R49). -/

/-- A verdict stands at core c (R47). -/
def State.giveVerdict (s : State) (c : Nat) (v : BitVec 2) : State :=
  (s.modCpOf c fun x =>
    { x with k := { x.k with verdict := v }, ctl := { x.ctl with told := x.ctl.standing.isSome } }).count c 15 1

/-- The Plains that carry a group's records accept no flit from the verdict on (R47). -/
def State.shutPlains (s : State) (c : Nat) : State :=
  (s.groupPlains c).foldl (fun (s : State) k =>
    s.modCluster k fun x => { x with plain := { x.plain with shut := true } }) s

/-- The DEADLOCK verdict at core c (R47): its grid closes, its record is posted, and where a root controller is not done a
trap follows. -/
def State.giveDeadlock (s : State) (c : Nat) : State :=
  let num := word (s.nextNum c)
  let due := if s.rootsDone c then none else some num
  ((s.post c { typ := 2, cause := causeDeadlock, orig := originId c 0, resume := false, held := false, double := false,
               words := s.deadlockWords c }).giveVerdict c 2).modGrid c fun g =>
    { g with closed := true, verdictAt := s.cyc - 1, doom := due }

/-- The verdict of a group forms now (R47-R49): every core and Plain is quiet, and a core whose grid is open has none. -/
def State.verdictDue (s : State) (c : Nat) : Bool :=
  let g := s.groupCores c
  (s.cpOf c).ctl.bound && !s.waved c && g.all s.coreQuiet && s.plainsQuiet c
    && g.any fun n => !(s.grid n).closed && (s.cpOf n).k.verdict == 0

/-- QUIESCENCE_VERDICT (R47): the verdict of the group of core c. A core whose grid is closed forms no new one (R49). -/
def execQuiescenceVerdict (c : CoreIx) (s : State) : Result :=
  let g := (s.groupCores c.val).filter fun n => !(s.grid n).closed
  if !s.verdictDue c.val then .next s
  else if (s.groupCores c.val).all s.rootsDone then .next (g.foldl (fun s n => s.giveVerdict n 1) s)
  else .next ((g.foldl (fun s n => s.giveDeadlock n) s).shutPlains c.val)

/-- DEADLOCK_TRAP (R47): four cycles after the verdict the trap is made pending. -/
def execDeadlockTrap (c : CoreIx) (s : State) : Result :=
  match (s.grid c.val).doom with
  | some num =>
    if (s.grid c.val).verdictAt + 4 ≤ s.cyc && !s.waved c.val then
      .next ((s.modGrid c.val fun g => { g with doom := none }).pendTrap c.val causeDeadlock num)
    else .next s
  | none => .next s

/-! `wait` (R148). -/

/-- Some stream buffer or firing queue of the core holds an entry in this cycle (R148). -/
def State.anyEntry (s : State) (c : Nat) : Bool :=
  (s.units c).sbufs.any (fun p => p.2.fill != 0) || (s.units c).fqs.any (fun p => !p.2.isEmpty)
    || (s.cpOf c).ctl.entered == s.cyc + 1

/-- The events of R148 that hold. -/
def State.waitEvents (s : State) (c : Nat) : BitVec 4 :=
  let x := s.cpOf c
  BitVec.ofNat 4 ((boolWord (x.k.verdict != 0)).toNat + 2 * (boolWord x.ctl.latch1).toNat
    + 4 * (boolWord (s.anyEntry c)).toNat + 8 * (boolWord x.ctl.latch3).toNat)

/-- `wait` (R148): it ends when an enabled event holds, and clears the enabled latch bits. -/
def execWait (g : Guard) (s : State) : Result :=
  let en := s.cp.k.evt
  runForm s (.wait g) g false []
    (if en = 0 then .next (s.complete [] id)
     else if en &&& s.waitEvents s.focus.val = 0 then s.stand (.wait g)
     else .next (s.complete [] fun x =>
      { x with
        ctl := { x.ctl with
          latch1 := x.ctl.latch1 && !en.getLsbD 1
          latch3 := x.ctl.latch3 && !en.getLsbD 3 } }))

/-- WAIT_END (R148): a standing `wait` ends when an enabled event holds. -/
def execWaitEnd (c : CoreIx) (s : State) : Result :=
  match s.standingAt c with
  | some (.wait g) =>
    if (s.cpOf c.val).k.evt &&& s.waitEvents c.val = 0 then .next s else s.atCore c (execWait g)
  | _ => .next s

/-! `qui.poll` and `qui.rep` (R447). -/

/-- The poll word (R447). -/
def State.pollWord (s : State) (c : Nat) : Word :=
  let k := (s.cpOf c).k
  word ((boolWord (s.plainsQuiet c)).toNat * 2 ^ 21 + (boolWord ((s.groupCores c).all s.coreQuiet)).toNat * 2 ^ 20
    + k.verdict.toNat * 2 ^ 16 + k.qcount.toNat)

/-- `qui.poll` (R447): with WAIT it stands until there is a verdict. -/
def execQuiPoll (g : Guard) (d : Reg) (wait : Bool) (s : State) : Result :=
  cmdForm s (.quiPoll g d wait) g false [] <|
    if wait && s.cp.k.verdict == 0 then s.stand (.quiPoll g d wait)
    else s.reply [] d (s.pollWord s.focus.val)

/-- QUI_POLL_WAIT_END (R447): a waiting `qui.poll` returns when a verdict forms. -/
def execQuiPollWaitEnd (c : CoreIx) (s : State) : Result :=
  match s.standingAt c with
  | some (.quiPoll g d wait) =>
    if (s.cpOf c.val).k.verdict = 0 then .next s else s.atCore c (execQuiPoll g d wait)
  | _ => .next s

/-- The counter that `qui.rep` selects (R447). -/
def State.counterWord (s : State) (c : Nat) (sel : Nat) (a : Word) : Word :=
  let g := s.grid c
  match sel with
  | 0 => (tabGet 0 g.pcs (bits a 0 4)).setWidth 64
  | 1 => (tabGet 0 g.dc (64 * bits a 6 2 + bits a 0 6)).setWidth 64
  | 2 => word ((boolWord g.lastp).toNat * 2 ^ 32 + g.rot.toNat)
  | _ => (s.die (c / 96)).cecnt.setWidth 64

/-- `qui.rep` (R447). -/
def execQuiRep (g : Guard) (d : Reg) (a : Src) (sel : BitVec 2) (s : State) : Result :=
  cmdForm s (.quiRep g d a sel) g false [a] <|
    s.reply [a] d (s.counterWord s.focus.val sel.toNat (s.cp.val a))

end Sys2Proof.Machine
end

