-- ==== Sys2Proof/Machine/Templates.lean ====
section
/-!
DEFINITION. Copy templates (15 R313-R320): arming, firing, copies and compressing copies; and the step of an inbound stream
or copy.
-/
namespace Sys2Proof.Machine

/-! Status and commands. -/

/-- The template status word (R317). -/
def Tpl.word (t : Tpl) : Word :=
  let st := match t.phase with
    | .disarmed => 0
    | .armed => 1
    | .copying => 2
    | .withheld => 3
  Machine.word (st * 2 ^ 61 + (boolWord t.ovf).toNat * 2 ^ 60 + (boolWord t.x.pois).toNat * 2 ^ 59
    + (boolWord t.dpend).toNat * 2 ^ 58 + t.fired.toNat * 2 ^ 32 + t.x.elem.toNat)

/-- The template armed with a record (R313, R316): its bases and its count start anew. -/
def Tpl.armWith (t : Tpl) (a : Arm) : Tpl :=
  { t with
    phase := .armed, arm := a, saddr := armWord a.record 8, daddr := armWord a.record 9, fired := 0, pending := none,
    dpend := false }

/-- `tpl.arm` (R313-R316). -/
def execTplArm (g : Guard) (d : Reg) (tm : Fin 16) (a : Src) (s : State) : Result :=
  cmdForm s (.tplArm g d tm a) g false [a] <|
    let c := s.focus.val
    withRecord s (.tplArm g d tm a) (s.cp.val a).toNat 128 128 fun s v =>
      let r : Arming := BitVec.ofNat 1024 v
      if armRefusal r ≠ 0 then s.reply [a] d (refused (armRefusal r))
      else
        let arm : Arm :=
          { record := r, ctag := s.cp.k.ctag, level := if shDegrade (armShape r) then s.pkg.deg else 0,
            sys := s.cp.k.sys }
        let t := { s.tpl c tm.val with known := some arm.ctag }
        let t := if t.phase.busy then { t with pending := some arm, dpend := false } else t.armWith arm
        ((s.setTpl c tm.val t).postWork c).reply [a] d t.word

/-- `tpl.disarm` (R315, R316). -/
def execTplDisarm (g : Guard) (d : Reg) (tm : Fin 16) (s : State) : Result :=
  cmdForm s (.tplDisarm g d tm) g false [] <|
    let c := s.focus.val
    let t := s.tpl c tm.val
    let t := if t.phase.busy then { t with dpend := true, pending := none } else { t with phase := .disarmed }
    ((s.setTpl c tm.val t).postWork c).reply [] d t.word

/-- `tpl.fire` (R315, R503): it stands until the template has its frame and its firing queue room. A fill that failed
before it issued is tried again. -/
def execTplFire (g : Guard) (d : Reg) (tm : Fin 16) (a : Src) (s : State) : Result :=
  let form := Instr.tplFire g d tm a
  cmdForm s form g false [a] <|
    let c := s.focus.val
    let tag := (s.tpl c tm.val).known.getD s.cp.k.ctag
    match s.frameFor c (0x50 + tm.val) tag with
    | none =>
      if s.cp.ctl.standing.isSome then s.stand form
      else (s.modGrid c fun x => { x with withheld := x.withheld.filter fun p => p != (0x50 + tm.val, tag) }).stand form
    | some f =>
      let n := fb f 223 220
      if !s.fqRoom c n then s.stand form
      else ((s.fqPut c n (s.cp.val a) (s.covered c)).postWork c).reply [a] d (s.tpl c tm.val).word

/-- `tpl.stat` (R317). -/
def execTplStat (g : Guard) (d : Reg) (tm : Fin 16) (s : State) : Result :=
  cmdForm s (.tplStat g d tm) g false [] (s.reply [] d (s.tpl s.focus.val tm.val).word)

/-! Withholds. -/

/-- The stream id of a template's copy. -/
def Tpl.sid (t : Tpl) (n : Nat) : Nat := (Config.templateSid (t.place.getD 0 / 4) n).toNat

/-- The generator that a copy occupies. -/
def Tpl.ag (t : Tpl) : Nat := t.place.getD 0 / 4

/-- The withhold of a copy by a fault on an access at element `k` (R221, R316, R320, R452). -/
def State.tplFault (s : State) (c n k : Nat) (f : Fail) : State :=
  let t := s.tpl c n
  ((s.setTpl c n { t with phase := .withheld }).post c
    { typ := 0, cause := f.cause, orig := originId c (0x30 + t.ag), resume := true, held := true, double := false,
      words := [f.val, word (t.sid n * 2 ^ 48 + k)] }).active c

/-- TEMPLATE_FIRING (R316): an armed template pops an entry and occupies a slot of its generator. -/
def execTemplateFiring (c : CoreIx) (tm : Fin 16) (s : State) : Result :=
  let t := s.tpl c.val tm.val
  if t.phase ≠ .armed ∨ s.waved c.val then .next s
  else match s.frameFor c.val (0x50 + tm.val) t.arm.ctag with
  | none => .next s
  | some f =>
    let ag := fb f 219 217
    let free := listFind (fun i => !(s.stream c.val ag i).phase.busy && (s.copyIn c.val ag i).isNone) (rangeFrom 0 4)
    match s.fq c.val (fb f 223 220), free with
    | _ :: _, some i =>
      let t := { t with
        phase := .copying, x := .reset, place := some (4 * ag + i), took := 0, stage := 0, kept := 0, ends := [], rows := 0 }
      .next (((s.fqDrop c.val (fb f 223 220)).setTpl c.val tm.val t).count c.val 8 1)
    | _, _ => .next s

/-! Elements of a copy (R313, R314, R318). -/

/-- The copy moves raw bits (R314). -/
def Tpl.isRaw (t : Tpl) : Bool :=
  let r := t.arm.record
  armKind r == 0 && armFmt r == shFmt (armShape r)

/-- A digit float as an element; `orig` is the ORIG of a poisoned one. -/
def DVal.elem (d : DVal) (orig : Nat) : Elem :=
  if d.poison then { num := 0, exp := 0, zs := none, poison := some orig }
  else if d.z then { num := 0, exp := 0, zs := some d.zs, poison := none }
  else
    let v := digitsDy d.e d.ds
    { num := v.m, exp := v.e, zs := none, poison := none }

/-- The exact elements of a stored one (R57-R59): a pair stands for the sum of its words (R71), and a sum of zero has the sign
of the first word where that is a zero, else + (DEDUCED, log entry 80). -/
def rawElems (c pcnt : Nat) (e : RawElem) (orig : Nat) : List Elem :=
  match e.poison with
  | some o => List.replicate (if c = fmtPb then 32 else 1) { num := 0, exp := 0, zs := none, poison := some o }
  | none =>
    match (elemDigits c pcnt (fmtNeed c pcnt) e.scale e.raw).map fun d => d.elem orig with
    | [a, b] =>
      if a.poison.isSome || b.poison.isSome then [{ num := 0, exp := 0, zs := none, poison := some orig }]
      else
        let v := a.dy.add b.dy
        [{ num := v.m, exp := v.e, zs := if v.isZero then some (a.zs.getD false) else none, poison := none }]
    | l => l

/-- The elements that a copy gathers before it writes: 32 for a block of pb that it converts to, else those of one stored
element. -/
def Tpl.gathers (t : Tpl) : Nat :=
  let r := t.arm.record
  if t.isRaw then 1 else if armFmt r = fmtPb then 32 else if shFmt (armShape r) = fmtPb then 32 else 1

/-- The stored elements that the gathered ones come from. -/
def Tpl.sources (t : Tpl) : Nat :=
  if !t.isRaw && armFmt t.arm.record == fmtPb && shFmt (armShape t.arm.record) != fmtPb then t.x.block.length else 1

/-- The rounding mode of a copy at an index (R314). -/
def Tpl.mode (t : Tpl) (n idx : Nat) : RMode :=
  rmodeOf (armRm t.arm.record) (rsrBits (armWord t.arm.record 13) (t.sid n) idx)

/-- The write of element `k` at a dense array from a base. -/
def densePut (c pcnt : Nat) (base : Word) (k v : Nat) : Put :=
  let a := elemAddr c pcnt base k
  { va := a.1, bit := a.2, w := elemBits c pcnt, v := v }

/-- The writes of what a DKIND 0 copy has gathered (R313, R314). The RSR index of value k of a plane-block at position i is
32 i + k, its position in the dense destination (DEDUCED, log entry 93). -/
def Tpl.puts (t : Tpl) (n : Nat) : List Put :=
  let r := t.arm.record
  let c := armFmt r
  let pcnt := shPcnt (armShape r)
  let first := t.took - t.sources
  if t.isRaw then [densePut c pcnt t.daddr first (listGet (constElem 0 0) t.x.block 0).num.toNat]
  else if c = fmtPb then
    let planes := pcnt + 1
    let l := t.x.block ++ List.replicate (32 - t.x.block.length) (constElem 0 0)
    let v := pbPat (fun k => t.mode n (first + k)) (shPax (armShape r)) planes (max 1 (planes - t.arm.level.toNat)) l
    [densePut c pcnt t.daddr (first / 32) v.1]
  else
    let base := first * t.gathers
    (t.x.block.zip (rangeFrom base t.x.block.length)).map fun (p : Elem × Nat) =>
      densePut c pcnt t.daddr p.2 (elemPat c (t.mode n p.2) (armSat r) p.1).1

/-- The writes of one value of a compressing copy (R318, R319), which is kept unless it is zero, and written while the
arrays have room. The values of a plane-block are 32 columns of their row (DESIGN CHOICE, log entry 95: R318 names the
columns of a source of single values). -/
def Tpl.compressPuts (t : Tpl) (n : Nat) (e : Elem) : List Put :=
  let r := t.arm.record
  let c := armFmt r
  let src := armShape r
  let wide := shFmt src == fmtPb
  let p := t.took - 1
  let k := 32 - t.x.block.length
  if (e.num = 0 ∧ e.poison.isNone) ∨ t.cap.toNat ≤ t.kept then []
  else
    [densePut c 0 t.vals t.kept (elemPat c (t.mode n (if wide then 32 * p + k else p)) (armSat r) e).1,
     densePut 0x12 0 t.cols t.kept (if wide then 32 * shIter src p 0 + k else shIter src p 0)]

/-- What a copy has gathered is written; for a compressing copy one value, and the counters follow. A fault waits until what
was issued before is performed (R221). -/
def State.copyWrite (s : State) (c n : Nat) : State :=
  let t := s.tpl c n
  let r := armShape t.arm.record
  let e := listGet (constElem 0 0) t.x.block 0
  let squeeze := armKind t.arm.record == 2
  let rest := if squeeze then t.x.block.drop 1 else []
  let pos := t.took - t.sources
  match s.issueWrite c { t.x with xl := none } t.arm.sys pos (if rest.isEmpty then t.sources else 0)
      (if squeeze then t.compressPuts n e else t.puts n) with
  | .wait => s
  | .fault s f => if t.x.performed then s.tplFault c n pos f else s
  | .ok s y =>
    let x := { y with
      xl := t.x.xl
      block := rest
      poison := if t.isRaw then t.x.poison else t.x.poison.add pos (if squeeze then [e] else t.x.block) }
    let kept := if squeeze && (e.num != 0 || e.poison.isSome) then t.kept + 1 else t.kept
    let t := { t with
      x := x
      kept := kept
      ends := if squeeze && rest.isEmpty && t.took % shCount r 0 == 0 then t.ends ++ [kept] else t.ends }
    (s.setTpl c n t).active c

/-- The flits of the DKIND 1 element at position `p` (R313), as an inbound stream would deliver it, or its stored bytes. -/
def State.copyFlits (s : State) (c : Nat) (t : Tpl) (raw : Bool) (p : Nat) (e : RawElem) : State × List Flit × List Byte :=
  let r := armShape t.arm.record
  let fmt := shFmt r
  let nd := max 1 (fmtNeed fmt (shPcnt r) - t.arm.level.toNat)
  let last := decide (p + 1 = shTotal r)
  if raw then
    let v := if e.poison.isSome then Config.lostBits s.free else e.raw
    ({ s with free := if e.poison.isSome then s.free + 1 else s.free }, [], leBytes v ((elemBits fmt (shPcnt r) + 7) / 8))
  else
    let orig := e.poison.getD (originId c (0x30 + t.ag))
    let ds := if e.poison.isSome then List.replicate (elemFloats fmt) DVal.bad else elemDigits fmt (shPcnt r) nd e.scale e.raw
    let q := s.valFlits orig nd 3 (decide (nd < fmtNeed fmt (shPcnt r))) t.arm.ctag last ds
    let count := shTotal r * (if fmt = fmtPb then 32 else 1)
    (q.1, q.2 ++ (if last then [mkFlit 4 t.arm.ctag (tilePay 0 count 0) false true] else []), [])

/-- The target of a DKIND 1 copy (R313, R503). -/
def State.copyTarget (s : State) (c : Nat) (t : Tpl) : Target :=
  let k := 0x40 + armSb t.arm.record
  match s.slotFor c k t.arm.ctag with
  | none => .wait
  | some (i, f) => if sbRaw f then .raw (armSb t.arm.record) i f else .buf (armSb t.arm.record) i f

/-- The next element of a copy is issued. A DKIND 1 copy waits for its buffer's frame. A fault waits until what was issued
before is performed (R221). -/
def State.copyRead (s : State) (c n : Nat) : State :=
  let t := s.tpl c n
  let direct := armKind t.arm.record == 1
  if direct && s.copyTarget c t == .wait then s
  else match s.issueRead c t.x (armShape t.arm.record) t.saddr t.arm.sys 0 (if direct then 1 else 0) with
  | .wait => s
  | .fault s' f => if t.x.delivered then s'.tplFault c n t.x.pos f else s
  | .ok s x => (s.setTpl c n { t with x := x }).active c

/-- The element at the front of a copy joins what it gathers, or its flits or bytes wait to leave (R313, R314). -/
def State.copyTake (s : State) (c n : Nat) : State :=
  let t := s.tpl c n
  let r := armShape t.arm.record
  match t.x.front with
  | none => s
  | some f =>
    let q := t.x.takeRaw r f
    let e := q.2
    if armKind t.arm.record = 1 then
      match s.copyTarget c t with
      | .wait => s
      | target =>
        let raw := match target with
          | .raw _ _ _ => true
          | _ => false
        let p := s.copyFlits c t raw f.pos e
        ((p.1).setTpl c n { t with
          x := { q.1 with out := p.2.1, bytes := if p.2.2.isEmpty then [] else [p.2.2] } }).active c
    else
      let v := if e.poison.isSome then Config.lostBits s.free % 2 ^ elemBits (shFmt r) (shPcnt r) else e.raw
      let l := if t.isRaw then [{ num := v, exp := 0, zs := none, poison := none }]
        else rawElems (shFmt r) (shPcnt r) e (originId c (0x30 + t.ag))
      let s := if t.isRaw && e.poison.isSome then { s with free := s.free + 1 } else s
      (s.setTpl c n { t with took := f.pos + 1, x := { q.1 with block := t.x.block ++ l } }).active c

/-- What a DKIND 1 copy has in hand goes to its buffer. -/
def State.copyDeliver (s : State) (c n : Nat) : State :=
  let t := s.tpl c n
  let target := s.copyTarget c t
  let d := match t.x.out with
    | f :: l => (s.deliverFlit c (byTemplate n) target f, { t.x with out := l })
    | [] => (s.deliverBytes c (byTemplate n) target t.x.bytes.flatten, { t.x with bytes := [] })
  match d with
  | (.wait s, _) => s
  | (.sent s, y) => s.setTpl c n { s.tpl c n with x := y }
  | (.bad, _) => if t.terminal then s else s.tplBad c n

/-- The source pattern has been read and what it gave is written or delivered. -/
def Tpl.copied (t : Tpl) : Bool :=
  decide (shTotal (armShape t.arm.record) ≤ t.x.pos) && t.x.block.isEmpty && t.x.delivered

/-- The generator of a copy has its frame, with COPY = 1 (R316): whether it has, and has not yet been filled. -/
def State.copyFrame (s : State) (c : Nat) (t : Tpl) : Option Bool :=
  (s.frameFor c (0x30 + t.ag) t.arm.ctag).map fun f => f.getLsbD 219

/-- A copy may issue another read: its reorder buffer has room (R200). -/
def Tpl.mayRead (t : Tpl) : Bool := decide (t.x.pos < shTotal (armShape t.arm.record)) && decide (t.x.waiting < 32)

/-- What a copy gathers is complete, or the source ends. -/
def Tpl.gathered (t : Tpl) : Bool :=
  !t.x.block.isEmpty && (armKind t.arm.record == 2 || decide (t.gathers ≤ t.x.block.length)
    || decide (shTotal (armShape t.arm.record) ≤ t.took))

/-- What was recalled of a copy is issued again (R221). -/
def State.copyAgain (s : State) (c n : Nat) (f : Flown) : State :=
  let t := s.tpl c n
  match s.issueAgain c { t.x with xl := none } t.arm.sys f with
  | .wait => s
  | .fault s' e => if issuedDone t.x.flown then s'.tplFault c n f.pos e else s
  | .ok s y => (s.setTpl c n { t with x := { y with xl := t.x.xl } }).active c

/-- One step of a copy (R313-R316). Its generator's frame must have COPY = 1. -/
def State.copyStep (s : State) (c n : Nat) : State :=
  let t := s.tpl c n
  if !t.x.sent then s.copyDeliver c n
  else if t.phase ≠ .copying then s
  else match s.copyFrame c t with
  | none => s
  | some false => s.tplBad c n
  | some true =>
    match againOf t.x.flown with
    | some f => s.copyAgain c n f
    | none =>
    if armKind t.arm.record = 2 ∧ t.stage ≠ 1 then s
    else if t.gathered then if t.x.writing < 32 then s.copyWrite c n else s
    else
      let s := s.copyTake c n
      if (s.tpl c n).phase = .copying ∧ (s.tpl c n).mayRead then s.copyRead c n else s

/-- STREAM_ELEMENT (R295, R316, R374): the next step of what occupies a slot of a generator, an inbound stream or a copy;
else the next word of an in-band image of the generator. A freeze wave holds it (R41). -/
def execStreamElement (c : CoreIx) (ag : Fin 8) (slot : Fin 4) (s : State) : Result :=
  if s.waved c.val then .next s
  else match s.copyIn c.val ag.val slot.val with
  | some n => .next (s.copyStep c.val n)
  | none =>
    let x := s.stream c.val ag.val slot.val
    if ag.val < 4 ∧ x.phase = .running then
      .next (s.inStep c.val ag.val slot.val)
    else .next (s.inbandStep c.val ag.val)

/-! Compressing copies (R318-R320). -/

/-- A word of the descriptor, or an entry of an array, issued by a compressing copy; `f` is how the copy goes on. -/
def State.squeezePut (s : State) (c n : Nat) (va : Word) (w v : Nat) (f : Tpl → Tpl) : State :=
  let t := s.tpl c n
  if 32 ≤ t.x.writing then s
  else match s.issueWrite c { t.x with xl := none } t.arm.sys t.x.pos 0 [{ va := va, bit := 0, w := w, v := v }] with
  | .wait => s
  | .fault s' e => if t.x.performed then s'.tplFault c n t.x.pos e else s
  | .ok s x => (s.setTpl c n (f { t with x := { x with xl := t.x.xl } })).active c

/-- The read of the four words of the descriptor that the program writes is issued (R319): VALS, COLS, ROWP and CAP. -/
def State.squeezeRead (s : State) (c n : Nat) : State :=
  let t := s.tpl c n
  match s.issue c none t.arm.sys [readAcc (t.daddr + 16) 32] with
  | .wait => s
  | .fault s' f => s'.tplFault c n t.x.pos f
  | .ok s' as _ =>
    (s'.setTpl c n { t with
      rows := 2
      x := { t.x with flown := t.x.flown ++ [{ pos := t.x.pos, n := 0, known := none, bit := 0, accs := as, issued := true }] } }).active c

/-- The four words have been read (R319). -/
def State.squeezeTake (s : State) (c n : Nat) : State :=
  let t := s.tpl c n
  match t.x.front with
  | none => s
  | some f =>
    let bs := f.accs.flatMap fun a => a.got
    let w := fun k => word (leNat ((bs.drop (8 * k)).take 8))
    (s.setTpl c n { t with
      stage := 1, rows := 0, vals := w 0, cols := w 1, rowp := w 2, cap := w 3, x := t.x.drop f }).active c

/-- The rows whose elements are all stored (R319). -/
def Tpl.fullRows (t : Tpl) : Nat := (t.ends.filter fun e => decide (e ≤ t.cap.toNat)).length

/-- The end-of-tile flit of a compressing copy (R319). -/
def Tpl.squeezeEnd (t : Tpl) : Flit :=
  let need := (t.kept * elemBits (armFmt t.arm.record) 0 + 7) / 8 + 4 * t.kept
  mkFlit 4 t.arm.ctag (if t.cap.toNat < t.kept then tilePay 1 t.cap.toNat need else tilePay 0 t.kept 0) false true

/-- COMPRESS_PHASE (R319, R320): the accesses of a compressing copy beside its elements. Stage 0 is VALID = 0 and then the
reads of phase 1; 1 the elements; 2 the row pointers; 3 NNZ; 4 VALID; 5 the end of tile; 6 the fire token. Each begins once
the writes of the one before it are performed. -/
def execCompressPhase (c : CoreIx) (tm : Fin 16) (s : State) : Result :=
  let n := tm.val
  let t := s.tpl c.val n
  let excess := decide (t.cap.toNat < t.kept)
  let still := t.x.flown.isEmpty
  let goes := fun (k : Nat) => (.next (s.setTpl c.val n { t with stage := k }) : Result)
  if t.phase ≠ .copying ∨ armKind t.arm.record ≠ 2 ∨ s.waved c.val ∨ s.copyFrame c.val t ≠ some true then .next s
  else if (againOf t.x.flown).isSome then .next s
  else match t.stage, t.rows with
  | 0, 0 => .next (s.squeezePut c.val n t.daddr 64 0 fun t => { t with rows := 1 })
  | 0, 1 => .next (if still then s.squeezeRead c.val n else s)
  | 0, _ => .next (s.squeezeTake c.val n)
  | 1, _ => if t.copied then .next (s.setTpl c.val n { t with stage := 2, rows := 0 }) else .next s
  | 2, _ =>
    if t.fullRows < t.rows then (if still then goes 3 else .next s)
    else
      let v := if t.rows = 0 then 0 else listGet 0 t.ends (t.rows - 1)
      .next (s.squeezePut c.val n (t.rowp + word (4 * t.rows)) 32 v fun t => { t with rows := t.rows + 1 })
  | 3, _ => .next (s.squeezePut c.val n (t.daddr + 8) 64 t.kept fun t => { t with stage := 4 })
  | 4, _ =>
    .next (if still then
      s.squeezePut c.val n t.daddr 64 (if excess then 2 else 1) fun t => { t with stage := 5, ovf := excess }
    else s)
  | 5, _ =>
    match still, s.sbAt c.val (armSb t.arm.record) t.arm.ctag with
    | true, some (i, f) =>
      if sbRaw f then goes 6
      else match s.deliverFlit c.val (byTemplate n) (.buf (armSb t.arm.record) i f) t.squeezeEnd with
        | .sent s => .next (s.setTpl c.val n { s.tpl c.val n with stage := 6 })
        | .wait s => .next s
        | .bad => .next s
    | _, _ => .next s
  | _, _ => .next s

/-- A firing has ended: the bases advance, and the next state follows (R313, R316). -/
def Tpl.next (t : Tpl) : Tpl :=
  let r := t.arm.record
  let fired := t.fired + 1
  let t := { t with
    saddr := t.saddr + armWord r 10, daddr := t.daddr + armWord r 11, fired := fired, place := none }
  match t.pending with
  | some a => t.armWith a
  | none =>
    if t.dpend || (armCount r != 0 && fired.toNat == armCount r) then { t with phase := .disarmed, dpend := false }
    else { t with phase := .armed }

/-- COPY_END (R66, R216, R316): the poison record of the firing, its fire token, and the template's next state. -/
def execCopyEnd (c : CoreIx) (tm : Fin 16) (s : State) : Result :=
  let n := tm.val
  let t := s.tpl c.val n
  let r := armShape t.arm.record
  if t.phase ≠ .copying ∨ !t.copied ∨ (armKind t.arm.record = 2 ∧ t.stage ≠ 6) then .next s
  else if t.x.poison.count ≠ 0 then
    let s := s.tilePoison c.val (0x30 + t.ag) (t.sid n) (shTrap r) t.x.poison
    .next (s.setTpl c.val n { t with x := { t.x with poison := .none, pois := true } })
  else
    let d := if shFdst r = 0 then .sent s
      else s.emitFire c.val byFire (shFdst r) (word (3 * 2 ^ 60 + t.sid n * 2 ^ 44)) t.arm.ctag
    match d with
    | .wait s => .next s
    | .bad => .next (s.tplBad c.val n)
    | .sent s => .next ((s.setTpl c.val n (s.tpl c.val n).next).active c.val)

end Sys2Proof.Machine
end

