-- ==== Sys2Proof/Machine/Groups.lean ====
section
/-!
DEFINITION. Core groups (02 R31-R36, R42; 07 R143; 16 R330, R336, R337): placements, freeing, binding, retirement.
-/
namespace Sys2Proof.Machine

/-! What a group owns in a cluster (R395, R403, R405). -/

/-- The state of a Plain without what an owner has in it; `ps` are the passes of the owner's cores. -/
def Plain.disown (x : Plain) (owner : Nat) (ps : List Nat) : Plain :=
  let other := fun (r : PRec) => r.owner != owner
  let kept := fun (p : Nat × List Flit) => !ps.contains p.1
  { x with
    owners := x.owners.filter fun p => p.2 != owner + 1
    inputs := tabMap [] (fun l => l.filter other) x.inputs
    links := x.links.filter fun f => other f.body
    outs := tabMap [] (fun l => l.filter other) x.outs
    leaving := x.leaving.filter kept
    entering := x.entering.filter fun p => !ps.contains p.1
    peSlots := x.peSlots.filter fun p => tabGet 0 x.owners p.1 != owner + 1
    stopped := x.stopped.filter fun e => e / 1024 != owner }

/-- What an owner has in a Plain; `valid` says of a slot that its V is set. -/
def Plain.owned (x : Plain) (owner : Nat) (ps : List Nat) (valid : Nat → Bool) : Plain :=
  let mine := fun (r : PRec) => r.owner == owner
  { Plain.reset with
    owners := x.owners.filter fun p => p.2 == owner + 1 && valid p.1
    inputs := tabMap [] (fun l => l.filter mine) x.inputs
    links := x.links.filter fun f => mine f.body
    outs := tabMap [] (fun l => l.filter mine) x.outs
    leaving := x.leaving.filter fun p => ps.contains p.1
    entering := x.entering.filter fun p => ps.contains p.1
    peSlots := x.peSlots.filter fun p => tabGet 0 x.owners p.1 == owner + 1 && valid p.1
    stopped := x.stopped.filter fun e => e / 1024 == owner
    shut := x.shut }

/-- The valid slots of a Plain that an owner holds (R395): one that `cfg.evict` has cleared is nobody's. -/
def Cluster.ownedSlots (x : Cluster) (owner : Nat) : Tab Slot :=
  x.slots.filter fun p => p.2.v && tabGet 0 x.plain.owners (p.1 - 2048) == owner + 1

/-- A cluster without what an owner has in it (R32, R395, R405). -/
def Cluster.disown (x : Cluster) (owner : Nat) (ps : List Nat) : Cluster :=
  { x with
    slots := x.slots.filter fun p => tabGet 0 x.plain.owners (p.1 - 2048) != owner + 1
    spaces := x.spaces.filter fun p => !(p.2.v && p.2.owner == owner)
    plain := x.plain.disown owner ps
    pair := if x.pair.phase ≠ .free ∧ x.pair.owner = owner then x.pair.freed else x.pair }

/-- What an owner has in a cluster. -/
def Cluster.partOf (x : Cluster) (owner : Nat) (ps : List Nat) : ClusterPart :=
  { slots := x.ownedSlots owner
    spaces := x.spaces.filter fun p => p.2.v && p.2.owner == owner
    plain := x.plain.owned owner ps fun n => (tabGet Slot.reset x.slots (2048 + n)).v
    pair := if x.pair.phase ≠ .free ∧ x.pair.owner = owner then x.pair else .reset }

/-- The core numbers, within cluster k, of a list of cores. -/
def passesIn (cs : List Nat) (k : Nat) : List Nat := (cs.filter fun c => c / 12 == k).map fun c => c % 12

/-! Freeing (R32). -/

/-- A core that is freed (R32, R143, R359): what stands in it is discarded, its slots are invalid, and its accumulators and
its general and predicate registers are cleared. Its k-registers and MXSTAT.ERR stay (R141, R192), its performance counters
and rotation count (R448), a grid that a DEADLOCK verdict has closed (R49), and its collective slots until it is bound
again. -/
def Core.freed (x : Core) : Core :=
  ({ Core.reset with
    colls := x.colls
    grid := { Grid.reset with
      pcs := x.grid.pcs, rot := x.grid.rot, lastp := x.grid.lastp, closed := x.grid.closed, verdictAt := x.grid.verdictAt }
    cp := { x.cp with
      regs := Regs.reset
      ctl := { CpCtl.reset with nextId := x.cp.ctl.nextId, xroot := x.cp.ctl.xroot } } } : Core).keepErr x

/-- The cores of a group are freed (R31, R32). -/
def State.freeCores (s : State) (cs : List Nat) : State :=
  let owner := originId (listGet 0 cs 0) 0
  let s := (clustersOf cs).foldl (fun (s : State) k => s.modCluster k fun x => x.disown owner (passesIn cs k)) s
  cs.foldl (fun (s : State) c => s.modCore c Core.freed) s

/-! Placements (R33, R36). -/

/-- The first cores of the placements of a shape on a die, lowest first. -/
def placements (d shape : Nat) : List Nat :=
  (rangeFrom 0 (96 / shapeCores shape)).map fun n => 96 * d + n * shapeCores shape

/-- A placement is free: every core of it, and the pair engine of every cluster that it touches (R334, R417, DEDUCED, log entry
99). -/
def State.placeFree (s : State) (shape first : Nat) : Bool :=
  (coresFrom first shape).all (fun c => !(s.cpOf c).ctl.bound)
    && (clustersOf (coresFrom first shape)).all fun k => (s.cluster k).pair.phase == .free

/-- The free placement of a shape that the scheduler prefers (R36): the lowest that contains the preferred cluster, else the
lowest. `ok` is what else it must meet. -/
def State.placement (s : State) (d shape : Nat) (pcl : Option Nat) (ok : Nat → Bool) : Option Nat :=
  let l := (placements d shape).filter fun p => s.placeFree shape p && ok p
  let near := fun p => match pcl with
    | some k => (coresFrom p shape).any fun c => c / 12 % 8 == k
    | none => false
  match listFind near l with
  | some p => some p
  | none => l.head?

/-! Shape lists (R336). -/

/-- The rows that a record names in its die's Basin, none where the read meets an uncorrectable error. -/
def State.recordRows (s : State) (d : Nat) (r : BitVec 1024) : State × Option Nat :=
  match recRows r with
  | none => (s, some 0)
  | some o =>
    let pa := s.ownPkg * 2 ^ 49 + 2 ^ 46 + d * 2 ^ 25 + o
    if s.eccBad pa 4 then
      (s.post (96 * d) { typ := 0, cause := causeEccu, orig := originId (96 * d) 0, resume := false, held := false,
                         double := false, words := [word pa] }, none)
    else (s.eccRead pa 4, some (s.natAt pa 4))

/-- The shape list of a READY task (R336). -/
def State.shapeList (s : State) (d : Nat) (r : BitVec 1024) : State × List Nat :=
  match s.recordRows d r with
  | (s, none) => (s, [recShape r])
  | (s, some rows) => (s, ((recMenu r).filter fun m => decide (rows ≤ m.2)).map (fun m => m.1) ++ [recShape r])

/-! Binding (R34, R143, R337). -/

/-- The control processor of a core at binding (R34, R143). KQUI stays: R141 does not name binding for it. -/
def Cp.atBinding (x : Cp) (tvec : BitVec 61) (xroot : BitVec 58) (q n first rank shape prio : Nat) (r : BitVec 1024) : Cp :=
  { regs := { pc := recWord r 1, g := Vector.replicate 32 0, vac := 0, preds := 0 }
    k := { KRegs.reset with
      psys := false, sys := false, tvec := tvec, queue := BitVec.ofNat 4 q, slot := BitVec.ofNat 8 n,
      first := BitVec.ofNat 18 (originId first 0), rank := BitVec.ofNat 7 rank, shape := BitVec.ofNat 4 shape,
      argbase := recWord r 3, prio := BitVec.ofNat 2 prio, verdict := x.k.verdict, qcount := x.k.qcount }
    ctl := { CpCtl.reset with
      bound := true, queue := BitVec.ofNat 4 q, slot := BitVec.ofNat 8 n, nextId := x.ctl.nextId, xroot := xroot } }

/-- The load of a task's configuration on a core at binding (R337), which posts work as a `cfg.load` does (R501): a load that
fails traps. -/
def State.bindLoad (s : State) (c va : Nat) : State :=
  let s := if va = 0 then s else s.postWork c
  if va = 0 then s
  else match s.readImage c va false (s.cpOf c).k.sys 4096 with
  | (s, .error (some f)) => (s.noteFail c none).pendTrap c f.cause f.val
  | (s, .error none) => s
  | (s, .ok l) =>
    if 30 < (l.length + 127) / 128 then (s.noteFail c none).pendTrap c causeCfgerr 3840
    else match (s.modCore c fun y => { y with cache := y.cache.placeImage va 0 l 32 }).loadFrames c va none none l.dropLast with
    | .wait => s
    | .ends t _ => t
    | .goes t _ => t

/-- The accesses that a task's start acquires have been performed (R217, R329, R330). -/
def State.startOk (s : State) (t : TSlot) : Bool := t.after.all fun p => (s.cpOf p.1).drained [p.2]

/-- A task that is bound starts once the accesses ordered ahead of its start are performed (R217, R330): its configuration is
loaded, and its control processors may issue. Until then `after` is not empty. -/
def State.startTask (s : State) (d q n : Nat) : State :=
  let t := (s.die d).sched.slot q n
  if t.used && t.phase == .running && s.startOk t then
    let s := s.modDie d fun y => { y with sched := y.sched.setSlot q n { t with after := [] } }
    (coresFrom t.first t.shape).foldl (fun (s : State) c => s.bindLoad c (recWord t.record 2).toNat) s
  else s

/-- The bound tasks of a die that have not started, and whose start is due. -/
def State.startTasks (s : State) (d : Nat) : State :=
  (s.die d).sched.slots.foldl (fun (s : State) p =>
    if p.2.after.isEmpty then s else s.startTask d (p.1 / 256) (p.1 % 256)) s

/-- A task is bound to a placement (R34, R143, R337, R380). The counters of its cores are cleared (R444, R445); a grid that a
DEADLOCK verdict has closed opens with the first command (R49, R141). -/
def State.bindTask (s : State) (d q n shape first prio : Nat) : State :=
  let x := s.die d
  let t := x.sched.slot q n
  let xroot := tabGet 0 x.xroot q
  let s := s.modDie d fun y =>
    { y with
      sched := { (y.sched.setSlot q n
        { t with
          phase := .running, first := first, shape := shape, prio := BitVec.ofNat 2 prio, boundAt := y.sched.seq,
          xroot := xroot }) with
        qLast := q, seq := y.sched.seq + 1, boundCyc := s.cyc + 1 } }
  let cs := coresFrom first shape
  let s := cs.foldl State.withdrawCore s
  let s := (cs.zip (rangeFrom 0 cs.length)).foldl (fun (s : State) (p : Nat × Nat) =>
    s.modCore p.1 fun y =>
      { Core.reset with
        cp := y.cp.atBinding x.tvec xroot q n first p.2 shape prio t.record
        grid := { Grid.reset with closed := y.grid.closed, verdictAt := y.grid.verdictAt } }) s
  s.startTask d q n

/-! Retirement (R31, R42, R330). -/

/-- An access of the pair engine for core c is under way. -/
def State.pairFlying (s : State) (c : Nat) : Bool :=
  match (s.cluster (c / 12)).pair.op with
  | some o => o.core == c && (flying o.ahead || flying o.cell || flying o.puts)
  | none => false

/-- A core has an access outstanding that retirement or a freeze completes first (R31, R41, R358, R426): CP accesses, those
that streams and copies have issued, port requests that the banks perform, updates in a window, KV requests, collectives past their
rendezvous, and the image writes of a `frz.save`. -/
def State.accessing (s : State) (c : Nat) : Bool :=
  !(s.cpOf c).ctl.reqs.isEmpty
    || (s.units c).streams.any (fun p => p.2.x.underway) || (s.units c).tpls.any (fun p => p.2.x.underway) || s.pairFlying c
    || (s.die (c / 96)).sched.waves.any (fun w => match w.cause with
      | .save k _ => k == c
      | _ => false)
    || (s.grid c).windows.any (fun p => !p.2.isEmpty)
    || (s.grid c).portqs.any (fun p => p.2.pending)
    || s.kv.reqs.any (fun r => r.core == c)
    || (s.core c).colls.any fun p => p.2.used && p.2.phase != .ended && p.2.phase != .rendezvous

/-- TASK_RETIRE (R330): with every core done and every write performed, the successors are signalled, the slot is freed, and
the cores are freed; they are bound again from the next cycle. A freeze wave that found the last core done is dropped
(R42). -/
def execTaskRetire (d : DieIx) (q : Fin 16) (slot : BitVec 8) (s : State) : Result :=
  let n := slot.toNat
  let t := (s.die d.val).sched.slot q.val n
  let cs := coresFrom t.first t.shape
  if t.used && t.phase == .running && cs.all (fun c => (s.cpOf c).ctl.done && !s.accessing c) then
    let mine := fun (w : Wave) => w.queue == q.val && w.slot == n
    let s := (s.die d.val).sched.waves.foldl (fun (s : State) w => match w.cause with
      | .save c dest => if mine w then s.deliver c dest 0x5200000000000000 else s
      | _ => s) s
    let s := s.modDie d.val fun y =>
      let x := (recSigs t.record).foldl (fun (x : Sched) k => x.addCounter k 0xFFFF) y.sched
      { y with
        sched := { (x.freeUp q.val n s.cyc s.ktime) with
          boundCyc := s.cyc + 1, waves := x.waves.filter fun w => !mine w } }
    .next (s.freeCores cs)
  else .next s

end Sys2Proof.Machine
end

