-- ==== Sys2Proof/Machine/Images.lean ====
section
/-!
DEFINITION. Freeze images (02 R41, R43; 22 R457, R458; 07 R142; 13 R265; 18 R391; 19 R403; 20 R417): their bytes, what they
hold, and their placing on new cores.
-/
namespace Sys2Proof.Machine

/-! Bytes (R457). -/

/-- One bit of CRC-32C. -/
def crcBit (c : BitVec 32) : BitVec 32 := if c.getLsbD 0 then c >>> 1 ^^^ 0x82F63B78#32 else c >>> 1

/-- One byte of CRC-32C. -/
def crcByte (c : BitVec 32) (b : Byte) : BitVec 32 :=
  crcBit (crcBit (crcBit (crcBit (crcBit (crcBit (crcBit (crcBit (c ^^^ b.setWidth 32))))))))

/-- CRC-32C. -/
def crc32c (l : List Byte) : BitVec 32 := ~~~(l.foldl crcByte 0xFFFFFFFF#32)

/-- Bytes of an image whose layout is the device's own. -/
def Image.hidden (x : Image) (off n : Nat) : List Byte := (rangeFrom off n).map (Config.imageByte x.serial)

/-- The group header with a CHECK. -/
def Image.header (x : Image) (check : Nat) : List Byte :=
  let plain := min (Config.imagePlain x.serial) 65496
  [0x58, 0x46, 0x5A, 0x01] ++ leBytes check 4
    ++ [BitVec.ofNat 8 x.shape, BitVec.ofNat 8 x.cores.length, x.prio.setWidth 8, (boolWord x.verdict).setWidth 8,
        BitVec.ofNat 8 (x.first % 12), (boolWord x.lch).setWidth 8, 0, 0]
    ++ leBytes x.task 8 ++ leBytes x.xroot.toNat 8 ++ leBytes plain 8 ++ x.hidden 40 plain
    ++ List.replicate (65496 - plain) 0

/-- A header's payload with its ORIG changed by `o`. -/
def hdrWith (o : Nat → Nat) (p : Word) : Word :=
  hdrPay (hdrE p) (o (hdrOrig p)) (hdrNdig p) (hdrWc p) (hdrZ p) (hdrZs p) (hdrApx p)

/-- A flit with its ORIG changed by `o`: that of a header, or of a poisoned body or end flit; a parity error stays. -/
def Flit.withOrig (f : Flit) (o : Nat → Nat) : Flit :=
  let pay := if f.kind = 1 then hdrWith o f.pay
    else if (f.kind = 2 ∨ f.kind = 3) ∧ f.poison then setBits f.pay 30 18 (o (bits f.pay 30 18)) else f.pay
  let g := { f with pay := pay }
  { g with par := f.par ^^^ f.parity ^^^ g.parity }

/-- The scratch of a core with the ORIGs of the flits in its stream buffers changed by `o` (R308, R457). -/
def Core.buffersWith (x : Core) (o : Nat → Nat) (mem : Memory) : Memory :=
  x.units.sbufs.foldl (fun (mem : Memory) (p : Nat × Sbuf) =>
    let f := (tabGet Slot.reset x.grid.slots (256 + p.1)).frame
    if sbRaw f then mem
    else (rangeFrom 0 (p.2.fill / 16)).foldl (fun (mem : Memory) i =>
      let at_ := sbBase f + (p.2.head + 16 * i) % sbSize f
      let y := Flit.ofBits (word (leNat (memBytes mem at_ 8))) (leNat (memBytes mem (at_ + 8) 3))
      memPut mem at_ (flitBytes (y.withOrig o))) mem) mem

/-- An origin id as an image stores it (R457): its die, cluster and core fields are replaced by the rank, for a node of a
cluster by the rank of the group's first core there (DESIGN CHOICE, log entry 12). -/
def rankOrig (first n o : Nat) : Nat :=
  let c := coreOfOrigin o
  let node := o % 256
  let c := if 0x80 ≤ node ∨ node = 0x70 then max first (c / 12 * 12) else c
  if first ≤ c ∧ c < first + n then (c - first) * 256 + node else o

/-- The accumulators in the layout of R71. -/
def Mx.bytes (x : Mx) : List Byte := (rangeFrom 0 16384).flatMap fun k => leBytes (tabGet 0 x.acc k).toNat 8

/-- The bytes of a core's scratch. -/
def scratchBytes (m : Memory) : List Byte := (rangeFrom 0 192).flatMap fun p => memBytes m (4096 * p) 4096

/-- The section of the core of rank r. -/
def Image.section (x : Image) (r : Nat) : List Byte :=
  x.hidden (0x10000 + 0x110000 * r) 0x30000
    ++ (listGet Core.reset x.cores r).units.mx.bytes
    ++ scratchBytes ((listGet Core.reset x.cores r).buffersWith (rankOrig x.first x.cores.length) (listGet [] x.scratch r))

/-- The image with a CHECK. -/
def Image.withCheck (x : Image) (check : Nat) : List Byte :=
  x.header check ++ (rangeFrom 0 x.cores.length).flatMap x.section

/-- The bytes of an image. -/
def Image.bytes (x : Image) : List Byte := x.withCheck (crc32c (x.withCheck 0)).toNat

/-- The bytes at an address, page by page. -/
def State.pagesAt (s : State) (pa n : Nat) : List Byte := (rangeFrom 0 n).flatMap fun p => s.bytesAt (pa + 4096 * p) 4096

/-- The error marks of `n` bytes at an address, by half. -/
def State.marksIn (s : State) (pa n : Nat) : Tab Ecc :=
  let k := s.memKey pa
  s.ecc.filter fun p => decide (k / 8 ≤ p.1 ∧ 8 * p.1 < k + n)

/-- The reads of an image that a thaw or `frz.load` makes correct and count the single-bit errors they meet (R202). -/
def State.imageChecked (s : State) (pa n : Nat) : State :=
  (s.marksIn pa n).foldl (fun s p => s.correctHalf (paDie pa) p.1) s

/-- The image at an address: one that was written, every byte of which stands there unaltered and without an uncorrectable
error (R457, DESIGN CHOICE, log entry 12). -/
def State.imageAt (s : State) (pa : Nat) : Option Image :=
  listFind (fun x =>
    !((s.marksIn pa (65536 * imageUnits x.cores.length)).any fun p => p.2 == .double) && s.pagesAt pa (16 * imageUnits x.cores.length) == x.bytes)
    s.images.reverse

/-! Rewriting for a new placement (R43, R457). -/

/-- A move of a group: its first core then and now, and its cores. -/
structure Move where
  src : Nat
  dst : Nat
  n : Nat

/-- A core after the move. -/
def Move.core (m : Move) (c : Nat) : Nat := if m.src ≤ c ∧ c < m.src + m.n then m.dst + (c - m.src) else c

/-- An origin id after the move; that of a Plain element or of the pair engine goes with its cluster (R393, R405). -/
def Move.orig (m : Move) (o : Nat) : Nat :=
  let c := coreOfOrigin o
  let node := o % 256
  if 0x80 ≤ node ∨ node = 0x70 then
    if m.src / 12 ≤ c / 12 ∧ c / 12 ≤ (m.src + m.n - 1) / 12 then
      originId (12 * (m.dst / 12 + (c / 12 - m.src / 12))) node
    else o
  else originId (m.core c) node

/-- A header's payload after the move: its ORIG changes. -/
def Move.hdr (m : Move) (p : Word) : Word := hdrWith m.orig p

/-- A word that holds an origin id at bit `b`, after the move. -/
def Move.atBit (m : Move) (b : Nat) (v : Word) : Word := setBits v b 18 (m.orig (bits v b 18))

/-- A pending trap after the move (R43): the KTVAL of DUPTAG, BLKAXIS and CFGERR names a node (R127, R186, R449). -/
def Move.trap (m : Move) (cfgAt : Option Nat) (t : BitVec 6 × Word) : BitVec 6 × Word :=
  if t.1 = causeDuptag then (t.1, m.atBit 0 t.2)
  else if t.1 = causeBlkaxis then (t.1, m.atBit 32 t.2)
  else if t.1 = causeCfgerr then (t.1, match cfgAt with
    | some b => m.atBit b t.2
    | none => t.2)
  else t

/-- The generator that a configuration flit came from after the move. -/
def Move.from (m : Move) (n : Nat) : Nat := if n = 0 then 0 else 8 * m.core ((n - 1) / 8) + (n - 1) % 8 + 1

/-- A flit after the move: its ORIG changes (R43). -/
def Move.flit (m : Move) (f : Flit) : Flit := { f.withOrig m.orig with src := m.from f.src }

/-- The ORIG of a record after the move. -/
def Move.orig18 (m : Move) (o : BitVec 18) : BitVec 18 := BitVec.ofNat 18 (m.orig o.toNat)

/-- What has been issued, after the move: the ORIGs in it. -/
def Move.flown (m : Move) (f : Flown) : Flown :=
  { f with
    known := f.known.map fun e => { e with poison := e.poison.map m.orig }
    accs := f.accs.map fun a => { a with bad := a.bad.map m.orig } }

/-- A transfer after the move; its translation is walked anew (R321, R391). -/
def Move.xfer (m : Move) (x : Xfer) : Xfer :=
  { x with
    out := x.out.map m.flit, taken := x.taken.map m.flit, xl := none
    flown := x.flown.map m.flown
    block := x.block.map fun e => { e with poison := e.poison.map m.orig }
    scale := x.scale.map fun v => (v.1, v.2.map m.orig)
    poison := { x.poison with orig := m.orig18 x.poison.orig } }

/-- The number of a pass after the move. -/
def Move.pass (m : Move) (k : Nat) : Nat := m.core (m.src / 12 * 12 + k) % 12

/-- A Plain node after the move: an element, or a pass as 128 + its core (R394). -/
def Move.node (m : Move) (e : Nat) : Nat := if 128 ≤ e then 128 + m.pass (e - 128) else e

/-- The frame of a Plain element after the move: a destination that is a pass goes with its core (R391, R394). -/
def Move.plainFrame (m : Move) (f : Frame) : Frame :=
  let code := fun (v : Nat) => if v = 0xFF then v else m.node v
  setBits (setBits f 104 8 (code (fb f 111 104))) 96 8 (code (fb f 103 96))

/-- A frame after the move: only one of a Plain element names a core (R394). -/
def Move.frame (m : Move) (f : Frame) : Frame := if fKind f = 6 then m.plainFrame f else f

/-- A block of the configuration cache after the move: the frames of an image change as installed ones do (R43, R391). -/
def Move.block (m : Move) (b : CBlock) : CBlock :=
  if b.prog then b
  else { b with
    words := (rangeFrom 0 128).foldl (fun (t : Tab Word) n =>
      let f := m.frame (frameOf (tabGet 0 t (4 * n)) (tabGet 0 t (4 * n + 1)) (tabGet 0 t (4 * n + 2)) (tabGet 0 t (4 * n + 3)))
      tabSet 0 t (4 * n + 1) (f.extractLsb' 64 64)) b.words }

/-- The grid of a core after the move. -/
def Move.grid (m : Move) (g : Grid) : Grid :=
  { g with
    chans := g.chans.map fun (p : Nat × Chan) => (p.1, { p.2 with flits := p.2.flits.map m.flit })
    installs := g.installs.map fun x => { x with frame := m.frame x.frame, src := m.from x.src }
    collect := g.collect.map fun (p : Nat × List Flit) => (p.1, p.2.map m.flit)
    ops := g.ops.map fun (p : Nat × OpState) =>
      (p.1, { p.2 with held := p.2.held.map m.flit, replay := p.2.replay.map m.flit })
    pes := g.pes.map fun (p : Nat × Pe) =>
      (p.1, { p.2 with
        job := p.2.job.map fun j =>
          { j with out := j.out.map m.flit, ops := j.ops.map fun o => { o with hdr := o.hdr.map m.hdr } } })
    peSlots := g.peSlots.map fun (p : Nat × PeSlot) => (p.1, { p.2 with poison := p.2.poison.map m.orig18 })
    ports := g.ports.map fun (p : Nat × Port) =>
      (p.1, { p.2 with
        taken := p.2.taken.map m.flit
        waiting := p.2.waiting.map fun (r : PortRec) => { r with ready := r.ready.map m.flit, eot := r.eot.map m.flit } })
    portqs := g.portqs.map fun (p : Nat × PortQ) =>
      (p.1, { p.2 with
        reqs := p.2.reqs.map fun (r : PortReq) => { r with data := r.data.map m.flit, fired := m.flit r.fired }
        outs := p.2.outs.map fun (r : PortOut) => { r with flits := r.flits.map m.flit } }) }

/-- The units of a core after the move. -/
def Move.units (m : Move) (u : Units) : Units :=
  { u with
    streams := u.streams.map fun (p : Nat × Stream) => (p.1, { p.2 with x := m.xfer p.2.x })
    tails := u.tails.map fun t => { t with flits := t.flits.map m.flit }
    tpls := u.tpls.map fun (p : Nat × Tpl) => (p.1, { p.2 with x := m.xfer p.2.x })
    mx := { u.mx with out := u.mx.out.map fun l => l.map m.flit } }

/-- What a group has in a Plain after the move: owners, cores, passes and flits. -/
def Move.plain (m : Move) (x : Plain) : Plain :=
  let owner := originId m.dst 0
  let pass := m.pass
  let node := m.node
  let body := fun (r : PRec) => { r with owner := owner, flits := r.flits.map m.flit }
  { x with
    owners := x.owners.map fun (p : Nat × Nat) => (p.1, owner + 1)
    inputs := x.inputs.map fun (p : Nat × List PRec) => (p.1, p.2.map body)
    links := x.links.map fun f => { f with src := node f.src, dst := node f.dst, body := body f.body }
    outs := x.outs.foldl (fun t (p : Nat × List PRec) => tabSet [] t (pass p.1) (p.2.map body)) []
    leaving := x.leaving.foldl (fun t (p : Nat × List Flit) => tabSet [] t (pass p.1) (p.2.map m.flit)) []
    entering := x.entering.foldl (fun t (p : Nat × Option (Word × BitVec 8 × List Flit)) =>
      tabSet none t (pass p.1) (p.2.map fun e => (e.1, e.2.1, e.2.2.map m.flit))) []
    peSlots := x.peSlots.map fun (p : Nat × PeSlot) => (p.1, { p.2 with poison := p.2.poison.map m.orig18 })
    stopped := x.stopped.map fun e => 1024 * owner + e % 1024 }

/-- A member of a cell after the move. -/
def Move.member (m : Move) (x : Member) : Member := match x with
  | .part k => .part k
  | .lost o n => .lost (m.orig o) n

/-- A position after the move. -/
def Move.point (m : Move) (p : Point) : Point := p.map fun x => match x with
  | .val v => .val v
  | .lost o => .lost (m.orig o)

/-- A pair engine after the move: a scan that has tests of its home cell left reads its positions again, and judges them
again (R417). -/
def Move.pair (m : Move) (x : Pair) : Pair :=
  { x with
    owner := originId m.dst 0
    clear := x.clear.map fun p => (m.core p.1, p.2)
    op := x.op.map fun o =>
      let again := x.phase == .scanning && o.ending.isNone && o.cells.isEmpty && o.cell.isEmpty && o.tests != some []
      { o with
        core := m.core o.core, cur := o.cur.map m.flit
        ahead := if again then [] else o.ahead.map m.flown, cell := o.cell.map m.flown, puts := o.puts.map m.flown
        point := o.point.map m.point
        members := o.members.map fun l => l.map m.member
        tests := o.tests.map fun l => l.map fun (q : Member × Member) => (m.member q.1, m.member q.2)
        todo := if again then particles o.members.flatten else o.todo
        points := if again then [] else o.points.map fun (q : Nat × Point × Point) => (q.1, m.point q.2.1, m.point q.2.2)
        tested := o.tested && !again } }

/-- A part of an image after the move. -/
def Move.part (m : Move) (x : ClusterPart) : ClusterPart :=
  { x with
    slots := x.slots.map fun (p : Nat × Slot) => (p.1, { p.2 with frame := m.plainFrame p.2.frame })
    spaces := x.spaces.map fun (p : Nat × TagSpace) =>
      (p.1, { p.2 with
        owner := originId m.dst 0
        last := p.2.last.map fun q => (m.core q.1, q.2) })
    plain := m.plain x.plain
    pair := if x.pair.phase = .free then x.pair else m.pair x.pair }

/-- A physical address in the group's scratch after the move (R43). -/
def State.movedPa (s : State) (m : Move) (pa : Nat) : Nat :=
  if s.isOwn pa && regionOf (paKind pa) == .scratch then s.scratchPa (m.core (paCore pa)) (pa % 2 ^ 20) else pa

/-! Taking an image (R41, R42, R142, R391). -/

/-- A control processor at the freeze: returned values are written (R169), and a `task.yield` ends with 0 (R333). -/
def Cp.frozen (x : Cp) : Cp :=
  let x := x.ctl.pend.foldl (fun (x : Cp) p => match p.val with
    | some v => x.put p.reg v
    | none => x) x
  let x := { x with ctl := { x.ctl with pend := x.ctl.pend.filter fun p => p.val.isNone } }
  match x.ctl.standing with
  | some ⟨.taskYield _ d, _⟩ => x.complete [] fun y => y.put d 0
  | _ => x

/-- A collective slot as an image holds it: TEAMID, SEQ and the result word (R358). -/
def CollSlot.frozen (x : CollSlot) : CollSlot :=
  { CollSlot.reset with
    used := x.used, desc := BitVec.ofNat 1024 ((bits (cdWord x.desc 1) 0 32) * 2 ^ 64), result := x.result }

/-- The matrix unit as an image holds it: an element with an uncorrectable error is poisoned (R179, R202). -/
def Mx.frozen (x : Mx) : Mx :=
  { x with
    acc := x.ecc.foldl (fun t p => if p.2 = .double then tabSet 0 t p.1 accPoison else t) x.acc, ecc := [] }

/-- A block of the configuration cache as an image holds it: a word with an uncorrectable error holds bits that no rule gives
(R202, DESIGN CHOICE, log entry 46); `n` numbers the free values. -/
def CBlock.frozen (x : CBlock) (n : Nat) : CBlock :=
  { x with
    words := x.ecc.foldl (fun t p => if p.2 = .double then tabSet 0 t p.1 (word (Config.lostBits (n + p.1))) else t) x.words
    ecc := [] }

/-- A core as an image holds it: without TLB contents and program pages (R391). -/
def Core.frozen (x : Core) (n : Nat) : Core :=
  { x with
    cp := x.cp.frozen, tlb := []
    cache := { x.cache with
      blocks := (x.cache.blocks.filter fun b => !b.2.prog).map fun b => (b.1, b.2.frozen (n + 512 * b.1)) }
    colls := x.colls.map fun p => (p.1, p.2.frozen)
    units := { x.units with mx := x.units.mx.frozen } }

/-- The error marks of the scratch of core c, by half. -/
def State.scratchMarks (s : State) (c : Nat) : Tab Ecc :=
  let k := s.memKey (s.scratchPa c 0)
  s.ecc.filter fun p => decide (k ≤ 8 * p.1 ∧ 8 * p.1 < k + 0xC0000)

/-- The bytes of the scratch of core c that are not zero, by local offset; where an uncorrectable error lost a half, bits
that no rule gives (R202, DESIGN CHOICE, log entry 46). -/
def State.scratchOf (s : State) (c : Nat) : Memory :=
  let k := s.memKey (s.scratchPa c 0)
  let l := s.mem.filterMap fun p => if k ≤ p.1 ∧ p.1 < k + 0xC0000 then some (p.1 - k, p.2) else none
  (s.scratchMarks c).foldl (fun l p =>
    if p.2 = .double then memPut l (8 * p.1 - k) (leBytes (Config.lostBits (s.free + p.1)) 8) else l) l

/-- The single-bit errors of the accumulators and of the image blocks of a core. -/
def Core.singles (x : Core) : Nat :=
  let n := fun (t : Tab Ecc) => (t.filter fun p => p.2 == .single).length
  n x.units.mx.ecc + ((x.cache.blocks.filter fun b => !b.2.prog).map fun b => n b.2.ecc).foldl (fun a b => a + b) 0

/-- The reads that write an image correct and count the single-bit errors they meet (R202, R446). -/
def State.imageFixed (s : State) (c : Nat) : State :=
  (rangeFrom 0 (s.core c).singles).foldl (fun s _ => s.modDie (c / 96) Die.corrected)
    ((s.scratchMarks c).foldl (fun s p => s.correctHalf (c / 96) p.1) s)

/-- A long channel of the group is in use (R265): in a tag of a valid slot of either core. -/
def State.longInUse (s : State) (cs : List Nat) : Bool :=
  cs.any fun c => (rangeFrom 0 16).any fun q => match facing (c % 12) q with
    | none => false
    | some (i, _) => (s.slotTags c ++ s.slotTags (c / 12 * 12 + i)).any fun t => (s.longChannel c q t).isSome

/-- The image of a group (R457). -/
def State.takeImage (s : State) (d q n : Nat) : Image :=
  let t := (s.die d).sched.slot q n
  let cs := coresFrom t.first t.shape
  { serial := s.free, shape := t.shape, prio := t.prio, verdict := cs.any fun c => (s.grid c).closed,
    lch := s.longInUse cs, task := ((s.die d).sched.handle q n).toNat, record := t.record, xroot := t.xroot, first := t.first,
    cores := cs.map fun c => (s.core c).frozen (s.free + 2 ^ 64 + 2 ^ 16 * c)
    scratch := cs.map s.scratchOf
    parts := (clustersOf cs).map fun k => (s.cluster k).partOf (originId t.first 0) (passesIn cs k) }

/-! Placing an image (R43, R142, R265, R403, R417, R458). -/

/-- Table `b` laid over table `a`. -/
def tabOver {α : Type} [DecidableEq α] (d : α) (a b : Tab α) : Tab α := b.foldl (fun t p => tabSet d t p.1 p.2) a

/-- Nothing of another owner stands where a part of an image goes (R403). -/
def Cluster.takes (x : Cluster) (p : ClusterPart) : Bool :=
  p.slots.all (fun e => !(tabGet Slot.reset x.slots e.1).v)
    && p.spaces.all (fun e => !(tabGet TagSpace.reset x.spaces e.1).v)

/-- A cluster with a part of an image; its Plain's detector restarts from zero (R48). -/
def Cluster.with (x : Cluster) (p : ClusterPart) : Cluster :=
  let a := x.plain
  let b := p.plain
  { x with
    slots := tabOver .reset x.slots p.slots
    spaces := tabOver .reset x.spaces p.spaces
    plain := { a with
      owners := tabOver 0 a.owners b.owners
      inputs := b.inputs.foldl (fun t e => tabSet [] t e.1 (tabGet [] t e.1 ++ e.2)) a.inputs
      links := a.links ++ b.links
      outs := tabOver [] a.outs b.outs
      leaving := tabOver [] a.leaving b.leaving
      entering := tabOver none a.entering b.entering
      peSlots := tabOver .reset a.peSlots b.peSlots
      stopped := a.stopped ++ b.stopped
      shut := a.shut || b.shut
      qcount := 0 }
    pair := if p.pair.phase = .free then x.pair else p.pair }

/-- A placement takes an image (R265, R403). -/
def State.placeTakes (s : State) (x : Image) (first : Nat) : Bool :=
  (!x.lch || first % 12 == x.first % 12)
    && ((clustersOf (coresFrom first x.shape)).zip x.parts).all fun p => (s.cluster p.1).takes p.2

/-- The core of a rank on its new place (R142, R143, R391). -/
def Image.coreAt (x : Image) (s : State) (m : Move) (q n prio r : Nat) : Core :=
  let y := listGet Core.reset x.cores r
  let old := (s.cpOf (m.dst + r)).ctl
  { y with
    cp := { y.cp with
      k := { y.cp.k with
        first := BitVec.ofNat 18 (originId m.dst 0), prio := BitVec.ofNat 2 prio, verdict := 0, qcount := 0 }
      ctl := { y.cp.ctl with
        queue := BitVec.ofNat 4 q, slot := BitVec.ofNat 8 n
        nextId := max y.cp.ctl.nextId old.nextId
        traps := y.cp.ctl.traps.map (m.trap y.cp.ctl.cfgAt)
        standing := y.cp.ctl.standing.map fun w =>
          { w with sem := w.sem.map fun z => { z with pa := s.movedPa m z.pa } } } }
    cache := { y.cache with blocks := y.cache.blocks.map fun b => (b.1, m.block b.2) }
    grid := m.grid y.grid
    units := m.units y.units }

/-- The scratch of core c replaced by the bytes of an image. -/
def State.putScratch (s : State) (c : Nat) (l : Memory) : State :=
  let k := s.memKey (s.scratchPa c 0)
  { s with
    mem := l.foldl (fun t (p : Host.Cell) => memSet t (k + p.1) p.2)
      (s.mem.filter fun p => !decide (k ≤ p.1 ∧ p.1 < k + 0xC0000))
    ecc := s.ecc.filter fun p => !decide (k ≤ 8 * p.1 ∧ 8 * p.1 < k + 0xC0000) }

/-- THAW (R43): an image is placed, and the group resumes; what stood in the collective slots of its cores is withdrawn (R358,
R359). -/
def State.thaw (s : State) (d q n : Nat) (x : Image) (first prio : Nat) : State :=
  let m : Move := { src := x.first, dst := first, n := x.cores.length }
  let s := s.modDie d fun y =>
    { y with
      sched := { (y.sched.setSlot q n
        { y.sched.slot q n with
          phase := .running, first := first, shape := x.shape, prio := BitVec.ofNat 2 prio, boundAt := y.sched.seq,
          xroot := x.xroot, image := none, inArea := false }) with
        qLast := q, seq := y.sched.seq + 1, boundCyc := s.cyc + 1 } }
  let s := (coresFrom first x.shape).foldl State.withdrawCore s
  let s := (rangeFrom 0 x.cores.length).foldl (fun (s : State) r =>
    let y := x.coreAt s m q n prio r
    (s.setCore (m.dst + r) y).putScratch (m.dst + r) ((listGet Core.reset x.cores r).buffersWith m.orig (listGet [] x.scratch r))) s
  ((clustersOf (coresFrom first x.shape)).zip x.parts).foldl (fun (s : State) (p : Nat × ClusterPart) =>
    s.modCluster p.1 fun y => y.with (m.part p.2)) s

/-- A task whose image fails its check leaves FROZEN for CANCELLED, with a record (R458). -/
def State.badThaw (s : State) (d q n pa : Nat) : State :=
  (s.modDie d fun y => { y with sched := y.sched.freeUp q n s.cyc s.ktime }).post (96 * d)
    { typ := 0, cause := causeCfgerr, orig := originId (96 * d) 0, resume := false, held := false, double := false,
      words := [word pa] }

end Sys2Proof.Machine
end

