-- ==== Sys2Proof/Machine/Schedule.lean ====
section
/-!
DEFINITION. The scheduler (02 R30, R35, R36, R40-R43; 16 R329-R336; 22 R459-R462): the task and freeze forms, binding,
pre-emption and freezing.
-/
namespace Sys2Proof.Machine

/-! Choosing (R334-R336). -/

/-- A task as the scheduler sorts it: its place, level, time and order. -/
structure Cand where
  queue : Nat
  slot : Nat
  level : Nat
  ready : Nat
  turn : Nat
  order : Nat

/-- The first of two candidates in the order of R334: by level, at level 3 by t_ready, then by queue from q_last + 1 on,
then by acceptance. -/
def Cand.before (a b : Cand) : Bool :=
  if a.level ≠ b.level then decide (b.level < a.level)
  else if a.level = 3 ∧ a.ready ≠ b.ready then decide (a.ready < b.ready)
  else if a.turn ≠ b.turn then decide (a.turn < b.turn)
  else decide (a.order ≤ b.order)

/-- A slot of the scheduler as a candidate. -/
def Sched.cand (x : Sched) (now : Word) (p : Nat × TSlot) : Cand :=
  { queue := p.1 / 256, slot := p.1 % 256, level := p.2.eff now, ready := p.2.tReady.toNat,
    turn := (p.1 / 256 + 15 - x.qLast) % 16, order := p.2.order }

/-- The READY and FROZEN tasks of a die in the order of R334. -/
def Sched.cands (x : Sched) (now : Word) : List Cand :=
  sortBy Cand.before
    ((x.slots.filter fun p => p.2.used && (p.2.phase == .ready || p.2.phase == .frozen)).map (x.cand now))

/-- The first shape of a list with a free placement, and that placement. -/
def State.firstPlacement (s : State) (d : Nat) (pcl : Option Nat) : List Nat → Option (Nat × Nat)
  | [] => none
  | sh :: l =>
    match s.placement d sh pcl fun _ => true with
    | some p => some (sh, p)
    | none => s.firstPlacement d pcl l

/-- The shape list of a READY or FROZEN task (R336). -/
def State.shapesOf (s : State) (d : Nat) (t : TSlot) : State × List Nat :=
  if t.phase = .frozen then (s, [t.shape]) else s.shapeList d t.record

/-- The image of a FROZEN task, if it passes its check (R458). -/
def State.thawImage (s : State) (pa : Nat) (t : TSlot) : Option Image := (s.imageAt pa).filter fun x => x.shape == t.shape

/-- A FROZEN task is thawed on a free placement, or its image fails the check there (R43, R458); none where no placement
takes it. -/
def State.tryThaw (s : State) (d q n pa prio : Nat) (t : TSlot) : Option State :=
  let pcl := recPcl t.record
  let r := s.imageChecked pa (imageSize t.shape)
  match s.thawImage pa t with
  | some x => (s.placement d t.shape pcl fun p => s.placeTakes x p).map fun p => r.thaw d q n x p prio
  | none => (s.placement d t.shape pcl fun _ => true).map fun _ =>
    (r.badThaw d q n pa).modDie d fun y => { y with sched := { y.sched with qLast := q, boundCyc := s.cyc + 1 } }

/-- The first candidate with a free placement is bound or thawed (R334). -/
def State.bindFirst (s : State) (d : Nat) : List Cand → State
  | [] => s
  | a :: l =>
    let t := (s.die d).sched.slot a.queue a.slot
    match t.image with
    | some pa =>
      match s.tryThaw d a.queue a.slot pa a.level t with
      | some s => s
      | none => s.bindFirst d l
    | none =>
      let p := s.shapesOf d t
      match p.1.firstPlacement d (recPcl t.record) p.2 with
      | some (sh, first) => p.1.bindTask d a.queue a.slot sh first a.level
      | none => p.1.bindFirst d l

/-- The scheduler of a die acts in this cycle (R334): at most one task is bound or thawed. -/
def State.bindOne (s : State) (d : Nat) : State :=
  let x := (s.die d).sched
  if x.boundCyc = s.cyc + 1 then s else s.bindFirst d (x.cands s.ktime)

/-- SCHEDULER_BIND (R334): in a cycle, at most one task of the die is bound or thawed; a bound task that waits for the
accesses ordered ahead of its start starts (R217). -/
def execSchedulerBind (d : DieIx) (s : State) : Result := .next ((s.startTasks d.val).bindOne d.val)

/-! The freeze area (R459). -/

/-- The offset in HBM4, on die d, of an address. -/
def hbmOff (pa : Nat) : Nat := pa % 2 ^ 36

/-- The parts of a die's freeze area that are in use, as offsets with lengths: images, and images being written. -/
def Sched.areaTaken (x : Sched) : List (Nat × Nat) :=
  (x.slots.filterMap fun p => match p.2.used && p.2.inArea, p.2.image with
    | true, some pa => some (hbmOff pa, imageSize p.2.shape)
    | _, _ => none)
  ++ x.waves.filterMap fun w => match w.cause with
    | .save _ _ => none
    | _ => some (hbmOff w.addr, imageSize (x.slot w.queue w.slot).shape)

/-- The lowest address of a die's freeze area that fits an image (R459). -/
def State.areaFit (s : State) (d shape : Nat) : Option Nat :=
  let f := (s.die d).faults
  let lo := f.fzBase.toNat * 65536
  let hi := min (lo + f.fzSize.toNat * 65536) 0xC00000000
  let n := imageSize shape
  let taken := (s.die d).sched.areaTaken
  let fits := fun (a : Nat) => decide (lo ≤ a ∧ a + n ≤ hi) && taken.all fun t => decide (a + n ≤ t.1 ∨ t.1 + t.2 ≤ a)
  ((lo :: taken.map fun t => t.1 + t.2).filter fits).foldl (fun (best : Option Nat) a => match best with
    | some b => some (min a b)
    | none => some a) none
  |>.map fun a => s.ownPkg * 2 ^ 49 + d * 2 ^ 36 + a

/-- A freeze wave starts on the group of a task (R41). -/
def State.startWave (s : State) (d : Nat) (w : Wave) : State :=
  s.modDie d fun x => { x with sched := { x.sched with waves := x.sched.waves ++ [w] } }

/-! Pre-emption (R40). -/

/-- No placement of any shape of a task's list is free; of a FROZEN task none takes its image (R265, R334, R403). -/
def State.noPlace (s : State) (d : Nat) (t : TSlot) : Bool :=
  match t.image.bind fun pa => s.thawImage pa t with
  | some x => (s.placement d t.shape none fun p => s.placeTakes x p).isNone
  | none => (s.firstPlacement d none (s.shapesOf d t).2).isNone

/-- A READY task has waited 64 µs at priority 3 (R40). -/
def TSlot.urgent (t : TSlot) (now : Word) : Bool :=
  t.phase == .ready && decide (64000 * (4 - recPrio t.record) ≤ (now - t.tReady).toNat)

/-- A collective of one of the cores is outstanding (R40, R358). -/
def State.collOpen (s : State) (cs : List Nat) : Bool :=
  cs.any fun c => (s.core c).colls.any fun p => p.2.used && p.2.phase != .ended

/-- Releasing the cores of a task, together with those that are free, gives a placement of one of the shapes (R40). -/
def State.releaseFits (s : State) (d : Nat) (cs shapes : List Nat) : Bool :=
  shapes.any fun sh => (placements d sh).any fun p =>
    (coresFrom p sh).all (fun c => !(s.cpOf c).ctl.bound || cs.contains c)
      && (clustersOf (coresFrom p sh)).all fun k =>
        let x := (s.cluster k).pair
        x.phase == .free || cs.contains (coreOfOrigin x.owner)

/-- The better victim of two (R40): the lower bound priority, then the more recent binding. -/
def worseBound (a b : Nat × TSlot) : Nat × TSlot :=
  if b.2.prio.toNat < a.2.prio.toNat ∨ (b.2.prio = a.2.prio ∧ a.2.boundAt < b.2.boundAt) then b else a

/-- The victim of a pre-emption for a task with this shape list (R40). -/
def State.victim (s : State) (d : Nat) (shapes : List Nat) : Option (Nat × TSlot) :=
  let x := (s.die d).sched
  let l := x.slots.filter fun p =>
    let cs := coresFrom p.2.first p.2.shape
    p.2.used && p.2.phase == .running && !(x.waves.any fun w => 256 * w.queue + w.slot == p.1)
      && !s.collOpen cs && s.releaseFits d cs shapes
  l.foldl (fun (best : Option (Nat × TSlot)) p => match best with
    | some b => some (worseBound b p)
    | none => some p) none

/-- PREEMPT (R40, R459): a victim is frozen for a READY task that no free placement can take. -/
def execPreempt (d : DieIx) (s : State) : Result :=
  let x := (s.die d.val).sched
  let busy := x.waves.any fun w => w.cause == .preempt
  let waits := fun (a : Cand) =>
    let t := x.slot a.queue a.slot
    t.urgent s.ktime && s.noPlace d.val t
  if busy then .next s
  else match listFind waits (x.cands s.ktime) with
    | none => .next s
    | some a =>
      match s.victim d.val (s.shapesOf d.val (x.slot a.queue a.slot)).2 with
      | none => .next s
      | some v =>
        match s.areaFit d.val v.2.shape with
        | none => .next s
        | some pa => .next (s.startWave d.val ⟨v.1 / 256, v.1 % 256, .preempt, pa⟩)

/-! Freezing (R41, R42, R461). -/

/-- The results of the `frz.save` forms that wait on a task's wave. -/
def State.saved (s : State) (ws : List Wave) (v : Word) : State :=
  ws.foldl (fun (s : State) w => match w.cause with
    | .save c dest => s.deliver c dest v
    | _ => s) s

/-- The image of a wave is written, the task becomes FROZEN, and its cores are freed (R41). Another `frz.save` of the task
finds it not RUNNING. -/
def State.freezeTask (s : State) (d : Nat) (w : Wave) : State :=
  let x := (s.die d).sched
  let t := x.slot w.queue w.slot
  let image := s.takeImage d w.queue w.slot
  let mine := fun (v : Wave) => v.queue == w.queue && v.slot == w.slot
  let save := match w.cause with
    | .save _ _ => true
    | _ => false
  let s := (coresFrom t.first t.shape).foldl State.imageFixed s
  let s := ({ s with images := s.images ++ [image], free := s.free + 1 } : State).writeBytes w.addr image.bytes
  let s := s.modDie d fun y =>
    { y with
      sched := { (y.sched.setSlot w.queue w.slot
        { t with phase := .frozen, image := some w.addr, inArea := !save, tReady := s.ktime }) with
        boundCyc := s.cyc + 1, waves := y.sched.waves.filter fun v => !mine v } }
  let s := s.freeCores (coresFrom t.first t.shape)
  (s.saved [w] (word (imageUnits (shapeCores t.shape)))).saved ((x.waves.filter mine).drop 1) 0x5100000000000000

/-- A register of core c awaits what the image itself holds: an entry of the token queue, a command in progress in the grid,
or an operation of the pair engine (R391, R417, R457). -/
def State.heldReturn (s : State) (c : Nat) (d : Reg) : Bool :=
  let g := s.grid c
  let x := (s.cluster (c / 12)).pair
  (s.mx c).queue.any (fun e => e.tok.isNone && !e.bad && e.dest == d)
    || g.loads.any (fun l => l.reg == some d) || g.evicts.any (fun e => e.reg == d) || g.inbands.any (fun b => b.reg == d)
    || g.waits.any (fun w => w.reg == d)
    || (match x.op with
      | some o => o.core == c && o.dest == d
      | none => false)
    || x.clear.contains (c, d)

/-- The returns of the commands that core c has issued are complete (R41, R169), but for those of work that is held in its
unit (DEDUCED, log entry 70). -/
def State.returned (s : State) (c : Nat) : Bool :=
  (s.cpOf c).ctl.pend.all fun p => p.val.isSome || s.heldReturn c p.reg

/-- A wave may read out its group (R41, R42, R169, R358): the cores have no access outstanding, no return to wait for and no
collective open, and not every core is done. -/
def State.waveReady (s : State) (d : Nat) (w : Wave) : Bool :=
  let t := (s.die d).sched.slot w.queue w.slot
  let cs := coresFrom t.first t.shape
  t.used && t.phase == .running && t.after.isEmpty && !s.collOpen cs && cs.all (fun c => !s.accessing c && s.returned c)
    && !cs.all fun c => (s.cpOf c).ctl.done

/-- FREEZE (R41): the first wave of the die that is ready writes its image. -/
def execFreeze (d : DieIx) (s : State) : Result :=
  match listFind (s.waveReady d.val) (s.die d.val).sched.waves with
  | some w => .next (s.freezeTask d.val w)
  | none => .next s

/-! The task forms (R328-R333). -/

/-- `task.spawn` (R329). -/
def execTaskSpawn (g : Guard) (d : Reg) (q : Fin 16) (a : Src) (s : State) : Result :=
  cmdForm s (.taskSpawn g d q a) g false [a] <|
    withRecord s (.taskSpawn g d q a) (s.cp.val a).toNat 128 128 fun s v =>
      let c := s.focus.val
      let r := BitVec.ofNat 1024 v
      let x := (s.die (c / 96)).sched
      if !recOk r then s.reply [a] d 0x4200000000000000
      else match x.freeSlot q.val with
        | none => s.reply [a] d 0x4100000000000000
        | some n =>
          let x := x.accept q.val n r s.cyc s.ktime ((s.covered c).map fun id => (c, id))
          (s.modDie (c / 96) fun y => { y with sched := x }).reply [a] d (x.handle q.val n)

/-- The DEFERRED and DECIDING streams of a core are cancelled (R304, R330). -/
def State.cancelDeferred (s : State) (c : Nat) : State :=
  (rangeFrom 0 32).foldl (fun (s : State) n =>
    let p := (s.stream c (n / 4) (n % 4)).phase
    if p = .deferred ∨ p = .deciding then s.cancelStream c (n / 4) (n % 4) else s) s

/-- `task.done` (R330): it stands as `bar.all` stands, and then marks the core done. -/
def execTaskDone (g : Guard) (s : State) : Result :=
  cmdForm s (.taskDone g) g false [] <|
    let s := s.cancelDeferred s.focus.val
    if s.allDone s.focus.val then .next (s.complete [] fun x => { x with ctl := { x.ctl with done := true } })
    else s.stand (.taskDone g)

/-- `task.yield` (R333, R459): the group is frozen for a READY or FROZEN task of at least its priority that no free
placement can take. -/
def execTaskYield (g : Guard) (d : Reg) (s : State) : Result :=
  cmdForm s (.taskYield g d) g false [] <|
    let c := s.focus.val
    let k := s.cp.ctl
    let x := (s.die (c / 96)).sched
    let t := x.slot k.queue.toNat k.slot.toNat
    let due := (x.cands s.ktime).any fun a =>
      decide (s.cp.k.prio.toNat ≤ a.level) && s.noPlace (c / 96) (x.slot a.queue a.slot)
    match due && t.used && t.phase == .running, s.areaFit (c / 96) t.shape with
    | true, some pa => (s.startWave (c / 96) ⟨k.queue.toNat, k.slot.toNat, .yield, pa⟩).stand (.taskYield g d)
    | _, _ => s.reply [] d 1

/-- `task.arg` (R331). -/
def execTaskArg (g : Guard) (d : Reg) (n : BitVec 4) (s : State) : Result :=
  cmdForm s (.taskArg g d n) g false [] <|
    let k := s.cp.ctl
    let t := (s.die (s.focus.val / 96)).sched.slot k.queue.toNat k.slot.toNat
    s.reply [] d (recWord t.record n.toNat)

/-- `task.cancel` (R30, R332). A task that the scheduler binds in this cycle is bound first (R30). -/
def execTaskCancel (g : Guard) (d : Reg) (a : Src) (s : State) : Result :=
  cmdForm s (.taskCancel g d a) g false [a] <|
    let e := s.focus.val / 96
    let s := s.bindOne e
    let x := (s.die e).sched
    match x.named (s.cp.val a) with
    | none => s.reply [a] d 2
    | some (q, n) =>
      if (x.slot q n).phase = .running then s.reply [a] d 1
      else (s.modDie e fun y => { y with sched := y.sched.freeUp q n s.cyc s.ktime }).reply [a] d 0

/-! The freeze forms (R460-R462). -/

/-- A freeze form ends with this value in gD. -/
def State.frzReply (s : State) (srcs : List Src) (d : Reg) (v : Word) : Result :=
  .next ((s.posted srcs d true).deliver s.focus.val d v)

/-- The address conditions of R461 for an image of n bytes. -/
def State.frzAddrOk (s : State) (pa n : Nat) : Bool :=
  let r := regionOf (paKind pa)
  decide (pa % 65536 = 0) && paPkg pa == s.pkg.kpkg.toNat && (r == .basin || r == .hbm) && offsetOk pa && offsetOk (pa + n - 1)
    && diePart pa == diePart (pa + n - 1)

/-- `frz.save` (R461): privileged; gD is pending until the image is written. -/
def execFrzSave (g : Guard) (d : Reg) (a b : Src) (s : State) : Result :=
  cmdForm s (.frzSave g d a b) g true [a, b] <|
    let e := s.focus.val / 96
    let x := (s.die e).sched
    let k := s.cp.ctl
    let pa := (s.cp.val b).toNat % 2 ^ 58
    match x.named (s.cp.val a) with
    | none => s.frzReply [a, b] d 0x4600000000000000
    | some (q, n) =>
      if q = k.queue.toNat ∧ n = k.slot.toNat then s.frzReply [a, b] d 0x5400000000000000
      else if (x.slot q n).phase ≠ .running then s.frzReply [a, b] d 0x5100000000000000
      else if !s.frzAddrOk pa (imageSize (x.slot q n).shape) then s.frzReply [a, b] d 0x5300000000000000
      else .next ((s.posted [a, b] d true).startWave e ⟨q, n, .save s.focus.val d, pa⟩)

/-- `frz.load` (R462): privileged; an image becomes a FROZEN task. -/
def execFrzLoad (g : Guard) (d : Reg) (a : Src) (q : Fin 16) (s : State) : Result :=
  cmdForm s (.frzLoad g d a q) g true [a] <|
    let e := s.focus.val / 96
    let x := (s.die e).sched
    let pa := (s.cp.val a).toNat % 2 ^ 58
    if !s.frzAddrOk pa 65536 then s.frzReply [a] d 0x5300000000000000
    else match s.imageAt pa with
      | none => s.frzReply [a] d 0x5500000000000000
      | some y =>
        if !s.frzAddrOk pa (imageSize y.shape) then s.frzReply [a] d 0x5300000000000000
        else match x.freeSlot q.val with
          | none => s.frzReply [a] d 0x4100000000000000
          | some n =>
            let t := x.slot q.val n
            let x := { (x.setSlot q.val n
              { TSlot.reset with
                used := true, gen := t.gen + 1, record := y.record, phase := .frozen, since := s.cyc, order := x.seq,
                tReady := s.ktime, shape := y.shape, prio := y.prio, xroot := y.xroot, image := some pa }) with
              seq := x.seq + 1 }
            ((s.imageChecked pa (imageSize y.shape)).modDie e fun z => { z with sched := x }).frzReply [a] d (x.handle q.val n)

end Sys2Proof.Machine
end

