-- ==== Sys2Proof/Machine/Issue.lean ====
section
/-!
DEFINITION. Issue (08 R144): the wait for pending registers (R169, R227), and what the control processor does next.
-/
namespace Sys2Proof.Machine

/-- What the control processor of a core does next: take a step, or nothing. -/
inductive Plan where
  | run (i : Instr) (s : State)
  | idle
deriving DecidableEq, Repr

/-- Register r awaits a value (R144). -/
def Cp.isPending (x : Cp) (r : Reg) : Bool := r != 0 && x.ctl.pend.any fun p => p.reg == r

/-- The instruction waits for a pending register: one it reads, writes or makes vacant (R144, R169, R227). A guard that
fails reads and writes nothing (R97). -/
def Cp.waitsFor (x : Cp) (i : Instr) : Bool :=
  if x.regs.guard (guardOf i) then
    (srcsOf i).any (fun a => x.isPending a.reg) || (destOf i).any x.isPending
  else (srcsOf i).any fun a => a.last && x.isPending a.reg

/-- The instruction that a word is (R95, R107): a word that fails step 1 of R107 is a reserved opcode. -/
def instrOf (w : Word) : Instr :=
  match decode w with
  | .ok i => i
  | .error _ => .reservedOpcode w

/-- What core `c` does next: a pending asynchronous trap (R450), the fetch of a missing page (R369), or the instruction at
the program counter, once in a cycle (R144). A form that stands at issue lets nothing else issue (R39), nor does a freeze
wave (R41), nor a read on the remote path that has not returned (R227), nor the load that a binding makes (R337); a verdict
that is due forms first (R47). A form that has read a record goes on with it (R290). One that a fence held has been counted as issued already (R445). -/
def State.planAlone (s : State) (c : CoreIx) : Plan :=
  let s := { s with focus := c }
  let x := s.cp
  if !x.alive || s.unstarted c.val || x.ctl.reqs.any (fun r => r.far) || s.waved c.val || (s.grid c.val).loads.any (fun l => l.reg.isNone) || s.verdictDue c.val
  then .idle
  else if x.trapPending then .run (.asyncTrap c) s
  else match x.ctl.standing, x.ctl.records with
  | some f, _ :: _ => .run f.form s
  | some _, [] => .idle
  | none, _ =>
  if x.ctl.issued == s.cyc + 1 then .idle
  else match s.fetch c.val with
    | .miss => .run (.programPageFill c) s
    | .word w n =>
      if x.waitsFor (instrOf w) then .idle
      else .run (instrOf w)
        ((s.cacheRead c.val n (x.regs.pc.toNat / 8 % 512)).modCore c.val fun y =>
          { y with
            cp := { y.cp with ctl := { y.cp.ctl with entry := false, issued := s.cyc + 1, again := false } }
            grid := { y.grid with
              pcs := if x.ctl.again then y.grid.pcs else tabSet 0 y.grid.pcs 13 (tabGet 0 y.grid.pcs 13 + 1) }
            cache := y.cache.touch n })

/-- The forms of the pair engine (R405). -/
def pairCmd : Instr → Bool
  | .pairBox .. | .pairBin .. | .pairScan .. | .pairStat .. | .pairClr .. => true
  | _ => false

/-- What core `c` does next (R144). A command to the pair engine waits for those of lower cores of its cluster that can issue
in the same cycle (R405). -/
def State.plan (s : State) (c : CoreIx) : Plan :=
  match s.planAlone c with
  | .idle => .idle
  | .run i t =>
    if pairCmd i && (rangeFrom (c.val / 12 * 12) (c.val % 12)).any fun d => match s.planAlone (Fin.ofNat 768 d) with
        | .run j _ => pairCmd j
        | .idle => false
    then .idle else .run i t

/-- The state with an instruction word at the program counter of the focus core, which is bound and free to issue
(DESIGN CHOICE, log entry 19). -/
def State.placeWord (s : State) (w : Word) : State :=
  let c := s.focus.val
  let s := s.modCpOf c fun x =>
    { x with
      regs := { x.regs with pc := if canonical x.regs.pc.toNat && x.regs.pc.toNat % 8 == 0 then x.regs.pc else 0 }
      ctl := { x.ctl with
        bound := true, halted := false, done := false, standing := none, records := [], traps := [], issued := 0, pend := [],
        fences := [], reqs := [] } }
  let pc := (s.cpOf c).regs.pc.toNat
  s.modCore c fun y =>
    let n := (y.cache.find fun b => b.isPage pc).getD 0
    let b := y.cache.block n
    let b := if b.isPage pc then b else
      { v := true, prog := true, pin := false, va := dirVa (pc / 4096 * 4096), idx := 0, words := [], ecc := [],
        used := 0 }
    { y with cache := y.cache.setBlock n { b with words := tabSet 0 b.words (pc / 8 % 512) w } }

/-- The step is an event of the table: it has no instruction word. -/
def isEvent (i : Instr) : Bool :=
  match i with
  | .reservedOpcode _ => false
  | _ => (encode i).isNone

end Sys2Proof.Machine
end

