-- ==== Sys2Proof/Machine/Sems.lean ====
section
/-!
DEFINITION. Semaphores and tickets (21 R439-R443).
-/
namespace Sys2Proof.Machine

/-- SERVE of a semaphore word (R439). -/
def semServe (w : Nat) : Nat := w % 2 ^ 32

/-- NEXT of a semaphore word (R439). -/
def semNext (w : Nat) : Nat := w / 2 ^ 32 % 2 ^ 32

/-- SERVE has reached t (R439). -/
def reached (serve t : Nat) : Bool := decide ((serve + 2 ^ 32 - t % 2 ^ 32) % 2 ^ 32 < 2 ^ 31)

/-- What the checks of a semaphore form give (R441). -/
inductive SemCheck where
  | wait
  | trap (s : State) (f : Fail)
  | ok (s : State) (pa : Nat)

/-- The checks of a semaphore form, which are an atomic's that no PCIe AtomicOp performs (R226, R230, R383, R441), and the accesses ordered before it
(R211); `release` waits for every earlier access (R217). -/
def State.semCheck (s : State) (a : Word) (op : AmoOp) (release : Bool) : SemCheck :=
  let c := s.focus.val
  let ea := a.toNat
  if ea % 8 ≠ 0 then .trap s ⟨causeAlign, a⟩
  else if s.walkWaits c ea then .wait
  else match s.translate c s.cp.ctl.xroot ea .both s.cp.k.sys with
  | (t, .error f) =>
    if f.cause != causeProt && s.cp.ctl.reqs.any fun x => release || s.mayOrder c x (.amo op true) false 0 then .wait
    else .trap t f
  | (t, .ok pa) =>
    let gs : List Seg := [{ pa := pa, off := 0, n := 8, done := false }]
    match t.regionFail ea 8 .semaphore true s.cp.k.sys gs with
    | some f => .trap t f
    | none =>
      if t.waveBars c pa || s.cp.ctl.reqs.any fun x => release || s.ordersBefore c x (.amo op true) false 0 gs then .wait
      else match t.homeFail (.amo op true) gs with
      | some f => if s.cp.ctl.reqs.isEmpty then .trap t f else .wait
      | none => .ok t pa

/-- A semaphore form that goes on with its word. -/
def withSem (s : State) (a : Word) (op : AmoOp) (release : Bool) (k : State → Nat → Result) : Result :=
  match s.semCheck a op release with
  | .wait => .next s
  | .trap t f => t.raise f.cause f.val
  | .ok t pa => k t pa

/-- `sem.init` (R441). -/
def execSemInit (g : Guard) (d : Reg) (a b : Src) (s : State) : Result :=
  cmdForm s (.semInit g d a b) g false [a, b] <|
    withSem s (s.cp.val a) .swap false fun t pa =>
      let old := t.natAt pa 8
      let v := semServe (s.cp.val b).toNat
      ((t.eccRead pa 8).writeNat pa 8 (v * (2 ^ 32 + 1))).reply [a, b] d (word old)

/-- `sem.adv` (R441): the release of R217. -/
def execSemAdv (g : Guard) (d : Reg) (a : Src) (n : BitVec 16) (s : State) : Result :=
  cmdForm s (.semAdv g d a n) g false [a] <|
    withSem s (s.cp.val a) .add true fun t pa =>
      let old := t.natAt pa 8
      let v := semNext old * 2 ^ 32 + (semServe old + n.toNat) % 2 ^ 32
      ((t.eccRead pa 8).writeNat pa 8 v).reply [a] d (word old)

/-- The ticket token (R443). -/
def ticketToken (x : Cp) (t : BitVec 32) : Flit :=
  mkFlit 6 x.k.ctag (word (5 * 2 ^ 60 + x.k.rank.toNat * 2 ^ 40 + t.toNat)) false true

/-- `sem.take` once its test has succeeded (R441, R443): the ticket token enters its buffer, or waits for room. -/
def State.semTaken (s : State) (form : Instr) (d : Reg) (a : Src) (tok : Bool) (sb : Nat) (pa : Nat) (t : BitVec 32) :
    Result :=
  let c := s.focus.val
  let still : Result := .next (s.modCp fun x => x.stand form (some ⟨pa, some t, true⟩))
  if !tok then s.reply [a] d (t.setWidth 64)
  else match s.sbAt c sb s.cp.k.ctag with
  | none => still
  | some (i, f) =>
    if sbPsrc f ≠ 0x10 ∨ sbRaw f then still
    else if !s.sbRoom c sb i f byCp 16 then
      .next ((s.sbAsk c sb i byCp).modCp fun x => x.stand form (some ⟨pa, some t, true⟩))
    else (s.sbPutFlit c sb i f byCp (ticketToken s.cp t)).reply [a] d (t.setWidth 64)

/-- The test of a waiting semaphore form (R442): a read of the word at its home. A test that meets an error makes its trap
pending. -/
def State.semTest (s : State) (pa t : Nat) : State × Option Nat :=
  if s.waveBars s.focus.val pa then (s, none)
  else match s.homeFail (.amo .add true) [{ pa := pa, off := 0, n := 8, done := false }] with
  | some f => (s.pendTrap s.focus.val f.cause f.val, none)
  | none =>
    let v := semServe (s.natAt pa 8)
    (s.eccRead pa 8, if reached v t then some v else none)

/-- `sem.take` while it holds a ticket (R441, R442). -/
def State.semTaking (s : State) (form : Instr) (d : Reg) (a : Src) (tok : Bool) (sb : Nat) (pa : Nat) (t : BitVec 32) :
    Result :=
  match s.semTest pa t.toNat with
  | (s, some _) => s.semTaken form d a tok sb pa t
  | (s, none) => .next (s.modCp fun x => x.stand form (some ⟨pa, some t, false⟩))

/-- `sem.take` (R441): it takes a ticket in one atomic access, and waits. -/
def execSemTake (g : Guard) (d : Reg) (a : Src) (tok : Bool) (sb : Fin 16) (s : State) : Result :=
  let form := Instr.semTake g d a tok sb
  cmdForm s form g false [a] <|
    withSem s (s.cp.val a) .add false fun t pa =>
      let old := t.natAt pa 8
      let v := (semNext old + 1) % 2 ^ 32 * 2 ^ 32 + semServe old
      ((t.eccRead pa 8).writeNat pa 8 v).semTaking form d a tok sb.val pa (BitVec.ofNat 32 (semNext old))

/-- `sem.wait` once its word is known (R441, R442). -/
def State.semWaiting (s : State) (form : Instr) (d : Reg) (a b : Src) (pa : Nat) : Result :=
  match s.semTest pa (s.cp.val b).toNat with
  | (s, some v) => s.reply [a, b] d (word v)
  | (s, none) => .next (s.modCp fun x => x.stand form (some ⟨pa, none, false⟩))

/-- `sem.wait` (R441): the acquire of R217. -/
def execSemWait (g : Guard) (d : Reg) (a b : Src) (s : State) : Result :=
  let form := Instr.semWait g d a b
  cmdForm s form g false [a, b] <|
    withSem s (s.cp.val a) .add false fun t pa => t.semWaiting form d a b pa

/-- SEM_RETEST (R442): a waiting semaphore form tests again, or pushes its ticket token. -/
def execSemRetest (c : CoreIx) (s : State) : Result :=
  match (s.cpOf c.val).ctl.standing with
  | some ⟨form, some w⟩ =>
    match form, w.ticket with
    | .semTake _ d a tok sb, some t => s.atCore c fun s =>
      if w.passed then s.semTaken form d a tok sb.val w.pa t else s.semTaking form d a tok sb.val w.pa t
    | .semWait _ d a b, _ => s.atCore c fun s => s.semWaiting form d a b w.pa
    | _, _ => .next s
  | _ => .next s

end Sys2Proof.Machine
end

