-- ==== Sys2Proof/Machine/Resume.lean ====
section
/-!
DEFINITION. The events that end a form's wait (02 R39) and the taking of asynchronous traps (22 R450, R451).
-/
namespace Sys2Proof.Machine

/-- BARRIER_END (R215, R305, R306, R330, R378): a standing barrier, or a `task.done` in its wait, ends when its condition
holds. -/
def execBarrierEnd (c : CoreIx) (s : State) : Result :=
  match s.standingAt c with
  | some (.barRd g d u) => s.atCore c (execBarRd g d u)
  | some (.barWr g d u) => s.atCore c (execBarWr g d u)
  | some (.barAll g d) => s.atCore c (execBarAll g d)
  | some (.barCfg g d u n t) => s.atCore c (execBarCfg g d u n t)
  | some (.taskDone g) => s.atCore c (execTaskDone g)
  | _ => .next s

/-- QUEUE_FORM_RESUME (R176, R311, R315): a form that stands at a queue completes when room, an entry or the awaited count
appears. -/
def execQueueFormResume (c : CoreIx) (s : State) : Result :=
  match s.standingAt c with
  | some (.qPush g d q a l) => s.atCore c (execQPush g d q a l)
  | some (.qPop g d q p) => s.atCore c (execQPop g d q p)
  | some (.qWait g d q a m) => s.atCore c (execQWait g d q a m)
  | some (.tplFire g d n a) => s.atCore c (execTplFire g d n a)
  | some (.mxTok g d a) => s.atCore c (execMxTok g d a)
  | some (.mxAccrd g d x y z) => s.atCore c (execMxAccrd g d x y z)
  | some (.mxAccclr g d x) => s.atCore c (execMxAccclr g d x)
  | _ => .next s

/-- An asynchronous trap is taken (R450, R451): `wait` ends, and KEPC holds the next instruction (R148); the waiting phase of
`sem.take` completes with the ticket and bit 63 (R442); any other form at issue ends with no effect, and KEPC holds it. -/
def Cp.asyncTrap (x : Cp) (t : BitVec 6 × Word) : Cp :=
  let x := { x with ctl := { x.ctl with traps := x.ctl.traps.filter fun u => u.1 != t.1 } }
  match x.ctl.standing with
  | some ⟨.wait _, _⟩ => x.trap t.1 (x.regs.pc + 8) t.2
  | some ⟨.semTake _ d a _ _, some ⟨_, some n, _⟩⟩ =>
    let y := x.complete [a] fun y => y.put d (n.setWidth 64 ||| 0x8000000000000000)
    y.trap t.1 y.regs.pc t.2
  | _ => x.trap t.1 x.regs.pc t.2

/-- ASYNC_TRAP (R145, R450): the pending asynchronous trap of highest priority is taken between instructions. -/
def execAsyncTrap (c : CoreIx) (s : State) : Result :=
  let x := s.cpOf c.val
  if !x.alive || s.unstarted c.val || x.ctl.reqs.any (fun r => r.far) || s.waved c.val then .next s
  else match nextTrap x.ctl.traps asyncOrder with
    | none => .next s
    | some t => .next (s.modCpOf c.val fun x => x.asyncTrap t)

end Sys2Proof.Machine
end

