-- ==== Sys2Proof/Machine/Cycle.lean ====
section
/-!
DEFINITION. The end of a fabric cycle (02 R39, R47, R48; 07 R139; 16 R325; 21 R445).
-/
namespace Sys2Proof.Machine

/-- The form that stands at issue keeps the detector from counting (R39). -/
def Cp.waitsYes (x : Cp) : Bool :=
  match x.ctl.standing with
  | none => false
  | some ⟨form, _⟩ =>
    x.heldByFence || x.ctl.reqs.any (fun r => r.far) ||
      match form with
      | .semTake _ _ _ _ _ => true
      | .semWait _ _ _ _ => true
      | .qWait _ _ _ _ _ => true
      | .qPop _ _ _ _ => true
      | .qPush _ _ _ _ _ => true
      | .tplFire _ _ _ _ => true
      | .collWait _ _ _ => true
      | .barRd _ _ _ => true
      | .barWr _ _ _ => true
      | .barAll _ _ => true
      | .taskDone _ => true
      | _ => false

/-- The instruction that waits in this cycle for a pending register (R144). -/
def State.stalled (s : State) (c : Nat) : Option Instr :=
  let x := s.cpOf c
  if x.alive && !s.waved c && x.ctl.standing.isNone && x.ctl.issued != s.cyc + 1 then
    match s.fetch c with
    | .word w _ => if x.waitsFor (instrOf w) then some (instrOf w) else none
    | .miss => none
  else none

/-- It waits for a register whose work lies outside the core's scope (R39). -/
def State.stalledOutside (s : State) (c : Nat) : Bool :=
  let x := s.cpOf c
  match s.stalled c with
  | some i => ({ x with ctl := { x.ctl with pend := x.ctl.pend.filter fun p => p.outside } }).waitsFor i
  | none => false

/-- A resumable withhold, or a request of a unit, is outstanding at core c (R39, R455). -/
def State.unitWaits (s : State) (c : Nat) : Bool :=
  (s.units c).streams.any (fun p => p.2.phase == .withheld && !p.2.terminal)
    || (s.units c).tpls.any (fun p => p.2.phase == .withheld && !p.2.terminal)
    || (s.core c).colls.any (fun p => p.2.used && p.2.held)
    || (s.grid c).windows.any (fun p => !p.2.isEmpty)
    || ((s.cluster (c / 12)).pair.held && match (s.cluster (c / 12)).pair.op with
        | some o => o.core == c
        | none => false)

/-- A request of a stream, a copy, an engine or a memory-tile port of core c is outstanding (R47). -/
def State.unitRequests (s : State) (c : Nat) : Bool :=
  (s.units c).streams.any (fun p => p.2.x.underway) || (s.units c).tpls.any (fun p => p.2.x.underway)
    || s.pairFlying c || (s.core c).colls.any (fun p => flying p.2.flown)
    || (s.grid c).portqs.any fun p => p.2.pending

/-- The nodes of a core that hold context slots. -/
def coreNodes : List Nat := rangeFrom 0 0x29 ++ rangeFrom 0x30 9 ++ rangeFrom 0x40 33 ++ rangeFrom 256 16

/-- A token waits for its missing context slot at a node of core c (R39): until its frame has been fetched. -/
def State.fillWaits (s : State) (c : Nat) : Bool := coreNodes.any fun k => (s.fillDue c k).isSome

/-- The detector of core c does not count in this cycle (R47). -/
def State.detected (s : State) (c : Nat) : Bool :=
  (s.grid c).act || (s.cpOf c).waitsYes || s.stalledOutside c || s.unitWaits c || s.unitRequests c || s.fillWaits c

/-- The elements of a Plain that hold records, or that flits are on their way to, as node keys. -/
def Plain.fed (x : Plain) : List Nat :=
  (x.inputs.filter fun p => !p.2.isEmpty).foldl (fun l p => let k := 512 + p.1 / 3; if l.contains k then l else l ++ [k]) []

/-- A record waits at an element of Plain k for its missing context slot (R39, R364). -/
def State.plainFillWaits (s : State) (k : Nat) : Bool :=
  (s.plain k).fed.any fun e => (rangeFrom (12 * k) 12).any fun c => (s.cpOf c).ctl.bound && (s.fillDue c e).isSome

/-- A detector's counter after a cycle (R47). -/
def detectorNext (clear : Bool) (q : BitVec 11) : BitVec 11 := if clear then 0 else if q.toNat < 1024 then q + 1 else q

/-- A channel had no free slot when the cycle began (R247). -/
def State.chanFull (s : State) (c k depth : Nat) : Bool :=
  let x := s.chan c k
  decide (depth ≤ x.flits.length + (if x.lastOut = s.cyc + 1 then 1 else 0) - (if x.lastIn = s.cyc + 1 then 1 else 0))

/-- An output of a router leads to a channel that had no free slot. -/
def State.outFull (s : State) (c rt : Nat) (tag : BitVec 8) (o : Nat) : Bool :=
  match s.target c rt o tag with
  | some (d, m, depth) => s.chanFull d m depth
  | none => false

/-- The head at input k of a router finds no room: at an output that its source feeds, or at one to which the operator that
would consume it emits. -/
def State.headBlocked (s : State) (c rt k : Nat) : Bool :=
  match s.dataHead c rt (inputKey rt k) with
  | none => false
  | some f =>
    match s.slotFor c (0x10 + rt) f.ctag with
    | none => false
    | some (i, F) =>
      (plainOuts F (k + 1)).any (s.outFull c rt f.ctag)
        || match s.opDoes c rt i with
          | .move ks (some (outs, _)) _ => ks.any (fun j => rtOpi F j == k + 1) && outs.any (s.outFull c rt f.ctag)
          | _ => false

/-- The head of an operand channel finds no room: the result channel of its PE is full, or for a token of the matrix unit its
queue. -/
def State.operandBlocked (s : State) (c n k : Nat) : Bool :=
  match s.head c (operandKey n k) with
  | none => false
  | some f =>
    if k == 2 && s.tokensFrom c n f.ctag then !(s.units c).mx.room
    else (s.slotFor c n f.ctag).isSome && s.chanFull c (resultKey n) 4

/-- The head of an edge drain channel finds no room at its endpoint: a port's request queue or reorder buffer, a stream
buffer, the inbound pass queue, or the reorder buffer of the stream that takes it. -/
def State.drainBlocked (s : State) (c k : Nat) : Bool :=
  match s.head c (drainKey k) with
  | none => false
  | some f =>
    match s.slotFor c k f.ctag with
    | none => false
    | some (i, F) =>
      if 256 ≤ k then decide (16 ≤ (s.portq c k).reqs.length) || (decide (4 ≤ fOp F) && decide (32 ≤ s.portHeld c k))
      else if k = 0x60 then s.chanFull c passInKey 16
      else if 0x40 ≤ k then decide (sbSize F < (s.sbuf c (k - 0x40) i).fill + 16)
      else (s.units c).streams.any fun p => p.1 / 4 == k - 0x30 && p.2.ctag == f.ctag && p.2.x.writing == 32

/-- The channel heads of a core that found no room in this cycle, of those that stood there when it began (R445, DEDUCED, log
entry 28). -/
def State.blockedHeads (s : State) (c : Nat) : Nat :=
  let stood := fun (k : Nat) => (s.chan c k).lastIn != s.cyc + 1
  ((rangeFrom 0 80).filter fun n => stood (inputKey (n / 5) (n % 5)) && s.headBlocked c (n / 5) (n % 5)).length
    + ((rangeFrom 0 48).filter fun n => stood (operandKey (n / 3) (n % 3)) && s.operandBlocked c (n / 3) (n % 3)).length
    + (endpointKeys.filter fun k => stood (drainKey k) && s.drainBlocked c k).length
    + (match s.head c passInKey with
      | some _ => (boolWord ((s.plain (c / 12)).links.any fun f => f.src == 128 + c % 12)).toNat
      | none => 0)

/-- The bank requests of a core that were not served in their first cycle (R445). -/
def Cp.unserved (x : Cp) : Nat :=
  ((x.ctl.reqs.filter fun r => !r.waited).flatMap fun r => r.segs.filter fun g => !g.done).length

/-- The parts of what a unit has issued that were not served in their first cycle (R445). -/
def flownUnserved (l : List Flown) : Nat :=
  ((flownAccs l).map fun a => if a.waited then 0 else (a.segs.filter fun g => !g.done).length).foldl (fun m k => m + k) 0

/-- What a unit has issued, at the end of a cycle. -/
def flownEnd (l : List Flown) : List Flown :=
  l.map fun f => if f.issued then { f with accs := f.accs.map fun a => { a with waited := true } } else f

/-- The requests of the streams, copies and collectives of a core that were not served in their first cycle (R445). -/
def Core.unserved (x : Core) : Nat :=
  ((x.units.streams.map fun p => flownUnserved p.2.x.flown) ++ (x.units.tpls.map fun p => flownUnserved p.2.x.flown)
    ++ x.colls.map fun p => flownUnserved p.2.flown).foldl (fun m k => m + k) 0

/-- The units of a core at the end of a cycle. -/
def Core.unitsEnd (x : Core) : Core :=
  let xfer := fun (y : Xfer) => { y with flown := flownEnd y.flown }
  { x with
    units := { x.units with
      streams := x.units.streams.map fun (p : Nat × Stream) => (p.1, { p.2 with x := xfer p.2.x })
      tpls := x.units.tpls.map fun (p : Nat × Tpl) => (p.1, { p.2 with x := xfer p.2.x }) }
    colls := x.colls.map fun (p : Nat × CollSlot) => (p.1, { p.2 with flown := flownEnd p.2.flown }) }

/-- The pair engine of cluster k at the end of a cycle: its unserved requests count for the core that commanded it. -/
def State.pairCycle (s : State) (k : Nat) : State :=
  match (s.cluster k).pair.op with
  | none => s
  | some o =>
    let n := flownUnserved o.ahead + flownUnserved o.cell + flownUnserved o.puts
    (s.count o.core 11 n).modCluster k fun x => { x with pair := { x.pair with op := x.pair.op.map fun o =>
      { o with ahead := flownEnd o.ahead, cell := flownEnd o.cell, puts := flownEnd o.puts } } }

/-- The request at the head of a port's queue has not been served in this cycle (R199, R445), its first there. -/
def PortQ.unserved (q : PortQ) : Bool := match q.reqs with
  | r :: _ => !r.waited
  | [] => false

/-- The queues of a port at the end of a cycle. -/
def PortQ.endCycle (q : PortQ) : PortQ := match q.reqs with
  | r :: l => { q with reqs := { r with waited := true } :: l }
  | [] => q

/-- A control processor at the end of a cycle: its requests have waited, and its detector has counted or is cleared;
a completion verdict goes with the count (R47). -/
def Cp.endCycle (x : Cp) (frozen clear : Bool) : Cp :=
  { x with
    ctl := { x.ctl with reqs := x.ctl.reqs.map fun r => { r with waited := true } }
    k := if frozen then x.k
      else { x.k with
        qcount := detectorNext clear x.k.qcount
        verdict := if clear && x.k.verdict == 1 then 0 else x.k.verdict } }

/-- A bound core at the end of a cycle (R47, R48, R445). -/
def State.endCore (s : State) (c : Nat) : State :=
  let clear := s.detected c
  let frozen := s.waved c
  let s := s.count c 0 (boolWord (s.grid c).moved).toNat
  let s := s.count c 10 (s.blockedHeads c)
  let s := s.count c 11 ((s.cpOf c).unserved + (s.core c).unserved + ((s.grid c).portqs.filter fun (p : Nat × PortQ) => p.2.unserved).length)
  let s := s.count c 14 (boolWord (s.stalled c).isSome).toNat
  s.modCore c fun x =>
    { x.unitsEnd with cp := x.cp.endCycle frozen clear, grid := { x.grid with
        portqs := x.grid.portqs.map fun (p : Nat × PortQ) => (p.1, p.2.endCycle), act := false, moved := false } }

/-- The bound cores, lowest first. -/
def State.boundCores (s : State) : List Nat := (s.cores.filter fun p => p.2.cp.ctl.bound).map fun p => p.1

/-- The detector of a Plain at the end of a cycle (R47, R48); it counts while a core of the cluster is bound, and not while a
freeze wave is in progress on a group whose records it carries. A Plain that has reopened stays open (R49). -/
def State.endPlain (s : State) (k : Nat) : State :=
  let still := (rangeFrom (12 * k) 12).any fun c => s.waved c && s.carries k (s.groupOf c)
  let shut := s.plainShut k
  let act := (s.plain k).act || s.plainFillWaits k
  s.modCluster k fun x =>
    { x with
      plain := { x.plain with
        qcount := if still then x.plain.qcount else detectorNext act x.plain.qcount
        act := false, shut := shut } }

/-- What happens in a cycle at the latest by its end: an install whose step 1 is met is written and places its initial
tokens where there is room (R363), a configuration command follows the last one before it (R370), a buffer that is due is
released (R182), a `wait` ends in the first cycle in which an enabled event holds (R148), and a WAITING task becomes READY
in the first cycle that begins with its counter at 0 (R325). -/
def State.endDue (s : State) : State :=
  let s := s.installsDue s.boundCores
  let s := s.boundCores.foldl (fun (s : State) c => (((s.installsMet c).cfgDue c).sbReleases c).cancelsDue c) s
  let s := s.boundCores.foldl (fun (s : State) c => nextState s (execWaitEnd (Fin.ofNat 768 c) s)) s
  { s with
    dies := s.dies.foldl (fun l p => tabSet .reset l p.1 { p.2 with sched := p.2.sched.readyDue s.cyc s.ktime }) [] }

/-- FABRIC_CYCLE (R139, R325, R445): the counters of every bound core and its Plain, the task counters, and KCYC. -/
def execFabricCycle (s : State) : Result :=
  let r := s.endDue
  let cs := r.boundCores
  let t := cs.foldl (fun (t : State) c => t.endCore c) r
  let t := (clustersOf cs).foldl (fun (t : State) k => (t.pairCycle k).endPlain k) t
  .next { t with
    dies := t.dies.foldl (fun l p => tabSet .reset l p.1 { p.2 with sched := p.2.sched.endCycle }) []
    cyc := s.cyc + 1, kcyc := s.kcyc + 1, ktime := s.ktime }

end Sys2Proof.Machine
end

