-- ==== Sys2Proof/Machine/Kv.lean ====
section
/-!
DEFINITION. The KV directory (20 R418-R426): routing, requests and the kv forms.
-/
namespace Sys2Proof.Machine

/-! The result word (R421). -/

/-- A result with STATUS 0 or 1. -/
def kvDone (status value : Nat) : Word := word (status * 2 ^ 62 + value % 2 ^ 58)
/-- A refusal. -/
def kvRefused (code : Nat) : Word := word (2 * 2 ^ 62 + code * 2 ^ 58)
/-- An error. -/
def kvErr (code : Nat) : Word := word (3 * 2 ^ 62 + code * 2 ^ 58)

/-- The sequence of a block request word (R420). -/
def kvSeq (w : Word) : Nat := bits w 0 12
/-- The block of a block request word (R420). -/
def kvBlk (w : Word) : Nat := bits w 16 12

/-- A block request word is well formed (R420). -/
def kvWordOk (w : Word) : Bool := decide (kvBlk w < 2048) && bits w 12 4 == 0 && bits w 28 36 == 0

/-- What a request does next. -/
inductive KvEnd where
  | done (s : State) (v : Word)
  | error (s : State) (code : Nat)
  | go (s : State) (r : KvReq)
  | blocked

/-- Where die `d` sends a request for (q, b) (R418). -/
inductive KvWay where
  | here | forward (d : Nat) | error (code : Nat)
deriving DecidableEq, Repr

/-- Routing by the limit register that stands (R418). -/
def State.kvRoute (s : State) (d q b : Nat) : KvWay :=
  let r := (s.kvDie d).limit q
  if !r.v then .error 8
  else if r.limit ≤ b then
    match kvNext d with
    | some e => .forward e
    | none => .error 10
  else if b < r.start then .error 9
  else .here

/-- An entry is cleared and its page's count falls (R423). -/
def State.kvUnmap (s : State) (d q b : Nat) : State × Nat :=
  let page := s.kvEntry d q b % 2 ^ 31
  (s.kvWrite (s.kvEntryPa d q b) 4 0).kvDrop page

/-- The block is held by a `kv.share` in progress (R424). -/
def State.kvHeld (s : State) (q b : Nat) (source : Bool) : Bool := s.kv.holds.contains ⟨q, b, source⟩

/-- A hold begins or ends. -/
def State.kvHold (s : State) (h : KvHold) (on : Bool) : State :=
  { s with kv := { s.kv with holds := if on then h :: s.kv.holds else s.kv.holds.erase h } }

/-- The reads of a copy of 32,768 bytes from `src`, one for each bank word, numbered from `id` on (R208, R424). -/
def kvWordReads (src id : Nat) : List Flown :=
  (rangeFrom 0 2048).map fun j =>
    { pos := j, n := 0, known := none, bit := 0, issued := true
      accs := [{ readAcc 0 16 with id := id + j, segs := [{ pa := src + 16 * j, off := 0, n := 16, done := false }] }] }

/-- The bytes of a bank word that a copy has read: where an uncorrectable error lost a half, bits that no rule gives (R202, DESIGN
CHOICE, log entry 46). -/
def copiedBytes (free : Nat) (a : UAcc) : List Byte :=
  (a.got.zip (rangeFrom 0 a.got.length)).map fun (p : Byte × Nat) =>
    if a.lost.contains p.2 then BitVec.ofNat 8 (Config.lostBits (free + p.2 / 8) / 2 ^ (8 * (p.2 % 8))) else p.1

/-- A word of a copy that has been read is written to its place in the page at `dst` (R424). -/
def kvWordPut (free dst : Nat) (f : Flown) : Flown :=
  if f.writes || !f.done then f
  else { f with
    accs := f.accs.map fun a =>
      { a with
        put := some (0, 128, leNat (copiedBytes (free + 2 * f.pos) a)),
        segs := [{ pa := dst + 16 * f.pos, off := 0, n := 16, done := false }] } }

/-- A request handled at the die that R418 selects. -/
def State.kvHandle (s : State) (r : KvReq) : KvEnd :=
  let d := r.die
  let q := kvSeq r.a
  let b := kvBlk r.a
  let s := s.kvTouch (s.kvEntryPa d q b) 4
  match r.kind with
  | .alloc =>
    if s.kvHeld q b true then .blocked
    else if s.kvMapped d q b || s.kvHeld q b false then .done s (kvRefused 2)
    else match s.kvTake d q b with
      | some (s, page) => .done s (kvDone 0 (s.kvAddr page))
      | none => .done (s.kvBorrow d) (kvRefused 1)
  | .free _ =>
    if s.kvHeld q b true then .blocked
    else if s.kvMapped d q b then
      let p := s.kvUnmap d q b
      .done p.1 (kvDone 0 p.2)
    else .error s 11
  | .map =>
    if s.kvHeld q b true then .blocked
    else if s.kvMapped d q b then .done s (kvDone 0 (s.kvAddr (s.kvEntry d q b % 2 ^ 31)))
    else .done s (kvRefused 6)
  | _ => .error s 11

/-- The steps of `kv.share` (R424); `r.b` is the destination block and `r.a` the source block. -/
def State.kvShareStep (s : State) (r : KvReq) : KvEnd :=
  let dst : KvHold := ⟨kvSeq r.b, kvBlk r.b, false⟩
  let src : KvHold := ⟨kvSeq r.a, kvBlk r.a, true⟩
  match r.stage with
  | .first =>
    let s := s.kvTouch (s.kvEntryPa r.die dst.seq dst.blk) 4
    if s.kvHeld dst.seq dst.blk true then .blocked
    else if s.kvMapped r.die dst.seq dst.blk || s.kvHeld dst.seq dst.blk false then .done s (kvRefused 2)
    else .go (s.kvHold dst true) { r with stage := .source r.die, die := 0 }
  | .source dd =>
    let s := s.kvTouch (s.kvEntryPa r.die src.seq src.blk) 4
    if s.kvHeld src.seq src.blk true then .blocked
    else if !s.kvMapped r.die src.seq src.blk then .error s 11
    else
      let page := s.kvEntry r.die src.seq src.blk % 2 ^ 31
      .go (s.kvHold src true) { r with stage := .count dd r.die page, die := page / 2 ^ 28 % 8 }
  | .count dd sd page =>
    let n := s.kvRead (s.kvCountPa page) 2
    let s := s.kvTouch (s.kvCountPa page) 2
    if n < 0xFFFF then
      let s := (s.kvWrite (s.kvCountPa page) 2 (n + 1)).kvWrite (s.kvEntryPa dd dst.seq dst.blk) 4 (2 ^ 31 + page)
      .done ((s.kvHold src false).kvHold dst false) (kvDone 0 (s.kvAddr page))
    else .go (s.kvHold src false) { r with stage := .copy sd page, die := dd }
  | .copy _ page =>
    match s.kvTake r.die dst.seq dst.blk with
    | none => .done ((s.kvBorrow r.die).kvHold dst false) (kvRefused 1)
    | some (s, new) =>
      let src := s.kvAddr page
      if !kvOk src 32768 || !kvOk (s.kvAddr new) 32768 then
        .done ((s.kvBound (if kvOk src 32768 then s.kvAddr new else src)).kvHold dst false) (kvDone 1 (s.kvAddr new))
      else
        let id := (s.cpOf r.core).ctl.nextId
        .go (s.modCpOf r.core fun x => { x with ctl := { x.ctl with nextId := id + 2048 } })
          { r with stage := .moving new, flown := kvWordReads src id }
  | .moving new =>
    let l := (r.flown.map (kvWordPut s.free (s.kvAddr new))).filter fun f => !(f.writes && f.done)
    if l.isEmpty then .done ({ s with free := s.free + 4096 }.kvHold dst false) (kvDone 1 (s.kvAddr new))
    else if l = r.flown then .blocked
    else .go { s with free := s.free + 4096 } { r with flown := l }

/-- `kv.free` with ALL (R423) at one die of the chain. -/
def State.kvFreeAll (s : State) (r : KvReq) : KvEnd :=
  let q := kvSeq r.a
  let l := s.kvBlocks r.die q
  let s := s.kvScan r.die q
  if l.any fun b => s.kvHeld q b true then .blocked
  else
    let s := l.foldl (fun s b => (s.kvUnmap r.die q b).1) s
    let n := r.freed + l.length
    match kvNext r.die with
    | some e => .go s { r with die := e, freed := n }
    | none => .done s (kvDone 0 n)

/-- `kv.limit` at its die (R425). -/
def State.kvSetLimit (s : State) (r : KvReq) (clr : Bool) : KvEnd :=
  let q := kvSeq r.a
  let start := bits r.b 0 12
  let limit := bits r.b 16 12
  let old := (s.kvDie r.die).limit q
  let mapped := s.kvBlocks r.die q
  let s := s.kvScan r.die q
  let put := fun (s : State) (l : KvLimit) =>
    s.modKv r.die fun x => { x with limits := tabSet .reset x.limits q l }
  if clr then
    if mapped.isEmpty then .done (put s { old with v := false }) (kvDone 0 0) else .done s (kvRefused 3)
  else if 2048 < limit ∨ start + 256 < limit then .done s (kvRefused 4)
  else if limit < start then .done s (kvRefused 7)
  else if old.v && (mapped.any fun b => decide (limit ≤ b) || old.start != start) then .done s (kvRefused 3)
  else
    let s := put s { v := true, start := start, limit := limit }
    let s := if old.v then s
      else (rangeFrom 0 256).foldl (fun s j => s.kvWrite (s.kvEntryPa r.die q (start + j)) 4 0) s
    .done s (kvDone 0 0)

/-- `kv.lend` at the issuing die (R425). -/
def State.kvLendStep (s : State) (r : KvReq) : KvEnd :=
  if runCount (s.kvDie r.die).free < r.b.toNat then .done s (kvRefused 5)
  else .done (s.kvMove r.die (bits r.a 0 3) r.b.toNat) (kvDone 0 r.b.toNat)

/-- One step of a request at the die where it stands. -/
def State.kvStep (s : State) (r : KvReq) : KvEnd :=
  let routed := fun (q b : Nat) (h : KvEnd) =>
    match s.kvRoute r.die q b with
    | .here => h
    | .forward e => .go s { r with die := e }
    | .error c => .error s c
  match r.kind with
  | .limit clr => s.kvSetLimit r clr
  | .lend => s.kvLendStep r
  | .free true => s.kvFreeAll r
  | .share =>
    match r.stage with
    | .first => routed (kvSeq r.b) (kvBlk r.b) (s.kvShareStep r)
    | .source _ => routed (kvSeq r.a) (kvBlk r.a) (s.kvShareStep r)
    | _ => s.kvShareStep r
  | _ => routed (kvSeq r.a) (kvBlk r.a) (s.kvHandle r)

/-- Request `i` leaves the store. -/
def State.kvRemove (s : State) (i : Nat) : State := { s with kv := { s.kv with reqs := s.kv.reqs.eraseIdx i } }

/-- The result of a request is returned; an error also makes KVERR pending, with KTVAL the A operand (R421). -/
def State.kvFinish (s : State) (i : Nat) (r : KvReq) (v : Word) (error : Bool) : State :=
  let s := (s.kvRemove i).deliver r.core r.dest v
  if error then
    let s := match r.kind, r.stage with
      | .share, .source _ => s.kvHold ⟨kvSeq r.b, kvBlk r.b, false⟩ false
      | _, _ => s
    s.pendTrap r.core causeKverr r.a
  else s

/-- An earlier request stands at the same die and is not itself held by a `kv.share` (R418, R424). -/
def State.kvBehind (s : State) (i : Nat) (r : KvReq) : Bool :=
  (s.kv.reqs.take i).any fun q =>
    q.die == r.die && (s.cpOf q.core).drained q.after &&
      match s.kvStep q with
      | .blocked => false
      | _ => true

/-- An access of a copy is performed (R198, R208). -/
def State.kvPerform (s : State) (i id j : Nat) (r : KvReq) : State :=
  match s.flownPerform r.core (originId (96 * r.die) 0) 0 r.flown id j with
  | some (t, l) => { t with kv := { t.kv with reqs := listSet t.kv.reqs i { r with flown := l } } }
  | none => s

/-- KV_REQUEST_ROUTE (R418, R422): request `i` is handled at its die, forwarded along the chain, or failed, once the
accesses ordered ahead of it are performed (R426). -/
def execKvRequestRoute (i : Nat) (s : State) : Result :=
  match s.kv.reqs[i]? with
  | none => .next s
  | some r =>
    if !(s.cpOf r.core).drained r.after || s.kvBehind i r then .next s
    else
      let s := { s with free := s.free + 1 }
      match s.kvStep r with
      | .blocked => .next s
      | .done t v => .next (t.kvFinish i r v false)
      | .error t c => .next (t.kvFinish i r (kvErr c) true)
      | .go t r' =>
        let t := t.kvRemove i
        .next { t with kv := { t.kv with reqs := t.kv.reqs ++ [r'] } }

/-! The forms (R420). -/

/-- A KV form is posted to the directory of a die, behind the core's earlier accesses in the package (R426). -/
def kvForm (s : State) (i : Instr) (g : Guard) (d : Reg) (srcs : List Src) (kind : KvKind) (die : Nat) (ok : Bool)
    (a b : Word) : Result :=
  cmdForm s i g false srcs <|
    if !ok then s.reply srcs d (kvRefused 7)
    else
      let r : KvReq :=
        { core := s.focus.val, dest := d, kind := kind, a := a, b := b, die := die, stage := .first,
          after := s.outstanding s.focus.val 3, freed := 0, flown := [] }
      let s := s.posted srcs d true
      .next { s with kv := { s.kv with reqs := s.kv.reqs ++ [r] } }

/-- `kv.alloc` (R422): allocates a page for a block. -/
def execKvAlloc (g : Guard) (d : Reg) (a : Src) (s : State) : Result :=
  let w := s.cp.val a
  kvForm s (.kvAlloc g d a) g d [a] .alloc 0 (kvWordOk w) w 0

/-- `kv.free` (R423): unmaps a block, or every block of a sequence. -/
def execKvFree (g : Guard) (d : Reg) (a : Src) (all : Bool) (s : State) : Result :=
  let w := s.cp.val a
  kvForm s (.kvFree g d a all) g d [a] (.free all) 0 (kvWordOk w && (!all || kvBlk w == 0)) w 0

/-- `kv.share` (R424): maps a destination block to a source block's page. -/
def execKvShare (g : Guard) (d : Reg) (a b : Src) (s : State) : Result :=
  let w := s.cp.val a
  let v := s.cp.val b
  kvForm s (.kvShare g d a b) g d [a, b] .share 0 (kvWordOk w && kvWordOk v) w v

/-- `kv.map` (R425): returns the page address of a block. -/
def execKvMap (g : Guard) (d : Reg) (a : Src) (s : State) : Result :=
  let w := s.cp.val a
  kvForm s (.kvMap g d a) g d [a] .map 0 (kvWordOk w) w 0

/-- `kv.limit` (R425): sets or clears a die's limit register for a sequence. -/
def execKvLimit (g : Guard) (d : Reg) (a b : Src) (clr : Bool) (s : State) : Result :=
  let w := s.cp.val a
  let v := s.cp.val b
  kvForm s (.kvLimit g d a b clr) g d [a, b] (.limit clr) (bits w 16 3)
    (bits w 12 4 == 0 && bits w 19 45 == 0 && bits v 12 4 == 0 && bits v 28 36 == 0) w v

/-- `kv.lend` (R425): moves free pages from the issuing die to another. -/
def execKvLend (g : Guard) (d : Reg) (a b : Src) (s : State) : Result :=
  let w := s.cp.val a
  let v := s.cp.val b
  let die := s.focus.val / 96
  kvForm s (.kvLend g d a b) g d [a, b] .lend die
    (bits w 3 61 == 0 && bits w 0 3 != die && v.toNat % 64 == 0 && decide (64 ≤ v.toNat ∧ v.toNat ≤ 4096)) w v

end Sys2Proof.Machine
end

