-- ==== Sys2Proof/Machine/Reset.lean ====
section
/-!
DEFINITION. The resets (07 R139, R143, 10 R204, 23 R463) and the accesses of the host and of other packages (11 R218, 23
R464).
-/
namespace Sys2Proof.Machine

/-- Memory that COLDRESET does not zero (R204): HBM4, which boot zeroes, host memory, and other packages. -/
def coldKeeps (a : Nat) : Bool := decide (a < 2 ^ 46 ∨ 4 * 2 ^ 46 ≤ a)

/-- COLDRESET (R8, R204): every state returns to its reset value; what lies outside the package, the flash, and the
future stay, and so does what was written as images. -/
def execColdreset (s : State) : Result :=
  .next { State.reset with
    agenda := s.agenda, free := s.free, images := s.images
    mem := s.mem.filter (fun p => coldKeeps p.1), ecc := s.ecc.filter (fun p => coldKeeps (8 * p.1))
    pkg := { Pkg.reset with flash := s.pkg.flash, answers := s.pkg.answers } }

/-- The scheduler after WARMRESET (R325, R326, R338): every slot is free and every image discarded; generations stay. -/
def Sched.warm (x : Sched) : Sched :=
  { Sched.reset with
    slots := x.slots.foldl (fun t p => tabSet .reset t p.1 { TSlot.reset with gen := p.2.gen }) [] }

/-- A die after WARMRESET: TVEC, CECNT (R143, R446), XROOT (R392), the generations, NEXTNUM (R454) and a stretch in
progress stay. -/
def Die.warm (x : Die) : Die :=
  { Die.reset with
    tvec := x.tvec, xroot := x.xroot, cecnt := x.cecnt, stretched := x.stretched, sched := x.sched.warm
    faults := { FaultQ.reset with next := x.faults.next } }

/-- The package after WARMRESET (R8): a field of R470 returns to its reset value unless a rule spares it, which are the
windows with their lock (R466) and KCORE.PKG (R139). The route table, the flash, and what has left over PCIe are no fields of
R470: they stay (DEDUCED, log entry 22). -/
def Pkg.warm (x : Pkg) : Pkg :=
  { Pkg.reset with
    flash := x.flash, zeroed := x.zeroed, image := x.image, wins := x.wins, lock := x.lock, routes := x.routes
    aer := x.aer, answers := x.answers, kpkg := x.kpkg }

/-- A core after WARMRESET: MXSTAT.ERR (R192) and the rotation count with LASTP (R448) stay. -/
def Core.warm (x : Core) : Core :=
  ({ Core.reset with grid := { Grid.reset with rot := x.grid.rot, lastp := x.grid.lastp } } : Core).keepErr x

/-- WARMRESET (R8, R139, R204, R392, R463): cores, clusters and dies return to their reset values but for what the
manual spares; memories and KTIME stay, and the host translation cache empties. A package that a failed link has stopped
reads FAILED with reason LINK until COLDRESET (R468). -/
def State.warm (s : State) : State :=
  { State.reset with
    agenda := s.agenda, free := s.free, images := s.images, cyc := s.cyc, ktime := s.ktime, mem := s.mem, ecc := s.ecc
    stopped := s.stopped
    dies := s.dies.foldl (fun t p => tabSet .reset t p.1 p.2.warm) []
    cores := s.cores.foldl (fun t p => tabSet .reset t p.1 p.2.warm) []
    pkg := if s.stopped then { s.pkg.warm with boot := .failed, reason := 5 } else s.pkg.warm }

/-- WARMRESET (R463). -/
def execWarmreset (s : State) : Result := .next s.warm

/-! The management block over BAR0 (R470). -/

/-- The word of the management block at an offset that is a multiple of 8; a reserved one reads as zero (R10, R470). -/
def State.mgmtRead (s : State) (o : Nat) : Word :=
  let x := s.pkg
  let bootCode := match x.boot with
    | .rom => 0
    | .verify => 1
    | .running => 2
    | .recovery => 3
    | .failed => 4
  if o = 0 then (word (x.svn.toNat * 2 ^ 16 + x.reason.toNat * 2 ^ 8 + bootCode))
  else if o = 0x8 then 0
  else if o = 0x10 then (word (x.recAddr.toNat * 2 ^ 12))
  else if o = 0x18 then (x.recLen.setWidth 64)
  else if o = 0x20 then (x.watts.setWidth 64)
  else if o = 0x28 then (word (x.stretch.toNat * 2 ^ 32 + x.maxStep.toNat * 2 ^ 4 + x.clkStep.toNat))
  else if o = 0x30 then (x.deg.setWidth 64)
  else if 0x40 ≤ o ∧ o < 0xC0 then
    let w := tabGet Window.reset x.wins ((o - 0x40) / 16)
    (if o % 16 = 0 then word (w.base.toNat * 2 ^ 12 + (boolWord w.v).toNat) else word (w.last.toNat * 2 ^ 12))
  else if o = 0xC0 then (boolWord x.lock)
  else if o = 0xC8 then (word ((boolWord x.stEn).toNat * 2 ^ 15 + x.stPkg.toNat))
  else if o = 0xD0 then
    (word (Config.minSvn.toNat * 2 ^ 32 + Config.stanumRate.toNat * 2 ^ 30 + Config.lanes.toNat * 2 ^ 12
      + Config.pwrMax.toNat))
  else if 0x800 ≤ o ∧ o < 0xC00 then
    let e := fun p => (x.route p).toNat
    let p := (o - 0x800) / 2
    (word (e p + e (p + 1) * 2 ^ 16 + e (p + 2) * 2 ^ 32 + e (p + 3) * 2 ^ 48))
  else 0

/-- A host write to a word of the management block at an offset that is a multiple of 8; `lo` and `n` say which bytes the
access writes. A reserved one ignores it (R10). -/
def State.mgmtWrite (s : State) (o lo n : Nat) (v : Word) : State :=
  let reg := fun r => nextState s (execRegisterWrite r v s)
  if o = 0x8 then (if lo = 0 && v.getLsbD 0 then s.warm else s)
  else if o = 0x10 then reg .recaddr
  else if o = 0x18 then reg .reclen
  else if o = 0x20 then reg .pwrlim
  else if o = 0x28 then reg .clkstat
  else if o = 0x30 then reg .deglvl
  else if 0x40 ≤ o ∧ o < 0xC0 then
    nextState s (execDmaWindowWrite (Fin.ofNat 8 ((o - 0x40) / 16)) (o % 16 != 0) v s)
  else if o = 0xC0 then nextState s (execDwlock v s)
  else if o = 0xC8 then nextState s (execStlinkWrite v s)
  else if 0x800 ≤ o ∧ o < 0xC00 then
    (rangeFrom 0 4).foldl (fun s j =>
      if lo ≤ 2 * j ∧ 2 * j < lo + n then
        nextState s (execRouteTableWrite (Fin.ofNat 512 ((o - 0x800) / 2 + j)) (v.extractLsb' (16 * j) 16) s)
      else s) s
  else s

/-- `v` with bytes `lo` to `lo + n - 1` replaced by those of `w`. -/
def mergeBytes (v : Word) (lo n w : Nat) : Word :=
  word (v.toNat / 2 ^ (8 * (lo + n)) * 2 ^ (8 * (lo + n)) + w % 2 ^ (8 * n) * 2 ^ (8 * lo) + v.toNat % 2 ^ (8 * lo))

/-- `n` bytes of the management block from offset `o` (R470). -/
def State.mgmtBytes (s : State) (o n : Nat) : List Byte :=
  (rangeFrom o n).map fun i => BitVec.ofNat 8 ((s.mgmtRead (i / 8 * 8)).toNat / 2 ^ (8 * (i % 8)))

/-- Bytes are written to the management block from offset `o`, word by word in rising order (DESIGN CHOICE, log entry 17). -/
def State.mgmtStore (s : State) (o : Nat) (bs : List Byte) : State :=
  (rangeFrom (o / 8) ((o + bs.length + 7) / 8 - o / 8)).foldl (fun s k =>
    let a := max o (8 * k)
    let n := min (o + bs.length) (8 * k + 8) - a
    s.mgmtWrite (8 * k) (a % 8) n (mergeBytes (s.mgmtRead (8 * k)) (a % 8) n (leNat ((bs.drop (a - o)).take n)))) s

/-- What a host request asks of its home. -/
inductive HostHome where
  | mmio (d o : Nat) | mgmt (o : Nat) | mem (pa : Nat) | none
deriving DecidableEq, Repr

/-- Where BAR2 offset `o` leads (R464). -/
def State.bar2Pa (s : State) (o : Nat) : Nat :=
  s.ownPkg * 2 ^ 49 + (if o / 2 ^ 39 % 2 = 0 then o % 2 ^ 39 else 2 ^ 46 + o % 2 ^ 39)

/-- The home of a host request of `n` bytes (R464). -/
def State.hostHome (s : State) (bar2 : Bool) (o n : Nat) (write : Bool) : HostHome :=
  if bar2 then
    let pa := s.bar2Pa o
    let last := s.bar2Pa (o + n - 1)
    if offsetOk pa && offsetOk last && (o + n - 1) / 2 ^ 39 == o / 2 ^ 39 && 0 < n then .mem pa else .none
  else if o < 0x80000 then
    let small := (n == 4 || n == 8) && o % n == 0
    match mregAt (o % 2 ^ 16) with
    | some (.tqHalf _ _, _) => .mmio (o / 2 ^ 16) (o % 2 ^ 16)
    | some _ => if small && mregAssigned (o % 2 ^ 16) write then .mmio (o / 2 ^ 16) (o % 2 ^ 16) else .none
    | none => .none
  else if o + n ≤ 0x81000 then .mgmt (o - 0x80000)
  else .none

/-- An Unsupported Request (R464): logged in AER, and nothing changes. -/
def State.unsupported (s : State) (bar2 : Bool) (o : BitVec 40) : State :=
  { s with pkg := { s.pkg with aer := s.pkg.aer ++ [.unsupported bar2 o], answers := s.pkg.answers ++ [.unsupported] } }

/-- A host write to the MMIO of a die; a 64-byte aligned write to a record port is a half of a record (R327). -/
def State.hostMmioWrite (s : State) (d o : Nat) (bs : List Byte) : State :=
  match mregAt o with
  | some (.tqHalf q second, base) =>
    if bs.length = 64 ∧ o = base then
      let v := BitVec.ofNat 512 (leNat bs)
      if second then nextState s (execTqSecondHalfWrite (Fin.ofNat 8 d) (Fin.ofNat 16 q) v s)
      else nextState s (execTqFirstHalfWrite (Fin.ofNat 8 d) (Fin.ofNat 16 q) v s)
    else s.mregWrite d (.tqHalf q second) 0
  | _ => s.mmioWrite d o bs.length (leNat bs)

/-- The bytes that a host request reads or writes. -/
def hostSize (r : HostReq) : Nat := match r.write with
  | some bs => bs.length
  | none => r.n

/-- A request that PCIe carries (R463): a payload of at most 512 bytes, or a read of at most 4,096. -/
def hostFits (r : HostReq) : Bool := decide (hostSize r ≤ if r.write.isSome then 512 else 4096)

/-- An event may happen: in a package that a failed link has stopped, COLDRESET and the host's accesses to the management
block alone, where BOOTSTAT reads FAILED (R468). -/
def State.mayStep (s : State) (i : Instr) : Bool :=
  !s.stopped || match i with
    | .coldreset => true
    | .hostAccess r => match s.hostHome r.bar2 r.off.toNat (hostSize r) r.write.isSome with
      | .mgmt _ => true
      | _ => false
    | _ => false

/-- A request from outside that spans several bank words is under way (R198, R208). -/
def State.outsideStart (s : State) (pa n : Nat) (put : Option (List Byte)) (back : Option (BitVec 9 × BitVec 18)) : State :=
  let r : OutReq :=
    { id := s.pkg.nextOut, put := put, got := [], lost := false, back := back
      segs := (wordParts pa n).map fun (p : Nat × Nat) => { pa := pa + p.1, off := p.1, n := p.2, done := false } }
  { s with pkg := { s.pkg with outside := s.pkg.outside ++ [r], nextOut := s.pkg.nextOut + 1 } }

/-- The bytes lie in one bank word (R198). -/
def oneWord (pa n : Nat) : Bool := decide (pa % 16 + n ≤ 16)

/-- What leaves for the one who asked, once every part is performed (R202, R218, R464). -/
def OutReq.answer (r : OutReq) : HostAnswer :=
  match r.back, r.put with
  | some (p, c), _ => if r.lost then .remoteFailed p c else .remote p c r.got
  | none, some _ => .done
  | none, none => .data r.got

/-- Part `j` of a request from outside is performed as one event (R198, R208). -/
def State.outsidePerform (s : State) (id j : Nat) : State :=
  match listFind (fun (r : OutReq) => r.id == id) s.pkg.outside with
  | none => s
  | some r =>
    match r.segs[j]? with
    | none => s
    | some g =>
      if g.done || s.wavedScratch g.pa then s
      else
        let segs := listSet r.segs j { g with done := true }
        let p : State × OutReq := match r.put with
          | some bs => (s.outsideWrite g.pa ((bs.drop g.off).take g.n), { r with segs := segs })
          | none =>
            let q := s.homeRead g.pa g.n
            (q.1, { r with segs := segs, got := putBytes r.got g.off q.2, lost := r.lost || s.eccBad g.pa g.n })
        let set := fun (l : List OutReq) => { p.1 with pkg := { p.1.pkg with outside := l } }
        if segs.all fun g => g.done then
          (set (p.1.pkg.outside.filter fun x => x.id != id)).answer p.2.answer
        else set (p.1.pkg.outside.map fun x => if x.id = id then p.2 else x)

/-- A posted write of the host is under way: what it sends after it waits behind it (R218). -/
def State.hostPosted (s : State) : Bool := s.pkg.outside.any fun r => r.back.isNone && r.put.isSome

/-- HOST_ACCESS (R464): a host read or write is performed at its home, or completes with Unsupported Request. One to the
scratch of a group in a freeze wave waits at the bank (R223). One that spans several bank words is performed word by word (R198).
The port receives no request above the sizes of R463, and none ahead of a posted write (R218). -/
def execHostAccess (r : HostReq) (s : State) : Result :=
  let n := hostSize r
  let o := r.off.toNat
  if !hostFits r || s.hostPosted then .next s
  else match s.hostHome r.bar2 o n r.write.isSome, r.write with
  | .none, _ => .next (s.unsupported r.bar2 r.off)
  | .mem pa, none =>
    if !oneWord pa n then .next (s.outsideStart pa n none none)
    else if s.wavedScratch pa then .next s
    else
      let p := s.homeRead pa n
      .next (p.1.answer (.data p.2))
  | .mem pa, some bs =>
    if !oneWord pa n then .next (s.outsideStart pa n (some bs) none)
    else if s.wavedScratch pa then .next s
    else .next ((s.outsideWrite pa bs).answer .done)
  | .mmio d q, none => .next (s.answer (.data (leBytes (s.mmioRead d q n) n)))
  | .mmio d q, some bs => .next ((s.hostMmioWrite d q bs).answer .done)
  | .mgmt q, none => .next (s.answer (.data (s.mgmtBytes q n)))
  | .mgmt q, some bs => .next ((s.mgmtStore q bs).answer .done)

/-- HOST_ATOMICOP (R464): FetchAdd, Swap or CAS of 32 or 64 bits to BAR2, performed as the matching atomic; any other
request completes with Unsupported Request. It waits as HOST_ACCESS does (R223), and where a half that it does not cover is
uncorrectable it completes without effect (R203). -/
def execHostAtomicop (r : HostAtomic) (s : State) : Result :=
  let n := r.width / 8
  let pa := s.bar2Pa r.off.toNat
  if (r.width = 32 ∨ r.width = 64) ∧ amoPcie r.op ∧ r.off.toNat % n = 0 ∧
      s.hostHome true r.off.toNat n true = .mem pa then
    if s.wavedScratch pa || s.hostPosted then .next s
    else
      let p := s.homeRead pa n
      let old := leNat p.2
      let w := 2 ^ r.width
      let t := match amoNew r.op (r.width = 64) old (r.operand.toNat % w) (r.comparand.toNat % w) with
        | some v => p.1.outsideWrite pa (leBytes v n)
        | none => p.1
      .next (t.answer (.old (word old)))
  else .next (s.unsupported true r.off)

/-- REMOTE_ACCESS (R218): a request of another package is performed at its home here, and its answer leaves: a failure where it
reads a half that is uncorrectable (R202). One to the scratch of a group in a freeze wave waits at the bank (R223), and one that
spans several bank words is performed word by word (R198). -/
def execRemoteAccess (r : RemoteReq) (s : State) : Result :=
  let pa := s.ownPkg * 2 ^ 49 + r.addr.toNat
  let plain := fun (n : Nat) => offsetOk pa && offsetOk (pa + n - 1) && match regionOf (paKind pa) with
    | .hbm | .basin | .scratch => true
    | _ => false
  let back := some (r.pkg, r.core)
  let reply := fun (t : State) (b : List Byte) => Host.Outcome.next (t.answer (.remote r.pkg r.core b))
  let failed := fun (t : State) => Host.Outcome.next (t.answer (.remoteFailed r.pkg r.core))
  match r.op with
  | .read n =>
    if !plain n then .next s
    else if !oneWord pa n then .next (s.outsideStart pa n none back)
    else if s.wavedScratch pa then .next s
    else
      let p := s.homeRead pa n
      if s.eccBad pa n then failed p.1 else reply p.1 p.2
  | .write bs =>
    if !plain bs.length then .next s
    else if !oneWord pa bs.length then .next (s.outsideStart pa bs.length (some bs) back)
    else if s.wavedScratch pa then .next s
    else reply (s.outsideWrite pa bs) []
  | .amo op wide b d =>
    let n := if wide then 8 else 4
    if !plain n || s.wavedScratch pa || pa % n != 0 then .next s
    else
      let p := s.homeRead pa n
      let old := leNat p.2
      let w := 2 ^ (8 * n)
      if s.eccBad pa n then failed p.1
      else
        let t := match amoNew op wide old (b.toNat % w) (d.toNat % w) with
          | some v => p.1.writeNat pa n v
          | none => p.1
        reply t (leBytes old n)

end Sys2Proof.Machine
end

