-- ==== Sys2Proof/Machine/Flights.lean ====
section
/-! DEFINITION. BANK_ACCESS (10 R198, R199; 11 R208-R214): a home performs one part of an access of a control processor, of a unit
or an engine, or of one from outside; and the failure of a request to another package (23 R469). -/
namespace Sys2Proof.Machine

/-- A part of an access of a stream of core c is performed (R198, R208, R214). -/
def State.streamAccess (s : State) (c n id j : Nat) : State :=
  let x := s.stream c (n / 4) (n % 4)
  match flownRequest x.x.flown id j with
  | none => s
  | some (a, g) =>
    if s.waveBars c g.pa then s
    else
      let w3 := word (x.sid (n / 4) (n % 4) * 2 ^ 48 + x.x.posOf id)
      let p := s.unitPerform c (originId c (0x30 + n / 4)) w3 a j g
      let q := x.x.putAcc p.2
      (((p.1).setStream c (n / 4) (n % 4) { x with x := q.1 }).count c 7 q.2).active c

/-- A part of an access of a template's copy is performed (R198, R208, R216). -/
def State.copyAccess (s : State) (c n id j : Nat) : State :=
  let t := s.tpl c n
  match flownRequest t.x.flown id j with
  | none => s
  | some (a, g) =>
    if s.waveBars c g.pa then s
    else
      let p := s.unitPerform c (originId c (0x30 + t.ag)) (word (t.sid n * 2 ^ 48 + t.x.posOf id)) a j g
      ((p.1).setTpl c n { t with x := (t.x.putAcc p.2).1 }).active c

/-- Whose access a number names at core c (R206). -/
inductive Issuer where
  | stream (n : Nat) | copy (n : Nat) | coll (i : Nat) | pair (o : PairOp) | kv (i : Nat) (r : KvReq) | none
deriving DecidableEq, Repr

/-- The unit or engine that has issued the access of this number for core c. -/
def State.issuer (s : State) (c id : Nat) : Issuer :=
  let mine := fun (l : List Flown) => hasAccess l id
  match listFind (fun (p : Nat × Stream) => mine p.2.x.flown) (s.units c).streams with
  | some p => .stream p.1
  | none =>
  match listFind (fun (p : Nat × Tpl) => mine p.2.x.flown) (s.units c).tpls with
  | some p => .copy p.1
  | none =>
  match listFind (fun (p : Nat × CollSlot) => mine p.2.flown) (s.core c).colls with
  | some p => .coll p.1
  | none =>
  match (s.pair (c / 12)).op.filter fun o => o.core == c && (mine o.ahead || mine o.cell || mine o.puts) with
  | some o => .pair o
  | none =>
  match listFind (fun (p : KvReq × Nat) => p.1.core == c && mine p.1.flown) (s.kv.reqs.zip (rangeFrom 0 s.kv.reqs.length)) with
  | some p => .kv p.2 p.1
  | none => .none

/-- A part of an access of one of the core's units or engines, if it is one of theirs. -/
def State.unitAccess (s : State) (c id j : Nat) : State :=
  match s.issuer c id with
  | .stream n => s.streamAccess c n id j
  | .copy n => s.copyAccess c n id j
  | .coll i => s.collPerform c i id j
  | .pair o => s.pairPerform (c / 12) o id j
  | .kv i r => s.kvPerform i id j r
  | .none => s

/-- BANK_ACCESS (R199, R208): the home performs one part of a request, of core c or from outside; a request of the control
processor that fails there has no effect. -/
def execBankAccess (who : Requester) (id seg : Nat) (s : State) : Result :=
  match who with
  | .outside => .next (s.outsidePerform id seg)
  | .core c =>
  match listFind (fun r => r.id == id) (s.cpOf c.val).ctl.reqs with
  | none => .next (s.unitAccess c.val id seg)
  | some r =>
    match r.segs[seg]? with
    | none => .next s
    | some g =>
      if g.done || s.reqBarred c.val r then .next s
      else match s.lateFail r, r.op.reads with
        | some f, true => .next (s.failRead c.val r f)
        | some f, false => .next (s.failStore c.val r f)
        | none, _ => .next (s.perform c.val r seg g)

/-! A link that fails (R469). -/

/-- The access of this number has a part in another package that is not performed, at this physical address. -/
def State.farPart (s : State) (l : List Flown) (id : Nat) : Option Nat :=
  match listFind (fun a => a.id == id) (flownAccs l) with
  | some a => (listFind (fun g => !g.done && !s.isOwn g.pa) a.segs).map fun g => g.pa
  | none => none

/-- The recall of an access that fails on its way, with its position and cause (R221, R469). -/
def State.replayFail (s : State) (l : List Flown) (id : Nat) : Option (List Flown × Nat × Fail) :=
  match s.farPart l id, recallFrom l id with
  | some pa, some (l, n) => some (l, n, ⟨causeRemote, word pa⟩)
  | _, _ => none

/-- A request of a unit or engine of core c stays unacknowledged: its access stream is withheld with REMOTE (R221, R455, R469). -/
def State.unitReplay (s : State) (c id : Nat) : State :=
  match s.issuer c id with
  | .stream n =>
    let x := s.stream c (n / 4) (n % 4)
    (match s.replayFail x.x.flown id with
    | some (l, k, f) =>
      if x.phase != .running || x.cancelling then s
      else (s.setStream c (n / 4) (n % 4) { x with x := { x.x with flown := l } }).streamFault c (n / 4) (n % 4) k f
    | none => s)
  | .copy n =>
    let t := s.tpl c n
    (match s.replayFail t.x.flown id with
    | some (l, k, f) =>
      if t.phase != .copying then s else (s.setTpl c n { t with x := { t.x with flown := l } }).tplFault c n k f
    | none => s)
  | .coll i =>
    let x := s.coll c i
    (match s.replayFail x.flown id with
    | some (l, k, f) => if x.held then s else (s.setColl c i { x with flown := l }).collHold c i k f
    | none => s)
  | .pair o =>
    let k := c / 12
    if (s.pair k).held then s
    else (match s.replayFail o.ahead id, s.replayFail o.cell id, s.replayFail o.puts id with
    | some (l, n, f), _, _ => let o := { o with ahead := l }
      (s.setPairOp k o).pairHold k o n f
    | none, some (l, n, f), _ => let o := { o with cell := l }
      (s.setPairOp k o).pairHold k o n f
    | none, none, some (l, n, f) => let o := { o with puts := l }
      (s.setPairOp k o).pairHold k o n f
    | none, none, none => s)
  | _ => s

/-- REMOTE_REPLAY_FAILURE (R469): a request to another package stays unacknowledged and fails at its issuer. A store of
which a part has been performed has been acknowledged in that part, and no longer fails (R228). -/
def execRemoteReplayFailure (c : CoreIx) (id : Nat) (s : State) : Result :=
  match listFind (fun r => r.id == id) (s.cpOf c.val).ctl.reqs with
  | none => .next (s.unitReplay c.val id)
  | some r =>
    if !((r.far || !r.op.reads) && r.segs.any (fun g => !s.isOwn g.pa) && !(!r.op.reads && r.segs.any fun g => g.done)) then
      .next s
    else
      let f : Fail := ⟨causeRemote, word (segEnds r.segs).1⟩
      if r.op.reads then .next (s.failRead c.val r f) else .next (s.failStore c.val r f)

end Sys2Proof.Machine
end

