-- ==== Sys2Proof/Machine/Float.lean ====
section
/-!
DEFINITION. The scalar floating-point forms of major 0x0B (R162-R168). Flags are sticky in KFPM.FLAGS (R163).
-/
namespace Sys2Proof.Machine

/-- The rounding mode in force (R161, R162). -/
def Cp.rmode (x : Cp) : RMode := scalarMode x.k.rm

/-- Flags raised are added to KFPM.FLAGS (R163). -/
def Cp.raiseFlags (x : Cp) (fl : FFlags) : Cp := { x with k := { x.k with flags := x.k.flags ||| fl } }

/-- A form that writes one general register and raises flags. -/
def fpForm (s : State) (i : Instr) (g : Guard) (srcs : List Src) (d : Reg) (r : Word × FFlags) : Result :=
  runForm s i g false srcs (.next (s.retire srcs fun x => (x.put d r.1).raiseFlags r.2))

/-- `fadd` (R164): Scalar floating add rounded by KFPM.RM. -/
def execFadd (g : Guard) (f : Prec) (d : Reg) (a : Src) (b : Src) (s : State) : Result :=
  fpForm s (.fadd g f d a b) g [a, b] d (fpAdd f s.cp.rmode (s.cp.val a) (s.cp.val b))

/-- `fsub` (R164): Scalar floating subtract. -/
def execFsub (g : Guard) (f : Prec) (d : Reg) (a : Src) (b : Src) (s : State) : Result :=
  fpForm s (.fsub g f d a b) g [a, b] d (fpSub f s.cp.rmode (s.cp.val a) (s.cp.val b))

/-- `fmul` (R164): Scalar floating multiply. -/
def execFmul (g : Guard) (f : Prec) (d : Reg) (a : Src) (b : Src) (s : State) : Result :=
  fpForm s (.fmul g f d a b) g [a, b] d (fpMul f s.cp.rmode (s.cp.val a) (s.cp.val b))

/-- `fdiv` (R164): Scalar floating divide. -/
def execFdiv (g : Guard) (f : Prec) (d : Reg) (a : Src) (b : Src) (s : State) : Result :=
  fpForm s (.fdiv g f d a b) g [a, b] d (fpDiv f s.cp.rmode (s.cp.val a) (s.cp.val b))

/-- `fsqrt` (R164): Scalar floating square root. -/
def execFsqrt (g : Guard) (f : Prec) (d : Reg) (a : Src) (s : State) : Result :=
  fpForm s (.fsqrt g f d a) g [a] d (fpSqrt f s.cp.rmode (s.cp.val a))

/-- `ffma` (R164): Scalar fused multiply-add with one rounding. -/
def execFfma (g : Guard) (f : Prec) (d : Reg) (a : Src) (b : Src) (c : Src) (s : State) : Result :=
  fpForm s (.ffma g f d a b c) g [a, b, c] d (fpFma f s.cp.rmode (s.cp.val a) (s.cp.val b) (s.cp.val c))

/-- `fmin` (R165): Scalar floating minimum with NaN and signed-zero rules. -/
def execFmin (g : Guard) (f : Prec) (d : Reg) (a : Src) (b : Src) (s : State) : Result :=
  fpForm s (.fmin g f d a b) g [a, b] d (fpMinMax f false (s.cp.val a) (s.cp.val b))

/-- `fmax` (R165): Scalar floating maximum with NaN and signed-zero rules. -/
def execFmax (g : Guard) (f : Prec) (d : Reg) (a : Src) (b : Src) (s : State) : Result :=
  fpForm s (.fmax g f d a b) g [a, b] d (fpMinMax f true (s.cp.val a) (s.cp.val b))

/-- `fcmp` (R166): Compares two floating values and writes a predicate. -/
def execFcmp (g : Guard) (f : Prec) (rel : FRel) (d : PReg) (a : Src) (b : Src) (s : State) : Result :=
  let r := fpCmp f rel (s.cp.val a) (s.cp.val b)
  runForm s (.fcmp g f rel d a b) g false [a, b]
    (.next (s.retire [a, b] fun x => (x.putPred d r.1).raiseFlags r.2))

/-- `fcvt` (R167): Converts between floating and integer formats. -/
def execFcvt (g : Guard) (f : Prec) (fromInt : Bool) (n : FNum) (d : Reg) (a : Src) (s : State) : Result :=
  fpForm s (.fcvt g f fromInt n d a) g [a] d (fpConvert f fromInt n s.cp.rmode (s.cp.val a))

/-- `fclass` (R168): Writes a one-hot class mask of a floating value. -/
def execFclass (g : Guard) (f : Prec) (d : Reg) (a : Src) (s : State) : Result :=
  aluForm s (.fclass g f d a) g [a] d (fpClass f (s.cp.val a))

end Sys2Proof.Machine
end

