-- ==== Sys2Proof/Machine/LoadStore.lean ====
section
/-!
DEFINITION. The loads, stores and atomics of majors 0x06-0x08 (12 R224-R231).
-/
namespace Sys2Proof.Machine

/-- `ld.s8` (R224): loads a sign-extended byte. -/
def execLdS8 (g : Guard) (d : Reg) (m : MemOp) (s : State) : Result :=
  loadForm s (.ldS8 g d m) g d m 1 true

/-- `ld.z8` (R224): loads a zero-extended byte. -/
def execLdZ8 (g : Guard) (d : Reg) (m : MemOp) (s : State) : Result :=
  loadForm s (.ldZ8 g d m) g d m 1 false

/-- `ld.s16` (R224): loads a sign-extended halfword. -/
def execLdS16 (g : Guard) (d : Reg) (m : MemOp) (s : State) : Result :=
  loadForm s (.ldS16 g d m) g d m 2 true

/-- `ld.z16` (R224): loads a zero-extended halfword. -/
def execLdZ16 (g : Guard) (d : Reg) (m : MemOp) (s : State) : Result :=
  loadForm s (.ldZ16 g d m) g d m 2 false

/-- `ld.s32` (R224): loads a sign-extended word. -/
def execLdS32 (g : Guard) (d : Reg) (m : MemOp) (s : State) : Result :=
  loadForm s (.ldS32 g d m) g d m 4 true

/-- `ld.z32` (R224): loads a zero-extended word. -/
def execLdZ32 (g : Guard) (d : Reg) (m : MemOp) (s : State) : Result :=
  loadForm s (.ldZ32 g d m) g d m 4 false

/-- `ld.64` (R224): loads a doubleword. -/
def execLd64 (g : Guard) (d : Reg) (m : MemOp) (s : State) : Result :=
  loadForm s (.ld64 g d m) g d m 8 false

/-- `st.8` (R224, R228): posts a store of 1 byte. -/
def execSt8 (g : Guard) (v : Src) (m : MemOp) (s : State) : Result := storeForm s (.st8 g v m) g v m 1

/-- `st.16` (R224, R228): posts a store of 2 bytes. -/
def execSt16 (g : Guard) (v : Src) (m : MemOp) (s : State) : Result := storeForm s (.st16 g v m) g v m 2

/-- `st.32` (R224, R228): posts a store of 4 bytes. -/
def execSt32 (g : Guard) (v : Src) (m : MemOp) (s : State) : Result := storeForm s (.st32 g v m) g v m 4

/-- `st.64` (R224, R228): posts a store of 8 bytes. -/
def execSt64 (g : Guard) (v : Src) (m : MemOp) (s : State) : Result := storeForm s (.st64 g v m) g v m 8

/-- `amo.add` on 64 bits (R229, R230). -/
def execAmoAdd64 (g : Guard) (d : Reg) (b : Src) (m : AmoOperand) (s : State) : Result :=
  amoForm s (.amoAdd64 g d b m) g d b m .add true

/-- `amo.min` on 64 bits (R229, R230). -/
def execAmoMin64 (g : Guard) (d : Reg) (b : Src) (m : AmoOperand) (s : State) : Result :=
  amoForm s (.amoMin64 g d b m) g d b m .min true

/-- `amo.max` on 64 bits (R229, R230). -/
def execAmoMax64 (g : Guard) (d : Reg) (b : Src) (m : AmoOperand) (s : State) : Result :=
  amoForm s (.amoMax64 g d b m) g d b m .max true

/-- `amo.minz` on 64 bits (R229, R230). -/
def execAmoMinz64 (g : Guard) (d : Reg) (b : Src) (m : AmoOperand) (s : State) : Result :=
  amoForm s (.amoMinz64 g d b m) g d b m .minz true

/-- `amo.maxz` on 64 bits (R229, R230). -/
def execAmoMaxz64 (g : Guard) (d : Reg) (b : Src) (m : AmoOperand) (s : State) : Result :=
  amoForm s (.amoMaxz64 g d b m) g d b m .maxz true

/-- `amo.and` on 64 bits (R229, R230). -/
def execAmoAnd64 (g : Guard) (d : Reg) (b : Src) (m : AmoOperand) (s : State) : Result :=
  amoForm s (.amoAnd64 g d b m) g d b m .and true

/-- `amo.or` on 64 bits (R229, R230). -/
def execAmoOr64 (g : Guard) (d : Reg) (b : Src) (m : AmoOperand) (s : State) : Result :=
  amoForm s (.amoOr64 g d b m) g d b m .or true

/-- `amo.xor` on 64 bits (R229, R230). -/
def execAmoXor64 (g : Guard) (d : Reg) (b : Src) (m : AmoOperand) (s : State) : Result :=
  amoForm s (.amoXor64 g d b m) g d b m .xor true

/-- `amo.swap` on 64 bits (R229, R230). -/
def execAmoSwap64 (g : Guard) (d : Reg) (b : Src) (m : AmoOperand) (s : State) : Result :=
  amoForm s (.amoSwap64 g d b m) g d b m .swap true

/-- `amo.cas` on 64 bits (R229, R230). -/
def execAmoCas64 (g : Guard) (d : Reg) (b : Src) (m : AmoOperand) (s : State) : Result :=
  amoForm s (.amoCas64 g d b m) g d b m .cas true

/-- `amo.fadd` on 64 bits (R231). -/
def execAmoFadd64 (g : Guard) (d : Reg) (b : Src) (m : AmoOperand) (s : State) : Result :=
  amoForm s (.amoFadd64 g d b m) g d b m .fadd true

/-- `amo.add` on 32 bits (R229, R230). -/
def execAmoAdd32 (g : Guard) (d : Reg) (b : Src) (m : AmoOperand) (s : State) : Result :=
  amoForm s (.amoAdd32 g d b m) g d b m .add false

/-- `amo.min` on 32 bits (R229, R230). -/
def execAmoMin32 (g : Guard) (d : Reg) (b : Src) (m : AmoOperand) (s : State) : Result :=
  amoForm s (.amoMin32 g d b m) g d b m .min false

/-- `amo.max` on 32 bits (R229, R230). -/
def execAmoMax32 (g : Guard) (d : Reg) (b : Src) (m : AmoOperand) (s : State) : Result :=
  amoForm s (.amoMax32 g d b m) g d b m .max false

/-- `amo.minz` on 32 bits (R229, R230). -/
def execAmoMinz32 (g : Guard) (d : Reg) (b : Src) (m : AmoOperand) (s : State) : Result :=
  amoForm s (.amoMinz32 g d b m) g d b m .minz false

/-- `amo.maxz` on 32 bits (R229, R230). -/
def execAmoMaxz32 (g : Guard) (d : Reg) (b : Src) (m : AmoOperand) (s : State) : Result :=
  amoForm s (.amoMaxz32 g d b m) g d b m .maxz false

/-- `amo.and` on 32 bits (R229, R230). -/
def execAmoAnd32 (g : Guard) (d : Reg) (b : Src) (m : AmoOperand) (s : State) : Result :=
  amoForm s (.amoAnd32 g d b m) g d b m .and false

/-- `amo.or` on 32 bits (R229, R230). -/
def execAmoOr32 (g : Guard) (d : Reg) (b : Src) (m : AmoOperand) (s : State) : Result :=
  amoForm s (.amoOr32 g d b m) g d b m .or false

/-- `amo.xor` on 32 bits (R229, R230). -/
def execAmoXor32 (g : Guard) (d : Reg) (b : Src) (m : AmoOperand) (s : State) : Result :=
  amoForm s (.amoXor32 g d b m) g d b m .xor false

/-- `amo.swap` on 32 bits (R229, R230). -/
def execAmoSwap32 (g : Guard) (d : Reg) (b : Src) (m : AmoOperand) (s : State) : Result :=
  amoForm s (.amoSwap32 g d b m) g d b m .swap false

/-- `amo.cas` on 32 bits (R229, R230). -/
def execAmoCas32 (g : Guard) (d : Reg) (b : Src) (m : AmoOperand) (s : State) : Result :=
  amoForm s (.amoCas32 g d b m) g d b m .cas false

/-- `amo.fadd` on 32 bits (R231). -/
def execAmoFadd32 (g : Guard) (d : Reg) (b : Src) (m : AmoOperand) (s : State) : Result :=
  amoForm s (.amoFadd32 g d b m) g d b m .fadd false

end Sys2Proof.Machine
end

