-- ==== Sys2Proof/Machine/System.lean ====
section
/-!
DEFINITION. The system forms but for `wait` (08 R147-R150) and the k-register forms (07 R138-R140, 08 R160).
-/
namespace Sys2Proof.Machine

/-- `nop` (R147): only last-use vacancies take effect, and it names no register. -/
def execNop (g : Guard) (s : State) : Result := runForm s (.nop g) g false [] (.next (s.retire [] id))

/-- `halt` (R150): privileged; the control processor issues no further instruction. -/
def execHalt (g : Guard) (s : State) : Result :=
  runForm s (.halt g) g true []
    (.next (s.retire [] fun x => { x with ctl := { x.ctl with halted := true } }))

/-- `trap` (R147): raises TRAPI with the code. -/
def execTrap (g : Guard) (code : BitVec 16) (s : State) : Result :=
  runForm s (.trap g code) g false [] (s.raise causeTrapi (code.setWidth 64))

/-- `tret` (R149): privileged; returns from a trap. -/
def execTret (g : Guard) (s : State) : Result :=
  runForm s (.tret g) g true [] (.next (s.modCp Cp.tret))

/-- `brk` (R147): raises BRK with the code. -/
def execBrk (g : Guard) (code : BitVec 16) (s : State) : Result :=
  runForm s (.brk g code) g false [] (s.raise causeBrk (code.setWidth 64))

/-- The value of a k-register of core `c` (R139): reserved bits read zero. -/
def State.kread (s : State) (c : Nat) (r : KReg) : Word :=
  let k := (s.cpOf c).k
  match r with
  | .kstat => boolWord k.psys <<< 5 ||| boolWord k.sys <<< 4 ||| boolWord k.vread <<< 1 ||| boolWord k.vstrict
  | .kcause => k.cause.setWidth 64
  | .kepc => k.epcRead
  | .ktval => k.tval
  | .ktvec => k.tvec.setWidth 64 <<< 3
  | .kscratch => k.scratch
  | .kfpm => k.flags.setWidth 64 <<< 4 ||| k.rm.setWidth 64
  | .kevt => k.evt.setWidth 64
  | .kctx => k.ctag.setWidth 64
  | .kcore => s.pkg.kpkg.setWidth 64 <<< 18 ||| word (originId c 0)
  | .ktask => k.queue.setWidth 64 <<< 8 ||| k.slot.setWidth 64
  | .kgroup => k.first.setWidth 64 <<< 18 ||| k.rank.setWidth 64 <<< 8 ||| k.shape.setWidth 64
  | .kargbase => k.argbase
  | .kprio => k.prio.setWidth 64
  | .kqui => k.verdict.setWidth 64 <<< 16 ||| k.qcount.setWidth 64
  | .kcyc => s.kcyc
  | .ktime => s.ktime

/-- The three writing forms of R160. -/
inductive KOp where
  | write | set | clear
deriving DecidableEq, Repr

/-- The new value of an RW or RWS field `f` whose bits of the operand are `x` (R160). -/
def kfield {n : Nat} (op : KOp) (f x : BitVec n) : BitVec n :=
  match op with
  | .write => x
  | .set => f ||| x
  | .clear => f &&& ~~~x

/-- The new value of a W1C field (R160). -/
def kfieldW1c {n : Nat} (op : KOp) (f x : BitVec n) : BitVec n :=
  match op with
  | .set => f
  | _ => f &&& ~~~x

/-- The k-registers after a write (R160): RO fields and reserved bits keep their value, and KFPM.RM keeps its value
when the new one is above 3. -/
def KRegs.kwrite (k : KRegs) (r : KReg) (op : KOp) (v : Word) : KRegs :=
  match r with
  | .kstat =>
    { k with
      vread := kfieldW1c op (BitVec.ofBool k.vread) (v.extractLsb' 1 1) == 1#1
      vstrict := kfield op (BitVec.ofBool k.vstrict) (v.extractLsb' 0 1) == 1#1 }
  | .kepc => { k with epc := kfield op k.epc v }
  | .ktvec => { k with tvec := kfield op k.tvec (v.extractLsb' 3 61) }
  | .kscratch => { k with scratch := kfield op k.scratch v }
  | .kfpm =>
    let n := kfield op k.rm (v.extractLsb' 0 3)
    { k with
      flags := kfieldW1c op k.flags (v.extractLsb' 4 5)
      rm := if n.toNat < 4 then n else k.rm }
  | .kevt => { k with evt := kfield op k.evt (v.extractLsb' 0 4) }
  | _ => k

/-- Registers of class System, whose writes are privileged (R107, R138). -/
def kregSystem (r : KReg) : Bool :=
  match r with
  | .kcause | .kepc | .ktval | .ktvec | .kscratch => true
  | _ => false

/-- `krd` (R160): reads a k-register. -/
def execKrd (g : Guard) (d : Reg) (k : KReg) (s : State) : Result :=
  runForm s (.krd g d k) g false [] (.next (s.retire [] fun x => x.put d (s.kread s.focus.val k)))

/-- The shared effect of `kwr`, `kset` and `kclr` (R160); a vacant read sets KSTAT.VREAD before KSTAT is written. -/
def kwriteForm (s : State) (i : Instr) (g : Guard) (k : KReg) (op : KOp) (a : Src) : Result :=
  runForm s i g (kregSystem k) [a]
    (.next (s.retire [a] fun x => { x with k := x.k.kwrite k op (s.cp.val a) }))

/-- `kwr` (R160): writes a k-register field by field. -/
def execKwr (g : Guard) (k : KReg) (a : Src) (s : State) : Result := kwriteForm s (.kwr g k a) g k .write a

/-- `kset` (R160): sets bits of RW fields. -/
def execKset (g : Guard) (k : KReg) (a : Src) (s : State) : Result := kwriteForm s (.kset g k a) g k .set a

/-- `kclr` (R160): clears bits of RW and W1C fields. -/
def execKclr (g : Guard) (k : KReg) (a : Src) (s : State) : Result := kwriteForm s (.kclr g k a) g k .clear a

end Sys2Proof.Machine
end

