-- ==== Sys2Proof/Machine/Translate.lean ====
section
/-!
DEFINITION. The translation forms and the page walk (18 R382-R390).
-/
namespace Sys2Proof.Machine

/-- PAGE_WALK (R382, R384): the cluster's walker walks an address that both TLBs miss, and they hold the result; a walk that
fails leaves nothing. It follows every access that its core has issued (R386): the walk for an access that none of them
precedes is made with that access, by State.lookup. -/
def execPageWalk (c : CoreIx) (va : Word) (s : State) : Result :=
  let root := (s.cpOf c.val).ctl.xroot
  if (s.cpOf c.val).ctl.bound && canonical va.toNat && !s.tlbHit c.val root va.toNat && (s.cpOf c.val).ctl.reqs.isEmpty then
    .next (s.lookup c.val root va.toNat).1
  else .next s

/-! `xlat.inv` (R388). -/

/-- The entry is removed (R388). -/
def Xlat.gone (x : Xlat) (mode : Nat) (root : BitVec 58) (va : Nat) : Bool :=
  match mode with
  | 0 => x.covers root va
  | 1 => x.root == root
  | _ => true

/-- The core lies within a scope of core c (R207). -/
def coreInScope (sc c n : Nat) : Bool :=
  match sc with
  | 0 => n == c
  | 1 => n / 12 == c / 12
  | 2 => n / 96 == c / 96
  | _ => true

/-- The translations that `xlat.inv` removes: of the cores within scope, and of their clusters, whose TLBs serve them. -/
def State.goneWithin (s : State) (sc c : Nat) (gone : Xlat → Bool) : List Xlat :=
  let own := s.cores.flatMap fun (p : Nat × Core) =>
    if coreInScope sc c p.1 then
      p.2.tlb ++ (p.2.units.streams.filterMap fun (q : Nat × Stream) => q.2.x.xl)
        ++ (p.2.units.tpls.filterMap fun (q : Nat × Tpl) => q.2.x.xl)
    else []
  let shared := s.clusters.flatMap fun (p : Nat × Cluster) =>
    if coreInScope (max sc 1) c (12 * p.1) then p.2.tlb else []
  (own ++ shared).filter gone

/-- What a core's control processor, streams, copies and collectives have issued. -/
def Core.segs (x : Core) : List Seg :=
  (x.cp.ctl.reqs.flatMap fun r => r.segs)
    ++ (x.colls.flatMap fun (p : Nat × CollSlot) => (flownAccs p.2.flown).flatMap fun a => a.segs)
    ++ (x.units.streams.flatMap fun (p : Nat × Stream) => p.2.x.accs.flatMap fun a => a.segs)
    ++ x.units.tpls.flatMap fun (p : Nat × Tpl) => p.2.x.accs.flatMap fun a => a.segs

/-- What a pair engine has issued. -/
def PairOp.segs (o : PairOp) : List Seg :=
  (flownAccs o.ahead ++ flownAccs o.cell ++ flownAccs o.puts).flatMap fun a => a.segs

/-- An access that has issued and is not performed lies in the page of a translation (R388). -/
def Xlat.under (x : Xlat) (l : List Seg) : Bool :=
  l.any fun g => !g.done && decide (x.pa ≤ g.pa ∧ g.pa < x.pa + 2 ^ (12 + x.k))

/-- An access that used a translation is not performed: of a core's units, or of a pair engine for the core that commands
it (R388). -/
def State.pageInUse (s : State) (x : Xlat) : Bool :=
  (s.cores.any fun (p : Nat × Core) => x.root == p.2.cp.ctl.xroot && x.under p.2.segs)
    || s.clusters.any fun (p : Nat × Cluster) => match p.2.pair.op with
      | some o => x.root == (s.cpOf o.core).ctl.xroot && x.under o.segs
      | none => false

/-- A per-stream entry that is removed: the stream translates again at its next element. -/
def Xfer.dropXl (x : Xfer) (gone : Xlat → Bool) : Xfer := { x with xl := x.xl.filter fun e => !gone e }

/-- The translations of a core without those removed. -/
def Core.dropXlats (x : Core) (gone : Xlat → Bool) : Core :=
  { x with
    tlb := x.tlb.filter fun e => !gone e
    units := { x.units with
      streams := x.units.streams.map fun (p : Nat × Stream) => (p.1, { p.2 with x := p.2.x.dropXl gone })
      tpls := x.units.tpls.map fun (p : Nat × Tpl) => (p.1, { p.2 with x := p.2.x.dropXl gone }) } }

/-- The removal of `xlat.inv`. -/
def State.dropXlats (s : State) (sc c : Nat) (gone : Xlat → Bool) : State :=
  let cs := (s.cores.map fun (p : Nat × Core) => p.1).filter (coreInScope sc c)
  let ks := (s.clusters.map fun (p : Nat × Cluster) => p.1).filter fun k => coreInScope (max sc 1) c (12 * k)
  let s := cs.foldl (fun (s : State) n => s.modCore n fun x => x.dropXlats gone) s
  ks.foldl (fun (s : State) k => s.modCluster k fun x => { x with tlb := x.tlb.filter fun e => !gone e }) s

/-- `xlat.inv` (R388): it waits for the earlier CP stores of the core and for the accesses that used what it removes. -/
def execXlatInv (g : Guard) (d : Reg) (a b : Src) (scope : BitVec 3) (mode : BitVec 2) (s : State) : Result :=
  cmdForm s (.xlatInv g d a b scope mode) g true [a, b] <|
    let c := s.focus.val
    let root := (s.cp.val b).setWidth 58
    let gone := fun (x : Xlat) => x.gone mode.toNat root (s.cp.val a).toNat
    let value := fun (t : State) (v : Word) => Host.Outcome.next ((t.posted [a, b] d true).deliver c d v)
    if mode = 3 then value s 0x4000000000000000
    else if s.cp.ctl.reqs.any (fun r => r.op.writes) || (s.goneWithin scope.toNat c gone).any s.pageInUse then .next s
    else value (s.dropXlats scope.toNat c gone) 0

/-- What `xlat.probe` writes (R389). -/
def probeWord (leaf : Bool) (va : Nat) (w : WalkEnd) : Word :=
  match w with
  | .leaf x e => if leaf then e else word (x.phys va % 2 ^ 58)
  | .stop f l => word (2 ^ 63 + l * 2 ^ 8 + f.cause.toNat)

/-- `xlat.probe` (R389): a walk after the earlier CP stores (R386), without a TLB. -/
def execXlatProbe (g : Guard) (d : Reg) (a b : Src) (leaf : Bool) (s : State) : Result :=
  cmdForm s (.xlatProbe g d a b leaf) g true [a, b] <|
    let va := (s.cp.val a).toNat
    if s.cp.ctl.reqs.any fun r => r.op.writes then .next s
    else
      let p := s.walk ((s.cp.val b).setWidth 58) va
      .next ((p.1.posted [a, b] d true).deliver s.focus.val d (probeWord leaf va p.2))

/-! `xlat.res` (R390). -/

/-- A stream is resumed (R221, R456). -/
def State.resumeStream (s : State) (c ag : Nat) (a : Word) : State × Nat :=
  match s.named c ag a with
  | none => (s, 3)
  | some i =>
    let x := s.stream c ag i
    if x.phase ≠ .withheld ∨ x.cancelling then (s, 1)
    else if x.terminal then (s, 2)
    else (s.setStream c ag i { x with phase := .running, x := { x.x with xl := none } }, 0)

/-- A template whose frame names the generator is resumed. -/
def State.resumeTpl (s : State) (c ag n : Nat) : State × Nat :=
  let t := s.tpl c n
  match s.frameFor c (0x50 + n) t.arm.ctag with
  | none => (s, 3)
  | some f =>
    if fb f 219 217 ≠ ag then (s, 3)
    else if t.phase ≠ .withheld then (s, 1)
    else if t.terminal then (s, 2)
    else (s.setTpl c n { t with phase := .copying, x := { t.x with xl := none } }, 0)

/-- The collective or engine operation that a record of the core's die names is resumed; a record of cause CFGERR or DUPTAG
names work that cannot be. -/
def State.resumeRecord (s : State) (c num : Nat) : State × Nat :=
  match s.collByNum (c / 96) num, s.pairByNum (c / 96) num with
  | some (m, slot, held), _ =>
    if held then
      (s.modCore m fun x =>
        { x with colls := tabSet .reset x.colls slot { tabGet CollSlot.reset x.colls slot with held := false } }, 0)
    else (s, 1)
  | none, some (k, held) => if held then (s.setPair k { s.pair k with held := false }, 0) else (s, 1)
  | none, none => (s, if (s.die (c / 96)).faults.fixed.any fun n => n.toNat == num then 2 else 3)

/-- `xlat.res` (R390): after the earlier CP stores, a withheld stream, copy or engine goes on from its faulting element. -/
def execXlatRes (g : Guard) (d : Reg) (ag : Fin 8) (a : Src) (target : BitVec 2) (s : State) : Result :=
  cmdForm s (.xlatRes g d ag a target) g true [a] <|
    let c := s.focus.val
    let v := s.cp.val a
    if s.cp.ctl.reqs.any fun r => r.op.writes then .next s
    else if target = 3 then s.raise causeIllop (wordOf (.xlatRes g d ag a target))
    else
      let p := match target.toNat with
        | 0 => s.resumeStream c ag.val v
        | 1 => s.resumeTpl c ag.val (bits v 0 4)
        | _ => s.resumeRecord c (bits v 0 32)
      .next ((p.1.posted [a] d true).deliver c d (word p.2))

end Sys2Proof.Machine
end

