-- ==== Sys2Proof/Machine/Traps.lean ====
section
/-!
DEFINITION. Traps and fetch as events: reserved words (R102, R107), asynchronous traps (R450, R451), page fills (R369),
returned values (R169), and KTIME (R139).
-/
namespace Sys2Proof.Machine

/-- RESERVED_OPCODE: a word that fails step 1 of R107 raises ILLOP, whatever the guard and the mode. -/
def execReservedOpcode (w : Word) (s : State) : Result := s.raise causeIllop w

/-- PROGRAM_PAGE_FILL (R369, R451): the page of an instruction that is not resident is filled, or its fetch fails. A fill
waits for the stores that a `fence.cfg` orders ahead of it (R211, R232). -/
def execProgramPageFill (c : CoreIx) (s : State) : Result :=
  let x := s.cpOf c.val
  if x.alive && x.ctl.standing.isNone && s.fetch c.val == .miss && !x.fillsHeld
      && !s.walkWaits c.val x.regs.pc.toNat then
    .next (s.fillPage c.val)
  else .next s

/-- PENDING_RESULT_WRITE (R144, R169, R227): a value that has returned is written to its register. -/
def execPendingResultWrite (c : CoreIx) (r : Reg) (s : State) : Result :=
  match listFind (fun p => p.reg == r && p.val.isSome) (s.cpOf c.val).ctl.pend with
  | some p => .next (s.modCpOf c.val fun x =>
      { x with
        regs := x.regs.put r (p.val.getD 0)
        ctl := { x.ctl with pend := x.ctl.pend.filter fun q => q.reg != r } })
  | none => .next s

/-- KTIME_TICK (R139): a nanosecond passes. -/
def execKtimeTick (s : State) : Result := .next { s with ktime := s.ktime + 1 }

end Sys2Proof.Machine
end

