-- ==== Sys2Proof/Machine/Dispatch.lean ====
section
/-!
DEFINITION. One arm per step of the device: what it does (the meanings stand in the files of their families).
-/
namespace Sys2Proof.Machine

/-- The effect of one step of the device. -/
def exec (i : Instr) (s : State) : Host.Outcome State Fault Refusal :=
  match i with
  | .nop g => Sys2Proof.Machine.execNop g s
  | .halt g => Sys2Proof.Machine.execHalt g s
  | .trap g code => Sys2Proof.Machine.execTrap g code s
  | .tret g => Sys2Proof.Machine.execTret g s
  | .wait g => Sys2Proof.Machine.execWait g s
  | .brk g code => Sys2Proof.Machine.execBrk g code s
  | .add g d a b => Sys2Proof.Machine.execAdd g d a b s
  | .sub g d a b => Sys2Proof.Machine.execSub g d a b s
  | .and g d a b => Sys2Proof.Machine.execAnd g d a b s
  | .or g d a b => Sys2Proof.Machine.execOr g d a b s
  | .xor g d a b => Sys2Proof.Machine.execXor g d a b s
  | .andn g d a b => Sys2Proof.Machine.execAndn g d a b s
  | .shl g d a b => Sys2Proof.Machine.execShl g d a b s
  | .shr g d a b => Sys2Proof.Machine.execShr g d a b s
  | .sra g d a b => Sys2Proof.Machine.execSra g d a b s
  | .rol g d a b => Sys2Proof.Machine.execRol g d a b s
  | .min g d a b => Sys2Proof.Machine.execMin g d a b s
  | .max g d a b => Sys2Proof.Machine.execMax g d a b s
  | .minz g d a b => Sys2Proof.Machine.execMinz g d a b s
  | .maxz g d a b => Sys2Proof.Machine.execMaxz g d a b s
  | .mul g d a b => Sys2Proof.Machine.execMul g d a b s
  | .mulh g d a b => Sys2Proof.Machine.execMulh g d a b s
  | .mulhz g d a b => Sys2Proof.Machine.execMulhz g d a b s
  | .div g d a b => Sys2Proof.Machine.execDiv g d a b s
  | .divz g d a b => Sys2Proof.Machine.execDivz g d a b s
  | .rem g d a b => Sys2Proof.Machine.execRem g d a b s
  | .remz g d a b => Sys2Proof.Machine.execRemz g d a b s
  | .clz g d a => Sys2Proof.Machine.execClz g d a s
  | .ctz g d a => Sys2Proof.Machine.execCtz g d a s
  | .popc g d a => Sys2Proof.Machine.execPopc g d a s
  | .sel g d a b p => Sys2Proof.Machine.execSel g d a b p s
  | .bext g d a b c => Sys2Proof.Machine.execBext g d a b c s
  | .bins g d a b c => Sys2Proof.Machine.execBins g d a b c s
  | .addi g d a imm => Sys2Proof.Machine.execAddi g d a imm s
  | .andi g d a imm => Sys2Proof.Machine.execAndi g d a imm s
  | .ori g d a imm => Sys2Proof.Machine.execOri g d a imm s
  | .xori g d a imm => Sys2Proof.Machine.execXori g d a imm s
  | .shli g d a n => Sys2Proof.Machine.execShli g d a n s
  | .shri g d a n => Sys2Proof.Machine.execShri g d a n s
  | .srai g d a n => Sys2Proof.Machine.execSrai g d a n s
  | .li g d imm => Sys2Proof.Machine.execLi g d imm s
  | .liH g d a imm => Sys2Proof.Machine.execLiH g d a imm s
  | .cmpEq g d a b => Sys2Proof.Machine.execCmpEq g d a b s
  | .cmpNe g d a b => Sys2Proof.Machine.execCmpNe g d a b s
  | .cmpLt g d a b => Sys2Proof.Machine.execCmpLt g d a b s
  | .cmpGe g d a b => Sys2Proof.Machine.execCmpGe g d a b s
  | .cmpLo g d a b => Sys2Proof.Machine.execCmpLo g d a b s
  | .cmpHs g d a b => Sys2Proof.Machine.execCmpHs g d a b s
  | .cmpiEq g d a imm => Sys2Proof.Machine.execCmpiEq g d a imm s
  | .cmpiNe g d a imm => Sys2Proof.Machine.execCmpiNe g d a imm s
  | .cmpiLt g d a imm => Sys2Proof.Machine.execCmpiLt g d a imm s
  | .cmpiGe g d a imm => Sys2Proof.Machine.execCmpiGe g d a imm s
  | .cmpiLo g d a imm => Sys2Proof.Machine.execCmpiLo g d a imm s
  | .cmpiHs g d a imm => Sys2Proof.Machine.execCmpiHs g d a imm s
  | .pand g d a b => Sys2Proof.Machine.execPand g d a b s
  | .por g d a b => Sys2Proof.Machine.execPor g d a b s
  | .pxor g d a b => Sys2Proof.Machine.execPxor g d a b s
  | .pandn g d a b => Sys2Proof.Machine.execPandn g d a b s
  | .pmov g d a => Sys2Proof.Machine.execPmov g d a s
  | .pget g d a => Sys2Proof.Machine.execPget g d a s
  | .br g off => Sys2Proof.Machine.execBr g off s
  | .call g d off => Sys2Proof.Machine.execCall g d off s
  | .ret g a => Sys2Proof.Machine.execRet g a s
  | .jr g d a => Sys2Proof.Machine.execJr g d a s
  | .loop g b off => Sys2Proof.Machine.execLoop g b off s
  | .ldS8 g d m => Sys2Proof.Machine.execLdS8 g d m s
  | .ldZ8 g d m => Sys2Proof.Machine.execLdZ8 g d m s
  | .ldS16 g d m => Sys2Proof.Machine.execLdS16 g d m s
  | .ldZ16 g d m => Sys2Proof.Machine.execLdZ16 g d m s
  | .ldS32 g d m => Sys2Proof.Machine.execLdS32 g d m s
  | .ldZ32 g d m => Sys2Proof.Machine.execLdZ32 g d m s
  | .ld64 g d m => Sys2Proof.Machine.execLd64 g d m s
  | .st8 g v m => Sys2Proof.Machine.execSt8 g v m s
  | .st16 g v m => Sys2Proof.Machine.execSt16 g v m s
  | .st32 g v m => Sys2Proof.Machine.execSt32 g v m s
  | .st64 g v m => Sys2Proof.Machine.execSt64 g v m s
  | .amoAdd64 g d b m => Sys2Proof.Machine.execAmoAdd64 g d b m s
  | .amoMin64 g d b m => Sys2Proof.Machine.execAmoMin64 g d b m s
  | .amoMax64 g d b m => Sys2Proof.Machine.execAmoMax64 g d b m s
  | .amoMinz64 g d b m => Sys2Proof.Machine.execAmoMinz64 g d b m s
  | .amoMaxz64 g d b m => Sys2Proof.Machine.execAmoMaxz64 g d b m s
  | .amoAnd64 g d b m => Sys2Proof.Machine.execAmoAnd64 g d b m s
  | .amoOr64 g d b m => Sys2Proof.Machine.execAmoOr64 g d b m s
  | .amoXor64 g d b m => Sys2Proof.Machine.execAmoXor64 g d b m s
  | .amoSwap64 g d b m => Sys2Proof.Machine.execAmoSwap64 g d b m s
  | .amoCas64 g d b m => Sys2Proof.Machine.execAmoCas64 g d b m s
  | .amoFadd64 g d b m => Sys2Proof.Machine.execAmoFadd64 g d b m s
  | .amoAdd32 g d b m => Sys2Proof.Machine.execAmoAdd32 g d b m s
  | .amoMin32 g d b m => Sys2Proof.Machine.execAmoMin32 g d b m s
  | .amoMax32 g d b m => Sys2Proof.Machine.execAmoMax32 g d b m s
  | .amoMinz32 g d b m => Sys2Proof.Machine.execAmoMinz32 g d b m s
  | .amoMaxz32 g d b m => Sys2Proof.Machine.execAmoMaxz32 g d b m s
  | .amoAnd32 g d b m => Sys2Proof.Machine.execAmoAnd32 g d b m s
  | .amoOr32 g d b m => Sys2Proof.Machine.execAmoOr32 g d b m s
  | .amoXor32 g d b m => Sys2Proof.Machine.execAmoXor32 g d b m s
  | .amoSwap32 g d b m => Sys2Proof.Machine.execAmoSwap32 g d b m s
  | .amoCas32 g d b m => Sys2Proof.Machine.execAmoCas32 g d b m s
  | .amoFadd32 g d b m => Sys2Proof.Machine.execAmoFadd32 g d b m s
  | .fence g sc => Sys2Proof.Machine.execFence g sc s
  | .fenceX g sc => Sys2Proof.Machine.execFenceX g sc s
  | .fenceCfg g => Sys2Proof.Machine.execFenceCfg g s
  | .krd g d k => Sys2Proof.Machine.execKrd g d k s
  | .kwr g k a => Sys2Proof.Machine.execKwr g k a s
  | .kset g k a => Sys2Proof.Machine.execKset g k a s
  | .kclr g k a => Sys2Proof.Machine.execKclr g k a s
  | .fadd g f d a b => Sys2Proof.Machine.execFadd g f d a b s
  | .fsub g f d a b => Sys2Proof.Machine.execFsub g f d a b s
  | .fmul g f d a b => Sys2Proof.Machine.execFmul g f d a b s
  | .fdiv g f d a b => Sys2Proof.Machine.execFdiv g f d a b s
  | .fsqrt g f d a => Sys2Proof.Machine.execFsqrt g f d a s
  | .ffma g f d a b c => Sys2Proof.Machine.execFfma g f d a b c s
  | .fmin g f d a b => Sys2Proof.Machine.execFmin g f d a b s
  | .fmax g f d a b => Sys2Proof.Machine.execFmax g f d a b s
  | .fcmp g f rel d a b => Sys2Proof.Machine.execFcmp g f rel d a b s
  | .fcvt g f fromInt n d a => Sys2Proof.Machine.execFcvt g f fromInt n d a s
  | .fclass g f d a => Sys2Proof.Machine.execFclass g f d a s
  | .cfgFetch g d u a => Sys2Proof.Machine.execCfgFetch g d u a s
  | .cfgLoad g d u a => Sys2Proof.Machine.execCfgLoad g d u a s
  | .cfgEvict g d u a mode tag => Sys2Proof.Machine.execCfgEvict g d u a mode tag s
  | .cfgInband g d ag a => Sys2Proof.Machine.execCfgInband g d ag a s
  | .cfgProbe g d u sel => Sys2Proof.Machine.execCfgProbe g d u sel s
  | .cfgTag g d tag => Sys2Proof.Machine.execCfgTag g d tag s
  | .strmRd g d ag a b c slot defer => Sys2Proof.Machine.execStrmRd g d ag a b c slot defer s
  | .strmWr g d ag a b c slot defer => Sys2Proof.Machine.execStrmWr g d ag a b c slot defer s
  | .strmInd g d ag a b c slot defer => Sys2Proof.Machine.execStrmInd g d ag a b c slot defer s
  | .strmCst g d ag a b c slot defer => Sys2Proof.Machine.execStrmCst g d ag a b c slot defer s
  | .strmRec g d ag a b c slot defer => Sys2Proof.Machine.execStrmRec g d ag a b c slot defer s
  | .strmCancel g d ag a => Sys2Proof.Machine.execStrmCancel g d ag a s
  | .strmStat g d ag a => Sys2Proof.Machine.execStrmStat g d ag a s
  | .barRd g d u => Sys2Proof.Machine.execBarRd g d u s
  | .barWr g d u => Sys2Proof.Machine.execBarWr g d u s
  | .barCfg g d u drain tag => Sys2Proof.Machine.execBarCfg g d u drain tag s
  | .barAll g d => Sys2Proof.Machine.execBarAll g d s
  | .barIf g d ag a cond => Sys2Proof.Machine.execBarIf g d ag a cond s
  | .ctlSet g d ct a n => Sys2Proof.Machine.execCtlSet g d ct a n s
  | .ctlGo g d ct => Sys2Proof.Machine.execCtlGo g d ct s
  | .ctlWait g d ct => Sys2Proof.Machine.execCtlWait g d ct s
  | .ctlAbort g d ct => Sys2Proof.Machine.execCtlAbort g d ct s
  | .tplArm g d tm a => Sys2Proof.Machine.execTplArm g d tm a s
  | .tplDisarm g d tm => Sys2Proof.Machine.execTplDisarm g d tm s
  | .tplFire g d tm a => Sys2Proof.Machine.execTplFire g d tm a s
  | .tplStat g d tm => Sys2Proof.Machine.execTplStat g d tm s
  | .qPush g d q a last => Sys2Proof.Machine.execQPush g d q a last s
  | .qPop g d q peek => Sys2Proof.Machine.execQPop g d q peek s
  | .qSpace g d q => Sys2Proof.Machine.execQSpace g d q s
  | .qWait g d q a space => Sys2Proof.Machine.execQWait g d q a space s
  | .semInit g d a b => Sys2Proof.Machine.execSemInit g d a b s
  | .semTake g d a tok sb => Sys2Proof.Machine.execSemTake g d a tok sb s
  | .semWait g d a b => Sys2Proof.Machine.execSemWait g d a b s
  | .semAdv g d a n => Sys2Proof.Machine.execSemAdv g d a n s
  | .mxTok g d a => Sys2Proof.Machine.execMxTok g d a s
  | .mxAccrd g d acc row col => Sys2Proof.Machine.execMxAccrd g d acc row col s
  | .mxAccclr g d acc => Sys2Proof.Machine.execMxAccclr g d acc s
  | .mxStat g d => Sys2Proof.Machine.execMxStat g d s
  | .collRed g d a => Sys2Proof.Machine.execCollRed g d a s
  | .collAttn g d a => Sys2Proof.Machine.execCollAttn g d a s
  | .collGath g d a => Sys2Proof.Machine.execCollGath g d a s
  | .collScat g d a => Sys2Proof.Machine.execCollScat g d a s
  | .collBcast g d a => Sys2Proof.Machine.execCollBcast g d a s
  | .collA2a g d a => Sys2Proof.Machine.execCollA2a g d a s
  | .collWait g d a => Sys2Proof.Machine.execCollWait g d a s
  | .pairBox g d a => Sys2Proof.Machine.execPairBox g d a s
  | .pairBin g d => Sys2Proof.Machine.execPairBin g d s
  | .pairScan g d a b sb dig => Sys2Proof.Machine.execPairScan g d a b sb dig s
  | .pairStat g d => Sys2Proof.Machine.execPairStat g d s
  | .pairClr g d => Sys2Proof.Machine.execPairClr g d s
  | .kvAlloc g d a => Sys2Proof.Machine.execKvAlloc g d a s
  | .kvFree g d a all => Sys2Proof.Machine.execKvFree g d a all s
  | .kvShare g d a b => Sys2Proof.Machine.execKvShare g d a b s
  | .kvMap g d a => Sys2Proof.Machine.execKvMap g d a s
  | .kvLimit g d a b clr => Sys2Proof.Machine.execKvLimit g d a b clr s
  | .kvLend g d a b => Sys2Proof.Machine.execKvLend g d a b s
  | .taskSpawn g d q a => Sys2Proof.Machine.execTaskSpawn g d q a s
  | .taskDone g => Sys2Proof.Machine.execTaskDone g s
  | .taskYield g d => Sys2Proof.Machine.execTaskYield g d s
  | .taskArg g d n => Sys2Proof.Machine.execTaskArg g d n s
  | .taskCancel g d a => Sys2Proof.Machine.execTaskCancel g d a s
  | .frzSave g d a b => Sys2Proof.Machine.execFrzSave g d a b s
  | .frzLoad g d a q => Sys2Proof.Machine.execFrzLoad g d a q s
  | .quiPoll g d wait => Sys2Proof.Machine.execQuiPoll g d wait s
  | .quiRep g d a sel => Sys2Proof.Machine.execQuiRep g d a sel s
  | .xlatInv g d a b scope mode => Sys2Proof.Machine.execXlatInv g d a b scope mode s
  | .xlatProbe g d a b leaf => Sys2Proof.Machine.execXlatProbe g d a b leaf s
  | .xlatRes g d ag a target => Sys2Proof.Machine.execXlatRes g d ag a target s
  | .pendingResultWrite c r => Sys2Proof.Machine.execPendingResultWrite c r s
  | .waitEnd c => Sys2Proof.Machine.execWaitEnd c s
  | .barrierEnd c => Sys2Proof.Machine.execBarrierEnd c s
  | .fenceResume c => Sys2Proof.Machine.execFenceResume c s
  | .queueFormResume c => Sys2Proof.Machine.execQueueFormResume c s
  | .ctlWaitEnd c => Sys2Proof.Machine.execCtlWaitEnd c s
  | .collWaitEnd c => Sys2Proof.Machine.execCollWaitEnd c s
  | .quiPollWaitEnd c => Sys2Proof.Machine.execQuiPollWaitEnd c s
  | .semRetest c => Sys2Proof.Machine.execSemRetest c s
  | .asyncTrap c => Sys2Proof.Machine.execAsyncTrap c s
  | .programPageFill c => Sys2Proof.Machine.execProgramPageFill c s
  | .bankAccess who id seg => Sys2Proof.Machine.execBankAccess who id seg s
  | .routerForward c rt => Sys2Proof.Machine.execRouterForward c rt s
  | .kill c pe => Sys2Proof.Machine.execKill c pe s
  | .killReturn c ch => Sys2Proof.Machine.execKillReturn c ch s
  | .peFire c pe => Sys2Proof.Machine.execPeFire c pe s
  | .digitEmit c pe => Sys2Proof.Machine.execDigitEmit c pe s
  | .steer c rt => Sys2Proof.Machine.execSteer c rt s
  | .carry c rt => Sys2Proof.Machine.execCarry c rt s
  | .invar c rt => Sys2Proof.Machine.execInvar c rt s
  | .merge c rt => Sys2Proof.Machine.execMerge c rt s
  | .join c rt => Sys2Proof.Machine.execJoin c rt s
  | .order c rt => Sys2Proof.Machine.execOrder c rt s
  | .arb c rt => Sys2Proof.Machine.execArb c rt s
  | .tagin c rt => Sys2Proof.Machine.execTagin c rt s
  | .tagout c rt => Sys2Proof.Machine.execTagout c rt s
  | .mld c mt port part => Sys2Proof.Machine.execMld c mt port part s
  | .mst c mt port part => Sys2Proof.Machine.execMst c mt port part s
  | .gath c mt port part => Sys2Proof.Machine.execGath c mt port part s
  | .scat c mt port part => Sys2Proof.Machine.execScat c mt port part s
  | .upd c mt port part => Sys2Proof.Machine.execUpd c mt port part s
  | .dep c mt port part => Sys2Proof.Machine.execDep c mt port part s
  | .sparseUpdateApply c mt bank idx into => Sys2Proof.Machine.execSparseUpdateApply c mt bank idx into s
  | .mxTokenEnqueue c => Sys2Proof.Machine.execMxTokenEnqueue c s
  | .mma c => Sys2Proof.Machine.execMma c s
  | .mmaAcc c => Sys2Proof.Machine.execMmaAcc c s
  | .accRd c => Sys2Proof.Machine.execAccRd c s
  | .accClr c => Sys2Proof.Machine.execAccClr c s
  | .matrixStep c => Sys2Proof.Machine.execMatrixStep c s
  | .streamElement c ag slot => Sys2Proof.Machine.execStreamElement c ag slot s
  | .streamWrite c ag slot => Sys2Proof.Machine.execStreamWrite c ag slot s
  | .streamDone c ag slot => Sys2Proof.Machine.execStreamDone c ag slot s
  | .streamCancelComplete c ag slot => Sys2Proof.Machine.execStreamCancelComplete c ag slot s
  | .barIfDecide c ag slot => Sys2Proof.Machine.execBarIfDecide c ag slot s
  | .pageWalk c va => Sys2Proof.Machine.execPageWalk c va s
  | .templateFiring c tm => Sys2Proof.Machine.execTemplateFiring c tm s
  | .copyEnd c tm => Sys2Proof.Machine.execCopyEnd c tm s
  | .compressPhase c tm => Sys2Proof.Machine.execCompressPhase c tm s
  | .sbPush c sb => Sys2Proof.Machine.execSbPush c sb s
  | .sbPop c sb => Sys2Proof.Machine.execSbPop c sb s
  | .frameInstall c idx => Sys2Proof.Machine.execFrameInstall c idx s
  | .demandFill c node => Sys2Proof.Machine.execDemandFill c node s
  | .configRecord c node => Sys2Proof.Machine.execConfigRecord c node s
  | .evictDrainClear c idx => Sys2Proof.Machine.execEvictDrainClear c idx s
  | .permit c ct => Sys2Proof.Machine.execPermit c ct s
  | .doneToken c ct => Sys2Proof.Machine.execDoneToken c ct s
  | .iterationOpen c ct => Sys2Proof.Machine.execIterationOpen c ct s
  | .quiescenceVerdict c => Sys2Proof.Machine.execQuiescenceVerdict c s
  | .deadlockTrap c => Sys2Proof.Machine.execDeadlockTrap c s
  | .reservedOpcode w => Sys2Proof.Machine.execReservedOpcode w s
  | .fabricCycle => Sys2Proof.Machine.execFabricCycle s
  | .taskReady d q slot => Sys2Proof.Machine.execTaskReady d q slot s
  | .schedulerBind d => Sys2Proof.Machine.execSchedulerBind d s
  | .preempt d => Sys2Proof.Machine.execPreempt d s
  | .freeze d => Sys2Proof.Machine.execFreeze d s
  | .taskRetire d q slot => Sys2Proof.Machine.execTaskRetire d q slot s
  | .collRendezvous team r => Sys2Proof.Machine.execCollRendezvous team r s
  | .collCombine team seq t => Sys2Proof.Machine.execCollCombine team seq t s
  | .pairHomeCell k => Sys2Proof.Machine.execPairHomeCell k s
  | .pairRecordPush k => Sys2Proof.Machine.execPairRecordPush k s
  | .kvRequestRoute idx => Sys2Proof.Machine.execKvRequestRoute idx s
  | .plainDelivery k idx => Sys2Proof.Machine.execPlainDelivery k idx s
  | .plainElementFire k e => Sys2Proof.Machine.execPlainElementFire k e s
  | .storeHomeFailure c id => Sys2Proof.Machine.execStoreHomeFailure c id s
  | .passInbound c => Sys2Proof.Machine.execPassInbound c s
  | .passOutbound c => Sys2Proof.Machine.execPassOutbound c s
  | .ringPass c slot => Sys2Proof.Machine.execRingPass c slot s
  | .coldreset => Sys2Proof.Machine.execColdreset s
  | .warmreset => Sys2Proof.Machine.execWarmreset s
  | .boot => Sys2Proof.Machine.execBoot s
  | .recoveryFetch => Sys2Proof.Machine.execRecoveryFetch s
  | .spdmMeasurement index => Sys2Proof.Machine.execSpdmMeasurement index s
  | .hostAccess r => Sys2Proof.Machine.execHostAccess r s
  | .hostAtomicop r => Sys2Proof.Machine.execHostAtomicop r s
  | .atsTranslationCompletion page frame => Sys2Proof.Machine.execAtsTranslationCompletion page frame s
  | .atsInvalidation page => Sys2Proof.Machine.execAtsInvalidation page s
  | .tqFirstHalfWrite d q v => Sys2Proof.Machine.execTqFirstHalfWrite d q v s
  | .tqSecondHalfWrite d q v => Sys2Proof.Machine.execTqSecondHalfWrite d q v s
  | .taskCounterWrite d t v => Sys2Proof.Machine.execTaskCounterWrite d t v s
  | .fqpop d => Sys2Proof.Machine.execFqpop d s
  | .fzareaWrite d v => Sys2Proof.Machine.execFzareaWrite d v s
  | .kvPoolWrite d r v => Sys2Proof.Machine.execKvPoolWrite d r v s
  | .dmaWindowWrite n limit v => Sys2Proof.Machine.execDmaWindowWrite n limit v s
  | .dwlock v => Sys2Proof.Machine.execDwlock v s
  | .stlinkWrite v => Sys2Proof.Machine.execStlinkWrite v s
  | .routeTableWrite p v => Sys2Proof.Machine.execRouteTableWrite p v s
  | .registerWrite r v => Sys2Proof.Machine.execRegisterWrite r v s
  | .clockStepChange => Sys2Proof.Machine.execClockStepChange s
  | .cycleStretch d => Sys2Proof.Machine.execCycleStretch d s
  | .linkRetrainFailure l => Sys2Proof.Machine.execLinkRetrainFailure l s
  | .remoteAccess r => Sys2Proof.Machine.execRemoteAccess r s
  | .ktimeTick => Sys2Proof.Machine.execKtimeTick s
  | .stretchRelease d => Sys2Proof.Machine.execStretchRelease d s
  | .stanumPortTraining p up => Sys2Proof.Machine.execStanumPortTraining p up s
  | .remoteReplayFailure c id => Sys2Proof.Machine.execRemoteReplayFailure c id s
  | .atsDisable => Sys2Proof.Machine.execAtsDisable s

end Sys2Proof.Machine
end

