-- ==== Sys2Proof/Machine/Turns.lean ====
section
/-! DEFINITION. Turns with an empty agenda (DESIGN CHOICE, log entry 1): the events of the focus core in a fixed order, then
those of the next bound core, after the last core the events of the package, and then the end of the cycle. -/
namespace Sys2Proof.Machine

/-- A step of the device with its operands. -/
abbrev Event := State → Result

/-- The events of a control processor: its requests, its returned values, and the ends of its waits. -/
def cpEvents (c : CoreIx) (x : Cp) : List Event :=
  (x.ctl.reqs.flatMap fun r => (rangeFrom 0 r.segs.length).map fun j => execBankAccess (.core c) r.id j)
    ++ (x.ctl.reqs.map fun r => execStoreHomeFailure c r.id)
    ++ (x.ctl.pend.map fun p => execPendingResultWrite c p.reg)
    ++ [execFenceResume c, execWaitEnd c, execBarrierEnd c, execQueueFormResume c, execCtlWaitEnd c, execCollWaitEnd c,
      execQuiPollWaitEnd c, execSemRetest c]

/-- The events of one position of the grid: a router, its operators and its PE. -/
def nodeEvents (c : CoreIx) (r : Fin 16) : List Event :=
  [execRouterForward c r, execSteer c r, execCarry c r, execInvar c r, execMerge c r, execJoin c r, execOrder c r,
    execArb c r, execTagin c r, execTagout c r, execPeFire c r, execDigitEmit c r, execKill c r,
    execConfigRecord c (.rt r), execConfigRecord c (.pe r), execDemandFill c (.rt r), execDemandFill c (.pe r)]
  ++ ((rangeFrom 0 4).map fun d => execKillReturn c (.face r (Fin.ofNat 4 d)))
  ++ (rangeFrom 0 3).map fun n => execKillReturn c (.operand r (Fin.ofNat 3 n))

/-- The endpoints that drain channels. -/
def endpoints : List NodeId :=
  (rangeFrom 0 8).map (fun n => NodeId.ag (Fin.ofNat 8 n)) ++ (rangeFrom 0 16).map (fun n => NodeId.sb (Fin.ofNat 16 n))
    ++ (rangeFrom 0 16).map (fun n => NodeId.port (Fin.ofNat 4 (n / 4)) (Fin.ofNat 4 n))
    ++ (rangeFrom 0 16).map (fun n => NodeId.tm (Fin.ofNat 16 n))
    ++ (rangeFrom 0 8).map (fun n => NodeId.ct (Fin.ofNat 8 n)) ++ [.mx, .pass]

/-- The events of an endpoint as a place for frames and channels. -/
def endpointEvents (c : CoreIx) (k : NodeId) : List Event :=
  [execConfigRecord c k, execDemandFill c k, execKillReturn c (.drain k)]

/-- The meaning of an operation of a memory-tile port. -/
def portOp (op : Nat) (c : CoreIx) (t p : Fin 4) (part : PortPart) : Event :=
  match op with
  | 0 => execMld c t p part
  | 1 => execMst c t p part
  | 2 => execGath c t p part
  | 3 => execScat c t p part
  | 4 => execUpd c t p part
  | _ => execDep c t p part

/-- The events of a memory-tile port: those of the operations of its frames. -/
def State.portEvents (s : State) (c : CoreIx) (t p : Fin 4) : List Event :=
  ((rangeFrom 0 4).filterMap fun i =>
    let x := s.slotAt c.val (256 + 4 * t.val + p.val) i
    if x.v then some (fOp x.frame) else none).flatMap fun op =>
      [portOp op c t p .take, portOp op c t p (.access 0), portOp op c t p .send]

/-- The events of the update windows. -/
def windowEvents (c : CoreIx) (g : Grid) : List Event :=
  g.windows.flatMap fun p => (rangeFrom 0 p.2.length).flatMap fun i =>
    (execSparseUpdateApply c (Fin.ofNat 4 (p.1 / 16)) (Fin.ofNat 16 p.1) i none)
      :: (rangeFrom 0 i).map fun j => execSparseUpdateApply c (Fin.ofNat 4 (p.1 / 16)) (Fin.ofNat 16 p.1) i (some j)

/-- The events of a stream slot. -/
def streamEvents (c : CoreIx) (n : Nat) : List Event :=
  let a : Fin 8 := Fin.ofNat 8 (n / 4)
  let i : Fin 4 := Fin.ofNat 4 n
  [execStreamElement c a i, execStreamWrite c a i, execStreamDone c a i, execStreamCancelComplete c a i,
    execBarIfDecide c a i]

/-- The events of templates and stream buffers. -/
def bufferEvents (c : CoreIx) (n : Fin 16) : List Event :=
  [execTemplateFiring c n, execCopyEnd c n, execCompressPhase c n, execSbPush c n, execSbPop c n]

/-- The accesses of a list that are under way for core c (R199). -/
def flightEvents (c : CoreIx) (l : List Flown) : List Event :=
  (flownAccs l).flatMap fun a => (rangeFrom 0 a.segs.length).map fun j => execBankAccess (.core c) a.id j

/-- The accesses that a core's streams, copies and collectives have issued (R199). -/
def accessEvents (c : CoreIx) (x : Core) : List Event :=
  (x.units.streams.flatMap fun (p : Nat × Stream) => flightEvents c p.2.x.flown)
    ++ (x.units.tpls.flatMap fun (p : Nat × Tpl) => flightEvents c p.2.x.flown)
    ++ x.colls.flatMap fun (p : Nat × CollSlot) => flightEvents c p.2.flown

/-- The events of the units of core c. -/
def State.coreEvents (s : State) (c : CoreIx) : List Event :=
  let g := s.grid c.val
  [execQuiescenceVerdict c, execDeadlockTrap c] ++ cpEvents c (s.cpOf c.val) ++ accessEvents c (s.core c.val)
    ++ (rangeFrom 0 16).flatMap (fun r => nodeEvents c (Fin.ofNat 16 r))
    ++ endpoints.flatMap (endpointEvents c)
    ++ (rangeFrom 0 16).flatMap (fun n => s.portEvents c (Fin.ofNat 4 (n / 4)) (Fin.ofNat 4 n))
    ++ windowEvents c g
    ++ [execMxTokenEnqueue c, execMma c, execMmaAcc c, execAccRd c, execAccClr c, execMatrixStep c]
    ++ (rangeFrom 0 32).flatMap (streamEvents c)
    ++ (rangeFrom 0 16).flatMap (fun n => bufferEvents c (Fin.ofNat 16 n))
    ++ (rangeFrom 0 g.installs.length).map (execFrameInstall c)
    ++ (rangeFrom 0 g.evicts.length).map (execEvictDrainClear c)
    ++ (rangeFrom 0 8).flatMap (fun n =>
      [execPermit c (Fin.ofNat 8 n), execDoneToken c (Fin.ofNat 8 n), execIterationOpen c (Fin.ofNat 8 n),
        execRingPass c (Fin.ofNat 8 n)])
    ++ [execPassInbound c, execPassOutbound c]

/-- The arrival order in which ranks 0 to n enter one after another. -/
def inOrder : Nat → Arrival
  | 0 => .leaf 0
  | n + 1 => .comb (inOrder n) (.leaf (n + 1))

/-- The events of the collectives. -/
def State.collEvents (s : State) : List Event :=
  (s.cores.flatMap fun (p : Nat × Core) =>
    (p.2.colls.filter fun (q : Nat × CollSlot) => q.2.used && q.2.phase == .rendezvous).map fun (q : Nat × CollSlot) =>
      execCollRendezvous (cdTeam q.2.desc) ⟨cdSeq q.2.desc, []⟩)
    ++ s.stations.jobs.map fun j => execCollCombine j.team j.seq (inOrder (cdGtot (listGet 0 j.descs 0) - 1))

/-- The events of cluster k. -/
def State.clusterEvents (s : State) (k : Nat) : List Event :=
  let x := s.plain k
  let i : ClusterIx := Fin.ofNat 64 k
  [execPairHomeCell i, execPairRecordPush i]
    ++ (match (s.pair k).op with
        | some o => flightEvents (Fin.ofNat 768 o.core) (o.ahead ++ o.cell ++ o.puts)
        | none => [])
    ++ (rangeFrom 0 x.links.length).map (execPlainDelivery i)
    ++ (x.fed.flatMap fun e => ((rangeFrom (12 * k) 12).filter fun c => (s.cpOf c).ctl.bound).map fun c =>
      execDemandFill (Fin.ofNat 768 c) (.plain (Fin.ofNat 128 (e - 512))))
    ++ (rangeFrom 0 128).map fun e => execPlainElementFire i (Fin.ofNat 128 e)

/-- The events of the scheduler of die d. -/
def State.dieEvents (s : State) (d : Nat) : List Event :=
  let i : DieIx := Fin.ofNat 8 d
  let each := fun (f : DieIx → Fin 16 → BitVec 8 → Event) => (s.die d).sched.slots.map fun p =>
    f i (Fin.ofNat 16 (p.1 / 256)) (BitVec.ofNat 8 p.1)
  each execTaskRetire ++ each execTaskReady ++ [execFreeze i, execSchedulerBind i, execPreempt i]

/-- The events of the package, once in a cycle. -/
def State.packageEvents (s : State) : List Event :=
  (clustersOf s.boundCores).flatMap s.clusterEvents ++ s.collEvents
    ++ (rangeFrom 0 s.kv.reqs.length).map execKvRequestRoute
    ++ (s.kv.reqs.flatMap fun r => flightEvents (Fin.ofNat 768 r.core) r.flown)
    ++ (s.pkg.outside.flatMap fun r => (rangeFrom 0 r.segs.length).map fun j => execBankAccess .outside r.id j)
    ++ (rangeFrom 0 8).flatMap s.dieEvents ++ [execBoot, execRecoveryFetch, execKtimeTick]

/-- The next bound core after c. -/
def State.laterCore (s : State) (c : CoreIx) : Option CoreIx :=
  (listFind (fun n => decide (c.val < n)) s.boundCores).map (Fin.ofNat 768)

/-- The first bound core, or c where none is bound. -/
def State.firstCore (s : State) (c : CoreIx) : CoreIx := (s.boundCores.head?.map (Fin.ofNat 768)).getD c

/-- The events of a turn of the focus core; the last core of a round brings those of the package. -/
def State.turnEvents (s : State) : List Event :=
  (if s.cp.ctl.bound then s.coreEvents s.focus else [])
    ++ if (s.laterCore s.focus).isSome then [] else s.packageEvents

end Sys2Proof.Machine
end

