-- ==== Sys2Proof/Machine/Step.lean ====
section
/-! DEFINITION. One step of the package (DESIGN CHOICE, log entry 1): the turn at the head of the agenda; with an empty
agenda the focus core, else one event of its units, else the end of the fabric cycle. -/
namespace Sys2Proof.Machine

/-- The next event of the turn, the turn of the next core, or the end of the fabric cycle. -/
def stepUnits (s : State) : Result :=
  match s.turnEvents[s.rota]? with
  | some f => f { s with rota := s.rota + 1 }
  | none =>
    match s.laterCore s.focus with
    | some c => .next { s with rota := 0, focus := c }
    | none => execFabricCycle { s with rota := 0, focus := s.firstCore s.focus }

/-- The plan of the issuing core is carried out; where it changes nothing at the core, `s` is the state to go on with. -/
def stepPlan (p : Plan) (s : State) (k : State → Result) : Result :=
  match p with
  | .idle => k s
  | .run i s' =>
    match exec i s' with
    | .next t => if t.core s'.focus.val = s'.core s'.focus.val then k s else .next t
    | r => r

/-- One step. -/
def step (s : State) : Host.Outcome State Fault Refusal :=
  match s.agenda with
  | .event i :: rest =>
    if !s.mayStep i then .fault .packageStopped
    else if isEvent i then exec i { s with agenda := rest } else .next { s with agenda := rest }
  | .issue c :: rest =>
    if s.stopped then .fault .packageStopped
    else stepPlan (({ s with agenda := rest } : State).plan c) { s with agenda := rest } .next
  | [] => if s.stopped then .fault .packageStopped else stepPlan (s.plan s.focus) s stepUnits

/-- The state in which the very next step runs the instruction whose word is `w` (DESIGN CHOICE, log entry 19). -/
def State.withFetchWord (s : State) (_nbits w : Nat) : State :=
  ({ s with agenda := [], stopped := false } : State).placeWord (word w)

end Sys2Proof.Machine
end

