-- ==== Sys2Proof/Safety.lean ====
section
/-!
DEFINITION. What a safe step is, and the words that claims about the forms use: when a form has its own effect, and what
a form that completes leaves. A step is safe when it answers a next state: one that faults has stopped the whole package (R468), and one
that refuses has no meaning.
-/
namespace Sys2Proof

open Machine

/-- The step goes on. -/
def Runs (s : State) : Prop := ∃ t, step s = .next t

/-- The instruction goes on. -/
def Completes (i : Instr) (s : State) : Prop := ∃ t, exec i s = .next t

/-- The privileged forms (R107). -/
def privileged : Instr → Bool
  | .halt _ => true
  | .tret _ => true
  | .kwr _ k _ => kregSystem k
  | .kset _ k _ => kregSystem k
  | .kclr _ k _ => kregSystem k
  | .frzSave _ _ _ _ => true
  | .frzLoad _ _ _ _ => true
  | .xlatInv _ _ _ _ _ _ => true
  | .xlatProbe _ _ _ _ _ => true
  | .xlatRes _ _ _ _ _ => true
  | _ => false

/-- A form has its own effect (R97, R107, R137): its guard holds, it is not a privileged form in task mode, and with
VSTRICT = 1 none of its sources is vacant. -/
def Ready (s : State) (g : Guard) (priv : Bool) (srcs : List Src) : Prop :=
  s.cp.regs.guard g = true ∧ (priv = true → s.cp.k.sys = true)
    ∧ (s.cp.k.vstrict = false ∨ ∀ a ∈ srcs, s.cp.regs.vacant a.reg = false)

/-- A source names register r with its last-use bit set (R98). -/
def lastUse (srcs : List Src) (r : Reg) : Bool := srcs.any fun a => a.last && a.reg == r

/-- What general register r reads after an instruction (R99, R134): the value written to it, zero once a last-use read has
made it vacant, else what it read before. -/
def regAfter (s : State) (srcs : List Src) (wr : Option (Reg × Word)) (r : Reg) : Word :=
  let old := if lastUse srcs r then 0 else s.cp.regs.get r
  match wr with
  | some (d, v) => if r = d ∧ r ≠ 0 then v else old
  | none => old

/-- Whether general register r is vacant after an instruction (R99, R134). -/
def vacantAfter (s : State) (srcs : List Src) (wr : Option (Reg × Word)) (r : Reg) : Bool :=
  let old := s.cp.regs.vacant r || (r != 0 && lastUse srcs r)
  match wr with
  | some (d, _) => if r = d then false else old
  | none => old

/-- What predicate p reads after an instruction (R135). -/
def predAfter (s : State) (wp : Option (PReg × Bool)) (p : PReg) : Bool :=
  match wp with
  | some (d, b) => if p = d ∧ p ≠ 0 then b else s.cp.regs.pred p
  | none => s.cp.regs.pred p

/-- The k-registers after an instruction that read these sources (R137): a vacant one that it read with VSTRICT = 0 has set
VREAD. -/
def kAfter (s : State) (srcs : List Src) : KRegs :=
  { s.cp.k with vread := s.cp.k.vread || srcs.any fun a => s.cp.regs.vacant a.reg }

/-- From `s` to `t` one form of the control processor has completed: the program counter is `pc`, the register and the
predicate named are written, the k-registers and the control state are as named, the sources marked with a last-use bit are vacant, and
nothing else of the whole package has changed: no other register, no memory, no unit. -/
structure Leaves (s t : State) (srcs : List Src) (pc : Word) (wr : Option (Reg × Word)) (wp : Option (PReg × Bool))
    (k : KRegs) (ctl : CpCtl) : Prop where
  pc : t.cp.regs.pc = pc
  reg : ∀ r, t.cp.regs.get r = regAfter s srcs wr r
  vacant : ∀ r, t.cp.regs.vacant r = vacantAfter s srcs wr r
  pred : ∀ p, t.cp.regs.pred p = predAfter s wp p
  kregs : t.cp.k = k
  ctl : t.cp.ctl = ctl
  rest : t = s.modCp fun _ => t.cp

/-- The same for a form that changes registers alone. -/
abbrev Ends (s t : State) (srcs : List Src) (pc : Word) (wr : Option (Reg × Word)) (wp : Option (PReg × Bool))
    (k : KRegs) : Prop := Leaves s t srcs pc wr wp k s.cp.ctl

/-- The form completes with `v` written to general register `d`, and the next instruction follows. -/
def Writes (i : Instr) (s : State) (srcs : List Src) (d : Reg) (v : Word) : Prop :=
  ∃ t, exec i s = .next t ∧ Ends s t srcs (s.cp.regs.pc + 8) (some (d, v)) none (kAfter s srcs)

/-- The form completes with `b` written to predicate `d`, and the next instruction follows. -/
def Decides (i : Instr) (s : State) (srcs : List Src) (d : PReg) (b : Bool) : Prop :=
  ∃ t, exec i s = .next t ∧ Ends s t srcs (s.cp.regs.pc + 8) none (some (d, b)) (kAfter s srcs)

/-- The form takes a trap (R149, R449): the entry is the whole of its effect. -/
def Traps (i : Instr) (s : State) (cause : BitVec 6) (tval : Word) : Prop :=
  exec i s = .next (s.modCp fun x =>
    { regs := { x.regs with pc := x.k.tvec.setWidth 64 <<< 3 }
      k := { x.k with cause := cause, epc := x.regs.pc, tval := tval, psys := x.k.sys, sys := true }
      ctl := { x.ctl with standing := none, told := false, again := false, records := [], entry := true } })

/-- A load, store or atomic `i` issues (R225-R227): it is ready, no fence holds it, an atomic is aligned, every part has been
translated into `gs` (which leaves `u`, with the translations it learned), its region admits it, no earlier access is
ordered before it, and a read would not fail at its home. -/
structure Issues (i : Instr) (s u : State) (g : Guard) (srcs : List Src) (ea : Word) (n : Nat) (op : CpOp) (acc : Acc) (ar : Bool)
    (sc : BitVec 3) (gs : List Seg) : Prop where
  ready : Ready s g false srcs
  free : s.cp.held i = false
  aligned : acc ≠ .plain → ea.toNat % n = 0
  walked : (accessParts ea.toNat n).any (fun p => s.walkWaits s.focus.val ((ea.toNat + p.1) % 2 ^ 64)) = false
  translated : s.translateParts s.focus.val ea.toNat
    (if op.reads && op.writes then .both else if op.reads then .read else .write) s.cp.k.sys
    (accessParts ea.toNat n) = (u, .ok gs)
  region : u.regionFail ea.toNat n acc op.writes s.cp.k.sys gs = none
  ordered : s.cp.ctl.reqs.any (fun x => s.ordersBefore s.focus.val x op ar sc gs) = false
  home : op.reads = true → u.homeFail op gs = none

/-- The access is a read of another package's memory, which may fail on the remote path (R218, R227). -/
def farRead (u : State) (op : CpOp) (gs : List Seg) : Bool := op.reads && gs.any fun g => !u.isOwn g.pa

/-- The control state once an access is posted: the request stands last, and a read's register awaits its value (R227). A read
of another package keeps its sources until it returns (R11, R99, log entry 7). -/
def accessPosted (x : CpCtl) (op : CpOp) (gs : List Seg) (data cmp : Word) (d : Reg) (ar : Bool) (sc : BitVec 3)
    (pc : Word) (far : Bool) (srcs : List Src) : CpCtl :=
  { x with
    pend := if op.reads && d != 0 then x.pend ++ [⟨d, true, none⟩] else x.pend
    reqs := x.reqs ++ [⟨x.nextId, op, gs, data, cmp, d, pc, ar, sc, [], false, far, if far then srcs else []⟩]
    nextId := x.nextId + 1 }

/-- The form posts its access and the next instruction follows; no register is written yet. The sources are read at issue, but
for a read of another package, whose last uses take effect with its return (log entry 7). -/
def Posts (i : Instr) (s u : State) (srcs : List Src) (op : CpOp) (gs : List Seg) (data cmp : Word) (d : Reg) (ar : Bool)
    (sc : BitVec 3) : Prop :=
  let used := if farRead u op gs then [] else srcs
  ∃ t, exec i s = .next t
    ∧ Leaves u t used (u.cp.regs.pc + 8) none none (kAfter u used)
        (accessPosted u.cp.ctl op gs data cmp d ar sc s.cp.regs.pc (farRead u op gs) srcs)

/-- A command issues (R107, R211, R232): it is ready, and no fence holds it. -/
def CmdReady (i : Instr) (s : State) (g : Guard) (priv : Bool) (srcs : List Src) : Prop :=
  Ready s g priv srcs ∧ s.cp.held i = false

/-- The command completes in its cycle of issue with `v` in gD; `u` is the state with what it has done to the units. -/
def Replies (i : Instr) (s u : State) (srcs : List Src) (d : Reg) (v : Word) : Prop :=
  ∃ t, exec i s = .next t
    ∧ Leaves u t srcs (u.cp.regs.pc + 8) (some (d, v)) none (kAfter u srcs) { u.cp.ctl with standing := none, told := false, records := [] }

/-- The control state with register d pending (R169). -/
def awaiting (x : CpCtl) (d : Reg) (outside : Bool) : CpCtl :=
  { x with standing := none, told := false, records := [], pend := if d = 0 then x.pend else x.pend ++ [⟨d, outside, none⟩] }

/-- The command is posted and the next instruction follows, with gD pending; `u` is the state with what it has done to
the units. -/
def Awaits (i : Instr) (s u : State) (srcs : List Src) (d : Reg) (outside : Bool) : Prop :=
  ∃ t, exec i s = .next t
    ∧ Leaves u t srcs (u.cp.regs.pc + 8) none none (kAfter u srcs) (awaiting u.cp.ctl d outside)

/-- The form stands at issue (R39): it waits, and nothing else changes. -/
def Stands (i : Instr) (s : State) : Prop :=
  exec i s = .next (s.modCp fun x => { x with ctl := { x.ctl with standing := some ⟨i, none⟩, told := x.ctl.standing.isSome && x.ctl.told } })

/-- The package with core `c` the one that issues: a form that stood at its issue runs again there (R39). -/
def asCore (s : State) (c : CoreIx) : State := { s with focus := c }

/-- The event `e` lets the form that stands at its core complete with `v` in gD. -/
def RepliesAt (e : Instr) (s : State) (u : State) (srcs : List Src) (d : Reg) (v : Word) : Prop :=
  ∃ t, exec e s = .next { t with focus := s.focus }
    ∧ Leaves u t srcs (u.cp.regs.pc + 8) (some (d, v)) none (kAfter u srcs) { u.cp.ctl with standing := none, told := false, records := [] }

end Sys2Proof
end

