-- ==== Sys2Proof/Certificates/Slice0/Obligations.lean ====
section
/-!
DEFINITION. What is claimed of the model, one proposition each; OBLIGATIONS.json lists them with the rules of the spec.
-/
open Sys2Proof Sys2Proof.Machine

/-- For every well-formed form, with every operand at every value its encoding admits, the word that the encoder
gives decodes to that form. (05_encoding.md: Field use by family, 05_encoding.md: Opcode maps) -/
def Obligations.DecodeEncode : Prop :=
  ∀ i : Instr, wf i = true → ∀ w, encode i = some w → decode w = .ok i

/-- The words that the manual writes out for ld.64, add, a guarded ld.z32, loop, strm.rd, task.done, trap, cmp.lo,
li, li.h, fcmp and fcvt decode to those forms, and a word whose guard is not p0 is refused. (05_encoding.md: Worked
encodings, 08_scalar.md: System forms, 08_scalar.md: Compare and predicate forms) -/
def Obligations.WordsDecode : Prop :=
  decode 0x1806424A00000000 = .ok (.ld64 ⟨false, 0⟩ 8 ⟨⟨9, false⟩, ⟨10, false⟩, 0, false, 0⟩)
  ∧ decode 0x0400192500000000 = .ok (.add ⟨false, 0⟩ 3 ⟨4, true⟩ ⟨5, false⟩)
  ∧ decode 0x1A853A4000000040 = .ok (.ldZ32 ⟨true, 2⟩ 7 ⟨⟨9, false⟩, ⟨0, false⟩, 0x40, false, 0⟩)
  ∧ decode 0x14040006FFFFFFFD = .ok (.loop ⟨false, 0⟩ 6 0xFFFFFFFD)
  ∧ decode 0x440052EC00310003 = .ok (.strmRd ⟨false, 0⟩ 10 1 ⟨11, true⟩ ⟨12, false⟩ ⟨0, false⟩ 3 false)
  ∧ decode 0x6C01000000000000 = .ok (.taskDone ⟨false, 0⟩)
  ∧ decode 0x00C2000000001234 = .ok (.trap ⟨false, 3⟩ 0x1234)
  ∧ decode 0x0C04208300000000 = .ok (.cmpLo ⟨false, 0⟩ 4 ⟨2, false⟩ ⟨3, false⟩)
  ∧ decode 0x0807080789ABCDEF = .ok (.li ⟨false, 0⟩ 1 0x789ABCDEF)
  ∧ decode 0x0808086000091A2B = .ok (.liH ⟨false, 0⟩ 1 ⟨1, true⟩ 0x91A2B)
  ∧ decode 0x2C08110508800000 = .ok (.fcmp ⟨false, 0⟩ .d .le 2 ⟨4, false⟩ ⟨5, false⟩)
  ∧ decode 0x2C09424010800000 = .ok (.fcvt ⟨false, 0⟩ .d false .w 8 ⟨9, false⟩)
  ∧ decode 0 = .ok (.nop ⟨false, 0⟩)
  ∧ decode 0x0200000000000000 = .error .guard

/-- With nothing on the agenda, when the focus core is bound and free to issue, its page is resident and the word at
the program counter decodes to a form that waits for no register (and, for a command to the pair engine, no lower
core of its cluster has one to issue), the step is that form carried out on the state in which the issue is counted,
once for a form that a fence held (DEDUCED, log entry 28); a word that does not decode runs as the reserved opcode.
A form that stands and has read its record goes on with it in the same way. Where the form changes nothing at its
core the step goes on with the units instead. That the step of one core at a time stands for a cycle is the model's
own choice (DESIGN CHOICE, log entry 1). (08_scalar.md: Issue and sequential effect, 05_encoding.md: Instruction
words, 18_contexts.md: The configuration cache, 21_counters.md: Reported counters) -/
def Obligations.StepRunsDecoded : Prop :=
  ∀ (s : State) (w : Word) (n : Nat), s.agenda = [] → s.stopped = false → s.cp.alive = true →
    s.unstarted s.focus.val = false → s.cp.ctl.reqs.any (fun r => r.far) = false →
    s.waved s.focus.val = false → (s.grid s.focus.val).loads.any (fun l => l.reg.isNone) = false →
    s.verdictDue s.focus.val = false → s.cp.trapPending = false →
    let first (i : Instr) : Prop := pairCmd i = true → ∀ d : CoreIx, d.val / 12 = s.focus.val / 12 →
      d.val < s.focus.val → ∀ j t, s.planAlone d = .run j t → pairCmd j = false
    let carries (i : Instr) (s' : State) : Prop := ∀ t, exec i s' = .next t →
      step s = if t.core s.focus.val = s'.core s.focus.val then stepUnits s else .next t
    (∀ f r l, s.cp.ctl.standing = some f → s.cp.ctl.records = r :: l → first f.form → carries f.form s)
    ∧ (s.cp.ctl.standing = none → s.cp.ctl.issued ≠ s.cyc + 1 → s.fetch s.focus.val = .word w n →
    let i := match decode w with
      | .ok i => i
      | .error _ => .reservedOpcode w
    let s' := (s.cacheRead s.focus.val n (s.cp.regs.pc.toNat / 8 % 512)).modCore s.focus.val fun y =>
      { y with
        cp := { y.cp with ctl := { y.cp.ctl with entry := false, issued := s.cyc + 1, again := false } }
        grid := { y.grid with
          pcs := if s.cp.ctl.again then y.grid.pcs else tabSet 0 y.grid.pcs 13 (tabGet 0 y.grid.pcs 13 + 1) }
        cache := y.cache.touch n }
    s.cp.waitsFor i = false → first i → carries i s')

/-- When an event heads the agenda of a package that has not stopped, the step is that event on the state with the
rest of the agenda; after a link failed to retrain a COLDRESET and a host access to the management block still
happen, and the end of a fabric cycle, the issue of a core and every step without an agenda fault. The agenda is the
model's own (DESIGN CHOICE, log entry 1). (02_execution.md: Units of work, 23_package.md: Die links and Stanum) -/
def Obligations.StepRunsEvent : Prop :=
  ∀ (s : State) (i : Instr) (rest : List Turn),
    (s.agenda = .event i :: rest → isEvent i = true → s.mayStep i = true → step s = exec i { s with agenda := rest })
    ∧ (s.agenda = .event i :: rest → s.mayStep i = false → step s = .fault .packageStopped)
    ∧ (s.stopped = true → (∀ e r, s.agenda ≠ .event e :: r) → step s = .fault .packageStopped)
    ∧ (s.stopped = false → s.mayStep i = true) ∧ s.mayStep .coldreset = true
    ∧ (∀ r q, s.hostHome r.bar2 r.off.toNat (hostSize r) r.write.isSome = .mgmt q → s.mayStep (.hostAccess r) = true)
    ∧ (s.stopped = true → s.mayStep .fabricCycle = false)

/-- Of every form of the table: when its guard fails it writes nothing, posts no command, reads no source and raises
no trap; the program counter advances by 8 and its last-use bits take effect; nothing else of the package changes.
The guard holds when p[GP] differs from GN, p0 reads true, and a word whose guard is not p0 is the reserved opcode,
which raises ILLOP. (R97) -/
def Obligations.FailedGuardActsNot : Prop :=
  (∀ (i : Instr) (s : State), (encode i).isSome = true → wf i = true → s.cp.regs.guard (guardOf i) = false →
    ∃ t, exec i s = .next t ∧ Ends s t (srcsOf i) (s.cp.regs.pc + 8) none none s.cp.k)
  ∧ (∀ (x : Regs) (g : Guard), x.guard g = if g.neg then !x.pred g.p else x.pred g.p)
  ∧ (∀ x : Regs, x.pred 0 = true)
  ∧ (∀ (s : State) (w : Word), w.extractLsb' 57 1 = 1#1 → w.extractLsb' 54 3 = 0#3 →
    decode w = .error .guard ∧ Traps (.reservedOpcode w) s 0x01 w)

/-- Of every form of the table: when its guard holds, it is not privileged or runs in system mode, and KSTAT.VSTRICT
is 1, and a source is vacant and every source before it in field order is not, the form takes the VACANT trap with
that register's number in KTVAL, and no register's vacancy changes. (07_registers.md: General registers, predicates
and accumulators, 05_encoding.md: Last-use bits and vacancy) -/
def Obligations.VacantReadTraps : Prop :=
  ∀ (i : Instr) (s : State) (l r : List Src) (a : Src), (encode i).isSome = true →
    srcsOf i = l ++ a :: r → s.cp.regs.guard (guardOf i) = true → (privileged i = true → s.cp.k.sys = true) →
    s.cp.k.vstrict = true → s.cp.regs.vacant a.reg = true → (∀ b ∈ l, s.cp.regs.vacant b.reg = false) →
    Traps i s 0x03 (a.reg.setWidth 64)

/-- halt, tret, the frz and xlat forms, and kwr, kset and kclr naming a system k-register raise PRIV in task mode
with no effect when their guard holds; KTVAL holds the instruction word. Those are all the forms that the predicate
privileged names. (05_encoding.md: Privilege and the order of checks, 08_scalar.md: System forms) -/
def Obligations.PrivilegedFormsTrap : Prop :=
  (∀ (i : Instr) (s : State) (w : Word), encode i = some w → privileged i = true →
    s.cp.regs.guard (guardOf i) = true → s.cp.k.sys = false → Traps i s 0x02 w)
  ∧ (∀ i : Instr, privileged i = true ↔
      (∃ g, i = .halt g) ∨ (∃ g, i = .tret g) ∨ (∃ g d a b, i = .frzSave g d a b) ∨ (∃ g d a q, i = .frzLoad g d a q)
      ∨ (∃ g d a b c m, i = .xlatInv g d a b c m) ∨ (∃ g d a b l, i = .xlatProbe g d a b l)
      ∨ (∃ g d u a t, i = .xlatRes g d u a t)
      ∨ (∃ g k a, (i = .kwr g k a ∨ i = .kset g k a ∨ i = .kclr g k a)
          ∧ (k = .kcause ∨ k = .kepc ∨ k = .ktval ∨ k = .ktvec ∨ k = .kscratch)))

/-- A trap of any cause writes KCAUSE, KEPC and KTVAL, sets PSYS to the old SYS and SYS to 1, and sets the program
counter to KTVEC.BASE * 8, in system mode too. tret sets the program counter to KEPC with bits 2:0 zero and SYS to
PSYS, and leaves PSYS. (R149) -/
def Obligations.TrapsAndReturns : Prop :=
  (∀ (x : Cp) (cause : BitVec 6) (epc tval : Word),
    let y := x.trap cause epc tval
    y.k.cause = cause ∧ y.k.epc = epc ∧ y.k.tval = tval ∧ y.k.psys = x.k.sys ∧ y.k.sys = true
    ∧ y.regs.pc = BitVec.ofNat 64 (x.k.tvec.toNat * 8)
    ∧ y.regs.g = x.regs.g ∧ y.regs.vac = x.regs.vac ∧ y.regs.preds = x.regs.preds)
  ∧ (∀ (s : State) (g : Guard), Ready s g true [] →
    ∃ t, exec (.tret g) s = .next t
      ∧ Ends s t [] (BitVec.ofNat 64 (s.cp.k.epc.toNat / 8 * 8)) none none { s.cp.k with sys := s.cp.k.psys })

/-- nop only advances the program counter; halt ends instruction issue; trap and brk raise TRAPI and BRK with the
zero-extended code; a reserved word raises ILLOP with the word, whatever the guard and the mode. (08_scalar.md:
System forms, 05_encoding.md: Privilege and the order of checks) -/
def Obligations.SystemForms : Prop :=
  ∀ (s : State) (g : Guard) (code : BitVec 16) (w : Word),
    (Ready s g false [] → ∃ t, exec (.nop g) s = .next t ∧ Ends s t [] (s.cp.regs.pc + 8) none none s.cp.k)
    ∧ (Ready s g true [] → ∃ t, exec (.halt g) s = .next t ∧ t.cp.ctl.halted = true ∧ t.cp.alive = false
        ∧ t.cp.regs.pc = s.cp.regs.pc + 8 ∧ t.cp.k = s.cp.k ∧ (∀ r, t.cp.regs.get r = s.cp.regs.get r)
        ∧ t = s.modCp fun _ => t.cp)
    ∧ (Ready s g false [] → Traps (.trap g code) s 0x09 (code.setWidth 64))
    ∧ (Ready s g false [] → Traps (.brk g code) s 0x0A (code.setWidth 64))
    ∧ Traps (.reservedOpcode w) s 0x01 w

/-- The two-source integer forms, clz, ctz, popc and sel write the value that the table gives, computed from the
operands as numbers, to gD; the vacancies of last-use sources aside, nothing else changes. (08_scalar.md: Integer
register forms) -/
def Obligations.IntegerResults : Prop :=
  ∀ (s : State) (g : Guard) (d : Reg) (a b : Src) (p : PReg),
    let A := s.cp.val a
    let B := s.cp.val b
    let n := B.toNat % 64
    (Ready s g false [a, b] →
      Writes (.add g d a b) s [a, b] d (BitVec.ofNat 64 (A.toNat + B.toNat))
      ∧ Writes (.sub g d a b) s [a, b] d (BitVec.ofInt 64 (A.toNat - B.toNat))
      ∧ Writes (.and g d a b) s [a, b] d (A &&& B) ∧ Writes (.or g d a b) s [a, b] d (A ||| B)
      ∧ Writes (.xor g d a b) s [a, b] d (A ^^^ B) ∧ Writes (.andn g d a b) s [a, b] d (A &&& ~~~B)
      ∧ Writes (.shl g d a b) s [a, b] d (BitVec.ofNat 64 (A.toNat * 2 ^ n))
      ∧ Writes (.shr g d a b) s [a, b] d (BitVec.ofNat 64 (A.toNat / 2 ^ n))
      ∧ Writes (.sra g d a b) s [a, b] d (BitVec.ofInt 64 (A.toInt / 2 ^ n))
      ∧ Writes (.rol g d a b) s [a, b] d
          (BitVec.ofNat 64 (A.toNat * 2 ^ n) ||| BitVec.ofNat 64 (A.toNat / 2 ^ (64 - n)))
      ∧ Writes (.min g d a b) s [a, b] d (if A.toInt ≤ B.toInt then A else B)
      ∧ Writes (.max g d a b) s [a, b] d (if A.toInt ≤ B.toInt then B else A)
      ∧ Writes (.minz g d a b) s [a, b] d (if A.toNat ≤ B.toNat then A else B)
      ∧ Writes (.maxz g d a b) s [a, b] d (if A.toNat ≤ B.toNat then B else A)
      ∧ Writes (.mul g d a b) s [a, b] d (BitVec.ofNat 64 (A.toNat * B.toNat))
      ∧ Writes (.mulh g d a b) s [a, b] d (BitVec.ofInt 64 (A.toInt * B.toInt / 2 ^ 64))
      ∧ Writes (.mulhz g d a b) s [a, b] d (BitVec.ofNat 64 (A.toNat * B.toNat / 2 ^ 64))
      ∧ Writes (.sel g d a b p) s [a, b] d (if s.cp.regs.pred p then A else B))
    ∧ (Ready s g false [a] →
      (∃ k, Writes (.clz g d a) s [a] d (BitVec.ofNat 64 k) ∧ k ≤ 64
        ∧ (∀ j, j < k → A.getLsbD (63 - j) = false) ∧ (k < 64 → A.getLsbD (63 - k) = true))
      ∧ (∃ k, Writes (.ctz g d a) s [a] d (BitVec.ofNat 64 k) ∧ k ≤ 64
        ∧ (∀ j, j < k → A.getLsbD j = false) ∧ (k < 64 → A.getLsbD k = true))
      ∧ Writes (.popc g d a) s [a] d (BitVec.ofNat 64 ((List.range 64).countP fun j => A.getLsbD j)))

/-- Division truncates toward zero, and a zero divisor and the one overflowing quotient give the results of the
rule; nothing traps and no flag is set. (R152) -/
def Obligations.DivisionResults : Prop :=
  ∀ (s : State) (g : Guard) (d : Reg) (a b : Src), Ready s g false [a, b] →
    let A := s.cp.val a
    let B := s.cp.val b
    Writes (.div g d a b) s [a, b] d
      (if B.toNat = 0 then 0xFFFFFFFFFFFFFFFF
        else if A.toInt = -2 ^ 63 ∧ B.toInt = -1 then 0x8000000000000000
        else BitVec.ofInt 64 (A.toInt.tdiv B.toInt))
    ∧ Writes (.divz g d a b) s [a, b] d
      (if B.toNat = 0 then 0xFFFFFFFFFFFFFFFF else BitVec.ofNat 64 (A.toNat / B.toNat))
    ∧ Writes (.rem g d a b) s [a, b] d
      (if B.toNat = 0 then A
        else if A.toInt = -2 ^ 63 ∧ B.toInt = -1 then 0
        else BitVec.ofInt 64 (A.toInt - B.toInt * A.toInt.tdiv B.toInt))
    ∧ Writes (.remz g d a b) s [a, b] d
      (if B.toNat = 0 then A else BitVec.ofNat 64 (A.toNat - B.toNat * (A.toNat / B.toNat)))
    ∧ (∀ v, Writes (.rem g d a b) s [a, b] d v → d ≠ 0 → v ≠ 0 → (v.toInt < 0 ↔ A.toInt < 0))

/-- With pos = C[5:0] and len = min(C[14:8], 64), bext writes the field of the 128-bit pair B:A and bins inserts the
low bits of B into A; the lengths 0 and the two worked values come out as the rule says. (R153) -/
def Obligations.BitFieldResults : Prop :=
  (∀ (s : State) (g : Guard) (d : Reg) (a b c : Src), Ready s g false [a, b, c] →
    let A := s.cp.val a
    let B := s.cp.val b
    let pos := (s.cp.val c).toNat % 64
    let len := min ((s.cp.val c).toNat / 256 % 128) 64
    let m := BitVec.ofNat 64 ((2 ^ len - 1) * 2 ^ pos)
    Writes (.bext g d a b c) s [a, b, c] d
      (BitVec.ofNat 64 ((B.toNat * 2 ^ 64 + A.toNat) / 2 ^ pos % 2 ^ len))
    ∧ Writes (.bins g d a b c) s [a, b, c] d ((A &&& ~~~m) ||| (BitVec.ofNat 64 (B.toNat * 2 ^ pos) &&& m))
    ∧ (len = 0 → Writes (.bext g d a b c) s [a, b, c] d 0 ∧ Writes (.bins g d a b c) s [a, b, c] d A))
  ∧ bitExtract 0x1122334455667788 0x99AABBCCDDEEFFEE 0x1038 = 0xEE11
  ∧ bitInsert 0xFFFFFFFFFFFFFFFF 0xABC 0x0C3C = 0xCFFFFFFFFFFFFFFF

/-- The immediate forms write the value that the table gives, computed from A and the sign-extended immediate as
numbers; li and li.h build a constant. (08_scalar.md: Immediate forms) -/
def Obligations.ImmediateResults : Prop :=
  ∀ (s : State) (g : Guard) (d : Reg) (a : Src) (imm : BitVec 37) (n : BitVec 6) (h : BitVec 27),
    let A := s.cp.val a
    let I := BitVec.ofInt 64 imm.toInt
    (Ready s g false [a] →
      Writes (.addi g d a imm) s [a] d (BitVec.ofInt 64 (A.toNat + imm.toInt))
      ∧ Writes (.andi g d a imm) s [a] d (A &&& I) ∧ Writes (.ori g d a imm) s [a] d (A ||| I)
      ∧ Writes (.xori g d a imm) s [a] d (A ^^^ I)
      ∧ Writes (.shli g d a n) s [a] d (BitVec.ofNat 64 (A.toNat * 2 ^ n.toNat))
      ∧ Writes (.shri g d a n) s [a] d (BitVec.ofNat 64 (A.toNat / 2 ^ n.toNat))
      ∧ Writes (.srai g d a n) s [a] d (BitVec.ofInt 64 (A.toInt / 2 ^ n.toNat))
      ∧ Writes (.liH g d a h) s [a] d (BitVec.ofNat 64 (A.toNat % 2 ^ 37 + h.toNat * 2 ^ 37)))
    ∧ (Ready s g false [] → Writes (.li g d imm) s [] d I)

/-- The cmp and cmpi forms write whether the relation holds of the operands as numbers; the predicate forms combine
predicates; pget writes 1 or 0 to a general register. A write to p0 is discarded. (08_scalar.md: Compare and
predicate forms) -/
def Obligations.CompareAndPredicateForms : Prop :=
  ∀ (s : State) (g : Guard) (d : PReg) (r : Reg) (a b : Src) (imm : BitVec 37) (p q : PReg),
    let A := s.cp.val a
    let B := s.cp.val b
    let I := BitVec.ofInt 64 imm.toInt
    (Ready s g false [a, b] →
      Decides (.cmpEq g d a b) s [a, b] d (decide (A = B)) ∧ Decides (.cmpNe g d a b) s [a, b] d (decide (A ≠ B))
      ∧ Decides (.cmpLt g d a b) s [a, b] d (decide (A.toInt < B.toInt))
      ∧ Decides (.cmpGe g d a b) s [a, b] d (decide (B.toInt ≤ A.toInt))
      ∧ Decides (.cmpLo g d a b) s [a, b] d (decide (A.toNat < B.toNat))
      ∧ Decides (.cmpHs g d a b) s [a, b] d (decide (B.toNat ≤ A.toNat)))
    ∧ (Ready s g false [a] →
      Decides (.cmpiEq g d a imm) s [a] d (decide (A = I)) ∧ Decides (.cmpiNe g d a imm) s [a] d (decide (A ≠ I))
      ∧ Decides (.cmpiLt g d a imm) s [a] d (decide (A.toInt < I.toInt))
      ∧ Decides (.cmpiGe g d a imm) s [a] d (decide (I.toInt ≤ A.toInt))
      ∧ Decides (.cmpiLo g d a imm) s [a] d (decide (A.toNat < I.toNat))
      ∧ Decides (.cmpiHs g d a imm) s [a] d (decide (I.toNat ≤ A.toNat)))
    ∧ (Ready s g false [] →
      let P := s.cp.regs.pred p
      let Q := s.cp.regs.pred q
      Decides (.pand g d p q) s [] d (P && Q) ∧ Decides (.por g d p q) s [] d (P || Q)
      ∧ Decides (.pxor g d p q) s [] d (P ^^ Q) ∧ Decides (.pandn g d p q) s [] d (P && !Q)
      ∧ Decides (.pmov g d p) s [] d P ∧ Writes (.pget g r p) s [] r (if P then 1 else 0))

/-- br and call go to pc + 8 * sext(OFF32); ret and jr go to the value of A when it is a multiple of 8, call and jr
write pc + 8 as the link, and jr reads A before it writes the link; any other value of A raises ALIGN with the
target in KTVAL, writes no link and vacates nothing. (08_scalar.md: Branches, 05_encoding.md: Instruction words) -/
def Obligations.Branches : Prop :=
  ∀ (s : State) (g : Guard) (d : Reg) (a : Src) (off : BitVec 32),
    let pc := s.cp.regs.pc
    let tgt := BitVec.ofInt 64 (pc.toNat + 8 * off.toInt)
    let A := s.cp.val a
    (Ready s g false [] →
      (∃ t, exec (.br g off) s = .next t ∧ Ends s t [] tgt none none s.cp.k)
      ∧ (∃ t, exec (.call g d off) s = .next t ∧ Ends s t [] tgt (some (d, pc + 8)) none s.cp.k))
    ∧ (Ready s g false [a] → A.toNat % 8 = 0 →
      (∃ t, exec (.ret g a) s = .next t ∧ Ends s t [a] A none none (kAfter s [a]))
      ∧ (∃ t, exec (.jr g d a) s = .next t ∧ Ends s t [a] A (some (d, pc + 8)) none (kAfter s [a])))
    ∧ (Ready s g false [a] → A.toNat % 8 ≠ 0 → Traps (.ret g a) s 0x04 A ∧ Traps (.jr g d a) s 0x04 A)

/-- loop reads the counter; at zero it falls through and writes nothing; else it writes the counter less one and
branches when that is not zero. A vacant counter reads zero with VSTRICT = 0, stays vacant and sets VREAD; with a
failed guard the counter is neither read nor written. A word whose B field names g0 is refused, and the reserved
opcode raises ILLOP. (R158) -/
def Obligations.CountedLoop : Prop :=
  (∀ (s : State) (g : Guard) (b : Reg) (off : BitVec 32), Ready s g false [⟨b, false⟩] →
    let c := s.cp.regs.get b
    let tgt := BitVec.ofInt 64 (s.cp.regs.pc.toNat + 8 * off.toInt)
    let k := kAfter s [⟨b, false⟩]
    ∃ t, exec (.loop g b off) s = .next t
      ∧ (c = 0 → Ends s t [] (s.cp.regs.pc + 8) none none k)
      ∧ (c ≠ 0 → Ends s t [] (if c.toNat = 1 then s.cp.regs.pc + 8 else tgt) (some (b, c - 1)) none k)
      ∧ (s.cp.regs.vacant b = true → c = 0 ∧ t.cp.regs.vacant b = true ∧ t.cp.k.vread = true))
  ∧ (∀ (s : State) (g : Guard) (b : Reg) (off : BitVec 32), s.cp.regs.guard g = false →
    ∃ t, exec (.loop g b off) s = .next t ∧ Ends s t [] (s.cp.regs.pc + 8) none none s.cp.k)
  ∧ (∀ (g : Guard) (off : BitVec 32) (s : State) (w : Word), g.ok = true → encode (.loop g 0 off) = some w →
    decode w = .error .counter ∧ Traps (.reservedOpcode w) s 0x01 w)

/-- Completion of krd, kwr, kset and kclr, on every k-register. krd writes the register to gD with its reserved bits
zero. kwr writes, kset sets and kclr clears the bits of RW and RWS fields; kwr and kclr clear the bits of W1C fields
that the operand has set and kset leaves them; RO fields keep their value; KFPM.RM keeps its value when the new one
is above 3. KCAUSE, KEPC, KTVAL, KTVEC and KSCRATCH are written in system mode only. The next instruction follows
and no other state changes. (08_scalar.md: k-register access, 07_registers.md: k-registers, 05_encoding.md:
Privilege and the order of checks) -/
def Obligations.KRegisterForms : Prop :=
  ∀ (s : State) (g : Guard) (d : Reg) (a : Src) (r : KReg),
    let A := s.cp.val a
    let x := s.cp.k
    let k := kAfter s [a]
    let writes (i : Instr) (m : KRegs) : Prop :=
      ∃ t, exec i s = .next t ∧ Ends s t [a] (s.cp.regs.pc + 8) none none m
    let rm (n : BitVec 3) : BitVec 3 := if n.toNat < 4 then n else k.rm
    let value : Nat := match r with
      | .kstat => x.psys.toNat * 32 + x.sys.toNat * 16 + x.vread.toNat * 2 + x.vstrict.toNat
      | .kcause => x.cause.toNat
      | .kepc => x.epc.toNat / 8 * 8
      | .ktval => x.tval.toNat
      | .ktvec => x.tvec.toNat * 8
      | .kscratch => x.scratch.toNat
      | .kfpm => x.flags.toNat * 16 + x.rm.toNat
      | .kevt => x.evt.toNat
      | .kctx => x.ctag.toNat
      | .kcore => s.pkg.kpkg.toNat * 2 ^ 18 + originId s.focus.val 0
      | .ktask => x.queue.toNat * 256 + x.slot.toNat
      | .kgroup => x.first.toNat * 2 ^ 18 + x.rank.toNat * 256 + x.shape.toNat
      | .kargbase => x.argbase.toNat
      | .kprio => x.prio.toNat
      | .kqui => x.verdict.toNat * 2 ^ 16 + x.qcount.toNat
      | .kcyc => s.kcyc.toNat
      | .ktime => s.ktime.toNat
    (Ready s g false [] → Writes (.krd g d r) s [] d (BitVec.ofNat 64 value))
    ∧ (Ready s g (decide (r = .kcause ∨ r = .kepc ∨ r = .ktval ∨ r = .ktvec ∨ r = .kscratch)) [a] →
      writes (.kwr g r a) (match r with
        | .kstat => { k with vread := k.vread && !A.getLsbD 1, vstrict := A.getLsbD 0 }
        | .kepc => { k with epc := A }
        | .ktvec => { k with tvec := A.extractLsb' 3 61 }
        | .kscratch => { k with scratch := A }
        | .kfpm => { k with flags := k.flags &&& ~~~A.extractLsb' 4 5, rm := rm (A.extractLsb' 0 3) }
        | .kevt => { k with evt := A.extractLsb' 0 4 }
        | _ => k)
      ∧ writes (.kset g r a) (match r with
        | .kstat => { k with vstrict := k.vstrict || A.getLsbD 0 }
        | .kepc => { k with epc := k.epc ||| A }
        | .ktvec => { k with tvec := k.tvec ||| A.extractLsb' 3 61 }
        | .kscratch => { k with scratch := k.scratch ||| A }
        | .kfpm => { k with rm := rm (k.rm ||| A.extractLsb' 0 3) }
        | .kevt => { k with evt := k.evt ||| A.extractLsb' 0 4 }
        | _ => k)
      ∧ writes (.kclr g r a) (match r with
        | .kstat => { k with vread := k.vread && !A.getLsbD 1, vstrict := k.vstrict && !A.getLsbD 0 }
        | .kepc => { k with epc := k.epc &&& ~~~A }
        | .ktvec => { k with tvec := k.tvec &&& ~~~A.extractLsb' 3 61 }
        | .kscratch => { k with scratch := k.scratch &&& ~~~A }
        | .kfpm => { k with
            flags := k.flags &&& ~~~A.extractLsb' 4 5, rm := rm (k.rm &&& ~~~A.extractLsb' 0 3) }
        | .kevt => { k with evt := k.evt &&& ~~~A.extractLsb' 0 4 }
        | _ => k))

/-- Each form writes the result of its operation under KFPM.RM to gD, fcmp to pD, and adds the flags it raises to
KFPM.FLAGS, where they stay; fclass raises none. No form traps on any operand, and nothing else changes.
(08_scalar.md: Scalar floating point) -/
def Obligations.FloatingFormsComplete : Prop :=
  ∀ (s : State) (g : Guard) (f : Prec) (d : Reg) (p : PReg) (a b c : Src) (rel : FRel) (fromInt : Bool) (n : FNum),
    let A := s.cp.val a
    let B := s.cp.val b
    let C := s.cp.val c
    let m := scalarMode s.cp.k.rm
    let ends (i : Instr) (srcs : List Src) (r : Word × FFlags) :=
      ∃ t, exec i s = .next t ∧ Ends s t srcs (s.cp.regs.pc + 8) (some (d, r.1)) none
        { kAfter s srcs with flags := s.cp.k.flags ||| r.2 }
    (Ready s g false [a, b] →
      ends (.fadd g f d a b) [a, b] (fpAdd f m A B) ∧ ends (.fsub g f d a b) [a, b] (fpSub f m A B)
      ∧ ends (.fmul g f d a b) [a, b] (fpMul f m A B) ∧ ends (.fdiv g f d a b) [a, b] (fpDiv f m A B)
      ∧ ends (.fmin g f d a b) [a, b] (fpMinMax f false A B) ∧ ends (.fmax g f d a b) [a, b] (fpMinMax f true A B)
      ∧ ∃ t, exec (.fcmp g f rel p a b) s = .next t ∧ Ends s t [a, b] (s.cp.regs.pc + 8) none
          (some (p, (fpCmp f rel A B).1)) { kAfter s [a, b] with flags := s.cp.k.flags ||| (fpCmp f rel A B).2 })
    ∧ (Ready s g false [a, b, c] → ends (.ffma g f d a b c) [a, b, c] (fpFma f m A B C))
    ∧ (Ready s g false [a] →
      ends (.fsqrt g f d a) [a] (fpSqrt f m A) ∧ ends (.fcvt g f fromInt n d a) [a] (fpConvert f fromInt n m A)
      ∧ ends (.fclass g f d a) [a] (fpClass f A, 0))

/-- If exactly one operand is a NaN the result is the other operand; if both are, it is the canonical NaN; else it
is one of the operands and no operand is beyond it, -0 counting as less than +0; a signalling NaN sets NV and no
other flag is set. (R165) -/
def Obligations.FloatingMinMax : Prop :=
  ∀ (f : Prec) (a b : Word),
    let x := f.operand a
    let y := f.operand b
    let lo := fpMinMax f false a b
    let hi := fpMinMax f true a b
    (x.isNan = true ∧ y.isNan = false → lo.1 = f.clean b ∧ hi.1 = f.clean b)
    ∧ (x.isNan = false ∧ y.isNan = true → lo.1 = f.clean a ∧ hi.1 = f.clean a)
    ∧ (x.isNan = true ∧ y.isNan = true → lo.1 = f.nan ∧ hi.1 = f.nan)
    ∧ (x.isNan = false ∧ y.isNan = false →
      (lo.1 = f.clean a ∧ y.less true x = false ∨ lo.1 = f.clean b ∧ x.less true y = false)
      ∧ (hi.1 = f.clean a ∧ x.less true y = false ∨ hi.1 = f.clean b ∧ y.less true x = false))
    ∧ lo.2 = (if x.isSignalling || y.isSignalling then flNV else 0) ∧ hi.2 = lo.2
    ∧ (fpMinMax f false (f.zero false) (f.zero true)).1 = f.zero true
    ∧ (fpMinMax f true (f.zero false) (f.zero true)).1 = f.zero false

/-- For every operand the mask of fclass has exactly one bit set, at a position below 10, and it is the class of the
operand: infinities, NaNs and zeros as the table says. (08_scalar.md: Scalar floating point) -/
def Obligations.FloatingClass : Prop :=
  ∀ (f : Prec) (a : Word),
    (∃ n, n < 10 ∧ fpClass f a = BitVec.ofNat 64 (2 ^ n))
    ∧ (fpClass f a = 2 ^ 8 ↔ f.operand a = .nan true) ∧ (fpClass f a = 2 ^ 9 ↔ f.operand a = .nan false)
    ∧ (fpClass f a = 1 ↔ f.operand a = .inf true) ∧ (fpClass f a = 2 ^ 7 ↔ f.operand a = .inf false)
    ∧ (fpClass f a = 2 ^ 3 ↔ ∃ e, f.operand a = .fin true 0 e) ∧ (fpClass f a = 2 ^ 4 ↔ ∃ e, f.operand a = .fin false 0 e)

/-- 1.0 + 2^-24 in binary32 is 1.0 under RNE, RTZ and RDN and 1 + 2^-23 under RUP, with NX alone raised, and
fcvt.w.d of 2.5 gives 2 under RNE and 3 under RUP, with NX, and of -3 * 10^10 the least integer with NV alone.
(08_scalar.md: Scalar floating point) -/
def Obligations.FloatingRoundsTies : Prop :=
  fpAdd .s .rne 0x3F800000 0x33800000 = (0x3F800000, flNX)
  ∧ fpAdd .s .rtz 0x3F800000 0x33800000 = (0x3F800000, flNX)
  ∧ fpAdd .s .rup 0x3F800000 0x33800000 = (0x3F800001, flNX)
  ∧ fpAdd .s .rdn 0x3F800000 0x33800000 = (0x3F800000, flNX)
  ∧ fpConvert .d false .w .rne 0x4004000000000000 = (2, flNX)
  ∧ fpConvert .d false .w .rup 0x4004000000000000 = (3, flNX)
  ∧ fpConvert .d false .w .rne 0xC21BF08EB0000000 = (0xFFFFFFFF80000000, flNV)

/-- A load whose guard holds, whose page translates and whose region admits it posts a read of its bytes at A + B +
sext(OFF26), with its ordering bits; its destination is pending until the value returns, its last-use sources are
vacant, those of a read of another package once it returns (DEDUCED, log entry 7), and the next instruction follows.
No register is written, and no memory changes. (12_memory_instr.md: Loads and stores, 08_scalar.md: Command results
and register instructions) -/
def Obligations.LoadsPost : Prop :=
  ∀ (s u : State) (g : Guard) (d : Reg) (m : MemOp) (gs : List Seg),
    let ea := BitVec.ofInt 64 ((s.cp.val m.a).toNat + (s.cp.val m.b).toNat + m.off.toInt)
    let posts (i : Instr) (n : Nat) (signed : Bool) : Prop :=
      Issues i s u g [m.a, m.b] ea n (.load n signed) .plain m.ar m.sc gs →
        Posts i s u [m.a, m.b] (.load n signed) gs 0 0 d m.ar m.sc
    posts (.ldS8 g d m) 1 true
    ∧ posts (.ldZ8 g d m) 1 false
    ∧ posts (.ldS16 g d m) 2 true
    ∧ posts (.ldZ16 g d m) 2 false
    ∧ posts (.ldS32 g d m) 4 true
    ∧ posts (.ldZ32 g d m) 4 false
    ∧ posts (.ld64 g d m) 8 false

/-- A store whose guard holds, whose page translates and whose region admits it posts a write of the low bytes of
its data register at A + B + sext(OFF26), with its ordering bits; last-use sources are vacant, and the next
instruction follows. No byte changes before the home performs the access. (12_memory_instr.md: Loads and stores) -/
def Obligations.StoresPost : Prop :=
  ∀ (s u : State) (g : Guard) (v : Src) (m : MemOp) (gs : List Seg),
    let ea := BitVec.ofInt 64 ((s.cp.val m.a).toNat + (s.cp.val m.b).toNat + m.off.toInt)
    let posts (i : Instr) (n : Nat) : Prop :=
      Issues i s u g [m.a, m.b, v] ea n (.store n) .plain m.ar m.sc gs →
        Posts i s u [m.a, m.b, v] (.store n) gs (s.cp.val v) 0 0 m.ar m.sc
    posts (.st8 g v m) 1
    ∧ posts (.st16 g v m) 2
    ∧ posts (.st32 g v m) 4
    ∧ posts (.st64 g v m) 8

/-- An aligned atomic whose page translates for reading and writing and whose region admits it posts its operation
on w bits at A + sext(OFF26), with B and, for amo.cas, D as operands; its destination is pending until the old value
returns, and the last uses of an atomic on another package take effect with that return (DEDUCED, log entry 7). An
address that is not a multiple of the size raises ALIGN with the address in KTVAL. (12_memory_instr.md: Atomics) -/
def Obligations.AtomicsPost : Prop :=
  ∀ (s u : State) (g : Guard) (d : Reg) (b : Src) (m : AmoOperand) (gs : List Seg),
    let ea := BitVec.ofInt 64 ((s.cp.val m.a).toNat + m.off.toInt)
    let posts (i : Instr) (op : AmoOp) (wide : Bool) (n : Nat) : Prop :=
      let srcs : List Src := if op = .cas then [m.a, b, ⟨d, false⟩] else [m.a, b]
      (Issues i s u g srcs ea n (.amo op wide) (.atomic op) m.ar m.sc gs →
        Posts i s u srcs (.amo op wide) gs (s.cp.val b) (s.cp.regs.get d) d m.ar m.sc)
      ∧ (Ready s g false srcs → s.cp.held i = false → ea.toNat % n ≠ 0 → Traps i s 0x04 ea)
    posts (.amoAdd64 g d b m) .add true 8
    ∧ posts (.amoMin64 g d b m) .min true 8
    ∧ posts (.amoMax64 g d b m) .max true 8
    ∧ posts (.amoMinz64 g d b m) .minz true 8
    ∧ posts (.amoMaxz64 g d b m) .maxz true 8
    ∧ posts (.amoAnd64 g d b m) .and true 8
    ∧ posts (.amoOr64 g d b m) .or true 8
    ∧ posts (.amoXor64 g d b m) .xor true 8
    ∧ posts (.amoSwap64 g d b m) .swap true 8
    ∧ posts (.amoCas64 g d b m) .cas true 8
    ∧ posts (.amoFadd64 g d b m) .fadd true 8
    ∧ posts (.amoAdd32 g d b m) .add false 4
    ∧ posts (.amoMin32 g d b m) .min false 4
    ∧ posts (.amoMax32 g d b m) .max false 4
    ∧ posts (.amoMinz32 g d b m) .minz false 4
    ∧ posts (.amoMaxz32 g d b m) .maxz false 4
    ∧ posts (.amoAnd32 g d b m) .and false 4
    ∧ posts (.amoOr32 g d b m) .or false 4
    ∧ posts (.amoXor32 g d b m) .xor false 4
    ∧ posts (.amoSwap32 g d b m) .swap false 4
    ∧ posts (.amoCas32 g d b m) .cas false 4
    ∧ posts (.amoFadd32 g d b m) .fadd false 4

/-- Every load form whose translation fails takes the trap of the failure, a walk that fails once no earlier access
is ordered before it (DEDUCED, log entry 7), and so does one whose region does not admit it; KEPC is the address of
the load; its destination and every other register keep their values and their vacancies, no request is made, and no
memory changes. (12_memory_instr.md: Loads and stores, 22_freeze.md: Causes and what KTVAL holds) -/
def Obligations.AccessFaults : Prop :=
  ∀ (s u : State) (g : Guard) (d : Reg) (m : MemOp) (f : Fail) (i : Instr) (n : Nat) (b : Bool),
    (i, n, b) ∈ [(.ldS8 g d m, 1, true), (.ldZ8 g d m, 1, false), (.ldS16 g d m, 2, true), (.ldZ16 g d m, 2, false),
      (.ldS32 g d m, 4, true), (.ldZ32 g d m, 4, false), ((.ld64 g d m : Instr), 8, false)] →
    let ea := BitVec.ofInt 64 ((s.cp.val m.a).toNat + (s.cp.val m.b).toNat + m.off.toInt)
    Ready s g false [m.a, m.b] → s.cp.held i = false →
    (accessParts ea.toNat n).any (fun p => s.walkWaits s.focus.val ((ea.toNat + p.1) % 2 ^ 64)) = false →
    (s.translateParts s.focus.val ea.toNat .read s.cp.k.sys (accessParts ea.toNat n) = (u, .error f)
        ∧ (f.cause = 0x06 ∨ s.cp.ctl.reqs.any (fun x => s.mayOrder s.focus.val x (.load n b) m.ar m.sc) = false)
      ∨ ∃ gs, s.translateParts s.focus.val ea.toNat .read s.cp.k.sys (accessParts ea.toNat n) = (u, .ok gs)
        ∧ u.regionFail ea.toNat n .plain false s.cp.k.sys gs = some f) →
    ∃ t, exec i s = .next t ∧ t.cp.k.cause = f.cause ∧ t.cp.k.tval = f.val ∧ t.cp.k.epc = s.cp.regs.pc
      ∧ t.cp.regs.pc = s.cp.k.tvec.setWidth 64 <<< 3 ∧ (∀ r, t.cp.regs.get r = s.cp.regs.get r)
      ∧ (∀ r, t.cp.regs.vacant r = s.cp.regs.vacant r) ∧ t.cp.ctl.reqs = s.cp.ctl.reqs
      ∧ t.cp.ctl.pend = s.cp.ctl.pend ∧ t.mem = s.mem

/-- When the home of a load of one part performs it, the register it fills receives the sign- or zero-extended
little-endian value of the bytes as they stand, the request is gone, and every byte of memory and every register
reads as before. When a home performs one part of the read of a record, its bytes join those read before it, and
after the last part the form that stands has the record; no byte of memory, no register and no pending register
changes. A last use of a read of another package takes effect with its return (DEDUCED, log entry 7).
(10_memories.md: Tiles and banks, 12_memory_instr.md: Loads and stores) -/
def Obligations.HomePerformsLoad : Prop :=
  ∀ (s : State) (c : CoreIx) (r : CpReq) (g : Seg) (n : Nat) (signed : Bool),
    listFind (fun q => q.id == r.id) (s.cpOf c.val).ctl.reqs = some r → g.done = false → s.reqBarred c.val r = false →
    s.lateFail r = none → (s.isOwn g.pa && regionOf (paKind g.pa) == .mmio) = false →
    (r.op = .load n signed → r.segs = [g] → g.off = 0 → g.n = n → r.got = [] →
      ∃ t, exec (.bankAccess (.core c) r.id 0) s = .next t
      ∧ (t.cpOf c.val).ctl.pend = (s.cpOf c.val).ctl.pend.map (fun p =>
          if p.reg = r.dest then
            { p with val := some (if signed then BitVec.ofInt 64 (signedOf (8 * n) (s.natAt g.pa n))
                                  else BitVec.ofNat 64 (s.natAt g.pa n)) }
          else p)
      ∧ (t.cpOf c.val).ctl.reqs = (s.cpOf c.val).ctl.reqs.filter (fun q => q.id != r.id)
      ∧ (r.far = false → (t.cpOf c.val).regs = (s.cpOf c.val).regs)
      ∧ (∀ q, (t.cpOf c.val).regs.get q =
          if r.far = true ∧ lastUse r.srcs q = true then 0 else (s.cpOf c.val).regs.get q)
      ∧ (t.cpOf c.val).regs.pc = (s.cpOf c.val).regs.pc ∧ t.mem = s.mem)
    ∧ (∀ va j, r.op = .record va n → r.segs[j]? = some g →
      let got := putBytes r.got g.off (s.bytesAt g.pa g.n)
      ∃ t, exec (.bankAccess (.core c) r.id j) s = .next t
        ∧ (t.cpOf c.val).regs = (s.cpOf c.val).regs ∧ (t.cpOf c.val).ctl.pend = (s.cpOf c.val).ctl.pend ∧ t.mem = s.mem
        ∧ ((∀ k h, r.segs[k]? = some h → k ≠ j → h.done = true) →
          (t.cpOf c.val).ctl.records = (s.cpOf c.val).ctl.records ++ [⟨va, n, leNat got⟩]
          ∧ (t.cpOf c.val).ctl.reqs = (s.cpOf c.val).ctl.reqs.filter (fun q => q.id != r.id))
        ∧ (∀ k h, r.segs[k]? = some h → k ≠ j → h.done = false →
          (t.cpOf c.val).ctl.records = (s.cpOf c.val).ctl.records
          ∧ ∃ q ∈ (t.cpOf c.val).ctl.reqs, q.id = r.id ∧ q.got = got))

/-- When the home performs one part of a store, each byte of the part holds the byte of the data at its offset, and
every other byte of memory, every register and every k-register reads as before. (10_memories.md: Tiles and banks,
12_memory_instr.md: Loads and stores) -/
def Obligations.HomePerformsStore : Prop :=
  ∀ (s : State) (c : CoreIx) (r : CpReq) (j n : Nat) (g : Seg),
    listFind (fun q => q.id == r.id) (s.cpOf c.val).ctl.reqs = some r → r.op = .store n → r.segs[j]? = some g →
    g.off + g.n ≤ n → g.done = false → s.reqBarred c.val r = false → s.lateFail r = none →
    (s.isOwn g.pa && regionOf (paKind g.pa) == .mmio) = false →
    ∃ t, exec (.bankAccess (.core c) r.id j) s = .next t
      ∧ (∀ x, memGet t.mem x = if s.memKey g.pa ≤ x ∧ x < s.memKey g.pa + g.n
          then BitVec.ofNat 8 (r.data.toNat / 256 ^ (g.off + (x - s.memKey g.pa))) else memGet s.mem x)
      ∧ (t.cpOf c.val).regs = (s.cpOf c.val).regs ∧ (t.cpOf c.val).k = (s.cpOf c.val).k
      ∧ (∀ k, k ≠ c.val → t.core k = s.core k)

/-- When the home of an atomic performs it, the old value is returned zero-extended and the new value of the table
stands in its bytes in the same step; a failing amo.cas leaves every byte; every byte outside the word reads as
before. A last use of an atomic on another package takes effect with its return (DEDUCED, log entry 7).
(12_memory_instr.md: Atomics, 11_ordering.md: Atomicity) -/
def Obligations.HomePerformsAtomic : Prop :=
  ∀ (s : State) (c : CoreIx) (r : CpReq) (g : Seg) (op : AmoOp) (wide : Bool),
    listFind (fun q => q.id == r.id) (s.cpOf c.val).ctl.reqs = some r → r.op = .amo op wide → r.segs = [g] →
    g.n = (if wide then 8 else 4) → g.done = false → s.waveBars c.val g.pa = false → s.lateFail r = none →
    (s.isOwn g.pa && regionOf (paKind g.pa) == .mmio) = false →
    let w := 8 * g.n
    let old := s.natAt g.pa g.n
    let b := r.data.toNat % 2 ^ w
    let d := r.cmp.toNat % 2 ^ w
    let new : Nat := match op with
      | .add => (old + b) % 2 ^ w
      | .min => if signedOf w old ≤ signedOf w b then old else b
      | .max => if signedOf w old ≤ signedOf w b then b else old
      | .minz => min old b
      | .maxz => max old b
      | .and => old &&& b
      | .or => old ||| b
      | .xor => old ^^^ b
      | .swap => b
      | .cas => if old = d then b else old
      | .fadd => amoFadd wide old b
    ∃ t, exec (.bankAccess (.core c) r.id 0) s = .next t
      ∧ (t.cpOf c.val).ctl.pend = (s.cpOf c.val).ctl.pend.map (fun p =>
          if p.reg = r.dest then { p with val := some (BitVec.ofNat 64 old) } else p)
      ∧ t.natAt g.pa g.n = new
      ∧ (∀ x, ¬(s.memKey g.pa ≤ x ∧ x < s.memKey g.pa + g.n) → memGet t.mem x = memGet s.mem x)
      ∧ (t.cpOf c.val).ctl.reqs = (s.cpOf c.val).ctl.reqs.filter (fun q => q.id != r.id)
      ∧ (∀ q, (t.cpOf c.val).regs.get q =
          if r.far = true ∧ lastUse r.srcs q = true then 0 else (s.cpOf c.val).regs.get q)
      ∧ (t.cpOf c.val).regs.pc = (s.cpOf c.val).regs.pc

/-- PENDING_RESULT_WRITE writes the returned value to the pending register, which is pending no longer, and changes
nothing else. While a register other than g0 is pending, a form whose guard holds and that names it as a source or
as its destination waits, and so does one whose guard fails and that makes it vacant: the plan of its core carries
out no such form. (08_scalar.md: Command results and register instructions, 08_scalar.md: Issue and sequential
effect) -/
def Obligations.ResultsReturn : Prop :=
  (∀ (s : State) (c : CoreIx) (p : Pend) (v : Word),
    listFind (fun q => q.reg == p.reg && q.val.isSome) (s.cpOf c.val).ctl.pend = some p → p.val = some v →
    ∃ t, exec (.pendingResultWrite c p.reg) s = .next t
      ∧ (p.reg ≠ 0 → (t.cpOf c.val).regs.get p.reg = v) ∧ (t.cpOf c.val).isPending p.reg = false
      ∧ (∀ r, r ≠ p.reg → (t.cpOf c.val).regs.get r = (s.cpOf c.val).regs.get r)
      ∧ (t.cpOf c.val).k = (s.cpOf c.val).k ∧ t = s.modCpOf c.val fun _ => t.cpOf c.val)
  ∧ (∀ (x : Cp) (r : Reg) (p : Pend), p ∈ x.ctl.pend → p.reg = r → r ≠ 0 →
    (∀ i : Instr, x.regs.guard (guardOf i) = true →
      ((∃ a ∈ srcsOf i, a.reg = r) ∨ destOf i = some r) → x.waitsFor i = true)
    ∧ (∀ i : Instr, x.regs.guard (guardOf i) = false → (∃ a ∈ srcsOf i, a.reg = r ∧ a.last = true) → x.waitsFor i = true)
    ∧ (∀ (g : Guard) (d : Reg) (a b : Src) (m : MemOp) (n : AmoOperand), x.regs.guard g = true →
      (d = r ∨ a.reg = r ∨ b.reg = r → x.waitsFor (.add g d a b) = true)
      ∧ (d = r ∨ m.a.reg = r ∨ m.b.reg = r → x.waitsFor (.ld64 g d m) = true)
      ∧ (a.reg = r ∨ m.a.reg = r ∨ m.b.reg = r → x.waitsFor (.st64 g a m) = true)
      ∧ (d = r ∨ b.reg = r ∨ n.a.reg = r → x.waitsFor (.amoCas64 g d b n) = true)
      ∧ (d = r ∨ a.reg = r → x.waitsFor (.jr g d a) = true)
      ∧ (∀ off, d = r → x.waitsFor (.loop g d off) = true) ∧ (∀ k, d = r → x.waitsFor (.krd g d k) = true)))
  ∧ (∀ (s : State) (w : Word) (n : Nat), s.fetch s.focus.val = .word w n → s.cp.waitsFor (instrOf w) = true →
    s.cp.trapPending = false → s.cp.ctl.standing = none → s.plan s.focus = .idle)

/-- Completion of fence, fence.x, fence.cfg and FENCE_RESUME. fence and fence.x record the outstanding accesses
whose homes lie in their scope, fence.cfg the outstanding stores; a fence with nothing to wait for is met at once. A
fence.x that is not met holds every access and command, a fence the forms that make CP accesses and no other, and
fence.cfg the forms that start fills; a form that is held stands at issue with no other effect, which is stated of
loads, stores, atomics, semaphore forms and of commands to streams, templates, queues, the matrix unit, controllers,
caches, pair engine, KV directory and scheduler. FENCE_RESUME lets the form that stands issue again once no fence
holds it, and the fences that are met are gone. What each kind of fence holds, that one met at once is not kept and
that met ones go with the resume is read from the text (DEDUCED, log entry 79). (12_memory_instr.md: Fences,
11_ordering.md: Order within the control processor) -/
def Obligations.FencesHoldAndEnd : Prop :=
  (∀ (s : State) (g : Guard) (sc : BitVec 3), Ready s g false [] →
    let fence (ids : List Nat) (kind : FenceKind) : CpCtl :=
      let fs := s.cp.ctl.fences.filter fun f => !s.cp.ctl.met f
      { s.cp.ctl with fences := if ids.isEmpty then fs else fs ++ [⟨ids, kind⟩] }
    (∃ t, exec (.fence g sc) s = .next t
      ∧ Leaves s t [] (s.cp.regs.pc + 8) none none s.cp.k (fence (s.outstanding s.focus.val sc) .accesses))
    ∧ (∃ t, exec (.fenceX g sc) s = .next t
      ∧ Leaves s t [] (s.cp.regs.pc + 8) none none s.cp.k (fence (s.outstanding s.focus.val sc) .commands))
    ∧ (∃ t, exec (.fenceCfg g) s = .next t
      ∧ Leaves s t [] (s.cp.regs.pc + 8) none none s.cp.k
          (fence ((s.cp.ctl.reqs.filter fun r => r.op.writes).map fun r => r.id) .fills)))
  ∧ (∀ (x : Cp) (f : Fence) (i : Instr), f ∈ x.ctl.fences → (∃ id ∈ f.ids, ∃ r ∈ x.ctl.reqs, r.id = id) →
    (f.kind = .commands ∨ (f.kind = .accesses ∧ makesAccess i = true) ∨ (f.kind = .fills ∧ startsFill i = true)) →
    x.held i = true)
  ∧ (∀ (x : Cp) (i : Instr), (∀ f ∈ x.ctl.fences, x.ctl.met f = true
      ∨ (f.kind = .accesses ∧ makesAccess i = false) ∨ (f.kind = .fills ∧ startsFill i = false)) → x.held i = false)
  ∧ (∀ (s : State) (g : Guard) (d : Reg) (a b c : Src) (m : MemOp) (n : AmoOperand) (q : Fin 16) (ag : Fin 4) (sl : Fin 4)
      (ct : Fin 8) (u : CfgUnit) (sh : BitVec 16),
    let forms : List (Instr × List Src) :=
      [(.ld64 g d m, [m.a, m.b]), (.ldZ8 g d m, [m.a, m.b]), (.st64 g a m, [m.a, m.b, a]),
       (.amoAdd64 g d b n, [n.a, b]), (.amoSwap32 g d b n, [n.a, b]), (.semInit g d a b, [a, b]),
       (.semAdv g d a sh, [a]), (.semWait g d a b, [a, b]), (.strmRd g d ag a b c sl false, [a, b, c]),
       (.strmWr g d ag a b c sl false, [a, b, c]), (.tplArm g d q a, [a]), (.tplFire g d q a, [a]),
       (.qPush g d (.fq q) a false, [a]), (.mxTok g d a, [a]), (.ctlGo g d ct, []), (.cfgLoad g d u a, [a]),
       (.cfgFetch g d u a, [a]), (.collRed g d a, [a]), (.pairBox g d a, [a]), (.kvAlloc g d a, [a]),
       (.taskSpawn g d q a, [a])]
    ∀ p ∈ forms, Ready s g false p.2 → s.cp.held p.1 = true → Stands p.1 s)
  ∧ (∀ (s : State) (c : CoreIx) (f : Instr), (s.cpOf c.val).ctl.standing = some ⟨f, none⟩ →
    (s.cpOf c.val).ctl.fences ≠ [] → (s.cpOf c.val).held f = false →
    exec (.fenceResume c) s = .next (s.modCpOf c.val fun x =>
      { x with ctl := { x.ctl with
        standing := none, again := true, fences := x.ctl.fences.filter fun f => !x.ctl.met f } }))

/-- STORE_HOME_FAILURE removes the store and makes the trap of its cause pending, and no byte changes;
REMOTE_REPLAY_FAILURE fails a request to another package at its issuer with cause REMOTE; a load or atomic on the
remote path that fails at its home writes no register and traps with its own address in KEPC. A store of which a
part has been performed no longer fails (log entry 7). Completion of STORE_HOME_FAILURE, REMOTE_REPLAY_FAILURE and a
failing BANK_ACCESS. (12_memory_instr.md: Loads and stores, 10_memories.md: Error correction, 23_package.md: Die
links and Stanum) -/
def Obligations.AccessesThatFail : Prop :=
  ∀ (s : State) (c : CoreIx) (r : CpReq), (s.cpOf c.val).alive = true →
    (∀ f, listFind (fun q => q.id == r.id && !q.op.reads) (s.cpOf c.val).ctl.reqs = some r →
      r.segs.any (fun g => g.done) = false → s.reqBarred c.val r = false → s.homeFail r.op r.segs = some f →
      ∃ t, exec (.storeHomeFailure c r.id) s = .next t ∧ t.mem = s.mem
        ∧ (t.cpOf c.val).ctl.reqs = (s.cpOf c.val).ctl.reqs.filter (fun q => q.id != r.id)
        ∧ (t.cpOf c.val).ctl.traps.any (fun x => x.1 == f.cause) = true
        ∧ (t.cpOf c.val).regs = (s.cpOf c.val).regs)
    ∧ (listFind (fun q => q.id == r.id) (s.cpOf c.val).ctl.reqs = some r → r.segs.any (fun g => !s.isOwn g.pa) = true →
      (r.op.reads = true → r.far = true) → (r.op.reads = false → r.segs.any (fun g => g.done) = false) →
      ∃ t, exec (.remoteReplayFailure c r.id) s = .next t ∧ t.mem = s.mem
        ∧ (t.cpOf c.val).ctl.reqs = (s.cpOf c.val).ctl.reqs.filter (fun q => q.id != r.id)
        ∧ (r.op.reads = true → (t.cpOf c.val).k.cause = 0x10 ∧ (t.cpOf c.val).k.epc = r.pc
            ∧ (∀ q, (t.cpOf c.val).regs.get q = (s.cpOf c.val).regs.get q))
        ∧ (r.op.reads = false → (t.cpOf c.val).ctl.traps.any (fun x => x.1 == 0x10) = true))
    ∧ (∀ f j g, listFind (fun q => q.id == r.id) (s.cpOf c.val).ctl.reqs = some r → r.segs[j]? = some g →
      g.done = false → s.reqBarred c.val r = false → r.op.reads = true → r.far = true →
      r.segs.any (fun g => g.done) = false → s.homeFail r.op r.segs = some f →
      ∃ t, exec (.bankAccess (.core c) r.id j) s = .next t ∧ t.mem = s.mem ∧ (t.cpOf c.val).k.cause = f.cause
        ∧ (t.cpOf c.val).k.epc = r.pc ∧ (t.cpOf c.val).k.tval = f.val
        ∧ (∀ q, (t.cpOf c.val).regs.get q = (s.cpOf c.val).regs.get q))

/-- After bytes are written at an address, each of them reads as written and every other byte as before; a number
written in n bytes reads back modulo 256^n, least significant byte first; a 64-bit half wholly covered by the write
holds no error afterwards. (10_memories.md: Global physical addresses, 01_device.md: The package) -/
def Obligations.WrittenBytesReadBack : Prop :=
  ∀ (s : State) (pa : Nat) (bs : List Byte),
    (s.writeBytes pa bs).bytesAt pa bs.length = bs
    ∧ (∀ x, (x < s.memKey pa ∨ s.memKey pa + bs.length ≤ x) → memGet (s.writeBytes pa bs).mem x = memGet s.mem x)
    ∧ (∀ n v, (s.writeNat pa n v).natAt pa n = v % 256 ^ n)
    ∧ (∀ h, halfCovered (s.memKey pa) bs.length h = true → tabGet .clean (s.writeBytes pa bs).ecc h = .clean)

/-- Completion of cfg.fetch, cfg.load, cfg.evict, cfg.inband, cfg.probe, cfg.tag and bar.cfg. Where no earlier
command to its unit is open, cfg.fetch answers with the frames of the image; cfg.load of an image with frames for
its unit posts the load and holds gD; cfg.evict in mode 0 answers with the blocks it removed; cfg.inband posts a
readable image of frames it can carry, each with its own tag; behind an open command each of the four is posted and
waits in order, holding gD. cfg.evict in modes 1 and 2 posts the evict; cfg.probe reads a directory entry, a slot
word or a frame word; cfg.tag writes the old tag to gD and changes KCTX.CTAG; bar.cfg ends when its condition holds
and stands until then, and with DRAIN 1 answers 2 once the detector has given its verdict while it stood; with DRAIN
0 it reports the failures that it covers once. That a command answered at its issue writes gD in that step is the
model's choice (DEDUCED, log entry 6). (18_contexts.md: Configuration instructions, 18_contexts.md: The
partial-reconfiguration handshake) -/
def Obligations.ConfigurationForms : Prop :=
  ∀ (s u : State) (g : Guard) (d : Reg) (n : CfgUnit) (a : Src) (tag : BitVec 8) (ag : Fin 4) (fs : List Frame),
    let c := s.focus.val
    let va := (s.cp.val a).toNat
    let sys := s.cp.k.sys
    let open' (i : Option (BitVec 8)) : Bool := !((s.grid c).before i).isEmpty
    let queued (i : Instr) (w : CfgWhat) (unit : Option (BitVec 8)) : Prop :=
      ∃ v, Awaits i s v [a] d false ∧ (v.grid c).waits = (s.grid c).waits ++
        [⟨(s.grid c).nextLoad + 1, w, unit, va, sys, d, (s.grid c).before unit⟩]
    (CmdReady (.cfgFetch g d n a) s g false [a] →
      (open' (unitNode n) = false → s.cfgFetch c va sys = .goes u fs →
        Replies (.cfgFetch g d n a) s (u.postWork c) [a] d (cfgStatus 0 0 fs.length))
      ∧ (open' (unitNode n) = true → queued (.cfgFetch g d n a) .fetch (unitNode n)))
    ∧ (CmdReady (.cfgLoad g d n a) s g false [a] →
      (open' (unitNode n) = false → s.cfgLoad c va sys (unitNode n) (some d) = .goes u () →
        Awaits (.cfgLoad g d n a) s (u.postWork c) [a] d false)
      ∧ (open' (unitNode n) = true → queued (.cfgLoad g d n a) .load (unitNode n)))
    ∧ (CmdReady (.cfgInband g d ag a) s g false [a] →
      let node : Option (BitVec 8) := some (BitVec.ofNat 8 (0x30 + ag.val))
      (open' node = false → s.cfgFetch c va sys = .goes u fs → (u.slotFor c (0x30 + ag.val) s.cp.k.ctag).isSome = true →
        (∀ x ∈ fs, fKind x ≤ 3 ∨ fKind x = 7) → fs ≠ [] → (u.core c).cache.imageBad va fs.length = none →
        ∃ v x, Awaits (.cfgInband g d ag a) s v [a] d false
          ∧ (v.grid c).inbands = ((u.imageRead c va fs.length).grid c).inbands ++ [x]
          ∧ x.ag = ag.val ∧ x.tag = s.cp.k.ctag ∧ x.frames = fs.length ∧ x.reg = d
          ∧ x.words = fs.flatMap fun f => (frameWords f).reverse.map fun w => (w, fCtag f))
      ∧ (open' node = true → queued (.cfgInband g d ag a) (.inband ag.val s.cp.k.ctag (s.units c).next) node))
    ∧ (CmdReady (.cfgEvict g d .core a 0 tag) s g false [a] →
      (∀ y m, open' none = false → (s.core c).cache.evict va = (y, m) → m ≠ 0 →
        Replies (.cfgEvict g d .core a 0 tag) s ((s.modCore c fun x => { x with cache := y }).postWork c) [a] d
          (cfgStatus 0 0 m))
      ∧ (open' none = true → queued (.cfgEvict g d .core a 0 tag) .evict none))
    ∧ (∀ m : BitVec 2, m = 1 ∨ m = 2 → CmdReady (.cfgEvict g d n a m tag) s g false [a] →
      ∃ v, Awaits (.cfgEvict g d n a m tag) s v [a] d false
        ∧ (v.grid c).evicts = (s.grid c).evicts ++
          [⟨(s.grid c).nextLoad + 1, unitNode n, m == 2, none, tag, d, 0, (s.grid c).before (unitNode n)⟩])
    ∧ (∀ b : BitVec 7, CmdReady (.cfgProbe g d .core b) s g false [] →
      Replies (.cfgProbe g d .core b) s s [] d ((s.core c).cache.block (b.toNat % 32)).dirWord)
    ∧ (∀ (id : BitVec 8) (b : BitVec 7), CmdReady (.cfgProbe g d (.node id) b) s g false [] →
      let x := s.slotAt c (handleKey id.toNat (b.toNat / 32)) (b.toNat % 4)
      (b.getLsbD 4 = true → Replies (.cfgProbe g d (.node id) b) s s [] d
        (s.slotWord c (handleKey id.toNat (b.toNat / 32)) (b.toNat % 4)))
      ∧ (b.getLsbD 4 = false → Replies (.cfgProbe g d (.node id) b) s s [] d
        (if x.v then listGet 0 (frameWords x.frame).reverse (b.toNat / 4 % 4) else 0)))
    ∧ (CmdReady (.cfgTag g d tag) s g false [] →
      ∃ t, exec (.cfgTag g d tag) s = .next t
        ∧ Leaves s t [] (s.cp.regs.pc + 8) (some (d, s.cp.k.ctag.setWidth 64)) none { s.cp.k with ctag := tag }
            { s.cp.ctl with standing := none, told := false, records := [] })
    ∧ (CmdReady (.barCfg g d n true tag) s g false [] →
      (s.tagDrained c (unitNode n) tag = true → Replies (.barCfg g d n true tag) s s [] d 0)
      ∧ (s.tagDrained c (unitNode n) tag = false → s.cp.ctl.told = false → Stands (.barCfg g d n true tag) s)
      ∧ (s.tagDrained c (unitNode n) tag = false → s.cp.ctl.told = true → Replies (.barCfg g d n true tag) s s [] d 2))
    ∧ (CmdReady (.barCfg g d n false 0) s g false [] →
      (s.cfgSettled c (unitNode n) = true →
        ∃ v, Replies (.barCfg g d n false 0) s v [] d
            (if (s.grid c).fails.any (failCovered (unitNode n)) then 1 else 0)
          ∧ (v.grid c).fails = (s.grid c).fails.filter (fun x => !failCovered (unitNode n) x))
      ∧ (s.cfgSettled c (unitNode n) = false → Stands (.barCfg g d n false 0) s))

/-- Completion of strm.rd, strm.wr, strm.ind, strm.cst, strm.rec, strm.stat, strm.cancel, bar.rd, bar.wr, bar.all
and bar.if. A launch whose record reads, whose slot is free and whose record is accepted puts the stream in its
slot, running or deferred, and answers its identity; strm.cst takes its constant from A, strm.rec the record that
the named stream captured; strm.stat and strm.cancel answer the word of the named stream; a barrier answers the word
of its slots once they are done and stands until then; bar.if launches or cancels a deferred stream by its
predicate, or makes it wait for a deciding flit; of an identity that names no stream, strm.stat and strm.cancel
answer 0 and bar.if and strm.rec their error word. A form of any family that reads a record and has not read it yet
makes one request for it, in parts of a bank word each, and stands with nothing else done. (15_streams.md: Stream
commands, 15_streams.md: Barriers and conditional launch) -/
def Obligations.StreamForms : Prop :=
  ∀ (s u : State) (g : Guard) (d : Reg) (a b c : Src) (slot : Fin 4) (defer : Bool) (v : Nat),
    let n := s.focus.val
    let rep (i : Instr) (t : State) (srcs : List Src) (v : Word) : Prop :=
      CmdReady i s g false srcs → Replies i s t srcs d v
    let waits (i : Instr) (srcs : List Src) : Prop := CmdReady i s g false srcs → Stands i s
    let launched (i : Instr) (t : State) (ag : Nat) (kind : StreamForm) (r : Shape) (base seed : Word)
        (konst : Option Word) : Prop :=
      (t.stream n ag slot.val).phase.busy = false → t.copyIn n ag slot.val = none →
      refusal kind r (decide (ag < 4)) (t.portRaw n r) = 0 →
      let x : Stream :=
        { Stream.reset with
          phase := .deferred, gen := (t.stream n ag slot.val).gen + 1, record := r, base := base, seed := seed,
          konst := konst, ctag := t.cp.k.ctag, level := if shDegrade r then t.pkg.deg else 0, sys := t.cp.k.sys }
      let w := (t.setStream n ag slot.val x).postWork n
      rep i (if defer then w else w.launch n ag slot.val) [a, b, c] (word (x.sid ag slot.val))
    (u.focus = s.focus → s.readRecord (s.cp.val b).toNat 64 64 = .ok u v →
      (∀ ag : Fin 4,
        launched (.strmRd g d ag a b c slot defer) u ag.val .plain (BitVec.ofNat 512 v) (s.cp.val a) (s.cp.val c) none
        ∧ launched (.strmInd g d ag a b c slot defer) u ag.val .ind (BitVec.ofNat 512 v) (s.cp.val a) (s.cp.val c) none
        ∧ launched (.strmWr g d ag a b c slot defer) u (4 + ag.val) .plain (BitVec.ofNat 512 v) (s.cp.val a)
            (s.cp.val c) none)
      ∧ (∀ ag : Fin 8, launched (.strmCst g d ag a b c slot defer) u ag.val .cst (BitVec.ofNat 512 v) (s.cp.val c) 0
          (some (s.cp.val a))))
    ∧ (∀ (ag : Fin 8) (i : Nat), s.named n ag.val (s.cp.val b) = some i →
      launched (.strmRec g d ag a b c slot defer) s ag.val .again (s.stream n ag.val i).record (s.cp.val a)
        (s.cp.val c) none)
    ∧ (∀ (ag : Fin 8) (i : Nat), s.named n ag.val (s.cp.val a) = some i →
      let x := s.stream n ag.val i
      rep (.strmStat g d ag a) s [a] x.word
      ∧ (x.phase.busy = false → rep (.strmCancel g d ag a) s [a] x.word)
      ∧ (x.phase = .running → (x.atEnd && x.x.delivered) = false → CmdReady (.strmCancel g d ag a) s g false [a] →
        ∃ t, Awaits (.strmCancel g d ag a) s t [a] d false ∧ (t.stream n ag.val i).cancelling = true)
      ∧ (∀ p inv, x.phase = .deferred → (s.cp.regs.pred p != inv) = true →
        rep (.barIf g d ag a (.pred p inv)) ((s.postWork n).launch n ag.val i) [a] 0)
      ∧ (∀ p inv, x.phase = .deferred → (s.cp.regs.pred p != inv) = false →
        rep (.barIf g d ag a (.pred p inv)) ((s.postWork n).cancelStream n ag.val i) [a] 0)
      ∧ (∀ (sb : Fin 16) (dbit : BitVec 6) inv, x.phase = .deferred →
        rep (.barIf g d ag a (.buffer sb dbit inv)) ((s.postWork n).setStream n ag.val i
          { x with phase := .deciding, decider := some ⟨sb.val, dbit.toNat, inv⟩ }) [a] 0))
    ∧ (∀ (ag : Fin 8) cond, s.named n ag.val (s.cp.val a) = none →
      rep (.strmStat g d ag a) s [a] 0 ∧ rep (.strmCancel g d ag a) s [a] 0
      ∧ rep (.barIf g d ag a cond) s [a] 0x4000000000000000)
    ∧ (∀ ag : Fin 8, s.named n ag.val (s.cp.val b) = none →
      rep (.strmRec g d ag a b c slot defer) s [a, b, c] 0x4600000000000000)
    ∧ (∀ (w : BarUnit),
      (s.slotsDone n (s.barrierSlots n w false) = true →
        rep (.barRd g d w) s (srcsOfUnit w) (s.slotsWord n (s.barrierSlots n w false)))
      ∧ (s.slotsDone n (s.barrierSlots n w false) = false → waits (.barRd g d w) (srcsOfUnit w))
      ∧ (s.slotsDone n (s.barrierSlots n w true) = true →
        rep (.barWr g d w) s (srcsOfUnit w) (s.slotsWord n (s.barrierSlots n w true)))
      ∧ (s.slotsDone n (s.barrierSlots n w true) = false → waits (.barWr g d w) (srcsOfUnit w)))
    ∧ (s.allDone n = true → rep (.barAll g d) s [] (s.slotsWord n (rangeFrom 0 32)))
    ∧ (s.allDone n = false → waits (.barAll g d) [])
    ∧ (∀ (ag : Fin 4) (af : Fin 8) (tm q : Fin 16) (i : Instr) (src : Src) (srcs : List Src) (n : Nat) (gs : List Seg),
      (i, src, srcs, n) ∈ [((.strmRd g d ag a b c slot defer : Instr), b, [a, b, c], 64),
        (.strmInd g d ag a b c slot defer, b, [a, b, c], 64), (.strmWr g d ag a b c slot defer, b, [a, b, c], 64),
        (.strmCst g d af a b c slot defer, b, [a, b, c], 64), (.tplArm g d tm a, a, [a], 128),
        (.taskSpawn g d q a, a, [a], 128), (.pairBox g d a, a, [a], 128), (.collRed g d a, a, [a], 128),
        (.collAttn g d a, a, [a], 128), (.collGath g d a, a, [a], 128), (.collScat g d a, a, [a], 128),
        (.collBcast g d a, a, [a], 128), (.collA2a g d a, a, [a], 128)] →
      CmdReady i s g false srcs → ∀ va, va = (s.cp.val src).toNat →
      s.readRecord va n n = .post u gs →
      ∃ t, exec i s = .next t ∧ t.cp.ctl.standing = some ⟨i, none⟩ ∧ t.cp.regs = u.cp.regs ∧ t.cp.k = u.cp.k
        ∧ t.cp.ctl.reqs = u.cp.ctl.reqs ++
          [⟨u.cp.ctl.nextId, .record va n, gs, 0, 0, 0, u.cp.regs.pc, false, 0, [], false, true, []⟩])

/-- Completion of ctl.set, ctl.go, ctl.wait and ctl.abort. ctl.set of a valid counter of a stopped controller writes
its runtime counter; ctl.go of a stopped root whose tree is stopped makes it run, with no iteration counted, and
sends its permit; ctl.wait answers when the controller does not run and stands while it does; ctl.abort of a running
controller aborts the tree under it, and a running controller of a tree that is aborted is aborting, or has ended
aborted, afterwards; each answers the status word, with reason 0x0F where no slot holds the tag. That a run which
ends in the cycle of the abort ends first is the order of one cycle that the model takes (log entry 1).
(21_counters.md: Controller instructions, 21_counters.md: The controller tree) -/
def Obligations.ControllerForms : Prop :=
  ∀ (s : State) (g : Guard) (d : Reg) (ct : Fin 8) (a : Src) (n : BitVec 2),
    let c := s.focus.val
    let tag := s.cp.k.ctag
    let v := s.cp.val a
    let status (t : State) (r : Nat) := t.ctlStatus c ct.val tag r
    let rep (i : Instr) (t : State) (srcs : List Src) (v : Word) : Prop :=
      CmdReady i s g false srcs → Replies i s t srcs d v
    let waits (i : Instr) (srcs : List Src) : Prop := CmdReady i s g false srcs → Stands i s
    (s.slotFor c (0x20 + ct.val) tag = none →
      rep (.ctlSet g d ct a n) s [a] (status s 0x0F) ∧ rep (.ctlGo g d ct) s [] (status s 0x0F)
      ∧ rep (.ctlWait g d ct) s [] (status s 0x0F) ∧ rep (.ctlAbort g d ct) s [] (status s 0x0F))
    ∧ (∀ (i : Nat) (f : Frame), s.slotFor c (0x20 + ct.val) tag = some (i, f) →
      ((s.ctl c ct.val i).running = false → bits v 52 12 = 0 → bits v 0 12 ≠ 0 → n.toNat < fNctr f →
        let x := s.ctl c ct.val i
        let u := (s.setCtl c ct.val i
          { x with rc := listSet ((rangeFrom 0 3).map (rcAt x.rc)) n.toNat (v.setWidth 52) }).postWork c
        rep (.ctlSet g d ct a n) u [a] (status u 0))
      ∧ (CmdReady (.ctlGo g d ct) s g false [] → fParent f = 15 →
        (s.treeOf c tag [ct.val] 8).all (fun k => (s.slotFor c (0x20 + k) tag).all fun p =>
          !(s.ctl c k p.1).running) = true →
        ∃ u, Replies (.ctlGo g d ct) s u [] d (status u 0)
          ∧ (u.ctl c ct.val i).running = true ∧ (u.ctl c ct.val i).iters = 0 ∧ (u.ctl c ct.val i).opens = []
          ∧ (u.ctl c ct.val i).aborted = false
          ∧ ∃ t ∈ (u.grid c).net, t.done = false ∧ t.dst = ct.val ∧ t.ctag = tag ∧ t.cpsrc = true)
      ∧ (s.ctlRunning c ct.val tag = false → rep (.ctlWait g d ct) s [] (status s 0))
      ∧ (s.ctlRunning c ct.val tag = true → waits (.ctlWait g d ct) [])
      ∧ (s.ctlRunning c ct.val tag = false → rep (.ctlAbort g d ct) (s.postWork c) [] (status (s.postWork c) 0))
      ∧ (s.ctlRunning c ct.val tag = true →
        let r := s.runsDue s.focus
        let u := (r.abortTree c tag (r.treeOf c tag [ct.val] 8)).postWork c
        rep (.ctlAbort g d ct) u [] (status u 0)))
    ∧ (∀ (r : State) (l : List Nat) (k i : Nat) (f : Frame), k ∈ l → r.slotFor c (0x20 + k) tag = some (i, f) →
      (r.ctl c k i).running = true →
      let x := (r.abortTree c tag l).ctl c k i
      x.aborting = true ∨ (x.running = false ∧ x.aborted = true))

/-- Completion of tpl.arm, tpl.disarm, tpl.fire, tpl.stat, q.push, q.pop, q.space and q.wait. tpl.arm of an accepted
record arms the template, or waits its turn behind a firing in progress; tpl.disarm disarms it; tpl.fire puts A in
its firing queue; tpl.stat answers its word. q.push puts A in a queue with room and stands without it; q.pop gives
the oldest entry of a firing queue or the payload of the flit at the head of a buffer, and stands at an empty queue;
q.space answers the fill; q.wait answers when the count is reached and stands until then. (15_streams.md: Copy
templates, 15_streams.md: Queue instructions) -/
def Obligations.TemplateAndQueueForms : Prop :=
  ∀ (s u : State) (g : Guard) (d : Reg) (tm : Fin 16) (a : Src) (n : Fin 16) (v : Nat),
    let c := s.focus.val
    let tag := s.cp.k.ctag
    let fire := (s.tpl c tm.val).known.getD tag
    let rep (i : Instr) (t : State) (srcs : List Src) (v : Word) : Prop :=
      CmdReady i s g false srcs → Replies i s t srcs d v
    let waits (i : Instr) (srcs : List Src) : Prop := CmdReady i s g false srcs → Stands i s
    (s.readRecord (s.cp.val a).toNat 128 128 = .ok u v → u.focus = s.focus → armRefusal (BitVec.ofNat 1024 v) = 0 →
      let arm : Arm :=
        { record := BitVec.ofNat 1024 v, ctag := u.cp.k.ctag,
          level := if shDegrade (armShape (BitVec.ofNat 1024 v)) then u.pkg.deg else 0, sys := u.cp.k.sys }
      let t := { u.tpl c tm.val with known := some arm.ctag }
      let t := if t.phase.busy then { t with pending := some arm, dpend := false } else t.armWith arm
      rep (.tplArm g d tm a) ((u.setTpl c tm.val t).postWork c) [a] t.word)
    ∧ (∀ f, s.frameFor c (0x50 + tm.val) fire = some f →
      (s.fqRoom c (fb f 223 220) = true →
        rep (.tplFire g d tm a) ((s.fqPut c (fb f 223 220) (s.cp.val a) (s.covered c)).postWork c) [a]
          (s.tpl c tm.val).word)
      ∧ (s.fqRoom c (fb f 223 220) = false → waits (.tplFire g d tm a) [a]))
    ∧ (s.fqRoom c n.val = true →
      let t := (s.fqPut c n.val (s.cp.val a) (s.covered c)).postWork c
      rep (.qPush g d (.fq n) a false) t [a] (t.queueWord c (.fq n) tag false))
    ∧ (s.fqRoom c n.val = false → waits (.qPush g d (.fq n) a false) [a])
    ∧ ((s.cp.val a).toNat ≤ (s.fq c n.val).length → (s.cp.val a).toNat ≤ 16 →
      rep (.qWait g d (.fq n) a false) s [a] (s.queueWord c (.fq n) tag false))
    ∧ ((s.fq c n.val).length < (s.cp.val a).toNat → (s.cp.val a).toNat ≤ 16 → waits (.qWait g d (.fq n) a false) [a])
    ∧ (let t := s.tpl c tm.val
      let t := if t.phase.busy then { t with dpend := true, pending := none } else { t with phase := .disarmed }
      rep (.tplDisarm g d tm) ((s.setTpl c tm.val t).postWork c) [] t.word)
    ∧ rep (.tplStat g d tm) s [] (s.tpl c tm.val).word
    ∧ rep (.qSpace g d (.fq n)) s [] (s.queueWord c (.fq n) tag false)
    ∧ (s.fq c n.val = [] → waits (.qPop g d (.fq n) false) [])
    ∧ (∀ w ids l, s.fq c n.val = (w, ids) :: l → s.cp.drained ids = true →
      rep (.qPop g d (.fq n) false) ((s.fqDrop c n.val).postWork c) [] w)
    ∧ (∀ i f x, s.sbAt c n.val tag = some (i, f) → sbRaw f = false → s.sbHead c n.val i f byCp = some x →
      s.sbAcquired c n.val i 16 = true →
      rep (.qPop g d (.sb n) false) ((s.sbDropFlit c n.val i f byCp x).postWork c) [] x.pay)

/-- Completion of sem.init, sem.take, sem.wait and sem.adv. With its word checked, sem.init writes NEXT = SERVE =
B[31:0] and answers the old word; sem.adv adds n to SERVE modulo 2^32 and answers the old word; sem.take takes the
ticket NEXT, adds 1 to NEXT and, where SERVE is that ticket, completes with it; sem.wait answers the word once SERVE
has reached its value; a take or wait whose turn has not come stands. (21_counters.md: Semaphores and tickets) -/
def Obligations.SemaphoreForms : Prop :=
  ∀ (s u : State) (g : Guard) (d : Reg) (a b : Src) (n : BitVec 16) (sb : Fin 16) (pa : Nat),
    let old := u.natAt pa 8
    let next := old / 2 ^ 32
    let serve := old % 2 ^ 32
    u.focus = s.focus →
    (CmdReady (.semInit g d a b) s g false [a, b] → s.semCheck (s.cp.val a) .swap false = .ok u pa →
      ∃ t, Replies (.semInit g d a b) s t [a, b] d (BitVec.ofNat 64 old)
        ∧ t.natAt pa 8 = (s.cp.val b).toNat % 2 ^ 32 * 2 ^ 32 + (s.cp.val b).toNat % 2 ^ 32)
    ∧ (CmdReady (.semAdv g d a n) s g false [a] → s.semCheck (s.cp.val a) .add true = .ok u pa →
      ∃ t, Replies (.semAdv g d a n) s t [a] d (BitVec.ofNat 64 old)
        ∧ t.natAt pa 8 = next * 2 ^ 32 + (serve + n.toNat) % 2 ^ 32)
    ∧ (CmdReady (.semTake g d a false sb) s g false [a] → s.semCheck (s.cp.val a) .add false = .ok u pa →
      let w := (u.eccRead pa 8).writeNat pa 8 ((next + 1) % 2 ^ 32 * 2 ^ 32 + serve)
      (∀ t v, w.semTest pa next = (t, some v) →
        Replies (.semTake g d a false sb) s t [a] d (BitVec.ofNat 64 next))
      ∧ (∀ t, w.semTest pa next = (t, none) →
        exec (.semTake g d a false sb) s = .next (t.modCp fun x =>
          { x with ctl := { x.ctl with
            standing := some ⟨.semTake g d a false sb, some ⟨pa, some (BitVec.ofNat 32 next), false⟩⟩,
            told := x.ctl.standing.isSome && x.ctl.told } })))
    ∧ (CmdReady (.semWait g d a b) s g false [a, b] → s.semCheck (s.cp.val a) .add false = .ok u pa →
      (∀ t v, u.semTest pa (u.cp.val b).toNat = (t, some v) →
        Replies (.semWait g d a b) s t [a, b] d (BitVec.ofNat 64 v))
      ∧ (∀ t, u.semTest pa (u.cp.val b).toNat = (t, none) →
        exec (.semWait g d a b) s = .next (t.modCp fun x =>
          { x with ctl := { x.ctl with
            standing := some ⟨.semWait g d a b, some ⟨pa, none, false⟩⟩,
            told := x.ctl.standing.isSome && x.ctl.told } })))

/-- Completion of mx.tok, mx.accrd, mx.accclr and mx.stat. mx.tok of a payload that the rule admits and mx.accclr
enter the token queue and answer the count; mx.accrd enters it and holds gD; each stands while the queue has no
room; mx.tok of another payload answers the error word and queues nothing; mx.stat answers the status.
(09_matrix.md: Matrix instructions) -/
def Obligations.MatrixForms : Prop :=
  ∀ (s : State) (g : Guard) (d : Reg) (a : Src) (acc : Fin 4) (row col : BitVec 6),
    let c := s.focus.val
    let m := s.mx c
    let queued (w : Word) : State := (s.setMx c (m.enter s.cp.k.ctag (some w) false 0 0)).postWork c
    let rep (i : Instr) (t : State) (srcs : List Src) (v : Word) : Prop :=
      CmdReady i s g false srcs → Replies i s t srcs d v
    let waits (i : Instr) (srcs : List Src) : Prop := CmdReady i s g false srcs → Stands i s
    let posted (i : Instr) (t : State) (srcs : List Src) (outside : Bool) : Prop :=
      CmdReady i s g false srcs → Awaits i s t srcs d outside
    (mxPayloadOk (s.cp.val a) = true → m.room = true →
      rep (.mxTok g d a) (queued (s.cp.val a)) [a] (m.next.setWidth 64))
    ∧ (mxPayloadOk (s.cp.val a) = true → m.room = false → waits (.mxTok g d a) [a])
    ∧ (mxPayloadOk (s.cp.val a) = false → rep (.mxTok g d a) s [a] mxBadTok)
    ∧ (m.room = true → rep (.mxAccclr g d acc) (queued (mxClearTok acc)) [] (m.next.setWidth 64))
    ∧ (m.room = true →
      posted (.mxAccrd g d acc row col)
        ((s.setMx c (m.enter s.cp.k.ctag none false (accKey acc.val row.toNat col.toNat) d)).postWork c) [] false)
    ∧ (m.room = false → waits (.mxAccclr g d acc) [] ∧ waits (.mxAccrd g d acc row col) [])
    ∧ rep (.mxStat g d) s [] m.stat

/-- Completion of coll.red, coll.attn, coll.gath, coll.scat, coll.bcast, coll.a2a and coll.wait. Each of the six
issuing forms, with its descriptor and member table read, no reserved bit of an entry set, a free slot, no refusal
and no member with the same identity, occupies the first free slot in rendezvous and answers the handle; coll.wait
answers the result of an ended collective and frees its slot, and stands until it has ended. (17_collectives.md:
Instructions) -/
def Obligations.CollectiveForms : Prop :=
  ∀ (s u : State) (g : Guard) (d : Reg) (a : Src) (v n : Nat) (table : List Word),
    let c := s.focus.val
    let x : CollDesc := BitVec.ofNat 1024 v
    (∀ (i : Instr) (form : CollForm),
      (i, form) ∈ [((.collRed g d a : Instr), CollForm.red), (.collAttn g d a, .attn), (.collGath g d a, .gath),
        (.collScat g d a, .scat), (.collBcast g d a, .bcast), (.collA2a g d a, .a2a)] →
      CmdReady i s g false [a] → s.readRecord (s.cp.val a).toNat 128 128 = .ok u v →
      u.readTable i (cdWord x 2) (cdNmem x) [] = .ok table → u.focus = s.focus →
      listFind (fun n => !(u.coll c n).used) (rangeFrom 0 8) = some n → u.collCheck c u.cp.k.ctag form x = 0 →
      table.any (fun e => bits e 27 37 != 0) = false →
      (rangeFrom 0 8).any (fun m => (u.coll c m).used && cdTeam (u.coll c m).desc == cdTeam x
        && cdSeq (u.coll c m).desc == cdSeq x) = false →
      ∃ t, Replies i s t [a] d (collHandle n x) ∧ (t.coll c n).used = true ∧ (t.coll c n).phase = .rendezvous
        ∧ (t.coll c n).desc = x ∧ (t.coll c n).form = form ∧ (t.coll c n).table = table)
    ∧ (CmdReady (.collWait g d a) s g false [a] → s.collNamed c (s.cp.val a) = some n →
      ((s.coll c n).phase = .ended →
        Replies (.collWait g d a) s (s.setColl c n .reset) [a] d (s.coll c n).result)
      ∧ ((s.coll c n).phase ≠ .ended → Stands (.collWait g d a) s))

/-- Completion of pair.box, pair.bin, pair.scan, pair.stat and pair.clr. pair.box of an accepted box owns a free
engine and answers its cells; pair.bin of the owner's idle engine begins to bin and holds gD; pair.scan of a valid
grid over cells in range, into a buffer of pairs, begins to scan and holds gD; pair.stat answers the word of the
state, of whether the engine is the group's, of its excess, of NEXT and of OUTSIDE; pair.clr frees an idle engine,
abandons a bin at once, whose register takes its abandoned word, and of a scan holds gD until the scan has stopped.
(20_pairs_kv.md: Pair forms) -/
def Obligations.PairForms : Prop :=
  ∀ (s u : State) (g : Guard) (d : Reg) (a b : Src) (sb : Fin 16) (dig : Bool) (v : Nat),
    let k := s.focus.val / 12
    let x := s.pair k
    let st : Nat := match x.phase with
      | .free => 0
      | .owned => 1
      | .binning => 2
      | .valid => 3
      | .invalid => 4
      | .scanning => 5
    let rep (i : Instr) (t : State) (srcs : List Src) (v : Word) : Prop :=
      CmdReady i s g false srcs → Replies i s t srcs d v
    let posted (i : Instr) (t : State) (srcs : List Src) (outside : Bool) : Prop :=
      CmdReady i s g false srcs → Awaits i s t srcs d outside
    (s.readRecord (s.cp.val a).toNat 128 128 = .ok u v → u.focus = s.focus →
      (u.pair k).phase = .free → (u.pair k).running = false → boxRecOk (BitVec.ofNat 1024 v) = true →
      boxOk (BitVec.ofNat 1024 v) = true →
      let r : Box := BitVec.ofNat 1024 v
      rep (.pairBox g d a)
        (u.setPair k { u.pair k with phase := .owned, owner := u.cp.k.first.toNat, box := r, excess := [] }) [a]
        (pairWord 0 0 0 ((boxCells r 2 - 1) * 2 ^ 12 + (boxCells r 1 - 1) * 2 ^ 6 + (boxCells r 0 - 1))))
    ∧ (s.pairMine s.focus.val = true → x.running = false →
      posted (.pairBin g d)
        (s.setPair k { x with phase := .binning, excess := [], outside := 0, op := some (s.pairOp d) }) [] true)
    ∧ (CmdReady (.pairScan g d a b sb dig) s g false [a, b] → s.pairMine s.focus.val = true → x.running = false → x.phase = .valid →
      (s.cp.val a).toNat < boxTotal x.box → (s.cp.val a).toNat + (s.cp.val b).toNat ≤ boxTotal x.box →
      ∀ i f, s.sbAt s.focus.val sb.val s.cp.k.ctag = some (i, f) → sbPsrc f = 0x11 →
      ∃ t, Awaits (.pairScan g d a b sb dig) s t [a, b] d true ∧ (t.pair k).phase = .scanning)
    ∧ rep (.pairStat g d) s [] (word (st * 2 ^ 61 + (if s.pairMine s.focus.val then 1 else 0) * 2 ^ 60
        + x.excess.length * 2 ^ 47 + x.next % 2 ^ 19 * 2 ^ 28 + x.outside % 2 ^ 24))
    ∧ (s.pairMine s.focus.val = true →
      (x.op = none → rep (.pairClr g d) (s.setPair k x.freed) [] 0)
      ∧ (∀ o, x.op = some o →
        (x.phase = .binning →
          rep (.pairClr g d) ((s.setPair k x.freed).deliver o.core o.dest (pairWord 2 0x23 0 o.index)) [] 0)
        ∧ (x.phase ≠ .binning → posted (.pairClr g d)
            (s.setPair k { x with clear := x.clear ++ [(s.focus.val, d)], held := false }) [] true)))

/-- Completion of kv.alloc, kv.free, kv.share, kv.map, kv.limit and kv.lend. Each KV form whose operand words are
valid posts its request and holds gD pending; one whose words are not valid answers status 1 with reason 0x07 and
posts nothing. That the request goes behind the core's earlier accesses in the package is the model's choice (DESIGN
CHOICE, log entry 67). (20_pairs_kv.md: KV forms) -/
def Obligations.KvForms : Prop :=
  ∀ (s : State) (g : Guard) (d : Reg) (a b : Src) (all clr : Bool),
    let A := s.cp.val a
    let B := s.cp.val b
    let e := s.focus.val / 96
    let forms : List (Instr × List Src × KvKind × Nat × Bool × Word × Word) :=
      [(.kvAlloc g d a, [a], .alloc, 0, kvWordOk A, A, 0),
       (.kvFree g d a all, [a], .free all, 0, kvWordOk A && (!all || kvBlk A == 0), A, 0),
       (.kvShare g d a b, [a, b], .share, 0, kvWordOk A && kvWordOk B, A, B),
       (.kvMap g d a, [a], .map, 0, kvWordOk A, A, 0),
       (.kvLimit g d a b clr, [a, b], .limit clr, bits A 16 3,
         bits A 12 4 == 0 && bits A 19 45 == 0 && bits B 12 4 == 0 && bits B 28 36 == 0, A, B),
       (.kvLend g d a b, [a, b], .lend, e,
         bits A 3 61 == 0 && bits A 0 3 != e && B.toNat % 64 == 0 && decide (64 ≤ B.toNat ∧ B.toNat ≤ 4096), A, B)]
    ∀ x ∈ forms, CmdReady x.1 s g false x.2.1 →
      (x.2.2.2.2.1 = true →
        ∃ t, exec x.1 s = .next t
          ∧ t.kv.reqs = s.kv.reqs ++ [⟨s.focus.val, d, x.2.2.1, x.2.2.2.2.2.1, x.2.2.2.2.2.2, x.2.2.2.1, .first,
              s.outstanding s.focus.val 3, 0, []⟩]
          ∧ t.cp.regs.pc = s.cp.regs.pc + 8 ∧ t.cp.ctl = awaiting s.cp.ctl d true ∧ t.mem = s.mem
          ∧ ∀ r, t.cp.regs.get r = regAfter s x.2.1 none r)
      ∧ (x.2.2.2.2.1 = false → Replies x.1 s s x.2.1 d (kvRefused 7))

/-- Completion of task.spawn, task.done, task.yield, task.arg and task.cancel. task.spawn of an accepted record with
a free slot puts the task in the slot and answers its handle; task.done marks the core done once all its work is
done and stands until then; task.yield answers 1 when no waiting task needs its place, and otherwise, where its
image fits the freeze area, begins a freeze wave on its own task and stands; task.arg answers a word of its task's
record; task.cancel, after what the scheduler binds in this cycle, frees a task that is not running and answers 0,
and answers 1 of a running one and 2 of no task. (16_tasks.md: Instructions, 02_execution.md: Task life cycle) -/
def Obligations.TaskForms : Prop :=
  ∀ (s u : State) (g : Guard) (d : Reg) (a : Src) (q : Fin 16) (n : BitVec 4) (v k : Nat),
    let c := s.focus.val
    let e := c / 96
    let stood (w : State) (i : Instr) : State := w.modCp fun x =>
      { x with ctl := { x.ctl with standing := some ⟨i, none⟩, told := x.ctl.standing.isSome && x.ctl.told } }
    (CmdReady (.taskSpawn g d q a) s g false [a] → s.readRecord (s.cp.val a).toNat 128 128 = .ok u v → u.focus = s.focus →
      recOk (BitVec.ofNat 1024 v) = true → (u.die e).sched.freeSlot q.val = some k →
      let x := (u.die e).sched.accept q.val k (BitVec.ofNat 1024 v) u.cyc u.ktime
        ((u.covered c).map fun id => (c, id))
      Replies (.taskSpawn g d q a) s (u.modDie e fun y => { y with sched := x }) [a] d (x.handle q.val k))
    ∧ (CmdReady (.taskDone g) s g false [] →
      let w := s.cancelDeferred c
      (w.allDone w.focus.val = true → ∃ t, exec (.taskDone g) s = .next t ∧ t.cp.ctl.done = true
        ∧ t.cp.alive = false ∧ t.cp.regs.pc = w.cp.regs.pc + 8 ∧ (∀ r, t.cp.regs.get r = w.cp.regs.get r))
      ∧ (w.allDone w.focus.val = false → exec (.taskDone g) s = .next (stood w (.taskDone g))))
    ∧ (CmdReady (.taskYield g d) s g false [] →
      let due := ((s.die e).sched.cands s.ktime).any fun x => decide (s.cp.k.prio.toNat ≤ x.level)
        && s.noPlace e ((s.die e).sched.slot x.queue x.slot)
      let own := (s.die e).sched.slot s.cp.ctl.queue.toNat s.cp.ctl.slot.toNat
      (due = false → Replies (.taskYield g d) s s [] d 1)
      ∧ (due = true → own.used = true → own.phase = .running → ∀ pa, s.areaFit e own.shape = some pa →
        exec (.taskYield g d) s = .next
          (stood (s.startWave e ⟨s.cp.ctl.queue.toNat, s.cp.ctl.slot.toNat, .yield, pa⟩) (.taskYield g d))))
    ∧ (CmdReady (.taskArg g d n) s g false [] →
      Replies (.taskArg g d n) s s [] d
        (recWord ((s.die e).sched.slot s.cp.ctl.queue.toNat s.cp.ctl.slot.toNat).record n.toNat))
    ∧ (CmdReady (.taskCancel g d a) s g false [a] → ∀ w, s.bindOne e = w →
      (∀ p m, (w.die e).sched.named (w.cp.val a) = some (p, m) →
        (((w.die e).sched.slot p m).phase ≠ .running →
          Replies (.taskCancel g d a) s (w.modDie e fun y => { y with sched := y.sched.freeUp p m w.cyc w.ktime }) [a]
            d 0)
        ∧ (((w.die e).sched.slot p m).phase = .running → Replies (.taskCancel g d a) s w [a] d 1))
      ∧ ((w.die e).sched.named (w.cp.val a) = none → Replies (.taskCancel g d a) s w [a] d 2))

/-- Completion of frz.save and frz.load. In system mode, frz.save of another running task at an address the rule
admits begins its freeze wave and holds gD; frz.load of an image found at an admitted address, with a free slot in
its queue, puts a FROZEN task in the slot and returns its handle. What an image holds beside what the manual lays
out is the model's choice (DESIGN CHOICE, log entry 12); that a freeze form's value comes back as the value of a
later command does is DEDUCED (log entry 70). (22_freeze.md: Freeze instructions) -/
def Obligations.FreezeForms : Prop :=
  ∀ (s : State) (g : Guard) (d : Reg) (a b : Src) (q : Fin 16) (p n : Nat) (y : Image),
    let c := s.focus.val
    let e := c / 96
    let x := (s.die e).sched
    (CmdReady (.frzSave g d a b) s g true [a, b] → x.named (s.cp.val a) = some (p, n) →
      ¬(p = s.cp.ctl.queue.toNat ∧ n = s.cp.ctl.slot.toNat) → (x.slot p n).phase = .running →
      s.frzAddrOk ((s.cp.val b).toNat % 2 ^ 58) (imageSize (x.slot p n).shape) = true →
      ∃ t, exec (.frzSave g d a b) s = .next t
        ∧ t = (s.posted [a, b] d true).startWave e ⟨p, n, .save s.focus.val d, (s.cp.val b).toNat % 2 ^ 58⟩
        ∧ (t.die e).sched.waves.any (fun w => w.queue == p && w.slot == n) = true
        ∧ t.cp.regs.pc = s.cp.regs.pc + 8)
    ∧ (CmdReady (.frzLoad g d a q) s g true [a] → s.frzAddrOk ((s.cp.val a).toNat % 2 ^ 58) 65536 = true →
      s.imageAt ((s.cp.val a).toNat % 2 ^ 58) = some y →
      s.frzAddrOk ((s.cp.val a).toNat % 2 ^ 58) (imageSize y.shape) = true → x.freeSlot q.val = some n →
      ∃ t, exec (.frzLoad g d a q) s = .next t ∧ ((t.die e).sched.slot q.val n).phase = .frozen
        ∧ ((t.die e).sched.slot q.val n).image = some ((s.cp.val a).toNat % 2 ^ 58)
        ∧ ((t.die e).sched.slot q.val n).record = y.record ∧ ((t.die e).sched.slot q.val n).shape = y.shape
        ∧ t.cp.regs.pc = s.cp.regs.pc + 8
        ∧ (d ≠ 0 → ∃ w, (⟨d, true, some w⟩ : Pend) ∈ t.cp.ctl.pend ∧ w = (t.die e).sched.handle q.val n))

/-- Completion of qui.poll, qui.rep and wait. qui.poll answers the detector word, and with WAIT stands while there
is no verdict; qui.rep answers the counter it names. wait acts as nop when no event is enabled, ends when an enabled
event holds, clearing the enabled latch bits 1 and 3, and stands until then. (21_counters.md: Quiescence
instructions, 08_scalar.md: System forms) -/
def Obligations.QuiescenceForms : Prop :=
  ∀ (s : State) (g : Guard) (d : Reg) (a : Src) (sel : BitVec 2),
    let c := s.focus.val
    let rep (i : Instr) (t : State) (srcs : List Src) (v : Word) : Prop :=
      CmdReady i s g false srcs → Replies i s t srcs d v
    let waits (i : Instr) (srcs : List Src) : Prop := CmdReady i s g false srcs → Stands i s
    rep (.quiPoll g d false) s [] (s.pollWord c)
    ∧ (s.cp.k.verdict ≠ 0 → rep (.quiPoll g d true) s [] (s.pollWord c))
    ∧ (s.cp.k.verdict = 0 → waits (.quiPoll g d true) [])
    ∧ rep (.quiRep g d a sel) s [a] (s.counterWord c sel.toNat (s.cp.val a))
    ∧ (Ready s g false [] →
      let ends (x : CpCtl) : Prop :=
        ∃ t, exec (.wait g) s = .next t ∧ Leaves s t [] (s.cp.regs.pc + 8) none none s.cp.k x
      (s.cp.k.evt = 0 → ends { s.cp.ctl with standing := none, told := false, records := [] })
      ∧ (s.cp.k.evt &&& s.waitEvents c ≠ 0 →
        ends { s.cp.ctl with
          standing := none, told := false, records := [], latch1 := s.cp.ctl.latch1 && !s.cp.k.evt.getLsbD 1,
          latch3 := s.cp.ctl.latch3 && !s.cp.k.evt.getLsbD 3 })
      ∧ (s.cp.k.evt ≠ 0 → s.cp.k.evt &&& s.waitEvents c = 0 → Stands (.wait g) s))

/-- Completion of xlat.inv, xlat.probe and xlat.res. With no earlier store of the core outstanding: xlat.inv returns
0 and removes, of every core and cluster within its scope, the TLB and per-stream entries that its mode, root and
address name, and no other, and waits while an access that used one of them is not performed; xlat.probe walks the
tables under the root it is given, fills no TLB and returns the probe word; xlat.res lets a withheld stream, copy or
engine go on and returns the result. xlat.inv with mode 3 returns its error word, and xlat.res with target 3 is the
reserved opcode. With an earlier store outstanding each of the three waits. That the wait comes before the removal,
and that the values come back as a later command's do, is the model's choice (DEDUCED, log entry 77).
(18_contexts.md: Translation instructions) -/
def Obligations.TranslationForms : Prop :=
  ∀ (s : State) (g : Guard) (d : Reg) (a b : Src) (sc : BitVec 3) (mode target : BitVec 2) (leaf : Bool) (ag : Fin 8),
    let c := s.focus.val
    let inv := Instr.xlatInv g d a b sc mode
    let probe := Instr.xlatProbe g d a b leaf
    let res := Instr.xlatRes g d ag a target
    let stores := s.cp.ctl.reqs.any (fun r => r.op.writes)
    let returns (t : State) (srcs : List Src) (v : Word) : Prop :=
      t.cp.regs.pc = s.cp.regs.pc + 8 ∧ (∀ r, t.cp.regs.get r = regAfter s srcs none r)
      ∧ (d ≠ 0 → (⟨d, true, some v⟩ : Pend) ∈ t.cp.ctl.pend)
    (CmdReady inv s g true [a, b] →
      let gone := fun (x : Xlat) => x.gone mode.toNat ((s.cp.val b).setWidth 58) (s.cp.val a).toNat
      let stays := fun (l : List Xlat) => l.filter fun x => !gone x
      (mode = 3 → ∃ t, exec inv s = .next t ∧ returns t [a, b] 0x4000000000000000)
      ∧ (mode ≠ 3 → stores = false → (s.goneWithin sc.toNat c gone).any s.pageInUse = false →
        ∃ t, exec inv s = .next t ∧ returns t [a, b] 0 ∧ t.mem = s.mem
          ∧ (∀ n, (t.core n).tlb = if coreInScope sc.toNat c n then stays (s.core n).tlb else (s.core n).tlb)
          ∧ (∀ k, (t.cluster k).tlb = if coreInScope (max sc.toNat 1) c (12 * k) then stays (s.cluster k).tlb
              else (s.cluster k).tlb)
          ∧ ∀ n ag i, coreInScope sc.toNat c n = true → (t.stream n ag i).x.xl = (s.stream n ag i).x.xl.filter fun x => !gone x)
      ∧ (mode ≠ 3 → (stores = true ∨ (s.goneWithin sc.toNat c gone).any s.pageInUse = true) → exec inv s = .next s))
    ∧ (CmdReady probe s g true [a, b] →
      let w := s.walk ((s.cp.val b).setWidth 58) (s.cp.val a).toNat
      (stores = false → ∃ t, exec probe s = .next t ∧ returns t [a, b] (probeWord leaf (s.cp.val a).toNat w.2)
        ∧ t.mem = s.mem ∧ (∀ n, (t.core n).tlb = (s.core n).tlb) ∧ ∀ k, (t.cluster k).tlb = (s.cluster k).tlb)
      ∧ (stores = true → exec probe s = .next s))
    ∧ (CmdReady res s g true [a] →
      (stores = false → target ≠ 3 → ∃ t u v, exec res s = .next t
        ∧ t = (u.posted [a] d true).deliver c d v
        ∧ (target = 0 → (u, v) = ((s.resumeStream c ag.val (s.cp.val a)).1,
            word (s.resumeStream c ag.val (s.cp.val a)).2))
        ∧ (target = 1 → (u, v) = ((s.resumeTpl c ag.val (bits (s.cp.val a) 0 4)).1,
            word (s.resumeTpl c ag.val (bits (s.cp.val a) 0 4)).2))
        ∧ (target = 2 → (u, v) = ((s.resumeRecord c (bits (s.cp.val a) 0 32)).1,
            word (s.resumeRecord c (bits (s.cp.val a) 0 32)).2)))
      ∧ (stores = false → target = 3 → ∀ w, encode res = some w → Traps res s 0x01 w)
      ∧ (stores = true → exec res s = .next s))

/-- Completion of WAIT_END, BARRIER_END, QUEUE_FORM_RESUME, CTL_WAIT_END, COLL_WAIT_END, QUI_POLL_WAIT_END and
SEM_RETEST. The end events of the standing forms let the form that stands at its core complete, as if it issued
then: wait ends on an enabled event and clears the enabled latches; a barrier, task.done, a queue form, ctl.wait,
coll.wait, qui.poll, sem.take and sem.wait complete with their words once their condition holds, and the core that
issues next stays the one it was. (02_execution.md: Waiting, 08_scalar.md: System forms, 15_streams.md: Barriers and
conditional launch, 15_streams.md: Queue instructions, 21_counters.md: Controller instructions, 17_collectives.md:
Instructions, 21_counters.md: Semaphores and tickets) -/
def Obligations.StandingFormsEnd : Prop :=
  ∀ (s : State) (c : CoreIx) (g : Guard) (d : Reg) (a b : Src) (w : BarUnit) (q : Fin 16) (ct : Fin 8),
    let u := asCore s c
    let n := c.val
    let stood (i : Instr) (srcs : List Src) : Prop := s.standingAt c = some i ∧ CmdReady i u g false srcs
    (s.standingAt c = some (.wait g) → Ready u g false [] → u.cp.k.evt &&& s.waitEvents n ≠ 0 →
      ∃ t, exec (.waitEnd c) s = .next { t with focus := s.focus }
        ∧ Leaves u t [] (u.cp.regs.pc + 8) none none (kAfter u [])
            { u.cp.ctl with
              standing := none, told := false, records := [], latch1 := u.cp.ctl.latch1 && !u.cp.k.evt.getLsbD 1,
              latch3 := u.cp.ctl.latch3 && !u.cp.k.evt.getLsbD 3 })
    ∧ (stood (.barRd g d w) (srcsOfUnit w) →
      u.slotsDone n (u.barrierSlots n w false) = true →
      RepliesAt (.barrierEnd c) s u (srcsOfUnit w) d (u.slotsWord n (u.barrierSlots n w false)))
    ∧ (stood (.barWr g d w) (srcsOfUnit w) →
      u.slotsDone n (u.barrierSlots n w true) = true →
      RepliesAt (.barrierEnd c) s u (srcsOfUnit w) d (u.slotsWord n (u.barrierSlots n w true)))
    ∧ (stood (.barAll g d) [] → u.allDone n = true →
      RepliesAt (.barrierEnd c) s u [] d (u.slotsWord n (rangeFrom 0 32)))
    ∧ (∀ (x : CfgUnit) (tag : BitVec 8), stood (.barCfg g d x true tag) [] →
      u.tagDrained n (unitNode x) tag = true → RepliesAt (.barrierEnd c) s u [] d 0)
    ∧ (stood (.taskDone g) [] → (u.cancelDeferred n).allDone n = true →
      ∃ t : State, exec (.barrierEnd c) s = .next { t with focus := s.focus } ∧ t.cp.ctl.done = true
        ∧ t.cp.ctl.standing = none)
    ∧ (stood (.qPush g d (.fq q) a false) [a] → u.fqRoom n q.val = true →
      let t := (u.fqPut n q.val (u.cp.val a) (u.covered n)).postWork n
      RepliesAt (.queueFormResume c) s t [a] d (t.queueWord n (.fq q) u.cp.k.ctag false))
    ∧ (∀ v ids l, stood (.qPop g d (.fq q) false) [] →
      u.fq n q.val = (v, ids) :: l → u.cp.drained ids = true →
      RepliesAt (.queueFormResume c) s ((u.fqDrop n q.val).postWork n) [] d v)
    ∧ (stood (.qWait g d (.fq q) a false) [a] →
      (u.cp.val a).toNat ≤ (u.fq n q.val).length → (u.cp.val a).toNat ≤ 16 →
      RepliesAt (.queueFormResume c) s u [a] d (u.queueWord n (.fq q) u.cp.k.ctag false))
    ∧ (stood (.mxTok g d a) [a] → mxPayloadOk (u.cp.val a) = true →
      (u.mx n).room = true →
      RepliesAt (.queueFormResume c) s
        ((u.setMx n ((u.mx n).enter u.cp.k.ctag (some (u.cp.val a)) false 0 0)).postWork n) [a] d
        ((u.mx n).next.setWidth 64))
    ∧ (∀ i f, stood (.ctlWait g d ct) [] →
      u.slotFor n (0x20 + ct.val) u.cp.k.ctag = some (i, f) → u.ctlRunning n ct.val u.cp.k.ctag = false →
      RepliesAt (.ctlWaitEnd c) s u [] d (u.ctlStatus n ct.val u.cp.k.ctag 0))
    ∧ (∀ i, stood (.collWait g d a) [a] →
      u.collNamed n (u.cp.val a) = some i → (u.coll n i).phase = .ended →
      RepliesAt (.collWaitEnd c) s (u.setColl n i .reset) [a] d (u.coll n i).result)
    ∧ (stood (.quiPoll g d true) [] → u.cp.k.verdict ≠ 0 →
      RepliesAt (.quiPollWaitEnd c) s u [] d (u.pollWord n))
    ∧ (∀ (sb : Fin 16) pa ticket t v,
      u.cp.ctl.standing = some ⟨.semTake g d a false sb, some ⟨pa, some ticket, false⟩⟩ →
      u.semTest pa ticket.toNat = (t, some v) →
      RepliesAt (.semRetest c) s t [a] d (ticket.setWidth 64))
    ∧ (∀ pa t v, u.cp.ctl.standing = some ⟨.semWait g d a b, some ⟨pa, none, false⟩⟩ →
      u.semTest pa (u.cp.val b).toNat = (t, some v) →
      RepliesAt (.semRetest c) s t [a, b] d (word v))

/-- Completion of ASYNC_TRAP, PROGRAM_PAGE_FILL, PAGE_WALK, QUIESCENCE_VERDICT, DEADLOCK_TRAP, KTIME_TICK and
FABRIC_CYCLE. The pending trap of highest priority is taken at a live core: KCAUSE and KTVAL hold it, KSTAT.PSYS the
old mode, system mode is entered, the pc is at KTVEC and the trap is no longer pending; KEPC holds the form at
issue, of a wait the next instruction. A missed fetch fills its page, which then is resident; a missed page is
walked, and the TLBs hold a leaf; a verdict is COMPLETE where every root controller is done and DEADLOCK otherwise,
of every core of the group whose grid is open; the DEADLOCK trap becomes pending 4 cycles after its verdict; KTIME
and the cycle counters advance by 1. (08_scalar.md: System forms, 22_freeze.md: Causes and what KTVAL holds,
18_contexts.md: Page tables, 02_execution.md: Quiescence, completion and deadlock, 07_registers.md: k-registers) -/
def Obligations.ProcessorEvents : Prop :=
  ∀ (s : State) (c : CoreIx),
    (∀ cause tval, (s.cpOf c.val).alive = true → s.unstarted c.val = false →
      (s.cpOf c.val).ctl.reqs.any (fun r => r.far) = false → s.waved c.val = false →
      nextTrap (s.cpOf c.val).ctl.traps asyncOrder = some (cause, tval) →
      ∃ t, exec (.asyncTrap c) s = .next t
        ∧ (t.cpOf c.val).k.cause = cause ∧ (t.cpOf c.val).k.tval = tval ∧ (t.cpOf c.val).k.sys = true
        ∧ (t.cpOf c.val).k.psys = (s.cpOf c.val).k.sys
        ∧ (t.cpOf c.val).regs.pc = (s.cpOf c.val).k.tvec.setWidth 64 <<< 3
        ∧ (t.cpOf c.val).ctl.traps = (s.cpOf c.val).ctl.traps.filter (fun x => x.1 != cause)
        ∧ (t.cpOf c.val).ctl.standing = none
        ∧ ((s.cpOf c.val).ctl.standing = none → (t.cpOf c.val).k.epc = (s.cpOf c.val).regs.pc)
        ∧ (∀ g sem, (s.cpOf c.val).ctl.standing = some ⟨.wait g, sem⟩ →
          (t.cpOf c.val).k.epc = (s.cpOf c.val).regs.pc + 8))
    ∧ ((s.cpOf c.val).alive = true → (s.cpOf c.val).ctl.standing = none → s.fetch c.val = .miss →
      (s.cpOf c.val).fillsHeld = false → s.walkWaits c.val (s.cpOf c.val).regs.pc.toNat = false →
      exec (.programPageFill c) s = .next (s.fillPage c.val)
      ∧ (∀ u pa n, (canonical (s.cpOf c.val).regs.pc.toNat
            && ((s.core c.val).cache.find fun b => b.isPage (s.cpOf c.val).regs.pc.toNat).isSome) = false →
        s.translate c.val (s.cpOf c.val).ctl.xroot (s.cpOf c.val).regs.pc.toNat .fetch (s.cpOf c.val).k.sys
          = (u, .ok pa) →
        u.fillFail (pa / 4096 * 4096) 4096 = none → (u.core c.val).cache.victim = some n → n < 32 →
        (((s.fillPage c.val).core c.val).cache.block n).isPage (s.cpOf c.val).regs.pc.toNat = true))
    ∧ (∀ va : Word, (s.cpOf c.val).ctl.bound = true → canonical va.toNat = true →
      s.tlbHit c.val (s.cpOf c.val).ctl.xroot va.toNat = false → (s.cpOf c.val).ctl.reqs = [] →
      ∃ t r, exec (.pageWalk c va) s = .next t ∧ s.lookup c.val (s.cpOf c.val).ctl.xroot va.toNat = (t, r)
        ∧ (∀ x, r = .ok x → x ∈ (t.core c.val).tlb ∧ x ∈ (t.cluster (c.val / 12)).tlb))
    ∧ (s.verdictDue c.val = true →
      let l := (s.groupCores c.val).filter fun n => !(s.grid n).closed
      ((s.groupCores c.val).all s.rootsDone = true →
        exec (.quiescenceVerdict c) s = .next (l.foldl (fun s n => s.giveVerdict n 1) s)
        ∧ ∀ n ∈ l, ((l.foldl (fun s n => s.giveVerdict n 1) s).cpOf n).k.verdict = 1)
      ∧ ((s.groupCores c.val).all s.rootsDone = false →
        ∃ t, exec (.quiescenceVerdict c) s = .next t ∧ t = (l.foldl (fun s n => s.giveDeadlock n) s).shutPlains c.val
          ∧ ∀ n ∈ l, (t.cpOf n).k.verdict = 2 ∧ (t.grid n).closed = true))
    ∧ (∀ num, (s.grid c.val).doom = some num → (s.grid c.val).verdictAt + 4 ≤ s.cyc → s.waved c.val = false →
      exec (.deadlockTrap c) s =
        .next ((s.modGrid c.val fun g => { g with doom := none }).pendTrap c.val causeDeadlock num))
    ∧ exec .ktimeTick s = .next { s with ktime := s.ktime + 1 }
    ∧ (∃ t, exec .fabricCycle s = .next t ∧ t.cyc = s.cyc + 1 ∧ t.kcyc = s.kcyc + 1 ∧ t.ktime = s.ktime)

/-- Completion of ROUTER_FORWARD, STEER, CARRY, INVAR, MERGE, JOIN, ORDER, ARB, TAGIN and TAGOUT. A router of which
an input has a flit that a plain route may move, and which may move that input in this cycle, moves flits and its
grant follows; where only one input can move, its head flit leaves and enters every output of its route, and where
none can, nothing happens. An operator of a valid slot that does not stop, whose rule gives a move for which every
output has room and every input may move, takes the flits, emits and steps its state; one whose rule gives a stop
stops; one whose inputs are absent waits. When a decider is taken is the model's reading (DEDUCED, log entry 102).
(13_channels.md: Router operators, 13_channels.md: Channels, 19_plain.md: `tagin` and `tagout`) -/
def Obligations.RouterEvents : Prop :=
  ∀ (s : State) (c : CoreIx) (rt : Fin 16),
    let moves (k : Nat) : Bool := (s.movable c.val rt.val k).isSome && s.mayMove c.val rt.val k
    ((∃ k, k < 5 ∧ moves k = true) →
      ∃ t, exec (.routerForward c rt) s = .next t ∧ (t.router c.val rt.val).moved = s.cyc + 1)
    ∧ ((∀ k, k < 5 → moves k = false) → exec (.routerForward c rt) s = .next s)
    ∧ (∀ k f outs, k < 5 → s.movable c.val rt.val k = some (f, outs) → s.mayMove c.val rt.val k = true →
      let t := (s.forward c.val rt.val (inputKey rt.val k) f outs).grantTo c.val rt.val k
      (∀ n < 5, n ≠ k → s.movable c.val rt.val n = none ∧ t.movable c.val rt.val n = none) →
      exec (.routerForward c rt) s = .next t)
    ∧ (∀ k, (s.grantTo c.val rt.val k).router c.val rt.val = (s.router c.val rt.val).granted s.cyc k)
    ∧ (∀ (op i : Nat), i < 4 →
      let x := s.slotAt c.val (0x10 + rt.val) i
      let st := s.opState c.val rt.val i
      let h := s.opHead c.val rt.val x.frame x.ctag
      let p := (rtParam x.frame).toNat
      let holds (j : Nat) : Bool := (s.slotAt c.val (0x10 + rt.val) j).v
        && fOp (s.slotAt c.val (0x10 + rt.val) j).frame == op && !(s.opState c.val rt.val j).stopped
      let goes (e : Instr) (a : OpAct) (also : State → State) : Prop :=
        (∀ ks emit v, a = .move ks emit v → (∀ j < i, holds j = false) →
          s.opReady c.val rt.val x.frame x.ctag ks emit = true →
          exec e s = .next (also ((s.opMove c.val rt.val x.frame ks emit).setOpState c.val rt.val i v)))
        ∧ (∀ cause first, a = .stop cause first → (∀ j < i, holds j = false) →
          exec e s = .next (s.opStop c.val rt.val i x.ctag cause first))
        ∧ (a = .wait → (∀ j < 4, j ≠ i → holds j = false) → exec e s = .next s)
      holds i = true →
      (∀ (e : Instr) (a : OpAct),
        (e, op, a) ∈ [(.steer c rt, 1, opSteer p h st), (.carry c rt, 2, opCarry p h st), (.invar c rt, 3, opInvar p h st),
          (.merge c rt, 4, opMerge p h st), (.join c rt, 5, opJoin p x.ctag h st),
          (.order c rt, 6, opOrder p x.frame h st), (.arb c rt, 7, opArb p x.frame h st)] → goes e a id)
      ∧ (∀ (e : Instr) (a : TagAct),
        (e, op, a) ∈ [((.tagin c rt : Instr), 8, s.tagIn c.val p x.ctag h st),
          (.tagout c rt, 9, s.tagOut c.val (4 * (0x10 + rt.val) + i) p x.ctag h st)] → goes e a.act a.also))

/-- Completion of KILL, KILL_RETURN, PE_FIRE and DIGIT_EMIT. A KILL for the element in progress, with digits still
to send, leaves the channel and stops that element at its position from the next cycle on; a KILL whose output has
not returned one for every other fed output is recorded, and one with them all goes on with the largest position;
each queue gives one KILL in a cycle. A PE with its heads at the start of an element runs a word operation, whose
result leaves in that step, or begins a digit element, which then is in progress; an element in progress takes its
operand flits and emits its next flit where the result channel has room. (13_channels.md: Return path and kills,
04_online.md: Kills, 14_node_ops.md: Operands and firing) -/
def Obligations.KillAndElementEvents : Prop :=
  ∀ (s : State) (c : CoreIx) (pe : Fin 16),
    let n := pe.val
    let p := s.pe c.val n
    (∀ m rest j, (s.chan c.val (resultKey n)).kills = m :: rest →
      (s.chan c.val (resultKey n)).lastKill ≠ s.cyc + 1 → p.job = some j → j.headed = true → j.no = m.no →
      j.stop = none → j.drained = false →
      j.sent < (s.peRes c.val n (s.slotAt c.val n j.slot).frame j).total →
      exec (.kill c pe) s = .next
        ((s.modChan c.val (resultKey n) fun x => { x with kills := rest, lastKill := s.cyc + 1 }).setPe c.val n
          { p with job := some { j with stop := some m.j, stopAt := s.cyc + 1 } }))
    ∧ (∀ (ch : ChanId) m rest src no tag o, (∀ r, ch ≠ .result r) →
      (s.chan c.val (chanKey ch)).lastKill ≠ s.cyc + 1 → (s.chan c.val (chanKey ch)).kills = m :: rest →
      tabGet none (s.chan c.val (chanKey ch)).source m.no.toNat = some (src, no, tag) →
      (s.chan c.val src).part = some (no, tag) →
      let outs := s.fedOuts c.val src tag
      let drop := s.modChan c.val (chanKey ch) fun x => { x with kills := rest, lastKill := s.cyc + 1 }
      let got := ((s.chan c.val src).returned.filter fun r => r.1 != o) ++ [(o, ⟨no, tag, m.j⟩)]
      listFind (fun o => s.fedChan c.val src tag o == some (c.val, chanKey ch)) outs = some o →
      ((outs.all fun o => got.any fun r => r.1 == o) = true → (s.chan c.val src).kills.length < 4 →
        exec (.killReturn c ch) s = .next (drop.modChan c.val src fun x =>
          { x with kills := x.kills ++ [⟨no, tag, maxKill got⟩], returned := [] }))
      ∧ ((outs.all fun o => got.any fun r => r.1 == o) = false →
        exec (.killReturn c ch) s = .next (drop.modChan c.val src fun x =>
          { x with returned := (x.returned.filter fun r => r.1 != o) ++ [(o, ⟨no, tag, m.j⟩)] })))
    ∧ (∀ x i f, p.job = none → p.stopped = false → s.peHead c.val n 0 = some x →
      s.slotFor c.val n x.ctag = some (i, f) → s.isWithheld c.val n x.ctag = false →
      let reads := peReads f
      let heads := reads.filterMap (s.peHead c.val n)
      heads.length = reads.length → heads.any (fun h => h.kind == 5) = false →
      (heads.all (fun h => h.kind == 4) = true → exec (.peFire c pe) s = .next (s.peTile c.val n i f reads x)
        ∧ (peIsAcc f = false → s.room c.val (resultKey n) 4 = true → ∃ y,
          ((s.peTile c.val n i f reads x).chan c.val (resultKey n)).flits
            = (s.chan c.val (resultKey n)).flits ++ [y]))
      ∧ (heads.all (fun h => h.kind == 4) = false → heads.all (peStart f) = true →
        heads.all (fun h => h.ctag == x.ctag) = true →
        ((peIsWord (fOp f) && fOp f != 0x30 && (!peIsCst f || x.last)) = true →
          exec (.peFire c pe) s = .next (s.peWord c.val n i f x.ctag reads heads)
          ∧ (s.room c.val (resultKey n) 4 = true → ∃ y,
            ((s.peWord c.val n i f x.ctag reads heads).chan c.val (resultKey n)).flits
              = (s.chan c.val (resultKey n)).flits ++ [y]))
        ∧ ((peIsWord (fOp f) && fOp f != 0x30 && (!peIsCst f || x.last)) = false →
          ∃ t j, exec (.peFire c pe) s = .next t ∧ t = s.peBegin c.val n i x.ctag reads heads
            ∧ (t.pe c.val n).job = some j ∧ j.slot = i ∧ j.ctag = x.ctag ∧ j.sent = 0 ∧ j.headed = false))
      ∧ (heads.all (fun h => h.kind == 4) = false →
        (heads.all (peStart f) && heads.all (fun h => h.ctag == x.ctag)) = false →
        exec (.peFire c pe) s = .next (s.peStop c.val n x.ctag)))
    ∧ (∀ j, p.job = some j →
      let f := (s.slotAt c.val n j.slot).frame
      let r := (peReads f).foldl (fun (q : State × PeJob) k => q.1.peTake c.val n q.2 k) (s, j)
      (peIsCst f = true → exec (.digitEmit c pe) s = .next (s.peCst c.val n f j))
      ∧ (peIsCst f = false → peIsAcc f = true → j.drained = true →
        exec (.digitEmit c pe) s = .next (s.peSend c.val n f j))
      ∧ (peIsCst f = false → peIsAcc f = true → j.drained = false →
        exec (.digitEmit c pe) s = .next (r.1.peAcc c.val n f r.2))
      ∧ (peIsCst f = false → peIsAcc f = false → s.room c.val (resultKey n) 4 = true →
        (r.2.next f (originId c.val n) (s.peRes c.val n f r.2) s.cyc 0).isSome = true →
        ∃ t y, exec (.digitEmit c pe) s = .next t
          ∧ (t.chan c.val (resultKey n)).flits = (s.chan c.val (resultKey n)).flits ++ [y])
      ∧ (peIsCst f = false → peIsAcc f = false →
        (r.2.next f (originId c.val n) (s.peRes c.val n f r.2) s.cyc 0).isSome = false →
        ∃ t v, exec (.digitEmit c pe) s = .next t
          ∧ v = r.1.peKills c.val n r.2 (peReads f) (s.peDue f r.2 (s.peRes c.val n f r.2))
          ∧ t = v.1.peEmit c.val n f v.2 (s.peRes c.val n f r.2)))

/-- Completion of MLD, MST, GATH, SCAT, UPD, DEP and SPARSE_UPDATE_APPLY. Each of the six port operations fires on
the flits of its record, which enters one request; mld and gath read the element of a request and mst and scat write
it, and its response is there; an upd or dep element enters the window of its bank; the first response that waits
leaves for the side; a port that is withheld takes and sends nothing. That a record of updates and an end-of-tile
flit take one place each of the reorder buffer is the model's reading (DEDUCED, log entry 100). An element of a
window that is ready is applied, which writes its new value, and its records are done, and an element that may merge
into an earlier one is added to it and leaves the window. (12_memory_instr.md: Memory-tile port operations,
12_memory_instr.md: Gather and scatter, 12_memory_instr.md: Sparse update, 12_memory_instr.md: Dependence counters)
-/
def Obligations.PortEvents : Prop :=
  ∀ (s : State) (c : CoreIx) (mt port : Fin 4),
    let key := 256 + 4 * mt.val + port.val
    let q := s.portq c.val key
    (∀ (op : Nat) (e : PortPart → Instr),
      (op, e) ∈ [(0, (Instr.mld c mt port ·)), (1, (Instr.mst c mt port ·)), (2, (Instr.gath c mt port ·)),
        (3, (Instr.scat c mt port ·)), (4, (Instr.upd c mt port ·)), (5, (Instr.dep c mt port ·))] →
      (∀ x i f o poison data, s.head c.val (drainKey key) = some x → s.slotFor c.val key x.ctag = some (i, f) →
        fOp f = op → s.portWithheld c.val key i = false → x.sideBad = false → x.kind ≠ 5 → x.kind ≠ 4 →
        q.reqs.length < 16 → (4 ≤ op → s.portHeld c.val key < 32) →
        s.portStep c.val key f (s.port c.val key i).taken x = .fire o poison data none →
        (poison = true ∨ offsetIn f o = true) →
        ∃ t r, exec (e .take) s = .next t ∧ (t.portq c.val key).reqs = q.reqs ++ [r]
          ∧ r.slot = i ∧ r.off = o.toNat ∧ r.poison = poison ∧ r.data = data ∧ r.fired = x)
      ∧ (∀ j r, q.reqs[j]? = some r → fOp (s.slotAt c.val key r.slot).frame = op →
        requestReady (s.slotAt c.val key r.slot).frame q.reqs j r = true →
        let f := (s.slotAt c.val key r.slot).frame
        let pa := s.scratchPa c.val r.off
        (op < 4 → q.mayIssue r.id = true →
          exec (e (.access j)) s = .next ((s.portAccess c.val key f r).active c.val)
          ∧ (op = 0 ∨ op = 2 → (s.portAccess c.val key f r).mem = s.mem)
          ∧ (op = 1 ∨ op = 3 → r.poison = false → r.data.any (fun d => d.poison) = false →
            s.narrowBad pa (fBytes f) = false →
            (s.portAccess c.val key f r).natAt pa (fBytes f)
              = r.data.foldr (fun d v => d.pay.toNat + 2 ^ 64 * v) 0 % 256 ^ fBytes f))
        ∧ (4 ≤ op → r.poison = false → r.data.any (fun d => d.poison) = false →
          (s.window c.val (bankOf r.off)).length < 16 →
          ∃ t x, exec (e (.access j)) s = .next t ∧ (t.portq c.val key).reqs = q.reqs.eraseIdx j
            ∧ t.window c.val (bankOf r.off) = s.window c.val (bankOf r.off) ++ [x] ∧ x.off = r.off))
      ∧ ((∀ i, s.portWithheld c.val key i = true) → exec (e .take) s = .next s ∧ exec (e .send) s = .next s)
      ∧ (∀ o l x m, op < 4 → q.outs = o :: l → o.flits = x :: m → fOp (s.slotAt c.val key o.slot).frame = op →
        s.portWithheld c.val key o.slot = false →
        s.sideRoom c.val (fb (s.slotAt c.val key o.slot).frame 221 218) = true →
        exec (e .send) s = .next ((s.modPortq c.val key fun q =>
          { q with outs := dropSent ({ o with flits := m } :: l) }).sidePush c.val
            (fb (s.slotAt c.val key o.slot).frame 221 218) x))
      ∧ (∀ i x l, 4 ≤ op →
        listFind (fun i =>
          (s.slotAt c.val key i).v && fOp (s.slotAt c.val key i).frame == op && !s.portWithheld c.val key i
            && (nextUpdate key (fCtag (s.slotAt c.val key i).frame) (s.port c.val key i).waiting).isSome
            && s.sideRoom c.val (fb (s.slotAt c.val key i).frame 221 218)) (rangeFrom 0 4) = some i →
        nextUpdate key (fCtag (s.slotAt c.val key i).frame) (s.port c.val key i).waiting = some (x, l) →
        exec (e .send) s = .next ((s.setRecords c.val key i l).sidePush c.val
          (fb (s.slotAt c.val key i).frame 221 218) x)))
    ∧ (∀ (bank : Fin 16) (i : Nat) (x : UpdElem),
      let w := 16 * mt.val + bank.val
      let l := s.window c.val w
      let pa := s.scratchPa c.val x.off
      let n := 2 ^ x.esz
      let t := ((s.setWindow c.val w (l.eraseIdx i)).updApply c.val x)
      l[i]? = some x →
      (applyReady l i x = true → s.mayApply c.val x = true →
        exec (.sparseUpdateApply c mt bank i none) s =
          .next ((x.records.foldl (fun s r => s.updDone c.val r) t).active c.val)
        ∧ (s.eccBad pa n = false → x.dep = none →
          t.natAt pa n = (updNew x.op (8 * n) (s.natAt pa n) x.val.toNat).1 % 256 ^ n)
        ∧ (∀ u, s.eccBad pa n = false → x.dep = some u → t.natAt pa 2 = (s.natAt pa n + 0xFFFF) % 2 ^ 16))
      ∧ (∀ j y, l[j]? = some y → j < i → mergeReady y x = true →
        exec (.sparseUpdateApply c mt bank i (some j)) s =
          .next ((s.setWindow c.val w ((listSet l j (y.merge x)).eraseIdx i)).active c.val)))

/-- Completion of MX_TOKEN_ENQUEUE, MMA, MMA_ACC, ACC_RD, ACC_CLR and MATRIX_STEP. A token at a router output enters
the token queue where it has room and no command offers one; at the head, an mma or mma.acc token whose operands are
ready begins and one whose blocks have a wrong axis ends with BLKAXIS; an operation in progress steps; a read token
emits its rectangle flit by flit and a clear token zeroes its rectangle; a read for a register delivers its element;
a payload that is no token ends with CFGERR. (09_matrix.md: Control tokens, 09_matrix.md: The product, 09_matrix.md:
Reading and clearing, 09_matrix.md: Errors) -/
def Obligations.MatrixEvents : Prop :=
  ∀ (s : State) (c : CoreIx),
    (∀ rt f, s.mxSource c.val = some (rt, f) → (s.mx c.val).room = true → s.mxOffered c.val = false →
      let t := s.popChan c.val (operandKey rt 2)
      exec (.mxTokenEnqueue c) s =
        .next (t.setMx c.val ((t.mx c.val).enter f.ctag (some f.pay) (f.kind != 6 || bits f.pay 60 4 != 0) 0 0)))
    ∧ (∀ e w p, s.mxHead c.val = .token e w p →
      (∀ (i : Instr) (m : Nat), (i, m) ∈ [((.mma c : Instr), 0), (.mmaAcc c, 1)] → mxMop w = m →
        (s.mx c.val).op = none →
        (∀ a b, s.mxOperands c.val w p = .ready a b →
          ∃ t o, exec i s = .next t ∧ t = s.mxBegin c.val w a b ∧ (t.mx c.val).op = some o
            ∧ o.q = 0 ∧ o.g = 0 ∧ o.k = 0)
        ∧ (∀ a b, s.mxOperands c.val w p = .axis a b →
          exec i s = .next ((s.mxFlags c.val w p a b).mxError c.val e causeBlkaxis))
        ∧ (s.mxOperands c.val w p = .malformed → exec i s = .next (s.mxError c.val e causeCfgerr)))
      ∧ (∀ o, (s.mx c.val).op = some o → mxMop w ≤ 1 → exec (.matrixStep c) s = .next (s.mxStep c.val e w p o)
        ∧ (o.k + 1 < mxKb w → ∃ v, ((s.mxStep c.val e w p o).mx c.val).op = some v
          ∧ v.k = o.k + 1 ∧ v.g = o.g ∧ v.q = o.q))
      ∧ (mxMop w = 2 → (s.mx c.val).out = some [] → exec (.accRd c) s = .next (s.mxFinish c.val e))
      ∧ (∀ x y l, mxMop w = 2 → (s.mx c.val).out = some (x :: y :: l) →
        s.sbRoom c.val p.rsb.1 p.rsb.2.1 p.rsb.2.2 byMatrix 16 = true →
        let t := s.sbPutFlit c.val p.rsb.1 p.rsb.2.1 p.rsb.2.2 byMatrix x
        exec (.accRd c) s = .next (t.setMx c.val { t.mx c.val with out := some (y :: l) }))
      ∧ (∀ x, mxMop w = 2 → (s.mx c.val).out = some [x] →
        s.sbRoom c.val p.rsb.1 p.rsb.2.1 p.rsb.2.2 byMatrix 16 = true →
        let t := s.sbPutFlit c.val p.rsb.1 p.rsb.2.1 p.rsb.2.2 byMatrix x
        exec (.accRd c) s = .next ((t.setMx c.val { t.mx c.val with out := some [] }).mxFinish c.val e))
      ∧ (mxMop w = 2 → (s.mx c.val).out = none →
        ∃ t v, exec (.accRd c) s = .next t ∧ (t.mx c.val).out = some v)
      ∧ (mxMop w = 3 →
        exec (.accClr c) s = .next ((s.setMx c.val ((mxRect w).foldl (fun (m : Mx) (x : Nat × Nat) =>
          m.accPut (accKey (mxArray w) x.1 x.2) 0) (s.mx c.val))).mxFinish c.val e)))
    ∧ (∀ e, s.mxHead c.val = .read e →
      let t := s.accFix c.val [e.index]
      let v := (t.mx c.val).accGet e.index
      exec (.matrixStep c) s =
        .next ((t.mxFinish c.val e).deliver c.val e.dest (if accIsPoison v then accPoison else v)))
    ∧ (∀ e, s.mxHead c.val = .bad e → e.bad = true →
      exec (.matrixStep c) s = .next (s.mxError c.val e causeCfgerr))

/-- Completion of STREAM_ELEMENT, STREAM_WRITE, STREAM_DONE, STREAM_CANCEL_COMPLETE, BAR_IF_DECIDE, TEMPLATE_FIRING,
COMPRESS_PHASE and COPY_END. A running input stream with nothing in hand issues its next element and one with flits
in hand delivers the first of them; a copy in the slot takes its step, and writes what it has gathered; an output
stream takes the next flit at its port, and issues the write of an element that it has gathered; a stream that has
delivered its last element is DONE, and a fire token that is sent leaves the list; a cancelled stream that has
performed its accesses is CANCELLED; a deciding stream that takes the deciding flit is launched or cancelled by it;
an armed template with a token and a free slot begins to copy; a compressing copy passes from its elements to its
row pointers, to NNZ and to VALID, each once what it wrote before is performed; a copy at its end without poison
leaves its firing, which is counted. The instants at which a stream is DONE and CANCELLED, the lowest free slot for
a firing and the order of the writes of a compressing copy are the model's readings (DEDUCED, log entries 38, 39, 48
and 49). (15_streams.md: Delivery, records and tiles, 15_streams.md: Stream commands, 15_streams.md: Barriers and
conditional launch, 15_streams.md: Copy templates, 15_streams.md: Compressing copies) -/
def Obligations.StreamAndTemplateEvents : Prop :=
  ∀ (s : State) (c : CoreIx) (ag : Fin 8) (slot : Fin 4) (tm : Fin 16),
    let a := ag.val
    let i := slot.val
    let x := s.stream c.val a i
    let m := s.tpl c.val tm.val
    let target := s.streamTarget c.val a x
    (a < 4 → s.copyIn c.val a i = none → s.waved c.val = false →
      (∀ t y, x.phase = .running → x.cancelling = false → x.atEnd = false → x.x.sent = true → x.x.front = none →
        againOf x.x.flown = none → x.x.waiting < 32 → x.konst = none → shInd x.record = false → target ≠ .wait →
        s.issueRead c.val x.x x.record x.base x.sys 0 1 = .ok t y →
        exec (.streamElement c ag slot) s = .next (t.inIssued c.val a i 0 x y) ∧ y.pos = x.x.pos + 1
        ∧ ((t.inIssued c.val a i 0 x y).stream c.val a i).x.flown = y.flown)
      ∧ (x.phase ≠ .running → exec (.streamElement c ag slot) s = .next (s.inbandStep c.val a))
      ∧ (∀ f g l u, x.phase = .running → x.atEnd = true → againOf x.x.flown = none → x.x.out = f :: g :: l →
        s.hasTurn c.val a (shPort x.record) x.ctag x.order = true →
        s.deliverFlit c.val (byStream a i) target f = .sent u →
        ∃ t, exec (.streamElement c ag slot) s = .next t ∧ (t.stream c.val a i).x.out = g :: l))
    ∧ (∀ n, s.copyIn c.val a i = some n → s.waved c.val = false →
      exec (.streamElement c ag slot) s = .next (s.copyStep c.val n)
      ∧ (∀ t y, (s.tpl c.val n).phase = .copying → (s.tpl c.val n).x.sent = true →
        s.copyFrame c.val (s.tpl c.val n) = some true → armKind (s.tpl c.val n).arm.record = 0 →
        againOf (s.tpl c.val n).x.flown = none → (s.tpl c.val n).gathered = true → (s.tpl c.val n).x.writing < 32 →
        s.issueWrite c.val { (s.tpl c.val n).x with xl := none } (s.tpl c.val n).arm.sys
          ((s.tpl c.val n).took - (s.tpl c.val n).sources) (s.tpl c.val n).sources ((s.tpl c.val n).puts n) = .ok t y →
        ((s.copyStep c.val n).tpl c.val n).x.block = [] ∧ ((s.copyStep c.val n).tpl c.val n).x.flown = y.flown))
    ∧ (4 ≤ a → s.waved c.val = false → x.phase = .running → x.cancelling = false → againOf x.x.flown = none →
      x.atEnd = false →
      (∀ t y, (x.konst.isSome = true ∨ x.gathers ≤ x.x.block.length) → x.x.writing < 32 →
        s.issueWrite c.val x.x x.sys x.x.pos 1 (x.puts c.val a i).1 = .ok t y →
        ∃ u, exec (.streamWrite c ag slot) s = .next u ∧ (u.stream c.val a i).x.pos = x.x.pos + 1
          ∧ (u.stream c.val a i).x.flown = y.flown)
      ∧ (∀ f t, x.konst = none → x.x.block.length < x.gathers →
        s.hasTurn c.val a (shPort x.record) x.ctag x.order = true → s.outHead c.val a i x = .flit f t →
        (shIsWord x.record = true → f.kind = 0 →
          exec (.streamWrite c ag slot) s = .next (t.setStream c.val a i { x with
            x := { x.x with block := x.x.block ++ [wordElem (shFmt x.record) f (originId c.val (0x30 + a))] } }))
        ∧ (shIsWord x.record = false → f.kind = 3 → x.x.taken ≠ [] →
          exec (.streamWrite c ag slot) s = .next (t.setStream c.val a i { x with
            x := { x.x with taken := [], block := x.x.block ++ [floatElem (x.x.taken ++ [f])] } }))))
    ∧ (listFind (fun t => t.ag == a && t.slot == i && !t.lost) (s.units c.val).fires = none → x.phase = .running →
      (x.cancelling = false ∨ x.since = s.cyc + 1) → x.atEnd = true → x.x.delivered = true →
      exec (.streamDone c ag slot) s = .next (s.streamFinish c.val a i)
      ∧ ((s.streamFinish c.val a i).stream c.val a i).phase = .done)
    ∧ (∀ t u, listFind (fun t => t.ag == a && t.slot == i && !t.lost) (s.units c.val).fires = some t →
      s.emitFire c.val byFire t.dst t.pay t.ctag = .sent u →
      exec (.streamDone c ag slot) s = .next (u.modUnits c.val fun y => { y with fires := y.fires.erase t }))
    ∧ (listFind (fun (t : Tail) => t.ag == a && t.slot == i && !t.lost) (s.units c.val).tails = none →
      x.cancelling = true → x.x.performed = true → x.since ≠ s.cyc + 1 → 4 ≤ a →
      ∃ t, exec (.streamCancelComplete c ag slot) s = .next t ∧ t = s.streamEnd c.val a i .cancelled
        ∧ (t.stream c.val a i).phase = .cancelled)
    ∧ (listFind (fun (t : Tail) => t.ag == a && t.slot == i && !t.lost) (s.units c.val).tails = none →
      x.cancelling = true → x.x.performed = true → x.since ≠ s.cyc + 1 → a < 4 →
      let t := s.inTakeAll c.val a i
      exec (.streamCancelComplete c ag slot) s =
        .next ((t.streamEnd c.val a i .cancelled).cancelTail c.val a i (t.stream c.val a i)))
    ∧ (∀ q k f h, x.phase = .deciding → x.decider = some q → x.cancelling = false → s.waved c.val = false →
      x.skip = none → s.sbAt c.val q.sb x.ctag = some (k, f) → sbQdst f = 0x14 →
      s.sbHead c.val q.sb k f (byStream a i) = some h → (h.kind = 0 ∨ h.kind = 6) → h.last = true →
      let t := (s.sbDropFlit c.val q.sb k f (byStream a i) h).setStream c.val a i { x with skip := none }
      ((!h.poison && (h.pay.getLsbD q.dbit != q.inv)) = true →
        exec (.barIfDecide c ag slot) s = .next (t.launch c.val a i)
        ∧ ((t.launch c.val a i).stream c.val a i).phase = .running)
      ∧ ((!h.poison && (h.pay.getLsbD q.dbit != q.inv)) = false →
        exec (.barIfDecide c ag slot) s =
          .next (t.setStream c.val a i { t.stream c.val a i with cancelling := true })))
    ∧ (∀ f e l k, m.phase = .armed → s.waved c.val = false → s.frameFor c.val (0x50 + tm.val) m.arm.ctag = some f →
      s.fq c.val (fb f 223 220) = e :: l →
      listFind (fun i => !(s.stream c.val (fb f 219 217) i).phase.busy && (s.copyIn c.val (fb f 219 217) i).isNone)
        (rangeFrom 0 4) = some k →
      exec (.templateFiring c tm) s = .next (((s.fqDrop c.val (fb f 223 220)).setTpl c.val tm.val
        { m with
          phase := .copying, x := .reset, place := some (4 * fb f 219 217 + k), took := 0, stage := 0, kept := 0,
          ends := [], rows := 0 }).count c.val 8 1))
    ∧ (m.phase = .copying → armKind m.arm.record = 2 → s.waved c.val = false → s.copyFrame c.val m = some true →
      againOf m.x.flown = none →
      let excess := decide (m.cap.toNat < m.kept)
      (m.stage = 1 → m.copied = true →
        exec (.compressPhase c tm) s = .next (s.setTpl c.val tm.val { m with stage := 2, rows := 0 }))
      ∧ (m.stage = 2 → m.fullRows < m.rows → m.x.flown = [] →
        exec (.compressPhase c tm) s = .next (s.setTpl c.val tm.val { m with stage := 3 }))
      ∧ (m.stage = 2 → m.rows ≤ m.fullRows → m.x.writing < 32 →
        ∀ t y, s.issueWrite c.val { m.x with xl := none } m.arm.sys m.x.pos 0
          [{ va := m.rowp + word (4 * m.rows), bit := 0, w := 32,
             v := if m.rows = 0 then 0 else listGet 0 m.ends (m.rows - 1) }] = .ok t y →
        exec (.compressPhase c tm) s = .next ((t.setTpl c.val tm.val
          { m with x := { y with xl := m.x.xl }, rows := m.rows + 1 }).active c.val))
      ∧ (m.stage = 3 → m.x.writing < 32 →
        ∀ t y, s.issueWrite c.val { m.x with xl := none } m.arm.sys m.x.pos 0
          [{ va := m.daddr + 8, bit := 0, w := 64, v := m.kept }] = .ok t y →
        exec (.compressPhase c tm) s = .next ((t.setTpl c.val tm.val
          { m with x := { y with xl := m.x.xl }, stage := 4 }).active c.val))
      ∧ (m.stage = 4 → m.x.flown = [] →
        ∀ t y, s.issueWrite c.val { m.x with xl := none } m.arm.sys m.x.pos 0
          [{ va := m.daddr, bit := 0, w := 64, v := if excess then 2 else 1 }] = .ok t y →
        exec (.compressPhase c tm) s = .next ((t.setTpl c.val tm.val
          { m with x := { y with xl := m.x.xl }, stage := 5, ovf := excess }).active c.val)))
    ∧ (m.phase = .copying → m.copied = true → armKind m.arm.record ≠ 2 → m.x.poison.count = 0 →
      shFdst (armShape m.arm.record) = 0 →
      ∃ t, exec (.copyEnd c tm) s = .next t ∧ t = (s.setTpl c.val tm.val m.next).active c.val
        ∧ (m.pending = none → (t.tpl c.val tm.val).fired = m.fired + 1))

/-- Completion of SB_PUSH, SB_POP, FRAME_INSTALL, DEMAND_FILL, CONFIG_RECORD, EVICT_DRAIN_CLEAR, PERMIT, DONE_TOKEN
and ITERATION_OPEN. A flit at the edge side enters the buffer of its tag where it has room; a flagged slot that
nobody reads any more is released, and else the head of a buffer leaves for its edge side; a frame whose turn it is,
and whose slot is ready, is written to its slot (which of several goes first is the model's reading, DESIGN CHOICE,
log entry 98); a waiting tag is filled from the cache or the fill fails; a configuration flit of the node is
collected, and a whole record of it goes to be installed; an evict clears the slots that still hold its tag as it
may; a permit starts a controller from its runtime counters; a done token is counted for its child; a leaf opens its
next iteration. (15_streams.md: Stream buffers, 18_contexts.md: Context slots, 18_contexts.md: The configuration
cache, 18_contexts.md: The partial-reconfiguration handshake, 18_contexts.md: Configuration instructions,
21_counters.md: The controller tree, 21_counters.md: Counter chains) -/
def Obligations.BufferAndContextEvents : Prop :=
  ∀ (s : State) (c : CoreIx),
    (∀ (sb : Fin 16) x i f, s.head c.val (drainKey (0x40 + sb.val)) = some x → s.sbAt c.val sb.val x.ctag = some (i, f) →
      x.kind ≠ 5 → x.sideBad = false → sbRaw f = false → sbPsrc f < 16 → s.sbRoom c.val sb.val i f byEdge 16 = true →
      ∃ t, exec (.sbPush c sb) s = .next t
        ∧ t = (s.popChan c.val (drainKey (0x40 + sb.val))).sbPutFlit c.val sb.val i f byEdge x
        ∧ (t.sbuf c.val sb.val i).fill = (s.sbuf c.val sb.val i).fill + 16)
    ∧ (∀ (sb : Fin 16) i, listFind (fun i => s.readerCount c.val sb.val (s.slotAt c.val (0x40 + sb.val) i).ctag == 0
        && (s.sbuf c.val sb.val i).flag)
          ((rangeFrom 0 4).filter fun i => (s.slotAt c.val (0x40 + sb.val) i).v) = some i →
      ∃ t, exec (.sbPop c sb) s = .next t
        ∧ t = s.sbRelease c.val sb.val i (s.slotAt c.val (0x40 + sb.val) i).frame
        ∧ (t.sbuf c.val sb.val i).flag = false)
    ∧ (∀ (sb : Fin 16) i x,
      let slots := (rangeFrom 0 4).filter fun i => (s.slotAt c.val (0x40 + sb.val) i).v
      let f := (s.slotAt c.val (0x40 + sb.val) i).frame
      listFind (fun i => s.readerCount c.val sb.val (s.slotAt c.val (0x40 + sb.val) i).ctag == 0
        && (s.sbuf c.val sb.val i).flag) slots = none →
      listFind (fun i => decide (sbQdst (s.slotAt c.val (0x40 + sb.val) i).frame < 16)
        && s.sideRoom c.val (sbQdst (s.slotAt c.val (0x40 + sb.val) i).frame)
        && (s.sbHead c.val sb.val i (s.slotAt c.val (0x40 + sb.val) i).frame byEdge).isSome) slots = some i →
      s.sbHead c.val sb.val i f byEdge = some x →
      exec (.sbPop c sb) s = .next ((s.sbDropFlit c.val sb.val i f byEdge x).sidePush c.val (sbQdst f) x))
    ∧ (∀ i x, (s.grid c.val).installs[i]? = some x → s.mayWrite c.val x = true →
      s.firstInstall c.val i x = true →
      (x.kind = .demand → s.slotFor c.val (fKey x.frame) (fCtag x.frame) = none) → initOuts x.frame = [] →
      exec (.frameInstall c i) s = .next ((s.installWrite c.val x.frame).endInstall c.val i x)
      ∧ ((s.installWrite c.val x.frame).slotAt c.val (fKey x.frame) (fSlot x.frame).toNat).frame = x.frame)
    ∧ (∀ (node : NodeId) tag,
      let k := nodeKey node
      s.fillDue c.val k = some tag →
      let t := (s.count c.val 9 1).active c.val
      (∀ f, (t.core c.val).cache.frameFor k tag = some f → frameOk f = true → fKind f ≠ 15 →
        exec (.demandFill c node) s = .next ((t.readPlace c.val k tag).modGrid c.val fun g =>
          { g with installs := g.installs ++
              [{ frame := f, kind := .demand, load := 0, via := 0, src := 0, met := 0, placed := false, tokens := [] }] }))
      ∧ ((t.core c.val).cache.frameFor k tag = none → exec (.demandFill c node) s = .next (t.fillFault c.val k tag)))
    ∧ (∀ (m : Fin 16) f kk,
      listFind (fun kk => (tabGet [] (s.grid c.val).collect kk).length == 4
        && !((s.grid c.val).installs.any fun x => x.via == kk + 1)) (nodeInputs (nodeKey (.rt m))) = none →
      listFind (fun kk => s.cfgTakes c.val m.val (inputOf kk) && s.mayMove c.val m.val (inputOf kk))
        (nodeInputs (nodeKey (.rt m))) = some kk → s.head c.val kk = some f → (f.last = false ∨
        3 ≤ (tabGet [] (s.grid c.val).collect kk).length) →
      ∃ t, exec (.configRecord c (.rt m)) s = .next t
        ∧ t = (s.collectFlit c.val kk f).grantTo c.val m.val (inputOf kk)
        ∧ tabGet [] (t.grid c.val).collect kk = tabGet [] (s.grid c.val).collect kk ++ [f])
    ∧ (∀ (m : Fin 16) kk,
      listFind (fun kk => (tabGet [] (s.grid c.val).collect kk).length == 4
        && !((s.grid c.val).installs.any fun x => x.via == kk + 1)) (nodeInputs (nodeKey (.rt m))) = some kk →
      let w := tabGet [] (s.grid c.val).collect kk
      let f := frameOf (listGet 0 (w.map fun x => x.pay) 3) (listGet 0 (w.map fun x => x.pay) 2)
        (listGet 0 (w.map fun x => x.pay) 1) (listGet 0 (w.map fun x => x.pay) 0)
      (s.grid c.val).badCfg.contains kk = false → frameOk f = true → fKind f = 1 → fKey f = nodeKey (.rt m) →
      ∃ t, exec (.configRecord c (.rt m)) s = .next t ∧ (t.grid c.val).installs = (s.grid c.val).installs ++
        [{ frame := f, kind := .inband, load := 0, via := kk + 1, src := ((w.head?).map fun x => x.src).getD 0, met := 0,
           placed := false, tokens := [] }])
    ∧ (∀ i e, (s.grid c.val).evicts[i]? = some e → (s.grid c.val).ended e.after = true →
      let slots := (e.slots.getD (s.tagSlots c.val e.node e.tag)).filter fun k =>
        (s.slotAt c.val (k / 4) (k % 4)).v && (s.slotAt c.val (k / 4) (k % 4)).ctag == e.tag
      (∀ k, e.discard = false → listFind (fun k => !s.resident c.val (k / 4) e.tag) slots = some k →
        (slots.filter fun x => x != k) = [] →
        exec (.evictDrainClear c i) s = .next ((s.clearSlot c.val (k / 4) (k % 4)).endEvict c.val
          { e with slots := some [], count := e.count + 1 })
        ∧ ((s.clearSlot c.val (k / 4) (k % 4)).slotAt c.val (k / 4) (k % 4)).v = false)
      ∧ (e.discard = true →
        exec (.evictDrainClear c i) s = .next ((slots.foldl (fun s k =>
          (s.discardTag c.val (k / 4) (k % 4) e.tag).clearSlot c.val (k / 4) (k % 4)) s).endEvict c.val
            { e with count := slots.length }))
      ∧ (e.discard = false → slots = [] → exec (.evictDrainClear c i) s = .next (s.endEvict c.val e)))
    ∧ (∀ (ct : Fin 8) t i f,
      let u := s.takeToken c.val t
      let x := u.ctl c.val ct.val i
      u.slotFor c.val (0x20 + ct.val) t.ctag = some (i, f) →
      ((s.grid c.val).tokenFor s.cyc ct.val false = some t →
        exec (.permit c ct) s = .next ((u.setCtl c.val ct.val i
          { x with
            cur := x.rc, granted := [], returned := [], spoiled := [], opens := [], opened := 0, complete := 0,
            iters := 0, iter := t.iter, running := true, permitted := true, aborted := false }).advance
              c.val ct.val i f))
      ∧ ((s.grid c.val).tokenFor s.cyc ct.val true = some t →
        exec (.doneToken c ct) s = .next ((u.setCtl c.val ct.val i
          { x with
            returned := tabSet 0 x.returned t.src (tabGet 0 x.returned t.src + 1)
            spoiled := if t.aborted then x.spoiled ++ [t.iter.toNat] else x.spoiled }).advance c.val ct.val i f)))
    ∧ (∀ (ct : Fin 8) i, listFind (fun i =>
        let x := s.ctl c.val ct.val i
        let sl := s.slotAt c.val (0x20 + ct.val) i
        sl.v && x.permitted && !x.aborting && (fChildren sl.frame).isEmpty
          && decide (x.opened < runLength sl.frame x.cur) && decide (x.opens.length < leafLimit sl.frame)
          && x.openedAt != s.cyc + 1) (rangeFrom 0 4) = some i →
      let f := (s.slotAt c.val (0x20 + ct.val) i).frame
      let x := s.ctl c.val ct.val i
      let ports := s.boundPorts c.val ct.val (fCtag f)
      (ports ≠ [] → exec (.iterationOpen c ct) s = .next ((s.setCtl c.val ct.val i
        { x with opened := x.opened + 1, openedAt := s.cyc + 1, opens := x.opens ++ [(x.opened, ports)] }).advance
          c.val ct.val i f))
      ∧ (ports = [] → exec (.iterationOpen c ct) s = .next ((s.setCtl c.val ct.val i
        { x with
          opened := x.opened + 1, openedAt := s.cyc + 1, complete := x.complete + 1, iters := x.iters + 1 }).advance
            c.val ct.val i f)))

/-- Completion of TQ_FIRST_HALF_WRITE, TQ_SECOND_HALF_WRITE, TASK_COUNTER_WRITE, FQPOP, FZAREA_WRITE, TASK_READY,
SCHEDULER_BIND, PREEMPT, FREEZE and TASK_RETIRE. A write to a half of a record port reaches the scheduler (the
second half only once the package runs), one to a task counter joins the sum of the cycle (DEDUCED, log entry 72),
FQPOP drops the head of the fault queue, and FZAREA is written while no image lies in it; a slot whose conditions
hold is READY at the time; one task at most is bound in a cycle, the first candidate where it has a placement; the
first urgent candidate without a placement starts a freeze wave on a victim (DEDUCED, log entry 71); a wave that is
ready freezes its task; a running task whose cores are all done retires: its slot and its cores are free.
(16_tasks.md: Host queue ports, 16_tasks.md: Task counters, 16_tasks.md: Choosing and binding, 02_execution.md: Task
life cycle, 02_execution.md: Pre-emption and thaw, 22_freeze.md: Images) -/
def Obligations.SchedulerEvents : Prop :=
  ∀ (s : State) (d : DieIx) (q : Fin 16) (slot : BitVec 8),
    let x := (s.die d.val).sched
    let put (y : Sched) : State := s.modDie d.val fun z => { z with sched := y }
    (∀ v, exec (.tqFirstHalfWrite d q v) s = .next (put (x.portWrite q.val s.cyc s.ktime false v)))
    ∧ (∀ v, s.pkg.boot = .running →
      exec (.tqSecondHalfWrite d q v) s = .next (put (x.portWrite q.val s.cyc s.ktime true v)))
    ∧ (∀ (t : Fin 1024) (v : BitVec 32),
      exec (.taskCounterWrite d t v) s = .next (put { x with
        tcAdd := tabSet 0 x.tcAdd t.val (tabGet 0 x.tcAdd t.val + v.setWidth 16) }))
    ∧ exec (.fqpop d) s = .next (s.modDie d.val fun y =>
        { y with faults := { y.faults with recs := y.faults.recs.drop 1 } })
    ∧ (∀ v : Word, s.areaUsed d.val = false →
      exec (.fzareaWrite d v) s = .next (s.modDie d.val fun y =>
        { y with faults := { y.faults with fzSize := v.extractLsb' 36 20, fzBase := v.extractLsb' 16 20 } }))
    ∧ (x.isReady q.val slot.toNat s.cyc = true →
      ∃ t, exec (.taskReady d q slot) s = .next t
        ∧ ((t.die d.val).sched.slot q.val slot.toNat).phase = .ready
        ∧ ((t.die d.val).sched.slot q.val slot.toNat).tReady = s.ktime)
    ∧ (let u := s.startTasks d.val
      let y := (u.die d.val).sched
      (y.boundCyc = u.cyc + 1 → exec (.schedulerBind d) s = .next u)
      ∧ (∀ (w : State) q n sh first prio, ((w.bindTask d.val q n sh first prio).die d.val).sched.boundCyc = w.cyc + 1)
      ∧ (y.boundCyc ≠ u.cyc + 1 → exec (.schedulerBind d) s = .next (u.bindFirst d.val (y.cands u.ktime))
        ∧ ∀ a l sh first, y.cands u.ktime = a :: l → (y.slot a.queue a.slot).image = none →
          let p := u.shapesOf d.val (y.slot a.queue a.slot)
          p.1.firstPlacement d.val (recPcl (y.slot a.queue a.slot).record) p.2 = some (sh, first) →
          exec (.schedulerBind d) s = .next (p.1.bindTask d.val a.queue a.slot sh first a.level)))
    ∧ (∀ a v pa, x.waves.any (fun w => w.cause == .preempt) = false →
      listFind (fun (a : Cand) => (x.slot a.queue a.slot).urgent s.ktime && s.noPlace d.val (x.slot a.queue a.slot))
        (x.cands s.ktime) = some a →
      s.victim d.val (s.shapesOf d.val (x.slot a.queue a.slot)).2 = some v → s.areaFit d.val v.2.shape = some pa →
      exec (.preempt d) s = .next (s.startWave d.val ⟨v.1 / 256, v.1 % 256, .preempt, pa⟩))
    ∧ (∀ w, listFind (s.waveReady d.val) x.waves = some w → exec (.freeze d) s = .next (s.freezeTask d.val w))
    ∧ ((x.slot q.val slot.toNat).used = true → (x.slot q.val slot.toNat).phase = .running → x.waves = [] →
      (coresFrom (x.slot q.val slot.toNat).first (x.slot q.val slot.toNat).shape).all
        (fun c => (s.cpOf c).ctl.done && !s.accessing c) = true →
      exec (.taskRetire d q slot) s = .next ((put
        { ((recSigs (x.slot q.val slot.toNat).record).foldl (fun (y : Sched) k => y.addCounter k 0xFFFF) x).freeUp
            q.val slot.toNat s.cyc s.ktime with
          boundCyc := s.cyc + 1, waves := [] }).freeCores
            (coresFrom (x.slot q.val slot.toNat).first (x.slot q.val slot.toNat).shape)))

/-- Completion of COLL_RENDEZVOUS, COLL_COMBINE, RING_PASS, PAIR_HOME_CELL, PAIR_RECORD_PUSH, KV_REQUEST_ROUTE,
PLAIN_DELIVERY, PLAIN_ELEMENT_FIRE, PASS_INBOUND and PASS_OUTBOUND. A collective whose members have all issued and
agree begins as one job, and one whose members disagree fails; a job makes its next access, combines, and ends, or
passes its ring; the pair engine takes a step of binning or scanning and pushes its flits; a KV request ends with
its word, fails, or is forwarded to the back of the queue; a record arrives at its Plain element, and flit by flit
at its leaving pass; a Plain element with matching records fires, or stops on a duplicate; a pass moves flits both
ways. (17_collectives.md: Instructions, 17_collectives.md: The deterministic tree, 17_collectives.md: Ring rotation
within a package, 20_pairs_kv.md: Binning, 20_pairs_kv.md: Scanning, 20_pairs_kv.md: KV sequences and the chain,
19_plain.md: Tags and tag spaces, 19_plain.md: Operand slots and matching, 13_channels.md: Edge sides and long
channels) -/
def Obligations.CollectivePairKvPlainEvents : Prop :=
  ∀ (s : State) (c : CoreIx) (k : ClusterIx),
    (∀ (team seq : BitVec 16) (far : List FarMember) p l,
      let u := s.failWithdrawn team seq
      let x := u.coll p.1 p.2
      let news := (u.farRanks x.table).map fun r =>
        (r, (listFind (fun (f : FarMember) => f.rank == r) far).map fun f => f.news)
      let lost := x.table.any u.memberLost || news.any fun q => q.2 == some .withdrawn
      let fails (n : Nat) : Prop := exec (.collRendezvous team ⟨seq, far⟩) s =
        .next ((p :: l).foldl (fun (s : State) q => s.collFail q.1 q.2 n) u)
      u.collIssued team seq = p :: l →
      (lost = true → fails 0x0A)
      ∧ (∀ there : List (Nat × CollDesc × List Byte), lost = false →
        news = there.map (fun q => (q.1, some (.issued q.2.1 q.2.2))) →
        (x.table.filterMap u.memberCore).all (fun m => (p :: l).any fun q => q.1 == m) = true →
        (u.collAgrees x (p :: l) (there.map fun q => (q.1, q.2.1)) = false → fails 0x09)
        ∧ (u.collAgrees x (p :: l) (there.map fun q => (q.1, q.2.1)) = true →
          ∃ t j, exec (.collRendezvous team ⟨seq, far⟩) s = .next t ∧ t = u.collBegin team seq x (p :: l) there
            ∧ t.stations.jobs = u.stations.jobs ++ [j] ∧ j.id = u.stations.nextJob ∧ j.team = team ∧ j.seq = seq
            ∧ j.form = x.form ∧ j.members.length = x.table.length
            ∧ t.stations.nextJob = u.stations.nextJob + 1)))
    ∧ (∀ (team seq : BitVec 16) (a : Arrival) j,
      listFind (fun (j : CollJob) => j.team == team && j.seq == seq) s.stations.jobs = some j → j.isRing = false →
      let ps := j.members.zip (rangeFrom 0 j.members.length)
      let live := ps.filter fun p => !j.ended.contains p.2
      let slot := fun (p : (Nat × Nat) × Nat) => s.coll p.1.1 p.1.2
      exec (.collCombine team seq a) s = .next (s.jobStep j a)
      ∧ (s.withdrawn j = false → s.jobOpen j = true →
        (∀ p, listFind (fun p => (slot p).ready) live = some p → s.jobStep j a = s.collIssue p.1.1 p.1.2)
        ∧ (live.all (fun p => !(slot p).ready && (slot p).phase == .ready) = true →
          j.arrives a = true → s.jobStep j a = s.collCompute j a)))
    ∧ (∀ (i : Fin 8) j,
      let x := s.coll c.val i.val
      let n := j.members.length
      let b := (cdRank x.desc + n - x.pass % n) % n
      let size := cdBytes (listGet 0 j.descs b) 0
      listFind (fun (j : CollJob) => x.used && x.phase == .ring && j.id == x.job) s.stations.jobs = some j →
      (s.withdrawn j = true → exec (.ringPass c i) s = .next (s.jobFail j))
      ∧ (s.withdrawn j = false → s.jobOpen j = true →
        ∃ t, exec (.ringPass c i) s = .next t ∧ t = s.ringStep j (cdRank x.desc) c.val i.val
          ∧ (x.pass ≠ n → x.part = 0 → (t.coll c.val i.val).part = 1
            ∧ (t.coll c.val i.val).todo = ringReads (s.coll (listGet (0, 0) j.members b).1 (listGet (0, 0) j.members b).2)
                (listGet (0, 0) j.members b).1)
          ∧ (x.pass ≠ n → x.part = 1 → x.todo = [] → x.flown = [] → j.read.contains (cdRank x.desc, b) = true →
            size ≠ 0 → size ≤ x.got.length →
            t = s.ringPush c.val (cdBuf x.desc 0) x.ctag (x.got.take size)
              fun w => w.setColl c.val i.val { w.coll c.val i.val with part := 2 })))
    ∧ (∀ o, (s.pair k.val).op = some o → (s.pair k.val).held = false → s.waved o.core = false →
      (s.cpOf o.core).drained o.covered = true → s.pairAgain k.val o = none →
      ((s.pair k.val).phase = .binning → exec (.pairHomeCell k) s = .next (s.binStep k.val (s.pair k.val) o))
      ∧ ((s.pair k.val).phase ≠ .binning → o.cur = [] →
        (∀ v, o.ending = some v → exec (.pairHomeCell k) s = .next (s.scanDone k.val (s.pair k.val) o v))
        ∧ (o.ending = none → (s.pair k.val).clear = [] →
          exec (.pairHomeCell k) s = .next
            (if o.tested then s.scanNext k.val (s.pair k.val) o else s.scanStep k.val (s.pair k.val) o))))
    ∧ (∀ o f l i F, (s.pair k.val).op = some o → o.cur = f :: l → s.sbAt o.core o.sb o.ctag = some (i, F) →
      sbRaw F = false → s.sbRoom o.core o.sb i F byPairs 16 = true →
      exec (.pairRecordPush k) s =
        .next ((s.sbPutFlit o.core o.sb i F byPairs f).setPairOp k.val { o with cur := l }))
    ∧ (∀ i r, s.kv.reqs[i]? = some r → (s.cpOf r.core).drained r.after = true → s.kvBehind i r = false →
      let u : State := { s with free := s.free + 1 }
      (∀ t v, u.kvStep r = .done t v → exec (.kvRequestRoute i) s = .next (t.kvFinish i r v false))
      ∧ (∀ t e, u.kvStep r = .error t e → exec (.kvRequestRoute i) s = .next (t.kvFinish i r (kvErr e) true))
      ∧ (∀ t n, u.kvStep r = .go t n →
        exec (.kvRequestRoute i) s = .next { t.kvRemove i with
          kv := { (t.kvRemove i).kv with reqs := (t.kvRemove i).kv.reqs ++ [n] } }))
    ∧ (∀ i f, (s.plain k.val).links[i]? = some f →
      ((s.plain k.val).links.take i).all (fun g => !(g.src == f.src && g.dst == f.dst && g.input == f.input)) = true →
      s.plainHeld k.val f.body.owner = false →
      (f.dst < 128 → ((s.plain k.val).inputAt f.dst f.input).length < 8 →
        let t := s.modPlain k.val fun x =>
          { x with
            links := (s.plain k.val).links.eraseIdx i
            inputs := tabSet [] x.inputs (3 * f.dst + f.input) ((s.plain k.val).inputAt f.dst f.input ++ [f.body]) }
        ((∀ n F, s.plainSlot k.val f.dst f.body.owner f.body.ctag = some (n, F) →
          ((s.plain k.val).inputAt f.dst f.input).all (fun r => !(r.owner == f.body.owner && r.ctag == f.body.ctag
            && matchKey F r == matchKey F f.body)) = true) →
          exec (.plainDelivery k i) s = .next t))
      ∧ (∀ y l, 128 ≤ f.dst → f.body.flits = y :: l → (s.cpOf (12 * k.val + (f.dst - 128))).ctl.bound = true →
        s.groupOf (12 * k.val + (f.dst - 128)) = f.body.owner →
        (f.begun = true ∨ (s.plain k.val).passBusy (f.dst - 128) = false) →
        (s.plain k.val).outFlits (f.dst - 128) < 16 →
        exec (.plainDelivery k i) s = .next ((s.modPlain k.val fun x => x.passFlit i (f.dst - 128) f y).active
          (12 * k.val + (f.dst - 128)))))
    ∧ (∀ (e : Fin 128),
      let y := s.cluster k.val
      let twins := (rangeFrom 0 4).filterMap fun i =>
        let x := tabGet Slot.reset y.slots (4 * (512 + e.val) + i)
        let o := tabGet 0 y.plain.owners (4 * e.val + i)
        if x.v && o != 0 && !s.plainHeld k.val (o - 1) then s.plainTwins k.val e.val (o - 1) x.ctag x.frame else none
      let fires := ((y.plain.inputAt e.val 0).filter fun r => !s.plainHeld k.val r.owner).filterMap fun r =>
        (s.plainMatch k.val e.val r).bind fun p =>
          if (plainDests p.2.1).all fun d => y.plain.linkFree e.val d.1 (if 128 ≤ d.1 then 0 else d.2) then some (r, p)
          else none
      (y.plain.elemStopped e.val = true → exec (.plainElementFire k e) s = .next s)
      ∧ (y.plain.elemStopped e.val = false →
        (∀ a b l, twins = (a, b) :: l → exec (.plainElementFire k e) s = .next (s.plainDuptag k.val e.val a b))
        ∧ (∀ r i f rs l, twins = [] → fires = (r, i, f, rs) :: l →
          exec (.plainElementFire k e) s = .next (s.plainFire k.val e.val i r.owner r.ctag f rs))))
    ∧ exec (.passInbound c) s = .next ((s.passEnter c.val).passTake c.val)
    ∧ (∀ f, (s.chan c.val passInKey).flits = [] → s.head c.val (drainKey 0x60) = some f → f.sideBad = false → f.kind ≠ 5 →
      s.room c.val passInKey 16 = true →
      exec (.passInbound c) s = .next ((s.popChan c.val (drainKey 0x60)).pushFrom c.val passInKey 0 f none))
    ∧ (∀ f l F, tabGet [] (s.plain (c.val / 12)).leaving (c.val % 12) = f :: l → s.passBuffer c.val f.ctag = none →
      s.frameFor c.val 0x60 f.ctag = some F → s.sideRoom c.val (fb F 223 220) = true →
      exec (.passOutbound c) s = .next ((s.sidePush c.val (fb F 223 220) f).modPlain (c.val / 12) fun x =>
        { x with leaving := tabSet [] x.leaving (c.val % 12) l }))

/-- Completion of COLDRESET, WARMRESET, BOOT, RECOVERY_FETCH, SPDM_MEASUREMENT, HOST_ACCESS, HOST_ATOMICOP,
REMOTE_ACCESS, ATS_TRANSLATION_COMPLETION, ATS_INVALIDATION and ATS_DISABLE. COLDRESET takes every core, cluster and
die to its reset value and its boot to the ROM; WARMRESET takes the cores and the fields of the management block,
BOOTSTAT among them, to their reset values, but keeps the windows and their lock and memory (DEDUCED, log entry 22);
the boot enters VERIFY (DEDUCED, log entry 64), runs an image that is accepted and enters RECOVERY with its reason
otherwise (the checks and the order of the reasons are DESIGN CHOICE, log entry 10; HBM4 is zeroed there, DEDUCED,
log entry 23); a fetched image that is accepted runs; a measurement answers its hash and signature, and one that
there is not an Unsupported Request (DESIGN CHOICE, log entry 9); a host or remote read of one bank word answers the
bytes of its home and a write stores them, one of several words begins with its parts under way, an AtomicOp answers
the old value; an access outside the map completes as Unsupported Request; the translation cache takes an entry
while it holds fewer than 256 and loses it by invalidation and disable (DESIGN CHOICE, log entry 17). (00_scope.md:
Register, frame and flit tables, 10_memories.md: Reset and change map, 23_package.md: Boot and trust, 23_package.md:
Host port, 23_package.md: DMA windows, 23_package.md: Die links and Stanum, 12_memory_instr.md: Atomics) -/
def Obligations.ResetAndHostEvents : Prop :=
  ∀ (s : State),
    (∃ t, exec .coldreset s = .next t ∧ t.cores = State.reset.cores ∧ t.clusters = State.reset.clusters
      ∧ t.dies = State.reset.dies ∧ t.pkg.boot = .rom ∧ t.pkg.flash = s.pkg.flash ∧ t.stopped = false)
    ∧ (∃ t, exec .warmreset s = .next t ∧ t.mem = s.mem ∧ t.ktime = s.ktime ∧ t.pkg.ats = []
      ∧ t.pkg.deg = Pkg.reset.deg ∧ t.pkg.maxStep = Pkg.reset.maxStep ∧ t.pkg.watts = Pkg.reset.watts ∧ t.pkg.stEn = false
      ∧ t.pkg.recAddr = Pkg.reset.recAddr ∧ t.pkg.wins = s.pkg.wins ∧ t.pkg.lock = s.pkg.lock
      ∧ t.pkg.boot = .rom ∧ t.pkg.reason = Pkg.reset.reason ∧ t.pkg.svn = Pkg.reset.svn ∧ t.pkg.kpkg = s.pkg.kpkg
      ∧ ∀ c r, (t.cpOf c).regs.get r = 0 ∧ (r ≠ 0 → (t.cpOf c).regs.vacant r = true))
    ∧ (s.pkg.boot = .rom → exec .boot s = .next { s with pkg := { s.pkg with boot := .verify } })
    ∧ (s.pkg.boot = .verify →
      exec .boot s = .next (match imageReason s.pkg.flash with
        | none => s.runImage s.pkg.flash
        | some r => { s with pkg := { s.pkg with boot := .recovery, reason := r } }))
    ∧ (∀ r, s.pkg.boot = .recovery → s.pkg.fetching = some r →
      let b := s.hostBytes (r.1.toNat * 4096) r.2.toNat
      let u := { s with pkg := { s.pkg with fetching := none } }
      exec .recoveryFetch s = .next (match imageReason b with
        | none => { u.runImage b with pkg := { (u.runImage b).pkg with flash := b } }
        | some r => { u with pkg := { u.pkg with reason := r } }))
    ∧ (∀ i : Fin 5, exec (.spdmMeasurement i) s = .next (match s.pkg.measured i.val with
        | some b => s.answer (.measured i.val (Config.sha384 b) (Config.sign (Config.sha384 b)))
        | none => s.answer .unsupported))
    ∧ (∀ r : HostReq, hostFits r = true → s.hostPosted = false →
      (s.hostHome r.bar2 r.off.toNat (hostSize r) r.write.isSome = .none →
        exec (.hostAccess r) s = .next (s.unsupported r.bar2 r.off))
      ∧ (∀ pa, s.hostHome r.bar2 r.off.toNat (hostSize r) r.write.isSome = .mem pa → oneWord pa (hostSize r) = false →
        exec (.hostAccess r) s = .next (s.outsideStart pa (hostSize r) r.write none))
      ∧ (∀ pa, r.write = none → s.hostHome r.bar2 r.off.toNat r.n false = .mem pa → oneWord pa r.n = true →
        s.wavedScratch pa = false →
        exec (.hostAccess r) s = .next ((s.homeRead pa r.n).1.answer (.data (s.homeRead pa r.n).2)))
      ∧ (∀ pa bs, r.write = some bs → s.hostHome r.bar2 r.off.toNat bs.length true = .mem pa →
        oneWord pa bs.length = true → s.wavedScratch pa = false →
        (s.narrowBad pa bs.length = false → exec (.hostAccess r) s = .next ((s.writeBytes pa bs).answer .done))
        ∧ (s.narrowBad pa bs.length = true → exec (.hostAccess r) s = .next ((s.homeRefuses pa).answer .done))))
    ∧ (∀ (r : HostAtomic) pa v, (r.width = 32 ∨ r.width = 64) → amoPcie r.op = true →
      r.off.toNat % (r.width / 8) = 0 → s.bar2Pa r.off.toNat = pa →
      s.hostHome true r.off.toNat (r.width / 8) true = .mem pa → s.wavedScratch pa = false → s.hostPosted = false →
      let p := s.homeRead pa (r.width / 8)
      amoNew r.op (r.width = 64) (leNat p.2) (r.operand.toNat % 2 ^ r.width) (r.comparand.toNat % 2 ^ r.width) = some v →
      exec (.hostAtomicop r) s = .next ((p.1.outsideWrite pa (leBytes v (r.width / 8))).answer (.old (word (leNat p.2)))))
    ∧ (∀ (r : RemoteReq) n,
      let pa := s.ownPkg * 2 ^ 49 + r.addr.toNat
      r.op = .read n → offsetOk pa = true → offsetOk (pa + n - 1) = true → s.wavedScratch pa = false →
      (regionOf (paKind pa) = .hbm ∨ regionOf (paKind pa) = .basin ∨ regionOf (paKind pa) = .scratch) →
      oneWord pa n = true →
      exec (.remoteAccess r) s = .next (if s.eccBad pa n then (s.homeRead pa n).1.answer (.remoteFailed r.pkg r.core)
        else (s.homeRead pa n).1.answer (.remote r.pkg r.core (s.homeRead pa n).2)))
    ∧ (∀ page frame : BitVec 34,
      let l := s.pkg.ats.filter fun p => p.1 != page
      exec (.atsTranslationCompletion page frame) s =
        .next (if l.length < 256 then { s with pkg := { s.pkg with ats := l ++ [(page, frame)] } } else s)
      ∧ exec (.atsInvalidation page) s =
        .next (({ s with pkg := { s.pkg with ats := l } } : State).answer (.invalidated page)))
    ∧ exec .atsDisable s = .next { s with pkg := { s.pkg with ats := [] } }

/-- Completion of DMA_WINDOW_WRITE, DWLOCK, STLINK_WRITE, ROUTE_TABLE_WRITE, REGISTER_WRITE, CLOCK_STEP_CHANGE,
CYCLE_STRETCH, STRETCH_RELEASE, LINK_RETRAIN_FAILURE, STANUM_PORT_TRAINING and KV_POOL_WRITE. A DMA window is
written only while not locked, and the lock only sets; STLINK takes its package number while not enabled and drops
the ports when cleared; a route is written only while the links are off; the plain registers take their fields, with
the values the manual ignores ignored; a die stretches once at a time, and the counter saturates; a GO of RECLEN in
the state RECOVERY takes the range of a recovery fetch as the two registers then hold it; a link that fails to
retrain stops the package, of which no core issues from then on; a trained port is up; a pool register is written
only while its pools are idle, and a write met otherwise changes nothing but the tables already read. Where the
manual leaves it open these are the model's choices: the steps of the power manager (log entry 11), the package
number a link register sets (log entry 24), the levels DEGLVL and MAXSTEP ignore (log entry 64) and how the pools
keep their entries (log entry 67). (23_package.md: Management block, 23_package.md: DMA windows, 23_package.md: Die
links and Stanum, 23_package.md: Power, clock and degraded precision, 20_pairs_kv.md: KV sequences and the chain,
18_contexts.md: Virtual addresses and roots) -/
def Obligations.ManagementEvents : Prop :=
  ∀ (s : State) (d : DieIx) (v : Word),
    (∀ (n : Fin 8), s.pkg.lock = false →
      let w := tabGet Window.reset s.pkg.wins n.val
      exec (.dmaWindowWrite n true v) s = .next { s with
        pkg := { s.pkg with wins := tabSet Window.reset s.pkg.wins n.val { w with last := v.extractLsb' 12 34 } } }
      ∧ exec (.dmaWindowWrite n false v) s = .next { s with
        pkg := { s.pkg with
          wins := tabSet Window.reset s.pkg.wins n.val { w with base := v.extractLsb' 12 34, v := v.getLsbD 0 } } })
    ∧ (∀ (n : Fin 8) (b : Bool), s.pkg.lock = true → exec (.dmaWindowWrite n b v) s = .next s)
    ∧ exec (.dwlock v) s = .next { s with pkg := { s.pkg with lock := s.pkg.lock || v.getLsbD 0 } }
    ∧ (∃ t, exec (.stlinkWrite v) s = .next t ∧ t.pkg.stEn = v.getLsbD 15
      ∧ t.pkg.stPkg = (if s.pkg.stEn then s.pkg.stPkg else v.extractLsb' 0 9)
      ∧ (v.getLsbD 15 = false → t.pkg.ports = 0)
      ∧ (v.getLsbD 15 = true → s.pkg.stEn = false → t.pkg.kpkg = v.extractLsb' 0 9))
    ∧ (∀ (p : Fin 512) (r : BitVec 16), s.pkg.stEn = false →
      exec (.routeTableWrite p r) s = .next { s with
        pkg := { s.pkg with routes := tabSet 0x1F s.pkg.routes p.val (r.extractLsb' 0 5) } })
    ∧ (∀ q : Fin 16, exec (.registerWrite (.xroot d q) v) s = .next (s.modDie d.val fun x =>
        { x with xroot := tabSet 0 x.xroot q.val (v.setWidth 58) }))
    ∧ exec (.registerWrite (.tvec d) v) s = .next (s.modDie d.val fun x => { x with tvec := v.extractLsb' 3 61 })
    ∧ exec (.registerWrite (.cecnt d) v) s = .next (s.modDie d.val fun x => { x with cecnt := v.setWidth 32 })
    ∧ exec (.registerWrite .recaddr v) s = .next { s with pkg := { s.pkg with recAddr := v.extractLsb' 12 46 } }
    ∧ exec (.registerWrite .pwrlim v) s = .next { s with pkg := { s.pkg with watts := v.setWidth 12 } }
    ∧ exec (.registerWrite .clkstat v) s = .next { s with pkg := { s.pkg with maxStep := v.extractLsb' 4 3 } }
    ∧ (∃ t, exec (.registerWrite .reclen v) s = .next t ∧ t.pkg.recLen = v.setWidth 28
      ∧ t.pkg.fetching = (if s.pkg.fetching.isNone && v.getLsbD 63 && s.pkg.boot == .recovery
        then some (s.pkg.recAddr, v.setWidth 28) else s.pkg.fetching))
    ∧ (v.extractLsb' 0 2 ≠ 3 →
      exec (.registerWrite .deglvl v) s = .next { s with pkg := { s.pkg with deg := v.extractLsb' 0 2 } })
    ∧ (v.extractLsb' 0 2 = 3 → ∃ t, exec (.registerWrite .deglvl v) s = .next t ∧ t = s)
    ∧ (∃ t, exec .clockStepChange s = .next t ∧ t.pkg.clkStep.toNat ≤ 4
      ∧ (t.pkg.clkStep.toNat < 4 → s.pkg.maxStep.toNat ≤ t.pkg.clkStep.toNat))
    ∧ ((s.die d.val).stretched = false →
      ∃ t, exec (.cycleStretch d) s = .next t ∧ (t.die d.val).stretched = true
        ∧ t.pkg.stretch = (if s.pkg.stretch = 0xFFFFFFFF then s.pkg.stretch else s.pkg.stretch + 1))
    ∧ (∃ t, exec (.stretchRelease d) s = .next t ∧ (t.die d.val).stretched = false)
    ∧ (∀ l, ∃ t, exec (.linkRetrainFailure l) s = .next t ∧ t.stopped = true ∧ t.pkg.boot = .failed
      ∧ t.pkg.reason = 5 ∧ step { t with agenda := [] } = .fault .packageStopped)
    ∧ (∀ p : Fin 18, s.pkg.stEn = true →
      ∃ t u, exec (.stanumPortTraining p true) s = .next t ∧ exec (.stanumPortTraining p false) s = .next u
        ∧ t.pkg.ports.getLsbD p.val = (Config.lanes.getLsbD p.val || s.pkg.ports.getLsbD p.val)
        ∧ u.pkg.ports.getLsbD p.val = (s.pkg.ports.getLsbD p.val && !Config.lanes.getLsbD p.val))
    ∧ (s.kvIdle d.val = false → ∀ r, exec (.kvPoolWrite d r v) s = .next s.kvScanAll)
    ∧ (s.kvIdle d.val = true →
      exec (.kvPoolWrite d .tab v) s =
        .next ((s.kvScanAll.modKv d.val fun x => { x with tab := v.extractLsb' 23 13 }).kvRefill d.val)
      ∧ exec (.kvPoolWrite d .bpool v) s = .next ((s.kvScanAll.modKv d.val fun x =>
          { x with bCount := v.extractLsb' 32 11, bBase := v.extractLsb' 15 10 }).kvRefill d.val)
      ∧ exec (.kvPoolWrite d .hpool v) s = .next ((s.kvScanAll.modKv d.val fun x =>
          { x with hCount := v.extractLsb' 36 21, hBase := v.extractLsb' 15 21 }).kvRefill d.val))

/-- In the state right after reset every general register of every core reads zero and, but for g0, is vacant; every
predicate but p0 is false; every core stands in system mode; no core is bound; no byte of memory is listed; and
memory is in its canonical form. That an unlisted byte reads zero is the model's choice (DESIGN CHOICE, log entry
2). (07_registers.md: General registers, predicates and accumulators, 10_memories.md: Reset and change map,
07_registers.md: k-registers) -/
def Obligations.ResetState : Prop :=
  (∀ c, (∀ r, (State.reset.cpOf c).regs.get r = 0 ∧ (r ≠ 0 → (State.reset.cpOf c).regs.vacant r = true))
    ∧ (∀ p, (State.reset.cpOf c).regs.pred p = (p == 0)) ∧ (State.reset.cpOf c).k.sys = true
      ∧ (State.reset.cpOf c).ctl.bound = false)
    ∧ State.reset.pkg.boot = .rom ∧ State.reset.stopped = false ∧ State.reset.mem = []
    ∧ memWf State.reset.mem = true

/-- From every state whose memory is listed with strictly rising addresses and no zero byte, a step that answers a
next state answers one whose memory is too: two states whose memories read alike everywhere hold equal data. The
form is the model's own (DESIGN CHOICE, log entry 2). (10_memories.md: Catalogue, 10_memories.md: Tiles and banks)
-/
def Obligations.StepKeepsMemoryCanonical : Prop :=
  ∀ s t : State, memWf s.mem = true → step s = .next t → memWf t.mem = true

/-- For every instruction and every event, every operand and every state, exec answers a next state: no value of an
operand, no mode and no state of a unit ends in a fault or a refusal of the model. A step faults only where a
package that a failed link has stopped is asked for another act than R468 leaves it. (08_scalar.md: Issue and
sequential effect, 02_execution.md: Units of work) -/
def Obligations.EveryFormAndEventGoesOn : Prop :=
  (∀ (i : Instr) (s : State), ∃ t, exec i s = .next t)
    ∧ (∀ (s : State), s.stopped = false → ∃ t, step s = .next t)
end

