-- ==== Sys2Proof/Laws/Tab.lean ====
section
/-!
SUPPORT. The laws of sparse tables: reading after writing, and that writing keeps the canonical form.
-/
namespace Sys2Proof.Laws
open Sys2Proof.Machine

variable {α : Type}

theorem tabGet_erase_same (d : α) (t : Tab α) (k : Nat) : tabGet d (tabErase k t) k = d := by
  induction t with
  | nil => rfl
  | cons x t ih =>
    obtain ⟨k', v⟩ := x
    by_cases h : k' = k <;> simp [tabErase, tabGet, h, ih]

theorem tabGet_erase_ne (d : α) (t : Tab α) {k k' : Nat} (h : k ≠ k') :
    tabGet d (tabErase k t) k' = tabGet d t k' := by
  induction t with
  | nil => rfl
  | cons x t ih =>
    obtain ⟨j, v⟩ := x
    by_cases hj : j = k
    · simp [tabErase, tabGet, hj, ih, h]
    · simp [tabErase, tabGet, hj, ih]

theorem tabGet_insert_ne (d : α) (t : Tab α) {k k' : Nat} (v : α) (h : k ≠ k') :
    tabGet d (tabInsert k v t) k' = tabGet d t k' := by
  induction t with
  | nil => simp [tabInsert, tabGet, h]
  | cons x t ih =>
    obtain ⟨j, w⟩ := x
    by_cases hj : k < j <;> simp [tabInsert, tabGet, hj, ih, h]

theorem tabGet_insert_erase (d : α) (t : Tab α) (k : Nat) (v : α) :
    tabGet d (tabInsert k v (tabErase k t)) k = v := by
  induction t with
  | nil => simp [tabErase, tabInsert, tabGet]
  | cons x t ih =>
    obtain ⟨j, w⟩ := x
    by_cases hj : j = k
    · simpa [tabErase, hj] using ih
    · by_cases hk : k < j <;> simp [tabErase, tabInsert, tabGet, hj, hk, ih]

/-- Reading the key just written gives the value written. -/
theorem tabGet_set_same [DecidableEq α] (d : α) (t : Tab α) (k : Nat) (v : α) :
    tabGet d (tabSet d t k v) k = v := by
  unfold tabSet
  split
  · next h => rw [h, tabGet_erase_same]
  · exact tabGet_insert_erase d t k v

/-- Writing one key leaves every other key's value. -/
theorem tabGet_set_ne [DecidableEq α] (d : α) (t : Tab α) {k k' : Nat} (v : α) (h : k ≠ k') :
    tabGet d (tabSet d t k v) k' = tabGet d t k' := by
  unfold tabSet
  split
  · exact tabGet_erase_ne d t h
  · rw [tabGet_insert_ne d _ v h, tabGet_erase_ne d t h]

theorem tabGet_set [DecidableEq α] (d : α) (t : Tab α) (k k' : Nat) (v : α) :
    tabGet d (tabSet d t k v) k' = if k = k' then v else tabGet d t k' := by
  by_cases h : k = k'
  · subst h; simp [tabGet_set_same]
  · simp [h, tabGet_set_ne d t v h]

theorem tabWfFrom_mono [DecidableEq α] (d : α) {a b : Nat} (t : Tab α) (h : a ≤ b)
    (ht : tabWfFrom d b t = true) : tabWfFrom d a t = true := by
  cases t with
  | nil => rfl
  | cons x t =>
    obtain ⟨k, v⟩ := x
    simp only [tabWfFrom, Bool.and_eq_true, decide_eq_true_eq] at ht ⊢
    exact ⟨⟨by omega, ht.1.2⟩, ht.2⟩

theorem tabErase_wf [DecidableEq α] (d : α) (t : Tab α) (lo k : Nat)
    (h : tabWfFrom d lo t = true) : tabWfFrom d lo (tabErase k t) = true := by
  induction t generalizing lo with
  | nil => rfl
  | cons x t ih =>
    obtain ⟨j, v⟩ := x
    simp only [tabWfFrom, Bool.and_eq_true, decide_eq_true_eq] at h
    by_cases hj : j = k
    · simp only [tabErase, hj, if_true]
      exact tabWfFrom_mono d _ (by omega) (ih (j + 1) h.2)
    · simp only [tabErase, hj, if_false, tabWfFrom, Bool.and_eq_true, decide_eq_true_eq]
      exact ⟨h.1, ih (j + 1) h.2⟩

theorem tabInsert_wf [DecidableEq α] (d : α) (t : Tab α) (lo k : Nat) (v : α) (hv : v ≠ d) (hlo : lo ≤ k)
    (h : tabWfFrom d lo (tabErase k t) = true) : tabWfFrom d lo (tabInsert k v (tabErase k t)) = true := by
  induction t generalizing lo with
  | nil => simp [tabErase, tabInsert, tabWfFrom, hv, hlo]
  | cons x t ih =>
    obtain ⟨j, w⟩ := x
    by_cases hj : j = k
    · simp only [tabErase, hj, if_true] at h ⊢
      exact ih lo hlo h
    · simp only [tabErase, hj, if_false] at h ⊢
      simp only [tabWfFrom, Bool.and_eq_true, decide_eq_true_eq] at h
      by_cases hk : k < j
      · simp only [tabInsert, hk, if_true, tabWfFrom, Bool.and_eq_true, decide_eq_true_eq]
        exact ⟨⟨hlo, hv⟩, ⟨by omega, h.1.2⟩, h.2⟩
      · simp only [tabInsert, hk, if_false, tabWfFrom, Bool.and_eq_true, decide_eq_true_eq]
        exact ⟨h.1, ih (j + 1) (by omega) h.2⟩

/-- Writing a key keeps the canonical form. -/
theorem tabSet_wf [DecidableEq α] (d : α) (t : Tab α) (k : Nat) (v : α) (h : tabWf d t = true) :
    tabWf d (tabSet d t k v) = true := by
  unfold tabSet tabWf
  split
  · exact tabErase_wf d t 0 k h
  · next hv => exact tabInsert_wf d t 0 k v hv (Nat.zero_le k) (tabErase_wf d t 0 k h)

end Sys2Proof.Laws
end

