-- ==== Sys2Proof/Laws/Memory.lean ====
section
/-!
SUPPORT. Memory: reading after writing, what a write leaves alone, and that every memory operation keeps the canonical
form.
-/
namespace Sys2Proof.Laws
open Sys2Proof.Machine

/-! One byte. -/

theorem memGet_set (m : Memory) (a b : Nat) (v : Byte) :
    memGet (memSet m a v) b = if a = b then v else memGet m b := tabGet_set 0 m a b v

@[simp] theorem memGet_set_same (m : Memory) (a : Nat) (v : Byte) : memGet (memSet m a v) a = v := by
  simp [memGet_set]

theorem memGet_set_ne (m : Memory) {a b : Nat} (v : Byte) (h : a ≠ b) : memGet (memSet m a v) b = memGet m b := by
  simp [memGet_set, h]

theorem memSet_wf (m : Memory) (a : Nat) (v : Byte) (h : memWf m = true) : memWf (memSet m a v) = true :=
  tabSet_wf 0 m a v h

/-! Several bytes. -/

/-- A byte outside those written reads as before. -/
theorem memGet_put_ne (bs : List Byte) (m : Memory) (a b : Nat) (h : b < a ∨ a + bs.length ≤ b) :
    memGet (memPut m a bs) b = memGet m b := by
  induction bs generalizing m a with
  | nil => rfl
  | cons v l ih =>
    simp only [List.length_cons] at h
    rw [memPut, ih _ _ (by omega), memGet_set_ne _ _ (by omega)]

/-- A byte written reads as written. -/
theorem memGet_put (bs : List Byte) (m : Memory) (a i : Nat) (h : i < bs.length) :
    memGet (memPut m a bs) (a + i) = bs[i] := by
  induction bs generalizing m a i with
  | nil => simp at h
  | cons v l ih =>
    cases i with
    | zero => rw [memPut, memGet_put_ne _ _ _ _ (by omega)]; simp
    | succ i =>
      have := ih (memSet m a v) (a + 1) i (by simpa using h)
      rw [memPut, show a + (i + 1) = a + 1 + i by omega, this]
      rfl

theorem memBytes_length (m : Memory) (a n : Nat) : (memBytes m a n).length = n := by
  induction n generalizing a with
  | zero => rfl
  | succ n ih => simp [memBytes, ih]

theorem memBytes_congr (m m' : Memory) (a n : Nat) (h : ∀ b, a ≤ b → b < a + n → memGet m' b = memGet m b) :
    memBytes m' a n = memBytes m a n := by
  induction n generalizing a with
  | zero => rfl
  | succ n ih =>
    simp only [memBytes]
    rw [h a (by omega) (by omega), ih (a + 1) fun b h1 h2 => h b (by omega) (by omega)]

/-- Bytes read at the place of a write are those written. -/
theorem memBytes_put (bs : List Byte) (m : Memory) (a : Nat) : memBytes (memPut m a bs) a bs.length = bs := by
  induction bs generalizing m a with
  | nil => rfl
  | cons v l ih =>
    simp only [List.length_cons, memBytes, memPut]
    rw [memGet_put_ne _ _ _ _ (by omega), memGet_set_same, ih]

/-- Bytes read apart from a write are as before. -/
theorem memBytes_put_ne (bs : List Byte) (m : Memory) (a b n : Nat) (h : b + n ≤ a ∨ a + bs.length ≤ b) :
    memBytes (memPut m a bs) b n = memBytes m b n :=
  memBytes_congr _ _ _ _ fun c h1 h2 => memGet_put_ne bs m a c (by omega)

theorem memPut_wf (bs : List Byte) (m : Memory) (a : Nat) (h : memWf m = true) : memWf (memPut m a bs) = true := by
  induction bs generalizing m a with
  | nil => exact h
  | cons v l ih => exact ih _ _ (memSet_wf m a v h)

theorem tabWfFrom_filter {α : Type} [DecidableEq α] (d : α) (p : Nat × α → Bool) (t : Tab α) (lo : Nat)
    (h : tabWfFrom d lo t = true) : tabWfFrom d lo (t.filter p) = true := by
  induction t generalizing lo with
  | nil => rfl
  | cons x t ih =>
    obtain ⟨k, v⟩ := x
    simp only [tabWfFrom, Bool.and_eq_true, decide_eq_true_eq] at h
    by_cases hp : p (k, v) = true
    · simp only [List.filter_cons, hp, if_true, tabWfFrom, Bool.and_eq_true, decide_eq_true_eq]
      exact ⟨h.1, ih _ h.2⟩
    · simp only [List.filter_cons, hp, if_false]
      exact tabWfFrom_mono d _ (by omega) (ih _ h.2)

theorem memFilter_wf (m : Memory) (p : Host.Cell → Bool) (h : memWf m = true) : memWf (m.filter p) = true :=
  tabWfFrom_filter 0 p m 0 h

theorem memFold_wf {α : Type} (f : Memory → α → Memory) (hf : ∀ m a, memWf m = true → memWf (f m a) = true)
    (l : List α) (m : Memory) (h : memWf m = true) : memWf (l.foldl f m) = true := by
  induction l generalizing m with
  | nil => exact h
  | cons a l ih => exact ih _ (hf m a h)

/-! The operations on the state's memory. -/

variable (s : State)

theorem writeBytes_wf (pa : Nat) (bs : List Byte) (h : memWf s.mem = true) : memWf (s.writeBytes pa bs).mem = true :=
  memPut_wf bs s.mem _ h

theorem writeNat_wf (pa n v : Nat) (h : memWf s.mem = true) : memWf (s.writeNat pa n v).mem = true :=
  writeBytes_wf s pa _ h

@[simp] theorem memKey_writeBytes (pa q : Nat) (bs : List Byte) : (s.writeBytes pa bs).memKey q = s.memKey q := rfl

/-- What was written is read (R208). -/
theorem bytesAt_writeBytes (pa : Nat) (bs : List Byte) : (s.writeBytes pa bs).bytesAt pa bs.length = bs :=
  memBytes_put bs s.mem (s.memKey pa)

/-- Bytes apart from those written are as before. -/
theorem bytesAt_writeBytes_ne (pa q n : Nat) (bs : List Byte)
    (h : s.memKey q + n ≤ s.memKey pa ∨ s.memKey pa + bs.length ≤ s.memKey q) :
    (s.writeBytes pa bs).bytesAt q n = s.bytesAt q n :=
  memBytes_put_ne bs s.mem (s.memKey pa) (s.memKey q) n h

theorem zeroHbm_wf (h : memWf s.mem = true) : memWf s.zeroHbm.mem = true := memFilter_wf s.mem _ h

/-! Bytes of a number. -/

theorem leBytes_length (v n : Nat) : (leBytes v n).length = n := by
  induction n generalizing v with
  | zero => rfl
  | succ n ih => simp [leBytes, ih]

theorem leNat_leBytes (v n : Nat) : leNat (leBytes v n) = v % 2 ^ (8 * n) := by
  induction n generalizing v with
  | zero => simp [leBytes, leNat, Nat.mod_one]
  | succ n ih =>
    simp only [leBytes, leNat, ih, BitVec.toNat_ofNat]
    rw [show 8 * (n + 1) = 8 + 8 * n by omega, Nat.pow_add, Nat.mod_mul]

/-- A number written is the number read, modulo its width. -/
theorem natAt_writeNat (pa n v : Nat) : (s.writeNat pa n v).natAt pa n = v % 2 ^ (8 * n) := by
  have := bytesAt_writeBytes s pa (leBytes v n)
  rw [leBytes_length] at this
  rw [State.natAt, State.writeNat, this, leNat_leBytes]

end Sys2Proof.Laws
end

