-- ==== Sys2Proof/Laws/Canon.lean ====
section
/-!
SUPPORT. The memory stays in its canonical form: what a shared operation answers, whatever its type, holds a memory in
canonical form if the state it starts from does. One lemma per operation follows in the other files of the name.
-/
namespace Sys2Proof.Laws.Canon

open Sys2Proof Machine

-- One list of alternatives closes every proof, so most alternatives go unused in each.
set_option linter.all false

/-- The memory is in its canonical form. -/
def Wf (s : State) : Prop := memWf s.mem = true

/-- The same for a state that carries a value beside it. -/
def WfP {α : Type} (p : State × α) : Prop := Wf p.1

/-- An answer that is a next state holds a canonical memory. -/
structure okR (r : Result) : Prop where
  of : ∀ t, r = .next t → Wf t

/-- A state that is there holds a canonical memory. -/
structure okOpt (o : Option State) : Prop where
  of : ∀ t, o = some t → Wf t

/-- A state that is there with a value beside it holds a canonical memory. -/
structure okOptPair {α : Type} (o : Option (State × α)) : Prop where
  of : ∀ p, o = some p → WfP p

/-- A state with a record that has left or has not holds a canonical memory either way. -/
def okEither : Except State State → Prop
  | .ok t => Wf t
  | .error t => Wf t

/-- How a form ends when a table that it reads is not there holds a canonical memory. -/
def okTable {α : Type} : Except Result α → Prop
  | .ok _ => True
  | .error r => okR r

/-- The state of accesses that issue holds a canonical memory. -/
def okIssued : Issued → Prop
  | .wait => True
  | .fault t _ => Wf t
  | .ok t _ _ => Wf t

/-- The state of a record read holds a canonical memory. -/
def okRec : RecordRead → Prop
  | .wait => True
  | .trap t _ => Wf t
  | .post t _ => Wf t
  | .ok t _ => Wf t

/-- The state of a semaphore's check holds a canonical memory. -/
def okSem : SemCheck → Prop
  | .wait => True
  | .trap t _ => Wf t
  | .ok t _ => Wf t

/-- The state of a delivery holds a canonical memory. -/
def okDel : Delivery → Prop
  | .sent t => Wf t
  | .wait t => Wf t
  | .bad => True

/-- The state of a transfer that issues holds a canonical memory. -/
def okIssue : Issue → Prop
  | .wait => True
  | .fault t _ => Wf t
  | .ok t _ => Wf t

/-- The state of a configuration command that ends or goes on holds a canonical memory. -/
def okCfg {α : Type} : CfgEnd α → Prop
  | .wait => True
  | .ends t _ => Wf t
  | .goes t _ => Wf t

/-- The state of a port's head holds a canonical memory. -/
def okPort : PortHead → Prop
  | .flit _ t => Wf t
  | .none t => Wf t
  | .bad => True

/-- The state of a KV step holds a canonical memory. -/
def okKv : KvEnd → Prop
  | .done t _ => Wf t
  | .go t _ => Wf t
  | .error t _ => Wf t
  | .blocked => True

/-- The state of a plan holds a canonical memory. -/
def okPlan : Plan → Prop
  | .run _ t => Wf t
  | .idle => True

/-- What a tag operator does beside its move keeps the memory canonical. -/
structure okAct (a : TagAct) : Prop where
  of : ∀ t : State, Wf t → Wf (a.also t)

variable {t : State}

theorem next_ok (h : Wf t) : okR (.next t) := ⟨fun _ e => by cases e; exact h⟩
theorem stop_ok (f : Fault) : okR (.fault f) := ⟨fun _ e => nomatch e⟩
theorem refuse_ok (f : Refusal) : okR (.refused f) := ⟨fun _ e => nomatch e⟩
theorem some_ok (h : Wf t) : okOpt (some t) := ⟨fun _ e => by cases e; exact h⟩
theorem none_ok : okOpt none := ⟨fun _ e => nomatch e⟩
theorem somePair_ok {α : Type} {p : State × α} (h : WfP p) : okOptPair (some p) := ⟨fun _ e => by cases e; exact h⟩
theorem nonePair_ok {α : Type} : okOptPair (none : Option (State × α)) := ⟨fun _ e => nomatch e⟩
theorem eitherOk_ok (h : Wf t) : okEither (.ok t) := h
theorem eitherError_ok (h : Wf t) : okEither (.error t) := h
theorem tableOk_ok {α : Type} {a : α} : okTable (.ok a) := trivial
theorem tableError_ok {α : Type} {r : Result} (h : okR r) : okTable (.error r : Except Result α) := h
theorem issuedWait_ok : okIssued .wait := trivial
theorem issuedFault_ok {f : Fail} (h : Wf t) : okIssued (.fault t f) := h
theorem issuedOk_ok {l : List UAcc} {x : Option Xlat} (h : Wf t) : okIssued (.ok t l x) := h
theorem recPost_ok {l : List Seg} (h : Wf t) : okRec (.post t l) := h
theorem recWait_ok : okRec .wait := trivial
theorem recTrap_ok {f : Fail} (h : Wf t) : okRec (.trap t f) := h
theorem recOk_ok {v : Nat} (h : Wf t) : okRec (.ok t v) := h
theorem semWait_ok : okSem .wait := trivial
theorem semTrap_ok {f : Fail} (h : Wf t) : okSem (.trap t f) := h
theorem semOk_ok {v : Nat} (h : Wf t) : okSem (.ok t v) := h
theorem delWait_ok (h : Wf t) : okDel (.wait t) := h
theorem delBad_ok : okDel .bad := trivial
theorem delSent_ok (h : Wf t) : okDel (.sent t) := h
theorem issueWait_ok : okIssue .wait := trivial
theorem issueFault_ok {f : Fail} (h : Wf t) : okIssue (.fault t f) := h
theorem issueOk_ok {x : Xfer} (h : Wf t) : okIssue (.ok t x) := h
theorem cfgWait_ok {α : Type} : okCfg (.wait : CfgEnd α) := trivial
theorem cfgEnds_ok {α : Type} {w : Word} (h : Wf t) : okCfg (.ends t w : CfgEnd α) := h
theorem cfgGoes_ok {α : Type} {a : α} (h : Wf t) : okCfg (.goes t a) := h
theorem portNone_ok (h : Wf t) : okPort (.none t) := h
theorem portBad_ok : okPort .bad := trivial
theorem portFlit_ok {f : Flit} (h : Wf t) : okPort (.flit f t) := h
theorem kvDone_ok {v : Word} (h : Wf t) : okKv (.done t v) := h
theorem kvError_ok {c : Nat} (h : Wf t) : okKv (.error t c) := h
theorem kvGo_ok {r : KvReq} (h : Wf t) : okKv (.go t r) := h
theorem kvBlocked_ok : okKv .blocked := trivial
theorem planIdle_ok : okPlan .idle := trivial
theorem planRun_ok {i : Instr} (h : Wf t) : okPlan (.run i t) := h

theorem act_ok {a : OpAct} {f : State → State} (h : ∀ t : State, Wf t → Wf (f t)) :
    okAct { act := a, also := f } := ⟨h⟩
theorem actWait_ok : okAct .wait := ⟨fun _ h => h⟩

theorem mk_wf {a b c d e f g m i j k l n o p q r} (h : memWf m = true) : Wf (State.mk a b c d e f g m i j k l n o p q r) := h
theorem mem_wf (h : Wf t) : memWf t.mem = true := h
theorem fst_wf {α : Type} {p : State × α} (h : WfP p) : Wf p.1 := h
theorem pair_wf {α : Type} {x : α} (h : Wf t) : WfP (t, x) := h

theorem of_pair {α : Type} {p : State × α} {x : α} (e : p = (t, x)) (h : WfP p) : Wf t := by
  subst e; exact h
theorem of_next {r : Result} (e : r = .next t) (h : okR r) : Wf t := h.of t e
theorem of_some {o : Option State} (e : o = some t) (h : okOpt o) : Wf t := h.of t e
theorem of_somePair {α : Type} {o : Option (State × α)} {x : α} (e : o = some (t, x)) (h : okOptPair o) : Wf t := h.of _ e
theorem of_someFst {α : Type} {o : Option (State × α)} {p : State × α} (e : o = some p) (h : okOptPair o) : Wf p.1 := h.of _ e
theorem of_eitherOk {r : Except State State} (e : r = .ok t) (h : okEither r) : Wf t := by subst e; exact h
theorem of_eitherError {r : Except State State} (e : r = .error t) (h : okEither r) : Wf t := by subst e; exact h
theorem of_table {α : Type} {o : Except Result α} {r : Result} (e : o = .error r) (h : okTable o) : okR r := by
  subst e; exact h
theorem of_issuedFault {r : Issued} {f : Fail} (e : r = .fault t f) (h : okIssued r) : Wf t := by subst e; exact h
theorem of_issuedOk {r : Issued} {l : List UAcc} {x : Option Xlat} (e : r = .ok t l x) (h : okIssued r) : Wf t := by
  subst e; exact h
theorem of_recPost {r : RecordRead} {l : List Seg} (e : r = .post t l) (h : okRec r) : Wf t := by subst e; exact h
theorem of_delWait {r : Delivery} (e : r = .wait t) (h : okDel r) : Wf t := by subst e; exact h
theorem of_fstWait {α : Type} {p : Delivery × α} {x : α} (e : p = (.wait t, x)) (h : okDel p.1) : Wf t := by
  subst e; exact h
theorem of_none {r : PortHead} (e : r = .none t) (h : okPort r) : Wf t := by subst e; exact h
theorem of_recTrap {r : RecordRead} {f : Fail} (e : r = .trap t f) (h : okRec r) : Wf t := by
  subst e; exact h
theorem of_recOk {r : RecordRead} {v : Nat} (e : r = .ok t v) (h : okRec r) : Wf t := by subst e; exact h
theorem of_semTrap {r : SemCheck} {f : Fail} (e : r = .trap t f) (h : okSem r) : Wf t := by subst e; exact h
theorem of_semOk {r : SemCheck} {v : Nat} (e : r = .ok t v) (h : okSem r) : Wf t := by subst e; exact h
theorem of_sent {r : Delivery} (e : r = .sent t) (h : okDel r) : Wf t := by subst e; exact h
theorem of_fst {α : Type} {p : Delivery × α} {x : α} (e : p = (.sent t, x)) (h : okDel p.1) : Wf t := by
  subst e; exact h
theorem of_issueFault {r : Issue} {f : Fail} (e : r = .fault t f) (h : okIssue r) : Wf t := by subst e; exact h
theorem of_issueOk {r : Issue} {x : Xfer} (e : r = .ok t x) (h : okIssue r) : Wf t := by subst e; exact h
theorem of_cfgEnds {α : Type} {r : CfgEnd α} {w : Word} (e : r = .ends t w) (h : okCfg r) : Wf t := by subst e; exact h
theorem of_cfgGoes {α : Type} {r : CfgEnd α} {a : α} (e : r = .goes t a) (h : okCfg r) : Wf t := by subst e; exact h
theorem of_flit {r : PortHead} {f : Flit} (e : r = .flit f t) (h : okPort r) : Wf t := by subst e; exact h
theorem of_kvDone {r : KvEnd} {v : Word} (e : r = .done t v) (h : okKv r) : Wf t := by subst e; exact h
theorem of_kvGo {r : KvEnd} {v : KvReq} (e : r = .go t v) (h : okKv r) : Wf t := by subst e; exact h
theorem of_kvError {r : KvEnd} {c : Nat} (e : r = .error t c) (h : okKv r) : Wf t := by subst e; exact h
theorem of_plan {r : Plan} {i : Instr} (e : r = .run i t) (h : okPlan r) : Wf t := by subst e; exact h

theorem ite_wf {c : Prop} [Decidable c] {a b : State} (ha : Wf a) (hb : Wf b) :
    Wf (if c then a else b) := by split <;> assumption
theorem ite_pair {α : Type} {c : Prop} [Decidable c] {a b : State × α} (ha : WfP a)
    (hb : WfP b) : WfP (if c then a else b) := by split <;> assumption
theorem ite_okR {c : Prop} [Decidable c] {a b : Result} (ha : okR a) (hb : okR b) : okR (if c then a else b) := by
  split <;> assumption
theorem ite_okKv {c : Prop} [Decidable c] {a b : KvEnd} (ha : okKv a) (hb : okKv b) : okKv (if c then a else b) := by
  split <;> assumption

/-- A fold of steps that keep the form keeps it. -/
theorem foldl_wf {α : Type} (f : State → α → State) (l : List α)
    (hf : ∀ s a, Wf s → Wf (f s a)) :
    ∀ s : State, Wf s → Wf (l.foldl f s) := by
  induction l with
  | nil => exact fun _ h => h
  | cons a l ih => exact fun s h => ih _ (hf s a h)

/-- The same for a fold that carries a value beside the state. -/
theorem foldl_pair {α β : Type} (f : State × β → α → State × β) (l : List α)
    (hf : ∀ p a, WfP p → WfP (f p a)) :
    ∀ p : State × β, WfP p → WfP (l.foldl f p) := by
  induction l with
  | nil => exact fun _ h => h
  | cons a l ih => exact fun p h => ih _ (hf p a h)

end Sys2Proof.Laws.Canon
end

