-- ==== Sys2Proof/Laws/Canon1.lean ====
section
/-!
SUPPORT. The memory stays in its canonical form: one lemma per operation, callees first (1 of 5).
-/
namespace Sys2Proof.Laws.Canon

open Sys2Proof Machine

-- One list of alternatives closes every proof, so most alternatives go unused in each.
set_option linter.all false

theorem setCore_wf (s : State) (c : Nat) (x : Core) (hw : Wf s) :
    Wf (State.setCore s c x) := by
  unfold State.setCore
  with_reducible repeat' first
    | assumption | intro _ | apply foldl_wf | apply foldl_pair | apply ite_wf | apply ite_pair | apply ite_okR
    | apply ite_okKv | apply fst_wf | split | (apply of_pair; assumption) | dsimp only | apply pair_wf | apply mem_wf
    | apply mk_wf

theorem modCore_wf (s : State) (c : Nat) (f : Core → Core) (hw : Wf s) :
    Wf (State.modCore s c f) := by
  unfold State.modCore
  with_reducible repeat' first
    | assumption | intro _ | apply setCore_wf | apply foldl_wf | apply foldl_pair | apply ite_wf | apply ite_pair
    | apply ite_okR | apply ite_okKv | apply fst_wf | split | (apply of_pair; assumption) | dsimp only | apply pair_wf
    | apply mem_wf | apply mk_wf

theorem modGrid_wf (s : State) (c : Nat) (f : Grid → Grid) (hw : Wf s) :
    Wf (State.modGrid s c f) := by
  unfold State.modGrid
  with_reducible repeat' first
    | assumption | intro _ | apply modCore_wf | apply foldl_wf | apply foldl_pair | apply ite_wf | apply ite_pair
    | apply ite_okR | apply ite_okKv | apply fst_wf | split | (apply of_pair; assumption) | dsimp only | apply pair_wf
    | apply mem_wf | apply mk_wf

theorem modPortq_wf (s : State) (c : Nat) (key : Nat) (f : PortQ → PortQ) (hw : Wf s) :
    Wf (State.modPortq s c key f) := by
  unfold State.modPortq
  with_reducible repeat' first
    | assumption | intro _ | apply modGrid_wf | apply foldl_wf | apply foldl_pair | apply ite_wf | apply ite_pair
    | apply ite_okR | apply ite_okKv | apply fst_wf | split | (apply of_pair; assumption) | dsimp only | apply pair_wf
    | apply mem_wf | apply mk_wf

theorem setPort_wf (s : State) (c : Nat) (key : Nat) (i : Nat) (p : Port) (hw : Wf s) :
    Wf (State.setPort s c key i p) := by
  unfold State.setPort
  with_reducible repeat' first
    | assumption | intro _ | apply modGrid_wf | apply foldl_wf | apply foldl_pair | apply ite_wf | apply ite_pair
    | apply ite_okR | apply ite_okKv | apply fst_wf | split | (apply of_pair; assumption) | dsimp only | apply pair_wf
    | apply mem_wf | apply mk_wf

theorem setRecords_wf (s : State) (c : Nat) (key : Nat) (i : Nat) (l : List PortRec) (hw : Wf s) :
    Wf (State.setRecords s c key i l) := by
  unfold State.setRecords
  with_reducible repeat' first
    | assumption | intro _ | apply setPort_wf | apply foldl_wf | apply foldl_pair | apply ite_wf | apply ite_pair
    | apply ite_okR | apply ite_okKv | apply fst_wf | split | (apply of_pair; assumption) | dsimp only | apply pair_wf
    | apply mem_wf | apply mk_wf

theorem portForget_wf (s : State) (c : Nat) (key : Nat) (r : PortReq) (hw : Wf s) :
    Wf (State.portForget s c key r) := by
  unfold State.portForget
  with_reducible repeat' first
    | assumption | intro _ | apply modPortq_wf | apply setRecords_wf | apply foldl_wf | apply foldl_pair
    | apply ite_wf | apply ite_pair | apply ite_okR | apply ite_okKv | apply fst_wf | split
    | (apply of_pair; assumption) | dsimp only | apply pair_wf | apply mem_wf | apply mk_wf

theorem portsForget_wf (s : State) (c : Nat) (n : Nat) (ks : List Nat) (hw : Wf s) :
    Wf (State.portsForget s c n ks) := by
  unfold State.portsForget
  with_reducible repeat' first
    | assumption | intro _ | apply portForget_wf | apply foldl_wf | apply foldl_pair | apply ite_wf | apply ite_pair
    | apply ite_okR | apply ite_okKv | apply fst_wf | split | (apply of_pair; assumption) | dsimp only | apply pair_wf
    | apply mem_wf | apply mk_wf

theorem setCtl_wf (s : State) (c : Nat) (n : Nat) (i : Nat) (x : Ctl) (hw : Wf s) :
    Wf (State.setCtl s c n i x) := by
  unfold State.setCtl
  with_reducible repeat' first
    | assumption | intro _ | apply modGrid_wf | apply foldl_wf | apply foldl_pair | apply ite_wf | apply ite_pair
    | apply ite_okR | apply ite_okKv | apply fst_wf | split | (apply of_pair; assumption) | dsimp only | apply pair_wf
    | apply mem_wf | apply mk_wf

theorem markAborting_wf (s : State) (c : Nat) (tag : BitVec 8) (n : Nat) (hw : Wf s) :
    Wf (State.markAborting s c tag n) := by
  unfold State.markAborting
  with_reducible repeat' first
    | assumption | intro _ | apply portsForget_wf | apply setCtl_wf | apply foldl_wf | apply foldl_pair | apply ite_wf
    | apply ite_pair | apply ite_okR | apply ite_okKv | apply fst_wf | split | (apply of_pair; assumption)
    | dsimp only | apply pair_wf | apply mem_wf | apply mk_wf

theorem modCpOf_wf (s : State) (c : Nat) (f : Cp → Cp) (hw : Wf s) :
    Wf (State.modCpOf s c f) := by
  unfold State.modCpOf
  with_reducible repeat' first
    | assumption | intro _ | apply modCore_wf | apply foldl_wf | apply foldl_pair | apply ite_wf | apply ite_pair
    | apply ite_okR | apply ite_okKv | apply fst_wf | split | (apply of_pair; assumption) | dsimp only | apply pair_wf
    | apply mem_wf | apply mk_wf

theorem sendCtl_wf (s : State) (c : Nat) (t : CtlToken) (hw : Wf s) :
    Wf (State.sendCtl s c t) := by
  unfold State.sendCtl
  with_reducible repeat' first
    | assumption | intro _ | apply modGrid_wf | apply foldl_wf | apply foldl_pair | apply ite_wf | apply ite_pair
    | apply ite_okR | apply ite_okKv | apply fst_wf | split | (apply of_pair; assumption) | dsimp only | apply pair_wf
    | apply mem_wf | apply mk_wf

theorem endRun_wf (s : State) (c : Nat) (n : Nat) (i : Nat) (f : Frame) (x : Ctl) (hw : Wf s) :
    Wf (State.endRun s c n i f x) := by
  unfold State.endRun
  with_reducible repeat' first
    | assumption | intro _ | apply modCpOf_wf | apply sendCtl_wf | apply setCtl_wf | apply foldl_wf | apply foldl_pair
    | apply ite_wf | apply ite_pair | apply ite_okR | apply ite_okKv | apply fst_wf | split
    | (apply of_pair; assumption) | dsimp only | apply pair_wf | apply mem_wf | apply mk_wf

theorem grantPermits_wf (s : State) (c : Nat) (n : Nat) (i : Nat) (f : Frame) (x : Ctl) (prev : Option Nat)
    (y7 : List Nat) (hw : Wf s) :
    Wf (State.grantPermits s c n i f x prev y7) := by
  induction y7 generalizing s c n i f x prev with
  | nil =>
    first
    | exact hw
    | unfold State.grantPermits
      with_reducible repeat' first
        | assumption | intro _ | apply sendCtl_wf | apply setCtl_wf | apply foldl_wf | apply foldl_pair | apply ite_wf
        | apply ite_pair | apply ite_okR | apply ite_okKv | apply fst_wf | split | (apply of_pair; assumption)
        | dsimp only | apply pair_wf | apply mem_wf | apply mk_wf
  | cons y l ih =>
    unfold State.grantPermits
    with_reducible repeat' first
      | assumption | intro _ | apply ih | apply sendCtl_wf | apply setCtl_wf | apply foldl_wf | apply foldl_pair
      | apply ite_wf | apply ite_pair | apply ite_okR | apply ite_okKv | apply fst_wf | split
      | (apply of_pair; assumption) | dsimp only | apply pair_wf | apply mem_wf | apply mk_wf

theorem advance_wf (s : State) (c : Nat) (n : Nat) (i : Nat) (f : Frame) (hw : Wf s) :
    Wf (State.advance s c n i f) := by
  unfold State.advance
  with_reducible repeat' first
    | assumption | intro _ | apply endRun_wf | apply grantPermits_wf | apply setCtl_wf | apply foldl_wf
    | apply foldl_pair | apply ite_wf | apply ite_pair | apply ite_okR | apply ite_okKv | apply fst_wf | split
    | (apply of_pair; assumption) | dsimp only | apply pair_wf | apply mem_wf | apply mk_wf

theorem settleAborting_wf (s : State) (c : Nat) (tag : BitVec 8) (n : Nat) (hw : Wf s) :
    Wf (State.settleAborting s c tag n) := by
  unfold State.settleAborting
  with_reducible repeat' first
    | assumption | intro _ | apply advance_wf | apply foldl_wf | apply foldl_pair | apply ite_wf | apply ite_pair
    | apply ite_okR | apply ite_okKv | apply fst_wf | split | (apply of_pair; assumption) | dsimp only | apply pair_wf
    | apply mem_wf | apply mk_wf

theorem abortTree_wf (s : State) (c : Nat) (tag : BitVec 8) (l : List Nat) (hw : Wf s) :
    Wf (State.abortTree s c tag l) := by
  unfold State.abortTree
  with_reducible repeat' first
    | assumption | intro _ | apply markAborting_wf | apply settleAborting_wf | apply foldl_wf | apply foldl_pair
    | apply ite_wf | apply ite_pair | apply ite_okR | apply ite_okKv | apply fst_wf | split
    | (apply of_pair; assumption) | dsimp only | apply pair_wf | apply mem_wf | apply mk_wf

theorem modDie_wf (s : State) (d : Nat) (f : Die → Die) (hw : Wf s) :
    Wf (State.modDie s d f) := by
  unfold State.modDie
  with_reducible repeat' first
    | assumption | intro _ | apply foldl_wf | apply foldl_pair | apply ite_wf | apply ite_pair | apply ite_okR
    | apply ite_okKv | apply fst_wf | split | (apply of_pair; assumption) | dsimp only | apply pair_wf | apply mem_wf
    | apply mk_wf

theorem modUnits_wf (s : State) (c : Nat) (f : Units → Units) (hw : Wf s) :
    Wf (State.modUnits s c f) := by
  unfold State.modUnits
  with_reducible repeat' first
    | assumption | intro _ | apply modCore_wf | apply foldl_wf | apply foldl_pair | apply ite_wf | apply ite_pair
    | apply ite_okR | apply ite_okKv | apply fst_wf | split | (apply of_pair; assumption) | dsimp only | apply pair_wf
    | apply mem_wf | apply mk_wf

theorem setMx_wf (s : State) (c : Nat) (x : Mx) (hw : Wf s) :
    Wf (State.setMx s c x) := by
  unfold State.setMx
  with_reducible repeat' first
    | assumption | intro _ | apply modUnits_wf | apply foldl_wf | apply foldl_pair | apply ite_wf | apply ite_pair
    | apply ite_okR | apply ite_okKv | apply fst_wf | split | (apply of_pair; assumption) | dsimp only | apply pair_wf
    | apply mem_wf | apply mk_wf

theorem accFix_wf (s : State) (c : Nat) (ks : List Nat) (hw : Wf s) :
    Wf (State.accFix s c ks) := by
  unfold State.accFix
  with_reducible repeat' first
    | assumption | intro _ | apply modDie_wf | apply setMx_wf | apply foldl_wf | apply foldl_pair | apply ite_wf
    | apply ite_pair | apply ite_okR | apply ite_okKv | apply fst_wf | split | (apply of_pair; assumption)
    | dsimp only | apply pair_wf | apply mem_wf | apply mk_wf

theorem zeroExp_wf (s : State) (hw : Wf s) :
    WfP (State.zeroExp s) := by
  unfold State.zeroExp
  with_reducible repeat' first
    | assumption | intro _ | apply foldl_wf | apply foldl_pair | apply ite_wf | apply ite_pair | apply ite_okR
    | apply ite_okKv | apply fst_wf | split | (apply of_pair; assumption) | dsimp only | apply pair_wf | apply mem_wf
    | apply mk_wf

theorem valFlits_wf (s : State) (orig : Nat) (nd : Nat) (wc : Nat) (apx : Bool) (tag : BitVec 8) (last : Bool)
    (y7 : List DVal) (hw : Wf s) :
    WfP (State.valFlits s orig nd wc apx tag last y7) := by
  induction y7 generalizing s orig nd wc apx tag last with
  | nil =>
    first
    | exact hw
    | unfold State.valFlits
      with_reducible repeat' first
        | assumption | intro _ | apply zeroExp_wf | apply foldl_wf | apply foldl_pair | apply ite_wf | apply ite_pair
        | apply ite_okR | apply ite_okKv | apply fst_wf | split | (apply of_pair; assumption) | dsimp only
        | apply pair_wf | apply mem_wf | apply mk_wf
  | cons y l ih =>
    unfold State.valFlits
    with_reducible repeat' first
      | assumption | intro _ | apply ih | apply zeroExp_wf | apply foldl_wf | apply foldl_pair | apply ite_wf
      | apply ite_pair | apply ite_okR | apply ite_okKv | apply fst_wf | split | (apply of_pair; assumption)
      | dsimp only | apply pair_wf | apply mem_wf | apply mk_wf

theorem accFlits_wf (s : State) (c : Nat) (tag : BitVec 8) (pat : Nat) (poison : Bool) (last : Bool) (hw : Wf s) :
    WfP (State.accFlits s c tag pat poison last) := by
  unfold State.accFlits
  with_reducible repeat' first
    | assumption | intro _ | apply valFlits_wf | apply foldl_wf | apply foldl_pair | apply ite_wf | apply ite_pair
    | apply ite_okR | apply ite_okKv | apply fst_wf | split | (apply of_pair; assumption) | dsimp only | apply pair_wf
    | apply mem_wf | apply mk_wf

theorem active_wf (s : State) (c : Nat) (hw : Wf s) :
    Wf (State.active s c) := by
  unfold State.active
  with_reducible repeat' first
    | assumption | intro _ | apply modGrid_wf | apply foldl_wf | apply foldl_pair | apply ite_wf | apply ite_pair
    | apply ite_okR | apply ite_okKv | apply fst_wf | split | (apply of_pair; assumption) | dsimp only | apply pair_wf
    | apply mem_wf | apply mk_wf

theorem answer_wf (s : State) (a : HostAnswer) (hw : Wf s) :
    Wf (State.answer s a) := by
  unfold State.answer
  with_reducible repeat' first
    | assumption | intro _ | apply foldl_wf | apply foldl_pair | apply ite_wf | apply ite_pair | apply ite_okR
    | apply ite_okKv | apply fst_wf | split | (apply of_pair; assumption) | dsimp only | apply pair_wf | apply mem_wf
    | apply mk_wf

theorem atCore_wf (s : State) (c : CoreIx) (f : State → Result) (hw : Wf s) (h_f : ∀ t, Wf t → okR (f t)) :
    okR (State.atCore s c f) := by
  unfold State.atCore
  have hu := h_f { s with focus := c } hw
  split
  · rename_i t e
    exact next_ok (t := { t with focus := s.focus }) (hu.of t e)
  · exact hu

theorem post_wf (s : State) (c : Nat) (r : FRec) (hw : Wf s) :
    Wf (State.post s c r) := by
  unfold State.post
  with_reducible repeat' first
    | assumption | intro _ | apply modCpOf_wf | apply modDie_wf | apply foldl_wf | apply foldl_pair | apply ite_wf
    | apply ite_pair | apply ite_okR | apply ite_okKv | apply fst_wf | split | (apply of_pair; assumption)
    | dsimp only | apply pair_wf | apply mem_wf | apply mk_wf

theorem badThaw_wf (s : State) (d : Nat) (q : Nat) (n : Nat) (pa : Nat) (hw : Wf s) :
    Wf (State.badThaw s d q n pa) := by
  unfold State.badThaw
  with_reducible repeat' first
    | assumption | intro _ | apply modDie_wf | apply post_wf | apply foldl_wf | apply foldl_pair | apply ite_wf
    | apply ite_pair | apply ite_okR | apply ite_okKv | apply fst_wf | split | (apply of_pair; assumption)
    | dsimp only | apply pair_wf | apply mem_wf | apply mk_wf

theorem modCp_wf (s : State) (f : Cp → Cp) (hw : Wf s) :
    Wf (State.modCp s f) := by
  unfold State.modCp
  with_reducible repeat' first
    | assumption | intro _ | apply modCpOf_wf | apply foldl_wf | apply foldl_pair | apply ite_wf | apply ite_pair
    | apply ite_okR | apply ite_okKv | apply fst_wf | split | (apply of_pair; assumption) | dsimp only | apply pair_wf
    | apply mem_wf | apply mk_wf

theorem complete_wf (s : State) (srcs : List Src) (f : Cp → Cp) (hw : Wf s) :
    Wf (State.complete s srcs f) := by
  unfold State.complete
  with_reducible repeat' first
    | assumption | intro _ | apply modCp_wf | apply foldl_wf | apply foldl_pair | apply ite_wf | apply ite_pair
    | apply ite_okR | apply ite_okKv | apply fst_wf | split | (apply of_pair; assumption) | dsimp only | apply pair_wf
    | apply mem_wf | apply mk_wf

theorem reply_wf (s : State) (srcs : List Src) (d : Reg) (v : Word) (hw : Wf s) :
    okR (State.reply s srcs d v) := by
  unfold State.reply
  with_reducible repeat' first
    | assumption | intro _ | apply complete_wf | apply foldl_wf | apply foldl_pair | apply ite_wf | apply ite_pair
    | apply ite_okR | apply ite_okKv | apply fst_wf | apply next_ok | apply stop_ok | apply refuse_ok | split
    | (apply of_pair; assumption) | (apply of_next; assumption) | dsimp only | apply pair_wf | apply mem_wf
    | apply mk_wf

theorem barCfgEnd_wf (s : State) (d : Reg) (u : Option (BitVec 8)) (hw : Wf s) :
    okR (State.barCfgEnd s d u) := by
  unfold State.barCfgEnd
  with_reducible repeat' first
    | assumption | intro _ | apply modGrid_wf | apply reply_wf | apply foldl_wf | apply foldl_pair | apply ite_wf
    | apply ite_pair | apply ite_okR | apply ite_okKv | apply fst_wf | apply next_ok | apply stop_ok | apply refuse_ok
    | split | (apply of_pair; assumption) | (apply of_next; assumption) | dsimp only | apply pair_wf | apply mem_wf
    | apply mk_wf

theorem deliver_wf (s : State) (c : Nat) (d : Reg) (v : Word) (hw : Wf s) :
    Wf (State.deliver s c d v) := by
  unfold State.deliver
  with_reducible repeat' first
    | assumption | intro _ | apply modCpOf_wf | apply foldl_wf | apply foldl_pair | apply ite_wf | apply ite_pair
    | apply ite_okR | apply ite_okKv | apply fst_wf | split | (apply of_pair; assumption) | dsimp only | apply pair_wf
    | apply mem_wf | apply mk_wf

theorem modCluster_wf (s : State) (k : Nat) (f : Cluster → Cluster) (hw : Wf s) :
    Wf (State.modCluster s k f) := by
  unfold State.modCluster
  with_reducible repeat' first
    | assumption | intro _ | apply foldl_wf | apply foldl_pair | apply ite_wf | apply ite_pair | apply ite_okR
    | apply ite_okKv | apply fst_wf | split | (apply of_pair; assumption) | dsimp only | apply pair_wf | apply mem_wf
    | apply mk_wf

theorem setPair_wf (s : State) (k : Nat) (x : Pair) (hw : Wf s) :
    Wf (State.setPair s k x) := by
  unfold State.setPair
  with_reducible repeat' first
    | assumption | intro _ | apply modCluster_wf | apply foldl_wf | apply foldl_pair | apply ite_wf | apply ite_pair
    | apply ite_okR | apply ite_okKv | apply fst_wf | split | (apply of_pair; assumption) | dsimp only | apply pair_wf
    | apply mem_wf | apply mk_wf

theorem pairEnd_wf (s : State) (k : Nat) (o : PairOp) (p : PairPhase) (v : Word) (hw : Wf s) :
    Wf (State.pairEnd s k o p v) := by
  unfold State.pairEnd
  with_reducible repeat' first
    | assumption | intro _ | apply deliver_wf | apply setPair_wf | apply foldl_wf | apply foldl_pair | apply ite_wf
    | apply ite_pair | apply ite_okR | apply ite_okKv | apply fst_wf | split | (apply of_pair; assumption)
    | dsimp only | apply pair_wf | apply mem_wf | apply mk_wf

theorem count_wf (s : State) (c : Nat) (n : Nat) (v : Nat) (hw : Wf s) :
    Wf (State.count s c n v) := by
  unfold State.count
  with_reducible repeat' first
    | assumption | intro _ | apply modGrid_wf | apply foldl_wf | apply foldl_pair | apply ite_wf | apply ite_pair
    | apply ite_okR | apply ite_okKv | apply fst_wf | split | (apply of_pair; assumption) | dsimp only | apply pair_wf
    | apply mem_wf | apply mk_wf

theorem correctHalf_wf (d : Nat) (s : State) (h : Nat) (hw : Wf s) :
    Wf (State.correctHalf d s h) := by
  unfold State.correctHalf
  with_reducible repeat' first
    | assumption | intro _ | apply modDie_wf | apply foldl_wf | apply foldl_pair | apply ite_wf | apply ite_pair
    | apply ite_okR | apply ite_okKv | apply fst_wf | split | (apply of_pair; assumption) | dsimp only | apply pair_wf
    | apply mem_wf | apply mk_wf

theorem eccRead_wf (s : State) (pa : Nat) (n : Nat) (hw : Wf s) :
    Wf (State.eccRead s pa n) := by
  unfold State.eccRead
  with_reducible repeat' first
    | assumption | intro _ | apply correctHalf_wf | apply foldl_wf | apply foldl_pair | apply ite_wf | apply ite_pair
    | apply ite_okR | apply ite_okKv | apply fst_wf | split | (apply of_pair; assumption) | dsimp only | apply pair_wf
    | apply mem_wf | apply mk_wf

theorem walkFrom_wf (s : State) (root : BitVec 58) (va : Nat) (t : Nat) (y4 : Nat) (hw : Wf s) :
    WfP (State.walkFrom s root va t y4) := by
  induction y4 generalizing s root va t with
  | zero =>
    first
    | exact hw
    | unfold State.walkFrom
      with_reducible repeat' first
        | assumption | intro _ | apply eccRead_wf | apply foldl_wf | apply foldl_pair | apply ite_wf | apply ite_pair
        | apply ite_okR | apply ite_okKv | apply fst_wf | split | (apply of_pair; assumption) | dsimp only
        | apply pair_wf | apply mem_wf | apply mk_wf
  | succ l ih =>
    unfold State.walkFrom
    with_reducible repeat' first
      | assumption | intro _ | apply ih | apply eccRead_wf | apply foldl_wf | apply foldl_pair | apply ite_wf
      | apply ite_pair | apply ite_okR | apply ite_okKv | apply fst_wf | split | (apply of_pair; assumption)
      | dsimp only | apply pair_wf | apply mem_wf | apply mk_wf

theorem walk_wf (s : State) (root : BitVec 58) (va : Nat) (hw : Wf s) :
    WfP (State.walk s root va) := by
  unfold State.walk
  with_reducible repeat' first
    | assumption | intro _ | apply walkFrom_wf | apply foldl_wf | apply foldl_pair | apply ite_wf | apply ite_pair
    | apply ite_okR | apply ite_okKv | apply fst_wf | split | (apply of_pair; assumption) | dsimp only | apply pair_wf
    | apply mem_wf | apply mk_wf

theorem unitLookup_wf (s : State) (c : Nat) (root : BitVec 58) (va : Nat) (hw : Wf s) :
    WfP (State.unitLookup s c root va) := by
  unfold State.unitLookup
  with_reducible repeat' first
    | assumption | intro _ | apply count_wf | apply modCluster_wf | apply walk_wf | apply foldl_wf | apply foldl_pair
    | apply ite_wf | apply ite_pair | apply ite_okR | apply ite_okKv | apply fst_wf | split
    | (apply of_pair; assumption) | dsimp only | apply pair_wf | apply mem_wf | apply mk_wf

theorem unitTranslate_wf (s : State) (c : Nat) (xl : Option Xlat) (va : Nat) (u : Use) (sys : Bool) (hw : Wf s) :
    WfP (State.unitTranslate s c xl va u sys) := by
  unfold State.unitTranslate
  with_reducible repeat' first
    | assumption | intro _ | apply unitLookup_wf | apply foldl_wf | apply foldl_pair | apply ite_wf | apply ite_pair
    | apply ite_okR | apply ite_okKv | apply fst_wf | split | (apply of_pair; assumption) | dsimp only | apply pair_wf
    | apply mem_wf | apply mk_wf

theorem unitSegs_wf (s : State) (c : Nat) (xl : Option Xlat) (va : Word) (u : Use) (sys : Bool)
    (y6 : List (Nat × Nat)) (hw : Wf s) :
    WfP (State.unitSegs s c xl va u sys y6) := by
  induction y6 generalizing s c xl va u sys with
  | nil =>
    first
    | exact hw
    | unfold State.unitSegs
      with_reducible repeat' first
        | assumption | intro _ | apply unitTranslate_wf | apply foldl_wf | apply foldl_pair | apply ite_wf
        | apply ite_pair | apply ite_okR | apply ite_okKv | apply fst_wf | split | (apply of_pair; assumption)
        | dsimp only | apply pair_wf | apply mem_wf | apply mk_wf
  | cons y l ih =>
    unfold State.unitSegs
    with_reducible repeat' first
      | assumption | intro _ | apply ih | apply unitTranslate_wf | apply foldl_wf | apply foldl_pair | apply ite_wf
      | apply ite_pair | apply ite_okR | apply ite_okKv | apply fst_wf | split | (apply of_pair; assumption)
      | dsimp only | apply pair_wf | apply mem_wf | apply mk_wf

theorem unitParts_wf (s : State) (c : Nat) (xl : Option Xlat) (va : Word) (u : Use) (sys : Bool)
    (l : List (Nat × Nat)) (hw : Wf s) :
    WfP (State.unitParts s c xl va u sys l) := by
  unfold State.unitParts
  with_reducible repeat' first
    | assumption | intro _ | apply unitSegs_wf | apply foldl_wf | apply foldl_pair | apply ite_wf | apply ite_pair
    | apply ite_okR | apply ite_okKv | apply fst_wf | split | (apply of_pair; assumption) | dsimp only | apply pair_wf
    | apply mem_wf | apply mk_wf

theorem issueAccs_wf (s : State) (c : Nat) (xl : Option Xlat) (sys : Bool) (y4 : List UAcc) (hw : Wf s) :
    WfP (State.issueAccs s c xl sys y4) := by
  induction y4 generalizing s c xl sys with
  | nil =>
    first
    | exact hw
    | unfold State.issueAccs
      with_reducible repeat' first
        | assumption | intro _ | apply unitParts_wf | apply foldl_wf | apply foldl_pair | apply ite_wf
        | apply ite_pair | apply ite_okR | apply ite_okKv | apply fst_wf | split | (apply of_pair; assumption)
        | dsimp only | apply pair_wf | apply mem_wf | apply mk_wf
  | cons y l ih =>
    unfold State.issueAccs
    with_reducible repeat' first
      | assumption | intro _ | apply ih | apply unitParts_wf | apply foldl_wf | apply foldl_pair | apply ite_wf
      | apply ite_pair | apply ite_okR | apply ite_okKv | apply fst_wf | split | (apply of_pair; assumption)
      | dsimp only | apply pair_wf | apply mem_wf | apply mk_wf

theorem numbered_wf (s : State) (c : Nat) (as : List UAcc) (hw : Wf s) :
    WfP (State.numbered s c as) := by
  unfold State.numbered
  with_reducible repeat' first
    | assumption | intro _ | apply modCpOf_wf | apply foldl_wf | apply foldl_pair | apply ite_wf | apply ite_pair
    | apply ite_okR | apply ite_okKv | apply fst_wf | split | (apply of_pair; assumption) | dsimp only | apply pair_wf
    | apply mem_wf | apply mk_wf

theorem issue_wf (s : State) (c : Nat) (xl : Option Xlat) (sys : Bool) (as : List UAcc) (hw : Wf s) :
    okIssued (State.issue s c xl sys as) := by
  unfold State.issue
  with_reducible repeat' first
    | assumption | intro _ | apply issueAccs_wf | apply numbered_wf | apply foldl_wf | apply foldl_pair | apply ite_wf
    | apply ite_pair | apply ite_okR | apply ite_okKv | apply fst_wf | apply issuedWait_ok | apply issuedFault_ok
    | apply issuedOk_ok | split | (apply of_pair; assumption) | (apply of_issuedFault; assumption)
    | (apply of_issuedOk; assumption) | dsimp only | apply pair_wf | apply mem_wf | apply mk_wf

theorem pairHold_wf (s : State) (k : Nat) (o : PairOp) (n : Nat) (f : Fail) (hw : Wf s) :
    Wf (State.pairHold s k o n f) := by
  unfold State.pairHold
  with_reducible repeat' first
    | assumption | intro _ | apply post_wf | apply setPair_wf | apply foldl_wf | apply foldl_pair | apply ite_wf
    | apply ite_pair | apply ite_okR | apply ite_okKv | apply fst_wf | split | (apply of_pair; assumption)
    | dsimp only | apply pair_wf | apply mem_wf | apply mk_wf

theorem setPairOp_wf (s : State) (k : Nat) (o : PairOp) (hw : Wf s) :
    Wf (State.setPairOp s k o) := by
  unfold State.setPairOp
  with_reducible repeat' first
    | assumption | intro _ | apply setPair_wf | apply foldl_wf | apply foldl_pair | apply ite_wf | apply ite_pair
    | apply ite_okR | apply ite_okKv | apply fst_wf | split | (apply of_pair; assumption) | dsimp only | apply pair_wf
    | apply mem_wf | apply mk_wf

theorem pairIssue_wf (s : State) (k : Nat) (o : PairOp) (n : Nat) (turn : Bool) (grid : Bool) (as : List UAcc)
    (f : List UAcc → PairOp) (hw : Wf s) :
    Wf (State.pairIssue s k o n turn grid as f) := by
  unfold State.pairIssue
  with_reducible repeat' first
    | assumption | intro _ | apply issue_wf | apply pairHold_wf | apply setPairOp_wf | apply foldl_wf
    | apply foldl_pair | apply ite_wf | apply ite_pair | apply ite_okR | apply ite_okKv | apply fst_wf | split
    | (apply of_pair; assumption) | (apply of_issuedFault; assumption) | (apply of_issuedOk; assumption) | dsimp only
    | apply pair_wf | apply mem_wf | apply mk_wf

theorem binStep_wf (s : State) (k : Nat) (x : Pair) (o : PairOp) (hw : Wf s) :
    Wf (State.binStep s k x o) := by
  unfold State.binStep
  with_reducible repeat' first
    | assumption | intro _ | apply pairEnd_wf | apply pairIssue_wf | apply setPairOp_wf | apply setPair_wf
    | apply foldl_wf | apply foldl_pair | apply ite_wf | apply ite_pair | apply ite_okR | apply ite_okKv
    | apply fst_wf | split | (apply of_pair; assumption) | dsimp only | apply pair_wf | apply mem_wf | apply mk_wf

theorem cacheRead_wf (s : State) (c : Nat) (m : Nat) (n : Nat) (hw : Wf s) :
    Wf (State.cacheRead s c m n) := by
  unfold State.cacheRead
  with_reducible repeat' first
    | assumption | intro _ | apply modCore_wf | apply modDie_wf | apply foldl_wf | apply foldl_pair | apply ite_wf
    | apply ite_pair | apply ite_okR | apply ite_okKv | apply fst_wf | split | (apply of_pair; assumption)
    | dsimp only | apply pair_wf | apply mem_wf | apply mk_wf

theorem cacheReadFrame_wf (s : State) (c : Nat) (m : Nat) (n : Nat) (hw : Wf s) :
    Wf (State.cacheReadFrame s c m n) := by
  unfold State.cacheReadFrame
  with_reducible repeat' first
    | assumption | intro _ | apply cacheRead_wf | apply foldl_wf | apply foldl_pair | apply ite_wf | apply ite_pair
    | apply ite_okR | apply ite_okKv | apply fst_wf | split | (apply of_pair; assumption) | dsimp only | apply pair_wf
    | apply mem_wf | apply mk_wf

theorem imageRead_wf (s : State) (c : Nat) (va : Nat) (n : Nat) (hw : Wf s) :
    Wf (State.imageRead s c va n) := by
  unfold State.imageRead
  with_reducible repeat' first
    | assumption | intro _ | apply cacheReadFrame_wf | apply foldl_wf | apply foldl_pair | apply ite_wf
    | apply ite_pair | apply ite_okR | apply ite_okKv | apply fst_wf | split | (apply of_pair; assumption)
    | dsimp only | apply pair_wf | apply mem_wf | apply mk_wf

theorem pendTrap_wf (s : State) (c : Nat) (cause : BitVec 6) (tval : Word) (hw : Wf s) :
    Wf (State.pendTrap s c cause tval) := by
  unfold State.pendTrap
  with_reducible repeat' first
    | assumption | intro _ | apply modCpOf_wf | apply foldl_wf | apply foldl_pair | apply ite_wf | apply ite_pair
    | apply ite_okR | apply ite_okKv | apply fst_wf | split | (apply of_pair; assumption) | dsimp only | apply pair_wf
    | apply mem_wf | apply mk_wf

theorem loadFault_wf (s : State) (c : Nat) (index : Nat) (hw : Wf s) :
    Wf (State.loadFault s c index) := by
  unfold State.loadFault
  with_reducible repeat' first
    | assumption | intro _ | apply pendTrap_wf | apply foldl_wf | apply foldl_pair | apply ite_wf | apply ite_pair
    | apply ite_okR | apply ite_okKv | apply fst_wf | split | (apply of_pair; assumption) | dsimp only | apply pair_wf
    | apply mem_wf | apply mk_wf

theorem noteFail_wf (s : State) (c : Nat) (u : Option (BitVec 8)) (hw : Wf s) :
    Wf (State.noteFail s c u) := by
  unfold State.noteFail
  with_reducible repeat' first
    | assumption | intro _ | apply modGrid_wf | apply foldl_wf | apply foldl_pair | apply ite_wf | apply ite_pair
    | apply ite_okR | apply ite_okKv | apply fst_wf | split | (apply of_pair; assumption) | dsimp only | apply pair_wf
    | apply mem_wf | apply mk_wf

theorem submitLoad_wf (s : State) (c : Nat) (u : Option (BitVec 8)) (fs : List Frame) (reg : Option Reg)
    (hw : Wf s) :
    Wf (State.submitLoad s c u fs reg) := by
  unfold State.submitLoad
  with_reducible repeat' first
    | assumption | intro _ | apply modGrid_wf | apply foldl_wf | apply foldl_pair | apply ite_wf | apply ite_pair
    | apply ite_okR | apply ite_okKv | apply fst_wf | split | (apply of_pair; assumption) | dsimp only | apply pair_wf
    | apply mem_wf | apply mk_wf

theorem loadFrames_wf (s : State) (c : Nat) (va : Nat) (u : Option (BitVec 8)) (reg : Option Reg)
    (fs : List Frame) (hw : Wf s) :
    okCfg (State.loadFrames s c va u reg fs) := by
  unfold State.loadFrames
  with_reducible repeat' first
    | assumption | intro _ | apply imageRead_wf | apply loadFault_wf | apply noteFail_wf | apply submitLoad_wf
    | apply foldl_wf | apply foldl_pair | apply ite_wf | apply ite_pair | apply ite_okR | apply ite_okKv
    | apply fst_wf | apply cfgWait_ok | apply cfgEnds_ok | apply cfgGoes_ok | split | (apply of_pair; assumption)
    | (apply of_cfgEnds; assumption) | (apply of_cfgGoes; assumption) | dsimp only | apply pair_wf | apply mem_wf
    | apply mk_wf

theorem postWork_wf (s : State) (c : Nat) (hw : Wf s) :
    Wf (State.postWork s c) := by
  unfold State.postWork
  with_reducible repeat' first
    | assumption | intro _ | apply active_wf | apply modCpOf_wf | apply modGrid_wf | apply foldl_wf | apply foldl_pair
    | apply ite_wf | apply ite_pair | apply ite_okR | apply ite_okKv | apply fst_wf | split
    | (apply of_pair; assumption) | dsimp only | apply pair_wf | apply mem_wf | apply mk_wf

theorem lookup_wf (s : State) (c : Nat) (root : BitVec 58) (va : Nat) (hw : Wf s) :
    WfP (State.lookup s c root va) := by
  unfold State.lookup
  with_reducible repeat' first
    | assumption | intro _ | apply modCluster_wf | apply modCore_wf | apply walk_wf | apply foldl_wf
    | apply foldl_pair | apply ite_wf | apply ite_pair | apply ite_okR | apply ite_okKv | apply fst_wf | split
    | (apply of_pair; assumption) | dsimp only | apply pair_wf | apply mem_wf | apply mk_wf

theorem translate_wf (s : State) (c : Nat) (root : BitVec 58) (va : Nat) (u : Use) (sys : Bool) (hw : Wf s) :
    WfP (State.translate s c root va u sys) := by
  unfold State.translate
  with_reducible repeat' first
    | assumption | intro _ | apply lookup_wf | apply foldl_wf | apply foldl_pair | apply ite_wf | apply ite_pair
    | apply ite_okR | apply ite_okKv | apply fst_wf | split | (apply of_pair; assumption) | dsimp only | apply pair_wf
    | apply mem_wf | apply mk_wf

theorem readImage_wf (s : State) (c : Nat) (va : Nat) (waits : Bool) (sys : Bool) (y5 : Nat) (hw : Wf s) :
    WfP (State.readImage s c va waits sys y5) := by
  induction y5 generalizing s c va waits sys with
  | zero =>
    first
    | exact hw
    | unfold State.readImage
      with_reducible repeat' first
        | assumption | intro _ | apply eccRead_wf | apply translate_wf | apply foldl_wf | apply foldl_pair
        | apply ite_wf | apply ite_pair | apply ite_okR | apply ite_okKv | apply fst_wf | split
        | (apply of_pair; assumption) | dsimp only | apply pair_wf | apply mem_wf | apply mk_wf
  | succ l ih =>
    unfold State.readImage
    with_reducible repeat' first
      | assumption | intro _ | apply ih | apply eccRead_wf | apply translate_wf | apply foldl_wf | apply foldl_pair
      | apply ite_wf | apply ite_pair | apply ite_okR | apply ite_okKv | apply fst_wf | split
      | (apply of_pair; assumption) | dsimp only | apply pair_wf | apply mem_wf | apply mk_wf

theorem bindLoad_wf (s : State) (c : Nat) (va : Nat) (hw : Wf s) :
    Wf (State.bindLoad s c va) := by
  unfold State.bindLoad
  with_reducible repeat' first
    | assumption | intro _ | apply loadFrames_wf | apply modCore_wf | apply noteFail_wf | apply pendTrap_wf
    | apply postWork_wf | apply readImage_wf | apply foldl_wf | apply foldl_pair | apply ite_wf | apply ite_pair
    | apply ite_okR | apply ite_okKv | apply fst_wf | split | (apply of_pair; assumption)
    | (apply of_cfgEnds; assumption) | (apply of_cfgGoes; assumption) | dsimp only | apply pair_wf | apply mem_wf
    | apply mk_wf

theorem startTask_wf (s : State) (d : Nat) (q : Nat) (n : Nat) (hw : Wf s) :
    Wf (State.startTask s d q n) := by
  unfold State.startTask
  with_reducible repeat' first
    | assumption | intro _ | apply bindLoad_wf | apply modDie_wf | apply foldl_wf | apply foldl_pair | apply ite_wf
    | apply ite_pair | apply ite_okR | apply ite_okKv | apply fst_wf | split | (apply of_pair; assumption)
    | dsimp only | apply pair_wf | apply mem_wf | apply mk_wf

theorem modStations_wf (s : State) (f : Stations → Stations) (hw : Wf s) :
    Wf (State.modStations s f) := by
  unfold State.modStations
  with_reducible repeat' first
    | assumption | intro _ | apply foldl_wf | apply foldl_pair | apply ite_wf | apply ite_pair | apply ite_okR
    | apply ite_okKv | apply fst_wf | split | (apply of_pair; assumption) | dsimp only | apply pair_wf | apply mem_wf
    | apply mk_wf

theorem setColl_wf (s : State) (c : Nat) (i : Nat) (x : CollSlot) (hw : Wf s) :
    Wf (State.setColl s c i x) := by
  unfold State.setColl
  with_reducible repeat' first
    | assumption | intro _ | apply modCore_wf | apply foldl_wf | apply foldl_pair | apply ite_wf | apply ite_pair
    | apply ite_okR | apply ite_okKv | apply fst_wf | split | (apply of_pair; assumption) | dsimp only | apply pair_wf
    | apply mem_wf | apply mk_wf

theorem collFail_wf (s : State) (c : Nat) (i : Nat) (reason : Nat) (hw : Wf s) :
    Wf (State.collFail s c i reason) := by
  unfold State.collFail
  with_reducible repeat' first
    | assumption | intro _ | apply setColl_wf | apply foldl_wf | apply foldl_pair | apply ite_wf | apply ite_pair
    | apply ite_okR | apply ite_okKv | apply fst_wf | split | (apply of_pair; assumption) | dsimp only | apply pair_wf
    | apply mem_wf | apply mk_wf

theorem failWithdrawn_wf (s : State) (team : BitVec 16) (seq : BitVec 16) (hw : Wf s) :
    Wf (State.failWithdrawn s team seq) := by
  unfold State.failWithdrawn
  with_reducible repeat' first
    | assumption | intro _ | apply collFail_wf | apply modStations_wf | apply foldl_wf | apply foldl_pair
    | apply ite_wf | apply ite_pair | apply ite_okR | apply ite_okKv | apply fst_wf | split
    | (apply of_pair; assumption) | dsimp only | apply pair_wf | apply mem_wf | apply mk_wf

theorem withdrawSlot_wf (s : State) (c : Nat) (x : CollSlot) (hw : Wf s) :
    Wf (State.withdrawSlot s c x) := by
  unfold State.withdrawSlot
  with_reducible repeat' first
    | assumption | intro _ | apply failWithdrawn_wf | apply modStations_wf | apply foldl_wf | apply foldl_pair
    | apply ite_wf | apply ite_pair | apply ite_okR | apply ite_okKv | apply fst_wf | split
    | (apply of_pair; assumption) | dsimp only | apply pair_wf | apply mem_wf | apply mk_wf

theorem withdrawCore_wf (s : State) (c : Nat) (hw : Wf s) :
    Wf (State.withdrawCore s c) := by
  unfold State.withdrawCore
  with_reducible repeat' first
    | assumption | intro _ | apply modStations_wf | apply withdrawSlot_wf | apply foldl_wf | apply foldl_pair
    | apply ite_wf | apply ite_pair | apply ite_okR | apply ite_okKv | apply fst_wf | split
    | (apply of_pair; assumption) | dsimp only | apply pair_wf | apply mem_wf | apply mk_wf

theorem bindTask_wf (s : State) (d : Nat) (q : Nat) (n : Nat) (shape : Nat) (first : Nat) (prio : Nat) (hw : Wf s) :
    Wf (State.bindTask s d q n shape first prio) := by
  unfold State.bindTask
  with_reducible repeat' first
    | assumption | intro _ | apply modCore_wf | apply modDie_wf | apply startTask_wf | apply withdrawCore_wf
    | apply foldl_wf | apply foldl_pair | apply ite_wf | apply ite_pair | apply ite_okR | apply ite_okKv
    | apply fst_wf | split | (apply of_pair; assumption) | dsimp only | apply pair_wf | apply mem_wf | apply mk_wf

theorem recordRows_wf (s : State) (d : Nat) (r : BitVec 1024) (hw : Wf s) :
    WfP (State.recordRows s d r) := by
  unfold State.recordRows
  with_reducible repeat' first
    | assumption | intro _ | apply eccRead_wf | apply post_wf | apply foldl_wf | apply foldl_pair | apply ite_wf
    | apply ite_pair | apply ite_okR | apply ite_okKv | apply fst_wf | split | (apply of_pair; assumption)
    | dsimp only | apply pair_wf | apply mem_wf | apply mk_wf

theorem shapeList_wf (s : State) (d : Nat) (r : BitVec 1024) (hw : Wf s) :
    WfP (State.shapeList s d r) := by
  unfold State.shapeList
  with_reducible repeat' first
    | assumption | intro _ | apply recordRows_wf | apply foldl_wf | apply foldl_pair | apply ite_wf | apply ite_pair
    | apply ite_okR | apply ite_okKv | apply fst_wf | split | (apply of_pair; assumption) | dsimp only | apply pair_wf
    | apply mem_wf | apply mk_wf

theorem shapesOf_wf (s : State) (d : Nat) (t : TSlot) (hw : Wf s) :
    WfP (State.shapesOf s d t) := by
  unfold State.shapesOf
  with_reducible repeat' first
    | assumption | intro _ | apply shapeList_wf | apply foldl_wf | apply foldl_pair | apply ite_wf | apply ite_pair
    | apply ite_okR | apply ite_okKv | apply fst_wf | split | (apply of_pair; assumption) | dsimp only | apply pair_wf
    | apply mem_wf | apply mk_wf

theorem imageChecked_wf (s : State) (pa : Nat) (n : Nat) (hw : Wf s) :
    Wf (State.imageChecked s pa n) := by
  unfold State.imageChecked
  with_reducible repeat' first
    | assumption | intro _ | apply correctHalf_wf | apply foldl_wf | apply foldl_pair | apply ite_wf | apply ite_pair
    | apply ite_okR | apply ite_okKv | apply fst_wf | split | (apply of_pair; assumption) | dsimp only | apply pair_wf
    | apply mem_wf | apply mk_wf

theorem putScratch_wf (s : State) (c : Nat) (l : Memory) (hw : Wf s) :
    Wf (State.putScratch s c l) := by
  unfold State.putScratch
  exact memFold_wf _ (fun m a h => memSet_wf _ _ _ h) _ _ (memFilter_wf s.mem _ hw)

theorem thaw_wf (s : State) (d : Nat) (q : Nat) (n : Nat) (x : Image) (first : Nat) (prio : Nat) (hw : Wf s) :
    Wf (State.thaw s d q n x first prio) := by
  unfold State.thaw
  with_reducible repeat' first
    | assumption | intro _ | apply modCluster_wf | apply modDie_wf | apply putScratch_wf | apply setCore_wf
    | apply withdrawCore_wf | apply foldl_wf | apply foldl_pair | apply ite_wf | apply ite_pair | apply ite_okR
    | apply ite_okKv | apply fst_wf | split | (apply of_pair; assumption) | dsimp only | apply pair_wf | apply mem_wf
    | apply mk_wf

theorem tryThaw_wf (s : State) (d : Nat) (q : Nat) (n : Nat) (pa : Nat) (prio : Nat) (t : TSlot) (hw : Wf s) :
    okOpt (State.tryThaw s d q n pa prio t) := by
  unfold State.tryThaw
  dsimp only
  split <;> refine ⟨fun u e => ?_⟩ <;> obtain ⟨p, _, rfl⟩ := Option.map_eq_some_iff.mp e
  · exact thaw_wf _ _ _ _ _ _ _ (imageChecked_wf s _ _ hw)
  · exact modDie_wf _ _ _ (badThaw_wf _ _ _ _ _ (imageChecked_wf s _ _ hw))

theorem bindFirst_wf (s : State) (d : Nat) (y2 : List Cand) (hw : Wf s) :
    Wf (State.bindFirst s d y2) := by
  induction y2 generalizing s d with
  | nil =>
    first
    | exact hw
    | unfold State.bindFirst
      with_reducible repeat' first
        | assumption | intro _ | apply bindTask_wf | apply shapesOf_wf | apply tryThaw_wf | apply foldl_wf
        | apply foldl_pair | apply ite_wf | apply ite_pair | apply ite_okR | apply ite_okKv | apply fst_wf | split
        | (apply of_pair; assumption) | (apply of_some; assumption) | dsimp only | apply pair_wf | apply mem_wf
        | apply mk_wf
  | cons y l ih =>
    unfold State.bindFirst
    with_reducible repeat' first
      | assumption | intro _ | apply ih | apply bindTask_wf | apply shapesOf_wf | apply tryThaw_wf | apply foldl_wf
      | apply foldl_pair | apply ite_wf | apply ite_pair | apply ite_okR | apply ite_okKv | apply fst_wf | split
      | (apply of_pair; assumption) | (apply of_some; assumption) | dsimp only | apply pair_wf | apply mem_wf
      | apply mk_wf

theorem bindOne_wf (s : State) (d : Nat) (hw : Wf s) :
    Wf (State.bindOne s d) := by
  unfold State.bindOne
  with_reducible repeat' first
    | assumption | intro _ | apply bindFirst_wf | apply foldl_wf | apply foldl_pair | apply ite_wf | apply ite_pair
    | apply ite_okR | apply ite_okKv | apply fst_wf | split | (apply of_pair; assumption) | dsimp only | apply pair_wf
    | apply mem_wf | apply mk_wf

theorem cancelTail_wf (s : State) (c : Nat) (ag : Nat) (slot : Nat) (x : Stream) (hw : Wf s) :
    Wf (State.cancelTail s c ag slot x) := by
  unfold State.cancelTail
  with_reducible repeat' first
    | assumption | intro _ | apply modUnits_wf | apply foldl_wf | apply foldl_pair | apply ite_wf | apply ite_pair
    | apply ite_okR | apply ite_okKv | apply fst_wf | split | (apply of_pair; assumption) | dsimp only | apply pair_wf
    | apply mem_wf | apply mk_wf

theorem setStream_wf (s : State) (c : Nat) (n : Nat) (i : Nat) (x : Stream) (hw : Wf s) :
    Wf (State.setStream s c n i x) := by
  unfold State.setStream
  with_reducible repeat' first
    | assumption | intro _ | apply modUnits_wf | apply foldl_wf | apply foldl_pair | apply ite_wf | apply ite_pair
    | apply ite_okR | apply ite_okKv | apply fst_wf | split | (apply of_pair; assumption) | dsimp only | apply pair_wf
    | apply mem_wf | apply mk_wf

theorem streamEnd_wf (s : State) (c : Nat) (ag : Nat) (slot : Nat) (p : StreamPhase) (hw : Wf s) :
    Wf (State.streamEnd s c ag slot p) := by
  unfold State.streamEnd
  with_reducible repeat' first
    | assumption | intro _ | apply active_wf | apply deliver_wf | apply setStream_wf | apply foldl_wf
    | apply foldl_pair | apply ite_wf | apply ite_pair | apply ite_okR | apply ite_okKv | apply fst_wf | split
    | (apply of_pair; assumption) | dsimp only | apply pair_wf | apply mem_wf | apply mk_wf

theorem streamFinish_wf (s : State) (c : Nat) (ag : Nat) (slot : Nat) (hw : Wf s) :
    Wf (State.streamFinish s c ag slot) := by
  unfold State.streamFinish
  with_reducible repeat' first
    | assumption | intro _ | apply modUnits_wf | apply streamEnd_wf | apply foldl_wf | apply foldl_pair | apply ite_wf
    | apply ite_pair | apply ite_okR | apply ite_okKv | apply fst_wf | split | (apply of_pair; assumption)
    | dsimp only | apply pair_wf | apply mem_wf | apply mk_wf

theorem cancelStream_wf (s : State) (c : Nat) (ag : Nat) (i : Nat) (hw : Wf s) :
    Wf (State.cancelStream s c ag i) := by
  unfold State.cancelStream
  with_reducible repeat' first
    | assumption | intro _ | apply cancelTail_wf | apply setStream_wf | apply streamEnd_wf | apply streamFinish_wf
    | apply foldl_wf | apply foldl_pair | apply ite_wf | apply ite_pair | apply ite_okR | apply ite_okKv
    | apply fst_wf | split | (apply of_pair; assumption) | dsimp only | apply pair_wf | apply mem_wf | apply mk_wf

theorem cancelDeferred_wf (s : State) (c : Nat) (hw : Wf s) :
    Wf (State.cancelDeferred s c) := by
  unfold State.cancelDeferred
  with_reducible repeat' first
    | assumption | intro _ | apply cancelStream_wf | apply foldl_wf | apply foldl_pair | apply ite_wf | apply ite_pair
    | apply ite_okR | apply ite_okKv | apply fst_wf | split | (apply of_pair; assumption) | dsimp only | apply pair_wf
    | apply mem_wf | apply mk_wf

theorem cancelsDue_wf (s : State) (c : Nat) (hw : Wf s) :
    Wf (State.cancelsDue s c) := by
  unfold State.cancelsDue
  with_reducible repeat' first
    | assumption | intro _ | apply streamFinish_wf | apply foldl_wf | apply foldl_pair | apply ite_wf | apply ite_pair
    | apply ite_okR | apply ite_okKv | apply fst_wf | split | (apply of_pair; assumption) | dsimp only | apply pair_wf
    | apply mem_wf | apply mk_wf

theorem cfgEvict_wf (s : State) (c : Nat) (va : Nat) (hw : Wf s) :
    okCfg (State.cfgEvict s c va) := by
  unfold State.cfgEvict
  with_reducible repeat' first
    | assumption | intro _ | apply modCore_wf | apply foldl_wf | apply foldl_pair | apply ite_wf | apply ite_pair
    | apply ite_okR | apply ite_okKv | apply fst_wf | apply cfgWait_ok | apply cfgEnds_ok | apply cfgGoes_ok | split
    | (apply of_pair; assumption) | (apply of_cfgEnds; assumption) | (apply of_cfgGoes; assumption) | dsimp only
    | apply pair_wf | apply mem_wf | apply mk_wf

theorem cfgFetch_wf (s : State) (c : Nat) (va : Nat) (sys : Bool) (hw : Wf s) :
    okCfg (State.cfgFetch s c va sys) := by
  unfold State.cfgFetch
  with_reducible repeat' first
    | assumption | intro _ | apply modCore_wf | apply readImage_wf | apply foldl_wf | apply foldl_pair | apply ite_wf
    | apply ite_pair | apply ite_okR | apply ite_okKv | apply fst_wf | apply cfgWait_ok | apply cfgEnds_ok
    | apply cfgGoes_ok | split | (apply of_pair; assumption) | (apply of_cfgEnds; assumption)
    | (apply of_cfgGoes; assumption) | dsimp only | apply pair_wf | apply mem_wf | apply mk_wf

theorem inbandFail_wf (s : State) (c : Nat) (ag : Nat) (hw : Wf s) :
    Wf (State.inbandFail s c ag) := by
  unfold State.inbandFail
  with_reducible repeat' first
    | assumption | intro _ | apply modGrid_wf | apply foldl_wf | apply foldl_pair | apply ite_wf | apply ite_pair
    | apply ite_okR | apply ite_okKv | apply fst_wf | split | (apply of_pair; assumption) | dsimp only | apply pair_wf
    | apply mem_wf | apply mk_wf

theorem inbandFrames_wf (s : State) (c : Nat) (va : Nat) (ag : Nat) (tag : BitVec 8) (order : Nat) (d : Reg)
    (fs : List Frame) (hw : Wf s) :
    okCfg (State.inbandFrames s c va ag tag order d fs) := by
  unfold State.inbandFrames
  with_reducible repeat' first
    | assumption | intro _ | apply imageRead_wf | apply inbandFail_wf | apply loadFault_wf | apply modGrid_wf
    | apply foldl_wf | apply foldl_pair | apply ite_wf | apply ite_pair | apply ite_okR | apply ite_okKv
    | apply fst_wf | apply cfgWait_ok | apply cfgEnds_ok | apply cfgGoes_ok | split | (apply of_pair; assumption)
    | (apply of_cfgEnds; assumption) | (apply of_cfgGoes; assumption) | dsimp only | apply pair_wf | apply mem_wf
    | apply mk_wf

theorem cfgInband_wf (s : State) (c : Nat) (va : Nat) (sys : Bool) (ag : Nat) (tag : BitVec 8) (order : Nat)
    (d : Reg) (hw : Wf s) :
    okCfg (State.cfgInband s c va sys ag tag order d) := by
  unfold State.cfgInband
  with_reducible repeat' first
    | assumption | intro _ | apply cfgFetch_wf | apply inbandFrames_wf | apply foldl_wf | apply foldl_pair
    | apply ite_wf | apply ite_pair | apply ite_okR | apply ite_okKv | apply fst_wf | apply cfgWait_ok
    | apply cfgEnds_ok | apply cfgGoes_ok | split | (apply of_pair; assumption) | (apply of_cfgEnds; assumption)
    | (apply of_cfgGoes; assumption) | dsimp only | apply pair_wf | apply mem_wf | apply mk_wf

theorem cfgLoad_wf (s : State) (c : Nat) (va : Nat) (sys : Bool) (u : Option (BitVec 8)) (reg : Option Reg)
    (hw : Wf s) :
    okCfg (State.cfgLoad s c va sys u reg) := by
  unfold State.cfgLoad
  with_reducible repeat' first
    | assumption | intro _ | apply cfgFetch_wf | apply loadFault_wf | apply loadFrames_wf | apply noteFail_wf
    | apply foldl_wf | apply foldl_pair | apply ite_wf | apply ite_pair | apply ite_okR | apply ite_okKv
    | apply fst_wf | apply cfgWait_ok | apply cfgEnds_ok | apply cfgGoes_ok | split | (apply of_pair; assumption)
    | (apply of_cfgEnds; assumption) | (apply of_cfgGoes; assumption) | dsimp only | apply pair_wf | apply mem_wf
    | apply mk_wf

theorem cfgRun_wf (s : State) (c : Nat) (what : CfgWhat) (u : Option (BitVec 8)) (va : Nat) (sys : Bool) (d : Reg)
    (hw : Wf s) :
    okCfg (State.cfgRun s c what u va sys d) := by
  unfold State.cfgRun
  with_reducible repeat' first
    | assumption | intro _ | apply cfgEvict_wf | apply cfgFetch_wf | apply cfgInband_wf | apply cfgLoad_wf
    | apply foldl_wf | apply foldl_pair | apply ite_wf | apply ite_pair | apply ite_okR | apply ite_okKv
    | apply fst_wf | apply cfgWait_ok | apply cfgEnds_ok | apply cfgGoes_ok | split | (apply of_pair; assumption)
    | (apply of_cfgEnds; assumption) | (apply of_cfgGoes; assumption) | dsimp only | apply pair_wf | apply mem_wf
    | apply mk_wf

theorem cfgDue_wf (s : State) (c : Nat) (hw : Wf s) :
    Wf (State.cfgDue s c) := by
  unfold State.cfgDue
  with_reducible repeat' first
    | assumption | intro _ | apply active_wf | apply cfgRun_wf | apply deliver_wf | apply modGrid_wf | apply foldl_wf
    | apply foldl_pair | apply ite_wf | apply ite_pair | apply ite_okR | apply ite_okKv | apply fst_wf | split
    | (apply of_pair; assumption) | (apply of_cfgEnds; assumption) | (apply of_cfgGoes; assumption) | dsimp only
    | apply pair_wf | apply mem_wf | apply mk_wf

theorem cfgQueue_wf (s : State) (c : Nat) (what : CfgWhat) (u : Option (BitVec 8)) (va : Nat) (d : Reg)
    (hw : Wf s) :
    Wf (State.cfgQueue s c what u va d) := by
  unfold State.cfgQueue
  with_reducible repeat' first
    | assumption | intro _ | apply modGrid_wf | apply foldl_wf | apply foldl_pair | apply ite_wf | apply ite_pair
    | apply ite_okR | apply ite_okKv | apply fst_wf | split | (apply of_pair; assumption) | dsimp only | apply pair_wf
    | apply mem_wf | apply mk_wf

theorem posted_wf (s : State) (srcs : List Src) (d : Reg) (outside : Bool) (hw : Wf s) :
    Wf (State.posted s srcs d outside) := by
  unfold State.posted
  with_reducible repeat' first
    | assumption | intro _ | apply complete_wf | apply foldl_wf | apply foldl_pair | apply ite_wf | apply ite_pair
    | apply ite_okR | apply ite_okKv | apply fst_wf | split | (apply of_pair; assumption) | dsimp only | apply pair_wf
    | apply mem_wf | apply mk_wf

theorem takePlace_wf (s : State) (c : Nat) (what : CfgWhat) (hw : Wf s) :
    Wf (State.takePlace s c what) := by
  unfold State.takePlace
  with_reducible repeat' first
    | assumption | intro _ | apply modUnits_wf | apply foldl_wf | apply foldl_pair | apply ite_wf | apply ite_pair
    | apply ite_okR | apply ite_okKv | apply fst_wf | split | (apply of_pair; assumption) | dsimp only | apply pair_wf
    | apply mem_wf | apply mk_wf

theorem cfgIssue_wf (s : State) (what : CfgWhat) (u : Option (BitVec 8)) (a : Src) (d : Reg) (hw : Wf s) :
    okR (State.cfgIssue s what u a d) := by
  unfold State.cfgIssue
  with_reducible repeat' first
    | assumption | intro _ | apply cfgQueue_wf | apply cfgRun_wf | apply postWork_wf | apply posted_wf
    | apply reply_wf | apply takePlace_wf | apply foldl_wf | apply foldl_pair | apply ite_wf | apply ite_pair
    | apply ite_okR | apply ite_okKv | apply fst_wf | apply next_ok | apply stop_ok | apply refuse_ok | split
    | (apply of_pair; assumption) | (apply of_cfgEnds; assumption) | (apply of_cfgGoes; assumption)
    | (apply of_next; assumption) | dsimp only | apply pair_wf | apply mem_wf | apply mk_wf

theorem setSlotAt_wf (s : State) (c : Nat) (k : Nat) (i : Nat) (x : Slot) (hw : Wf s) :
    Wf (State.setSlotAt s c k i x) := by
  unfold State.setSlotAt
  with_reducible repeat' first
    | assumption | intro _ | apply modCluster_wf | apply modGrid_wf | apply foldl_wf | apply foldl_pair | apply ite_wf
    | apply ite_pair | apply ite_okR | apply ite_okKv | apply fst_wf | split | (apply of_pair; assumption)
    | dsimp only | apply pair_wf | apply mem_wf | apply mk_wf

theorem clearSlot_wf (s : State) (c : Nat) (k : Nat) (i : Nat) (hw : Wf s) :
    Wf (State.clearSlot s c k i) := by
  unfold State.clearSlot
  with_reducible repeat' first
    | assumption | intro _ | apply setSlotAt_wf | apply foldl_wf | apply foldl_pair | apply ite_wf | apply ite_pair
    | apply ite_okR | apply ite_okKv | apply fst_wf | split | (apply of_pair; assumption) | dsimp only | apply pair_wf
    | apply mem_wf | apply mk_wf

theorem setJob_wf (s : State) (j : CollJob) (hw : Wf s) :
    Wf (State.setJob s j) := by
  unfold State.setJob
  with_reducible repeat' first
    | assumption | intro _ | apply modStations_wf | apply foldl_wf | apply foldl_pair | apply ite_wf | apply ite_pair
    | apply ite_okR | apply ite_okKv | apply fst_wf | split | (apply of_pair; assumption) | dsimp only | apply pair_wf
    | apply mem_wf | apply mk_wf

theorem closeJob_wf (s : State) (j : CollJob) (hw : Wf s) :
    Wf (State.closeJob s j) := by
  unfold State.closeJob
  with_reducible repeat' first
    | assumption | intro _ | apply modStations_wf | apply setJob_wf | apply foldl_wf | apply foldl_pair | apply ite_wf
    | apply ite_pair | apply ite_okR | apply ite_okKv | apply fst_wf | split | (apply of_pair; assumption)
    | dsimp only | apply pair_wf | apply mem_wf | apply mk_wf

theorem setSpace_wf (s : State) (k : Nat) (n : Nat) (x : TagSpace) (hw : Wf s) :
    Wf (State.setSpace s k n x) := by
  unfold State.setSpace
  with_reducible repeat' first
    | assumption | intro _ | apply modCluster_wf | apply foldl_wf | apply foldl_pair | apply ite_wf | apply ite_pair
    | apply ite_okR | apply ite_okKv | apply fst_wf | split | (apply of_pair; assumption) | dsimp only | apply pair_wf
    | apply mem_wf | apply mk_wf

theorem closeSpace_wf (s : State) (k : Nat) (n : Nat) (hw : Wf s) :
    Wf (State.closeSpace s k n) := by
  unfold State.closeSpace
  with_reducible repeat' first
    | assumption | intro _ | apply modGrid_wf | apply setSpace_wf | apply foldl_wf | apply foldl_pair | apply ite_wf
    | apply ite_pair | apply ite_okR | apply ite_okKv | apply fst_wf | split | (apply of_pair; assumption)
    | dsimp only | apply pair_wf | apply mem_wf | apply mk_wf

theorem collBegin_wf (s : State) (team : BitVec 16) (seq : BitVec 16) (x : CollSlot) (l : List (Nat × Nat))
    (far : List (Nat × CollDesc × List Byte)) (hw : Wf s) :
    Wf (State.collBegin s team seq x l far) := by
  unfold State.collBegin
  with_reducible repeat' first
    | assumption | intro _ | apply modStations_wf | apply setColl_wf | apply foldl_wf | apply foldl_pair
    | apply ite_wf | apply ite_pair | apply ite_okR | apply ite_okKv | apply fst_wf | split
    | (apply of_pair; assumption) | dsimp only | apply pair_wf | apply mem_wf | apply mk_wf

theorem collCompute_wf (s : State) (j : CollJob) (t : Arrival) (hw : Wf s) :
    Wf (State.collCompute s j t) := by
  unfold State.collCompute
  with_reducible repeat' first
    | assumption | intro _ | apply setColl_wf | apply foldl_wf | apply foldl_pair | apply ite_wf | apply ite_pair
    | apply ite_okR | apply ite_okKv | apply fst_wf | split | (apply of_pair; assumption) | dsimp only | apply pair_wf
    | apply mem_wf | apply mk_wf

theorem collHold_wf (s : State) (c : Nat) (i : Nat) (n : Nat) (f : Fail) (hw : Wf s) :
    Wf (State.collHold s c i n f) := by
  unfold State.collHold
  with_reducible repeat' first
    | assumption | intro _ | apply post_wf | apply setColl_wf | apply foldl_wf | apply foldl_pair | apply ite_wf
    | apply ite_pair | apply ite_okR | apply ite_okKv | apply fst_wf | split | (apply of_pair; assumption)
    | dsimp only | apply pair_wf | apply mem_wf | apply mk_wf

theorem collIssue_wf (s : State) (c : Nat) (i : Nat) (hw : Wf s) :
    Wf (State.collIssue s c i) := by
  unfold State.collIssue
  with_reducible repeat' first
    | assumption | intro _ | apply collHold_wf | apply issue_wf | apply setColl_wf | apply foldl_wf | apply foldl_pair
    | apply ite_wf | apply ite_pair | apply ite_okR | apply ite_okKv | apply fst_wf | split
    | (apply of_pair; assumption) | (apply of_issuedFault; assumption) | (apply of_issuedOk; assumption) | dsimp only
    | apply pair_wf | apply mem_wf | apply mk_wf

theorem postEccu_wf (s : State) (c : Nat) (orig : Nat) (w : List Word) (hw : Wf s) :
    Wf (State.postEccu s c orig w) := by
  unfold State.postEccu
  with_reducible repeat' first
    | assumption | intro _ | apply post_wf | apply foldl_wf | apply foldl_pair | apply ite_wf | apply ite_pair
    | apply ite_okR | apply ite_okKv | apply fst_wf | split | (apply of_pair; assumption) | dsimp only | apply pair_wf
    | apply mem_wf | apply mk_wf

theorem writeBytes_wf (s : State) (pa : Nat) (bs : List Byte) (hw : Wf s) :
    Wf (State.writeBytes s pa bs) := by
  exact memPut_wf _ _ _ hw

theorem unitWrite_wf (s : State) (c : Nat) (orig : Nat) (w3 : Word) (pa : Nat) (bs : List Byte) (hw : Wf s) :
    Wf (State.unitWrite s c orig w3 pa bs) := by
  unfold State.unitWrite
  with_reducible repeat' first
    | assumption | intro _ | apply postEccu_wf | apply writeBytes_wf | apply foldl_wf | apply foldl_pair
    | apply ite_wf | apply ite_pair | apply ite_okR | apply ite_okKv | apply fst_wf | split
    | (apply of_pair; assumption) | dsimp only | apply pair_wf | apply mem_wf | apply mk_wf

theorem unitPerform_wf (s : State) (c : Nat) (orig : Nat) (w3 : Word) (a : UAcc) (j : Nat) (g : Seg) (hw : Wf s) :
    WfP (State.unitPerform s c orig w3 a j g) := by
  unfold State.unitPerform
  with_reducible repeat' first
    | assumption | intro _ | apply eccRead_wf | apply unitWrite_wf | apply foldl_wf | apply foldl_pair | apply ite_wf
    | apply ite_pair | apply ite_okR | apply ite_okKv | apply fst_wf | split | (apply of_pair; assumption)
    | dsimp only | apply pair_wf | apply mem_wf | apply mk_wf

theorem collPerform_wf (s : State) (c : Nat) (i : Nat) (id : Nat) (j : Nat) (hw : Wf s) :
    Wf (State.collPerform s c i id j) := by
  unfold State.collPerform
  with_reducible repeat' first
    | assumption | intro _ | apply collHold_wf | apply setColl_wf | apply unitPerform_wf | apply foldl_wf
    | apply foldl_pair | apply ite_wf | apply ite_pair | apply ite_okR | apply ite_okKv | apply fst_wf | split
    | (apply of_pair; assumption) | dsimp only | apply pair_wf | apply mem_wf | apply mk_wf

theorem modChan_wf (s : State) (c : Nat) (k : Nat) (f : Chan → Chan) (hw : Wf s) :
    Wf (State.modChan s c k f) := by
  unfold State.modChan
  with_reducible repeat' first
    | assumption | intro _ | apply modGrid_wf | apply foldl_wf | apply foldl_pair | apply ite_wf | apply ite_pair
    | apply ite_okR | apply ite_okKv | apply fst_wf | split | (apply of_pair; assumption) | dsimp only | apply pair_wf
    | apply mem_wf | apply mk_wf

theorem movedIn_wf (s : State) (c : Nat) (hw : Wf s) :
    Wf (State.movedIn s c) := by
  unfold State.movedIn
  with_reducible repeat' first
    | assumption | intro _ | apply modGrid_wf | apply foldl_wf | apply foldl_pair | apply ite_wf | apply ite_pair
    | apply ite_okR | apply ite_okKv | apply fst_wf | split | (apply of_pair; assumption) | dsimp only | apply pair_wf
    | apply mem_wf | apply mk_wf

theorem popChan_wf (s : State) (c : Nat) (k : Nat) (hw : Wf s) :
    Wf (State.popChan s c k) := by
  unfold State.popChan
  with_reducible repeat' first
    | assumption | intro _ | apply modChan_wf | apply movedIn_wf | apply foldl_wf | apply foldl_pair | apply ite_wf
    | apply ite_pair | apply ite_okR | apply ite_okKv | apply fst_wf | split | (apply of_pair; assumption)
    | dsimp only | apply pair_wf | apply mem_wf | apply mk_wf

theorem collectFlit_wf (s : State) (c : Nat) (kk : Nat) (f : Flit) (hw : Wf s) :
    Wf (State.collectFlit s c kk f) := by
  unfold State.collectFlit
  with_reducible repeat' first
    | assumption | intro _ | apply modGrid_wf | apply popChan_wf | apply foldl_wf | apply foldl_pair | apply ite_wf
    | apply ite_pair | apply ite_okR | apply ite_okKv | apply fst_wf | split | (apply of_pair; assumption)
    | dsimp only | apply pair_wf | apply mem_wf | apply mk_wf

theorem setTpl_wf (s : State) (c : Nat) (n : Nat) (x : Tpl) (hw : Wf s) :
    Wf (State.setTpl s c n x) := by
  unfold State.setTpl
  with_reducible repeat' first
    | assumption | intro _ | apply modUnits_wf | apply foldl_wf | apply foldl_pair | apply ite_wf | apply ite_pair
    | apply ite_okR | apply ite_okKv | apply fst_wf | split | (apply of_pair; assumption) | dsimp only | apply pair_wf
    | apply mem_wf | apply mk_wf

theorem copyAccess_wf (s : State) (c : Nat) (n : Nat) (id : Nat) (j : Nat) (hw : Wf s) :
    Wf (State.copyAccess s c n id j) := by
  unfold State.copyAccess
  with_reducible repeat' first
    | assumption | intro _ | apply active_wf | apply setTpl_wf | apply unitPerform_wf | apply foldl_wf
    | apply foldl_pair | apply ite_wf | apply ite_pair | apply ite_okR | apply ite_okKv | apply fst_wf | split
    | (apply of_pair; assumption) | dsimp only | apply pair_wf | apply mem_wf | apply mk_wf

theorem issueAgain_wf (s : State) (c : Nat) (x : Xfer) (sys : Bool) (f : Flown) (hw : Wf s) :
    okIssue (State.issueAgain s c x sys f) := by
  unfold State.issueAgain
  with_reducible repeat' first
    | assumption | intro _ | apply issue_wf | apply foldl_wf | apply foldl_pair | apply ite_wf | apply ite_pair
    | apply ite_okR | apply ite_okKv | apply fst_wf | apply issueWait_ok | apply issueFault_ok | apply issueOk_ok
    | split | (apply of_pair; assumption) | (apply of_issueFault; assumption) | (apply of_issueOk; assumption)
    | (apply of_issuedFault; assumption) | (apply of_issuedOk; assumption) | dsimp only | apply pair_wf | apply mem_wf
    | apply mk_wf

theorem tplFault_wf (s : State) (c : Nat) (n : Nat) (k : Nat) (f : Fail) (hw : Wf s) :
    Wf (State.tplFault s c n k f) := by
  unfold State.tplFault
  with_reducible repeat' first
    | assumption | intro _ | apply active_wf | apply post_wf | apply setTpl_wf | apply foldl_wf | apply foldl_pair
    | apply ite_wf | apply ite_pair | apply ite_okR | apply ite_okKv | apply fst_wf | split
    | (apply of_pair; assumption) | dsimp only | apply pair_wf | apply mem_wf | apply mk_wf

theorem copyAgain_wf (s : State) (c : Nat) (n : Nat) (f : Flown) (hw : Wf s) :
    Wf (State.copyAgain s c n f) := by
  unfold State.copyAgain
  with_reducible repeat' first
    | assumption | intro _ | apply active_wf | apply issueAgain_wf | apply setTpl_wf | apply tplFault_wf
    | apply foldl_wf | apply foldl_pair | apply ite_wf | apply ite_pair | apply ite_okR | apply ite_okKv
    | apply fst_wf | split | (apply of_pair; assumption) | (apply of_issueFault; assumption)
    | (apply of_issueOk; assumption) | dsimp only | apply pair_wf | apply mem_wf | apply mk_wf

theorem setSbuf_wf (s : State) (c : Nat) (n : Nat) (i : Nat) (x : Sbuf) (hw : Wf s) :
    Wf (State.setSbuf s c n i x) := by
  unfold State.setSbuf
  with_reducible repeat' first
    | assumption | intro _ | apply modUnits_wf | apply foldl_wf | apply foldl_pair | apply ite_wf | apply ite_pair
    | apply ite_okR | apply ite_okKv | apply fst_wf | split | (apply of_pair; assumption) | dsimp only | apply pair_wf
    | apply mem_wf | apply mk_wf

theorem sbAsk_wf (s : State) (c : Nat) (n : Nat) (i : Nat) (src : Nat) (hw : Wf s) :
    Wf (State.sbAsk s c n i src) := by
  unfold State.sbAsk
  with_reducible repeat' first
    | assumption | intro _ | apply setSbuf_wf | apply foldl_wf | apply foldl_pair | apply ite_wf | apply ite_pair
    | apply ite_okR | apply ite_okKv | apply fst_wf | split | (apply of_pair; assumption) | dsimp only | apply pair_wf
    | apply mem_wf | apply mk_wf

theorem entryIn_wf (s : State) (c : Nat) (hw : Wf s) :
    Wf (State.entryIn s c) := by
  unfold State.entryIn
  with_reducible repeat' first
    | assumption | intro _ | apply active_wf | apply modCpOf_wf | apply foldl_wf | apply foldl_pair | apply ite_wf
    | apply ite_pair | apply ite_okR | apply ite_okKv | apply fst_wf | split | (apply of_pair; assumption)
    | dsimp only | apply pair_wf | apply mem_wf | apply mk_wf

theorem sbWrite_wf (s : State) (c : Nat) (n : Nat) (f : Frame) (p : Nat) (bs : List Byte) (hw : Wf s) :
    Wf (State.sbWrite s c n f p bs) := by
  unfold State.sbWrite
  with_reducible repeat' first
    | assumption | intro _ | apply unitWrite_wf | apply foldl_wf | apply foldl_pair | apply ite_wf | apply ite_pair
    | apply ite_okR | apply ite_okKv | apply fst_wf | split | (apply of_pair; assumption) | dsimp only | apply pair_wf
    | apply mem_wf | apply mk_wf

theorem sbPut_wf (s : State) (c : Nat) (n : Nat) (i : Nat) (f : Frame) (src : Nat) (bs : List Byte) (last : Bool)
    (hw : Wf s) :
    Wf (State.sbPut s c n i f src bs last) := by
  unfold State.sbPut
  with_reducible repeat' first
    | assumption | intro _ | apply entryIn_wf | apply movedIn_wf | apply sbWrite_wf | apply setSbuf_wf
    | apply foldl_wf | apply foldl_pair | apply ite_wf | apply ite_pair | apply ite_okR | apply ite_okKv
    | apply fst_wf | split | (apply of_pair; assumption) | dsimp only | apply pair_wf | apply mem_wf | apply mk_wf

theorem deliverBytes_wf (s : State) (c : Nat) (src : Nat) (t : Target) (bs : List Byte) (hw : Wf s) :
    okDel (State.deliverBytes s c src t bs) := by
  unfold State.deliverBytes
  with_reducible repeat' first
    | assumption | intro _ | apply sbAsk_wf | apply sbPut_wf | apply foldl_wf | apply foldl_pair | apply ite_wf
    | apply ite_pair | apply ite_okR | apply ite_okKv | apply fst_wf | apply delWait_ok | apply delBad_ok
    | apply delSent_ok | split | (apply of_pair; assumption) | (apply of_sent; assumption)
    | (apply of_fst; assumption) | (apply of_delWait; assumption) | (apply of_fstWait; assumption) | dsimp only
    | apply pair_wf | apply mem_wf | apply mk_wf

theorem sbPutFlit_wf (s : State) (c : Nat) (n : Nat) (i : Nat) (f : Frame) (src : Nat) (x : Flit) (hw : Wf s) :
    Wf (State.sbPutFlit s c n i f src x) := by
  unfold State.sbPutFlit
  with_reducible repeat' first
    | assumption | intro _ | apply sbPut_wf | apply foldl_wf | apply foldl_pair | apply ite_wf | apply ite_pair
    | apply ite_okR | apply ite_okKv | apply fst_wf | split | (apply of_pair; assumption) | dsimp only | apply pair_wf
    | apply mem_wf | apply mk_wf

theorem receive_wf (s : State) (c : Nat) (rt : Nat) (f : Flit) (hw : Wf s) :
    WfP (State.receive s c rt f) := by
  unfold State.receive
  with_reducible repeat' first
    | assumption | intro _ | apply post_wf | apply foldl_wf | apply foldl_pair | apply ite_wf | apply ite_pair
    | apply ite_okR | apply ite_okKv | apply fst_wf | split | (apply of_pair; assumption) | dsimp only | apply pair_wf
    | apply mem_wf | apply mk_wf

theorem pushFrom_wf (s : State) (c : Nat) (k : Nat) (rt : Nat) (f : Flit)
    (src : Option (Nat × BitVec 8 × BitVec 8)) (hw : Wf s) :
    Wf (State.pushFrom s c k rt f src) := by
  unfold State.pushFrom
  with_reducible repeat' first
    | assumption | intro _ | apply modChan_wf | apply movedIn_wf | apply receive_wf | apply foldl_wf
    | apply foldl_pair | apply ite_wf | apply ite_pair | apply ite_okR | apply ite_okKv | apply fst_wf | split
    | (apply of_pair; assumption) | dsimp only | apply pair_wf | apply mem_wf | apply mk_wf

theorem pushChan_wf (s : State) (c : Nat) (k : Nat) (f : Flit) (src : Option (Nat × BitVec 8 × BitVec 8))
    (hw : Wf s) :
    Wf (State.pushChan s c k f src) := by
  unfold State.pushChan
  with_reducible repeat' first
    | assumption | intro _ | apply pushFrom_wf | apply foldl_wf | apply foldl_pair | apply ite_wf | apply ite_pair
    | apply ite_okR | apply ite_okKv | apply fst_wf | split | (apply of_pair; assumption) | dsimp only | apply pair_wf
    | apply mem_wf | apply mk_wf

theorem sidePush_wf (s : State) (c : Nat) (q : Nat) (f : Flit) (hw : Wf s) :
    Wf (State.sidePush s c q f) := by
  unfold State.sidePush
  with_reducible repeat' first
    | assumption | intro _ | apply pushChan_wf | apply foldl_wf | apply foldl_pair | apply ite_wf | apply ite_pair
    | apply ite_okR | apply ite_okKv | apply fst_wf | split | (apply of_pair; assumption) | dsimp only | apply pair_wf
    | apply mem_wf | apply mk_wf

theorem deliverFlit_wf (s : State) (c : Nat) (src : Nat) (t : Target) (x : Flit) (hw : Wf s) :
    okDel (State.deliverFlit s c src t x) := by
  unfold State.deliverFlit
  with_reducible repeat' first
    | assumption | intro _ | apply sbAsk_wf | apply sbPutFlit_wf | apply sidePush_wf | apply foldl_wf
    | apply foldl_pair | apply ite_wf | apply ite_pair | apply ite_okR | apply ite_okKv | apply fst_wf
    | apply delWait_ok | apply delBad_ok | apply delSent_ok | split | (apply of_pair; assumption)
    | (apply of_sent; assumption) | (apply of_fst; assumption) | (apply of_delWait; assumption)
    | (apply of_fstWait; assumption) | dsimp only | apply pair_wf | apply mem_wf | apply mk_wf

theorem pendNode_wf (s : State) (c : Nat) (b : Nat) (tval : Word) (hw : Wf s) :
    Wf (State.pendNode s c b tval) := by
  unfold State.pendNode
  with_reducible repeat' first
    | assumption | intro _ | apply modCpOf_wf | apply foldl_wf | apply foldl_pair | apply ite_wf | apply ite_pair
    | apply ite_okR | apply ite_okKv | apply fst_wf | split | (apply of_pair; assumption) | dsimp only | apply pair_wf
    | apply mem_wf | apply mk_wf

theorem postCfgerr_wf (s : State) (c : Nat) (node : Nat) (hw : Wf s) :
    Wf (State.postCfgerr s c node) := by
  unfold State.postCfgerr
  with_reducible repeat' first
    | assumption | intro _ | apply pendNode_wf | apply post_wf | apply foldl_wf | apply foldl_pair | apply ite_wf
    | apply ite_pair | apply ite_okR | apply ite_okKv | apply fst_wf | split | (apply of_pair; assumption)
    | dsimp only | apply pair_wf | apply mem_wf | apply mk_wf

theorem tplBad_wf (s : State) (c : Nat) (n : Nat) (hw : Wf s) :
    Wf (State.tplBad s c n) := by
  unfold State.tplBad
  with_reducible repeat' first
    | assumption | intro _ | apply active_wf | apply postCfgerr_wf | apply setTpl_wf | apply foldl_wf
    | apply foldl_pair | apply ite_wf | apply ite_pair | apply ite_okR | apply ite_okKv | apply fst_wf | split
    | (apply of_pair; assumption) | dsimp only | apply pair_wf | apply mem_wf | apply mk_wf

theorem copyDeliver_wf (s : State) (c : Nat) (n : Nat) (hw : Wf s) :
    Wf (State.copyDeliver s c n) := by
  unfold State.copyDeliver
  with_reducible repeat' first
    | assumption | intro _ | apply deliverBytes_wf | apply deliverFlit_wf | apply setTpl_wf | apply tplBad_wf
    | apply foldl_wf | apply foldl_pair | apply ite_wf | apply ite_pair | apply ite_okR | apply ite_okKv
    | apply fst_wf | split | (apply of_pair; assumption) | (apply of_sent; assumption) | (apply of_fst; assumption)
    | (apply of_delWait; assumption) | (apply of_fstWait; assumption) | dsimp only | apply pair_wf | apply mem_wf
    | apply mk_wf

theorem copyFlits_wf (s : State) (c : Nat) (t : Tpl) (raw : Bool) (p : Nat) (e : RawElem) (hw : Wf s) :
    WfP (State.copyFlits s c t raw p e) := by
  unfold State.copyFlits
  with_reducible repeat' first
    | assumption | intro _ | apply valFlits_wf | apply foldl_wf | apply foldl_pair | apply ite_wf | apply ite_pair
    | apply ite_okR | apply ite_okKv | apply fst_wf | split | (apply of_pair; assumption) | dsimp only | apply pair_wf
    | apply mem_wf | apply mk_wf

theorem issueRead_wf (s : State) (c : Nat) (x : Xfer) (r : Shape) (base : Word) (sys : Bool) (u : Int) (n : Nat)
    (hw : Wf s) :
    okIssue (State.issueRead s c x r base sys u n) := by
  unfold State.issueRead
  with_reducible repeat' first
    | assumption | intro _ | apply issue_wf | apply foldl_wf | apply foldl_pair | apply ite_wf | apply ite_pair
    | apply ite_okR | apply ite_okKv | apply fst_wf | apply issueWait_ok | apply issueFault_ok | apply issueOk_ok
    | split | (apply of_pair; assumption) | (apply of_issueFault; assumption) | (apply of_issueOk; assumption)
    | (apply of_issuedFault; assumption) | (apply of_issuedOk; assumption) | dsimp only | apply pair_wf | apply mem_wf
    | apply mk_wf

theorem copyRead_wf (s : State) (c : Nat) (n : Nat) (hw : Wf s) :
    Wf (State.copyRead s c n) := by
  unfold State.copyRead
  with_reducible repeat' first
    | assumption | intro _ | apply active_wf | apply issueRead_wf | apply setTpl_wf | apply tplFault_wf
    | apply foldl_wf | apply foldl_pair | apply ite_wf | apply ite_pair | apply ite_okR | apply ite_okKv
    | apply fst_wf | split | (apply of_pair; assumption) | (apply of_issueFault; assumption)
    | (apply of_issueOk; assumption) | dsimp only | apply pair_wf | apply mem_wf | apply mk_wf

end Sys2Proof.Laws.Canon
end

