-- ==== Sys2Proof/Laws/Canon2.lean ====
section
/-!
SUPPORT. The memory stays in its canonical form: one lemma per operation, callees first (2 of 5).
-/
namespace Sys2Proof.Laws.Canon

open Sys2Proof Machine

-- One list of alternatives closes every proof, so most alternatives go unused in each.
set_option linter.all false

theorem copyTake_wf (s : State) (c : Nat) (n : Nat) (hw : Wf s) :
    Wf (State.copyTake s c n) := by
  unfold State.copyTake
  with_reducible repeat' first
    | assumption | intro _ | apply active_wf | apply copyFlits_wf | apply setTpl_wf | apply foldl_wf
    | apply foldl_pair | apply ite_wf | apply ite_pair | apply ite_okR | apply ite_okKv | apply fst_wf | split
    | (apply of_pair; assumption) | dsimp only | apply pair_wf | apply mem_wf | apply mk_wf

theorem issueWrite_wf (s : State) (c : Nat) (x : Xfer) (sys : Bool) (pos : Nat) (n : Nat) (l : List Put)
    (hw : Wf s) :
    okIssue (State.issueWrite s c x sys pos n l) := by
  unfold State.issueWrite
  with_reducible repeat' first
    | assumption | intro _ | apply issue_wf | apply foldl_wf | apply foldl_pair | apply ite_wf | apply ite_pair
    | apply ite_okR | apply ite_okKv | apply fst_wf | apply issueWait_ok | apply issueFault_ok | apply issueOk_ok
    | split | (apply of_pair; assumption) | (apply of_issueFault; assumption) | (apply of_issueOk; assumption)
    | (apply of_issuedFault; assumption) | (apply of_issuedOk; assumption) | dsimp only | apply pair_wf | apply mem_wf
    | apply mk_wf

theorem copyWrite_wf (s : State) (c : Nat) (n : Nat) (hw : Wf s) :
    Wf (State.copyWrite s c n) := by
  unfold State.copyWrite
  with_reducible repeat' first
    | assumption | intro _ | apply active_wf | apply issueWrite_wf | apply setTpl_wf | apply tplFault_wf
    | apply foldl_wf | apply foldl_pair | apply ite_wf | apply ite_pair | apply ite_okR | apply ite_okKv
    | apply fst_wf | split | (apply of_pair; assumption) | (apply of_issueFault; assumption)
    | (apply of_issueOk; assumption) | dsimp only | apply pair_wf | apply mem_wf | apply mk_wf

theorem copyStep_wf (s : State) (c : Nat) (n : Nat) (hw : Wf s) :
    Wf (State.copyStep s c n) := by
  unfold State.copyStep
  with_reducible repeat' first
    | assumption | intro _ | apply copyAgain_wf | apply copyDeliver_wf | apply copyRead_wf | apply copyTake_wf
    | apply copyWrite_wf | apply tplBad_wf | apply foldl_wf | apply foldl_pair | apply ite_wf | apply ite_pair
    | apply ite_okR | apply ite_okKv | apply fst_wf | split | (apply of_pair; assumption) | dsimp only | apply pair_wf
    | apply mem_wf | apply mk_wf

theorem dropRecord_wf (s : State) (c : Nat) (k : Nat) (t : BitVec 8) (hw : Wf s) :
    Wf (State.dropRecord s c k t) := by
  unfold State.dropRecord
  with_reducible repeat' first
    | assumption | intro _ | apply modGrid_wf | apply foldl_wf | apply foldl_pair | apply ite_wf | apply ite_pair
    | apply ite_okR | apply ite_okKv | apply fst_wf | split | (apply of_pair; assumption) | dsimp only | apply pair_wf
    | apply mem_wf | apply mk_wf

theorem dropTag_wf (s : State) (c : Nat) (k : Nat) (t : BitVec 8) (hw : Wf s) :
    Wf (State.dropTag s c k t) := by
  unfold State.dropTag
  with_reducible repeat' first
    | assumption | intro _ | apply modChan_wf | apply foldl_wf | apply foldl_pair | apply ite_wf | apply ite_pair
    | apply ite_okR | apply ite_okKv | apply fst_wf | split | (apply of_pair; assumption) | dsimp only | apply pair_wf
    | apply mem_wf | apply mk_wf

theorem setOpState_wf (s : State) (c : Nat) (rt : Nat) (i : Nat) (st : OpState) (hw : Wf s) :
    Wf (State.setOpState s c rt i st) := by
  unfold State.setOpState
  with_reducible repeat' first
    | assumption | intro _ | apply modGrid_wf | apply foldl_wf | apply foldl_pair | apply ite_wf | apply ite_pair
    | apply ite_okR | apply ite_okKv | apply fst_wf | split | (apply of_pair; assumption) | dsimp only | apply pair_wf
    | apply mem_wf | apply mk_wf

theorem setPeSlot_wf (s : State) (c : Nat) (n : Nat) (i : Nat) (p : PeSlot) (hw : Wf s) :
    Wf (State.setPeSlot s c n i p) := by
  unfold State.setPeSlot
  with_reducible repeat' first
    | assumption | intro _ | apply modGrid_wf | apply foldl_wf | apply foldl_pair | apply ite_wf | apply ite_pair
    | apply ite_okR | apply ite_okKv | apply fst_wf | split | (apply of_pair; assumption) | dsimp only | apply pair_wf
    | apply mem_wf | apply mk_wf

theorem initNode_wf (s : State) (c : Nat) (k : Nat) (i : Nat) (f : Frame) (hw : Wf s) :
    Wf (State.initNode s c k i f) := by
  unfold State.initNode
  with_reducible repeat' first
    | assumption | intro _ | apply modCluster_wf | apply modPortq_wf | apply setCtl_wf | apply setOpState_wf
    | apply setPeSlot_wf | apply setPort_wf | apply setSbuf_wf | apply foldl_wf | apply foldl_pair | apply ite_wf
    | apply ite_pair | apply ite_okR | apply ite_okKv | apply fst_wf | split | (apply of_pair; assumption)
    | dsimp only | apply pair_wf | apply mem_wf | apply mk_wf

theorem setPe_wf (s : State) (c : Nat) (n : Nat) (p : Pe) (hw : Wf s) :
    Wf (State.setPe s c n p) := by
  unfold State.setPe
  with_reducible repeat' first
    | assumption | intro _ | apply modGrid_wf | apply foldl_wf | apply foldl_pair | apply ite_wf | apply ite_pair
    | apply ite_okR | apply ite_okKv | apply fst_wf | split | (apply of_pair; assumption) | dsimp only | apply pair_wf
    | apply mem_wf | apply mk_wf

theorem discardTag_wf (s : State) (c : Nat) (k : Nat) (i : Nat) (t : BitVec 8) (hw : Wf s) :
    Wf (State.discardTag s c k i t) := by
  unfold State.discardTag
  with_reducible repeat' first
    | assumption | intro _ | apply dropRecord_wf | apply dropTag_wf | apply initNode_wf | apply modCluster_wf
    | apply modGrid_wf | apply setMx_wf | apply setPe_wf | apply foldl_wf | apply foldl_pair | apply ite_wf
    | apply ite_pair | apply ite_okR | apply ite_okKv | apply fst_wf | split | (apply of_pair; assumption)
    | dsimp only | apply pair_wf | apply mem_wf | apply mk_wf

theorem dropXlats_wf (s : State) (sc : Nat) (c : Nat) (gone : Xlat → Bool) (hw : Wf s) :
    Wf (State.dropXlats s sc c gone) := by
  unfold State.dropXlats
  with_reducible repeat' first
    | assumption | intro _ | apply modCluster_wf | apply modCore_wf | apply foldl_wf | apply foldl_pair | apply ite_wf
    | apply ite_pair | apply ite_okR | apply ite_okKv | apply fst_wf | split | (apply of_pair; assumption)
    | dsimp only | apply pair_wf | apply mem_wf | apply mk_wf

theorem elemFlits_wf (s : State) (c : Nat) (ag : Nat) (x : Stream) (t : Target) (p : Nat) (e : RawElem)
    (hw : Wf s) :
    WfP (State.elemFlits s c ag x t p e) := by
  unfold State.elemFlits
  with_reducible repeat' first
    | assumption | intro _ | apply valFlits_wf | apply foldl_wf | apply foldl_pair | apply ite_wf | apply ite_pair
    | apply ite_okR | apply ite_okKv | apply fst_wf | split | (apply of_pair; assumption) | dsimp only | apply pair_wf
    | apply mem_wf | apply mk_wf

theorem fqPut_wf (s : State) (c : Nat) (n : Nat) (v : Word) (ids : List Nat) (hw : Wf s) :
    Wf (State.fqPut s c n v ids) := by
  unfold State.fqPut
  with_reducible repeat' first
    | assumption | intro _ | apply entryIn_wf | apply modUnits_wf | apply foldl_wf | apply foldl_pair | apply ite_wf
    | apply ite_pair | apply ite_okR | apply ite_okKv | apply fst_wf | split | (apply of_pair; assumption)
    | dsimp only | apply pair_wf | apply mem_wf | apply mk_wf

theorem emitFire_wf (s : State) (c : Nat) (src : Nat) (dst : Nat) (pay : Word) (tag : BitVec 8) (hw : Wf s) :
    okDel (State.emitFire s c src dst pay tag) := by
  unfold State.emitFire
  with_reducible repeat' first
    | assumption | intro _ | apply fqPut_wf | apply sbAsk_wf | apply sbPutFlit_wf | apply foldl_wf | apply foldl_pair
    | apply ite_wf | apply ite_pair | apply ite_okR | apply ite_okKv | apply fst_wf | apply delWait_ok
    | apply delBad_ok | apply delSent_ok | split | (apply of_pair; assumption) | (apply of_sent; assumption)
    | (apply of_fst; assumption) | (apply of_delWait; assumption) | (apply of_fstWait; assumption) | dsimp only
    | apply pair_wf | apply mem_wf | apply mk_wf

theorem endCore_wf (s : State) (c : Nat) (hw : Wf s) :
    Wf (State.endCore s c) := by
  unfold State.endCore
  with_reducible repeat' first
    | assumption | intro _ | apply count_wf | apply modCore_wf | apply foldl_wf | apply foldl_pair | apply ite_wf
    | apply ite_pair | apply ite_okR | apply ite_okKv | apply fst_wf | split | (apply of_pair; assumption)
    | dsimp only | apply pair_wf | apply mem_wf | apply mk_wf

theorem loadStep_wf (s : State) (c : Nat) (id : Nat) (hw : Wf s) :
    Wf (State.loadStep s c id) := by
  unfold State.loadStep
  with_reducible repeat' first
    | assumption | intro _ | apply deliver_wf | apply modGrid_wf | apply foldl_wf | apply foldl_pair | apply ite_wf
    | apply ite_pair | apply ite_okR | apply ite_okKv | apply fst_wf | split | (apply of_pair; assumption)
    | dsimp only | apply pair_wf | apply mem_wf | apply mk_wf

theorem endInstall_wf (s : State) (c : Nat) (i : Nat) (x : Install) (hw : Wf s) :
    Wf (State.endInstall s c i x) := by
  unfold State.endInstall
  with_reducible repeat' first
    | assumption | intro _ | apply loadStep_wf | apply modGrid_wf | apply foldl_wf | apply foldl_pair | apply ite_wf
    | apply ite_pair | apply ite_okR | apply ite_okKv | apply fst_wf | split | (apply of_pair; assumption)
    | dsimp only | apply pair_wf | apply mem_wf | apply mk_wf

theorem placeToken_wf (s : State) (c : Nat) (f : Frame) (p : Nat × Nat) (hw : Wf s) :
    WfP (State.placeToken s c f p) := by
  unfold State.placeToken
  with_reducible repeat' first
    | assumption | intro _ | apply pushFrom_wf | apply foldl_wf | apply foldl_pair | apply ite_wf | apply ite_pair
    | apply ite_okR | apply ite_okKv | apply fst_wf | split | (apply of_pair; assumption) | dsimp only | apply pair_wf
    | apply mem_wf | apply mk_wf

theorem placeTokens_wf (s : State) (c : Nat) (f : Frame) (y3 : List (Nat × Nat)) (hw : Wf s) :
    WfP (State.placeTokens s c f y3) := by
  induction y3 generalizing s c f with
  | nil =>
    first
    | exact hw
    | unfold State.placeTokens
      with_reducible repeat' first
        | assumption | intro _ | apply placeToken_wf | apply foldl_wf | apply foldl_pair | apply ite_wf
        | apply ite_pair | apply ite_okR | apply ite_okKv | apply fst_wf | split | (apply of_pair; assumption)
        | dsimp only | apply pair_wf | apply mem_wf | apply mk_wf
  | cons y l ih =>
    unfold State.placeTokens
    with_reducible repeat' first
      | assumption | intro _ | apply ih | apply placeToken_wf | apply foldl_wf | apply foldl_pair | apply ite_wf
      | apply ite_pair | apply ite_okR | apply ite_okKv | apply fst_wf | split | (apply of_pair; assumption)
      | dsimp only | apply pair_wf | apply mem_wf | apply mk_wf

theorem goOnInstall_wf (s : State) (c : Nat) (i : Nat) (x : Install) (hw : Wf s) :
    Wf (State.goOnInstall s c i x) := by
  unfold State.goOnInstall
  with_reducible repeat' first
    | assumption | intro _ | apply endInstall_wf | apply modGrid_wf | apply placeTokens_wf | apply foldl_wf
    | apply foldl_pair | apply ite_wf | apply ite_pair | apply ite_okR | apply ite_okKv | apply fst_wf | split
    | (apply of_pair; assumption) | dsimp only | apply pair_wf | apply mem_wf | apply mk_wf

theorem installWrite_wf (s : State) (c : Nat) (f : Frame) (hw : Wf s) :
    Wf (State.installWrite s c f) := by
  unfold State.installWrite
  with_reducible repeat' first
    | assumption | intro _ | apply initNode_wf | apply setSlotAt_wf | apply foldl_wf | apply foldl_pair | apply ite_wf
    | apply ite_pair | apply ite_okR | apply ite_okKv | apply fst_wf | split | (apply of_pair; assumption)
    | dsimp only | apply pair_wf | apply mem_wf | apply mk_wf

theorem stepInstall_wf (s : State) (c : Nat) (i : Nat) (x : Install) (hw : Wf s) :
    Wf (State.stepInstall s c i x) := by
  unfold State.stepInstall
  with_reducible repeat' first
    | assumption | intro _ | apply endInstall_wf | apply goOnInstall_wf | apply installWrite_wf | apply foldl_wf
    | apply foldl_pair | apply ite_wf | apply ite_pair | apply ite_okR | apply ite_okKv | apply fst_wf | split
    | (apply of_pair; assumption) | dsimp only | apply pair_wf | apply mem_wf | apply mk_wf

theorem installsOf_wf (s : State) (c : Nat) (kind : InstallKind) (i : Nat) (y4 : Nat) (hw : Wf s) :
    Wf (State.installsOf s c kind i y4) := by
  induction y4 generalizing s c kind i with
  | zero =>
    first
    | exact hw
    | unfold State.installsOf
      with_reducible repeat' first
        | assumption | intro _ | apply stepInstall_wf | apply foldl_wf | apply foldl_pair | apply ite_wf
        | apply ite_pair | apply ite_okR | apply ite_okKv | apply fst_wf | split | (apply of_pair; assumption)
        | dsimp only | apply pair_wf | apply mem_wf | apply mk_wf
  | succ l ih =>
    unfold State.installsOf
    with_reducible repeat' first
      | assumption | intro _ | apply ih | apply stepInstall_wf | apply foldl_wf | apply foldl_pair | apply ite_wf
      | apply ite_pair | apply ite_okR | apply ite_okKv | apply fst_wf | split | (apply of_pair; assumption)
      | dsimp only | apply pair_wf | apply mem_wf | apply mk_wf

theorem installsDue_wf (s : State) (cs : List Nat) (hw : Wf s) :
    Wf (State.installsDue s cs) := by
  unfold State.installsDue
  with_reducible repeat' first
    | assumption | intro _ | apply installsOf_wf | apply foldl_wf | apply foldl_pair | apply ite_wf | apply ite_pair
    | apply ite_okR | apply ite_okKv | apply fst_wf | split | (apply of_pair; assumption) | dsimp only | apply pair_wf
    | apply mem_wf | apply mk_wf

theorem installsMet_wf (s : State) (c : Nat) (hw : Wf s) :
    Wf (State.installsMet s c) := by
  unfold State.installsMet
  with_reducible repeat' first
    | assumption | intro _ | apply modGrid_wf | apply foldl_wf | apply foldl_pair | apply ite_wf | apply ite_pair
    | apply ite_okR | apply ite_okKv | apply fst_wf | split | (apply of_pair; assumption) | dsimp only | apply pair_wf
    | apply mem_wf | apply mk_wf

theorem fqOwed_wf (s : State) (c : Nat) (hw : Wf s) :
    Wf (State.fqOwed s c) := by
  unfold State.fqOwed
  with_reducible repeat' first
    | assumption | intro _ | apply fqPut_wf | apply modUnits_wf | apply foldl_wf | apply foldl_pair | apply ite_wf
    | apply ite_pair | apply ite_okR | apply ite_okKv | apply fst_wf | split | (apply of_pair; assumption)
    | dsimp only | apply pair_wf | apply mem_wf | apply mk_wf

theorem sbRead_wf (s : State) (c : Nat) (f : Frame) (p : Nat) (n : Nat) (hw : Wf s) :
    WfP (State.sbRead s c f p n) := by
  unfold State.sbRead
  with_reducible repeat' first
    | assumption | intro _ | apply eccRead_wf | apply foldl_wf | apply foldl_pair | apply ite_wf | apply ite_pair
    | apply ite_okR | apply ite_okKv | apply fst_wf | split | (apply of_pair; assumption) | dsimp only | apply pair_wf
    | apply mem_wf | apply mk_wf

theorem sbDrop_wf (s : State) (c : Nat) (n : Nat) (i : Nat) (f : Frame) (dst : Nat) (bytes : Nat) (last : Bool)
    (hw : Wf s) :
    Wf (State.sbDrop s c n i f dst bytes last) := by
  unfold State.sbDrop
  with_reducible repeat' first
    | assumption | intro _ | apply movedIn_wf | apply sbRead_wf | apply setSbuf_wf | apply foldl_wf | apply foldl_pair
    | apply ite_wf | apply ite_pair | apply ite_okR | apply ite_okKv | apply fst_wf | split
    | (apply of_pair; assumption) | dsimp only | apply pair_wf | apply mem_wf | apply mk_wf

theorem sbRelease_wf (s : State) (c : Nat) (n : Nat) (i : Nat) (f : Frame) (hw : Wf s) :
    Wf (State.sbRelease s c n i f) := by
  unfold State.sbRelease
  with_reducible repeat' first
    | assumption | intro _ | apply fqOwed_wf | apply modUnits_wf | apply sbDrop_wf | apply setSbuf_wf | apply foldl_wf
    | apply foldl_pair | apply ite_wf | apply ite_pair | apply ite_okR | apply ite_okKv | apply fst_wf | split
    | (apply of_pair; assumption) | dsimp only | apply pair_wf | apply mem_wf | apply mk_wf

theorem sbReleases_wf (s : State) (c : Nat) (hw : Wf s) :
    Wf (State.sbReleases s c) := by
  unfold State.sbReleases
  with_reducible repeat' first
    | assumption | intro _ | apply fqOwed_wf | apply sbRelease_wf | apply foldl_wf | apply foldl_pair | apply ite_wf
    | apply ite_pair | apply ite_okR | apply ite_okKv | apply fst_wf | split | (apply of_pair; assumption)
    | dsimp only | apply pair_wf | apply mem_wf | apply mk_wf

theorem stand_wf (s : State) (i : Instr) (hw : Wf s) :
    okR (State.stand s i) := by
  unfold State.stand
  with_reducible repeat' first
    | assumption | intro _ | apply modCp_wf | apply foldl_wf | apply foldl_pair | apply ite_wf | apply ite_pair
    | apply ite_okR | apply ite_okKv | apply fst_wf | apply next_ok | apply stop_ok | apply refuse_ok | split
    | (apply of_pair; assumption) | (apply of_next; assumption) | dsimp only | apply pair_wf | apply mem_wf
    | apply mk_wf

theorem raise_wf (s : State) (cause : BitVec 6) (tval : Word) (hw : Wf s) :
    okR (State.raise s cause tval) := by
  unfold State.raise
  with_reducible repeat' first
    | assumption | intro _ | apply modCp_wf | apply foldl_wf | apply foldl_pair | apply ite_wf | apply ite_pair
    | apply ite_okR | apply ite_okKv | apply fst_wf | apply next_ok | apply stop_ok | apply refuse_ok | split
    | (apply of_pair; assumption) | (apply of_next; assumption) | dsimp only | apply pair_wf | apply mem_wf
    | apply mk_wf

theorem runForm_wf (s : State) (i : Instr) (g : Guard) (priv : Bool) (srcs : List Src) (k : Result) (hw : Wf s)
    (hr : okR k) :
    okR (runForm s i g priv srcs k) := by
  unfold runForm
  with_reducible repeat' first
    | assumption | intro _ | apply modCp_wf | apply raise_wf | apply foldl_wf | apply foldl_pair | apply ite_wf
    | apply ite_pair | apply ite_okR | apply ite_okKv | apply fst_wf | apply next_ok | apply stop_ok | apply refuse_ok
    | split | (apply of_pair; assumption) | (apply of_next; assumption) | dsimp only | apply pair_wf | apply mem_wf
    | apply mk_wf

theorem execWait_wf (g : Guard) (s : State) (hw : Wf s) :
    okR (execWait g s) := by
  unfold execWait
  with_reducible repeat' first
    | assumption | intro _ | apply complete_wf | apply runForm_wf | apply stand_wf | apply foldl_wf | apply foldl_pair
    | apply ite_wf | apply ite_pair | apply ite_okR | apply ite_okKv | apply fst_wf | apply next_ok | apply stop_ok
    | apply refuse_ok | split | (apply of_pair; assumption) | (apply of_next; assumption) | dsimp only | apply pair_wf
    | apply mem_wf | apply mk_wf

theorem execWaitEnd_wf (c : CoreIx) (s : State) (hw : Wf s) :
    okR (execWaitEnd c s) := by
  unfold execWaitEnd
  with_reducible repeat' first
    | assumption | intro _ | apply atCore_wf | apply execWait_wf | apply foldl_wf | apply foldl_pair | apply ite_wf
    | apply ite_pair | apply ite_okR | apply ite_okKv | apply fst_wf | apply next_ok | apply stop_ok | apply refuse_ok
    | split | (apply of_pair; assumption) | (apply of_next; assumption) | dsimp only | apply pair_wf | apply mem_wf
    | apply mk_wf

theorem nextState_wf (s : State) (y1 : Result) (hw : Wf s) (hr : okR y1) :
    Wf (nextState s y1) := by
  unfold nextState
  split
  · exact hr.of _ rfl
  · exact hw

theorem endDue_wf (s : State) (hw : Wf s) :
    Wf (State.endDue s) := by
  unfold State.endDue
  with_reducible repeat' first
    | assumption | intro _ | apply cancelsDue_wf | apply cfgDue_wf | apply execWaitEnd_wf | apply installsDue_wf
    | apply installsMet_wf | apply nextState_wf | apply sbReleases_wf | apply foldl_wf | apply foldl_pair
    | apply ite_wf | apply ite_pair | apply ite_okR | apply ite_okKv | apply fst_wf | split
    | (apply of_pair; assumption) | (apply of_next; assumption) | dsimp only | apply pair_wf | apply mem_wf
    | apply mk_wf

theorem endEvict_wf (s : State) (c : Nat) (e : EvictCmd) (hw : Wf s) :
    Wf (State.endEvict s c e) := by
  unfold State.endEvict
  with_reducible repeat' first
    | assumption | intro _ | apply deliver_wf | apply modGrid_wf | apply foldl_wf | apply foldl_pair | apply ite_wf
    | apply ite_pair | apply ite_okR | apply ite_okKv | apply fst_wf | split | (apply of_pair; assumption)
    | dsimp only | apply pair_wf | apply mem_wf | apply mk_wf

theorem endPlain_wf (s : State) (k : Nat) (hw : Wf s) :
    Wf (State.endPlain s k) := by
  unfold State.endPlain
  with_reducible repeat' first
    | assumption | intro _ | apply modCluster_wf | apply foldl_wf | apply foldl_pair | apply ite_wf | apply ite_pair
    | apply ite_okR | apply ite_okKv | apply fst_wf | split | (apply of_pair; assumption) | dsimp only | apply pair_wf
    | apply mem_wf | apply mk_wf

theorem failRead_wf (s : State) (c : Nat) (r : CpReq) (f : Fail) (hw : Wf s) :
    Wf (State.failRead s c r f) := by
  unfold State.failRead
  with_reducible repeat' first
    | assumption | intro _ | apply modCpOf_wf | apply foldl_wf | apply foldl_pair | apply ite_wf | apply ite_pair
    | apply ite_okR | apply ite_okKv | apply fst_wf | split | (apply of_pair; assumption) | dsimp only | apply pair_wf
    | apply mem_wf | apply mk_wf

theorem failStore_wf (s : State) (c : Nat) (r : CpReq) (f : Fail) (hw : Wf s) :
    Wf (State.failStore s c r f) := by
  unfold State.failStore
  with_reducible repeat' first
    | assumption | intro _ | apply modCpOf_wf | apply pendTrap_wf | apply foldl_wf | apply foldl_pair | apply ite_wf
    | apply ite_pair | apply ite_okR | apply ite_okKv | apply fst_wf | split | (apply of_pair; assumption)
    | dsimp only | apply pair_wf | apply mem_wf | apply mk_wf

theorem fetchFail_wf (s : State) (c : Nat) (cause : BitVec 6) (hw : Wf s) :
    Wf (State.fetchFail s c cause) := by
  unfold State.fetchFail
  with_reducible repeat' first
    | assumption | intro _ | apply modCpOf_wf | apply post_wf | apply foldl_wf | apply foldl_pair | apply ite_wf
    | apply ite_pair | apply ite_okR | apply ite_okKv | apply fst_wf | split | (apply of_pair; assumption)
    | dsimp only | apply pair_wf | apply mem_wf | apply mk_wf

theorem frameFault_wf (s : State) (c : Nat) (k : Nat) (hw : Wf s) :
    Wf (State.frameFault s c k) := by
  unfold State.frameFault
  with_reducible repeat' first
    | assumption | intro _ | apply pendNode_wf | apply post_wf | apply foldl_wf | apply foldl_pair | apply ite_wf
    | apply ite_pair | apply ite_okR | apply ite_okKv | apply fst_wf | split | (apply of_pair; assumption)
    | dsimp only | apply pair_wf | apply mem_wf | apply mk_wf

theorem withholdTag_wf (s : State) (c : Nat) (k : Nat) (t : BitVec 8) (hw : Wf s) :
    Wf (State.withholdTag s c k t) := by
  unfold State.withholdTag
  with_reducible repeat' first
    | assumption | intro _ | apply modGrid_wf | apply foldl_wf | apply foldl_pair | apply ite_wf | apply ite_pair
    | apply ite_okR | apply ite_okKv | apply fst_wf | split | (apply of_pair; assumption) | dsimp only | apply pair_wf
    | apply mem_wf | apply mk_wf

theorem fireBad_wf (s : State) (c : Nat) (t : FireTok) (hw : Wf s) :
    Wf (State.fireBad s c t) := by
  unfold State.fireBad
  with_reducible repeat' first
    | assumption | intro _ | apply modUnits_wf | apply postCfgerr_wf | apply foldl_wf | apply foldl_pair
    | apply ite_wf | apply ite_pair | apply ite_okR | apply ite_okKv | apply fst_wf | split
    | (apply of_pair; assumption) | dsimp only | apply pair_wf | apply mem_wf | apply mk_wf

theorem streamBad_wf (s : State) (c : Nat) (ag : Nat) (slot : Nat) (hw : Wf s) :
    Wf (State.streamBad s c ag slot) := by
  unfold State.streamBad
  with_reducible repeat' first
    | assumption | intro _ | apply active_wf | apply postCfgerr_wf | apply setStream_wf | apply foldl_wf
    | apply foldl_pair | apply ite_wf | apply ite_pair | apply ite_okR | apply ite_okKv | apply fst_wf | split
    | (apply of_pair; assumption) | dsimp only | apply pair_wf | apply mem_wf | apply mk_wf

theorem tailBad_wf (s : State) (c : Nat) (t : Tail) (hw : Wf s) :
    Wf (State.tailBad s c t) := by
  unfold State.tailBad
  with_reducible repeat' first
    | assumption | intro _ | apply modUnits_wf | apply postCfgerr_wf | apply foldl_wf | apply foldl_pair
    | apply ite_wf | apply ite_pair | apply ite_okR | apply ite_okKv | apply fst_wf | split
    | (apply of_pair; assumption) | dsimp only | apply pair_wf | apply mem_wf | apply mk_wf

theorem withholdUnits_wf (s : State) (c : Nat) (k : Nat) (t : BitVec 8) (hw : Wf s) :
    Wf (State.withholdUnits s c k t) := by
  unfold State.withholdUnits
  with_reducible repeat' first
    | assumption | intro _ | apply fireBad_wf | apply streamBad_wf | apply tailBad_wf | apply tplBad_wf
    | apply foldl_wf | apply foldl_pair | apply ite_wf | apply ite_pair | apply ite_okR | apply ite_okKv
    | apply fst_wf | split | (apply of_pair; assumption) | dsimp only | apply pair_wf | apply mem_wf | apply mk_wf

theorem fillFault_wf (s : State) (c : Nat) (k : Nat) (t : BitVec 8) (hw : Wf s) :
    Wf (State.fillFault s c k t) := by
  unfold State.fillFault
  with_reducible repeat' first
    | assumption | intro _ | apply frameFault_wf | apply pendNode_wf | apply withholdTag_wf | apply withholdUnits_wf
    | apply foldl_wf | apply foldl_pair | apply ite_wf | apply ite_pair | apply ite_okR | apply ite_okKv
    | apply fst_wf | split | (apply of_pair; assumption) | dsimp only | apply pair_wf | apply mem_wf | apply mk_wf

theorem fillPage_wf (s : State) (c : Nat) (hw : Wf s) :
    Wf (State.fillPage s c) := by
  unfold State.fillPage
  with_reducible repeat' first
    | assumption | intro _ | apply eccRead_wf | apply fetchFail_wf | apply modCore_wf | apply translate_wf
    | apply foldl_wf | apply foldl_pair | apply ite_wf | apply ite_pair | apply ite_okR | apply ite_okKv
    | apply fst_wf | split | (apply of_pair; assumption) | dsimp only | apply pair_wf | apply mem_wf | apply mk_wf

theorem flownPerform_wf (s : State) (c : Nat) (orig : Nat) (w3 : Word) (l : List Flown) (id : Nat) (j : Nat)
    (hw : Wf s) :
    okOptPair (State.flownPerform s c orig w3 l id j) := by
  unfold State.flownPerform
  with_reducible repeat' first
    | assumption | intro _ | apply unitPerform_wf | apply foldl_wf | apply foldl_pair | apply ite_wf | apply ite_pair
    | apply ite_okR | apply ite_okKv | apply fst_wf | apply somePair_ok | apply nonePair_ok | split
    | (apply of_pair; assumption) | (apply of_somePair; assumption) | (apply of_someFst; assumption) | dsimp only
    | apply pair_wf | apply mem_wf | apply mk_wf

theorem outPush_wf (s : State) (c : Nat) (rt : Nat) (f : Flit) (src : Option (Nat × BitVec 8 × BitVec 8))
    (o : Nat) (hw : Wf s) :
    Wf (State.outPush s c rt f src o) := by
  unfold State.outPush
  with_reducible repeat' first
    | assumption | intro _ | apply pushFrom_wf | apply foldl_wf | apply foldl_pair | apply ite_wf | apply ite_pair
    | apply ite_okR | apply ite_okKv | apply fst_wf | split | (apply of_pair; assumption) | dsimp only | apply pair_wf
    | apply mem_wf | apply mk_wf

theorem forward_wf (s : State) (c : Nat) (rt : Nat) (kk : Nat) (f : Flit) (outs : List Nat) (hw : Wf s) :
    Wf (State.forward s c rt kk f outs) := by
  unfold State.forward
  with_reducible repeat' first
    | assumption | intro _ | apply modGrid_wf | apply outPush_wf | apply popChan_wf | apply foldl_wf
    | apply foldl_pair | apply ite_wf | apply ite_pair | apply ite_okR | apply ite_okKv | apply fst_wf | split
    | (apply of_pair; assumption) | dsimp only | apply pair_wf | apply mem_wf | apply mk_wf

theorem grantTo_wf (s : State) (c : Nat) (rt : Nat) (k : Nat) (hw : Wf s) :
    Wf (State.grantTo s c rt k) := by
  unfold State.grantTo
  with_reducible repeat' first
    | assumption | intro _ | apply modGrid_wf | apply foldl_wf | apply foldl_pair | apply ite_wf | apply ite_pair
    | apply ite_okR | apply ite_okKv | apply fst_wf | split | (apply of_pair; assumption) | dsimp only | apply pair_wf
    | apply mem_wf | apply mk_wf

theorem forwardInput_wf (c : Nat) (rt : Nat) (s : State) (k : Nat) (hw : Wf s) :
    Wf (State.forwardInput c rt s k) := by
  unfold State.forwardInput
  with_reducible repeat' first
    | assumption | intro _ | apply forward_wf | apply grantTo_wf | apply foldl_wf | apply foldl_pair | apply ite_wf
    | apply ite_pair | apply ite_okR | apply ite_okKv | apply fst_wf | split | (apply of_pair; assumption)
    | dsimp only | apply pair_wf | apply mem_wf | apply mk_wf

theorem fqDrop_wf (s : State) (c : Nat) (n : Nat) (hw : Wf s) :
    Wf (State.fqDrop s c n) := by
  unfold State.fqDrop
  with_reducible repeat' first
    | assumption | intro _ | apply active_wf | apply modUnits_wf | apply foldl_wf | apply foldl_pair | apply ite_wf
    | apply ite_pair | apply ite_okR | apply ite_okKv | apply fst_wf | split | (apply of_pair; assumption)
    | dsimp only | apply pair_wf | apply mem_wf | apply mk_wf

theorem freeCores_wf (s : State) (cs : List Nat) (hw : Wf s) :
    Wf (State.freeCores s cs) := by
  unfold State.freeCores
  with_reducible repeat' first
    | assumption | intro _ | apply modCluster_wf | apply modCore_wf | apply foldl_wf | apply foldl_pair | apply ite_wf
    | apply ite_pair | apply ite_okR | apply ite_okKv | apply fst_wf | split | (apply of_pair; assumption)
    | dsimp only | apply pair_wf | apply mem_wf | apply mk_wf

theorem imageFixed_wf (s : State) (c : Nat) (hw : Wf s) :
    Wf (State.imageFixed s c) := by
  unfold State.imageFixed
  with_reducible repeat' first
    | assumption | intro _ | apply correctHalf_wf | apply modDie_wf | apply foldl_wf | apply foldl_pair | apply ite_wf
    | apply ite_pair | apply ite_okR | apply ite_okKv | apply fst_wf | split | (apply of_pair; assumption)
    | dsimp only | apply pair_wf | apply mem_wf | apply mk_wf

theorem saved_wf (s : State) (ws : List Wave) (v : Word) (hw : Wf s) :
    Wf (State.saved s ws v) := by
  unfold State.saved
  with_reducible repeat' first
    | assumption | intro _ | apply deliver_wf | apply foldl_wf | apply foldl_pair | apply ite_wf | apply ite_pair
    | apply ite_okR | apply ite_okKv | apply fst_wf | split | (apply of_pair; assumption) | dsimp only | apply pair_wf
    | apply mem_wf | apply mk_wf

theorem freezeTask_wf (s : State) (d : Nat) (w : Wave) (hw : Wf s) :
    Wf (State.freezeTask s d w) := by
  unfold State.freezeTask
  with_reducible repeat' first
    | assumption | intro _ | apply freeCores_wf | apply imageFixed_wf | apply modDie_wf | apply saved_wf
    | apply writeBytes_wf | apply foldl_wf | apply foldl_pair | apply ite_wf | apply ite_pair | apply ite_okR
    | apply ite_okKv | apply fst_wf | split | (apply of_pair; assumption) | dsimp only | apply pair_wf | apply mem_wf
    | apply mk_wf

theorem frzReply_wf (s : State) (srcs : List Src) (d : Reg) (v : Word) (hw : Wf s) :
    okR (State.frzReply s srcs d v) := by
  unfold State.frzReply
  with_reducible repeat' first
    | assumption | intro _ | apply deliver_wf | apply posted_wf | apply foldl_wf | apply foldl_pair | apply ite_wf
    | apply ite_pair | apply ite_okR | apply ite_okKv | apply fst_wf | apply next_ok | apply stop_ok | apply refuse_ok
    | split | (apply of_pair; assumption) | (apply of_next; assumption) | dsimp only | apply pair_wf | apply mem_wf
    | apply mk_wf

theorem giveVerdict_wf (s : State) (c : Nat) (v : BitVec 2) (hw : Wf s) :
    Wf (State.giveVerdict s c v) := by
  unfold State.giveVerdict
  with_reducible repeat' first
    | assumption | intro _ | apply count_wf | apply modCpOf_wf | apply foldl_wf | apply foldl_pair | apply ite_wf
    | apply ite_pair | apply ite_okR | apply ite_okKv | apply fst_wf | split | (apply of_pair; assumption)
    | dsimp only | apply pair_wf | apply mem_wf | apply mk_wf

theorem giveDeadlock_wf (s : State) (c : Nat) (hw : Wf s) :
    Wf (State.giveDeadlock s c) := by
  unfold State.giveDeadlock
  with_reducible repeat' first
    | assumption | intro _ | apply giveVerdict_wf | apply modGrid_wf | apply post_wf | apply foldl_wf
    | apply foldl_pair | apply ite_wf | apply ite_pair | apply ite_okR | apply ite_okKv | apply fst_wf | split
    | (apply of_pair; assumption) | dsimp only | apply pair_wf | apply mem_wf | apply mk_wf

theorem homeRead_wf (s : State) (pa : Nat) (n : Nat) (hw : Wf s) :
    WfP (State.homeRead s pa n) := by
  unfold State.homeRead
  with_reducible repeat' first
    | assumption | intro _ | apply eccRead_wf | apply foldl_wf | apply foldl_pair | apply ite_wf | apply ite_pair
    | apply ite_okR | apply ite_okKv | apply fst_wf | split | (apply of_pair; assumption) | dsimp only | apply pair_wf
    | apply mem_wf | apply mk_wf

theorem homeRefuses_wf (s : State) (pa : Nat) (hw : Wf s) :
    Wf (State.homeRefuses s pa) := by
  unfold State.homeRefuses
  with_reducible repeat' first
    | assumption | intro _ | apply post_wf | apply foldl_wf | apply foldl_pair | apply ite_wf | apply ite_pair
    | apply ite_okR | apply ite_okKv | apply fst_wf | split | (apply of_pair; assumption) | dsimp only | apply pair_wf
    | apply mem_wf | apply mk_wf

theorem execFqpop_wf (d : DieIx) (s : State) (hw : Wf s) :
    okR (execFqpop d s) := by
  unfold execFqpop
  with_reducible repeat' first
    | assumption | intro _ | apply modDie_wf | apply foldl_wf | apply foldl_pair | apply ite_wf | apply ite_pair
    | apply ite_okR | apply ite_okKv | apply fst_wf | apply next_ok | apply stop_ok | apply refuse_ok | split
    | (apply of_pair; assumption) | (apply of_next; assumption) | dsimp only | apply pair_wf | apply mem_wf
    | apply mk_wf

theorem execFzareaWrite_wf (d : DieIx) (v : Word) (s : State) (hw : Wf s) :
    okR (execFzareaWrite d v s) := by
  unfold execFzareaWrite
  with_reducible repeat' first
    | assumption | intro _ | apply modDie_wf | apply foldl_wf | apply foldl_pair | apply ite_wf | apply ite_pair
    | apply ite_okR | apply ite_okKv | apply fst_wf | apply next_ok | apply stop_ok | apply refuse_ok | split
    | (apply of_pair; assumption) | (apply of_next; assumption) | dsimp only | apply pair_wf | apply mem_wf
    | apply mk_wf

theorem kvBound_wf (s : State) (pa : Nat) (hw : Wf s) :
    Wf (State.kvBound s pa) := by
  unfold State.kvBound
  with_reducible repeat' first
    | assumption | intro _ | apply post_wf | apply foldl_wf | apply foldl_pair | apply ite_wf | apply ite_pair
    | apply ite_okR | apply ite_okKv | apply fst_wf | split | (apply of_pair; assumption) | dsimp only | apply pair_wf
    | apply mem_wf | apply mk_wf

theorem writeNat_wf (s : State) (pa : Nat) (n : Nat) (v : Nat) (hw : Wf s) :
    Wf (State.writeNat s pa n v) := by
  unfold State.writeNat
  with_reducible repeat' first
    | assumption | intro _ | apply writeBytes_wf | apply foldl_wf | apply foldl_pair | apply ite_wf | apply ite_pair
    | apply ite_okR | apply ite_okKv | apply fst_wf | split | (apply of_pair; assumption) | dsimp only | apply pair_wf
    | apply mem_wf | apply mk_wf

theorem kvWrite_wf (s : State) (pa : Nat) (n : Nat) (v : Nat) (hw : Wf s) :
    Wf (State.kvWrite s pa n v) := by
  unfold State.kvWrite
  with_reducible repeat' first
    | assumption | intro _ | apply homeRefuses_wf | apply kvBound_wf | apply writeNat_wf | apply foldl_wf
    | apply foldl_pair | apply ite_wf | apply ite_pair | apply ite_okR | apply ite_okKv | apply fst_wf | split
    | (apply of_pair; assumption) | dsimp only | apply pair_wf | apply mem_wf | apply mk_wf

theorem modKv_wf (s : State) (d : Nat) (f : KvDie → KvDie) (hw : Wf s) :
    Wf (State.modKv s d f) := by
  unfold State.modKv
  with_reducible repeat' first
    | assumption | intro _ | apply modDie_wf | apply foldl_wf | apply foldl_pair | apply ite_wf | apply ite_pair
    | apply ite_okR | apply ite_okKv | apply fst_wf | split | (apply of_pair; assumption) | dsimp only | apply pair_wf
    | apply mem_wf | apply mk_wf

theorem kvRefill_wf (s : State) (d : Nat) (hw : Wf s) :
    Wf (State.kvRefill s d) := by
  unfold State.kvRefill
  exact foldl_wf _ _ (fun u a h => kvWrite_wf u _ _ _ h) _
    (foldl_wf _ _ (fun u a h => kvWrite_wf u _ _ _ h) _ (modKv_wf s _ _ hw))

theorem kvTouch_wf (s : State) (pa : Nat) (n : Nat) (hw : Wf s) :
    Wf (State.kvTouch s pa n) := by
  unfold State.kvTouch
  with_reducible repeat' first
    | assumption | intro _ | apply eccRead_wf | apply kvBound_wf | apply foldl_wf | apply foldl_pair | apply ite_wf
    | apply ite_pair | apply ite_okR | apply ite_okKv | apply fst_wf | split | (apply of_pair; assumption)
    | dsimp only | apply pair_wf | apply mem_wf | apply mk_wf

theorem kvScan_wf (s : State) (d : Nat) (q : Nat) (hw : Wf s) :
    Wf (State.kvScan s d q) := by
  unfold State.kvScan
  with_reducible repeat' first
    | assumption | intro _ | apply kvTouch_wf | apply foldl_wf | apply foldl_pair | apply ite_wf | apply ite_pair
    | apply ite_okR | apply ite_okKv | apply fst_wf | split | (apply of_pair; assumption) | dsimp only | apply pair_wf
    | apply mem_wf | apply mk_wf

theorem kvScanAll_wf (s : State) (hw : Wf s) :
    Wf (State.kvScanAll s) := by
  unfold State.kvScanAll
  with_reducible repeat' first
    | assumption | intro _ | apply kvScan_wf | apply foldl_wf | apply foldl_pair | apply ite_wf | apply ite_pair
    | apply ite_okR | apply ite_okKv | apply fst_wf | split | (apply of_pair; assumption) | dsimp only | apply pair_wf
    | apply mem_wf | apply mk_wf

theorem execKvPoolWrite_wf (d : DieIx) (r : KvPoolReg) (v : Word) (s : State) (hw : Wf s) :
    okR (execKvPoolWrite d r v s) := by
  unfold execKvPoolWrite
  with_reducible repeat' first
    | assumption | intro _ | apply kvRefill_wf | apply kvScanAll_wf | apply modKv_wf | apply foldl_wf
    | apply foldl_pair | apply ite_wf | apply ite_pair | apply ite_okR | apply ite_okKv | apply fst_wf | apply next_ok
    | apply stop_ok | apply refuse_ok | split | (apply of_pair; assumption) | (apply of_next; assumption) | dsimp only
    | apply pair_wf | apply mem_wf | apply mk_wf

theorem execRegisterWrite_wf (r : PlainReg) (v : Word) (s : State) (hw : Wf s) :
    okR (execRegisterWrite r v s) := by
  unfold execRegisterWrite
  with_reducible repeat' first
    | assumption | intro _ | apply modDie_wf | apply foldl_wf | apply foldl_pair | apply ite_wf | apply ite_pair
    | apply ite_okR | apply ite_okKv | apply fst_wf | apply next_ok | apply stop_ok | apply refuse_ok | split
    | (apply of_pair; assumption) | (apply of_next; assumption) | dsimp only | apply pair_wf | apply mem_wf
    | apply mk_wf

theorem execTaskCounterWrite_wf (d : DieIx) (t : Fin 1024) (v : BitVec 32) (s : State) (hw : Wf s) :
    okR (execTaskCounterWrite d t v s) := by
  unfold execTaskCounterWrite
  with_reducible repeat' first
    | assumption | intro _ | apply modDie_wf | apply foldl_wf | apply foldl_pair | apply ite_wf | apply ite_pair
    | apply ite_okR | apply ite_okKv | apply fst_wf | apply next_ok | apply stop_ok | apply refuse_ok | split
    | (apply of_pair; assumption) | (apply of_next; assumption) | dsimp only | apply pair_wf | apply mem_wf
    | apply mk_wf

theorem mregWrite_wf (s : State) (d : Nat) (r : MReg) (v : Word) (hw : Wf s) :
    Wf (State.mregWrite s d r v) := by
  unfold State.mregWrite
  with_reducible repeat' first
    | assumption | intro _ | apply execFqpop_wf | apply execFzareaWrite_wf | apply execKvPoolWrite_wf
    | apply execRegisterWrite_wf | apply execTaskCounterWrite_wf | apply modDie_wf | apply nextState_wf
    | apply foldl_wf | apply foldl_pair | apply ite_wf | apply ite_pair | apply ite_okR | apply ite_okKv
    | apply fst_wf | split | (apply of_pair; assumption) | (apply of_next; assumption) | dsimp only | apply pair_wf
    | apply mem_wf | apply mk_wf

theorem mmioWrite_wf (s : State) (d : Nat) (o : Nat) (n : Nat) (v : Nat) (hw : Wf s) :
    Wf (State.mmioWrite s d o n v) := by
  unfold State.mmioWrite
  with_reducible repeat' first
    | assumption | intro _ | apply mregWrite_wf | apply foldl_wf | apply foldl_pair | apply ite_wf | apply ite_pair
    | apply ite_okR | apply ite_okKv | apply fst_wf | split | (apply of_pair; assumption) | dsimp only | apply pair_wf
    | apply mem_wf | apply mk_wf

theorem homeWrite_wf (s : State) (pa : Nat) (bs : List Byte) (hw : Wf s) :
    Wf (State.homeWrite s pa bs) := by
  unfold State.homeWrite
  with_reducible repeat' first
    | assumption | intro _ | apply mmioWrite_wf | apply writeBytes_wf | apply foldl_wf | apply foldl_pair
    | apply ite_wf | apply ite_pair | apply ite_okR | apply ite_okKv | apply fst_wf | split
    | (apply of_pair; assumption) | dsimp only | apply pair_wf | apply mem_wf | apply mk_wf

theorem execTqFirstHalfWrite_wf (d : DieIx) (q : Fin 16) (v : BitVec 512) (s : State) (hw : Wf s) :
    okR (execTqFirstHalfWrite d q v s) := by
  unfold execTqFirstHalfWrite
  with_reducible repeat' first
    | assumption | intro _ | apply modDie_wf | apply foldl_wf | apply foldl_pair | apply ite_wf | apply ite_pair
    | apply ite_okR | apply ite_okKv | apply fst_wf | apply next_ok | apply stop_ok | apply refuse_ok | split
    | (apply of_pair; assumption) | (apply of_next; assumption) | dsimp only | apply pair_wf | apply mem_wf
    | apply mk_wf

theorem execTqSecondHalfWrite_wf (d : DieIx) (q : Fin 16) (v : BitVec 512) (s : State) (hw : Wf s) :
    okR (execTqSecondHalfWrite d q v s) := by
  unfold execTqSecondHalfWrite
  with_reducible repeat' first
    | assumption | intro _ | apply modDie_wf | apply foldl_wf | apply foldl_pair | apply ite_wf | apply ite_pair
    | apply ite_okR | apply ite_okKv | apply fst_wf | apply next_ok | apply stop_ok | apply refuse_ok | split
    | (apply of_pair; assumption) | (apply of_next; assumption) | dsimp only | apply pair_wf | apply mem_wf
    | apply mk_wf

theorem hostMmioWrite_wf (s : State) (d : Nat) (o : Nat) (bs : List Byte) (hw : Wf s) :
    Wf (State.hostMmioWrite s d o bs) := by
  unfold State.hostMmioWrite
  with_reducible repeat' first
    | assumption | intro _ | apply execTqFirstHalfWrite_wf | apply execTqSecondHalfWrite_wf | apply mmioWrite_wf
    | apply mregWrite_wf | apply nextState_wf | apply foldl_wf | apply foldl_pair | apply ite_wf | apply ite_pair
    | apply ite_okR | apply ite_okKv | apply fst_wf | split | (apply of_pair; assumption)
    | (apply of_next; assumption) | dsimp only | apply pair_wf | apply mem_wf | apply mk_wf

theorem inDeliver_wf (s : State) (c : Nat) (ag : Nat) (slot : Nat) (hw : Wf s) :
    Wf (State.inDeliver s c ag slot) := by
  unfold State.inDeliver
  with_reducible repeat' first
    | assumption | intro _ | apply deliverBytes_wf | apply deliverFlit_wf | apply setStream_wf | apply streamBad_wf
    | apply foldl_wf | apply foldl_pair | apply ite_wf | apply ite_pair | apply ite_okR | apply ite_okKv
    | apply fst_wf | split | (apply of_pair; assumption) | (apply of_sent; assumption) | (apply of_fst; assumption)
    | (apply of_delWait; assumption) | (apply of_fstWait; assumption) | dsimp only | apply pair_wf | apply mem_wf
    | apply mk_wf

theorem inIssued_wf (s : State) (c : Nat) (ag : Nat) (slot : Nat) (n : Nat) (x : Stream) (y : Xfer) (hw : Wf s) :
    Wf (State.inIssued s c ag slot n x y) := by
  unfold State.inIssued
  with_reducible repeat' first
    | assumption | intro _ | apply active_wf | apply count_wf | apply setStream_wf | apply foldl_wf | apply foldl_pair
    | apply ite_wf | apply ite_pair | apply ite_okR | apply ite_okKv | apply fst_wf | split
    | (apply of_pair; assumption) | dsimp only | apply pair_wf | apply mem_wf | apply mk_wf

theorem sbAskPop_wf (s : State) (c : Nat) (n : Nat) (i : Nat) (dst : Nat) (hw : Wf s) :
    Wf (State.sbAskPop s c n i dst) := by
  unfold State.sbAskPop
  with_reducible repeat' first
    | assumption | intro _ | apply setSbuf_wf | apply foldl_wf | apply foldl_pair | apply ite_wf | apply ite_pair
    | apply ite_okR | apply ite_okKv | apply fst_wf | split | (apply of_pair; assumption) | dsimp only | apply pair_wf
    | apply mem_wf | apply mk_wf

theorem sbDropFlit_wf (s : State) (c : Nat) (n : Nat) (i : Nat) (f : Frame) (dst : Nat) (x : Flit) (hw : Wf s) :
    Wf (State.sbDropFlit s c n i f dst x) := by
  unfold State.sbDropFlit
  with_reducible repeat' first
    | assumption | intro _ | apply modGrid_wf | apply sbDrop_wf | apply foldl_wf | apply foldl_pair | apply ite_wf
    | apply ite_pair | apply ite_okR | apply ite_okKv | apply fst_wf | split | (apply of_pair; assumption)
    | dsimp only | apply pair_wf | apply mem_wf | apply mk_wf

theorem popIndex_wf (s : State) (c : Nat) (ag : Nat) (slot : Nat) (hw : Wf s) :
    Wf (State.popIndex s c ag slot) := by
  unfold State.popIndex
  with_reducible repeat' first
    | assumption | intro _ | apply sbAskPop_wf | apply sbDropFlit_wf | apply setStream_wf | apply streamBad_wf
    | apply foldl_wf | apply foldl_pair | apply ite_wf | apply ite_pair | apply ite_okR | apply ite_okKv
    | apply fst_wf | split | (apply of_pair; assumption) | dsimp only | apply pair_wf | apply mem_wf | apply mk_wf

theorem streamFault_wf (s : State) (c : Nat) (ag : Nat) (slot : Nat) (n : Nat) (f : Fail) (hw : Wf s) :
    Wf (State.streamFault s c ag slot n f) := by
  unfold State.streamFault
  with_reducible repeat' first
    | assumption | intro _ | apply active_wf | apply post_wf | apply setStream_wf | apply foldl_wf | apply foldl_pair
    | apply ite_wf | apply ite_pair | apply ite_okR | apply ite_okKv | apply fst_wf | split
    | (apply of_pair; assumption) | dsimp only | apply pair_wf | apply mem_wf | apply mk_wf

theorem inRead_wf (s : State) (c : Nat) (ag : Nat) (slot : Nat) (hw : Wf s) :
    Wf (State.inRead s c ag slot) := by
  unfold State.inRead
  with_reducible repeat' first
    | assumption | intro _ | apply inIssued_wf | apply issueRead_wf | apply popIndex_wf | apply streamFault_wf
    | apply foldl_wf | apply foldl_pair | apply ite_wf | apply ite_pair | apply ite_okR | apply ite_okKv
    | apply fst_wf | split | (apply of_pair; assumption) | (apply of_issueFault; assumption)
    | (apply of_issueOk; assumption) | dsimp only | apply pair_wf | apply mem_wf | apply mk_wf

theorem takeElem_wf (s : State) (c : Nat) (ag : Nat) (slot : Nat) (t : Target) (f : Flown) (hw : Wf s) :
    Wf (State.takeElem s c ag slot t f) := by
  unfold State.takeElem
  with_reducible repeat' first
    | assumption | intro _ | apply active_wf | apply elemFlits_wf | apply setStream_wf | apply foldl_wf
    | apply foldl_pair | apply ite_wf | apply ite_pair | apply ite_okR | apply ite_okKv | apply fst_wf | split
    | (apply of_pair; assumption) | dsimp only | apply pair_wf | apply mem_wf | apply mk_wf

theorem inTake_wf (s : State) (c : Nat) (ag : Nat) (slot : Nat) (hw : Wf s) :
    Wf (State.inTake s c ag slot) := by
  unfold State.inTake
  with_reducible repeat' first
    | assumption | intro _ | apply setStream_wf | apply streamBad_wf | apply takeElem_wf | apply foldl_wf
    | apply foldl_pair | apply ite_wf | apply ite_pair | apply ite_okR | apply ite_okKv | apply fst_wf | split
    | (apply of_pair; assumption) | dsimp only | apply pair_wf | apply mem_wf | apply mk_wf

theorem streamAgain_wf (s : State) (c : Nat) (ag : Nat) (slot : Nat) (f : Flown) (hw : Wf s) :
    Wf (State.streamAgain s c ag slot f) := by
  unfold State.streamAgain
  with_reducible repeat' first
    | assumption | intro _ | apply active_wf | apply issueAgain_wf | apply setStream_wf | apply streamFault_wf
    | apply foldl_wf | apply foldl_pair | apply ite_wf | apply ite_pair | apply ite_okR | apply ite_okKv
    | apply fst_wf | split | (apply of_pair; assumption) | (apply of_issueFault; assumption)
    | (apply of_issueOk; assumption) | dsimp only | apply pair_wf | apply mem_wf | apply mk_wf

theorem inStep_wf (s : State) (c : Nat) (ag : Nat) (slot : Nat) (hw : Wf s) :
    Wf (State.inStep s c ag slot) := by
  unfold State.inStep
  with_reducible repeat' first
    | assumption | intro _ | apply inDeliver_wf | apply inRead_wf | apply inTake_wf | apply streamAgain_wf
    | apply foldl_wf | apply foldl_pair | apply ite_wf | apply ite_pair | apply ite_okR | apply ite_okKv
    | apply fst_wf | split | (apply of_pair; assumption) | dsimp only | apply pair_wf | apply mem_wf | apply mk_wf

theorem inTakeAll_wf (s : State) (c : Nat) (ag : Nat) (slot : Nat) (hw : Wf s) :
    Wf (State.inTakeAll s c ag slot) := by
  unfold State.inTakeAll
  with_reducible repeat' first
    | assumption | intro _ | apply takeElem_wf | apply foldl_wf | apply foldl_pair | apply ite_wf | apply ite_pair
    | apply ite_okR | apply ite_okKv | apply fst_wf | split | (apply of_pair; assumption) | dsimp only | apply pair_wf
    | apply mem_wf | apply mk_wf

theorem inbandStep_wf (s : State) (c : Nat) (ag : Nat) (hw : Wf s) :
    Wf (State.inbandStep s c ag) := by
  unfold State.inbandStep
  with_reducible repeat' first
    | assumption | intro _ | apply deliver_wf | apply modGrid_wf | apply sidePush_wf | apply foldl_wf
    | apply foldl_pair | apply ite_wf | apply ite_pair | apply ite_okR | apply ite_okKv | apply fst_wf | split
    | (apply of_pair; assumption) | dsimp only | apply pair_wf | apply mem_wf | apply mk_wf

theorem jobFail_wf (s : State) (j : CollJob) (hw : Wf s) :
    Wf (State.jobFail s j) := by
  unfold State.jobFail
  with_reducible repeat' first
    | assumption | intro _ | apply collFail_wf | apply modStations_wf | apply foldl_wf | apply foldl_pair
    | apply ite_wf | apply ite_pair | apply ite_okR | apply ite_okKv | apply fst_wf | split
    | (apply of_pair; assumption) | dsimp only | apply pair_wf | apply mem_wf | apply mk_wf

theorem memberEnd_wf (s : State) (c : Nat) (i : Nat) (hw : Wf s) :
    Wf (State.memberEnd s c i) := by
  unfold State.memberEnd
  with_reducible repeat' first
    | assumption | intro _ | apply pendTrap_wf | apply post_wf | apply setColl_wf | apply foldl_wf | apply foldl_pair
    | apply ite_wf | apply ite_pair | apply ite_okR | apply ite_okKv | apply fst_wf | split
    | (apply of_pair; assumption) | dsimp only | apply pair_wf | apply mem_wf | apply mk_wf

theorem memberDone_wf (s : State) (j : CollJob) (r : Nat) (c : Nat) (i : Nat) (hw : Wf s) :
    Wf (State.memberDone s j r c i) := by
  unfold State.memberDone
  with_reducible repeat' first
    | assumption | intro _ | apply closeJob_wf | apply memberEnd_wf | apply foldl_wf | apply foldl_pair | apply ite_wf
    | apply ite_pair | apply ite_okR | apply ite_okKv | apply fst_wf | split | (apply of_pair; assumption)
    | dsimp only | apply pair_wf | apply mem_wf | apply mk_wf

theorem jobStep_wf (s : State) (j : CollJob) (t : Arrival) (hw : Wf s) :
    Wf (State.jobStep s j t) := by
  unfold State.jobStep
  with_reducible repeat' first
    | assumption | intro _ | apply collCompute_wf | apply collIssue_wf | apply jobFail_wf | apply memberDone_wf
    | apply setColl_wf | apply setJob_wf | apply foldl_wf | apply foldl_pair | apply ite_wf | apply ite_pair
    | apply ite_okR | apply ite_okKv | apply fst_wf | split | (apply of_pair; assumption) | dsimp only | apply pair_wf
    | apply mem_wf | apply mk_wf

theorem kvMove_wf (s : State) (e : Nat) (d : Nat) (n : Nat) (hw : Wf s) :
    Wf (State.kvMove s e d n) := by
  unfold State.kvMove
  with_reducible repeat' first
    | assumption | intro _ | apply modKv_wf | apply foldl_wf | apply foldl_pair | apply ite_wf | apply ite_pair
    | apply ite_okR | apply ite_okKv | apply fst_wf | split | (apply of_pair; assumption) | dsimp only | apply pair_wf
    | apply mem_wf | apply mk_wf

theorem kvBorrow_wf (s : State) (d : Nat) (hw : Wf s) :
    Wf (State.kvBorrow s d) := by
  unfold State.kvBorrow
  with_reducible repeat' first
    | assumption | intro _ | apply kvMove_wf | apply foldl_wf | apply foldl_pair | apply ite_wf | apply ite_pair
    | apply ite_okR | apply ite_okKv | apply fst_wf | split | (apply of_pair; assumption) | dsimp only | apply pair_wf
    | apply mem_wf | apply mk_wf

theorem kvReturn_wf (s : State) (page : Nat) (hw : Wf s) :
    Wf (State.kvReturn s page) := by
  unfold State.kvReturn
  with_reducible repeat' first
    | assumption | intro _ | apply modKv_wf | apply foldl_wf | apply foldl_pair | apply ite_wf | apply ite_pair
    | apply ite_okR | apply ite_okKv | apply fst_wf | split | (apply of_pair; assumption) | dsimp only | apply pair_wf
    | apply mem_wf | apply mk_wf

theorem kvDrop_wf (s : State) (page : Nat) (hw : Wf s) :
    WfP (State.kvDrop s page) := by
  unfold State.kvDrop
  with_reducible repeat' first
    | assumption | intro _ | apply kvReturn_wf | apply kvTouch_wf | apply kvWrite_wf | apply foldl_wf
    | apply foldl_pair | apply ite_wf | apply ite_pair | apply ite_okR | apply ite_okKv | apply fst_wf | split
    | (apply of_pair; assumption) | dsimp only | apply pair_wf | apply mem_wf | apply mk_wf

theorem kvHold_wf (s : State) (h : KvHold) (on : Bool) (hw : Wf s) :
    Wf (State.kvHold s h on) := by
  unfold State.kvHold
  with_reducible repeat' first
    | assumption | intro _ | apply foldl_wf | apply foldl_pair | apply ite_wf | apply ite_pair | apply ite_okR
    | apply ite_okKv | apply fst_wf | split | (apply of_pair; assumption) | dsimp only | apply pair_wf | apply mem_wf
    | apply mk_wf

theorem kvRemove_wf (s : State) (i : Nat) (hw : Wf s) :
    Wf (State.kvRemove s i) := by
  unfold State.kvRemove
  with_reducible repeat' first
    | assumption | intro _ | apply foldl_wf | apply foldl_pair | apply ite_wf | apply ite_pair | apply ite_okR
    | apply ite_okKv | apply fst_wf | split | (apply of_pair; assumption) | dsimp only | apply pair_wf | apply mem_wf
    | apply mk_wf

theorem kvFinish_wf (s : State) (i : Nat) (r : KvReq) (v : Word) (error : Bool) (hw : Wf s) :
    Wf (State.kvFinish s i r v error) := by
  unfold State.kvFinish
  with_reducible repeat' first
    | assumption | intro _ | apply deliver_wf | apply kvHold_wf | apply kvRemove_wf | apply pendTrap_wf
    | apply foldl_wf | apply foldl_pair | apply ite_wf | apply ite_pair | apply ite_okR | apply ite_okKv
    | apply fst_wf | split | (apply of_pair; assumption) | dsimp only | apply pair_wf | apply mem_wf | apply mk_wf

theorem kvUnmap_wf (s : State) (d : Nat) (q : Nat) (b : Nat) (hw : Wf s) :
    WfP (State.kvUnmap s d q b) := by
  unfold State.kvUnmap
  with_reducible repeat' first
    | assumption | intro _ | apply kvDrop_wf | apply kvWrite_wf | apply foldl_wf | apply foldl_pair | apply ite_wf
    | apply ite_pair | apply ite_okR | apply ite_okKv | apply fst_wf | split | (apply of_pair; assumption)
    | dsimp only | apply pair_wf | apply mem_wf | apply mk_wf

theorem kvFreeAll_wf (s : State) (r : KvReq) (hw : Wf s) :
    okKv (State.kvFreeAll s r) := by
  unfold State.kvFreeAll
  with_reducible repeat' first
    | assumption | intro _ | apply kvScan_wf | apply kvUnmap_wf | apply foldl_wf | apply foldl_pair | apply ite_wf
    | apply ite_pair | apply ite_okR | apply ite_okKv | apply fst_wf | apply kvDone_ok | apply kvError_ok
    | apply kvGo_ok | apply kvBlocked_ok | split | (apply of_pair; assumption) | (apply of_kvDone; assumption)
    | (apply of_kvGo; assumption) | (apply of_kvError; assumption) | dsimp only | apply pair_wf | apply mem_wf
    | apply mk_wf

theorem kvTake_wf (s : State) (d : Nat) (q : Nat) (b : Nat) (hw : Wf s) :
    okOptPair (State.kvTake s d q b) := by
  unfold State.kvTake
  with_reducible repeat' first
    | assumption | intro _ | apply kvBorrow_wf | apply kvWrite_wf | apply modKv_wf | apply foldl_wf | apply foldl_pair
    | apply ite_wf | apply ite_pair | apply ite_okR | apply ite_okKv | apply fst_wf | apply somePair_ok
    | apply nonePair_ok | split | (apply of_pair; assumption) | (apply of_somePair; assumption)
    | (apply of_someFst; assumption) | dsimp only | apply pair_wf | apply mem_wf | apply mk_wf

theorem kvHandle_wf (s : State) (r : KvReq) (hw : Wf s) :
    okKv (State.kvHandle s r) := by
  unfold State.kvHandle
  with_reducible repeat' first
    | assumption | intro _ | apply kvBorrow_wf | apply kvTake_wf | apply kvTouch_wf | apply kvUnmap_wf
    | apply foldl_wf | apply foldl_pair | apply ite_wf | apply ite_pair | apply ite_okR | apply ite_okKv
    | apply fst_wf | apply kvDone_ok | apply kvError_ok | apply kvGo_ok | apply kvBlocked_ok | split
    | (apply of_pair; assumption) | (apply of_kvDone; assumption) | (apply of_kvGo; assumption)
    | (apply of_kvError; assumption) | (apply of_somePair; assumption) | (apply of_someFst; assumption) | dsimp only
    | apply pair_wf | apply mem_wf | apply mk_wf

theorem kvLendStep_wf (s : State) (r : KvReq) (hw : Wf s) :
    okKv (State.kvLendStep s r) := by
  unfold State.kvLendStep
  with_reducible repeat' first
    | assumption | intro _ | apply kvMove_wf | apply foldl_wf | apply foldl_pair | apply ite_wf | apply ite_pair
    | apply ite_okR | apply ite_okKv | apply fst_wf | apply kvDone_ok | apply kvError_ok | apply kvGo_ok
    | apply kvBlocked_ok | split | (apply of_pair; assumption) | (apply of_kvDone; assumption)
    | (apply of_kvGo; assumption) | (apply of_kvError; assumption) | dsimp only | apply pair_wf | apply mem_wf
    | apply mk_wf

theorem kvPerform_wf (s : State) (i : Nat) (id : Nat) (j : Nat) (r : KvReq) (hw : Wf s) :
    Wf (State.kvPerform s i id j r) := by
  unfold State.kvPerform
  with_reducible repeat' first
    | assumption | intro _ | apply flownPerform_wf | apply foldl_wf | apply foldl_pair | apply ite_wf | apply ite_pair
    | apply ite_okR | apply ite_okKv | apply fst_wf | split | (apply of_pair; assumption)
    | (apply of_somePair; assumption) | (apply of_someFst; assumption) | dsimp only | apply pair_wf | apply mem_wf
    | apply mk_wf

theorem kvSetLimit_wf (s : State) (r : KvReq) (clr : Bool) (hw : Wf s) :
    okKv (State.kvSetLimit s r clr) := by
  unfold State.kvSetLimit
  with_reducible repeat' first
    | assumption | intro _ | apply kvScan_wf | apply kvWrite_wf | apply modKv_wf | apply foldl_wf | apply foldl_pair
    | apply ite_wf | apply ite_pair | apply ite_okR | apply ite_okKv | apply fst_wf | apply kvDone_ok
    | apply kvError_ok | apply kvGo_ok | apply kvBlocked_ok | split | (apply of_pair; assumption)
    | (apply of_kvDone; assumption) | (apply of_kvGo; assumption) | (apply of_kvError; assumption) | dsimp only
    | apply pair_wf | apply mem_wf | apply mk_wf

theorem kvShareStep_wf (s : State) (r : KvReq) (hw : Wf s) :
    okKv (State.kvShareStep s r) := by
  unfold State.kvShareStep
  with_reducible repeat' first
    | assumption | intro _ | apply kvBorrow_wf | apply kvBound_wf | apply kvHold_wf | apply kvTake_wf
    | apply kvTouch_wf | apply kvWrite_wf | apply modCpOf_wf | apply foldl_wf | apply foldl_pair | apply ite_wf
    | apply ite_pair | apply ite_okR | apply ite_okKv | apply fst_wf | apply kvDone_ok | apply kvError_ok
    | apply kvGo_ok | apply kvBlocked_ok | split | (apply of_pair; assumption) | (apply of_kvDone; assumption)
    | (apply of_kvGo; assumption) | (apply of_kvError; assumption) | (apply of_somePair; assumption)
    | (apply of_someFst; assumption) | dsimp only | apply pair_wf | apply mem_wf | apply mk_wf

theorem kvStep_wf (s : State) (r : KvReq) (hw : Wf s) :
    okKv (State.kvStep s r) := by
  unfold State.kvStep
  with_reducible repeat' first
    | assumption | intro _ | apply kvFreeAll_wf | apply kvHandle_wf | apply kvLendStep_wf | apply kvSetLimit_wf
    | apply kvShareStep_wf | apply foldl_wf | apply foldl_pair | apply ite_wf | apply ite_pair | apply ite_okR
    | apply ite_okKv | apply fst_wf | apply kvDone_ok | apply kvError_ok | apply kvGo_ok | apply kvBlocked_ok | split
    | (apply of_pair; assumption) | (apply of_kvDone; assumption) | (apply of_kvGo; assumption)
    | (apply of_kvError; assumption) | dsimp only | apply pair_wf | apply mem_wf | apply mk_wf

theorem launch_wf (s : State) (c : Nat) (ag : Nat) (slot : Nat) (hw : Wf s) :
    Wf (State.launch s c ag slot) := by
  unfold State.launch
  with_reducible repeat' first
    | assumption | intro _ | apply active_wf | apply modUnits_wf | apply setStream_wf | apply foldl_wf
    | apply foldl_pair | apply ite_wf | apply ite_pair | apply ite_okR | apply ite_okKv | apply fst_wf | split
    | (apply of_pair; assumption) | dsimp only | apply pair_wf | apply mem_wf | apply mk_wf

theorem warm_wf (s : State) (hw : Wf s) :
    Wf (State.warm s) := by
  unfold State.warm
  with_reducible repeat' first
    | assumption | intro _ | apply foldl_wf | apply foldl_pair | apply ite_wf | apply ite_pair | apply ite_okR
    | apply ite_okKv | apply fst_wf | split | (apply of_pair; assumption) | dsimp only | apply pair_wf | apply mem_wf
    | apply mk_wf

theorem execDmaWindowWrite_wf (n : Fin 8) (limit : Bool) (v : Word) (s : State) (hw : Wf s) :
    okR (execDmaWindowWrite n limit v s) := by
  unfold execDmaWindowWrite
  with_reducible repeat' first
    | assumption | intro _ | apply foldl_wf | apply foldl_pair | apply ite_wf | apply ite_pair | apply ite_okR
    | apply ite_okKv | apply fst_wf | apply next_ok | apply stop_ok | apply refuse_ok | split
    | (apply of_pair; assumption) | (apply of_next; assumption) | dsimp only | apply pair_wf | apply mem_wf
    | apply mk_wf

theorem execDwlock_wf (v : Word) (s : State) (hw : Wf s) :
    okR (execDwlock v s) := by
  unfold execDwlock
  with_reducible repeat' first
    | assumption | intro _ | apply foldl_wf | apply foldl_pair | apply ite_wf | apply ite_pair | apply ite_okR
    | apply ite_okKv | apply fst_wf | apply next_ok | apply stop_ok | apply refuse_ok | split
    | (apply of_pair; assumption) | (apply of_next; assumption) | dsimp only | apply pair_wf | apply mem_wf
    | apply mk_wf

theorem execRouteTableWrite_wf (p : Fin 512) (v : BitVec 16) (s : State) (hw : Wf s) :
    okR (execRouteTableWrite p v s) := by
  unfold execRouteTableWrite
  with_reducible repeat' first
    | assumption | intro _ | apply foldl_wf | apply foldl_pair | apply ite_wf | apply ite_pair | apply ite_okR
    | apply ite_okKv | apply fst_wf | apply next_ok | apply stop_ok | apply refuse_ok | split
    | (apply of_pair; assumption) | (apply of_next; assumption) | dsimp only | apply pair_wf | apply mem_wf
    | apply mk_wf

theorem execStlinkWrite_wf (v : Word) (s : State) (hw : Wf s) :
    okR (execStlinkWrite v s) := by
  unfold execStlinkWrite
  with_reducible repeat' first
    | assumption | intro _ | apply foldl_wf | apply foldl_pair | apply ite_wf | apply ite_pair | apply ite_okR
    | apply ite_okKv | apply fst_wf | apply next_ok | apply stop_ok | apply refuse_ok | split
    | (apply of_pair; assumption) | (apply of_next; assumption) | dsimp only | apply pair_wf | apply mem_wf
    | apply mk_wf

theorem mgmtWrite_wf (s : State) (o : Nat) (lo : Nat) (n : Nat) (v : Word) (hw : Wf s) :
    Wf (State.mgmtWrite s o lo n v) := by
  unfold State.mgmtWrite
  with_reducible repeat' first
    | assumption | intro _ | apply execDmaWindowWrite_wf | apply execDwlock_wf | apply execRegisterWrite_wf
    | apply execRouteTableWrite_wf | apply execStlinkWrite_wf | apply nextState_wf | apply warm_wf | apply foldl_wf
    | apply foldl_pair | apply ite_wf | apply ite_pair | apply ite_okR | apply ite_okKv | apply fst_wf | split
    | (apply of_pair; assumption) | (apply of_next; assumption) | dsimp only | apply pair_wf | apply mem_wf
    | apply mk_wf

theorem mgmtStore_wf (s : State) (o : Nat) (bs : List Byte) (hw : Wf s) :
    Wf (State.mgmtStore s o bs) := by
  unfold State.mgmtStore
  with_reducible repeat' first
    | assumption | intro _ | apply mgmtWrite_wf | apply foldl_wf | apply foldl_pair | apply ite_wf | apply ite_pair
    | apply ite_okR | apply ite_okKv | apply fst_wf | split | (apply of_pair; assumption) | dsimp only | apply pair_wf
    | apply mem_wf | apply mk_wf

theorem modPlain_wf (s : State) (k : Nat) (f : Plain → Plain) (hw : Wf s) :
    Wf (State.modPlain s k f) := by
  unfold State.modPlain
  with_reducible repeat' first
    | assumption | intro _ | apply modCluster_wf | apply foldl_wf | apply foldl_pair | apply ite_wf | apply ite_pair
    | apply ite_okR | apply ite_okKv | apply fst_wf | split | (apply of_pair; assumption) | dsimp only | apply pair_wf
    | apply mem_wf | apply mk_wf

theorem mxReadAll_wf (s : State) (c : Nat) (a : MxOperand) (b : MxOperand) (hw : Wf s) :
    Wf (State.mxReadAll s c a b) := by
  unfold State.mxReadAll
  with_reducible repeat' first
    | assumption | intro _ | apply sbRead_wf | apply foldl_wf | apply foldl_pair | apply ite_wf | apply ite_pair
    | apply ite_okR | apply ite_okKv | apply fst_wf | split | (apply of_pair; assumption) | dsimp only | apply pair_wf
    | apply mem_wf | apply mk_wf

theorem mxBegin_wf (s : State) (c : Nat) (w : Word) (a : MxOperand) (b : MxOperand) (hw : Wf s) :
    Wf (State.mxBegin s c w a b) := by
  unfold State.mxBegin
  with_reducible repeat' first
    | assumption | intro _ | apply accFix_wf | apply active_wf | apply mxReadAll_wf | apply setMx_wf | apply foldl_wf
    | apply foldl_pair | apply ite_wf | apply ite_pair | apply ite_okR | apply ite_okKv | apply fst_wf | split
    | (apply of_pair; assumption) | dsimp only | apply pair_wf | apply mem_wf | apply mk_wf

theorem mxFinish_wf (s : State) (c : Nat) (e : MxEntry) (hw : Wf s) :
    Wf (State.mxFinish s c e) := by
  unfold State.mxFinish
  with_reducible repeat' first
    | assumption | intro _ | apply active_wf | apply sbReleases_wf | apply setMx_wf | apply foldl_wf
    | apply foldl_pair | apply ite_wf | apply ite_pair | apply ite_okR | apply ite_okKv | apply fst_wf | split
    | (apply of_pair; assumption) | dsimp only | apply pair_wf | apply mem_wf | apply mk_wf

theorem sbFlag_wf (s : State) (c : Nat) (x : Nat × Nat × Frame) (size : Nat) (hw : Wf s) :
    Wf (State.sbFlag s c x size) := by
  unfold State.sbFlag
  with_reducible repeat' first
    | assumption | intro _ | apply setSbuf_wf | apply foldl_wf | apply foldl_pair | apply ite_wf | apply ite_pair
    | apply ite_okR | apply ite_okKv | apply fst_wf | split | (apply of_pair; assumption) | dsimp only | apply pair_wf
    | apply mem_wf | apply mk_wf

theorem mxFlags_wf (s : State) (c : Nat) (w : Word) (p : MxPlace) (a : Nat) (b : Nat) (hw : Wf s) :
    Wf (State.mxFlags s c w p a b) := by
  unfold State.mxFlags
  with_reducible repeat' first
    | assumption | intro _ | apply sbFlag_wf | apply foldl_wf | apply foldl_pair | apply ite_wf | apply ite_pair
    | apply ite_okR | apply ite_okKv | apply fst_wf | split | (apply of_pair; assumption) | dsimp only | apply pair_wf
    | apply mem_wf | apply mk_wf

theorem mxComplete_wf (s : State) (c : Nat) (e : MxEntry) (w : Word) (p : MxPlace) (o : MxOp) (planes : Nat)
    (hw : Wf s) :
    Wf (State.mxComplete s c e w p o planes) := by
  unfold State.mxComplete
  with_reducible repeat' first
    | assumption | intro _ | apply count_wf | apply mxFinish_wf | apply mxFlags_wf | apply setMx_wf | apply foldl_wf
    | apply foldl_pair | apply ite_wf | apply ite_pair | apply ite_okR | apply ite_okKv | apply fst_wf | split
    | (apply of_pair; assumption) | dsimp only | apply pair_wf | apply mem_wf | apply mk_wf

theorem mxError_wf (s : State) (c : Nat) (e : MxEntry) (cause : BitVec 6) (hw : Wf s) :
    Wf (State.mxError s c e cause) := by
  unfold State.mxError
  with_reducible repeat' first
    | assumption | intro _ | apply mxFinish_wf | apply pendNode_wf | apply pendTrap_wf | apply post_wf
    | apply setMx_wf | apply foldl_wf | apply foldl_pair | apply ite_wf | apply ite_pair | apply ite_okR
    | apply ite_okKv | apply fst_wf | split | (apply of_pair; assumption) | dsimp only | apply pair_wf | apply mem_wf
    | apply mk_wf

theorem mxFoldStep_wf (s : State) (c : Nat) (w : Word) (a : MxOperand) (b : MxOperand) (o : MxOp) (hw : Wf s) :
    WfP (State.mxFoldStep s c w a b o) := by
  unfold State.mxFoldStep
  with_reducible repeat' first
    | assumption | intro _ | apply accFix_wf | apply setMx_wf | apply foldl_wf | apply foldl_pair | apply ite_wf
    | apply ite_pair | apply ite_okR | apply ite_okKv | apply fst_wf | split | (apply of_pair; assumption)
    | dsimp only | apply pair_wf | apply mem_wf | apply mk_wf

theorem mxStart_wf (s : State) (c : Nat) (mop : Nat) (hw : Wf s) :
    Wf (State.mxStart s c mop) := by
  unfold State.mxStart
  with_reducible repeat' first
    | assumption | intro _ | apply mxBegin_wf | apply mxError_wf | apply mxFlags_wf | apply foldl_wf
    | apply foldl_pair | apply ite_wf | apply ite_pair | apply ite_okR | apply ite_okKv | apply fst_wf | split
    | (apply of_pair; assumption) | dsimp only | apply pair_wf | apply mem_wf | apply mk_wf

theorem mxStep_wf (s : State) (c : Nat) (e : MxEntry) (w : Word) (p : MxPlace) (o : MxOp) (hw : Wf s) :
    Wf (State.mxStep s c e w p o) := by
  unfold State.mxStep
  with_reducible repeat' first
    | assumption | intro _ | apply active_wf | apply count_wf | apply mxComplete_wf | apply mxFoldStep_wf
    | apply setMx_wf | apply foldl_wf | apply foldl_pair | apply ite_wf | apply ite_pair | apply ite_okR
    | apply ite_okKv | apply fst_wf | split | (apply of_pair; assumption) | dsimp only | apply pair_wf | apply mem_wf
    | apply mk_wf

theorem noteInband_wf (s : State) (src : Nat) (hw : Wf s) :
    Wf (State.noteInband s src) := by
  unfold State.noteInband
  with_reducible repeat' first
    | assumption | intro _ | apply modGrid_wf | apply foldl_wf | apply foldl_pair | apply ite_wf | apply ite_pair
    | apply ite_okR | apply ite_okKv | apply fst_wf | split | (apply of_pair; assumption) | dsimp only | apply pair_wf
    | apply mem_wf | apply mk_wf

theorem opMove_wf (s : State) (c : Nat) (rt : Nat) (f : Frame) (ks : List Nat) (emit : Option (List Nat × Flit))
    (hw : Wf s) :
    Wf (State.opMove s c rt f ks emit) := by
  unfold State.opMove
  with_reducible repeat' first
    | assumption | intro _ | apply active_wf | apply forward_wf | apply grantTo_wf | apply outPush_wf | apply foldl_wf
    | apply foldl_pair | apply ite_wf | apply ite_pair | apply ite_okR | apply ite_okKv | apply fst_wf | split
    | (apply of_pair; assumption) | dsimp only | apply pair_wf | apply mem_wf | apply mk_wf

theorem withhold_wf (s : State) (c : Nat) (k : Nat) (tag : BitVec 8) (hw : Wf s) :
    Wf (State.withhold s c k tag) := by
  unfold State.withhold
  with_reducible repeat' first
    | assumption | intro _ | apply modGrid_wf | apply postCfgerr_wf | apply foldl_wf | apply foldl_pair | apply ite_wf
    | apply ite_pair | apply ite_okR | apply ite_okKv | apply fst_wf | split | (apply of_pair; assumption)
    | dsimp only | apply pair_wf | apply mem_wf | apply mk_wf

theorem opStop_wf (s : State) (c : Nat) (rt : Nat) (i : Nat) (tag : BitVec 8) (cause : BitVec 6)
    (first : List Flit) (hw : Wf s) :
    Wf (State.opStop s c rt i tag cause first) := by
  unfold State.opStop
  with_reducible repeat' first
    | assumption | intro _ | apply modGrid_wf | apply pendTrap_wf | apply post_wf | apply setOpState_wf
    | apply withhold_wf | apply foldl_wf | apply foldl_pair | apply ite_wf | apply ite_pair | apply ite_okR
    | apply ite_okKv | apply fst_wf | split | (apply of_pair; assumption) | dsimp only | apply pair_wf | apply mem_wf
    | apply mk_wf

theorem outHead_wf (s : State) (c : Nat) (ag : Nat) (slot : Nat) (x : Stream) (hw : Wf s) :
    okPort (State.outHead s c ag slot x) := by
  unfold State.outHead
  with_reducible repeat' first
    | assumption | intro _ | apply popChan_wf | apply sbAskPop_wf | apply sbDropFlit_wf | apply foldl_wf
    | apply foldl_pair | apply ite_wf | apply ite_pair | apply ite_okR | apply ite_okKv | apply fst_wf
    | apply portNone_ok | apply portBad_ok | apply portFlit_ok | split | (apply of_pair; assumption)
    | (apply of_flit; assumption) | (apply of_none; assumption) | dsimp only | apply pair_wf | apply mem_wf
    | apply mk_wf

theorem outTake_wf (s : State) (c : Nat) (ag : Nat) (slot : Nat) (hw : Wf s) :
    Wf (State.outTake s c ag slot) := by
  unfold State.outTake
  with_reducible repeat' first
    | assumption | intro _ | apply outHead_wf | apply setStream_wf | apply streamBad_wf | apply foldl_wf
    | apply foldl_pair | apply ite_wf | apply ite_pair | apply ite_okR | apply ite_okKv | apply fst_wf | split
    | (apply of_pair; assumption) | (apply of_flit; assumption) | (apply of_none; assumption) | dsimp only
    | apply pair_wf | apply mem_wf | apply mk_wf

theorem postPoison_wf (s : State) (c : Nat) (node : Nat) (w2 : Word) (count : Word) (orig : Nat) (hw : Wf s) :
    Wf (State.postPoison s c node w2 count orig) := by
  unfold State.postPoison
  with_reducible repeat' first
    | assumption | intro _ | apply post_wf | apply foldl_wf | apply foldl_pair | apply ite_wf | apply ite_pair
    | apply ite_okR | apply ite_okKv | apply fst_wf | split | (apply of_pair; assumption) | dsimp only | apply pair_wf
    | apply mem_wf | apply mk_wf

theorem tilePoison_wf (s : State) (c : Nat) (node : Nat) (sid : Nat) (trap : Bool) (p : TilePoison) (hw : Wf s) :
    Wf (State.tilePoison s c node sid trap p) := by
  unfold State.tilePoison
  with_reducible repeat' first
    | assumption | intro _ | apply pendTrap_wf | apply postPoison_wf | apply foldl_wf | apply foldl_pair
    | apply ite_wf | apply ite_pair | apply ite_okR | apply ite_okKv | apply fst_wf | split
    | (apply of_pair; assumption) | dsimp only | apply pair_wf | apply mem_wf | apply mk_wf

theorem outWrite_wf (s : State) (c : Nat) (ag : Nat) (slot : Nat) (hw : Wf s) :
    Wf (State.outWrite s c ag slot) := by
  unfold State.outWrite
  with_reducible repeat' first
    | assumption | intro _ | apply active_wf | apply issueWrite_wf | apply setStream_wf | apply streamFault_wf
    | apply tilePoison_wf | apply foldl_wf | apply foldl_pair | apply ite_wf | apply ite_pair | apply ite_okR
    | apply ite_okKv | apply fst_wf | split | (apply of_pair; assumption) | (apply of_issueFault; assumption)
    | (apply of_issueOk; assumption) | dsimp only | apply pair_wf | apply mem_wf | apply mk_wf

end Sys2Proof.Laws.Canon
end

