-- ==== Sys2Proof/Laws/Canon3.lean ====
section
/-!
SUPPORT. The memory stays in its canonical form: one lemma per operation, callees first (3 of 5).
-/
namespace Sys2Proof.Laws.Canon

open Sys2Proof Machine

-- One list of alternatives closes every proof, so most alternatives go unused in each.
set_option linter.all false

theorem outStep_wf (s : State) (c : Nat) (ag : Nat) (slot : Nat) (hw : Wf s) :
    Wf (State.outStep s c ag slot) := by
  unfold State.outStep
  with_reducible repeat' first
    | assumption | intro _ | apply outTake_wf | apply outWrite_wf | apply streamAgain_wf | apply foldl_wf
    | apply foldl_pair | apply ite_wf | apply ite_pair | apply ite_okR | apply ite_okKv | apply fst_wf | split
    | (apply of_pair; assumption) | dsimp only | apply pair_wf | apply mem_wf | apply mk_wf

theorem outsideWrite_wf (s : State) (pa : Nat) (bs : List Byte) (hw : Wf s) :
    Wf (State.outsideWrite s pa bs) := by
  unfold State.outsideWrite
  with_reducible repeat' first
    | assumption | intro _ | apply homeRefuses_wf | apply writeBytes_wf | apply foldl_wf | apply foldl_pair
    | apply ite_wf | apply ite_pair | apply ite_okR | apply ite_okKv | apply fst_wf | split
    | (apply of_pair; assumption) | dsimp only | apply pair_wf | apply mem_wf | apply mk_wf

theorem outsidePerform_wf (s : State) (id : Nat) (j : Nat) (hw : Wf s) :
    Wf (State.outsidePerform s id j) := by
  unfold State.outsidePerform
  with_reducible repeat' first
    | assumption | intro _ | apply answer_wf | apply homeRead_wf | apply outsideWrite_wf | apply foldl_wf
    | apply foldl_pair | apply ite_wf | apply ite_pair | apply ite_okR | apply ite_okKv | apply fst_wf | split
    | (apply of_pair; assumption) | dsimp only | apply pair_wf | apply mem_wf | apply mk_wf

theorem outsideStart_wf (s : State) (pa : Nat) (n : Nat) (put : Option (List Byte))
    (back : Option (BitVec 9 × BitVec 18)) (hw : Wf s) :
    Wf (State.outsideStart s pa n put back) := by
  unfold State.outsideStart
  with_reducible repeat' first
    | assumption | intro _ | apply foldl_wf | apply foldl_pair | apply ite_wf | apply ite_pair | apply ite_okR
    | apply ite_okKv | apply fst_wf | split | (apply of_pair; assumption) | dsimp only | apply pair_wf | apply mem_wf
    | apply mk_wf

theorem pairAgain_wf (s : State) (k : Nat) (o : PairOp) (hw : Wf s) :
    okOpt (State.pairAgain s k o) := by
  unfold State.pairAgain
  with_reducible repeat' first
    | assumption | intro _ | apply pairIssue_wf | apply foldl_wf | apply foldl_pair | apply ite_wf | apply ite_pair
    | apply ite_okR | apply ite_okKv | apply fst_wf | apply some_ok | apply none_ok | split
    | (apply of_pair; assumption) | (apply of_some; assumption) | dsimp only | apply pair_wf | apply mem_wf
    | apply mk_wf

theorem pairCycle_wf (s : State) (k : Nat) (hw : Wf s) :
    Wf (State.pairCycle s k) := by
  unfold State.pairCycle
  with_reducible repeat' first
    | assumption | intro _ | apply count_wf | apply modCluster_wf | apply foldl_wf | apply foldl_pair | apply ite_wf
    | apply ite_pair | apply ite_okR | apply ite_okKv | apply fst_wf | split | (apply of_pair; assumption)
    | dsimp only | apply pair_wf | apply mem_wf | apply mk_wf

theorem pairDigits_wf (s : State) (k : Nat) (o : PairOp) (y3 : List PairVal) (hw : Wf s) :
    WfP (State.pairDigits s k o y3) := by
  induction y3 generalizing s k o with
  | nil =>
    first
    | exact hw
    | unfold State.pairDigits
      with_reducible repeat' first
        | assumption | intro _ | apply valFlits_wf | apply foldl_wf | apply foldl_pair | apply ite_wf | apply ite_pair
        | apply ite_okR | apply ite_okKv | apply fst_wf | split | (apply of_pair; assumption) | dsimp only
        | apply pair_wf | apply mem_wf | apply mk_wf
  | cons y l ih =>
    unfold State.pairDigits
    with_reducible repeat' first
      | assumption | intro _ | apply ih | apply valFlits_wf | apply foldl_wf | apply foldl_pair | apply ite_wf
      | apply ite_pair | apply ite_okR | apply ite_okKv | apply fst_wf | split | (apply of_pair; assumption)
      | dsimp only | apply pair_wf | apply mem_wf | apply mk_wf

theorem pairPerform_wf (s : State) (k : Nat) (o : PairOp) (id : Nat) (j : Nat) (hw : Wf s) :
    Wf (State.pairPerform s k o id j) := by
  unfold State.pairPerform
  with_reducible repeat' first
    | assumption | intro _ | apply flownPerform_wf | apply setPairOp_wf | apply foldl_wf | apply foldl_pair
    | apply ite_wf | apply ite_pair | apply ite_okR | apply ite_okKv | apply fst_wf | split
    | (apply of_pair; assumption) | (apply of_somePair; assumption) | (apply of_someFst; assumption) | dsimp only
    | apply pair_wf | apply mem_wf | apply mk_wf

theorem pairRecord_wf (s : State) (k : Nat) (o : PairOp) (i : Member) (j : Member) (v : List PairVal) (hw : Wf s) :
    WfP (State.pairRecord s k o i j v) := by
  unfold State.pairRecord
  with_reducible repeat' first
    | assumption | intro _ | apply pairDigits_wf | apply foldl_wf | apply foldl_pair | apply ite_wf | apply ite_pair
    | apply ite_okR | apply ite_okKv | apply fst_wf | split | (apply of_pair; assumption) | dsimp only | apply pair_wf
    | apply mem_wf | apply mk_wf

theorem pairTestOne_wf (s : State) (k : Nat) (b : Box) (o : PairOp) (i : Member) (j : Member) (hw : Wf s) :
    WfP (State.pairTestOne s k b o i j) := by
  unfold State.pairTestOne
  with_reducible repeat' first
    | assumption | intro _ | apply pairRecord_wf | apply foldl_wf | apply foldl_pair | apply ite_wf | apply ite_pair
    | apply ite_okR | apply ite_okKv | apply fst_wf | split | (apply of_pair; assumption) | dsimp only | apply pair_wf
    | apply mem_wf | apply mk_wf

theorem pairTests_wf (s : State) (k : Nat) (b : Box) (o : PairOp) (y4 : List (Member × Member)) (hw : Wf s) :
    WfP (State.pairTests s k b o y4) := by
  induction y4 generalizing s k b o with
  | nil =>
    first
    | exact hw
    | unfold State.pairTests
      with_reducible repeat' first
        | assumption | intro _ | apply pairTestOne_wf | apply foldl_wf | apply foldl_pair | apply ite_wf
        | apply ite_pair | apply ite_okR | apply ite_okKv | apply fst_wf | split | (apply of_pair; assumption)
        | dsimp only | apply pair_wf | apply mem_wf | apply mk_wf
  | cons y l ih =>
    unfold State.pairTests
    with_reducible repeat' first
      | assumption | intro _ | apply ih | apply pairTestOne_wf | apply foldl_wf | apply foldl_pair | apply ite_wf
      | apply ite_pair | apply ite_okR | apply ite_okKv | apply fst_wf | split | (apply of_pair; assumption)
      | dsimp only | apply pair_wf | apply mem_wf | apply mk_wf

theorem passChoose_wf (s : State) (c : Nat) (hw : Wf s) :
    Wf (State.passChoose s c) := by
  unfold State.passChoose
  with_reducible repeat' first
    | assumption | intro _ | apply modPlain_wf | apply setSpace_wf | apply foldl_wf | apply foldl_pair | apply ite_wf
    | apply ite_pair | apply ite_okR | apply ite_okKv | apply fst_wf | split | (apply of_pair; assumption)
    | dsimp only | apply pair_wf | apply mem_wf | apply mk_wf

theorem passEnter_wf (s : State) (c : Nat) (hw : Wf s) :
    Wf (State.passEnter s c) := by
  unfold State.passEnter
  with_reducible repeat' first
    | assumption | intro _ | apply modPlain_wf | apply popChan_wf | apply withhold_wf | apply foldl_wf
    | apply foldl_pair | apply ite_wf | apply ite_pair | apply ite_okR | apply ite_okKv | apply fst_wf | split
    | (apply of_pair; assumption) | dsimp only | apply pair_wf | apply mem_wf | apply mk_wf

theorem passSend_wf (s : State) (c : Nat) (F : Frame) (f : Flit) (hw : Wf s) :
    okEither (State.passSend s c F f) := by
  unfold State.passSend
  with_reducible repeat' first
    | assumption | intro _ | apply sbAsk_wf | apply sbPutFlit_wf | apply sidePush_wf | apply foldl_wf
    | apply foldl_pair | apply ite_wf | apply ite_pair | apply ite_okR | apply ite_okKv | apply fst_wf
    | apply eitherOk_ok | apply eitherError_ok | split | (apply of_pair; assumption) | (apply of_eitherOk; assumption)
    | (apply of_eitherError; assumption) | dsimp only | apply pair_wf | apply mem_wf | apply mk_wf

theorem passTake_wf (s : State) (c : Nat) (hw : Wf s) :
    Wf (State.passTake s c) := by
  unfold State.passTake
  with_reducible repeat' first
    | assumption | intro _ | apply popChan_wf | apply pushFrom_wf | apply foldl_wf | apply foldl_pair | apply ite_wf
    | apply ite_pair | apply ite_okR | apply ite_okKv | apply fst_wf | split | (apply of_pair; assumption)
    | dsimp only | apply pair_wf | apply mem_wf | apply mk_wf

theorem withZero_wf (s : State) (k : State → Int → State) (hw : Wf s) (h_k : ∀ t v, Wf t → Wf (k t v)) :
    Wf (State.withZero s k) := by
  exact h_k _ _ (zeroExp_wf s hw)

theorem peAcc_wf (s : State) (c : Nat) (n : Nat) (f : Frame) (j : PeJob) (hw : Wf s) :
    Wf (State.peAcc s c n f j) := by
  unfold State.peAcc
  with_reducible repeat' first
    | assumption | intro _ | apply setPeSlot_wf | apply setPe_wf | apply withZero_wf | apply foldl_wf
    | apply foldl_pair | apply ite_wf | apply ite_pair | apply ite_okR | apply ite_okKv | apply fst_wf | split
    | (apply of_pair; assumption) | dsimp only | apply pair_wf | apply mem_wf | apply mk_wf

theorem peBegin_wf (s : State) (c : Nat) (n : Nat) (i : Nat) (tag : BitVec 8) (reads : List Nat)
    (heads : List Flit) (hw : Wf s) :
    Wf (State.peBegin s c n i tag reads heads) := by
  unfold State.peBegin
  with_reducible repeat' first
    | assumption | intro _ | apply count_wf | apply popChan_wf | apply setPe_wf | apply foldl_wf | apply foldl_pair
    | apply ite_wf | apply ite_pair | apply ite_okR | apply ite_okKv | apply fst_wf | split
    | (apply of_pair; assumption) | dsimp only | apply pair_wf | apply mem_wf | apply mk_wf

theorem peDrain_wf (s : State) (c : Nat) (n : Nat) (j : PeJob) (hw : Wf s) :
    WfP (State.peDrain s c n j) := by
  unfold State.peDrain
  with_reducible repeat' first
    | assumption | intro _ | apply popChan_wf | apply foldl_wf | apply foldl_pair | apply ite_wf | apply ite_pair
    | apply ite_okR | apply ite_okKv | apply fst_wf | split | (apply of_pair; assumption) | dsimp only | apply pair_wf
    | apply mem_wf | apply mk_wf

theorem peCst_wf (s : State) (c : Nat) (n : Nat) (f : Frame) (j : PeJob) (hw : Wf s) :
    Wf (State.peCst s c n f j) := by
  unfold State.peCst
  with_reducible repeat' first
    | assumption | intro _ | apply peDrain_wf | apply pushChan_wf | apply setPeSlot_wf | apply setPe_wf
    | apply foldl_wf | apply foldl_pair | apply ite_wf | apply ite_pair | apply ite_okR | apply ite_okKv
    | apply fst_wf | split | (apply of_pair; assumption) | dsimp only | apply pair_wf | apply mem_wf | apply mk_wf

theorem peEmit_wf (s : State) (c : Nat) (n : Nat) (f : Frame) (j : PeJob) (r : Res) (hw : Wf s) :
    Wf (State.peEmit s c n f j r) := by
  unfold State.peEmit
  with_reducible repeat' first
    | assumption | intro _ | apply count_wf | apply pushChan_wf | apply setPeSlot_wf | apply setPe_wf
    | apply withZero_wf | apply foldl_wf | apply foldl_pair | apply ite_wf | apply ite_pair | apply ite_okR
    | apply ite_okKv | apply fst_wf | split | (apply of_pair; assumption) | dsimp only | apply pair_wf | apply mem_wf
    | apply mk_wf

theorem peKills_wf (s : State) (c : Nat) (n : Nat) (j : PeJob) (reads : List Nat) (y5 : List (Nat × Int))
    (hw : Wf s) :
    WfP (State.peKills s c n j reads y5) := by
  induction y5 generalizing s c n j reads with
  | nil =>
    first
    | exact hw
    | unfold State.peKills
      with_reducible repeat' first
        | assumption | intro _ | apply count_wf | apply modChan_wf | apply foldl_wf | apply foldl_pair | apply ite_wf
        | apply ite_pair | apply ite_okR | apply ite_okKv | apply fst_wf | split | (apply of_pair; assumption)
        | dsimp only | apply pair_wf | apply mem_wf | apply mk_wf
  | cons y l ih =>
    unfold State.peKills
    with_reducible repeat' first
      | assumption | intro _ | apply ih | apply count_wf | apply modChan_wf | apply foldl_wf | apply foldl_pair
      | apply ite_wf | apply ite_pair | apply ite_okR | apply ite_okKv | apply fst_wf | split
      | (apply of_pair; assumption) | dsimp only | apply pair_wf | apply mem_wf | apply mk_wf

theorem peSend_wf (s : State) (c : Nat) (n : Nat) (f : Frame) (j : PeJob) (hw : Wf s) :
    Wf (State.peSend s c n f j) := by
  unfold State.peSend
  with_reducible repeat' first
    | assumption | intro _ | apply count_wf | apply pushChan_wf | apply setPe_wf | apply foldl_wf | apply foldl_pair
    | apply ite_wf | apply ite_pair | apply ite_okR | apply ite_okKv | apply fst_wf | split
    | (apply of_pair; assumption) | dsimp only | apply pair_wf | apply mem_wf | apply mk_wf

theorem peStop_wf (s : State) (c : Nat) (n : Nat) (tag : BitVec 8) (hw : Wf s) :
    Wf (State.peStop s c n tag) := by
  unfold State.peStop
  with_reducible repeat' first
    | assumption | intro _ | apply setPe_wf | apply withhold_wf | apply foldl_wf | apply foldl_pair | apply ite_wf
    | apply ite_pair | apply ite_okR | apply ite_okKv | apply fst_wf | split | (apply of_pair; assumption)
    | dsimp only | apply pair_wf | apply mem_wf | apply mk_wf

theorem peTake_wf (s : State) (c : Nat) (n : Nat) (j : PeJob) (k : Nat) (hw : Wf s) :
    WfP (State.peTake s c n j k) := by
  unfold State.peTake
  with_reducible repeat' first
    | assumption | intro _ | apply popChan_wf | apply foldl_wf | apply foldl_pair | apply ite_wf | apply ite_pair
    | apply ite_okR | apply ite_okKv | apply fst_wf | split | (apply of_pair; assumption) | dsimp only | apply pair_wf
    | apply mem_wf | apply mk_wf

theorem peTile_wf (s : State) (c : Nat) (n : Nat) (i : Nat) (f : Frame) (reads : List Nat) (x : Flit) (hw : Wf s) :
    Wf (State.peTile s c n i f reads x) := by
  unfold State.peTile
  with_reducible repeat' first
    | assumption | intro _ | apply popChan_wf | apply pushChan_wf | apply setPeSlot_wf | apply setPe_wf
    | apply withZero_wf | apply foldl_wf | apply foldl_pair | apply ite_wf | apply ite_pair | apply ite_okR
    | apply ite_okKv | apply fst_wf | split | (apply of_pair; assumption) | dsimp only | apply pair_wf | apply mem_wf
    | apply mk_wf

theorem peWord_wf (s : State) (c : Nat) (n : Nat) (i : Nat) (f : Frame) (tag : BitVec 8) (reads : List Nat)
    (heads : List Flit) (hw : Wf s) :
    Wf (State.peWord s c n i f tag reads heads) := by
  unfold State.peWord
  with_reducible repeat' first
    | assumption | intro _ | apply count_wf | apply popChan_wf | apply pushChan_wf | apply setPeSlot_wf
    | apply foldl_wf | apply foldl_pair | apply ite_wf | apply ite_pair | apply ite_okR | apply ite_okKv
    | apply fst_wf | split | (apply of_pair; assumption) | dsimp only | apply pair_wf | apply mem_wf | apply mk_wf

theorem releaseCounter_wf (s : State) (c : Nat) (r : CpReq) (pa : Nat) (n : Nat) (hw : Wf s) :
    Wf (State.releaseCounter s c r pa n) := by
  unfold State.releaseCounter
  with_reducible repeat' first
    | assumption | intro _ | apply modDie_wf | apply foldl_wf | apply foldl_pair | apply ite_wf | apply ite_pair
    | apply ite_okR | apply ite_okKv | apply fst_wf | split | (apply of_pair; assumption) | dsimp only | apply pair_wf
    | apply mem_wf | apply mk_wf

theorem returnRead_wf (s : State) (c : Nat) (r : CpReq) (v : Word) (hw : Wf s) :
    Wf (State.returnRead s c r v) := by
  unfold State.returnRead
  with_reducible repeat' first
    | assumption | intro _ | apply deliver_wf | apply modCpOf_wf | apply foldl_wf | apply foldl_pair | apply ite_wf
    | apply ite_pair | apply ite_okR | apply ite_okKv | apply fst_wf | split | (apply of_pair; assumption)
    | dsimp only | apply pair_wf | apply mem_wf | apply mk_wf

theorem perform_wf (s : State) (c : Nat) (r : CpReq) (j : Nat) (g : Seg) (hw : Wf s) :
    Wf (State.perform s c r j g) := by
  unfold State.perform
  with_reducible repeat' first
    | assumption | intro _ | apply homeRead_wf | apply homeWrite_wf | apply modCpOf_wf | apply releaseCounter_wf
    | apply returnRead_wf | apply foldl_wf | apply foldl_pair | apply ite_wf | apply ite_pair | apply ite_okR
    | apply ite_okKv | apply fst_wf | split | (apply of_pair; assumption) | dsimp only | apply pair_wf | apply mem_wf
    | apply mk_wf

theorem placeWord_wf (s : State) (w : Word) (hw : Wf s) :
    Wf (State.placeWord s w) := by
  unfold State.placeWord
  with_reducible repeat' first
    | assumption | intro _ | apply modCore_wf | apply modCpOf_wf | apply foldl_wf | apply foldl_pair | apply ite_wf
    | apply ite_pair | apply ite_okR | apply ite_okKv | apply fst_wf | split | (apply of_pair; assumption)
    | dsimp only | apply pair_wf | apply mem_wf | apply mk_wf

theorem plainStop_wf (s : State) (k : Nat) (e : Nat) (owner : Nat) (hw : Wf s) :
    Wf (State.plainStop s k e owner) := by
  unfold State.plainStop
  with_reducible repeat' first
    | assumption | intro _ | apply modPlain_wf | apply foldl_wf | apply foldl_pair | apply ite_wf | apply ite_pair
    | apply ite_okR | apply ite_okKv | apply fst_wf | split | (apply of_pair; assumption) | dsimp only | apply pair_wf
    | apply mem_wf | apply mk_wf

theorem plainBad_wf (s : State) (k : Nat) (e : Nat) (owner : Nat) (hw : Wf s) :
    Wf (State.plainBad s k e owner) := by
  unfold State.plainBad
  with_reducible repeat' first
    | assumption | intro _ | apply pendNode_wf | apply plainStop_wf | apply post_wf | apply foldl_wf
    | apply foldl_pair | apply ite_wf | apply ite_pair | apply ite_okR | apply ite_okKv | apply fst_wf | split
    | (apply of_pair; assumption) | dsimp only | apply pair_wf | apply mem_wf | apply mk_wf

theorem plainDuptag_wf (s : State) (k : Nat) (e : Nat) (a : PRec) (b : PRec) (hw : Wf s) :
    Wf (State.plainDuptag s k e a b) := by
  unfold State.plainDuptag
  with_reducible repeat' first
    | assumption | intro _ | apply pendTrap_wf | apply plainStop_wf | apply post_wf | apply foldl_wf
    | apply foldl_pair | apply ite_wf | apply ite_pair | apply ite_okR | apply ite_okKv | apply fst_wf | split
    | (apply of_pair; assumption) | dsimp only | apply pair_wf | apply mem_wf | apply mk_wf

theorem plainElem_wf (s : State) (f : Frame) (own : Nat) (tag : BitVec 8) (p : PeSlot)
    (heads : List (Nat × List Flit)) (hw : Wf s) :
    WfP (State.plainElem s f own tag p heads) := by
  unfold State.plainElem
  with_reducible repeat' first
    | assumption | intro _ | apply zeroExp_wf | apply foldl_wf | apply foldl_pair | apply ite_wf | apply ite_pair
    | apply ite_okR | apply ite_okKv | apply fst_wf | split | (apply of_pair; assumption) | dsimp only | apply pair_wf
    | apply mem_wf | apply mk_wf

theorem plainElems_wf (s : State) (f : Frame) (own : Nat) (tag : BitVec 8) (p : PeSlot)
    (heads : List (Nat × List (List Flit))) (y6 : Nat) (hw : Wf s) :
    WfP (State.plainElems s f own tag p heads y6) := by
  induction y6 generalizing s f own tag p heads with
  | zero =>
    first
    | exact hw
    | unfold State.plainElems
      with_reducible repeat' first
        | assumption | intro _ | apply plainElem_wf | apply foldl_wf | apply foldl_pair | apply ite_wf
        | apply ite_pair | apply ite_okR | apply ite_okKv | apply fst_wf | split | (apply of_pair; assumption)
        | dsimp only | apply pair_wf | apply mem_wf | apply mk_wf
  | succ l ih =>
    unfold State.plainElems
    with_reducible repeat' first
      | assumption | intro _ | apply ih | apply plainElem_wf | apply foldl_wf | apply foldl_pair | apply ite_wf
      | apply ite_pair | apply ite_okR | apply ite_okKv | apply fst_wf | split | (apply of_pair; assumption)
      | dsimp only | apply pair_wf | apply mem_wf | apply mk_wf

theorem plainResult_wf (s : State) (f : Frame) (own : Nat) (tag : BitVec 8) (p : PeSlot) (rs : List (Nat × PRec))
    (hw : Wf s) :
    WfP (State.plainResult s f own tag p rs) := by
  unfold State.plainResult
  with_reducible repeat' first
    | assumption | intro _ | apply plainElems_wf | apply foldl_wf | apply foldl_pair | apply ite_wf | apply ite_pair
    | apply ite_okR | apply ite_okKv | apply fst_wf | split | (apply of_pair; assumption) | dsimp only | apply pair_wf
    | apply mem_wf | apply mk_wf

theorem plainFire_wf (s : State) (k : Nat) (e : Nat) (i : Nat) (owner : Nat) (tag : BitVec 8) (f : Frame)
    (rs : List (Nat × PRec)) (hw : Wf s) :
    Wf (State.plainFire s k e i owner tag f rs) := by
  unfold State.plainFire
  with_reducible repeat' first
    | assumption | intro _ | apply modPlain_wf | apply plainBad_wf | apply plainResult_wf | apply foldl_wf
    | apply foldl_pair | apply ite_wf | apply ite_pair | apply ite_okR | apply ite_okKv | apply fst_wf | split
    | (apply of_pair; assumption) | dsimp only | apply pair_wf | apply mem_wf | apply mk_wf

theorem planAlone_wf (s : State) (c : CoreIx) (hw : Wf s) :
    okPlan (State.planAlone s c) := by
  unfold State.planAlone
  with_reducible repeat' first
    | assumption | intro _ | apply cacheRead_wf | apply modCore_wf | apply foldl_wf | apply foldl_pair | apply ite_wf
    | apply ite_pair | apply ite_okR | apply ite_okKv | apply fst_wf | apply planIdle_ok | apply planRun_ok | split
    | (apply of_pair; assumption) | (apply of_plan; assumption) | dsimp only | apply pair_wf | apply mem_wf
    | apply mk_wf

theorem plan_wf (s : State) (c : CoreIx) (hw : Wf s) :
    okPlan (State.plan s c) := by
  unfold State.plan
  with_reducible repeat' first
    | assumption | intro _ | apply planAlone_wf | apply foldl_wf | apply foldl_pair | apply ite_wf | apply ite_pair
    | apply ite_okR | apply ite_okKv | apply fst_wf | apply planIdle_ok | apply planRun_ok | split
    | (apply of_pair; assumption) | (apply of_plan; assumption) | dsimp only | apply pair_wf | apply mem_wf
    | apply mk_wf

theorem portPoison_wf (s : State) (c : Nat) (key : Nat) (seq : BitVec 44) (o : Int) (hw : Wf s) :
    Wf (State.portPoison s c key seq o) := by
  unfold State.portPoison
  with_reducible repeat' first
    | assumption | intro _ | apply post_wf | apply foldl_wf | apply foldl_pair | apply ite_wf | apply ite_pair
    | apply ite_okR | apply ite_okKv | apply fst_wf | split | (apply of_pair; assumption) | dsimp only | apply pair_wf
    | apply mem_wf | apply mk_wf

theorem portRead_wf (s : State) (c : Nat) (key : Nat) (f : Frame) (r : PortReq) (hw : Wf s) :
    WfP (State.portRead s c key f r) := by
  unfold State.portRead
  with_reducible repeat' first
    | assumption | intro _ | apply eccRead_wf | apply portPoison_wf | apply foldl_wf | apply foldl_pair | apply ite_wf
    | apply ite_pair | apply ite_okR | apply ite_okKv | apply fst_wf | split | (apply of_pair; assumption)
    | dsimp only | apply pair_wf | apply mem_wf | apply mk_wf

theorem portEccu_wf (s : State) (c : Nat) (key : Nat) (seq : BitVec 44) (o : Int) (hw : Wf s) :
    Wf (State.portEccu s c key seq o) := by
  unfold State.portEccu
  with_reducible repeat' first
    | assumption | intro _ | apply post_wf | apply foldl_wf | apply foldl_pair | apply ite_wf | apply ite_pair
    | apply ite_okR | apply ite_okKv | apply fst_wf | split | (apply of_pair; assumption) | dsimp only | apply pair_wf
    | apply mem_wf | apply mk_wf

theorem portWrite_wf (s : State) (c : Nat) (key : Nat) (f : Frame) (r : PortReq) (hw : Wf s) :
    Wf (State.portWrite s c key f r) := by
  unfold State.portWrite
  with_reducible repeat' first
    | assumption | intro _ | apply portEccu_wf | apply portPoison_wf | apply writeNat_wf | apply foldl_wf
    | apply foldl_pair | apply ite_wf | apply ite_pair | apply ite_okR | apply ite_okKv | apply fst_wf | split
    | (apply of_pair; assumption) | dsimp only | apply pair_wf | apply mem_wf | apply mk_wf

theorem portAccess_wf (s : State) (c : Nat) (key : Nat) (f : Frame) (r : PortReq) (hw : Wf s) :
    Wf (State.portAccess s c key f r) := by
  unfold State.portAccess
  with_reducible repeat' first
    | assumption | intro _ | apply modPortq_wf | apply portRead_wf | apply portWrite_wf | apply foldl_wf
    | apply foldl_pair | apply ite_wf | apply ite_pair | apply ite_okR | apply ite_okKv | apply fst_wf | split
    | (apply of_pair; assumption) | dsimp only | apply pair_wf | apply mem_wf | apply mk_wf

theorem portBound_wf (s : State) (c : Nat) (key : Nat) (i : Nat) (o : Int) (hw : Wf s) :
    Wf (State.portBound s c key i o) := by
  unfold State.portBound
  with_reducible repeat' first
    | assumption | intro _ | apply post_wf | apply setPort_wf | apply foldl_wf | apply foldl_pair | apply ite_wf
    | apply ite_pair | apply ite_okR | apply ite_okKv | apply fst_wf | split | (apply of_pair; assumption)
    | dsimp only | apply pair_wf | apply mem_wf | apply mk_wf

theorem portEot_wf (s : State) (c : Nat) (key : Nat) (i : Nat) (f : Frame) (x : Flit) (hw : Wf s) :
    Wf (State.portEot s c key i f x) := by
  unfold State.portEot
  with_reducible repeat' first
    | assumption | intro _ | apply modPortq_wf | apply popChan_wf | apply setPort_wf | apply foldl_wf
    | apply foldl_pair | apply ite_wf | apply ite_pair | apply ite_okR | apply ite_okKv | apply fst_wf | split
    | (apply of_pair; assumption) | dsimp only | apply pair_wf | apply mem_wf | apply mk_wf

theorem portFire_wf (s : State) (c : Nat) (key : Nat) (i : Nat) (f : Frame) (o : Nat) (poison : Bool)
    (data : List Flit) (x : Flit) (it : Option (Nat × Nat)) (hw : Wf s) :
    Wf (State.portFire s c key i f o poison data x it) := by
  unfold State.portFire
  with_reducible repeat' first
    | assumption | intro _ | apply modPortq_wf | apply setPort_wf | apply foldl_wf | apply foldl_pair | apply ite_wf
    | apply ite_pair | apply ite_okR | apply ite_okKv | apply fst_wf | split | (apply of_pair; assumption)
    | dsimp only | apply pair_wf | apply mem_wf | apply mk_wf

theorem portFired_wf (s : State) (c : Nat) (key : Nat) (n : Nat) (i : Nat) (k : Nat) (hw : Wf s) :
    Wf (State.portFired s c key n i k) := by
  unfold State.portFired
  with_reducible repeat' first
    | assumption | intro _ | apply advance_wf | apply setCtl_wf | apply foldl_wf | apply foldl_pair | apply ite_wf
    | apply ite_pair | apply ite_okR | apply ite_okKv | apply fst_wf | split | (apply of_pair; assumption)
    | dsimp only | apply pair_wf | apply mem_wf | apply mk_wf

theorem portTake_wf (s : State) (c : Nat) (key : Nat) (i : Nat) (f : Frame) (x : Flit) (hw : Wf s) :
    Wf (State.portTake s c key i f x) := by
  unfold State.portTake
  with_reducible repeat' first
    | assumption | intro _ | apply popChan_wf | apply portBound_wf | apply portEot_wf | apply portFire_wf
    | apply portFired_wf | apply setPort_wf | apply withhold_wf | apply foldl_wf | apply foldl_pair | apply ite_wf
    | apply ite_pair | apply ite_okR | apply ite_okKv | apply fst_wf | split | (apply of_pair; assumption)
    | dsimp only | apply pair_wf | apply mem_wf | apply mk_wf

theorem portHead_wf (s : State) (c : Nat) (key : Nat) (op : Nat) (hw : Wf s) :
    Wf (State.portHead s c key op) := by
  unfold State.portHead
  with_reducible repeat' first
    | assumption | intro _ | apply portTake_wf | apply foldl_wf | apply foldl_pair | apply ite_wf | apply ite_pair
    | apply ite_okR | apply ite_okKv | apply fst_wf | split | (apply of_pair; assumption) | dsimp only | apply pair_wf
    | apply mem_wf | apply mk_wf

theorem setWindow_wf (s : State) (c : Nat) (w : Nat) (l : List UpdElem) (hw : Wf s) :
    Wf (State.setWindow s c w l) := by
  unfold State.setWindow
  with_reducible repeat' first
    | assumption | intro _ | apply modGrid_wf | apply foldl_wf | apply foldl_pair | apply ite_wf | apply ite_pair
    | apply ite_okR | apply ite_okKv | apply fst_wf | split | (apply of_pair; assumption) | dsimp only | apply pair_wf
    | apply mem_wf | apply mk_wf

theorem portUpdate_wf (s : State) (c : Nat) (key : Nat) (f : Frame) (j : Nat) (r : PortReq) (hw : Wf s) :
    Wf (State.portUpdate s c key f j r) := by
  unfold State.portUpdate
  with_reducible repeat' first
    | assumption | intro _ | apply modPortq_wf | apply portPoison_wf | apply setRecords_wf | apply setWindow_wf
    | apply foldl_wf | apply foldl_pair | apply ite_wf | apply ite_pair | apply ite_okR | apply ite_okKv
    | apply fst_wf | split | (apply of_pair; assumption) | dsimp only | apply pair_wf | apply mem_wf | apply mk_wf

theorem portPerform_wf (s : State) (c : Nat) (key : Nat) (op : Nat) (j : Nat) (hw : Wf s) :
    Wf (State.portPerform s c key op j) := by
  unfold State.portPerform
  with_reducible repeat' first
    | assumption | intro _ | apply active_wf | apply portAccess_wf | apply portUpdate_wf | apply foldl_wf
    | apply foldl_pair | apply ite_wf | apply ite_pair | apply ite_okR | apply ite_okKv | apply fst_wf | split
    | (apply of_pair; assumption) | dsimp only | apply pair_wf | apply mem_wf | apply mk_wf

theorem portSend_wf (s : State) (c : Nat) (key : Nat) (op : Nat) (hw : Wf s) :
    Wf (State.portSend s c key op) := by
  unfold State.portSend
  with_reducible repeat' first
    | assumption | intro _ | apply modPortq_wf | apply setRecords_wf | apply sidePush_wf | apply foldl_wf
    | apply foldl_pair | apply ite_wf | apply ite_pair | apply ite_okR | apply ite_okKv | apply fst_wf | split
    | (apply of_pair; assumption) | dsimp only | apply pair_wf | apply mem_wf | apply mk_wf

theorem postRecord_wf (s : State) (i : Instr) (va : Nat) (n : Nat) (gs : List Seg) (hw : Wf s) :
    Wf (State.postRecord s i va n gs) := by
  unfold State.postRecord
  with_reducible repeat' first
    | assumption | intro _ | apply modCp_wf | apply foldl_wf | apply foldl_pair | apply ite_wf | apply ite_pair
    | apply ite_okR | apply ite_okKv | apply fst_wf | split | (apply of_pair; assumption) | dsimp only | apply pair_wf
    | apply mem_wf | apply mk_wf

theorem readPlace_wf (s : State) (c : Nat) (k : Nat) (tag : BitVec 8) (hw : Wf s) :
    Wf (State.readPlace s c k tag) := by
  unfold State.readPlace
  with_reducible repeat' first
    | assumption | intro _ | apply cacheReadFrame_wf | apply foldl_wf | apply foldl_pair | apply ite_wf
    | apply ite_pair | apply ite_okR | apply ite_okKv | apply fst_wf | split | (apply of_pair; assumption)
    | dsimp only | apply pair_wf | apply mem_wf | apply mk_wf

theorem readRecord_wf (s : State) (va : Nat) (n : Nat) (align : Nat) (hw : Wf s) :
    okRec (State.readRecord s va n align) := by
  unfold State.readRecord
  with_reducible repeat' first
    | assumption | intro _ | apply translate_wf | apply foldl_wf | apply foldl_pair | apply ite_wf | apply ite_pair
    | apply ite_okR | apply ite_okKv | apply fst_wf | apply recWait_ok | apply recTrap_ok | apply recPost_ok
    | apply recOk_ok | split | (apply of_pair; assumption) | (apply of_recTrap; assumption)
    | (apply of_recPost; assumption) | (apply of_recOk; assumption) | dsimp only | apply pair_wf | apply mem_wf
    | apply mk_wf

theorem readTable_wf (s : State) (i : Instr) (va : Word) (y3 : Nat) (y4 : List Word) (hw : Wf s) :
    okTable (State.readTable s i va y3 y4) := by
  induction y3 generalizing s i va y4 with
  | zero =>
    first
    | exact hw
    | unfold State.readTable
      with_reducible repeat' first
        | assumption | intro _ | apply postRecord_wf | apply raise_wf | apply readRecord_wf | apply foldl_wf
        | apply foldl_pair | apply ite_wf | apply ite_pair | apply ite_okR | apply ite_okKv | apply fst_wf
        | apply tableOk_ok | apply tableError_ok | apply next_ok | split | (apply of_pair; assumption)
        | (apply of_next; assumption) | (apply of_recTrap; assumption) | (apply of_recPost; assumption)
        | (apply of_recOk; assumption) | (apply of_table; assumption) | dsimp only | apply pair_wf | apply mem_wf
        | apply mk_wf
  | succ l ih =>
    unfold State.readTable
    with_reducible repeat' first
      | assumption | intro _ | apply ih | apply postRecord_wf | apply raise_wf | apply readRecord_wf | apply foldl_wf
      | apply foldl_pair | apply ite_wf | apply ite_pair | apply ite_okR | apply ite_okKv | apply fst_wf
      | apply tableOk_ok | apply tableError_ok | apply next_ok | split | (apply of_pair; assumption)
      | (apply of_next; assumption) | (apply of_recTrap; assumption) | (apply of_recPost; assumption)
      | (apply of_recOk; assumption) | (apply of_table; assumption) | dsimp only | apply pair_wf | apply mem_wf
      | apply mk_wf

theorem recordDone_wf (s : State) (c : Nat) (k : Nat) (kk : Nat) (mine : Frame → Bool) (hw : Wf s) :
    Wf (State.recordDone s c k kk mine) := by
  unfold State.recordDone
  with_reducible repeat' first
    | assumption | intro _ | apply active_wf | apply frameFault_wf | apply modGrid_wf | apply noteInband_wf
    | apply withholdTag_wf | apply foldl_wf | apply foldl_pair | apply ite_wf | apply ite_pair | apply ite_okR
    | apply ite_okKv | apply fst_wf | split | (apply of_pair; assumption) | dsimp only | apply pair_wf | apply mem_wf
    | apply mk_wf

theorem rectFlits_wf (s : State) (c : Nat) (tag : BitVec 8) (w : Word) (y4 : List (Nat × Nat)) (hw : Wf s) :
    WfP (State.rectFlits s c tag w y4) := by
  induction y4 generalizing s c tag w with
  | nil =>
    first
    | exact hw
    | unfold State.rectFlits
      with_reducible repeat' first
        | assumption | intro _ | apply accFlits_wf | apply foldl_wf | apply foldl_pair | apply ite_wf | apply ite_pair
        | apply ite_okR | apply ite_okKv | apply fst_wf | split | (apply of_pair; assumption) | dsimp only
        | apply pair_wf | apply mem_wf | apply mk_wf
  | cons y l ih =>
    unfold State.rectFlits
    with_reducible repeat' first
      | assumption | intro _ | apply ih | apply accFlits_wf | apply foldl_wf | apply foldl_pair | apply ite_wf
      | apply ite_pair | apply ite_okR | apply ite_okKv | apply fst_wf | split | (apply of_pair; assumption)
      | dsimp only | apply pair_wf | apply mem_wf | apply mk_wf

theorem resumeRecord_wf (s : State) (c : Nat) (num : Nat) (hw : Wf s) :
    WfP (State.resumeRecord s c num) := by
  unfold State.resumeRecord
  with_reducible repeat' first
    | assumption | intro _ | apply modCore_wf | apply setPair_wf | apply foldl_wf | apply foldl_pair | apply ite_wf
    | apply ite_pair | apply ite_okR | apply ite_okKv | apply fst_wf | split | (apply of_pair; assumption)
    | dsimp only | apply pair_wf | apply mem_wf | apply mk_wf

theorem resumeStream_wf (s : State) (c : Nat) (ag : Nat) (a : Word) (hw : Wf s) :
    WfP (State.resumeStream s c ag a) := by
  unfold State.resumeStream
  with_reducible repeat' first
    | assumption | intro _ | apply setStream_wf | apply foldl_wf | apply foldl_pair | apply ite_wf | apply ite_pair
    | apply ite_okR | apply ite_okKv | apply fst_wf | split | (apply of_pair; assumption) | dsimp only | apply pair_wf
    | apply mem_wf | apply mk_wf

theorem resumeTpl_wf (s : State) (c : Nat) (ag : Nat) (n : Nat) (hw : Wf s) :
    WfP (State.resumeTpl s c ag n) := by
  unfold State.resumeTpl
  with_reducible repeat' first
    | assumption | intro _ | apply setTpl_wf | apply foldl_wf | apply foldl_pair | apply ite_wf | apply ite_pair
    | apply ite_okR | apply ite_okKv | apply fst_wf | split | (apply of_pair; assumption) | dsimp only | apply pair_wf
    | apply mem_wf | apply mk_wf

theorem retire_wf (s : State) (srcs : List Src) (f : Cp → Cp) (hw : Wf s) :
    Wf (State.retire s srcs f) := by
  unfold State.retire
  with_reducible repeat' first
    | assumption | intro _ | apply modCp_wf | apply foldl_wf | apply foldl_pair | apply ite_wf | apply ite_pair
    | apply ite_okR | apply ite_okKv | apply fst_wf | split | (apply of_pair; assumption) | dsimp only | apply pair_wf
    | apply mem_wf | apply mk_wf

theorem ringPush_wf (s : State) (c : Nat) (n : Nat) (tag : BitVec 8) (bs : List Byte) (f : State → State)
    (hw : Wf s) (h_f : ∀ t, Wf t → Wf (f t)) :
    Wf (State.ringPush s c n tag bs f) := by
  unfold State.ringPush
  with_reducible repeat' first
    | assumption | intro _ | apply h_f | apply sbAsk_wf | apply sbPut_wf | apply foldl_wf | apply foldl_pair
    | apply ite_wf | apply ite_pair | apply ite_okR | apply ite_okKv | apply fst_wf | split
    | (apply of_pair; assumption) | dsimp only | apply pair_wf | apply mem_wf | apply mk_wf

theorem ringStep_wf (s : State) (j : CollJob) (r : Nat) (c : Nat) (i : Nat) (hw : Wf s) :
    Wf (State.ringStep s j r c i) := by
  unfold State.ringStep
  with_reducible repeat' first
    | assumption | intro _ | apply collIssue_wf | apply memberDone_wf | apply ringPush_wf | apply setColl_wf
    | apply setJob_wf | apply foldl_wf | apply foldl_pair | apply ite_wf | apply ite_pair | apply ite_okR
    | apply ite_okKv | apply fst_wf | split | (apply of_pair; assumption) | dsimp only | apply pair_wf | apply mem_wf
    | apply mk_wf

theorem zeroHbm_wf (s : State) (hw : Wf s) :
    Wf (State.zeroHbm s) := by
  exact memFilter_wf s.mem _ hw

theorem runImage_wf (s : State) (b : List Byte) (hw : Wf s) :
    Wf (State.runImage s b) := by
  unfold State.runImage
  with_reducible repeat' first
    | assumption | intro _ | apply zeroHbm_wf | apply foldl_wf | apply foldl_pair | apply ite_wf | apply ite_pair
    | apply ite_okR | apply ite_okKv | apply fst_wf | split | (apply of_pair; assumption) | dsimp only | apply pair_wf
    | apply mem_wf | apply mk_wf

theorem takeToken_wf (s : State) (c : Nat) (t : CtlToken) (hw : Wf s) :
    Wf (State.takeToken s c t) := by
  unfold State.takeToken
  with_reducible repeat' first
    | assumption | intro _ | apply modGrid_wf | apply foldl_wf | apply foldl_pair | apply ite_wf | apply ite_pair
    | apply ite_okR | apply ite_okKv | apply fst_wf | split | (apply of_pair; assumption) | dsimp only | apply pair_wf
    | apply mem_wf | apply mk_wf

theorem execDoneToken_wf (c : CoreIx) (ct : Fin 8) (s : State) (hw : Wf s) :
    okR (execDoneToken c ct s) := by
  unfold execDoneToken
  with_reducible repeat' first
    | assumption | intro _ | apply advance_wf | apply setCtl_wf | apply takeToken_wf | apply foldl_wf
    | apply foldl_pair | apply ite_wf | apply ite_pair | apply ite_okR | apply ite_okKv | apply fst_wf | apply next_ok
    | apply stop_ok | apply refuse_ok | split | (apply of_pair; assumption) | (apply of_next; assumption) | dsimp only
    | apply pair_wf | apply mem_wf | apply mk_wf

theorem execIterationOpen_wf (c : CoreIx) (ct : Fin 8) (s : State) (hw : Wf s) :
    okR (execIterationOpen c ct s) := by
  unfold execIterationOpen
  with_reducible repeat' first
    | assumption | intro _ | apply advance_wf | apply setCtl_wf | apply foldl_wf | apply foldl_pair | apply ite_wf
    | apply ite_pair | apply ite_okR | apply ite_okKv | apply fst_wf | apply next_ok | apply stop_ok | apply refuse_ok
    | split | (apply of_pair; assumption) | (apply of_next; assumption) | dsimp only | apply pair_wf | apply mem_wf
    | apply mk_wf

theorem execPermit_wf (c : CoreIx) (ct : Fin 8) (s : State) (hw : Wf s) :
    okR (execPermit c ct s) := by
  unfold execPermit
  with_reducible repeat' first
    | assumption | intro _ | apply advance_wf | apply setCtl_wf | apply takeToken_wf | apply foldl_wf
    | apply foldl_pair | apply ite_wf | apply ite_pair | apply ite_okR | apply ite_okKv | apply fst_wf | apply next_ok
    | apply stop_ok | apply refuse_ok | split | (apply of_pair; assumption) | (apply of_next; assumption) | dsimp only
    | apply pair_wf | apply mem_wf | apply mk_wf

theorem runsDue_wf (s : State) (c : CoreIx) (hw : Wf s) :
    Wf (State.runsDue s c) := by
  unfold State.runsDue
  with_reducible repeat' first
    | assumption | intro _ | apply execDoneToken_wf | apply execIterationOpen_wf | apply execPermit_wf
    | apply nextState_wf | apply foldl_wf | apply foldl_pair | apply ite_wf | apply ite_pair | apply ite_okR
    | apply ite_okKv | apply fst_wf | split | (apply of_pair; assumption) | (apply of_next; assumption) | dsimp only
    | apply pair_wf | apply mem_wf | apply mk_wf

theorem scanDone_wf (s : State) (k : Nat) (x : Pair) (o : PairOp) (v : Word) (hw : Wf s) :
    Wf (State.scanDone s k x o v) := by
  unfold State.scanDone
  with_reducible repeat' first
    | assumption | intro _ | apply deliver_wf | apply pairEnd_wf | apply setPair_wf | apply foldl_wf
    | apply foldl_pair | apply ite_wf | apply ite_pair | apply ite_okR | apply ite_okKv | apply fst_wf | split
    | (apply of_pair; assumption) | dsimp only | apply pair_wf | apply mem_wf | apply mk_wf

theorem scanEnds_wf (s : State) (k : Nat) (o : PairOp) (v : Word) (hw : Wf s) :
    Wf (State.scanEnds s k o v) := by
  unfold State.scanEnds
  with_reducible repeat' first
    | assumption | intro _ | apply setPairOp_wf | apply foldl_wf | apply foldl_pair | apply ite_wf | apply ite_pair
    | apply ite_okR | apply ite_okKv | apply fst_wf | split | (apply of_pair; assumption) | dsimp only | apply pair_wf
    | apply mem_wf | apply mk_wf

theorem scanNext_wf (s : State) (k : Nat) (x : Pair) (o : PairOp) (hw : Wf s) :
    Wf (State.scanNext s k x o) := by
  unfold State.scanNext
  with_reducible repeat' first
    | assumption | intro _ | apply pairTests_wf | apply scanEnds_wf | apply setPairOp_wf | apply foldl_wf
    | apply foldl_pair | apply ite_wf | apply ite_pair | apply ite_okR | apply ite_okKv | apply fst_wf | split
    | (apply of_pair; assumption) | dsimp only | apply pair_wf | apply mem_wf | apply mk_wf

theorem staleOne_wf (s : State) (b : Box) (p : Point) (ref : Point) (hw : Wf s) :
    WfP (State.staleOne s b p ref) := by
  unfold State.staleOne
  with_reducible repeat' first
    | assumption | intro _ | apply foldl_wf | apply foldl_pair | apply ite_wf | apply ite_pair | apply ite_okR
    | apply ite_okKv | apply fst_wf | split | (apply of_pair; assumption) | dsimp only | apply pair_wf | apply mem_wf
    | apply mk_wf

theorem staleAny_wf (s : State) (b : Box) (y2 : List (Nat × Point × Point)) (hw : Wf s) :
    WfP (State.staleAny s b y2) := by
  induction y2 generalizing s b with
  | nil =>
    first
    | exact hw
    | unfold State.staleAny
      with_reducible repeat' first
        | assumption | intro _ | apply staleOne_wf | apply foldl_wf | apply foldl_pair | apply ite_wf | apply ite_pair
        | apply ite_okR | apply ite_okKv | apply fst_wf | split | (apply of_pair; assumption) | dsimp only
        | apply pair_wf | apply mem_wf | apply mk_wf
  | cons y l ih =>
    unfold State.staleAny
    with_reducible repeat' first
      | assumption | intro _ | apply ih | apply staleOne_wf | apply foldl_wf | apply foldl_pair | apply ite_wf
      | apply ite_pair | apply ite_okR | apply ite_okKv | apply fst_wf | split | (apply of_pair; assumption)
      | dsimp only | apply pair_wf | apply mem_wf | apply mk_wf

theorem scanStep_wf (s : State) (k : Nat) (x : Pair) (o : PairOp) (hw : Wf s) :
    Wf (State.scanStep s k x o) := by
  unfold State.scanStep
  with_reducible repeat' first
    | assumption | intro _ | apply pairIssue_wf | apply setPairOp_wf | apply staleAny_wf | apply foldl_wf
    | apply foldl_pair | apply ite_wf | apply ite_pair | apply ite_okR | apply ite_okKv | apply fst_wf | split
    | (apply of_pair; assumption) | dsimp only | apply pair_wf | apply mem_wf | apply mk_wf

theorem semCheck_wf (s : State) (a : Word) (op : AmoOp) (release : Bool) (hw : Wf s) :
    okSem (State.semCheck s a op release) := by
  unfold State.semCheck
  with_reducible repeat' first
    | assumption | intro _ | apply translate_wf | apply foldl_wf | apply foldl_pair | apply ite_wf | apply ite_pair
    | apply ite_okR | apply ite_okKv | apply fst_wf | apply semWait_ok | apply semTrap_ok | apply semOk_ok | split
    | (apply of_pair; assumption) | (apply of_semTrap; assumption) | (apply of_semOk; assumption) | dsimp only
    | apply pair_wf | apply mem_wf | apply mk_wf

theorem semTaken_wf (s : State) (form : Instr) (d : Reg) (a : Src) (tok : Bool) (sb : Nat) (pa : Nat)
    (t : BitVec 32) (hw : Wf s) :
    okR (State.semTaken s form d a tok sb pa t) := by
  unfold State.semTaken
  with_reducible repeat' first
    | assumption | intro _ | apply modCp_wf | apply reply_wf | apply sbAsk_wf | apply sbPutFlit_wf | apply foldl_wf
    | apply foldl_pair | apply ite_wf | apply ite_pair | apply ite_okR | apply ite_okKv | apply fst_wf | apply next_ok
    | apply stop_ok | apply refuse_ok | split | (apply of_pair; assumption) | (apply of_next; assumption) | dsimp only
    | apply pair_wf | apply mem_wf | apply mk_wf

theorem semTest_wf (s : State) (pa : Nat) (t : Nat) (hw : Wf s) :
    WfP (State.semTest s pa t) := by
  unfold State.semTest
  with_reducible repeat' first
    | assumption | intro _ | apply eccRead_wf | apply pendTrap_wf | apply foldl_wf | apply foldl_pair | apply ite_wf
    | apply ite_pair | apply ite_okR | apply ite_okKv | apply fst_wf | split | (apply of_pair; assumption)
    | dsimp only | apply pair_wf | apply mem_wf | apply mk_wf

theorem semTaking_wf (s : State) (form : Instr) (d : Reg) (a : Src) (tok : Bool) (sb : Nat) (pa : Nat)
    (t : BitVec 32) (hw : Wf s) :
    okR (State.semTaking s form d a tok sb pa t) := by
  unfold State.semTaking
  with_reducible repeat' first
    | assumption | intro _ | apply modCp_wf | apply semTaken_wf | apply semTest_wf | apply foldl_wf | apply foldl_pair
    | apply ite_wf | apply ite_pair | apply ite_okR | apply ite_okKv | apply fst_wf | apply next_ok | apply stop_ok
    | apply refuse_ok | split | (apply of_pair; assumption) | (apply of_next; assumption) | dsimp only | apply pair_wf
    | apply mem_wf | apply mk_wf

theorem semWaiting_wf (s : State) (form : Instr) (d : Reg) (a : Src) (b : Src) (pa : Nat) (hw : Wf s) :
    okR (State.semWaiting s form d a b pa) := by
  unfold State.semWaiting
  with_reducible repeat' first
    | assumption | intro _ | apply modCp_wf | apply reply_wf | apply semTest_wf | apply foldl_wf | apply foldl_pair
    | apply ite_wf | apply ite_pair | apply ite_okR | apply ite_okKv | apply fst_wf | apply next_ok | apply stop_ok
    | apply refuse_ok | split | (apply of_pair; assumption) | (apply of_next; assumption) | dsimp only | apply pair_wf
    | apply mem_wf | apply mk_wf

theorem shutPlains_wf (s : State) (c : Nat) (hw : Wf s) :
    Wf (State.shutPlains s c) := by
  unfold State.shutPlains
  with_reducible repeat' first
    | assumption | intro _ | apply modCluster_wf | apply foldl_wf | apply foldl_pair | apply ite_wf | apply ite_pair
    | apply ite_okR | apply ite_okKv | apply fst_wf | split | (apply of_pair; assumption) | dsimp only | apply pair_wf
    | apply mem_wf | apply mk_wf

theorem squeezePut_wf (s : State) (c : Nat) (n : Nat) (va : Word) (w : Nat) (v : Nat) (f : Tpl → Tpl) (hw : Wf s) :
    Wf (State.squeezePut s c n va w v f) := by
  unfold State.squeezePut
  with_reducible repeat' first
    | assumption | intro _ | apply active_wf | apply issueWrite_wf | apply setTpl_wf | apply tplFault_wf
    | apply foldl_wf | apply foldl_pair | apply ite_wf | apply ite_pair | apply ite_okR | apply ite_okKv
    | apply fst_wf | split | (apply of_pair; assumption) | (apply of_issueFault; assumption)
    | (apply of_issueOk; assumption) | dsimp only | apply pair_wf | apply mem_wf | apply mk_wf

theorem squeezeRead_wf (s : State) (c : Nat) (n : Nat) (hw : Wf s) :
    Wf (State.squeezeRead s c n) := by
  unfold State.squeezeRead
  with_reducible repeat' first
    | assumption | intro _ | apply active_wf | apply issue_wf | apply setTpl_wf | apply tplFault_wf | apply foldl_wf
    | apply foldl_pair | apply ite_wf | apply ite_pair | apply ite_okR | apply ite_okKv | apply fst_wf | split
    | (apply of_pair; assumption) | (apply of_issuedFault; assumption) | (apply of_issuedOk; assumption) | dsimp only
    | apply pair_wf | apply mem_wf | apply mk_wf

theorem squeezeTake_wf (s : State) (c : Nat) (n : Nat) (hw : Wf s) :
    Wf (State.squeezeTake s c n) := by
  unfold State.squeezeTake
  with_reducible repeat' first
    | assumption | intro _ | apply active_wf | apply setTpl_wf | apply foldl_wf | apply foldl_pair | apply ite_wf
    | apply ite_pair | apply ite_okR | apply ite_okKv | apply fst_wf | split | (apply of_pair; assumption)
    | dsimp only | apply pair_wf | apply mem_wf | apply mk_wf

theorem startStream_wf (s : State) (srcs : List Src) (d : Reg) (ag : Nat) (slot : Nat) (kind : StreamForm)
    (r : Shape) (base : Word) (seed : Word) (konst : Option Word) (defer : Bool) (hw : Wf s) :
    okR (State.startStream s srcs d ag slot kind r base seed konst defer) := by
  unfold State.startStream
  with_reducible repeat' first
    | assumption | intro _ | apply launch_wf | apply postWork_wf | apply reply_wf | apply setStream_wf
    | apply foldl_wf | apply foldl_pair | apply ite_wf | apply ite_pair | apply ite_okR | apply ite_okKv
    | apply fst_wf | apply next_ok | apply stop_ok | apply refuse_ok | split | (apply of_pair; assumption)
    | (apply of_next; assumption) | dsimp only | apply pair_wf | apply mem_wf | apply mk_wf

theorem startTasks_wf (s : State) (d : Nat) (hw : Wf s) :
    Wf (State.startTasks s d) := by
  unfold State.startTasks
  with_reducible repeat' first
    | assumption | intro _ | apply startTask_wf | apply foldl_wf | apply foldl_pair | apply ite_wf | apply ite_pair
    | apply ite_okR | apply ite_okKv | apply fst_wf | split | (apply of_pair; assumption) | dsimp only | apply pair_wf
    | apply mem_wf | apply mk_wf

theorem startWave_wf (s : State) (d : Nat) (w : Wave) (hw : Wf s) :
    Wf (State.startWave s d w) := by
  unfold State.startWave
  with_reducible repeat' first
    | assumption | intro _ | apply modDie_wf | apply foldl_wf | apply foldl_pair | apply ite_wf | apply ite_pair
    | apply ite_okR | apply ite_okKv | apply fst_wf | split | (apply of_pair; assumption) | dsimp only | apply pair_wf
    | apply mem_wf | apply mk_wf

theorem streamAccess_wf (s : State) (c : Nat) (n : Nat) (id : Nat) (j : Nat) (hw : Wf s) :
    Wf (State.streamAccess s c n id j) := by
  unfold State.streamAccess
  with_reducible repeat' first
    | assumption | intro _ | apply active_wf | apply count_wf | apply setStream_wf | apply unitPerform_wf
    | apply foldl_wf | apply foldl_pair | apply ite_wf | apply ite_pair | apply ite_okR | apply ite_okKv
    | apply fst_wf | split | (apply of_pair; assumption) | dsimp only | apply pair_wf | apply mem_wf | apply mk_wf

theorem tagRecord_wf (p : Nat) (tag : BitVec 8) (st : OpState) (k : Nat) (n : Nat) (x : TagSpace) (take : Bool) :
    okAct (tagRecord p tag st k n x take) := by
  unfold tagRecord
  repeat' first
    | with_reducible assumption | with_reducible apply tagRecord_wf | split | with_reducible apply actWait_ok
    | (intro _) | dsimp only | with_reducible apply act_ok | with_reducible apply setSpace_wf
    | with_reducible apply closeSpace_wf | with_reducible apply ite_wf

theorem tagIn_wf (s : State) (c : Nat) (p : Nat) (tag : BitVec 8) (head : Nat → Option Flit) (st : OpState)
    (hw : Wf s) :
    okAct (State.tagIn s c p tag head st) := by
  unfold State.tagIn
  repeat' first
    | with_reducible assumption | with_reducible apply tagRecord_wf | split | with_reducible apply actWait_ok
    | (intro _) | dsimp only | with_reducible apply act_ok | with_reducible apply setSpace_wf
    | with_reducible apply closeSpace_wf | with_reducible apply ite_wf

theorem tagOut_wf (s : State) (c : Nat) (key : Nat) (p : Nat) (tag : BitVec 8) (head : Nat → Option Flit)
    (st : OpState) (hw : Wf s) :
    okAct (State.tagOut s c key p tag head st) := by
  unfold State.tagOut
  repeat' first
    | with_reducible assumption | with_reducible apply tagRecord_wf | split | with_reducible apply actWait_ok
    | (intro _) | dsimp only | with_reducible apply act_ok | with_reducible apply setSpace_wf
    | with_reducible apply closeSpace_wf | with_reducible apply ite_wf

theorem translateParts_wf (s : State) (c : Nat) (ea : Nat) (u : Use) (sys : Bool) (y5 : List (Nat × Nat))
    (hw : Wf s) :
    WfP (State.translateParts s c ea u sys y5) := by
  induction y5 generalizing s c ea u sys with
  | nil =>
    first
    | exact hw
    | unfold State.translateParts
      with_reducible repeat' first
        | assumption | intro _ | apply translate_wf | apply foldl_wf | apply foldl_pair | apply ite_wf
        | apply ite_pair | apply ite_okR | apply ite_okKv | apply fst_wf | split | (apply of_pair; assumption)
        | dsimp only | apply pair_wf | apply mem_wf | apply mk_wf
  | cons y l ih =>
    unfold State.translateParts
    with_reducible repeat' first
      | assumption | intro _ | apply ih | apply translate_wf | apply foldl_wf | apply foldl_pair | apply ite_wf
      | apply ite_pair | apply ite_okR | apply ite_okKv | apply fst_wf | split | (apply of_pair; assumption)
      | dsimp only | apply pair_wf | apply mem_wf | apply mk_wf

theorem unitAccess_wf (s : State) (c : Nat) (id : Nat) (j : Nat) (hw : Wf s) :
    Wf (State.unitAccess s c id j) := by
  unfold State.unitAccess
  with_reducible repeat' first
    | assumption | intro _ | apply collPerform_wf | apply copyAccess_wf | apply kvPerform_wf | apply pairPerform_wf
    | apply streamAccess_wf | apply foldl_wf | apply foldl_pair | apply ite_wf | apply ite_pair | apply ite_okR
    | apply ite_okKv | apply fst_wf | split | (apply of_pair; assumption) | dsimp only | apply pair_wf | apply mem_wf
    | apply mk_wf

theorem unitReplay_wf (s : State) (c : Nat) (id : Nat) (hw : Wf s) :
    Wf (State.unitReplay s c id) := by
  unfold State.unitReplay
  with_reducible repeat' first
    | assumption | intro _ | apply collHold_wf | apply pairHold_wf | apply setColl_wf | apply setPairOp_wf
    | apply setStream_wf | apply setTpl_wf | apply streamFault_wf | apply tplFault_wf | apply foldl_wf
    | apply foldl_pair | apply ite_wf | apply ite_pair | apply ite_okR | apply ite_okKv | apply fst_wf | split
    | (apply of_pair; assumption) | dsimp only | apply pair_wf | apply mem_wf | apply mk_wf

theorem unsupported_wf (s : State) (bar2 : Bool) (o : BitVec 40) (hw : Wf s) :
    Wf (State.unsupported s bar2 o) := by
  unfold State.unsupported
  with_reducible repeat' first
    | assumption | intro _ | apply foldl_wf | apply foldl_pair | apply ite_wf | apply ite_pair | apply ite_okR
    | apply ite_okKv | apply fst_wf | split | (apply of_pair; assumption) | dsimp only | apply pair_wf | apply mem_wf
    | apply mk_wf

theorem updApply_wf (s : State) (c : Nat) (e : UpdElem) (hw : Wf s) :
    Wf (State.updApply s c e) := by
  unfold State.updApply
  with_reducible repeat' first
    | assumption | intro _ | apply eccRead_wf | apply modGrid_wf | apply portEccu_wf | apply portPoison_wf
    | apply setRecords_wf | apply writeNat_wf | apply foldl_wf | apply foldl_pair | apply ite_wf | apply ite_pair
    | apply ite_okR | apply ite_okKv | apply fst_wf | split | (apply of_pair; assumption) | dsimp only | apply pair_wf
    | apply mem_wf | apply mk_wf

theorem updDone_wf (s : State) (c : Nat) (r : Nat × Nat) (hw : Wf s) :
    Wf (State.updDone s c r) := by
  unfold State.updDone
  with_reducible repeat' first
    | assumption | intro _ | apply setRecords_wf | apply foldl_wf | apply foldl_pair | apply ite_wf | apply ite_pair
    | apply ite_okR | apply ite_okKv | apply fst_wf | split | (apply of_pair; assumption) | dsimp only | apply pair_wf
    | apply mem_wf | apply mk_wf

theorem cmdForm_wf (s : State) (i : Instr) (g : Guard) (priv : Bool) (srcs : List Src) (k : Result) (hw : Wf s)
    (hr : okR k) :
    okR (cmdForm s i g priv srcs k) := by
  unfold cmdForm
  with_reducible repeat' first
    | assumption | intro _ | apply runForm_wf | apply stand_wf | apply foldl_wf | apply foldl_pair | apply ite_wf
    | apply ite_pair | apply ite_okR | apply ite_okKv | apply fst_wf | apply next_ok | apply stop_ok | apply refuse_ok
    | split | (apply of_pair; assumption) | (apply of_next; assumption) | dsimp only | apply pair_wf | apply mem_wf
    | apply mk_wf

theorem accessForm_wf (s : State) (i : Instr) (g : Guard) (srcs : List Src) (ea : Word) (n : Nat) (op : CpOp)
    (acc : Acc) (data : Word) (cmp : Word) (d : Reg) (ar : Bool) (sc : BitVec 3) (hw : Wf s) :
    okR (accessForm s i g srcs ea n op acc data cmp d ar sc) := by
  unfold accessForm
  with_reducible repeat' first
    | assumption | intro _ | apply cmdForm_wf | apply raise_wf | apply retire_wf | apply translateParts_wf
    | apply foldl_wf | apply foldl_pair | apply ite_wf | apply ite_pair | apply ite_okR | apply ite_okKv
    | apply fst_wf | apply next_ok | apply stop_ok | apply refuse_ok | split | (apply of_pair; assumption)
    | (apply of_next; assumption) | dsimp only | apply pair_wf | apply mem_wf | apply mk_wf

theorem aluForm_wf (s : State) (i : Instr) (g : Guard) (srcs : List Src) (d : Reg) (v : Word) (hw : Wf s) :
    okR (aluForm s i g srcs d v) := by
  unfold aluForm
  with_reducible repeat' first
    | assumption | intro _ | apply retire_wf | apply runForm_wf | apply foldl_wf | apply foldl_pair | apply ite_wf
    | apply ite_pair | apply ite_okR | apply ite_okKv | apply fst_wf | apply next_ok | apply stop_ok | apply refuse_ok
    | split | (apply of_pair; assumption) | (apply of_next; assumption) | dsimp only | apply pair_wf | apply mem_wf
    | apply mk_wf

theorem amoForm_wf (s : State) (i : Instr) (g : Guard) (d : Reg) (b : Src) (m : AmoOperand) (op : AmoOp)
    (wide : Bool) (hw : Wf s) :
    okR (amoForm s i g d b m op wide) := by
  unfold amoForm
  with_reducible repeat' first
    | assumption | intro _ | apply accessForm_wf | apply foldl_wf | apply foldl_pair | apply ite_wf | apply ite_pair
    | apply ite_okR | apply ite_okKv | apply fst_wf | apply next_ok | apply stop_ok | apply refuse_ok | split
    | (apply of_pair; assumption) | (apply of_next; assumption) | dsimp only | apply pair_wf | apply mem_wf
    | apply mk_wf

theorem barForm_wf (s : State) (i : Instr) (g : Guard) (d : Reg) (u : BarUnit) (out : Bool) (hw : Wf s) :
    okR (barForm s i g d u out) := by
  unfold barForm
  with_reducible repeat' first
    | assumption | intro _ | apply cmdForm_wf | apply reply_wf | apply stand_wf | apply foldl_wf | apply foldl_pair
    | apply ite_wf | apply ite_pair | apply ite_okR | apply ite_okKv | apply fst_wf | apply next_ok | apply stop_ok
    | apply refuse_ok | split | (apply of_pair; assumption) | (apply of_next; assumption) | dsimp only | apply pair_wf
    | apply mem_wf | apply mk_wf

theorem withRecord_wf (s : State) (i : Instr) (va : Nat) (n : Nat) (align : Nat) (k : State → Nat → Result)
    (hw : Wf s) (h_k : ∀ t v, Wf t → okR (k t v)) :
    okR (withRecord s i va n align k) := by
  unfold withRecord
  with_reducible repeat' first
    | assumption | intro _ | apply h_k | apply postRecord_wf | apply raise_wf | apply readRecord_wf | apply foldl_wf
    | apply foldl_pair | apply ite_wf | apply ite_pair | apply ite_okR | apply ite_okKv | apply fst_wf | apply next_ok
    | apply stop_ok | apply refuse_ok | split | (apply of_pair; assumption) | (apply of_next; assumption)
    | (apply of_recTrap; assumption) | (apply of_recPost; assumption) | (apply of_recOk; assumption) | dsimp only
    | apply pair_wf | apply mem_wf | apply mk_wf

theorem collForm_wf (s : State) (i : Instr) (g : Guard) (d : Reg) (a : Src) (form : CollForm) (hw : Wf s) :
    okR (collForm s i g d a form) := by
  unfold collForm
  with_reducible repeat' first
    | assumption | intro _ | apply cmdForm_wf | apply modStations_wf | apply readTable_wf | apply reply_wf
    | apply setColl_wf | apply withRecord_wf | apply foldl_wf | apply foldl_pair | apply ite_wf | apply ite_pair
    | apply ite_okR | apply ite_okKv | apply fst_wf | apply next_ok | apply stop_ok | apply refuse_ok | split
    | (apply of_pair; assumption) | (apply of_next; assumption) | (apply of_table; assumption) | dsimp only
    | apply pair_wf | apply mem_wf | apply mk_wf

theorem ctlReply_wf (s : State) (c : Nat) (tag : BitVec 8) (srcs : List Src) (d : Reg) (n : Nat) (reason : Nat)
    (hw : Wf s) :
    okR (ctlReply s c tag srcs d n reason) := by
  unfold ctlReply
  with_reducible repeat' first
    | assumption | intro _ | apply reply_wf | apply foldl_wf | apply foldl_pair | apply ite_wf | apply ite_pair
    | apply ite_okR | apply ite_okKv | apply fst_wf | apply next_ok | apply stop_ok | apply refuse_ok | split
    | (apply of_pair; assumption) | (apply of_next; assumption) | dsimp only | apply pair_wf | apply mem_wf
    | apply mk_wf

theorem ctlAccept_wf (s : State) (c : Nat) (tag : BitVec 8) (srcs : List Src) (d : Reg) (n : Nat) (hw : Wf s) :
    okR (ctlAccept s c tag srcs d n) := by
  unfold ctlAccept
  with_reducible repeat' first
    | assumption | intro _ | apply ctlReply_wf | apply postWork_wf | apply foldl_wf | apply foldl_pair | apply ite_wf
    | apply ite_pair | apply ite_okR | apply ite_okKv | apply fst_wf | apply next_ok | apply stop_ok | apply refuse_ok
    | split | (apply of_pair; assumption) | (apply of_next; assumption) | dsimp only | apply pair_wf | apply mem_wf
    | apply mk_wf

theorem execAccClr_wf (c : CoreIx) (s : State) (hw : Wf s) :
    okR (execAccClr c s) := by
  unfold execAccClr
  with_reducible repeat' first
    | assumption | intro _ | apply mxError_wf | apply mxFinish_wf | apply setMx_wf | apply foldl_wf | apply foldl_pair
    | apply ite_wf | apply ite_pair | apply ite_okR | apply ite_okKv | apply fst_wf | apply next_ok | apply stop_ok
    | apply refuse_ok | split | (apply of_pair; assumption) | (apply of_next; assumption) | dsimp only | apply pair_wf
    | apply mem_wf | apply mk_wf

theorem execAccRd_wf (c : CoreIx) (s : State) (hw : Wf s) :
    okR (execAccRd c s) := by
  unfold execAccRd
  with_reducible repeat' first
    | assumption | intro _ | apply accFix_wf | apply active_wf | apply mxError_wf | apply mxFinish_wf
    | apply rectFlits_wf | apply sbAsk_wf | apply sbPutFlit_wf | apply setMx_wf | apply foldl_wf | apply foldl_pair
    | apply ite_wf | apply ite_pair | apply ite_okR | apply ite_okKv | apply fst_wf | apply next_ok | apply stop_ok
    | apply refuse_ok | split | (apply of_pair; assumption) | (apply of_next; assumption) | dsimp only | apply pair_wf
    | apply mem_wf | apply mk_wf

theorem execAdd_wf (g : Guard) (d : Reg) (a : Src) (b : Src) (s : State) (hw : Wf s) :
    okR (execAdd g d a b s) := by
  unfold execAdd
  with_reducible repeat' first
    | assumption | intro _ | apply aluForm_wf | apply foldl_wf | apply foldl_pair | apply ite_wf | apply ite_pair
    | apply ite_okR | apply ite_okKv | apply fst_wf | apply next_ok | apply stop_ok | apply refuse_ok | split
    | (apply of_pair; assumption) | (apply of_next; assumption) | dsimp only | apply pair_wf | apply mem_wf
    | apply mk_wf

theorem execAddi_wf (g : Guard) (d : Reg) (a : Src) (imm : BitVec 37) (s : State) (hw : Wf s) :
    okR (execAddi g d a imm s) := by
  unfold execAddi
  with_reducible repeat' first
    | assumption | intro _ | apply aluForm_wf | apply foldl_wf | apply foldl_pair | apply ite_wf | apply ite_pair
    | apply ite_okR | apply ite_okKv | apply fst_wf | apply next_ok | apply stop_ok | apply refuse_ok | split
    | (apply of_pair; assumption) | (apply of_next; assumption) | dsimp only | apply pair_wf | apply mem_wf
    | apply mk_wf

theorem execAmoAdd32_wf (g : Guard) (d : Reg) (b : Src) (m : AmoOperand) (s : State) (hw : Wf s) :
    okR (execAmoAdd32 g d b m s) := by
  unfold execAmoAdd32
  with_reducible repeat' first
    | assumption | intro _ | apply amoForm_wf | apply foldl_wf | apply foldl_pair | apply ite_wf | apply ite_pair
    | apply ite_okR | apply ite_okKv | apply fst_wf | apply next_ok | apply stop_ok | apply refuse_ok | split
    | (apply of_pair; assumption) | (apply of_next; assumption) | dsimp only | apply pair_wf | apply mem_wf
    | apply mk_wf

theorem execAmoAdd64_wf (g : Guard) (d : Reg) (b : Src) (m : AmoOperand) (s : State) (hw : Wf s) :
    okR (execAmoAdd64 g d b m s) := by
  unfold execAmoAdd64
  with_reducible repeat' first
    | assumption | intro _ | apply amoForm_wf | apply foldl_wf | apply foldl_pair | apply ite_wf | apply ite_pair
    | apply ite_okR | apply ite_okKv | apply fst_wf | apply next_ok | apply stop_ok | apply refuse_ok | split
    | (apply of_pair; assumption) | (apply of_next; assumption) | dsimp only | apply pair_wf | apply mem_wf
    | apply mk_wf

theorem execAmoAnd32_wf (g : Guard) (d : Reg) (b : Src) (m : AmoOperand) (s : State) (hw : Wf s) :
    okR (execAmoAnd32 g d b m s) := by
  unfold execAmoAnd32
  with_reducible repeat' first
    | assumption | intro _ | apply amoForm_wf | apply foldl_wf | apply foldl_pair | apply ite_wf | apply ite_pair
    | apply ite_okR | apply ite_okKv | apply fst_wf | apply next_ok | apply stop_ok | apply refuse_ok | split
    | (apply of_pair; assumption) | (apply of_next; assumption) | dsimp only | apply pair_wf | apply mem_wf
    | apply mk_wf

theorem execAmoAnd64_wf (g : Guard) (d : Reg) (b : Src) (m : AmoOperand) (s : State) (hw : Wf s) :
    okR (execAmoAnd64 g d b m s) := by
  unfold execAmoAnd64
  with_reducible repeat' first
    | assumption | intro _ | apply amoForm_wf | apply foldl_wf | apply foldl_pair | apply ite_wf | apply ite_pair
    | apply ite_okR | apply ite_okKv | apply fst_wf | apply next_ok | apply stop_ok | apply refuse_ok | split
    | (apply of_pair; assumption) | (apply of_next; assumption) | dsimp only | apply pair_wf | apply mem_wf
    | apply mk_wf

theorem execAmoCas32_wf (g : Guard) (d : Reg) (b : Src) (m : AmoOperand) (s : State) (hw : Wf s) :
    okR (execAmoCas32 g d b m s) := by
  unfold execAmoCas32
  with_reducible repeat' first
    | assumption | intro _ | apply amoForm_wf | apply foldl_wf | apply foldl_pair | apply ite_wf | apply ite_pair
    | apply ite_okR | apply ite_okKv | apply fst_wf | apply next_ok | apply stop_ok | apply refuse_ok | split
    | (apply of_pair; assumption) | (apply of_next; assumption) | dsimp only | apply pair_wf | apply mem_wf
    | apply mk_wf

theorem execAmoCas64_wf (g : Guard) (d : Reg) (b : Src) (m : AmoOperand) (s : State) (hw : Wf s) :
    okR (execAmoCas64 g d b m s) := by
  unfold execAmoCas64
  with_reducible repeat' first
    | assumption | intro _ | apply amoForm_wf | apply foldl_wf | apply foldl_pair | apply ite_wf | apply ite_pair
    | apply ite_okR | apply ite_okKv | apply fst_wf | apply next_ok | apply stop_ok | apply refuse_ok | split
    | (apply of_pair; assumption) | (apply of_next; assumption) | dsimp only | apply pair_wf | apply mem_wf
    | apply mk_wf

theorem execAmoFadd32_wf (g : Guard) (d : Reg) (b : Src) (m : AmoOperand) (s : State) (hw : Wf s) :
    okR (execAmoFadd32 g d b m s) := by
  unfold execAmoFadd32
  with_reducible repeat' first
    | assumption | intro _ | apply amoForm_wf | apply foldl_wf | apply foldl_pair | apply ite_wf | apply ite_pair
    | apply ite_okR | apply ite_okKv | apply fst_wf | apply next_ok | apply stop_ok | apply refuse_ok | split
    | (apply of_pair; assumption) | (apply of_next; assumption) | dsimp only | apply pair_wf | apply mem_wf
    | apply mk_wf

theorem execAmoFadd64_wf (g : Guard) (d : Reg) (b : Src) (m : AmoOperand) (s : State) (hw : Wf s) :
    okR (execAmoFadd64 g d b m s) := by
  unfold execAmoFadd64
  with_reducible repeat' first
    | assumption | intro _ | apply amoForm_wf | apply foldl_wf | apply foldl_pair | apply ite_wf | apply ite_pair
    | apply ite_okR | apply ite_okKv | apply fst_wf | apply next_ok | apply stop_ok | apply refuse_ok | split
    | (apply of_pair; assumption) | (apply of_next; assumption) | dsimp only | apply pair_wf | apply mem_wf
    | apply mk_wf

theorem execAmoMax32_wf (g : Guard) (d : Reg) (b : Src) (m : AmoOperand) (s : State) (hw : Wf s) :
    okR (execAmoMax32 g d b m s) := by
  unfold execAmoMax32
  with_reducible repeat' first
    | assumption | intro _ | apply amoForm_wf | apply foldl_wf | apply foldl_pair | apply ite_wf | apply ite_pair
    | apply ite_okR | apply ite_okKv | apply fst_wf | apply next_ok | apply stop_ok | apply refuse_ok | split
    | (apply of_pair; assumption) | (apply of_next; assumption) | dsimp only | apply pair_wf | apply mem_wf
    | apply mk_wf

theorem execAmoMax64_wf (g : Guard) (d : Reg) (b : Src) (m : AmoOperand) (s : State) (hw : Wf s) :
    okR (execAmoMax64 g d b m s) := by
  unfold execAmoMax64
  with_reducible repeat' first
    | assumption | intro _ | apply amoForm_wf | apply foldl_wf | apply foldl_pair | apply ite_wf | apply ite_pair
    | apply ite_okR | apply ite_okKv | apply fst_wf | apply next_ok | apply stop_ok | apply refuse_ok | split
    | (apply of_pair; assumption) | (apply of_next; assumption) | dsimp only | apply pair_wf | apply mem_wf
    | apply mk_wf

theorem execAmoMaxz32_wf (g : Guard) (d : Reg) (b : Src) (m : AmoOperand) (s : State) (hw : Wf s) :
    okR (execAmoMaxz32 g d b m s) := by
  unfold execAmoMaxz32
  with_reducible repeat' first
    | assumption | intro _ | apply amoForm_wf | apply foldl_wf | apply foldl_pair | apply ite_wf | apply ite_pair
    | apply ite_okR | apply ite_okKv | apply fst_wf | apply next_ok | apply stop_ok | apply refuse_ok | split
    | (apply of_pair; assumption) | (apply of_next; assumption) | dsimp only | apply pair_wf | apply mem_wf
    | apply mk_wf

theorem execAmoMaxz64_wf (g : Guard) (d : Reg) (b : Src) (m : AmoOperand) (s : State) (hw : Wf s) :
    okR (execAmoMaxz64 g d b m s) := by
  unfold execAmoMaxz64
  with_reducible repeat' first
    | assumption | intro _ | apply amoForm_wf | apply foldl_wf | apply foldl_pair | apply ite_wf | apply ite_pair
    | apply ite_okR | apply ite_okKv | apply fst_wf | apply next_ok | apply stop_ok | apply refuse_ok | split
    | (apply of_pair; assumption) | (apply of_next; assumption) | dsimp only | apply pair_wf | apply mem_wf
    | apply mk_wf

theorem execAmoMin32_wf (g : Guard) (d : Reg) (b : Src) (m : AmoOperand) (s : State) (hw : Wf s) :
    okR (execAmoMin32 g d b m s) := by
  unfold execAmoMin32
  with_reducible repeat' first
    | assumption | intro _ | apply amoForm_wf | apply foldl_wf | apply foldl_pair | apply ite_wf | apply ite_pair
    | apply ite_okR | apply ite_okKv | apply fst_wf | apply next_ok | apply stop_ok | apply refuse_ok | split
    | (apply of_pair; assumption) | (apply of_next; assumption) | dsimp only | apply pair_wf | apply mem_wf
    | apply mk_wf

theorem execAmoMin64_wf (g : Guard) (d : Reg) (b : Src) (m : AmoOperand) (s : State) (hw : Wf s) :
    okR (execAmoMin64 g d b m s) := by
  unfold execAmoMin64
  with_reducible repeat' first
    | assumption | intro _ | apply amoForm_wf | apply foldl_wf | apply foldl_pair | apply ite_wf | apply ite_pair
    | apply ite_okR | apply ite_okKv | apply fst_wf | apply next_ok | apply stop_ok | apply refuse_ok | split
    | (apply of_pair; assumption) | (apply of_next; assumption) | dsimp only | apply pair_wf | apply mem_wf
    | apply mk_wf

theorem execAmoMinz32_wf (g : Guard) (d : Reg) (b : Src) (m : AmoOperand) (s : State) (hw : Wf s) :
    okR (execAmoMinz32 g d b m s) := by
  unfold execAmoMinz32
  with_reducible repeat' first
    | assumption | intro _ | apply amoForm_wf | apply foldl_wf | apply foldl_pair | apply ite_wf | apply ite_pair
    | apply ite_okR | apply ite_okKv | apply fst_wf | apply next_ok | apply stop_ok | apply refuse_ok | split
    | (apply of_pair; assumption) | (apply of_next; assumption) | dsimp only | apply pair_wf | apply mem_wf
    | apply mk_wf

theorem execAmoMinz64_wf (g : Guard) (d : Reg) (b : Src) (m : AmoOperand) (s : State) (hw : Wf s) :
    okR (execAmoMinz64 g d b m s) := by
  unfold execAmoMinz64
  with_reducible repeat' first
    | assumption | intro _ | apply amoForm_wf | apply foldl_wf | apply foldl_pair | apply ite_wf | apply ite_pair
    | apply ite_okR | apply ite_okKv | apply fst_wf | apply next_ok | apply stop_ok | apply refuse_ok | split
    | (apply of_pair; assumption) | (apply of_next; assumption) | dsimp only | apply pair_wf | apply mem_wf
    | apply mk_wf

theorem execAmoOr32_wf (g : Guard) (d : Reg) (b : Src) (m : AmoOperand) (s : State) (hw : Wf s) :
    okR (execAmoOr32 g d b m s) := by
  unfold execAmoOr32
  with_reducible repeat' first
    | assumption | intro _ | apply amoForm_wf | apply foldl_wf | apply foldl_pair | apply ite_wf | apply ite_pair
    | apply ite_okR | apply ite_okKv | apply fst_wf | apply next_ok | apply stop_ok | apply refuse_ok | split
    | (apply of_pair; assumption) | (apply of_next; assumption) | dsimp only | apply pair_wf | apply mem_wf
    | apply mk_wf

theorem execAmoOr64_wf (g : Guard) (d : Reg) (b : Src) (m : AmoOperand) (s : State) (hw : Wf s) :
    okR (execAmoOr64 g d b m s) := by
  unfold execAmoOr64
  with_reducible repeat' first
    | assumption | intro _ | apply amoForm_wf | apply foldl_wf | apply foldl_pair | apply ite_wf | apply ite_pair
    | apply ite_okR | apply ite_okKv | apply fst_wf | apply next_ok | apply stop_ok | apply refuse_ok | split
    | (apply of_pair; assumption) | (apply of_next; assumption) | dsimp only | apply pair_wf | apply mem_wf
    | apply mk_wf

theorem execAmoSwap32_wf (g : Guard) (d : Reg) (b : Src) (m : AmoOperand) (s : State) (hw : Wf s) :
    okR (execAmoSwap32 g d b m s) := by
  unfold execAmoSwap32
  with_reducible repeat' first
    | assumption | intro _ | apply amoForm_wf | apply foldl_wf | apply foldl_pair | apply ite_wf | apply ite_pair
    | apply ite_okR | apply ite_okKv | apply fst_wf | apply next_ok | apply stop_ok | apply refuse_ok | split
    | (apply of_pair; assumption) | (apply of_next; assumption) | dsimp only | apply pair_wf | apply mem_wf
    | apply mk_wf

end Sys2Proof.Laws.Canon
end

