-- ==== Sys2Proof/Laws/Canon4.lean ====
section
/-!
SUPPORT. The memory stays in its canonical form: one lemma per operation, callees first (4 of 5).
-/
namespace Sys2Proof.Laws.Canon

open Sys2Proof Machine

-- One list of alternatives closes every proof, so most alternatives go unused in each.
set_option linter.all false

theorem execAmoSwap64_wf (g : Guard) (d : Reg) (b : Src) (m : AmoOperand) (s : State) (hw : Wf s) :
    okR (execAmoSwap64 g d b m s) := by
  unfold execAmoSwap64
  with_reducible repeat' first
    | assumption | intro _ | apply amoForm_wf | apply foldl_wf | apply foldl_pair | apply ite_wf | apply ite_pair
    | apply ite_okR | apply ite_okKv | apply fst_wf | apply next_ok | apply stop_ok | apply refuse_ok | split
    | (apply of_pair; assumption) | (apply of_next; assumption) | dsimp only | apply pair_wf | apply mem_wf
    | apply mk_wf

theorem execAmoXor32_wf (g : Guard) (d : Reg) (b : Src) (m : AmoOperand) (s : State) (hw : Wf s) :
    okR (execAmoXor32 g d b m s) := by
  unfold execAmoXor32
  with_reducible repeat' first
    | assumption | intro _ | apply amoForm_wf | apply foldl_wf | apply foldl_pair | apply ite_wf | apply ite_pair
    | apply ite_okR | apply ite_okKv | apply fst_wf | apply next_ok | apply stop_ok | apply refuse_ok | split
    | (apply of_pair; assumption) | (apply of_next; assumption) | dsimp only | apply pair_wf | apply mem_wf
    | apply mk_wf

theorem execAmoXor64_wf (g : Guard) (d : Reg) (b : Src) (m : AmoOperand) (s : State) (hw : Wf s) :
    okR (execAmoXor64 g d b m s) := by
  unfold execAmoXor64
  with_reducible repeat' first
    | assumption | intro _ | apply amoForm_wf | apply foldl_wf | apply foldl_pair | apply ite_wf | apply ite_pair
    | apply ite_okR | apply ite_okKv | apply fst_wf | apply next_ok | apply stop_ok | apply refuse_ok | split
    | (apply of_pair; assumption) | (apply of_next; assumption) | dsimp only | apply pair_wf | apply mem_wf
    | apply mk_wf

theorem execAnd_wf (g : Guard) (d : Reg) (a : Src) (b : Src) (s : State) (hw : Wf s) :
    okR (execAnd g d a b s) := by
  unfold execAnd
  with_reducible repeat' first
    | assumption | intro _ | apply aluForm_wf | apply foldl_wf | apply foldl_pair | apply ite_wf | apply ite_pair
    | apply ite_okR | apply ite_okKv | apply fst_wf | apply next_ok | apply stop_ok | apply refuse_ok | split
    | (apply of_pair; assumption) | (apply of_next; assumption) | dsimp only | apply pair_wf | apply mem_wf
    | apply mk_wf

theorem execAndi_wf (g : Guard) (d : Reg) (a : Src) (imm : BitVec 37) (s : State) (hw : Wf s) :
    okR (execAndi g d a imm s) := by
  unfold execAndi
  with_reducible repeat' first
    | assumption | intro _ | apply aluForm_wf | apply foldl_wf | apply foldl_pair | apply ite_wf | apply ite_pair
    | apply ite_okR | apply ite_okKv | apply fst_wf | apply next_ok | apply stop_ok | apply refuse_ok | split
    | (apply of_pair; assumption) | (apply of_next; assumption) | dsimp only | apply pair_wf | apply mem_wf
    | apply mk_wf

theorem execAndn_wf (g : Guard) (d : Reg) (a : Src) (b : Src) (s : State) (hw : Wf s) :
    okR (execAndn g d a b s) := by
  unfold execAndn
  with_reducible repeat' first
    | assumption | intro _ | apply aluForm_wf | apply foldl_wf | apply foldl_pair | apply ite_wf | apply ite_pair
    | apply ite_okR | apply ite_okKv | apply fst_wf | apply next_ok | apply stop_ok | apply refuse_ok | split
    | (apply of_pair; assumption) | (apply of_next; assumption) | dsimp only | apply pair_wf | apply mem_wf
    | apply mk_wf

theorem opEvent_wf (op : Nat) (act : Frame → BitVec 8 → (Nat → Option Flit) → OpState → OpAct) (c : CoreIx)
    (rt : Fin 16) (s : State) (hw : Wf s) :
    okR (opEvent op act c rt s) := by
  unfold opEvent
  with_reducible repeat' first
    | assumption | intro _ | apply opMove_wf | apply opStop_wf | apply setOpState_wf | apply foldl_wf
    | apply foldl_pair | apply ite_wf | apply ite_pair | apply ite_okR | apply ite_okKv | apply fst_wf | apply next_ok
    | apply stop_ok | apply refuse_ok | split | (apply of_pair; assumption) | (apply of_next; assumption) | dsimp only
    | apply pair_wf | apply mem_wf | apply mk_wf

theorem execArb_wf (c : CoreIx) (rt : Fin 16) (s : State) (hw : Wf s) :
    okR (execArb c rt s) := by
  unfold execArb
  with_reducible repeat' first
    | assumption | intro _ | apply opEvent_wf | apply foldl_wf | apply foldl_pair | apply ite_wf | apply ite_pair
    | apply ite_okR | apply ite_okKv | apply fst_wf | apply next_ok | apply stop_ok | apply refuse_ok | split
    | (apply of_pair; assumption) | (apply of_next; assumption) | dsimp only | apply pair_wf | apply mem_wf
    | apply mk_wf

theorem execAsyncTrap_wf (c : CoreIx) (s : State) (hw : Wf s) :
    okR (execAsyncTrap c s) := by
  unfold execAsyncTrap
  with_reducible repeat' first
    | assumption | intro _ | apply modCpOf_wf | apply foldl_wf | apply foldl_pair | apply ite_wf | apply ite_pair
    | apply ite_okR | apply ite_okKv | apply fst_wf | apply next_ok | apply stop_ok | apply refuse_ok | split
    | (apply of_pair; assumption) | (apply of_next; assumption) | dsimp only | apply pair_wf | apply mem_wf
    | apply mk_wf

theorem execAtsDisable_wf (s : State) (hw : Wf s) :
    okR (execAtsDisable s) := by
  unfold execAtsDisable
  with_reducible repeat' first
    | assumption | intro _ | apply foldl_wf | apply foldl_pair | apply ite_wf | apply ite_pair | apply ite_okR
    | apply ite_okKv | apply fst_wf | apply next_ok | apply stop_ok | apply refuse_ok | split
    | (apply of_pair; assumption) | (apply of_next; assumption) | dsimp only | apply pair_wf | apply mem_wf
    | apply mk_wf

theorem execAtsInvalidation_wf (page : BitVec 34) (s : State) (hw : Wf s) :
    okR (execAtsInvalidation page s) := by
  unfold execAtsInvalidation
  with_reducible repeat' first
    | assumption | intro _ | apply answer_wf | apply foldl_wf | apply foldl_pair | apply ite_wf | apply ite_pair
    | apply ite_okR | apply ite_okKv | apply fst_wf | apply next_ok | apply stop_ok | apply refuse_ok | split
    | (apply of_pair; assumption) | (apply of_next; assumption) | dsimp only | apply pair_wf | apply mem_wf
    | apply mk_wf

theorem execAtsTranslationCompletion_wf (page : BitVec 34) (frame : BitVec 34) (s : State) (hw : Wf s) :
    okR (execAtsTranslationCompletion page frame s) := by
  unfold execAtsTranslationCompletion
  with_reducible repeat' first
    | assumption | intro _ | apply foldl_wf | apply foldl_pair | apply ite_wf | apply ite_pair | apply ite_okR
    | apply ite_okKv | apply fst_wf | apply next_ok | apply stop_ok | apply refuse_ok | split
    | (apply of_pair; assumption) | (apply of_next; assumption) | dsimp only | apply pair_wf | apply mem_wf
    | apply mk_wf

theorem execBankAccess_wf (who : Requester) (id : Nat) (seg : Nat) (s : State) (hw : Wf s) :
    okR (execBankAccess who id seg s) := by
  unfold execBankAccess
  with_reducible repeat' first
    | assumption | intro _ | apply failRead_wf | apply failStore_wf | apply outsidePerform_wf | apply perform_wf
    | apply unitAccess_wf | apply foldl_wf | apply foldl_pair | apply ite_wf | apply ite_pair | apply ite_okR
    | apply ite_okKv | apply fst_wf | apply next_ok | apply stop_ok | apply refuse_ok | split
    | (apply of_pair; assumption) | (apply of_next; assumption) | dsimp only | apply pair_wf | apply mem_wf
    | apply mk_wf

theorem execBarAll_wf (g : Guard) (d : Reg) (s : State) (hw : Wf s) :
    okR (execBarAll g d s) := by
  unfold execBarAll
  with_reducible repeat' first
    | assumption | intro _ | apply cmdForm_wf | apply reply_wf | apply stand_wf | apply foldl_wf | apply foldl_pair
    | apply ite_wf | apply ite_pair | apply ite_okR | apply ite_okKv | apply fst_wf | apply next_ok | apply stop_ok
    | apply refuse_ok | split | (apply of_pair; assumption) | (apply of_next; assumption) | dsimp only | apply pair_wf
    | apply mem_wf | apply mk_wf

theorem execBarCfg_wf (g : Guard) (d : Reg) (u : CfgUnit) (drain : Bool) (tag : BitVec 8) (s : State) (hw : Wf s) :
    okR (execBarCfg g d u drain tag s) := by
  unfold execBarCfg
  with_reducible repeat' first
    | assumption | intro _ | apply barCfgEnd_wf | apply cmdForm_wf | apply reply_wf | apply stand_wf | apply foldl_wf
    | apply foldl_pair | apply ite_wf | apply ite_pair | apply ite_okR | apply ite_okKv | apply fst_wf | apply next_ok
    | apply stop_ok | apply refuse_ok | split | (apply of_pair; assumption) | (apply of_next; assumption) | dsimp only
    | apply pair_wf | apply mem_wf | apply mk_wf

theorem execBarIf_wf (g : Guard) (d : Reg) (ag : Fin 8) (a : Src) (cond : BarCond) (s : State) (hw : Wf s) :
    okR (execBarIf g d ag a cond s) := by
  unfold execBarIf
  with_reducible repeat' first
    | assumption | intro _ | apply cancelStream_wf | apply cmdForm_wf | apply launch_wf | apply postWork_wf
    | apply reply_wf | apply setStream_wf | apply foldl_wf | apply foldl_pair | apply ite_wf | apply ite_pair
    | apply ite_okR | apply ite_okKv | apply fst_wf | apply next_ok | apply stop_ok | apply refuse_ok | split
    | (apply of_pair; assumption) | (apply of_next; assumption) | dsimp only | apply pair_wf | apply mem_wf
    | apply mk_wf

theorem execBarIfDecide_wf (c : CoreIx) (ag : Fin 8) (slot : Fin 4) (s : State) (hw : Wf s) :
    okR (execBarIfDecide c ag slot s) := by
  unfold execBarIfDecide
  with_reducible repeat' first
    | assumption | intro _ | apply launch_wf | apply sbAskPop_wf | apply sbDropFlit_wf | apply setStream_wf
    | apply streamBad_wf | apply foldl_wf | apply foldl_pair | apply ite_wf | apply ite_pair | apply ite_okR
    | apply ite_okKv | apply fst_wf | apply next_ok | apply stop_ok | apply refuse_ok | split
    | (apply of_pair; assumption) | (apply of_next; assumption) | dsimp only | apply pair_wf | apply mem_wf
    | apply mk_wf

theorem execBarRd_wf (g : Guard) (d : Reg) (u : BarUnit) (s : State) (hw : Wf s) :
    okR (execBarRd g d u s) := by
  unfold execBarRd
  with_reducible repeat' first
    | assumption | intro _ | apply barForm_wf | apply foldl_wf | apply foldl_pair | apply ite_wf | apply ite_pair
    | apply ite_okR | apply ite_okKv | apply fst_wf | apply next_ok | apply stop_ok | apply refuse_ok | split
    | (apply of_pair; assumption) | (apply of_next; assumption) | dsimp only | apply pair_wf | apply mem_wf
    | apply mk_wf

theorem execBarWr_wf (g : Guard) (d : Reg) (u : BarUnit) (s : State) (hw : Wf s) :
    okR (execBarWr g d u s) := by
  unfold execBarWr
  with_reducible repeat' first
    | assumption | intro _ | apply barForm_wf | apply foldl_wf | apply foldl_pair | apply ite_wf | apply ite_pair
    | apply ite_okR | apply ite_okKv | apply fst_wf | apply next_ok | apply stop_ok | apply refuse_ok | split
    | (apply of_pair; assumption) | (apply of_next; assumption) | dsimp only | apply pair_wf | apply mem_wf
    | apply mk_wf

theorem execTaskDone_wf (g : Guard) (s : State) (hw : Wf s) :
    okR (execTaskDone g s) := by
  unfold execTaskDone
  with_reducible repeat' first
    | assumption | intro _ | apply cancelDeferred_wf | apply cmdForm_wf | apply complete_wf | apply stand_wf
    | apply foldl_wf | apply foldl_pair | apply ite_wf | apply ite_pair | apply ite_okR | apply ite_okKv
    | apply fst_wf | apply next_ok | apply stop_ok | apply refuse_ok | split | (apply of_pair; assumption)
    | (apply of_next; assumption) | dsimp only | apply pair_wf | apply mem_wf | apply mk_wf

theorem execBarrierEnd_wf (c : CoreIx) (s : State) (hw : Wf s) :
    okR (execBarrierEnd c s) := by
  unfold execBarrierEnd
  with_reducible repeat' first
    | assumption | intro _ | apply atCore_wf | apply execBarAll_wf | apply execBarCfg_wf | apply execBarRd_wf
    | apply execBarWr_wf | apply execTaskDone_wf | apply foldl_wf | apply foldl_pair | apply ite_wf | apply ite_pair
    | apply ite_okR | apply ite_okKv | apply fst_wf | apply next_ok | apply stop_ok | apply refuse_ok | split
    | (apply of_pair; assumption) | (apply of_next; assumption) | dsimp only | apply pair_wf | apply mem_wf
    | apply mk_wf

theorem execBext_wf (g : Guard) (d : Reg) (a : Src) (b : Src) (c : Src) (s : State) (hw : Wf s) :
    okR (execBext g d a b c s) := by
  unfold execBext
  with_reducible repeat' first
    | assumption | intro _ | apply aluForm_wf | apply foldl_wf | apply foldl_pair | apply ite_wf | apply ite_pair
    | apply ite_okR | apply ite_okKv | apply fst_wf | apply next_ok | apply stop_ok | apply refuse_ok | split
    | (apply of_pair; assumption) | (apply of_next; assumption) | dsimp only | apply pair_wf | apply mem_wf
    | apply mk_wf

theorem execBins_wf (g : Guard) (d : Reg) (a : Src) (b : Src) (c : Src) (s : State) (hw : Wf s) :
    okR (execBins g d a b c s) := by
  unfold execBins
  with_reducible repeat' first
    | assumption | intro _ | apply aluForm_wf | apply foldl_wf | apply foldl_pair | apply ite_wf | apply ite_pair
    | apply ite_okR | apply ite_okKv | apply fst_wf | apply next_ok | apply stop_ok | apply refuse_ok | split
    | (apply of_pair; assumption) | (apply of_next; assumption) | dsimp only | apply pair_wf | apply mem_wf
    | apply mk_wf

theorem execBoot_wf (s : State) (hw : Wf s) :
    okR (execBoot s) := by
  unfold execBoot
  with_reducible repeat' first
    | assumption | intro _ | apply runImage_wf | apply foldl_wf | apply foldl_pair | apply ite_wf | apply ite_pair
    | apply ite_okR | apply ite_okKv | apply fst_wf | apply next_ok | apply stop_ok | apply refuse_ok | split
    | (apply of_pair; assumption) | (apply of_next; assumption) | dsimp only | apply pair_wf | apply mem_wf
    | apply mk_wf

theorem execBr_wf (g : Guard) (off : BitVec 32) (s : State) (hw : Wf s) :
    okR (execBr g off s) := by
  unfold execBr
  with_reducible repeat' first
    | assumption | intro _ | apply modCp_wf | apply runForm_wf | apply foldl_wf | apply foldl_pair | apply ite_wf
    | apply ite_pair | apply ite_okR | apply ite_okKv | apply fst_wf | apply next_ok | apply stop_ok | apply refuse_ok
    | split | (apply of_pair; assumption) | (apply of_next; assumption) | dsimp only | apply pair_wf | apply mem_wf
    | apply mk_wf

theorem execBrk_wf (g : Guard) (code : BitVec 16) (s : State) (hw : Wf s) :
    okR (execBrk g code s) := by
  unfold execBrk
  with_reducible repeat' first
    | assumption | intro _ | apply raise_wf | apply runForm_wf | apply foldl_wf | apply foldl_pair | apply ite_wf
    | apply ite_pair | apply ite_okR | apply ite_okKv | apply fst_wf | apply next_ok | apply stop_ok | apply refuse_ok
    | split | (apply of_pair; assumption) | (apply of_next; assumption) | dsimp only | apply pair_wf | apply mem_wf
    | apply mk_wf

theorem execCall_wf (g : Guard) (d : Reg) (off : BitVec 32) (s : State) (hw : Wf s) :
    okR (execCall g d off s) := by
  unfold execCall
  with_reducible repeat' first
    | assumption | intro _ | apply modCp_wf | apply runForm_wf | apply foldl_wf | apply foldl_pair | apply ite_wf
    | apply ite_pair | apply ite_okR | apply ite_okKv | apply fst_wf | apply next_ok | apply stop_ok | apply refuse_ok
    | split | (apply of_pair; assumption) | (apply of_next; assumption) | dsimp only | apply pair_wf | apply mem_wf
    | apply mk_wf

theorem execCarry_wf (c : CoreIx) (rt : Fin 16) (s : State) (hw : Wf s) :
    okR (execCarry c rt s) := by
  unfold execCarry
  with_reducible repeat' first
    | assumption | intro _ | apply opEvent_wf | apply foldl_wf | apply foldl_pair | apply ite_wf | apply ite_pair
    | apply ite_okR | apply ite_okKv | apply fst_wf | apply next_ok | apply stop_ok | apply refuse_ok | split
    | (apply of_pair; assumption) | (apply of_next; assumption) | dsimp only | apply pair_wf | apply mem_wf
    | apply mk_wf

theorem execCfgEvict_wf (g : Guard) (d : Reg) (u : CfgUnit) (a : Src) (mode : BitVec 2) (tag : BitVec 8)
    (s : State) (hw : Wf s) :
    okR (execCfgEvict g d u a mode tag s) := by
  unfold execCfgEvict
  with_reducible repeat' first
    | assumption | intro _ | apply cfgIssue_wf | apply cmdForm_wf | apply modGrid_wf | apply postWork_wf
    | apply posted_wf | apply reply_wf | apply foldl_wf | apply foldl_pair | apply ite_wf | apply ite_pair
    | apply ite_okR | apply ite_okKv | apply fst_wf | apply next_ok | apply stop_ok | apply refuse_ok | split
    | (apply of_pair; assumption) | (apply of_next; assumption) | dsimp only | apply pair_wf | apply mem_wf
    | apply mk_wf

theorem execCfgFetch_wf (g : Guard) (d : Reg) (u : CfgUnit) (a : Src) (s : State) (hw : Wf s) :
    okR (execCfgFetch g d u a s) := by
  unfold execCfgFetch
  with_reducible repeat' first
    | assumption | intro _ | apply cfgIssue_wf | apply cmdForm_wf | apply foldl_wf | apply foldl_pair | apply ite_wf
    | apply ite_pair | apply ite_okR | apply ite_okKv | apply fst_wf | apply next_ok | apply stop_ok | apply refuse_ok
    | split | (apply of_pair; assumption) | (apply of_next; assumption) | dsimp only | apply pair_wf | apply mem_wf
    | apply mk_wf

theorem execCfgInband_wf (g : Guard) (d : Reg) (ag : Fin 4) (a : Src) (s : State) (hw : Wf s) :
    okR (execCfgInband g d ag a s) := by
  unfold execCfgInband
  with_reducible repeat' first
    | assumption | intro _ | apply cfgIssue_wf | apply cmdForm_wf | apply foldl_wf | apply foldl_pair | apply ite_wf
    | apply ite_pair | apply ite_okR | apply ite_okKv | apply fst_wf | apply next_ok | apply stop_ok | apply refuse_ok
    | split | (apply of_pair; assumption) | (apply of_next; assumption) | dsimp only | apply pair_wf | apply mem_wf
    | apply mk_wf

theorem execCfgLoad_wf (g : Guard) (d : Reg) (u : CfgUnit) (a : Src) (s : State) (hw : Wf s) :
    okR (execCfgLoad g d u a s) := by
  unfold execCfgLoad
  with_reducible repeat' first
    | assumption | intro _ | apply cfgIssue_wf | apply cmdForm_wf | apply foldl_wf | apply foldl_pair | apply ite_wf
    | apply ite_pair | apply ite_okR | apply ite_okKv | apply fst_wf | apply next_ok | apply stop_ok | apply refuse_ok
    | split | (apply of_pair; assumption) | (apply of_next; assumption) | dsimp only | apply pair_wf | apply mem_wf
    | apply mk_wf

theorem execCfgProbe_wf (g : Guard) (d : Reg) (u : CfgUnit) (sel : BitVec 7) (s : State) (hw : Wf s) :
    okR (execCfgProbe g d u sel s) := by
  unfold execCfgProbe
  with_reducible repeat' first
    | assumption | intro _ | apply cmdForm_wf | apply reply_wf | apply foldl_wf | apply foldl_pair | apply ite_wf
    | apply ite_pair | apply ite_okR | apply ite_okKv | apply fst_wf | apply next_ok | apply stop_ok | apply refuse_ok
    | split | (apply of_pair; assumption) | (apply of_next; assumption) | dsimp only | apply pair_wf | apply mem_wf
    | apply mk_wf

theorem execCfgTag_wf (g : Guard) (d : Reg) (tag : BitVec 8) (s : State) (hw : Wf s) :
    okR (execCfgTag g d tag s) := by
  unfold execCfgTag
  with_reducible repeat' first
    | assumption | intro _ | apply cmdForm_wf | apply complete_wf | apply foldl_wf | apply foldl_pair | apply ite_wf
    | apply ite_pair | apply ite_okR | apply ite_okKv | apply fst_wf | apply next_ok | apply stop_ok | apply refuse_ok
    | split | (apply of_pair; assumption) | (apply of_next; assumption) | dsimp only | apply pair_wf | apply mem_wf
    | apply mk_wf

theorem execClockStepChange_wf (s : State) (hw : Wf s) :
    okR (execClockStepChange s) := by
  unfold execClockStepChange
  with_reducible repeat' first
    | assumption | intro _ | apply foldl_wf | apply foldl_pair | apply ite_wf | apply ite_pair | apply ite_okR
    | apply ite_okKv | apply fst_wf | apply next_ok | apply stop_ok | apply refuse_ok | split
    | (apply of_pair; assumption) | (apply of_next; assumption) | dsimp only | apply pair_wf | apply mem_wf
    | apply mk_wf

theorem execClz_wf (g : Guard) (d : Reg) (a : Src) (s : State) (hw : Wf s) :
    okR (execClz g d a s) := by
  unfold execClz
  with_reducible repeat' first
    | assumption | intro _ | apply aluForm_wf | apply foldl_wf | apply foldl_pair | apply ite_wf | apply ite_pair
    | apply ite_okR | apply ite_okKv | apply fst_wf | apply next_ok | apply stop_ok | apply refuse_ok | split
    | (apply of_pair; assumption) | (apply of_next; assumption) | dsimp only | apply pair_wf | apply mem_wf
    | apply mk_wf

theorem predForm_wf (s : State) (i : Instr) (g : Guard) (srcs : List Src) (d : PReg) (b : Bool) (hw : Wf s) :
    okR (predForm s i g srcs d b) := by
  unfold predForm
  with_reducible repeat' first
    | assumption | intro _ | apply retire_wf | apply runForm_wf | apply foldl_wf | apply foldl_pair | apply ite_wf
    | apply ite_pair | apply ite_okR | apply ite_okKv | apply fst_wf | apply next_ok | apply stop_ok | apply refuse_ok
    | split | (apply of_pair; assumption) | (apply of_next; assumption) | dsimp only | apply pair_wf | apply mem_wf
    | apply mk_wf

theorem execCmpEq_wf (g : Guard) (d : PReg) (a : Src) (b : Src) (s : State) (hw : Wf s) :
    okR (execCmpEq g d a b s) := by
  unfold execCmpEq
  with_reducible repeat' first
    | assumption | intro _ | apply predForm_wf | apply foldl_wf | apply foldl_pair | apply ite_wf | apply ite_pair
    | apply ite_okR | apply ite_okKv | apply fst_wf | apply next_ok | apply stop_ok | apply refuse_ok | split
    | (apply of_pair; assumption) | (apply of_next; assumption) | dsimp only | apply pair_wf | apply mem_wf
    | apply mk_wf

theorem execCmpGe_wf (g : Guard) (d : PReg) (a : Src) (b : Src) (s : State) (hw : Wf s) :
    okR (execCmpGe g d a b s) := by
  unfold execCmpGe
  with_reducible repeat' first
    | assumption | intro _ | apply predForm_wf | apply foldl_wf | apply foldl_pair | apply ite_wf | apply ite_pair
    | apply ite_okR | apply ite_okKv | apply fst_wf | apply next_ok | apply stop_ok | apply refuse_ok | split
    | (apply of_pair; assumption) | (apply of_next; assumption) | dsimp only | apply pair_wf | apply mem_wf
    | apply mk_wf

theorem execCmpHs_wf (g : Guard) (d : PReg) (a : Src) (b : Src) (s : State) (hw : Wf s) :
    okR (execCmpHs g d a b s) := by
  unfold execCmpHs
  with_reducible repeat' first
    | assumption | intro _ | apply predForm_wf | apply foldl_wf | apply foldl_pair | apply ite_wf | apply ite_pair
    | apply ite_okR | apply ite_okKv | apply fst_wf | apply next_ok | apply stop_ok | apply refuse_ok | split
    | (apply of_pair; assumption) | (apply of_next; assumption) | dsimp only | apply pair_wf | apply mem_wf
    | apply mk_wf

theorem execCmpLo_wf (g : Guard) (d : PReg) (a : Src) (b : Src) (s : State) (hw : Wf s) :
    okR (execCmpLo g d a b s) := by
  unfold execCmpLo
  with_reducible repeat' first
    | assumption | intro _ | apply predForm_wf | apply foldl_wf | apply foldl_pair | apply ite_wf | apply ite_pair
    | apply ite_okR | apply ite_okKv | apply fst_wf | apply next_ok | apply stop_ok | apply refuse_ok | split
    | (apply of_pair; assumption) | (apply of_next; assumption) | dsimp only | apply pair_wf | apply mem_wf
    | apply mk_wf

theorem execCmpLt_wf (g : Guard) (d : PReg) (a : Src) (b : Src) (s : State) (hw : Wf s) :
    okR (execCmpLt g d a b s) := by
  unfold execCmpLt
  with_reducible repeat' first
    | assumption | intro _ | apply predForm_wf | apply foldl_wf | apply foldl_pair | apply ite_wf | apply ite_pair
    | apply ite_okR | apply ite_okKv | apply fst_wf | apply next_ok | apply stop_ok | apply refuse_ok | split
    | (apply of_pair; assumption) | (apply of_next; assumption) | dsimp only | apply pair_wf | apply mem_wf
    | apply mk_wf

theorem execCmpNe_wf (g : Guard) (d : PReg) (a : Src) (b : Src) (s : State) (hw : Wf s) :
    okR (execCmpNe g d a b s) := by
  unfold execCmpNe
  with_reducible repeat' first
    | assumption | intro _ | apply predForm_wf | apply foldl_wf | apply foldl_pair | apply ite_wf | apply ite_pair
    | apply ite_okR | apply ite_okKv | apply fst_wf | apply next_ok | apply stop_ok | apply refuse_ok | split
    | (apply of_pair; assumption) | (apply of_next; assumption) | dsimp only | apply pair_wf | apply mem_wf
    | apply mk_wf

theorem execCmpiEq_wf (g : Guard) (d : PReg) (a : Src) (imm : BitVec 37) (s : State) (hw : Wf s) :
    okR (execCmpiEq g d a imm s) := by
  unfold execCmpiEq
  with_reducible repeat' first
    | assumption | intro _ | apply predForm_wf | apply foldl_wf | apply foldl_pair | apply ite_wf | apply ite_pair
    | apply ite_okR | apply ite_okKv | apply fst_wf | apply next_ok | apply stop_ok | apply refuse_ok | split
    | (apply of_pair; assumption) | (apply of_next; assumption) | dsimp only | apply pair_wf | apply mem_wf
    | apply mk_wf

theorem execCmpiGe_wf (g : Guard) (d : PReg) (a : Src) (imm : BitVec 37) (s : State) (hw : Wf s) :
    okR (execCmpiGe g d a imm s) := by
  unfold execCmpiGe
  with_reducible repeat' first
    | assumption | intro _ | apply predForm_wf | apply foldl_wf | apply foldl_pair | apply ite_wf | apply ite_pair
    | apply ite_okR | apply ite_okKv | apply fst_wf | apply next_ok | apply stop_ok | apply refuse_ok | split
    | (apply of_pair; assumption) | (apply of_next; assumption) | dsimp only | apply pair_wf | apply mem_wf
    | apply mk_wf

theorem execCmpiHs_wf (g : Guard) (d : PReg) (a : Src) (imm : BitVec 37) (s : State) (hw : Wf s) :
    okR (execCmpiHs g d a imm s) := by
  unfold execCmpiHs
  with_reducible repeat' first
    | assumption | intro _ | apply predForm_wf | apply foldl_wf | apply foldl_pair | apply ite_wf | apply ite_pair
    | apply ite_okR | apply ite_okKv | apply fst_wf | apply next_ok | apply stop_ok | apply refuse_ok | split
    | (apply of_pair; assumption) | (apply of_next; assumption) | dsimp only | apply pair_wf | apply mem_wf
    | apply mk_wf

theorem execCmpiLo_wf (g : Guard) (d : PReg) (a : Src) (imm : BitVec 37) (s : State) (hw : Wf s) :
    okR (execCmpiLo g d a imm s) := by
  unfold execCmpiLo
  with_reducible repeat' first
    | assumption | intro _ | apply predForm_wf | apply foldl_wf | apply foldl_pair | apply ite_wf | apply ite_pair
    | apply ite_okR | apply ite_okKv | apply fst_wf | apply next_ok | apply stop_ok | apply refuse_ok | split
    | (apply of_pair; assumption) | (apply of_next; assumption) | dsimp only | apply pair_wf | apply mem_wf
    | apply mk_wf

theorem execCmpiLt_wf (g : Guard) (d : PReg) (a : Src) (imm : BitVec 37) (s : State) (hw : Wf s) :
    okR (execCmpiLt g d a imm s) := by
  unfold execCmpiLt
  with_reducible repeat' first
    | assumption | intro _ | apply predForm_wf | apply foldl_wf | apply foldl_pair | apply ite_wf | apply ite_pair
    | apply ite_okR | apply ite_okKv | apply fst_wf | apply next_ok | apply stop_ok | apply refuse_ok | split
    | (apply of_pair; assumption) | (apply of_next; assumption) | dsimp only | apply pair_wf | apply mem_wf
    | apply mk_wf

theorem execCmpiNe_wf (g : Guard) (d : PReg) (a : Src) (imm : BitVec 37) (s : State) (hw : Wf s) :
    okR (execCmpiNe g d a imm s) := by
  unfold execCmpiNe
  with_reducible repeat' first
    | assumption | intro _ | apply predForm_wf | apply foldl_wf | apply foldl_pair | apply ite_wf | apply ite_pair
    | apply ite_okR | apply ite_okKv | apply fst_wf | apply next_ok | apply stop_ok | apply refuse_ok | split
    | (apply of_pair; assumption) | (apply of_next; assumption) | dsimp only | apply pair_wf | apply mem_wf
    | apply mk_wf

theorem execColdreset_wf (s : State) (hw : Wf s) :
    okR (execColdreset s) := by
  exact next_ok (memFilter_wf s.mem _ hw)

theorem execCollA2a_wf (g : Guard) (d : Reg) (a : Src) (s : State) (hw : Wf s) :
    okR (execCollA2a g d a s) := by
  unfold execCollA2a
  with_reducible repeat' first
    | assumption | intro _ | apply collForm_wf | apply foldl_wf | apply foldl_pair | apply ite_wf | apply ite_pair
    | apply ite_okR | apply ite_okKv | apply fst_wf | apply next_ok | apply stop_ok | apply refuse_ok | split
    | (apply of_pair; assumption) | (apply of_next; assumption) | dsimp only | apply pair_wf | apply mem_wf
    | apply mk_wf

theorem execCollAttn_wf (g : Guard) (d : Reg) (a : Src) (s : State) (hw : Wf s) :
    okR (execCollAttn g d a s) := by
  unfold execCollAttn
  with_reducible repeat' first
    | assumption | intro _ | apply collForm_wf | apply foldl_wf | apply foldl_pair | apply ite_wf | apply ite_pair
    | apply ite_okR | apply ite_okKv | apply fst_wf | apply next_ok | apply stop_ok | apply refuse_ok | split
    | (apply of_pair; assumption) | (apply of_next; assumption) | dsimp only | apply pair_wf | apply mem_wf
    | apply mk_wf

theorem execCollBcast_wf (g : Guard) (d : Reg) (a : Src) (s : State) (hw : Wf s) :
    okR (execCollBcast g d a s) := by
  unfold execCollBcast
  with_reducible repeat' first
    | assumption | intro _ | apply collForm_wf | apply foldl_wf | apply foldl_pair | apply ite_wf | apply ite_pair
    | apply ite_okR | apply ite_okKv | apply fst_wf | apply next_ok | apply stop_ok | apply refuse_ok | split
    | (apply of_pair; assumption) | (apply of_next; assumption) | dsimp only | apply pair_wf | apply mem_wf
    | apply mk_wf

theorem execCollCombine_wf (team : BitVec 16) (seq : BitVec 16) (t : Arrival) (s : State) (hw : Wf s) :
    okR (execCollCombine team seq t s) := by
  unfold execCollCombine
  with_reducible repeat' first
    | assumption | intro _ | apply jobStep_wf | apply foldl_wf | apply foldl_pair | apply ite_wf | apply ite_pair
    | apply ite_okR | apply ite_okKv | apply fst_wf | apply next_ok | apply stop_ok | apply refuse_ok | split
    | (apply of_pair; assumption) | (apply of_next; assumption) | dsimp only | apply pair_wf | apply mem_wf
    | apply mk_wf

theorem execCollGath_wf (g : Guard) (d : Reg) (a : Src) (s : State) (hw : Wf s) :
    okR (execCollGath g d a s) := by
  unfold execCollGath
  with_reducible repeat' first
    | assumption | intro _ | apply collForm_wf | apply foldl_wf | apply foldl_pair | apply ite_wf | apply ite_pair
    | apply ite_okR | apply ite_okKv | apply fst_wf | apply next_ok | apply stop_ok | apply refuse_ok | split
    | (apply of_pair; assumption) | (apply of_next; assumption) | dsimp only | apply pair_wf | apply mem_wf
    | apply mk_wf

theorem execCollRed_wf (g : Guard) (d : Reg) (a : Src) (s : State) (hw : Wf s) :
    okR (execCollRed g d a s) := by
  unfold execCollRed
  with_reducible repeat' first
    | assumption | intro _ | apply collForm_wf | apply foldl_wf | apply foldl_pair | apply ite_wf | apply ite_pair
    | apply ite_okR | apply ite_okKv | apply fst_wf | apply next_ok | apply stop_ok | apply refuse_ok | split
    | (apply of_pair; assumption) | (apply of_next; assumption) | dsimp only | apply pair_wf | apply mem_wf
    | apply mk_wf

theorem execCollRendezvous_wf (team : BitVec 16) (r : Rendezvous) (s : State) (hw : Wf s) :
    okR (execCollRendezvous team r s) := by
  unfold execCollRendezvous
  with_reducible repeat' first
    | assumption | intro _ | apply collBegin_wf | apply collFail_wf | apply failWithdrawn_wf | apply foldl_wf
    | apply foldl_pair | apply ite_wf | apply ite_pair | apply ite_okR | apply ite_okKv | apply fst_wf | apply next_ok
    | apply stop_ok | apply refuse_ok | split | (apply of_pair; assumption) | (apply of_next; assumption) | dsimp only
    | apply pair_wf | apply mem_wf | apply mk_wf

theorem execCollScat_wf (g : Guard) (d : Reg) (a : Src) (s : State) (hw : Wf s) :
    okR (execCollScat g d a s) := by
  unfold execCollScat
  with_reducible repeat' first
    | assumption | intro _ | apply collForm_wf | apply foldl_wf | apply foldl_pair | apply ite_wf | apply ite_pair
    | apply ite_okR | apply ite_okKv | apply fst_wf | apply next_ok | apply stop_ok | apply refuse_ok | split
    | (apply of_pair; assumption) | (apply of_next; assumption) | dsimp only | apply pair_wf | apply mem_wf
    | apply mk_wf

theorem execCollWait_wf (g : Guard) (d : Reg) (a : Src) (s : State) (hw : Wf s) :
    okR (execCollWait g d a s) := by
  unfold execCollWait
  with_reducible repeat' first
    | assumption | intro _ | apply cmdForm_wf | apply reply_wf | apply setColl_wf | apply stand_wf | apply foldl_wf
    | apply foldl_pair | apply ite_wf | apply ite_pair | apply ite_okR | apply ite_okKv | apply fst_wf | apply next_ok
    | apply stop_ok | apply refuse_ok | split | (apply of_pair; assumption) | (apply of_next; assumption) | dsimp only
    | apply pair_wf | apply mem_wf | apply mk_wf

theorem execCollWaitEnd_wf (c : CoreIx) (s : State) (hw : Wf s) :
    okR (execCollWaitEnd c s) := by
  unfold execCollWaitEnd
  with_reducible repeat' first
    | assumption | intro _ | apply atCore_wf | apply execCollWait_wf | apply foldl_wf | apply foldl_pair
    | apply ite_wf | apply ite_pair | apply ite_okR | apply ite_okKv | apply fst_wf | apply next_ok | apply stop_ok
    | apply refuse_ok | split | (apply of_pair; assumption) | (apply of_next; assumption) | dsimp only | apply pair_wf
    | apply mem_wf | apply mk_wf

theorem execCompressPhase_wf (c : CoreIx) (tm : Fin 16) (s : State) (hw : Wf s) :
    okR (execCompressPhase c tm s) := by
  unfold execCompressPhase
  with_reducible repeat' first
    | assumption | intro _ | apply deliverFlit_wf | apply setTpl_wf | apply squeezePut_wf | apply squeezeRead_wf
    | apply squeezeTake_wf | apply foldl_wf | apply foldl_pair | apply ite_wf | apply ite_pair | apply ite_okR
    | apply ite_okKv | apply fst_wf | apply next_ok | apply stop_ok | apply refuse_ok | split
    | (apply of_pair; assumption) | (apply of_sent; assumption) | (apply of_fst; assumption)
    | (apply of_delWait; assumption) | (apply of_fstWait; assumption) | (apply of_next; assumption) | dsimp only
    | apply pair_wf | apply mem_wf | apply mk_wf

theorem execConfigRecord_wf (c : CoreIx) (node : NodeId) (s : State) (hw : Wf s) :
    okR (execConfigRecord c node s) := by
  unfold execConfigRecord
  with_reducible repeat' first
    | assumption | intro _ | apply collectFlit_wf | apply grantTo_wf | apply popChan_wf | apply recordDone_wf
    | apply foldl_wf | apply foldl_pair | apply ite_wf | apply ite_pair | apply ite_okR | apply ite_okKv
    | apply fst_wf | apply next_ok | apply stop_ok | apply refuse_ok | split | (apply of_pair; assumption)
    | (apply of_next; assumption) | dsimp only | apply pair_wf | apply mem_wf | apply mk_wf

theorem execCopyEnd_wf (c : CoreIx) (tm : Fin 16) (s : State) (hw : Wf s) :
    okR (execCopyEnd c tm s) := by
  unfold execCopyEnd
  with_reducible repeat' first
    | assumption | intro _ | apply active_wf | apply emitFire_wf | apply setTpl_wf | apply tilePoison_wf
    | apply tplBad_wf | apply foldl_wf | apply foldl_pair | apply ite_wf | apply ite_pair | apply ite_okR
    | apply ite_okKv | apply fst_wf | apply next_ok | apply stop_ok | apply refuse_ok | split
    | (apply of_pair; assumption) | (apply of_sent; assumption) | (apply of_fst; assumption)
    | (apply of_delWait; assumption) | (apply of_fstWait; assumption) | (apply of_next; assumption) | dsimp only
    | apply pair_wf | apply mem_wf | apply mk_wf

theorem execCtlAbort_wf (g : Guard) (d : Reg) (ct : Fin 8) (s : State) (hw : Wf s) :
    okR (execCtlAbort g d ct s) := by
  unfold execCtlAbort
  with_reducible repeat' first
    | assumption | intro _ | apply abortTree_wf | apply cmdForm_wf | apply ctlAccept_wf | apply ctlReply_wf
    | apply runsDue_wf | apply foldl_wf | apply foldl_pair | apply ite_wf | apply ite_pair | apply ite_okR
    | apply ite_okKv | apply fst_wf | apply next_ok | apply stop_ok | apply refuse_ok | split
    | (apply of_pair; assumption) | (apply of_next; assumption) | dsimp only | apply pair_wf | apply mem_wf
    | apply mk_wf

theorem execCtlGo_wf (g : Guard) (d : Reg) (ct : Fin 8) (s : State) (hw : Wf s) :
    okR (execCtlGo g d ct s) := by
  unfold execCtlGo
  with_reducible repeat' first
    | assumption | intro _ | apply cmdForm_wf | apply ctlAccept_wf | apply ctlReply_wf | apply sendCtl_wf
    | apply setCtl_wf | apply foldl_wf | apply foldl_pair | apply ite_wf | apply ite_pair | apply ite_okR
    | apply ite_okKv | apply fst_wf | apply next_ok | apply stop_ok | apply refuse_ok | split
    | (apply of_pair; assumption) | (apply of_next; assumption) | dsimp only | apply pair_wf | apply mem_wf
    | apply mk_wf

theorem execCtlSet_wf (g : Guard) (d : Reg) (ct : Fin 8) (a : Src) (n : BitVec 2) (s : State) (hw : Wf s) :
    okR (execCtlSet g d ct a n s) := by
  unfold execCtlSet
  with_reducible repeat' first
    | assumption | intro _ | apply cmdForm_wf | apply ctlAccept_wf | apply ctlReply_wf | apply setCtl_wf
    | apply foldl_wf | apply foldl_pair | apply ite_wf | apply ite_pair | apply ite_okR | apply ite_okKv
    | apply fst_wf | apply next_ok | apply stop_ok | apply refuse_ok | split | (apply of_pair; assumption)
    | (apply of_next; assumption) | dsimp only | apply pair_wf | apply mem_wf | apply mk_wf

theorem execCtlWait_wf (g : Guard) (d : Reg) (ct : Fin 8) (s : State) (hw : Wf s) :
    okR (execCtlWait g d ct s) := by
  unfold execCtlWait
  with_reducible repeat' first
    | assumption | intro _ | apply cmdForm_wf | apply ctlReply_wf | apply stand_wf | apply foldl_wf | apply foldl_pair
    | apply ite_wf | apply ite_pair | apply ite_okR | apply ite_okKv | apply fst_wf | apply next_ok | apply stop_ok
    | apply refuse_ok | split | (apply of_pair; assumption) | (apply of_next; assumption) | dsimp only | apply pair_wf
    | apply mem_wf | apply mk_wf

theorem execCtlWaitEnd_wf (c : CoreIx) (s : State) (hw : Wf s) :
    okR (execCtlWaitEnd c s) := by
  unfold execCtlWaitEnd
  with_reducible repeat' first
    | assumption | intro _ | apply atCore_wf | apply execCtlWait_wf | apply foldl_wf | apply foldl_pair | apply ite_wf
    | apply ite_pair | apply ite_okR | apply ite_okKv | apply fst_wf | apply next_ok | apply stop_ok | apply refuse_ok
    | split | (apply of_pair; assumption) | (apply of_next; assumption) | dsimp only | apply pair_wf | apply mem_wf
    | apply mk_wf

theorem execCtz_wf (g : Guard) (d : Reg) (a : Src) (s : State) (hw : Wf s) :
    okR (execCtz g d a s) := by
  unfold execCtz
  with_reducible repeat' first
    | assumption | intro _ | apply aluForm_wf | apply foldl_wf | apply foldl_pair | apply ite_wf | apply ite_pair
    | apply ite_okR | apply ite_okKv | apply fst_wf | apply next_ok | apply stop_ok | apply refuse_ok | split
    | (apply of_pair; assumption) | (apply of_next; assumption) | dsimp only | apply pair_wf | apply mem_wf
    | apply mk_wf

theorem execCycleStretch_wf (d : DieIx) (s : State) (hw : Wf s) :
    okR (execCycleStretch d s) := by
  unfold execCycleStretch
  with_reducible repeat' first
    | assumption | intro _ | apply modDie_wf | apply foldl_wf | apply foldl_pair | apply ite_wf | apply ite_pair
    | apply ite_okR | apply ite_okKv | apply fst_wf | apply next_ok | apply stop_ok | apply refuse_ok | split
    | (apply of_pair; assumption) | (apply of_next; assumption) | dsimp only | apply pair_wf | apply mem_wf
    | apply mk_wf

theorem execDeadlockTrap_wf (c : CoreIx) (s : State) (hw : Wf s) :
    okR (execDeadlockTrap c s) := by
  unfold execDeadlockTrap
  with_reducible repeat' first
    | assumption | intro _ | apply modGrid_wf | apply pendTrap_wf | apply foldl_wf | apply foldl_pair | apply ite_wf
    | apply ite_pair | apply ite_okR | apply ite_okKv | apply fst_wf | apply next_ok | apply stop_ok | apply refuse_ok
    | split | (apply of_pair; assumption) | (apply of_next; assumption) | dsimp only | apply pair_wf | apply mem_wf
    | apply mk_wf

theorem execDemandFill_wf (c : CoreIx) (node : NodeId) (s : State) (hw : Wf s) :
    okR (execDemandFill c node s) := by
  unfold execDemandFill
  with_reducible repeat' first
    | assumption | intro _ | apply active_wf | apply count_wf | apply fillFault_wf | apply modGrid_wf
    | apply readPlace_wf | apply foldl_wf | apply foldl_pair | apply ite_wf | apply ite_pair | apply ite_okR
    | apply ite_okKv | apply fst_wf | apply next_ok | apply stop_ok | apply refuse_ok | split
    | (apply of_pair; assumption) | (apply of_next; assumption) | dsimp only | apply pair_wf | apply mem_wf
    | apply mk_wf

theorem portEvent_wf (op : Nat) (c : CoreIx) (mt : Fin 4) (port : Fin 4) (part : PortPart) (s : State) (hw : Wf s) :
    okR (portEvent op c mt port part s) := by
  unfold portEvent
  with_reducible repeat' first
    | assumption | intro _ | apply portHead_wf | apply portPerform_wf | apply portSend_wf | apply foldl_wf
    | apply foldl_pair | apply ite_wf | apply ite_pair | apply ite_okR | apply ite_okKv | apply fst_wf | apply next_ok
    | apply stop_ok | apply refuse_ok | split | (apply of_pair; assumption) | (apply of_next; assumption) | dsimp only
    | apply pair_wf | apply mem_wf | apply mk_wf

theorem execDep_wf (c : CoreIx) (mt : Fin 4) (port : Fin 4) (part : PortPart) (s : State) (hw : Wf s) :
    okR (execDep c mt port part s) := by
  unfold execDep
  with_reducible repeat' first
    | assumption | intro _ | apply portEvent_wf | apply foldl_wf | apply foldl_pair | apply ite_wf | apply ite_pair
    | apply ite_okR | apply ite_okKv | apply fst_wf | apply next_ok | apply stop_ok | apply refuse_ok | split
    | (apply of_pair; assumption) | (apply of_next; assumption) | dsimp only | apply pair_wf | apply mem_wf
    | apply mk_wf

theorem execDigitEmit_wf (c : CoreIx) (pe : Fin 16) (s : State) (hw : Wf s) :
    okR (execDigitEmit c pe s) := by
  unfold execDigitEmit
  with_reducible repeat' first
    | assumption | intro _ | apply peAcc_wf | apply peCst_wf | apply peEmit_wf | apply peKills_wf | apply peSend_wf
    | apply peTake_wf | apply foldl_wf | apply foldl_pair | apply ite_wf | apply ite_pair | apply ite_okR
    | apply ite_okKv | apply fst_wf | apply next_ok | apply stop_ok | apply refuse_ok | split
    | (apply of_pair; assumption) | (apply of_next; assumption) | dsimp only | apply pair_wf | apply mem_wf
    | apply mk_wf

theorem execDiv_wf (g : Guard) (d : Reg) (a : Src) (b : Src) (s : State) (hw : Wf s) :
    okR (execDiv g d a b s) := by
  unfold execDiv
  with_reducible repeat' first
    | assumption | intro _ | apply aluForm_wf | apply foldl_wf | apply foldl_pair | apply ite_wf | apply ite_pair
    | apply ite_okR | apply ite_okKv | apply fst_wf | apply next_ok | apply stop_ok | apply refuse_ok | split
    | (apply of_pair; assumption) | (apply of_next; assumption) | dsimp only | apply pair_wf | apply mem_wf
    | apply mk_wf

theorem execDivz_wf (g : Guard) (d : Reg) (a : Src) (b : Src) (s : State) (hw : Wf s) :
    okR (execDivz g d a b s) := by
  unfold execDivz
  with_reducible repeat' first
    | assumption | intro _ | apply aluForm_wf | apply foldl_wf | apply foldl_pair | apply ite_wf | apply ite_pair
    | apply ite_okR | apply ite_okKv | apply fst_wf | apply next_ok | apply stop_ok | apply refuse_ok | split
    | (apply of_pair; assumption) | (apply of_next; assumption) | dsimp only | apply pair_wf | apply mem_wf
    | apply mk_wf

theorem execEvictDrainClear_wf (c : CoreIx) (i : Nat) (s : State) (hw : Wf s) :
    okR (execEvictDrainClear c i s) := by
  unfold execEvictDrainClear
  with_reducible repeat' first
    | assumption | intro _ | apply clearSlot_wf | apply discardTag_wf | apply endEvict_wf | apply modGrid_wf
    | apply foldl_wf | apply foldl_pair | apply ite_wf | apply ite_pair | apply ite_okR | apply ite_okKv
    | apply fst_wf | apply next_ok | apply stop_ok | apply refuse_ok | split | (apply of_pair; assumption)
    | (apply of_next; assumption) | dsimp only | apply pair_wf | apply mem_wf | apply mk_wf

theorem execFabricCycle_wf (s : State) (hw : Wf s) :
    okR (execFabricCycle s) := by
  unfold execFabricCycle
  with_reducible repeat' first
    | assumption | intro _ | apply endCore_wf | apply endDue_wf | apply endPlain_wf | apply pairCycle_wf
    | apply foldl_wf | apply foldl_pair | apply ite_wf | apply ite_pair | apply ite_okR | apply ite_okKv
    | apply fst_wf | apply next_ok | apply stop_ok | apply refuse_ok | split | (apply of_pair; assumption)
    | (apply of_next; assumption) | dsimp only | apply pair_wf | apply mem_wf | apply mk_wf

theorem fpForm_wf (s : State) (i : Instr) (g : Guard) (srcs : List Src) (d : Reg) (r : Word × FFlags) (hw : Wf s) :
    okR (fpForm s i g srcs d r) := by
  unfold fpForm
  with_reducible repeat' first
    | assumption | intro _ | apply retire_wf | apply runForm_wf | apply foldl_wf | apply foldl_pair | apply ite_wf
    | apply ite_pair | apply ite_okR | apply ite_okKv | apply fst_wf | apply next_ok | apply stop_ok | apply refuse_ok
    | split | (apply of_pair; assumption) | (apply of_next; assumption) | dsimp only | apply pair_wf | apply mem_wf
    | apply mk_wf

theorem execFadd_wf (g : Guard) (f : Prec) (d : Reg) (a : Src) (b : Src) (s : State) (hw : Wf s) :
    okR (execFadd g f d a b s) := by
  unfold execFadd
  with_reducible repeat' first
    | assumption | intro _ | apply fpForm_wf | apply foldl_wf | apply foldl_pair | apply ite_wf | apply ite_pair
    | apply ite_okR | apply ite_okKv | apply fst_wf | apply next_ok | apply stop_ok | apply refuse_ok | split
    | (apply of_pair; assumption) | (apply of_next; assumption) | dsimp only | apply pair_wf | apply mem_wf
    | apply mk_wf

theorem execFclass_wf (g : Guard) (f : Prec) (d : Reg) (a : Src) (s : State) (hw : Wf s) :
    okR (execFclass g f d a s) := by
  unfold execFclass
  with_reducible repeat' first
    | assumption | intro _ | apply aluForm_wf | apply foldl_wf | apply foldl_pair | apply ite_wf | apply ite_pair
    | apply ite_okR | apply ite_okKv | apply fst_wf | apply next_ok | apply stop_ok | apply refuse_ok | split
    | (apply of_pair; assumption) | (apply of_next; assumption) | dsimp only | apply pair_wf | apply mem_wf
    | apply mk_wf

theorem execFcmp_wf (g : Guard) (f : Prec) (rel : FRel) (d : PReg) (a : Src) (b : Src) (s : State) (hw : Wf s) :
    okR (execFcmp g f rel d a b s) := by
  unfold execFcmp
  with_reducible repeat' first
    | assumption | intro _ | apply retire_wf | apply runForm_wf | apply foldl_wf | apply foldl_pair | apply ite_wf
    | apply ite_pair | apply ite_okR | apply ite_okKv | apply fst_wf | apply next_ok | apply stop_ok | apply refuse_ok
    | split | (apply of_pair; assumption) | (apply of_next; assumption) | dsimp only | apply pair_wf | apply mem_wf
    | apply mk_wf

theorem execFcvt_wf (g : Guard) (f : Prec) (fromInt : Bool) (n : FNum) (d : Reg) (a : Src) (s : State) (hw : Wf s) :
    okR (execFcvt g f fromInt n d a s) := by
  unfold execFcvt
  with_reducible repeat' first
    | assumption | intro _ | apply fpForm_wf | apply foldl_wf | apply foldl_pair | apply ite_wf | apply ite_pair
    | apply ite_okR | apply ite_okKv | apply fst_wf | apply next_ok | apply stop_ok | apply refuse_ok | split
    | (apply of_pair; assumption) | (apply of_next; assumption) | dsimp only | apply pair_wf | apply mem_wf
    | apply mk_wf

theorem execFdiv_wf (g : Guard) (f : Prec) (d : Reg) (a : Src) (b : Src) (s : State) (hw : Wf s) :
    okR (execFdiv g f d a b s) := by
  unfold execFdiv
  with_reducible repeat' first
    | assumption | intro _ | apply fpForm_wf | apply foldl_wf | apply foldl_pair | apply ite_wf | apply ite_pair
    | apply ite_okR | apply ite_okKv | apply fst_wf | apply next_ok | apply stop_ok | apply refuse_ok | split
    | (apply of_pair; assumption) | (apply of_next; assumption) | dsimp only | apply pair_wf | apply mem_wf
    | apply mk_wf

theorem execFence_wf (g : Guard) (sc : BitVec 3) (s : State) (hw : Wf s) :
    okR (execFence g sc s) := by
  unfold execFence
  with_reducible repeat' first
    | assumption | intro _ | apply retire_wf | apply runForm_wf | apply foldl_wf | apply foldl_pair | apply ite_wf
    | apply ite_pair | apply ite_okR | apply ite_okKv | apply fst_wf | apply next_ok | apply stop_ok | apply refuse_ok
    | split | (apply of_pair; assumption) | (apply of_next; assumption) | dsimp only | apply pair_wf | apply mem_wf
    | apply mk_wf

theorem execFenceCfg_wf (g : Guard) (s : State) (hw : Wf s) :
    okR (execFenceCfg g s) := by
  unfold execFenceCfg
  with_reducible repeat' first
    | assumption | intro _ | apply retire_wf | apply runForm_wf | apply foldl_wf | apply foldl_pair | apply ite_wf
    | apply ite_pair | apply ite_okR | apply ite_okKv | apply fst_wf | apply next_ok | apply stop_ok | apply refuse_ok
    | split | (apply of_pair; assumption) | (apply of_next; assumption) | dsimp only | apply pair_wf | apply mem_wf
    | apply mk_wf

theorem execFenceResume_wf (c : CoreIx) (s : State) (hw : Wf s) :
    okR (execFenceResume c s) := by
  unfold execFenceResume
  with_reducible repeat' first
    | assumption | intro _ | apply modCpOf_wf | apply foldl_wf | apply foldl_pair | apply ite_wf | apply ite_pair
    | apply ite_okR | apply ite_okKv | apply fst_wf | apply next_ok | apply stop_ok | apply refuse_ok | split
    | (apply of_pair; assumption) | (apply of_next; assumption) | dsimp only | apply pair_wf | apply mem_wf
    | apply mk_wf

theorem execFenceX_wf (g : Guard) (sc : BitVec 3) (s : State) (hw : Wf s) :
    okR (execFenceX g sc s) := by
  unfold execFenceX
  with_reducible repeat' first
    | assumption | intro _ | apply retire_wf | apply runForm_wf | apply foldl_wf | apply foldl_pair | apply ite_wf
    | apply ite_pair | apply ite_okR | apply ite_okKv | apply fst_wf | apply next_ok | apply stop_ok | apply refuse_ok
    | split | (apply of_pair; assumption) | (apply of_next; assumption) | dsimp only | apply pair_wf | apply mem_wf
    | apply mk_wf

theorem execFfma_wf (g : Guard) (f : Prec) (d : Reg) (a : Src) (b : Src) (c : Src) (s : State) (hw : Wf s) :
    okR (execFfma g f d a b c s) := by
  unfold execFfma
  with_reducible repeat' first
    | assumption | intro _ | apply fpForm_wf | apply foldl_wf | apply foldl_pair | apply ite_wf | apply ite_pair
    | apply ite_okR | apply ite_okKv | apply fst_wf | apply next_ok | apply stop_ok | apply refuse_ok | split
    | (apply of_pair; assumption) | (apply of_next; assumption) | dsimp only | apply pair_wf | apply mem_wf
    | apply mk_wf

theorem execFmax_wf (g : Guard) (f : Prec) (d : Reg) (a : Src) (b : Src) (s : State) (hw : Wf s) :
    okR (execFmax g f d a b s) := by
  unfold execFmax
  with_reducible repeat' first
    | assumption | intro _ | apply fpForm_wf | apply foldl_wf | apply foldl_pair | apply ite_wf | apply ite_pair
    | apply ite_okR | apply ite_okKv | apply fst_wf | apply next_ok | apply stop_ok | apply refuse_ok | split
    | (apply of_pair; assumption) | (apply of_next; assumption) | dsimp only | apply pair_wf | apply mem_wf
    | apply mk_wf

theorem execFmin_wf (g : Guard) (f : Prec) (d : Reg) (a : Src) (b : Src) (s : State) (hw : Wf s) :
    okR (execFmin g f d a b s) := by
  unfold execFmin
  with_reducible repeat' first
    | assumption | intro _ | apply fpForm_wf | apply foldl_wf | apply foldl_pair | apply ite_wf | apply ite_pair
    | apply ite_okR | apply ite_okKv | apply fst_wf | apply next_ok | apply stop_ok | apply refuse_ok | split
    | (apply of_pair; assumption) | (apply of_next; assumption) | dsimp only | apply pair_wf | apply mem_wf
    | apply mk_wf

theorem execFmul_wf (g : Guard) (f : Prec) (d : Reg) (a : Src) (b : Src) (s : State) (hw : Wf s) :
    okR (execFmul g f d a b s) := by
  unfold execFmul
  with_reducible repeat' first
    | assumption | intro _ | apply fpForm_wf | apply foldl_wf | apply foldl_pair | apply ite_wf | apply ite_pair
    | apply ite_okR | apply ite_okKv | apply fst_wf | apply next_ok | apply stop_ok | apply refuse_ok | split
    | (apply of_pair; assumption) | (apply of_next; assumption) | dsimp only | apply pair_wf | apply mem_wf
    | apply mk_wf

theorem execFrameInstall_wf (c : CoreIx) (i : Nat) (s : State) (hw : Wf s) :
    okR (execFrameInstall c i s) := by
  unfold execFrameInstall
  with_reducible repeat' first
    | assumption | intro _ | apply stepInstall_wf | apply foldl_wf | apply foldl_pair | apply ite_wf | apply ite_pair
    | apply ite_okR | apply ite_okKv | apply fst_wf | apply next_ok | apply stop_ok | apply refuse_ok | split
    | (apply of_pair; assumption) | (apply of_next; assumption) | dsimp only | apply pair_wf | apply mem_wf
    | apply mk_wf

theorem execFreeze_wf (d : DieIx) (s : State) (hw : Wf s) :
    okR (execFreeze d s) := by
  unfold execFreeze
  with_reducible repeat' first
    | assumption | intro _ | apply freezeTask_wf | apply foldl_wf | apply foldl_pair | apply ite_wf | apply ite_pair
    | apply ite_okR | apply ite_okKv | apply fst_wf | apply next_ok | apply stop_ok | apply refuse_ok | split
    | (apply of_pair; assumption) | (apply of_next; assumption) | dsimp only | apply pair_wf | apply mem_wf
    | apply mk_wf

theorem execFrzLoad_wf (g : Guard) (d : Reg) (a : Src) (q : Fin 16) (s : State) (hw : Wf s) :
    okR (execFrzLoad g d a q s) := by
  unfold execFrzLoad
  with_reducible repeat' first
    | assumption | intro _ | apply cmdForm_wf | apply frzReply_wf | apply imageChecked_wf | apply modDie_wf
    | apply foldl_wf | apply foldl_pair | apply ite_wf | apply ite_pair | apply ite_okR | apply ite_okKv
    | apply fst_wf | apply next_ok | apply stop_ok | apply refuse_ok | split | (apply of_pair; assumption)
    | (apply of_next; assumption) | dsimp only | apply pair_wf | apply mem_wf | apply mk_wf

theorem execFrzSave_wf (g : Guard) (d : Reg) (a : Src) (b : Src) (s : State) (hw : Wf s) :
    okR (execFrzSave g d a b s) := by
  unfold execFrzSave
  with_reducible repeat' first
    | assumption | intro _ | apply cmdForm_wf | apply frzReply_wf | apply posted_wf | apply startWave_wf
    | apply foldl_wf | apply foldl_pair | apply ite_wf | apply ite_pair | apply ite_okR | apply ite_okKv
    | apply fst_wf | apply next_ok | apply stop_ok | apply refuse_ok | split | (apply of_pair; assumption)
    | (apply of_next; assumption) | dsimp only | apply pair_wf | apply mem_wf | apply mk_wf

theorem execFsqrt_wf (g : Guard) (f : Prec) (d : Reg) (a : Src) (s : State) (hw : Wf s) :
    okR (execFsqrt g f d a s) := by
  unfold execFsqrt
  with_reducible repeat' first
    | assumption | intro _ | apply fpForm_wf | apply foldl_wf | apply foldl_pair | apply ite_wf | apply ite_pair
    | apply ite_okR | apply ite_okKv | apply fst_wf | apply next_ok | apply stop_ok | apply refuse_ok | split
    | (apply of_pair; assumption) | (apply of_next; assumption) | dsimp only | apply pair_wf | apply mem_wf
    | apply mk_wf

theorem execFsub_wf (g : Guard) (f : Prec) (d : Reg) (a : Src) (b : Src) (s : State) (hw : Wf s) :
    okR (execFsub g f d a b s) := by
  unfold execFsub
  with_reducible repeat' first
    | assumption | intro _ | apply fpForm_wf | apply foldl_wf | apply foldl_pair | apply ite_wf | apply ite_pair
    | apply ite_okR | apply ite_okKv | apply fst_wf | apply next_ok | apply stop_ok | apply refuse_ok | split
    | (apply of_pair; assumption) | (apply of_next; assumption) | dsimp only | apply pair_wf | apply mem_wf
    | apply mk_wf

theorem execGath_wf (c : CoreIx) (mt : Fin 4) (port : Fin 4) (part : PortPart) (s : State) (hw : Wf s) :
    okR (execGath c mt port part s) := by
  unfold execGath
  with_reducible repeat' first
    | assumption | intro _ | apply portEvent_wf | apply foldl_wf | apply foldl_pair | apply ite_wf | apply ite_pair
    | apply ite_okR | apply ite_okKv | apply fst_wf | apply next_ok | apply stop_ok | apply refuse_ok | split
    | (apply of_pair; assumption) | (apply of_next; assumption) | dsimp only | apply pair_wf | apply mem_wf
    | apply mk_wf

theorem execHalt_wf (g : Guard) (s : State) (hw : Wf s) :
    okR (execHalt g s) := by
  unfold execHalt
  with_reducible repeat' first
    | assumption | intro _ | apply retire_wf | apply runForm_wf | apply foldl_wf | apply foldl_pair | apply ite_wf
    | apply ite_pair | apply ite_okR | apply ite_okKv | apply fst_wf | apply next_ok | apply stop_ok | apply refuse_ok
    | split | (apply of_pair; assumption) | (apply of_next; assumption) | dsimp only | apply pair_wf | apply mem_wf
    | apply mk_wf

theorem execHostAccess_wf (r : HostReq) (s : State) (hw : Wf s) :
    okR (execHostAccess r s) := by
  unfold execHostAccess
  with_reducible repeat' first
    | assumption | intro _ | apply answer_wf | apply homeRead_wf | apply hostMmioWrite_wf | apply mgmtStore_wf
    | apply outsideStart_wf | apply outsideWrite_wf | apply unsupported_wf | apply foldl_wf | apply foldl_pair
    | apply ite_wf | apply ite_pair | apply ite_okR | apply ite_okKv | apply fst_wf | apply next_ok | apply stop_ok
    | apply refuse_ok | split | (apply of_pair; assumption) | (apply of_next; assumption) | dsimp only | apply pair_wf
    | apply mem_wf | apply mk_wf

theorem execHostAtomicop_wf (r : HostAtomic) (s : State) (hw : Wf s) :
    okR (execHostAtomicop r s) := by
  have hm : ∀ (pa n m : Nat) (o : Option Nat), Wf (match o with
      | some v => (s.homeRead pa n).1.outsideWrite pa (leBytes v m)
      | none => (s.homeRead pa n).1) := by
    intro pa n m o
    cases o
    · exact fst_wf (homeRead_wf s pa n hw)
    · exact outsideWrite_wf _ _ _ (fst_wf (homeRead_wf s pa n hw))
  unfold execHostAtomicop
  dsimp only
  exact ite_okR (ite_okR (next_ok hw) (next_ok (answer_wf _ _ (hm _ _ _ _)))) (next_ok (unsupported_wf s _ _ hw))

theorem execInvar_wf (c : CoreIx) (rt : Fin 16) (s : State) (hw : Wf s) :
    okR (execInvar c rt s) := by
  unfold execInvar
  with_reducible repeat' first
    | assumption | intro _ | apply opEvent_wf | apply foldl_wf | apply foldl_pair | apply ite_wf | apply ite_pair
    | apply ite_okR | apply ite_okKv | apply fst_wf | apply next_ok | apply stop_ok | apply refuse_ok | split
    | (apply of_pair; assumption) | (apply of_next; assumption) | dsimp only | apply pair_wf | apply mem_wf
    | apply mk_wf

theorem execJoin_wf (c : CoreIx) (rt : Fin 16) (s : State) (hw : Wf s) :
    okR (execJoin c rt s) := by
  unfold execJoin
  with_reducible repeat' first
    | assumption | intro _ | apply opEvent_wf | apply foldl_wf | apply foldl_pair | apply ite_wf | apply ite_pair
    | apply ite_okR | apply ite_okKv | apply fst_wf | apply next_ok | apply stop_ok | apply refuse_ok | split
    | (apply of_pair; assumption) | (apply of_next; assumption) | dsimp only | apply pair_wf | apply mem_wf
    | apply mk_wf

theorem execJr_wf (g : Guard) (d : Reg) (a : Src) (s : State) (hw : Wf s) :
    okR (execJr g d a s) := by
  unfold execJr
  with_reducible repeat' first
    | assumption | intro _ | apply modCp_wf | apply raise_wf | apply runForm_wf | apply foldl_wf | apply foldl_pair
    | apply ite_wf | apply ite_pair | apply ite_okR | apply ite_okKv | apply fst_wf | apply next_ok | apply stop_ok
    | apply refuse_ok | split | (apply of_pair; assumption) | (apply of_next; assumption) | dsimp only | apply pair_wf
    | apply mem_wf | apply mk_wf

theorem kwriteForm_wf (s : State) (i : Instr) (g : Guard) (k : KReg) (op : KOp) (a : Src) (hw : Wf s) :
    okR (kwriteForm s i g k op a) := by
  unfold kwriteForm
  with_reducible repeat' first
    | assumption | intro _ | apply retire_wf | apply runForm_wf | apply foldl_wf | apply foldl_pair | apply ite_wf
    | apply ite_pair | apply ite_okR | apply ite_okKv | apply fst_wf | apply next_ok | apply stop_ok | apply refuse_ok
    | split | (apply of_pair; assumption) | (apply of_next; assumption) | dsimp only | apply pair_wf | apply mem_wf
    | apply mk_wf

theorem execKclr_wf (g : Guard) (k : KReg) (a : Src) (s : State) (hw : Wf s) :
    okR (execKclr g k a s) := by
  unfold execKclr
  with_reducible repeat' first
    | assumption | intro _ | apply kwriteForm_wf | apply foldl_wf | apply foldl_pair | apply ite_wf | apply ite_pair
    | apply ite_okR | apply ite_okKv | apply fst_wf | apply next_ok | apply stop_ok | apply refuse_ok | split
    | (apply of_pair; assumption) | (apply of_next; assumption) | dsimp only | apply pair_wf | apply mem_wf
    | apply mk_wf

theorem execKill_wf (c : CoreIx) (pe : Fin 16) (s : State) (hw : Wf s) :
    okR (execKill c pe s) := by
  unfold execKill
  with_reducible repeat' first
    | assumption | intro _ | apply modChan_wf | apply setPe_wf | apply foldl_wf | apply foldl_pair | apply ite_wf
    | apply ite_pair | apply ite_okR | apply ite_okKv | apply fst_wf | apply next_ok | apply stop_ok | apply refuse_ok
    | split | (apply of_pair; assumption) | (apply of_next; assumption) | dsimp only | apply pair_wf | apply mem_wf
    | apply mk_wf

theorem execKillReturn_wf (c : CoreIx) (ch : ChanId) (s : State) (hw : Wf s) :
    okR (execKillReturn c ch s) := by
  unfold execKillReturn
  with_reducible repeat' first
    | assumption | intro _ | apply modChan_wf | apply foldl_wf | apply foldl_pair | apply ite_wf | apply ite_pair
    | apply ite_okR | apply ite_okKv | apply fst_wf | apply next_ok | apply stop_ok | apply refuse_ok | split
    | (apply of_pair; assumption) | (apply of_next; assumption) | dsimp only | apply pair_wf | apply mem_wf
    | apply mk_wf

theorem execKrd_wf (g : Guard) (d : Reg) (k : KReg) (s : State) (hw : Wf s) :
    okR (execKrd g d k s) := by
  unfold execKrd
  with_reducible repeat' first
    | assumption | intro _ | apply retire_wf | apply runForm_wf | apply foldl_wf | apply foldl_pair | apply ite_wf
    | apply ite_pair | apply ite_okR | apply ite_okKv | apply fst_wf | apply next_ok | apply stop_ok | apply refuse_ok
    | split | (apply of_pair; assumption) | (apply of_next; assumption) | dsimp only | apply pair_wf | apply mem_wf
    | apply mk_wf

theorem execKset_wf (g : Guard) (k : KReg) (a : Src) (s : State) (hw : Wf s) :
    okR (execKset g k a s) := by
  unfold execKset
  with_reducible repeat' first
    | assumption | intro _ | apply kwriteForm_wf | apply foldl_wf | apply foldl_pair | apply ite_wf | apply ite_pair
    | apply ite_okR | apply ite_okKv | apply fst_wf | apply next_ok | apply stop_ok | apply refuse_ok | split
    | (apply of_pair; assumption) | (apply of_next; assumption) | dsimp only | apply pair_wf | apply mem_wf
    | apply mk_wf

theorem execKtimeTick_wf (s : State) (hw : Wf s) :
    okR (execKtimeTick s) := by
  unfold execKtimeTick
  with_reducible repeat' first
    | assumption | intro _ | apply foldl_wf | apply foldl_pair | apply ite_wf | apply ite_pair | apply ite_okR
    | apply ite_okKv | apply fst_wf | apply next_ok | apply stop_ok | apply refuse_ok | split
    | (apply of_pair; assumption) | (apply of_next; assumption) | dsimp only | apply pair_wf | apply mem_wf
    | apply mk_wf

theorem kvForm_wf (s : State) (i : Instr) (g : Guard) (d : Reg) (srcs : List Src) (kind : KvKind) (die : Nat)
    (ok : Bool) (a : Word) (b : Word) (hw : Wf s) :
    okR (kvForm s i g d srcs kind die ok a b) := by
  unfold kvForm
  with_reducible repeat' first
    | assumption | intro _ | apply cmdForm_wf | apply posted_wf | apply reply_wf | apply foldl_wf | apply foldl_pair
    | apply ite_wf | apply ite_pair | apply ite_okR | apply ite_okKv | apply fst_wf | apply next_ok | apply stop_ok
    | apply refuse_ok | split | (apply of_pair; assumption) | (apply of_next; assumption) | dsimp only | apply pair_wf
    | apply mem_wf | apply mk_wf

theorem execKvAlloc_wf (g : Guard) (d : Reg) (a : Src) (s : State) (hw : Wf s) :
    okR (execKvAlloc g d a s) := by
  unfold execKvAlloc
  with_reducible repeat' first
    | assumption | intro _ | apply kvForm_wf | apply foldl_wf | apply foldl_pair | apply ite_wf | apply ite_pair
    | apply ite_okR | apply ite_okKv | apply fst_wf | apply next_ok | apply stop_ok | apply refuse_ok | split
    | (apply of_pair; assumption) | (apply of_next; assumption) | dsimp only | apply pair_wf | apply mem_wf
    | apply mk_wf

theorem execKvFree_wf (g : Guard) (d : Reg) (a : Src) (all : Bool) (s : State) (hw : Wf s) :
    okR (execKvFree g d a all s) := by
  unfold execKvFree
  with_reducible repeat' first
    | assumption | intro _ | apply kvForm_wf | apply foldl_wf | apply foldl_pair | apply ite_wf | apply ite_pair
    | apply ite_okR | apply ite_okKv | apply fst_wf | apply next_ok | apply stop_ok | apply refuse_ok | split
    | (apply of_pair; assumption) | (apply of_next; assumption) | dsimp only | apply pair_wf | apply mem_wf
    | apply mk_wf

theorem execKvLend_wf (g : Guard) (d : Reg) (a : Src) (b : Src) (s : State) (hw : Wf s) :
    okR (execKvLend g d a b s) := by
  unfold execKvLend
  with_reducible repeat' first
    | assumption | intro _ | apply kvForm_wf | apply foldl_wf | apply foldl_pair | apply ite_wf | apply ite_pair
    | apply ite_okR | apply ite_okKv | apply fst_wf | apply next_ok | apply stop_ok | apply refuse_ok | split
    | (apply of_pair; assumption) | (apply of_next; assumption) | dsimp only | apply pair_wf | apply mem_wf
    | apply mk_wf

theorem execKvLimit_wf (g : Guard) (d : Reg) (a : Src) (b : Src) (clr : Bool) (s : State) (hw : Wf s) :
    okR (execKvLimit g d a b clr s) := by
  unfold execKvLimit
  with_reducible repeat' first
    | assumption | intro _ | apply kvForm_wf | apply foldl_wf | apply foldl_pair | apply ite_wf | apply ite_pair
    | apply ite_okR | apply ite_okKv | apply fst_wf | apply next_ok | apply stop_ok | apply refuse_ok | split
    | (apply of_pair; assumption) | (apply of_next; assumption) | dsimp only | apply pair_wf | apply mem_wf
    | apply mk_wf

theorem execKvMap_wf (g : Guard) (d : Reg) (a : Src) (s : State) (hw : Wf s) :
    okR (execKvMap g d a s) := by
  unfold execKvMap
  with_reducible repeat' first
    | assumption | intro _ | apply kvForm_wf | apply foldl_wf | apply foldl_pair | apply ite_wf | apply ite_pair
    | apply ite_okR | apply ite_okKv | apply fst_wf | apply next_ok | apply stop_ok | apply refuse_ok | split
    | (apply of_pair; assumption) | (apply of_next; assumption) | dsimp only | apply pair_wf | apply mem_wf
    | apply mk_wf

theorem execKvRequestRoute_wf (i : Nat) (s : State) (hw : Wf s) :
    okR (execKvRequestRoute i s) := by
  unfold execKvRequestRoute
  with_reducible repeat' first
    | assumption | intro _ | apply kvFinish_wf | apply kvRemove_wf | apply kvStep_wf | apply foldl_wf
    | apply foldl_pair | apply ite_wf | apply ite_pair | apply ite_okR | apply ite_okKv | apply fst_wf | apply next_ok
    | apply stop_ok | apply refuse_ok | split | (apply of_pair; assumption) | (apply of_kvDone; assumption)
    | (apply of_kvGo; assumption) | (apply of_kvError; assumption) | (apply of_next; assumption) | dsimp only
    | apply pair_wf | apply mem_wf | apply mk_wf

theorem execKvShare_wf (g : Guard) (d : Reg) (a : Src) (b : Src) (s : State) (hw : Wf s) :
    okR (execKvShare g d a b s) := by
  unfold execKvShare
  with_reducible repeat' first
    | assumption | intro _ | apply kvForm_wf | apply foldl_wf | apply foldl_pair | apply ite_wf | apply ite_pair
    | apply ite_okR | apply ite_okKv | apply fst_wf | apply next_ok | apply stop_ok | apply refuse_ok | split
    | (apply of_pair; assumption) | (apply of_next; assumption) | dsimp only | apply pair_wf | apply mem_wf
    | apply mk_wf

theorem execKwr_wf (g : Guard) (k : KReg) (a : Src) (s : State) (hw : Wf s) :
    okR (execKwr g k a s) := by
  unfold execKwr
  with_reducible repeat' first
    | assumption | intro _ | apply kwriteForm_wf | apply foldl_wf | apply foldl_pair | apply ite_wf | apply ite_pair
    | apply ite_okR | apply ite_okKv | apply fst_wf | apply next_ok | apply stop_ok | apply refuse_ok | split
    | (apply of_pair; assumption) | (apply of_next; assumption) | dsimp only | apply pair_wf | apply mem_wf
    | apply mk_wf

theorem loadForm_wf (s : State) (i : Instr) (g : Guard) (d : Reg) (m : MemOp) (n : Nat) (signed : Bool)
    (hw : Wf s) :
    okR (loadForm s i g d m n signed) := by
  unfold loadForm
  with_reducible repeat' first
    | assumption | intro _ | apply accessForm_wf | apply foldl_wf | apply foldl_pair | apply ite_wf | apply ite_pair
    | apply ite_okR | apply ite_okKv | apply fst_wf | apply next_ok | apply stop_ok | apply refuse_ok | split
    | (apply of_pair; assumption) | (apply of_next; assumption) | dsimp only | apply pair_wf | apply mem_wf
    | apply mk_wf

theorem execLd64_wf (g : Guard) (d : Reg) (m : MemOp) (s : State) (hw : Wf s) :
    okR (execLd64 g d m s) := by
  unfold execLd64
  with_reducible repeat' first
    | assumption | intro _ | apply loadForm_wf | apply foldl_wf | apply foldl_pair | apply ite_wf | apply ite_pair
    | apply ite_okR | apply ite_okKv | apply fst_wf | apply next_ok | apply stop_ok | apply refuse_ok | split
    | (apply of_pair; assumption) | (apply of_next; assumption) | dsimp only | apply pair_wf | apply mem_wf
    | apply mk_wf

theorem execLdS16_wf (g : Guard) (d : Reg) (m : MemOp) (s : State) (hw : Wf s) :
    okR (execLdS16 g d m s) := by
  unfold execLdS16
  with_reducible repeat' first
    | assumption | intro _ | apply loadForm_wf | apply foldl_wf | apply foldl_pair | apply ite_wf | apply ite_pair
    | apply ite_okR | apply ite_okKv | apply fst_wf | apply next_ok | apply stop_ok | apply refuse_ok | split
    | (apply of_pair; assumption) | (apply of_next; assumption) | dsimp only | apply pair_wf | apply mem_wf
    | apply mk_wf

theorem execLdS32_wf (g : Guard) (d : Reg) (m : MemOp) (s : State) (hw : Wf s) :
    okR (execLdS32 g d m s) := by
  unfold execLdS32
  with_reducible repeat' first
    | assumption | intro _ | apply loadForm_wf | apply foldl_wf | apply foldl_pair | apply ite_wf | apply ite_pair
    | apply ite_okR | apply ite_okKv | apply fst_wf | apply next_ok | apply stop_ok | apply refuse_ok | split
    | (apply of_pair; assumption) | (apply of_next; assumption) | dsimp only | apply pair_wf | apply mem_wf
    | apply mk_wf

theorem execLdS8_wf (g : Guard) (d : Reg) (m : MemOp) (s : State) (hw : Wf s) :
    okR (execLdS8 g d m s) := by
  unfold execLdS8
  with_reducible repeat' first
    | assumption | intro _ | apply loadForm_wf | apply foldl_wf | apply foldl_pair | apply ite_wf | apply ite_pair
    | apply ite_okR | apply ite_okKv | apply fst_wf | apply next_ok | apply stop_ok | apply refuse_ok | split
    | (apply of_pair; assumption) | (apply of_next; assumption) | dsimp only | apply pair_wf | apply mem_wf
    | apply mk_wf

theorem execLdZ16_wf (g : Guard) (d : Reg) (m : MemOp) (s : State) (hw : Wf s) :
    okR (execLdZ16 g d m s) := by
  unfold execLdZ16
  with_reducible repeat' first
    | assumption | intro _ | apply loadForm_wf | apply foldl_wf | apply foldl_pair | apply ite_wf | apply ite_pair
    | apply ite_okR | apply ite_okKv | apply fst_wf | apply next_ok | apply stop_ok | apply refuse_ok | split
    | (apply of_pair; assumption) | (apply of_next; assumption) | dsimp only | apply pair_wf | apply mem_wf
    | apply mk_wf

theorem execLdZ32_wf (g : Guard) (d : Reg) (m : MemOp) (s : State) (hw : Wf s) :
    okR (execLdZ32 g d m s) := by
  unfold execLdZ32
  with_reducible repeat' first
    | assumption | intro _ | apply loadForm_wf | apply foldl_wf | apply foldl_pair | apply ite_wf | apply ite_pair
    | apply ite_okR | apply ite_okKv | apply fst_wf | apply next_ok | apply stop_ok | apply refuse_ok | split
    | (apply of_pair; assumption) | (apply of_next; assumption) | dsimp only | apply pair_wf | apply mem_wf
    | apply mk_wf

theorem execLdZ8_wf (g : Guard) (d : Reg) (m : MemOp) (s : State) (hw : Wf s) :
    okR (execLdZ8 g d m s) := by
  unfold execLdZ8
  with_reducible repeat' first
    | assumption | intro _ | apply loadForm_wf | apply foldl_wf | apply foldl_pair | apply ite_wf | apply ite_pair
    | apply ite_okR | apply ite_okKv | apply fst_wf | apply next_ok | apply stop_ok | apply refuse_ok | split
    | (apply of_pair; assumption) | (apply of_next; assumption) | dsimp only | apply pair_wf | apply mem_wf
    | apply mk_wf

theorem execLi_wf (g : Guard) (d : Reg) (imm : BitVec 37) (s : State) (hw : Wf s) :
    okR (execLi g d imm s) := by
  unfold execLi
  with_reducible repeat' first
    | assumption | intro _ | apply aluForm_wf | apply foldl_wf | apply foldl_pair | apply ite_wf | apply ite_pair
    | apply ite_okR | apply ite_okKv | apply fst_wf | apply next_ok | apply stop_ok | apply refuse_ok | split
    | (apply of_pair; assumption) | (apply of_next; assumption) | dsimp only | apply pair_wf | apply mem_wf
    | apply mk_wf

theorem execLiH_wf (g : Guard) (d : Reg) (a : Src) (imm : BitVec 27) (s : State) (hw : Wf s) :
    okR (execLiH g d a imm s) := by
  unfold execLiH
  with_reducible repeat' first
    | assumption | intro _ | apply aluForm_wf | apply foldl_wf | apply foldl_pair | apply ite_wf | apply ite_pair
    | apply ite_okR | apply ite_okKv | apply fst_wf | apply next_ok | apply stop_ok | apply refuse_ok | split
    | (apply of_pair; assumption) | (apply of_next; assumption) | dsimp only | apply pair_wf | apply mem_wf
    | apply mk_wf

theorem execLinkRetrainFailure_wf (_l : Fin 18) (s : State) (hw : Wf s) :
    okR (execLinkRetrainFailure _l s) := by
  unfold execLinkRetrainFailure
  with_reducible repeat' first
    | assumption | intro _ | apply foldl_wf | apply foldl_pair | apply ite_wf | apply ite_pair | apply ite_okR
    | apply ite_okKv | apply fst_wf | apply next_ok | apply stop_ok | apply refuse_ok | split
    | (apply of_pair; assumption) | (apply of_next; assumption) | dsimp only | apply pair_wf | apply mem_wf
    | apply mk_wf

theorem execLoop_wf (g : Guard) (b : Reg) (off : BitVec 32) (s : State) (hw : Wf s) :
    okR (execLoop g b off s) := by
  unfold execLoop
  with_reducible repeat' first
    | assumption | intro _ | apply modCp_wf | apply retire_wf | apply runForm_wf | apply foldl_wf | apply foldl_pair
    | apply ite_wf | apply ite_pair | apply ite_okR | apply ite_okKv | apply fst_wf | apply next_ok | apply stop_ok
    | apply refuse_ok | split | (apply of_pair; assumption) | (apply of_next; assumption) | dsimp only | apply pair_wf
    | apply mem_wf | apply mk_wf

end Sys2Proof.Laws.Canon
end

