-- ==== Sys2Proof/Laws/Canon5.lean ====
section
/-!
SUPPORT. The memory stays in its canonical form: one lemma per operation, callees first (5 of 5).
-/
namespace Sys2Proof.Laws.Canon

open Sys2Proof Machine

-- One list of alternatives closes every proof, so most alternatives go unused in each.
set_option linter.all false

theorem execMatrixStep_wf (c : CoreIx) (s : State) (hw : Wf s) :
    okR (execMatrixStep c s) := by
  unfold execMatrixStep
  with_reducible repeat' first
    | assumption | intro _ | apply accFix_wf | apply deliver_wf | apply mxError_wf | apply mxFinish_wf
    | apply mxStep_wf | apply foldl_wf | apply foldl_pair | apply ite_wf | apply ite_pair | apply ite_okR
    | apply ite_okKv | apply fst_wf | apply next_ok | apply stop_ok | apply refuse_ok | split
    | (apply of_pair; assumption) | (apply of_next; assumption) | dsimp only | apply pair_wf | apply mem_wf
    | apply mk_wf

theorem execMax_wf (g : Guard) (d : Reg) (a : Src) (b : Src) (s : State) (hw : Wf s) :
    okR (execMax g d a b s) := by
  unfold execMax
  with_reducible repeat' first
    | assumption | intro _ | apply aluForm_wf | apply foldl_wf | apply foldl_pair | apply ite_wf | apply ite_pair
    | apply ite_okR | apply ite_okKv | apply fst_wf | apply next_ok | apply stop_ok | apply refuse_ok | split
    | (apply of_pair; assumption) | (apply of_next; assumption) | dsimp only | apply pair_wf | apply mem_wf
    | apply mk_wf

theorem execMaxz_wf (g : Guard) (d : Reg) (a : Src) (b : Src) (s : State) (hw : Wf s) :
    okR (execMaxz g d a b s) := by
  unfold execMaxz
  with_reducible repeat' first
    | assumption | intro _ | apply aluForm_wf | apply foldl_wf | apply foldl_pair | apply ite_wf | apply ite_pair
    | apply ite_okR | apply ite_okKv | apply fst_wf | apply next_ok | apply stop_ok | apply refuse_ok | split
    | (apply of_pair; assumption) | (apply of_next; assumption) | dsimp only | apply pair_wf | apply mem_wf
    | apply mk_wf

theorem execMerge_wf (c : CoreIx) (rt : Fin 16) (s : State) (hw : Wf s) :
    okR (execMerge c rt s) := by
  unfold execMerge
  with_reducible repeat' first
    | assumption | intro _ | apply opEvent_wf | apply foldl_wf | apply foldl_pair | apply ite_wf | apply ite_pair
    | apply ite_okR | apply ite_okKv | apply fst_wf | apply next_ok | apply stop_ok | apply refuse_ok | split
    | (apply of_pair; assumption) | (apply of_next; assumption) | dsimp only | apply pair_wf | apply mem_wf
    | apply mk_wf

theorem execMin_wf (g : Guard) (d : Reg) (a : Src) (b : Src) (s : State) (hw : Wf s) :
    okR (execMin g d a b s) := by
  unfold execMin
  with_reducible repeat' first
    | assumption | intro _ | apply aluForm_wf | apply foldl_wf | apply foldl_pair | apply ite_wf | apply ite_pair
    | apply ite_okR | apply ite_okKv | apply fst_wf | apply next_ok | apply stop_ok | apply refuse_ok | split
    | (apply of_pair; assumption) | (apply of_next; assumption) | dsimp only | apply pair_wf | apply mem_wf
    | apply mk_wf

theorem execMinz_wf (g : Guard) (d : Reg) (a : Src) (b : Src) (s : State) (hw : Wf s) :
    okR (execMinz g d a b s) := by
  unfold execMinz
  with_reducible repeat' first
    | assumption | intro _ | apply aluForm_wf | apply foldl_wf | apply foldl_pair | apply ite_wf | apply ite_pair
    | apply ite_okR | apply ite_okKv | apply fst_wf | apply next_ok | apply stop_ok | apply refuse_ok | split
    | (apply of_pair; assumption) | (apply of_next; assumption) | dsimp only | apply pair_wf | apply mem_wf
    | apply mk_wf

theorem execMld_wf (c : CoreIx) (mt : Fin 4) (port : Fin 4) (part : PortPart) (s : State) (hw : Wf s) :
    okR (execMld c mt port part s) := by
  unfold execMld
  with_reducible repeat' first
    | assumption | intro _ | apply portEvent_wf | apply foldl_wf | apply foldl_pair | apply ite_wf | apply ite_pair
    | apply ite_okR | apply ite_okKv | apply fst_wf | apply next_ok | apply stop_ok | apply refuse_ok | split
    | (apply of_pair; assumption) | (apply of_next; assumption) | dsimp only | apply pair_wf | apply mem_wf
    | apply mk_wf

theorem execMma_wf (c : CoreIx) (s : State) (hw : Wf s) :
    okR (execMma c s) := by
  unfold execMma
  with_reducible repeat' first
    | assumption | intro _ | apply mxStart_wf | apply foldl_wf | apply foldl_pair | apply ite_wf | apply ite_pair
    | apply ite_okR | apply ite_okKv | apply fst_wf | apply next_ok | apply stop_ok | apply refuse_ok | split
    | (apply of_pair; assumption) | (apply of_next; assumption) | dsimp only | apply pair_wf | apply mem_wf
    | apply mk_wf

theorem execMmaAcc_wf (c : CoreIx) (s : State) (hw : Wf s) :
    okR (execMmaAcc c s) := by
  unfold execMmaAcc
  with_reducible repeat' first
    | assumption | intro _ | apply mxStart_wf | apply foldl_wf | apply foldl_pair | apply ite_wf | apply ite_pair
    | apply ite_okR | apply ite_okKv | apply fst_wf | apply next_ok | apply stop_ok | apply refuse_ok | split
    | (apply of_pair; assumption) | (apply of_next; assumption) | dsimp only | apply pair_wf | apply mem_wf
    | apply mk_wf

theorem execMst_wf (c : CoreIx) (mt : Fin 4) (port : Fin 4) (part : PortPart) (s : State) (hw : Wf s) :
    okR (execMst c mt port part s) := by
  unfold execMst
  with_reducible repeat' first
    | assumption | intro _ | apply portEvent_wf | apply foldl_wf | apply foldl_pair | apply ite_wf | apply ite_pair
    | apply ite_okR | apply ite_okKv | apply fst_wf | apply next_ok | apply stop_ok | apply refuse_ok | split
    | (apply of_pair; assumption) | (apply of_next; assumption) | dsimp only | apply pair_wf | apply mem_wf
    | apply mk_wf

theorem execMul_wf (g : Guard) (d : Reg) (a : Src) (b : Src) (s : State) (hw : Wf s) :
    okR (execMul g d a b s) := by
  unfold execMul
  with_reducible repeat' first
    | assumption | intro _ | apply aluForm_wf | apply foldl_wf | apply foldl_pair | apply ite_wf | apply ite_pair
    | apply ite_okR | apply ite_okKv | apply fst_wf | apply next_ok | apply stop_ok | apply refuse_ok | split
    | (apply of_pair; assumption) | (apply of_next; assumption) | dsimp only | apply pair_wf | apply mem_wf
    | apply mk_wf

theorem execMulh_wf (g : Guard) (d : Reg) (a : Src) (b : Src) (s : State) (hw : Wf s) :
    okR (execMulh g d a b s) := by
  unfold execMulh
  with_reducible repeat' first
    | assumption | intro _ | apply aluForm_wf | apply foldl_wf | apply foldl_pair | apply ite_wf | apply ite_pair
    | apply ite_okR | apply ite_okKv | apply fst_wf | apply next_ok | apply stop_ok | apply refuse_ok | split
    | (apply of_pair; assumption) | (apply of_next; assumption) | dsimp only | apply pair_wf | apply mem_wf
    | apply mk_wf

theorem execMulhz_wf (g : Guard) (d : Reg) (a : Src) (b : Src) (s : State) (hw : Wf s) :
    okR (execMulhz g d a b s) := by
  unfold execMulhz
  with_reducible repeat' first
    | assumption | intro _ | apply aluForm_wf | apply foldl_wf | apply foldl_pair | apply ite_wf | apply ite_pair
    | apply ite_okR | apply ite_okKv | apply fst_wf | apply next_ok | apply stop_ok | apply refuse_ok | split
    | (apply of_pair; assumption) | (apply of_next; assumption) | dsimp only | apply pair_wf | apply mem_wf
    | apply mk_wf

theorem mxSubmit_wf (s : State) (form : Instr) (srcs : List Src) (d : Reg) (w : Word) (hw : Wf s) :
    okR (mxSubmit s form srcs d w) := by
  unfold mxSubmit
  with_reducible repeat' first
    | assumption | intro _ | apply postWork_wf | apply reply_wf | apply setMx_wf | apply stand_wf | apply foldl_wf
    | apply foldl_pair | apply ite_wf | apply ite_pair | apply ite_okR | apply ite_okKv | apply fst_wf | apply next_ok
    | apply stop_ok | apply refuse_ok | split | (apply of_pair; assumption) | (apply of_next; assumption) | dsimp only
    | apply pair_wf | apply mem_wf | apply mk_wf

theorem execMxAccclr_wf (g : Guard) (d : Reg) (acc : Fin 4) (s : State) (hw : Wf s) :
    okR (execMxAccclr g d acc s) := by
  unfold execMxAccclr
  with_reducible repeat' first
    | assumption | intro _ | apply cmdForm_wf | apply mxSubmit_wf | apply foldl_wf | apply foldl_pair | apply ite_wf
    | apply ite_pair | apply ite_okR | apply ite_okKv | apply fst_wf | apply next_ok | apply stop_ok | apply refuse_ok
    | split | (apply of_pair; assumption) | (apply of_next; assumption) | dsimp only | apply pair_wf | apply mem_wf
    | apply mk_wf

theorem execMxAccrd_wf (g : Guard) (d : Reg) (acc : Fin 4) (row : BitVec 6) (col : BitVec 6) (s : State)
    (hw : Wf s) :
    okR (execMxAccrd g d acc row col s) := by
  unfold execMxAccrd
  with_reducible repeat' first
    | assumption | intro _ | apply cmdForm_wf | apply postWork_wf | apply posted_wf | apply setMx_wf | apply stand_wf
    | apply foldl_wf | apply foldl_pair | apply ite_wf | apply ite_pair | apply ite_okR | apply ite_okKv
    | apply fst_wf | apply next_ok | apply stop_ok | apply refuse_ok | split | (apply of_pair; assumption)
    | (apply of_next; assumption) | dsimp only | apply pair_wf | apply mem_wf | apply mk_wf

theorem execMxStat_wf (g : Guard) (d : Reg) (s : State) (hw : Wf s) :
    okR (execMxStat g d s) := by
  unfold execMxStat
  with_reducible repeat' first
    | assumption | intro _ | apply cmdForm_wf | apply reply_wf | apply foldl_wf | apply foldl_pair | apply ite_wf
    | apply ite_pair | apply ite_okR | apply ite_okKv | apply fst_wf | apply next_ok | apply stop_ok | apply refuse_ok
    | split | (apply of_pair; assumption) | (apply of_next; assumption) | dsimp only | apply pair_wf | apply mem_wf
    | apply mk_wf

theorem execMxTok_wf (g : Guard) (d : Reg) (a : Src) (s : State) (hw : Wf s) :
    okR (execMxTok g d a s) := by
  unfold execMxTok
  with_reducible repeat' first
    | assumption | intro _ | apply cmdForm_wf | apply mxSubmit_wf | apply reply_wf | apply foldl_wf | apply foldl_pair
    | apply ite_wf | apply ite_pair | apply ite_okR | apply ite_okKv | apply fst_wf | apply next_ok | apply stop_ok
    | apply refuse_ok | split | (apply of_pair; assumption) | (apply of_next; assumption) | dsimp only | apply pair_wf
    | apply mem_wf | apply mk_wf

theorem execMxTokenEnqueue_wf (c : CoreIx) (s : State) (hw : Wf s) :
    okR (execMxTokenEnqueue c s) := by
  unfold execMxTokenEnqueue
  with_reducible repeat' first
    | assumption | intro _ | apply popChan_wf | apply setMx_wf | apply foldl_wf | apply foldl_pair | apply ite_wf
    | apply ite_pair | apply ite_okR | apply ite_okKv | apply fst_wf | apply next_ok | apply stop_ok | apply refuse_ok
    | split | (apply of_pair; assumption) | (apply of_next; assumption) | dsimp only | apply pair_wf | apply mem_wf
    | apply mk_wf

theorem execNop_wf (g : Guard) (s : State) (hw : Wf s) :
    okR (execNop g s) := by
  unfold execNop
  with_reducible repeat' first
    | assumption | intro _ | apply retire_wf | apply runForm_wf | apply foldl_wf | apply foldl_pair | apply ite_wf
    | apply ite_pair | apply ite_okR | apply ite_okKv | apply fst_wf | apply next_ok | apply stop_ok | apply refuse_ok
    | split | (apply of_pair; assumption) | (apply of_next; assumption) | dsimp only | apply pair_wf | apply mem_wf
    | apply mk_wf

theorem execOr_wf (g : Guard) (d : Reg) (a : Src) (b : Src) (s : State) (hw : Wf s) :
    okR (execOr g d a b s) := by
  unfold execOr
  with_reducible repeat' first
    | assumption | intro _ | apply aluForm_wf | apply foldl_wf | apply foldl_pair | apply ite_wf | apply ite_pair
    | apply ite_okR | apply ite_okKv | apply fst_wf | apply next_ok | apply stop_ok | apply refuse_ok | split
    | (apply of_pair; assumption) | (apply of_next; assumption) | dsimp only | apply pair_wf | apply mem_wf
    | apply mk_wf

theorem execOrder_wf (c : CoreIx) (rt : Fin 16) (s : State) (hw : Wf s) :
    okR (execOrder c rt s) := by
  unfold execOrder
  with_reducible repeat' first
    | assumption | intro _ | apply opEvent_wf | apply foldl_wf | apply foldl_pair | apply ite_wf | apply ite_pair
    | apply ite_okR | apply ite_okKv | apply fst_wf | apply next_ok | apply stop_ok | apply refuse_ok | split
    | (apply of_pair; assumption) | (apply of_next; assumption) | dsimp only | apply pair_wf | apply mem_wf
    | apply mk_wf

theorem execOri_wf (g : Guard) (d : Reg) (a : Src) (imm : BitVec 37) (s : State) (hw : Wf s) :
    okR (execOri g d a imm s) := by
  unfold execOri
  with_reducible repeat' first
    | assumption | intro _ | apply aluForm_wf | apply foldl_wf | apply foldl_pair | apply ite_wf | apply ite_pair
    | apply ite_okR | apply ite_okKv | apply fst_wf | apply next_ok | apply stop_ok | apply refuse_ok | split
    | (apply of_pair; assumption) | (apply of_next; assumption) | dsimp only | apply pair_wf | apply mem_wf
    | apply mk_wf

theorem execPageWalk_wf (c : CoreIx) (va : Word) (s : State) (hw : Wf s) :
    okR (execPageWalk c va s) := by
  unfold execPageWalk
  with_reducible repeat' first
    | assumption | intro _ | apply lookup_wf | apply foldl_wf | apply foldl_pair | apply ite_wf | apply ite_pair
    | apply ite_okR | apply ite_okKv | apply fst_wf | apply next_ok | apply stop_ok | apply refuse_ok | split
    | (apply of_pair; assumption) | (apply of_next; assumption) | dsimp only | apply pair_wf | apply mem_wf
    | apply mk_wf

theorem execPairBin_wf (g : Guard) (d : Reg) (s : State) (hw : Wf s) :
    okR (execPairBin g d s) := by
  unfold execPairBin
  with_reducible repeat' first
    | assumption | intro _ | apply cmdForm_wf | apply posted_wf | apply reply_wf | apply setPair_wf | apply foldl_wf
    | apply foldl_pair | apply ite_wf | apply ite_pair | apply ite_okR | apply ite_okKv | apply fst_wf | apply next_ok
    | apply stop_ok | apply refuse_ok | split | (apply of_pair; assumption) | (apply of_next; assumption) | dsimp only
    | apply pair_wf | apply mem_wf | apply mk_wf

theorem execPairBox_wf (g : Guard) (d : Reg) (a : Src) (s : State) (hw : Wf s) :
    okR (execPairBox g d a s) := by
  unfold execPairBox
  with_reducible repeat' first
    | assumption | intro _ | apply cmdForm_wf | apply reply_wf | apply setPair_wf | apply withRecord_wf
    | apply foldl_wf | apply foldl_pair | apply ite_wf | apply ite_pair | apply ite_okR | apply ite_okKv
    | apply fst_wf | apply next_ok | apply stop_ok | apply refuse_ok | split | (apply of_pair; assumption)
    | (apply of_next; assumption) | dsimp only | apply pair_wf | apply mem_wf | apply mk_wf

theorem execPairClr_wf (g : Guard) (d : Reg) (s : State) (hw : Wf s) :
    okR (execPairClr g d s) := by
  unfold execPairClr
  with_reducible repeat' first
    | assumption | intro _ | apply cmdForm_wf | apply deliver_wf | apply posted_wf | apply reply_wf | apply setPair_wf
    | apply foldl_wf | apply foldl_pair | apply ite_wf | apply ite_pair | apply ite_okR | apply ite_okKv
    | apply fst_wf | apply next_ok | apply stop_ok | apply refuse_ok | split | (apply of_pair; assumption)
    | (apply of_next; assumption) | dsimp only | apply pair_wf | apply mem_wf | apply mk_wf

theorem execPairHomeCell_wf (k : ClusterIx) (s : State) (hw : Wf s) :
    okR (execPairHomeCell k s) := by
  unfold execPairHomeCell
  with_reducible repeat' first
    | assumption | intro _ | apply binStep_wf | apply pairAgain_wf | apply scanDone_wf | apply scanNext_wf
    | apply scanStep_wf | apply foldl_wf | apply foldl_pair | apply ite_wf | apply ite_pair | apply ite_okR
    | apply ite_okKv | apply fst_wf | apply next_ok | apply stop_ok | apply refuse_ok | split
    | (apply of_pair; assumption) | (apply of_some; assumption) | (apply of_next; assumption) | dsimp only
    | apply pair_wf | apply mem_wf | apply mk_wf

theorem execPairRecordPush_wf (k : ClusterIx) (s : State) (hw : Wf s) :
    okR (execPairRecordPush k s) := by
  unfold execPairRecordPush
  with_reducible repeat' first
    | assumption | intro _ | apply sbAsk_wf | apply sbPutFlit_wf | apply setPairOp_wf | apply foldl_wf
    | apply foldl_pair | apply ite_wf | apply ite_pair | apply ite_okR | apply ite_okKv | apply fst_wf | apply next_ok
    | apply stop_ok | apply refuse_ok | split | (apply of_pair; assumption) | (apply of_next; assumption) | dsimp only
    | apply pair_wf | apply mem_wf | apply mk_wf

theorem execPairScan_wf (g : Guard) (d : Reg) (a : Src) (b : Src) (sb : Fin 16) (dig : Bool) (s : State)
    (hw : Wf s) :
    okR (execPairScan g d a b sb dig s) := by
  unfold execPairScan
  with_reducible repeat' first
    | assumption | intro _ | apply cmdForm_wf | apply posted_wf | apply reply_wf | apply setPair_wf | apply foldl_wf
    | apply foldl_pair | apply ite_wf | apply ite_pair | apply ite_okR | apply ite_okKv | apply fst_wf | apply next_ok
    | apply stop_ok | apply refuse_ok | split | (apply of_pair; assumption) | (apply of_next; assumption) | dsimp only
    | apply pair_wf | apply mem_wf | apply mk_wf

theorem execPairStat_wf (g : Guard) (d : Reg) (s : State) (hw : Wf s) :
    okR (execPairStat g d s) := by
  unfold execPairStat
  with_reducible repeat' first
    | assumption | intro _ | apply cmdForm_wf | apply reply_wf | apply foldl_wf | apply foldl_pair | apply ite_wf
    | apply ite_pair | apply ite_okR | apply ite_okKv | apply fst_wf | apply next_ok | apply stop_ok | apply refuse_ok
    | split | (apply of_pair; assumption) | (apply of_next; assumption) | dsimp only | apply pair_wf | apply mem_wf
    | apply mk_wf

theorem execPand_wf (g : Guard) (d : PReg) (a : PReg) (b : PReg) (s : State) (hw : Wf s) :
    okR (execPand g d a b s) := by
  unfold execPand
  with_reducible repeat' first
    | assumption | intro _ | apply predForm_wf | apply foldl_wf | apply foldl_pair | apply ite_wf | apply ite_pair
    | apply ite_okR | apply ite_okKv | apply fst_wf | apply next_ok | apply stop_ok | apply refuse_ok | split
    | (apply of_pair; assumption) | (apply of_next; assumption) | dsimp only | apply pair_wf | apply mem_wf
    | apply mk_wf

theorem execPandn_wf (g : Guard) (d : PReg) (a : PReg) (b : PReg) (s : State) (hw : Wf s) :
    okR (execPandn g d a b s) := by
  unfold execPandn
  with_reducible repeat' first
    | assumption | intro _ | apply predForm_wf | apply foldl_wf | apply foldl_pair | apply ite_wf | apply ite_pair
    | apply ite_okR | apply ite_okKv | apply fst_wf | apply next_ok | apply stop_ok | apply refuse_ok | split
    | (apply of_pair; assumption) | (apply of_next; assumption) | dsimp only | apply pair_wf | apply mem_wf
    | apply mk_wf

theorem execPassInbound_wf (c : CoreIx) (s : State) (hw : Wf s) :
    okR (execPassInbound c s) := by
  unfold execPassInbound
  with_reducible repeat' first
    | assumption | intro _ | apply passEnter_wf | apply passTake_wf | apply foldl_wf | apply foldl_pair | apply ite_wf
    | apply ite_pair | apply ite_okR | apply ite_okKv | apply fst_wf | apply next_ok | apply stop_ok | apply refuse_ok
    | split | (apply of_pair; assumption) | (apply of_next; assumption) | dsimp only | apply pair_wf | apply mem_wf
    | apply mk_wf

theorem execPassOutbound_wf (c : CoreIx) (s : State) (hw : Wf s) :
    okR (execPassOutbound c s) := by
  unfold execPassOutbound
  with_reducible repeat' first
    | assumption | intro _ | apply modPlain_wf | apply passChoose_wf | apply passSend_wf | apply foldl_wf
    | apply foldl_pair | apply ite_wf | apply ite_pair | apply ite_okR | apply ite_okKv | apply fst_wf | apply next_ok
    | apply stop_ok | apply refuse_ok | split | (apply of_pair; assumption) | (apply of_eitherOk; assumption)
    | (apply of_eitherError; assumption) | (apply of_next; assumption) | dsimp only | apply pair_wf | apply mem_wf
    | apply mk_wf

theorem execPeFire_wf (c : CoreIx) (pe : Fin 16) (s : State) (hw : Wf s) :
    okR (execPeFire c pe s) := by
  unfold execPeFire
  with_reducible repeat' first
    | assumption | intro _ | apply peBegin_wf | apply peStop_wf | apply peTile_wf | apply peWord_wf | apply foldl_wf
    | apply foldl_pair | apply ite_wf | apply ite_pair | apply ite_okR | apply ite_okKv | apply fst_wf | apply next_ok
    | apply stop_ok | apply refuse_ok | split | (apply of_pair; assumption) | (apply of_next; assumption) | dsimp only
    | apply pair_wf | apply mem_wf | apply mk_wf

theorem execPendingResultWrite_wf (c : CoreIx) (r : Reg) (s : State) (hw : Wf s) :
    okR (execPendingResultWrite c r s) := by
  unfold execPendingResultWrite
  with_reducible repeat' first
    | assumption | intro _ | apply modCpOf_wf | apply foldl_wf | apply foldl_pair | apply ite_wf | apply ite_pair
    | apply ite_okR | apply ite_okKv | apply fst_wf | apply next_ok | apply stop_ok | apply refuse_ok | split
    | (apply of_pair; assumption) | (apply of_next; assumption) | dsimp only | apply pair_wf | apply mem_wf
    | apply mk_wf

theorem execPget_wf (g : Guard) (d : Reg) (a : PReg) (s : State) (hw : Wf s) :
    okR (execPget g d a s) := by
  unfold execPget
  with_reducible repeat' first
    | assumption | intro _ | apply aluForm_wf | apply foldl_wf | apply foldl_pair | apply ite_wf | apply ite_pair
    | apply ite_okR | apply ite_okKv | apply fst_wf | apply next_ok | apply stop_ok | apply refuse_ok | split
    | (apply of_pair; assumption) | (apply of_next; assumption) | dsimp only | apply pair_wf | apply mem_wf
    | apply mk_wf

theorem execPlainDelivery_wf (k : ClusterIx) (i : Nat) (s : State) (hw : Wf s) :
    okR (execPlainDelivery k i s) := by
  unfold execPlainDelivery
  with_reducible repeat' first
    | assumption | intro _ | apply active_wf | apply modPlain_wf | apply plainDuptag_wf | apply foldl_wf
    | apply foldl_pair | apply ite_wf | apply ite_pair | apply ite_okR | apply ite_okKv | apply fst_wf | apply next_ok
    | apply stop_ok | apply refuse_ok | split | (apply of_pair; assumption) | (apply of_next; assumption) | dsimp only
    | apply pair_wf | apply mem_wf | apply mk_wf

theorem execPlainElementFire_wf (k : ClusterIx) (e : Fin 128) (s : State) (hw : Wf s) :
    okR (execPlainElementFire k e s) := by
  unfold execPlainElementFire
  with_reducible repeat' first
    | assumption | intro _ | apply plainDuptag_wf | apply plainFire_wf | apply foldl_wf | apply foldl_pair
    | apply ite_wf | apply ite_pair | apply ite_okR | apply ite_okKv | apply fst_wf | apply next_ok | apply stop_ok
    | apply refuse_ok | split | (apply of_pair; assumption) | (apply of_next; assumption) | dsimp only | apply pair_wf
    | apply mem_wf | apply mk_wf

theorem execPmov_wf (g : Guard) (d : PReg) (a : PReg) (s : State) (hw : Wf s) :
    okR (execPmov g d a s) := by
  unfold execPmov
  with_reducible repeat' first
    | assumption | intro _ | apply predForm_wf | apply foldl_wf | apply foldl_pair | apply ite_wf | apply ite_pair
    | apply ite_okR | apply ite_okKv | apply fst_wf | apply next_ok | apply stop_ok | apply refuse_ok | split
    | (apply of_pair; assumption) | (apply of_next; assumption) | dsimp only | apply pair_wf | apply mem_wf
    | apply mk_wf

theorem execPopc_wf (g : Guard) (d : Reg) (a : Src) (s : State) (hw : Wf s) :
    okR (execPopc g d a s) := by
  unfold execPopc
  with_reducible repeat' first
    | assumption | intro _ | apply aluForm_wf | apply foldl_wf | apply foldl_pair | apply ite_wf | apply ite_pair
    | apply ite_okR | apply ite_okKv | apply fst_wf | apply next_ok | apply stop_ok | apply refuse_ok | split
    | (apply of_pair; assumption) | (apply of_next; assumption) | dsimp only | apply pair_wf | apply mem_wf
    | apply mk_wf

theorem execPor_wf (g : Guard) (d : PReg) (a : PReg) (b : PReg) (s : State) (hw : Wf s) :
    okR (execPor g d a b s) := by
  unfold execPor
  with_reducible repeat' first
    | assumption | intro _ | apply predForm_wf | apply foldl_wf | apply foldl_pair | apply ite_wf | apply ite_pair
    | apply ite_okR | apply ite_okKv | apply fst_wf | apply next_ok | apply stop_ok | apply refuse_ok | split
    | (apply of_pair; assumption) | (apply of_next; assumption) | dsimp only | apply pair_wf | apply mem_wf
    | apply mk_wf

theorem execPreempt_wf (d : DieIx) (s : State) (hw : Wf s) :
    okR (execPreempt d s) := by
  unfold execPreempt
  with_reducible repeat' first
    | assumption | intro _ | apply shapesOf_wf | apply startWave_wf | apply foldl_wf | apply foldl_pair | apply ite_wf
    | apply ite_pair | apply ite_okR | apply ite_okKv | apply fst_wf | apply next_ok | apply stop_ok | apply refuse_ok
    | split | (apply of_pair; assumption) | (apply of_next; assumption) | dsimp only | apply pair_wf | apply mem_wf
    | apply mk_wf

theorem execProgramPageFill_wf (c : CoreIx) (s : State) (hw : Wf s) :
    okR (execProgramPageFill c s) := by
  unfold execProgramPageFill
  with_reducible repeat' first
    | assumption | intro _ | apply fillPage_wf | apply foldl_wf | apply foldl_pair | apply ite_wf | apply ite_pair
    | apply ite_okR | apply ite_okKv | apply fst_wf | apply next_ok | apply stop_ok | apply refuse_ok | split
    | (apply of_pair; assumption) | (apply of_next; assumption) | dsimp only | apply pair_wf | apply mem_wf
    | apply mk_wf

theorem execPxor_wf (g : Guard) (d : PReg) (a : PReg) (b : PReg) (s : State) (hw : Wf s) :
    okR (execPxor g d a b s) := by
  unfold execPxor
  with_reducible repeat' first
    | assumption | intro _ | apply predForm_wf | apply foldl_wf | apply foldl_pair | apply ite_wf | apply ite_pair
    | apply ite_okR | apply ite_okKv | apply fst_wf | apply next_ok | apply stop_ok | apply refuse_ok | split
    | (apply of_pair; assumption) | (apply of_next; assumption) | dsimp only | apply pair_wf | apply mem_wf
    | apply mk_wf

theorem execQPop_wf (g : Guard) (d : Reg) (q : QUnit) (peek : Bool) (s : State) (hw : Wf s) :
    okR (execQPop g d q peek s) := by
  unfold execQPop
  with_reducible repeat' first
    | assumption | intro _ | apply cmdForm_wf | apply fqDrop_wf | apply postWork_wf | apply reply_wf
    | apply sbAskPop_wf | apply sbDropFlit_wf | apply sbDrop_wf | apply stand_wf | apply foldl_wf | apply foldl_pair
    | apply ite_wf | apply ite_pair | apply ite_okR | apply ite_okKv | apply fst_wf | apply next_ok | apply stop_ok
    | apply refuse_ok | split | (apply of_pair; assumption) | (apply of_next; assumption) | dsimp only | apply pair_wf
    | apply mem_wf | apply mk_wf

theorem execQPush_wf (g : Guard) (d : Reg) (q : QUnit) (a : Src) (last : Bool) (s : State) (hw : Wf s) :
    okR (execQPush g d q a last s) := by
  unfold execQPush
  with_reducible repeat' first
    | assumption | intro _ | apply cmdForm_wf | apply fqPut_wf | apply postWork_wf | apply raise_wf | apply reply_wf
    | apply sbAsk_wf | apply sbPut_wf | apply setSbuf_wf | apply stand_wf | apply foldl_wf | apply foldl_pair
    | apply ite_wf | apply ite_pair | apply ite_okR | apply ite_okKv | apply fst_wf | apply next_ok | apply stop_ok
    | apply refuse_ok | split | (apply of_pair; assumption) | (apply of_next; assumption) | dsimp only | apply pair_wf
    | apply mem_wf | apply mk_wf

theorem execQSpace_wf (g : Guard) (d : Reg) (q : QUnit) (s : State) (hw : Wf s) :
    okR (execQSpace g d q s) := by
  unfold execQSpace
  with_reducible repeat' first
    | assumption | intro _ | apply cmdForm_wf | apply reply_wf | apply foldl_wf | apply foldl_pair | apply ite_wf
    | apply ite_pair | apply ite_okR | apply ite_okKv | apply fst_wf | apply next_ok | apply stop_ok | apply refuse_ok
    | split | (apply of_pair; assumption) | (apply of_next; assumption) | dsimp only | apply pair_wf | apply mem_wf
    | apply mk_wf

theorem execQWait_wf (g : Guard) (d : Reg) (q : QUnit) (a : Src) (space : Bool) (s : State) (hw : Wf s) :
    okR (execQWait g d q a space s) := by
  unfold execQWait
  with_reducible repeat' first
    | assumption | intro _ | apply cmdForm_wf | apply reply_wf | apply stand_wf | apply foldl_wf | apply foldl_pair
    | apply ite_wf | apply ite_pair | apply ite_okR | apply ite_okKv | apply fst_wf | apply next_ok | apply stop_ok
    | apply refuse_ok | split | (apply of_pair; assumption) | (apply of_next; assumption) | dsimp only | apply pair_wf
    | apply mem_wf | apply mk_wf

theorem execTplFire_wf (g : Guard) (d : Reg) (tm : Fin 16) (a : Src) (s : State) (hw : Wf s) :
    okR (execTplFire g d tm a s) := by
  unfold execTplFire
  with_reducible repeat' first
    | assumption | intro _ | apply cmdForm_wf | apply fqPut_wf | apply modGrid_wf | apply postWork_wf | apply reply_wf
    | apply stand_wf | apply foldl_wf | apply foldl_pair | apply ite_wf | apply ite_pair | apply ite_okR
    | apply ite_okKv | apply fst_wf | apply next_ok | apply stop_ok | apply refuse_ok | split
    | (apply of_pair; assumption) | (apply of_next; assumption) | dsimp only | apply pair_wf | apply mem_wf
    | apply mk_wf

theorem execQueueFormResume_wf (c : CoreIx) (s : State) (hw : Wf s) :
    okR (execQueueFormResume c s) := by
  unfold execQueueFormResume
  with_reducible repeat' first
    | assumption | intro _ | apply atCore_wf | apply execMxAccclr_wf | apply execMxAccrd_wf | apply execMxTok_wf
    | apply execQPop_wf | apply execQPush_wf | apply execQWait_wf | apply execTplFire_wf | apply foldl_wf
    | apply foldl_pair | apply ite_wf | apply ite_pair | apply ite_okR | apply ite_okKv | apply fst_wf | apply next_ok
    | apply stop_ok | apply refuse_ok | split | (apply of_pair; assumption) | (apply of_next; assumption) | dsimp only
    | apply pair_wf | apply mem_wf | apply mk_wf

theorem execQuiPoll_wf (g : Guard) (d : Reg) (wait : Bool) (s : State) (hw : Wf s) :
    okR (execQuiPoll g d wait s) := by
  unfold execQuiPoll
  with_reducible repeat' first
    | assumption | intro _ | apply cmdForm_wf | apply reply_wf | apply stand_wf | apply foldl_wf | apply foldl_pair
    | apply ite_wf | apply ite_pair | apply ite_okR | apply ite_okKv | apply fst_wf | apply next_ok | apply stop_ok
    | apply refuse_ok | split | (apply of_pair; assumption) | (apply of_next; assumption) | dsimp only | apply pair_wf
    | apply mem_wf | apply mk_wf

theorem execQuiPollWaitEnd_wf (c : CoreIx) (s : State) (hw : Wf s) :
    okR (execQuiPollWaitEnd c s) := by
  unfold execQuiPollWaitEnd
  with_reducible repeat' first
    | assumption | intro _ | apply atCore_wf | apply execQuiPoll_wf | apply foldl_wf | apply foldl_pair | apply ite_wf
    | apply ite_pair | apply ite_okR | apply ite_okKv | apply fst_wf | apply next_ok | apply stop_ok | apply refuse_ok
    | split | (apply of_pair; assumption) | (apply of_next; assumption) | dsimp only | apply pair_wf | apply mem_wf
    | apply mk_wf

theorem execQuiRep_wf (g : Guard) (d : Reg) (a : Src) (sel : BitVec 2) (s : State) (hw : Wf s) :
    okR (execQuiRep g d a sel s) := by
  unfold execQuiRep
  with_reducible repeat' first
    | assumption | intro _ | apply cmdForm_wf | apply reply_wf | apply foldl_wf | apply foldl_pair | apply ite_wf
    | apply ite_pair | apply ite_okR | apply ite_okKv | apply fst_wf | apply next_ok | apply stop_ok | apply refuse_ok
    | split | (apply of_pair; assumption) | (apply of_next; assumption) | dsimp only | apply pair_wf | apply mem_wf
    | apply mk_wf

theorem execQuiescenceVerdict_wf (c : CoreIx) (s : State) (hw : Wf s) :
    okR (execQuiescenceVerdict c s) := by
  unfold execQuiescenceVerdict
  with_reducible repeat' first
    | assumption | intro _ | apply giveDeadlock_wf | apply giveVerdict_wf | apply shutPlains_wf | apply foldl_wf
    | apply foldl_pair | apply ite_wf | apply ite_pair | apply ite_okR | apply ite_okKv | apply fst_wf | apply next_ok
    | apply stop_ok | apply refuse_ok | split | (apply of_pair; assumption) | (apply of_next; assumption) | dsimp only
    | apply pair_wf | apply mem_wf | apply mk_wf

theorem execRecoveryFetch_wf (s : State) (hw : Wf s) :
    okR (execRecoveryFetch s) := by
  unfold execRecoveryFetch
  with_reducible repeat' first
    | assumption | intro _ | apply runImage_wf | apply foldl_wf | apply foldl_pair | apply ite_wf | apply ite_pair
    | apply ite_okR | apply ite_okKv | apply fst_wf | apply next_ok | apply stop_ok | apply refuse_ok | split
    | (apply of_pair; assumption) | (apply of_next; assumption) | dsimp only | apply pair_wf | apply mem_wf
    | apply mk_wf

theorem execRem_wf (g : Guard) (d : Reg) (a : Src) (b : Src) (s : State) (hw : Wf s) :
    okR (execRem g d a b s) := by
  unfold execRem
  with_reducible repeat' first
    | assumption | intro _ | apply aluForm_wf | apply foldl_wf | apply foldl_pair | apply ite_wf | apply ite_pair
    | apply ite_okR | apply ite_okKv | apply fst_wf | apply next_ok | apply stop_ok | apply refuse_ok | split
    | (apply of_pair; assumption) | (apply of_next; assumption) | dsimp only | apply pair_wf | apply mem_wf
    | apply mk_wf

theorem execRemoteAccess_wf (r : RemoteReq) (s : State) (hw : Wf s) :
    okR (execRemoteAccess r s) := by
  have hm : ∀ (pa n m : Nat) (o : Option Nat), Wf (match o with
      | some v => (s.homeRead pa n).1.writeNat pa m v
      | none => (s.homeRead pa n).1) := by
    intro pa n m o
    cases o
    · exact fst_wf (homeRead_wf s pa n hw)
    · exact writeNat_wf _ _ _ _ (fst_wf (homeRead_wf s pa n hw))
  have hn : okR (.next s) := next_ok hw
  have hs : ∀ (pa n : Nat) (w : Option (List Byte)) (b : Option (BitVec 9 × BitVec 18)), okR (.next (s.outsideStart pa n w b)) :=
    fun _ _ _ _ => next_ok (outsideStart_wf s _ _ _ _ hw)
  have hr : ∀ pa n : Nat, Wf (s.homeRead pa n).1 := fun _ _ => fst_wf (homeRead_wf s _ _ hw)
  unfold execRemoteAccess
  extract_lets pa plain back reply failed
  split
  · exact ite_okR hn (ite_okR (hs _ _ _ _) (ite_okR hn
      (ite_okR (next_ok (answer_wf _ _ (hr _ _))) (next_ok (answer_wf _ _ (hr _ _))))))
  · exact ite_okR hn (ite_okR (hs _ _ _ _) (ite_okR hn (next_ok (answer_wf _ _ (outsideWrite_wf s _ _ hw)))))
  · exact ite_okR hn (ite_okR (next_ok (answer_wf _ _ (hr _ _))) (next_ok (answer_wf _ _ (hm _ _ _ _))))

theorem execRemoteReplayFailure_wf (c : CoreIx) (id : Nat) (s : State) (hw : Wf s) :
    okR (execRemoteReplayFailure c id s) := by
  unfold execRemoteReplayFailure
  with_reducible repeat' first
    | assumption | intro _ | apply failRead_wf | apply failStore_wf | apply unitReplay_wf | apply foldl_wf
    | apply foldl_pair | apply ite_wf | apply ite_pair | apply ite_okR | apply ite_okKv | apply fst_wf | apply next_ok
    | apply stop_ok | apply refuse_ok | split | (apply of_pair; assumption) | (apply of_next; assumption) | dsimp only
    | apply pair_wf | apply mem_wf | apply mk_wf

theorem execRemz_wf (g : Guard) (d : Reg) (a : Src) (b : Src) (s : State) (hw : Wf s) :
    okR (execRemz g d a b s) := by
  unfold execRemz
  with_reducible repeat' first
    | assumption | intro _ | apply aluForm_wf | apply foldl_wf | apply foldl_pair | apply ite_wf | apply ite_pair
    | apply ite_okR | apply ite_okKv | apply fst_wf | apply next_ok | apply stop_ok | apply refuse_ok | split
    | (apply of_pair; assumption) | (apply of_next; assumption) | dsimp only | apply pair_wf | apply mem_wf
    | apply mk_wf

theorem execReservedOpcode_wf (w : Word) (s : State) (hw : Wf s) :
    okR (execReservedOpcode w s) := by
  unfold execReservedOpcode
  with_reducible repeat' first
    | assumption | intro _ | apply raise_wf | apply foldl_wf | apply foldl_pair | apply ite_wf | apply ite_pair
    | apply ite_okR | apply ite_okKv | apply fst_wf | apply next_ok | apply stop_ok | apply refuse_ok | split
    | (apply of_pair; assumption) | (apply of_next; assumption) | dsimp only | apply pair_wf | apply mem_wf
    | apply mk_wf

theorem execRet_wf (g : Guard) (a : Src) (s : State) (hw : Wf s) :
    okR (execRet g a s) := by
  unfold execRet
  with_reducible repeat' first
    | assumption | intro _ | apply modCp_wf | apply raise_wf | apply runForm_wf | apply foldl_wf | apply foldl_pair
    | apply ite_wf | apply ite_pair | apply ite_okR | apply ite_okKv | apply fst_wf | apply next_ok | apply stop_ok
    | apply refuse_ok | split | (apply of_pair; assumption) | (apply of_next; assumption) | dsimp only | apply pair_wf
    | apply mem_wf | apply mk_wf

theorem execRingPass_wf (c : CoreIx) (slot : Fin 8) (s : State) (hw : Wf s) :
    okR (execRingPass c slot s) := by
  unfold execRingPass
  with_reducible repeat' first
    | assumption | intro _ | apply jobFail_wf | apply ringStep_wf | apply foldl_wf | apply foldl_pair | apply ite_wf
    | apply ite_pair | apply ite_okR | apply ite_okKv | apply fst_wf | apply next_ok | apply stop_ok | apply refuse_ok
    | split | (apply of_pair; assumption) | (apply of_next; assumption) | dsimp only | apply pair_wf | apply mem_wf
    | apply mk_wf

theorem execRol_wf (g : Guard) (d : Reg) (a : Src) (b : Src) (s : State) (hw : Wf s) :
    okR (execRol g d a b s) := by
  unfold execRol
  with_reducible repeat' first
    | assumption | intro _ | apply aluForm_wf | apply foldl_wf | apply foldl_pair | apply ite_wf | apply ite_pair
    | apply ite_okR | apply ite_okKv | apply fst_wf | apply next_ok | apply stop_ok | apply refuse_ok | split
    | (apply of_pair; assumption) | (apply of_next; assumption) | dsimp only | apply pair_wf | apply mem_wf
    | apply mk_wf

theorem execRouterForward_wf (c : CoreIx) (rt : Fin 16) (s : State) (hw : Wf s) :
    okR (execRouterForward c rt s) := by
  unfold execRouterForward
  with_reducible repeat' first
    | assumption | intro _ | apply forwardInput_wf | apply foldl_wf | apply foldl_pair | apply ite_wf | apply ite_pair
    | apply ite_okR | apply ite_okKv | apply fst_wf | apply next_ok | apply stop_ok | apply refuse_ok | split
    | (apply of_pair; assumption) | (apply of_next; assumption) | dsimp only | apply pair_wf | apply mem_wf
    | apply mk_wf

theorem execSbPop_wf (c : CoreIx) (sb : Fin 16) (s : State) (hw : Wf s) :
    okR (execSbPop c sb s) := by
  unfold execSbPop
  with_reducible repeat' first
    | assumption | intro _ | apply sbAskPop_wf | apply sbDropFlit_wf | apply sbRelease_wf | apply sidePush_wf
    | apply foldl_wf | apply foldl_pair | apply ite_wf | apply ite_pair | apply ite_okR | apply ite_okKv
    | apply fst_wf | apply next_ok | apply stop_ok | apply refuse_ok | split | (apply of_pair; assumption)
    | (apply of_next; assumption) | dsimp only | apply pair_wf | apply mem_wf | apply mk_wf

theorem execSbPush_wf (c : CoreIx) (sb : Fin 16) (s : State) (hw : Wf s) :
    okR (execSbPush c sb s) := by
  unfold execSbPush
  with_reducible repeat' first
    | assumption | intro _ | apply popChan_wf | apply sbAsk_wf | apply sbPutFlit_wf | apply foldl_wf
    | apply foldl_pair | apply ite_wf | apply ite_pair | apply ite_okR | apply ite_okKv | apply fst_wf | apply next_ok
    | apply stop_ok | apply refuse_ok | split | (apply of_pair; assumption) | (apply of_next; assumption) | dsimp only
    | apply pair_wf | apply mem_wf | apply mk_wf

theorem execScat_wf (c : CoreIx) (mt : Fin 4) (port : Fin 4) (part : PortPart) (s : State) (hw : Wf s) :
    okR (execScat c mt port part s) := by
  unfold execScat
  with_reducible repeat' first
    | assumption | intro _ | apply portEvent_wf | apply foldl_wf | apply foldl_pair | apply ite_wf | apply ite_pair
    | apply ite_okR | apply ite_okKv | apply fst_wf | apply next_ok | apply stop_ok | apply refuse_ok | split
    | (apply of_pair; assumption) | (apply of_next; assumption) | dsimp only | apply pair_wf | apply mem_wf
    | apply mk_wf

theorem execSchedulerBind_wf (d : DieIx) (s : State) (hw : Wf s) :
    okR (execSchedulerBind d s) := by
  unfold execSchedulerBind
  with_reducible repeat' first
    | assumption | intro _ | apply bindOne_wf | apply startTasks_wf | apply foldl_wf | apply foldl_pair | apply ite_wf
    | apply ite_pair | apply ite_okR | apply ite_okKv | apply fst_wf | apply next_ok | apply stop_ok | apply refuse_ok
    | split | (apply of_pair; assumption) | (apply of_next; assumption) | dsimp only | apply pair_wf | apply mem_wf
    | apply mk_wf

theorem execSel_wf (g : Guard) (d : Reg) (a : Src) (b : Src) (p : PReg) (s : State) (hw : Wf s) :
    okR (execSel g d a b p s) := by
  unfold execSel
  with_reducible repeat' first
    | assumption | intro _ | apply aluForm_wf | apply foldl_wf | apply foldl_pair | apply ite_wf | apply ite_pair
    | apply ite_okR | apply ite_okKv | apply fst_wf | apply next_ok | apply stop_ok | apply refuse_ok | split
    | (apply of_pair; assumption) | (apply of_next; assumption) | dsimp only | apply pair_wf | apply mem_wf
    | apply mk_wf

theorem withSem_wf (s : State) (a : Word) (op : AmoOp) (release : Bool) (k : State → Nat → Result) (hw : Wf s)
    (h_k : ∀ t v, Wf t → okR (k t v)) :
    okR (withSem s a op release k) := by
  unfold withSem
  with_reducible repeat' first
    | assumption | intro _ | apply h_k | apply raise_wf | apply semCheck_wf | apply foldl_wf | apply foldl_pair
    | apply ite_wf | apply ite_pair | apply ite_okR | apply ite_okKv | apply fst_wf | apply next_ok | apply stop_ok
    | apply refuse_ok | split | (apply of_pair; assumption) | (apply of_next; assumption)
    | (apply of_semTrap; assumption) | (apply of_semOk; assumption) | dsimp only | apply pair_wf | apply mem_wf
    | apply mk_wf

theorem execSemAdv_wf (g : Guard) (d : Reg) (a : Src) (n : BitVec 16) (s : State) (hw : Wf s) :
    okR (execSemAdv g d a n s) := by
  unfold execSemAdv
  with_reducible repeat' first
    | assumption | intro _ | apply cmdForm_wf | apply eccRead_wf | apply reply_wf | apply withSem_wf
    | apply writeNat_wf | apply foldl_wf | apply foldl_pair | apply ite_wf | apply ite_pair | apply ite_okR
    | apply ite_okKv | apply fst_wf | apply next_ok | apply stop_ok | apply refuse_ok | split
    | (apply of_pair; assumption) | (apply of_next; assumption) | dsimp only | apply pair_wf | apply mem_wf
    | apply mk_wf

theorem execSemInit_wf (g : Guard) (d : Reg) (a : Src) (b : Src) (s : State) (hw : Wf s) :
    okR (execSemInit g d a b s) := by
  unfold execSemInit
  with_reducible repeat' first
    | assumption | intro _ | apply cmdForm_wf | apply eccRead_wf | apply reply_wf | apply withSem_wf
    | apply writeNat_wf | apply foldl_wf | apply foldl_pair | apply ite_wf | apply ite_pair | apply ite_okR
    | apply ite_okKv | apply fst_wf | apply next_ok | apply stop_ok | apply refuse_ok | split
    | (apply of_pair; assumption) | (apply of_next; assumption) | dsimp only | apply pair_wf | apply mem_wf
    | apply mk_wf

theorem execSemRetest_wf (c : CoreIx) (s : State) (hw : Wf s) :
    okR (execSemRetest c s) := by
  unfold execSemRetest
  with_reducible repeat' first
    | assumption | intro _ | apply atCore_wf | apply semTaken_wf | apply semTaking_wf | apply semWaiting_wf
    | apply foldl_wf | apply foldl_pair | apply ite_wf | apply ite_pair | apply ite_okR | apply ite_okKv
    | apply fst_wf | apply next_ok | apply stop_ok | apply refuse_ok | split | (apply of_pair; assumption)
    | (apply of_next; assumption) | dsimp only | apply pair_wf | apply mem_wf | apply mk_wf

theorem execSemTake_wf (g : Guard) (d : Reg) (a : Src) (tok : Bool) (sb : Fin 16) (s : State) (hw : Wf s) :
    okR (execSemTake g d a tok sb s) := by
  unfold execSemTake
  with_reducible repeat' first
    | assumption | intro _ | apply cmdForm_wf | apply eccRead_wf | apply semTaking_wf | apply withSem_wf
    | apply writeNat_wf | apply foldl_wf | apply foldl_pair | apply ite_wf | apply ite_pair | apply ite_okR
    | apply ite_okKv | apply fst_wf | apply next_ok | apply stop_ok | apply refuse_ok | split
    | (apply of_pair; assumption) | (apply of_next; assumption) | dsimp only | apply pair_wf | apply mem_wf
    | apply mk_wf

theorem execSemWait_wf (g : Guard) (d : Reg) (a : Src) (b : Src) (s : State) (hw : Wf s) :
    okR (execSemWait g d a b s) := by
  unfold execSemWait
  with_reducible repeat' first
    | assumption | intro _ | apply cmdForm_wf | apply semWaiting_wf | apply withSem_wf | apply foldl_wf
    | apply foldl_pair | apply ite_wf | apply ite_pair | apply ite_okR | apply ite_okKv | apply fst_wf | apply next_ok
    | apply stop_ok | apply refuse_ok | split | (apply of_pair; assumption) | (apply of_next; assumption) | dsimp only
    | apply pair_wf | apply mem_wf | apply mk_wf

theorem execShl_wf (g : Guard) (d : Reg) (a : Src) (b : Src) (s : State) (hw : Wf s) :
    okR (execShl g d a b s) := by
  unfold execShl
  with_reducible repeat' first
    | assumption | intro _ | apply aluForm_wf | apply foldl_wf | apply foldl_pair | apply ite_wf | apply ite_pair
    | apply ite_okR | apply ite_okKv | apply fst_wf | apply next_ok | apply stop_ok | apply refuse_ok | split
    | (apply of_pair; assumption) | (apply of_next; assumption) | dsimp only | apply pair_wf | apply mem_wf
    | apply mk_wf

theorem execShli_wf (g : Guard) (d : Reg) (a : Src) (n : BitVec 6) (s : State) (hw : Wf s) :
    okR (execShli g d a n s) := by
  unfold execShli
  with_reducible repeat' first
    | assumption | intro _ | apply aluForm_wf | apply foldl_wf | apply foldl_pair | apply ite_wf | apply ite_pair
    | apply ite_okR | apply ite_okKv | apply fst_wf | apply next_ok | apply stop_ok | apply refuse_ok | split
    | (apply of_pair; assumption) | (apply of_next; assumption) | dsimp only | apply pair_wf | apply mem_wf
    | apply mk_wf

theorem execShr_wf (g : Guard) (d : Reg) (a : Src) (b : Src) (s : State) (hw : Wf s) :
    okR (execShr g d a b s) := by
  unfold execShr
  with_reducible repeat' first
    | assumption | intro _ | apply aluForm_wf | apply foldl_wf | apply foldl_pair | apply ite_wf | apply ite_pair
    | apply ite_okR | apply ite_okKv | apply fst_wf | apply next_ok | apply stop_ok | apply refuse_ok | split
    | (apply of_pair; assumption) | (apply of_next; assumption) | dsimp only | apply pair_wf | apply mem_wf
    | apply mk_wf

theorem execShri_wf (g : Guard) (d : Reg) (a : Src) (n : BitVec 6) (s : State) (hw : Wf s) :
    okR (execShri g d a n s) := by
  unfold execShri
  with_reducible repeat' first
    | assumption | intro _ | apply aluForm_wf | apply foldl_wf | apply foldl_pair | apply ite_wf | apply ite_pair
    | apply ite_okR | apply ite_okKv | apply fst_wf | apply next_ok | apply stop_ok | apply refuse_ok | split
    | (apply of_pair; assumption) | (apply of_next; assumption) | dsimp only | apply pair_wf | apply mem_wf
    | apply mk_wf

theorem execSparseUpdateApply_wf (c : CoreIx) (mt : Fin 4) (bank : Fin 16) (i : Nat) (into : Option Nat)
    (s : State) (hw : Wf s) :
    okR (execSparseUpdateApply c mt bank i into s) := by
  unfold execSparseUpdateApply
  with_reducible repeat' first
    | assumption | intro _ | apply active_wf | apply setWindow_wf | apply updApply_wf | apply updDone_wf
    | apply foldl_wf | apply foldl_pair | apply ite_wf | apply ite_pair | apply ite_okR | apply ite_okKv
    | apply fst_wf | apply next_ok | apply stop_ok | apply refuse_ok | split | (apply of_pair; assumption)
    | (apply of_next; assumption) | dsimp only | apply pair_wf | apply mem_wf | apply mk_wf

theorem execSpdmMeasurement_wf (index : Fin 5) (s : State) (hw : Wf s) :
    okR (execSpdmMeasurement index s) := by
  unfold execSpdmMeasurement
  with_reducible repeat' first
    | assumption | intro _ | apply answer_wf | apply foldl_wf | apply foldl_pair | apply ite_wf | apply ite_pair
    | apply ite_okR | apply ite_okKv | apply fst_wf | apply next_ok | apply stop_ok | apply refuse_ok | split
    | (apply of_pair; assumption) | (apply of_next; assumption) | dsimp only | apply pair_wf | apply mem_wf
    | apply mk_wf

theorem execSra_wf (g : Guard) (d : Reg) (a : Src) (b : Src) (s : State) (hw : Wf s) :
    okR (execSra g d a b s) := by
  unfold execSra
  with_reducible repeat' first
    | assumption | intro _ | apply aluForm_wf | apply foldl_wf | apply foldl_pair | apply ite_wf | apply ite_pair
    | apply ite_okR | apply ite_okKv | apply fst_wf | apply next_ok | apply stop_ok | apply refuse_ok | split
    | (apply of_pair; assumption) | (apply of_next; assumption) | dsimp only | apply pair_wf | apply mem_wf
    | apply mk_wf

theorem execSrai_wf (g : Guard) (d : Reg) (a : Src) (n : BitVec 6) (s : State) (hw : Wf s) :
    okR (execSrai g d a n s) := by
  unfold execSrai
  with_reducible repeat' first
    | assumption | intro _ | apply aluForm_wf | apply foldl_wf | apply foldl_pair | apply ite_wf | apply ite_pair
    | apply ite_okR | apply ite_okKv | apply fst_wf | apply next_ok | apply stop_ok | apply refuse_ok | split
    | (apply of_pair; assumption) | (apply of_next; assumption) | dsimp only | apply pair_wf | apply mem_wf
    | apply mk_wf

theorem storeForm_wf (s : State) (i : Instr) (g : Guard) (v : Src) (m : MemOp) (n : Nat) (hw : Wf s) :
    okR (storeForm s i g v m n) := by
  unfold storeForm
  with_reducible repeat' first
    | assumption | intro _ | apply accessForm_wf | apply foldl_wf | apply foldl_pair | apply ite_wf | apply ite_pair
    | apply ite_okR | apply ite_okKv | apply fst_wf | apply next_ok | apply stop_ok | apply refuse_ok | split
    | (apply of_pair; assumption) | (apply of_next; assumption) | dsimp only | apply pair_wf | apply mem_wf
    | apply mk_wf

theorem execSt16_wf (g : Guard) (v : Src) (m : MemOp) (s : State) (hw : Wf s) :
    okR (execSt16 g v m s) := by
  unfold execSt16
  with_reducible repeat' first
    | assumption | intro _ | apply storeForm_wf | apply foldl_wf | apply foldl_pair | apply ite_wf | apply ite_pair
    | apply ite_okR | apply ite_okKv | apply fst_wf | apply next_ok | apply stop_ok | apply refuse_ok | split
    | (apply of_pair; assumption) | (apply of_next; assumption) | dsimp only | apply pair_wf | apply mem_wf
    | apply mk_wf

theorem execSt32_wf (g : Guard) (v : Src) (m : MemOp) (s : State) (hw : Wf s) :
    okR (execSt32 g v m s) := by
  unfold execSt32
  with_reducible repeat' first
    | assumption | intro _ | apply storeForm_wf | apply foldl_wf | apply foldl_pair | apply ite_wf | apply ite_pair
    | apply ite_okR | apply ite_okKv | apply fst_wf | apply next_ok | apply stop_ok | apply refuse_ok | split
    | (apply of_pair; assumption) | (apply of_next; assumption) | dsimp only | apply pair_wf | apply mem_wf
    | apply mk_wf

theorem execSt64_wf (g : Guard) (v : Src) (m : MemOp) (s : State) (hw : Wf s) :
    okR (execSt64 g v m s) := by
  unfold execSt64
  with_reducible repeat' first
    | assumption | intro _ | apply storeForm_wf | apply foldl_wf | apply foldl_pair | apply ite_wf | apply ite_pair
    | apply ite_okR | apply ite_okKv | apply fst_wf | apply next_ok | apply stop_ok | apply refuse_ok | split
    | (apply of_pair; assumption) | (apply of_next; assumption) | dsimp only | apply pair_wf | apply mem_wf
    | apply mk_wf

theorem execSt8_wf (g : Guard) (v : Src) (m : MemOp) (s : State) (hw : Wf s) :
    okR (execSt8 g v m s) := by
  unfold execSt8
  with_reducible repeat' first
    | assumption | intro _ | apply storeForm_wf | apply foldl_wf | apply foldl_pair | apply ite_wf | apply ite_pair
    | apply ite_okR | apply ite_okKv | apply fst_wf | apply next_ok | apply stop_ok | apply refuse_ok | split
    | (apply of_pair; assumption) | (apply of_next; assumption) | dsimp only | apply pair_wf | apply mem_wf
    | apply mk_wf

theorem execStanumPortTraining_wf (p : Fin 18) (up : Bool) (s : State) (hw : Wf s) :
    okR (execStanumPortTraining p up s) := by
  unfold execStanumPortTraining
  with_reducible repeat' first
    | assumption | intro _ | apply foldl_wf | apply foldl_pair | apply ite_wf | apply ite_pair | apply ite_okR
    | apply ite_okKv | apply fst_wf | apply next_ok | apply stop_ok | apply refuse_ok | split
    | (apply of_pair; assumption) | (apply of_next; assumption) | dsimp only | apply pair_wf | apply mem_wf
    | apply mk_wf

theorem execSteer_wf (c : CoreIx) (rt : Fin 16) (s : State) (hw : Wf s) :
    okR (execSteer c rt s) := by
  unfold execSteer
  with_reducible repeat' first
    | assumption | intro _ | apply opEvent_wf | apply foldl_wf | apply foldl_pair | apply ite_wf | apply ite_pair
    | apply ite_okR | apply ite_okKv | apply fst_wf | apply next_ok | apply stop_ok | apply refuse_ok | split
    | (apply of_pair; assumption) | (apply of_next; assumption) | dsimp only | apply pair_wf | apply mem_wf
    | apply mk_wf

theorem execStoreHomeFailure_wf (c : CoreIx) (id : Nat) (s : State) (hw : Wf s) :
    okR (execStoreHomeFailure c id s) := by
  unfold execStoreHomeFailure
  with_reducible repeat' first
    | assumption | intro _ | apply failStore_wf | apply foldl_wf | apply foldl_pair | apply ite_wf | apply ite_pair
    | apply ite_okR | apply ite_okKv | apply fst_wf | apply next_ok | apply stop_ok | apply refuse_ok | split
    | (apply of_pair; assumption) | (apply of_next; assumption) | dsimp only | apply pair_wf | apply mem_wf
    | apply mk_wf

theorem execStreamCancelComplete_wf (c : CoreIx) (ag : Fin 8) (slot : Fin 4) (s : State) (hw : Wf s) :
    okR (execStreamCancelComplete c ag slot s) := by
  unfold execStreamCancelComplete
  with_reducible repeat' first
    | assumption | intro _ | apply cancelTail_wf | apply deliverBytes_wf | apply deliverFlit_wf | apply inTakeAll_wf
    | apply modUnits_wf | apply streamEnd_wf | apply streamFinish_wf | apply foldl_wf | apply foldl_pair
    | apply ite_wf | apply ite_pair | apply ite_okR | apply ite_okKv | apply fst_wf | apply next_ok | apply stop_ok
    | apply refuse_ok | split | (apply of_pair; assumption) | (apply of_sent; assumption) | (apply of_fst; assumption)
    | (apply of_delWait; assumption) | (apply of_fstWait; assumption) | (apply of_next; assumption) | dsimp only
    | apply pair_wf | apply mem_wf | apply mk_wf

theorem execStreamDone_wf (c : CoreIx) (ag : Fin 8) (slot : Fin 4) (s : State) (hw : Wf s) :
    okR (execStreamDone c ag slot s) := by
  unfold execStreamDone
  with_reducible repeat' first
    | assumption | intro _ | apply emitFire_wf | apply fireBad_wf | apply modUnits_wf | apply outHead_wf
    | apply setStream_wf | apply streamFinish_wf | apply foldl_wf | apply foldl_pair | apply ite_wf | apply ite_pair
    | apply ite_okR | apply ite_okKv | apply fst_wf | apply next_ok | apply stop_ok | apply refuse_ok | split
    | (apply of_pair; assumption) | (apply of_sent; assumption) | (apply of_fst; assumption)
    | (apply of_delWait; assumption) | (apply of_fstWait; assumption) | (apply of_flit; assumption)
    | (apply of_none; assumption) | (apply of_next; assumption) | dsimp only | apply pair_wf | apply mem_wf
    | apply mk_wf

theorem execStreamElement_wf (c : CoreIx) (ag : Fin 8) (slot : Fin 4) (s : State) (hw : Wf s) :
    okR (execStreamElement c ag slot s) := by
  unfold execStreamElement
  with_reducible repeat' first
    | assumption | intro _ | apply copyStep_wf | apply inStep_wf | apply inbandStep_wf | apply foldl_wf
    | apply foldl_pair | apply ite_wf | apply ite_pair | apply ite_okR | apply ite_okKv | apply fst_wf | apply next_ok
    | apply stop_ok | apply refuse_ok | split | (apply of_pair; assumption) | (apply of_next; assumption) | dsimp only
    | apply pair_wf | apply mem_wf | apply mk_wf

theorem execStreamWrite_wf (c : CoreIx) (ag : Fin 8) (slot : Fin 4) (s : State) (hw : Wf s) :
    okR (execStreamWrite c ag slot s) := by
  unfold execStreamWrite
  with_reducible repeat' first
    | assumption | intro _ | apply outStep_wf | apply foldl_wf | apply foldl_pair | apply ite_wf | apply ite_pair
    | apply ite_okR | apply ite_okKv | apply fst_wf | apply next_ok | apply stop_ok | apply refuse_ok | split
    | (apply of_pair; assumption) | (apply of_next; assumption) | dsimp only | apply pair_wf | apply mem_wf
    | apply mk_wf

theorem execStretchRelease_wf (d : DieIx) (s : State) (hw : Wf s) :
    okR (execStretchRelease d s) := by
  unfold execStretchRelease
  with_reducible repeat' first
    | assumption | intro _ | apply modDie_wf | apply foldl_wf | apply foldl_pair | apply ite_wf | apply ite_pair
    | apply ite_okR | apply ite_okKv | apply fst_wf | apply next_ok | apply stop_ok | apply refuse_ok | split
    | (apply of_pair; assumption) | (apply of_next; assumption) | dsimp only | apply pair_wf | apply mem_wf
    | apply mk_wf

theorem execStrmCancel_wf (g : Guard) (d : Reg) (ag : Fin 8) (a : Src) (s : State) (hw : Wf s) :
    okR (execStrmCancel g d ag a s) := by
  unfold execStrmCancel
  with_reducible repeat' first
    | assumption | intro _ | apply cancelStream_wf | apply cmdForm_wf | apply postWork_wf | apply posted_wf
    | apply reply_wf | apply setStream_wf | apply foldl_wf | apply foldl_pair | apply ite_wf | apply ite_pair
    | apply ite_okR | apply ite_okKv | apply fst_wf | apply next_ok | apply stop_ok | apply refuse_ok | split
    | (apply of_pair; assumption) | (apply of_next; assumption) | dsimp only | apply pair_wf | apply mem_wf
    | apply mk_wf

theorem strmForm_wf (s : State) (i : Instr) (g : Guard) (d : Reg) (ag : Nat) (slot : Nat) (a : Src) (b : Src)
    (c : Src) (kind : StreamForm) (base : Word) (seed : Word) (konst : Option Word) (defer : Bool) (hw : Wf s) :
    okR (strmForm s i g d ag slot a b c kind base seed konst defer) := by
  unfold strmForm
  with_reducible repeat' first
    | assumption | intro _ | apply cmdForm_wf | apply startStream_wf | apply withRecord_wf | apply foldl_wf
    | apply foldl_pair | apply ite_wf | apply ite_pair | apply ite_okR | apply ite_okKv | apply fst_wf | apply next_ok
    | apply stop_ok | apply refuse_ok | split | (apply of_pair; assumption) | (apply of_next; assumption) | dsimp only
    | apply pair_wf | apply mem_wf | apply mk_wf

theorem execStrmCst_wf (g : Guard) (d : Reg) (ag : Fin 8) (a : Src) (b : Src) (c : Src) (slot : Fin 4)
    (defer : Bool) (s : State) (hw : Wf s) :
    okR (execStrmCst g d ag a b c slot defer s) := by
  unfold execStrmCst
  with_reducible repeat' first
    | assumption | intro _ | apply strmForm_wf | apply foldl_wf | apply foldl_pair | apply ite_wf | apply ite_pair
    | apply ite_okR | apply ite_okKv | apply fst_wf | apply next_ok | apply stop_ok | apply refuse_ok | split
    | (apply of_pair; assumption) | (apply of_next; assumption) | dsimp only | apply pair_wf | apply mem_wf
    | apply mk_wf

theorem execStrmInd_wf (g : Guard) (d : Reg) (ag : Fin 4) (a : Src) (b : Src) (c : Src) (slot : Fin 4)
    (defer : Bool) (s : State) (hw : Wf s) :
    okR (execStrmInd g d ag a b c slot defer s) := by
  unfold execStrmInd
  with_reducible repeat' first
    | assumption | intro _ | apply strmForm_wf | apply foldl_wf | apply foldl_pair | apply ite_wf | apply ite_pair
    | apply ite_okR | apply ite_okKv | apply fst_wf | apply next_ok | apply stop_ok | apply refuse_ok | split
    | (apply of_pair; assumption) | (apply of_next; assumption) | dsimp only | apply pair_wf | apply mem_wf
    | apply mk_wf

theorem execStrmRd_wf (g : Guard) (d : Reg) (ag : Fin 4) (a : Src) (b : Src) (c : Src) (slot : Fin 4)
    (defer : Bool) (s : State) (hw : Wf s) :
    okR (execStrmRd g d ag a b c slot defer s) := by
  unfold execStrmRd
  with_reducible repeat' first
    | assumption | intro _ | apply strmForm_wf | apply foldl_wf | apply foldl_pair | apply ite_wf | apply ite_pair
    | apply ite_okR | apply ite_okKv | apply fst_wf | apply next_ok | apply stop_ok | apply refuse_ok | split
    | (apply of_pair; assumption) | (apply of_next; assumption) | dsimp only | apply pair_wf | apply mem_wf
    | apply mk_wf

theorem execStrmRec_wf (g : Guard) (d : Reg) (ag : Fin 8) (a : Src) (b : Src) (c : Src) (slot : Fin 4)
    (defer : Bool) (s : State) (hw : Wf s) :
    okR (execStrmRec g d ag a b c slot defer s) := by
  unfold execStrmRec
  with_reducible repeat' first
    | assumption | intro _ | apply cmdForm_wf | apply reply_wf | apply startStream_wf | apply foldl_wf
    | apply foldl_pair | apply ite_wf | apply ite_pair | apply ite_okR | apply ite_okKv | apply fst_wf | apply next_ok
    | apply stop_ok | apply refuse_ok | split | (apply of_pair; assumption) | (apply of_next; assumption) | dsimp only
    | apply pair_wf | apply mem_wf | apply mk_wf

theorem execStrmStat_wf (g : Guard) (d : Reg) (ag : Fin 8) (a : Src) (s : State) (hw : Wf s) :
    okR (execStrmStat g d ag a s) := by
  unfold execStrmStat
  with_reducible repeat' first
    | assumption | intro _ | apply cmdForm_wf | apply reply_wf | apply foldl_wf | apply foldl_pair | apply ite_wf
    | apply ite_pair | apply ite_okR | apply ite_okKv | apply fst_wf | apply next_ok | apply stop_ok | apply refuse_ok
    | split | (apply of_pair; assumption) | (apply of_next; assumption) | dsimp only | apply pair_wf | apply mem_wf
    | apply mk_wf

theorem execStrmWr_wf (g : Guard) (d : Reg) (ag : Fin 4) (a : Src) (b : Src) (c : Src) (slot : Fin 4)
    (defer : Bool) (s : State) (hw : Wf s) :
    okR (execStrmWr g d ag a b c slot defer s) := by
  unfold execStrmWr
  with_reducible repeat' first
    | assumption | intro _ | apply strmForm_wf | apply foldl_wf | apply foldl_pair | apply ite_wf | apply ite_pair
    | apply ite_okR | apply ite_okKv | apply fst_wf | apply next_ok | apply stop_ok | apply refuse_ok | split
    | (apply of_pair; assumption) | (apply of_next; assumption) | dsimp only | apply pair_wf | apply mem_wf
    | apply mk_wf

theorem execSub_wf (g : Guard) (d : Reg) (a : Src) (b : Src) (s : State) (hw : Wf s) :
    okR (execSub g d a b s) := by
  unfold execSub
  with_reducible repeat' first
    | assumption | intro _ | apply aluForm_wf | apply foldl_wf | apply foldl_pair | apply ite_wf | apply ite_pair
    | apply ite_okR | apply ite_okKv | apply fst_wf | apply next_ok | apply stop_ok | apply refuse_ok | split
    | (apply of_pair; assumption) | (apply of_next; assumption) | dsimp only | apply pair_wf | apply mem_wf
    | apply mk_wf

theorem tagEvent_wf (op : Nat) (act : State → Nat → Frame → BitVec 8 → (Nat → Option Flit) → OpState → TagAct)
    (c : CoreIx) (rt : Fin 16) (s : State)
    (h_act : ∀ u k f t h st (w : State), Wf u → Wf w → Wf ((act u k f t h st).also w)) (hw : Wf s) :
    okR (tagEvent op act c rt s) := by
  unfold tagEvent
  with_reducible repeat' first
    | assumption | intro _ | apply h_act | apply opMove_wf | apply opStop_wf | apply setOpState_wf | apply foldl_wf
    | apply foldl_pair | apply ite_wf | apply ite_pair | apply ite_okR | apply ite_okKv | apply fst_wf | apply next_ok
    | apply stop_ok | apply refuse_ok | split | (apply of_pair; assumption) | (apply of_next; assumption) | dsimp only
    | apply pair_wf | apply mem_wf | apply mk_wf

theorem execTagin_wf (c : CoreIx) (rt : Fin 16) (s : State) (hw : Wf s) :
    okR (execTagin c rt s) := by
  exact tagEvent_wf _ _ _ _ s (fun u _ f t h st w hu => (tagIn_wf u _ _ _ _ _ hu).of w) hw

theorem execTagout_wf (c : CoreIx) (rt : Fin 16) (s : State) (hw : Wf s) :
    okR (execTagout c rt s) := by
  exact tagEvent_wf _ _ _ _ s (fun u k f t h st w hu => (tagOut_wf u _ _ _ _ _ _ hu).of w) hw

theorem execTaskArg_wf (g : Guard) (d : Reg) (n : BitVec 4) (s : State) (hw : Wf s) :
    okR (execTaskArg g d n s) := by
  unfold execTaskArg
  with_reducible repeat' first
    | assumption | intro _ | apply cmdForm_wf | apply reply_wf | apply foldl_wf | apply foldl_pair | apply ite_wf
    | apply ite_pair | apply ite_okR | apply ite_okKv | apply fst_wf | apply next_ok | apply stop_ok | apply refuse_ok
    | split | (apply of_pair; assumption) | (apply of_next; assumption) | dsimp only | apply pair_wf | apply mem_wf
    | apply mk_wf

theorem execTaskCancel_wf (g : Guard) (d : Reg) (a : Src) (s : State) (hw : Wf s) :
    okR (execTaskCancel g d a s) := by
  unfold execTaskCancel
  with_reducible repeat' first
    | assumption | intro _ | apply bindOne_wf | apply cmdForm_wf | apply modDie_wf | apply reply_wf | apply foldl_wf
    | apply foldl_pair | apply ite_wf | apply ite_pair | apply ite_okR | apply ite_okKv | apply fst_wf | apply next_ok
    | apply stop_ok | apply refuse_ok | split | (apply of_pair; assumption) | (apply of_next; assumption) | dsimp only
    | apply pair_wf | apply mem_wf | apply mk_wf

theorem execTaskReady_wf (d : DieIx) (q : Fin 16) (slot : BitVec 8) (s : State) (hw : Wf s) :
    okR (execTaskReady d q slot s) := by
  unfold execTaskReady
  with_reducible repeat' first
    | assumption | intro _ | apply modDie_wf | apply foldl_wf | apply foldl_pair | apply ite_wf | apply ite_pair
    | apply ite_okR | apply ite_okKv | apply fst_wf | apply next_ok | apply stop_ok | apply refuse_ok | split
    | (apply of_pair; assumption) | (apply of_next; assumption) | dsimp only | apply pair_wf | apply mem_wf
    | apply mk_wf

theorem execTaskRetire_wf (d : DieIx) (q : Fin 16) (slot : BitVec 8) (s : State) (hw : Wf s) :
    okR (execTaskRetire d q slot s) := by
  unfold execTaskRetire
  with_reducible repeat' first
    | assumption | intro _ | apply deliver_wf | apply freeCores_wf | apply modDie_wf | apply foldl_wf
    | apply foldl_pair | apply ite_wf | apply ite_pair | apply ite_okR | apply ite_okKv | apply fst_wf | apply next_ok
    | apply stop_ok | apply refuse_ok | split | (apply of_pair; assumption) | (apply of_next; assumption) | dsimp only
    | apply pair_wf | apply mem_wf | apply mk_wf

theorem execTaskSpawn_wf (g : Guard) (d : Reg) (q : Fin 16) (a : Src) (s : State) (hw : Wf s) :
    okR (execTaskSpawn g d q a s) := by
  unfold execTaskSpawn
  with_reducible repeat' first
    | assumption | intro _ | apply cmdForm_wf | apply modDie_wf | apply reply_wf | apply withRecord_wf
    | apply foldl_wf | apply foldl_pair | apply ite_wf | apply ite_pair | apply ite_okR | apply ite_okKv
    | apply fst_wf | apply next_ok | apply stop_ok | apply refuse_ok | split | (apply of_pair; assumption)
    | (apply of_next; assumption) | dsimp only | apply pair_wf | apply mem_wf | apply mk_wf

theorem execTaskYield_wf (g : Guard) (d : Reg) (s : State) (hw : Wf s) :
    okR (execTaskYield g d s) := by
  unfold execTaskYield
  with_reducible repeat' first
    | assumption | intro _ | apply cmdForm_wf | apply reply_wf | apply stand_wf | apply startWave_wf | apply foldl_wf
    | apply foldl_pair | apply ite_wf | apply ite_pair | apply ite_okR | apply ite_okKv | apply fst_wf | apply next_ok
    | apply stop_ok | apply refuse_ok | split | (apply of_pair; assumption) | (apply of_next; assumption) | dsimp only
    | apply pair_wf | apply mem_wf | apply mk_wf

theorem execTemplateFiring_wf (c : CoreIx) (tm : Fin 16) (s : State) (hw : Wf s) :
    okR (execTemplateFiring c tm s) := by
  unfold execTemplateFiring
  with_reducible repeat' first
    | assumption | intro _ | apply count_wf | apply fqDrop_wf | apply setTpl_wf | apply foldl_wf | apply foldl_pair
    | apply ite_wf | apply ite_pair | apply ite_okR | apply ite_okKv | apply fst_wf | apply next_ok | apply stop_ok
    | apply refuse_ok | split | (apply of_pair; assumption) | (apply of_next; assumption) | dsimp only | apply pair_wf
    | apply mem_wf | apply mk_wf

theorem execTplArm_wf (g : Guard) (d : Reg) (tm : Fin 16) (a : Src) (s : State) (hw : Wf s) :
    okR (execTplArm g d tm a s) := by
  unfold execTplArm
  with_reducible repeat' first
    | assumption | intro _ | apply cmdForm_wf | apply postWork_wf | apply reply_wf | apply setTpl_wf
    | apply withRecord_wf | apply foldl_wf | apply foldl_pair | apply ite_wf | apply ite_pair | apply ite_okR
    | apply ite_okKv | apply fst_wf | apply next_ok | apply stop_ok | apply refuse_ok | split
    | (apply of_pair; assumption) | (apply of_next; assumption) | dsimp only | apply pair_wf | apply mem_wf
    | apply mk_wf

theorem execTplDisarm_wf (g : Guard) (d : Reg) (tm : Fin 16) (s : State) (hw : Wf s) :
    okR (execTplDisarm g d tm s) := by
  unfold execTplDisarm
  with_reducible repeat' first
    | assumption | intro _ | apply cmdForm_wf | apply postWork_wf | apply reply_wf | apply setTpl_wf | apply foldl_wf
    | apply foldl_pair | apply ite_wf | apply ite_pair | apply ite_okR | apply ite_okKv | apply fst_wf | apply next_ok
    | apply stop_ok | apply refuse_ok | split | (apply of_pair; assumption) | (apply of_next; assumption) | dsimp only
    | apply pair_wf | apply mem_wf | apply mk_wf

theorem execTplStat_wf (g : Guard) (d : Reg) (tm : Fin 16) (s : State) (hw : Wf s) :
    okR (execTplStat g d tm s) := by
  unfold execTplStat
  with_reducible repeat' first
    | assumption | intro _ | apply cmdForm_wf | apply reply_wf | apply foldl_wf | apply foldl_pair | apply ite_wf
    | apply ite_pair | apply ite_okR | apply ite_okKv | apply fst_wf | apply next_ok | apply stop_ok | apply refuse_ok
    | split | (apply of_pair; assumption) | (apply of_next; assumption) | dsimp only | apply pair_wf | apply mem_wf
    | apply mk_wf

theorem execTrap_wf (g : Guard) (code : BitVec 16) (s : State) (hw : Wf s) :
    okR (execTrap g code s) := by
  unfold execTrap
  with_reducible repeat' first
    | assumption | intro _ | apply raise_wf | apply runForm_wf | apply foldl_wf | apply foldl_pair | apply ite_wf
    | apply ite_pair | apply ite_okR | apply ite_okKv | apply fst_wf | apply next_ok | apply stop_ok | apply refuse_ok
    | split | (apply of_pair; assumption) | (apply of_next; assumption) | dsimp only | apply pair_wf | apply mem_wf
    | apply mk_wf

theorem execTret_wf (g : Guard) (s : State) (hw : Wf s) :
    okR (execTret g s) := by
  unfold execTret
  with_reducible repeat' first
    | assumption | intro _ | apply modCp_wf | apply runForm_wf | apply foldl_wf | apply foldl_pair | apply ite_wf
    | apply ite_pair | apply ite_okR | apply ite_okKv | apply fst_wf | apply next_ok | apply stop_ok | apply refuse_ok
    | split | (apply of_pair; assumption) | (apply of_next; assumption) | dsimp only | apply pair_wf | apply mem_wf
    | apply mk_wf

theorem execUpd_wf (c : CoreIx) (mt : Fin 4) (port : Fin 4) (part : PortPart) (s : State) (hw : Wf s) :
    okR (execUpd c mt port part s) := by
  unfold execUpd
  with_reducible repeat' first
    | assumption | intro _ | apply portEvent_wf | apply foldl_wf | apply foldl_pair | apply ite_wf | apply ite_pair
    | apply ite_okR | apply ite_okKv | apply fst_wf | apply next_ok | apply stop_ok | apply refuse_ok | split
    | (apply of_pair; assumption) | (apply of_next; assumption) | dsimp only | apply pair_wf | apply mem_wf
    | apply mk_wf

theorem execWarmreset_wf (s : State) (hw : Wf s) :
    okR (execWarmreset s) := by
  unfold execWarmreset
  with_reducible repeat' first
    | assumption | intro _ | apply warm_wf | apply foldl_wf | apply foldl_pair | apply ite_wf | apply ite_pair
    | apply ite_okR | apply ite_okKv | apply fst_wf | apply next_ok | apply stop_ok | apply refuse_ok | split
    | (apply of_pair; assumption) | (apply of_next; assumption) | dsimp only | apply pair_wf | apply mem_wf
    | apply mk_wf

theorem execXlatInv_wf (g : Guard) (d : Reg) (a : Src) (b : Src) (scope : BitVec 3) (mode : BitVec 2) (s : State)
    (hw : Wf s) :
    okR (execXlatInv g d a b scope mode s) := by
  unfold execXlatInv
  with_reducible repeat' first
    | assumption | intro _ | apply cmdForm_wf | apply deliver_wf | apply dropXlats_wf | apply posted_wf
    | apply foldl_wf | apply foldl_pair | apply ite_wf | apply ite_pair | apply ite_okR | apply ite_okKv
    | apply fst_wf | apply next_ok | apply stop_ok | apply refuse_ok | split | (apply of_pair; assumption)
    | (apply of_next; assumption) | dsimp only | apply pair_wf | apply mem_wf | apply mk_wf

theorem execXlatProbe_wf (g : Guard) (d : Reg) (a : Src) (b : Src) (leaf : Bool) (s : State) (hw : Wf s) :
    okR (execXlatProbe g d a b leaf s) := by
  unfold execXlatProbe
  with_reducible repeat' first
    | assumption | intro _ | apply cmdForm_wf | apply deliver_wf | apply posted_wf | apply walk_wf | apply foldl_wf
    | apply foldl_pair | apply ite_wf | apply ite_pair | apply ite_okR | apply ite_okKv | apply fst_wf | apply next_ok
    | apply stop_ok | apply refuse_ok | split | (apply of_pair; assumption) | (apply of_next; assumption) | dsimp only
    | apply pair_wf | apply mem_wf | apply mk_wf

theorem execXlatRes_wf (g : Guard) (d : Reg) (ag : Fin 8) (a : Src) (target : BitVec 2) (s : State) (hw : Wf s) :
    okR (execXlatRes g d ag a target s) := by
  unfold execXlatRes
  with_reducible repeat' first
    | assumption | intro _ | apply cmdForm_wf | apply deliver_wf | apply posted_wf | apply raise_wf
    | apply resumeRecord_wf | apply resumeStream_wf | apply resumeTpl_wf | apply foldl_wf | apply foldl_pair
    | apply ite_wf | apply ite_pair | apply ite_okR | apply ite_okKv | apply fst_wf | apply next_ok | apply stop_ok
    | apply refuse_ok | split | (apply of_pair; assumption) | (apply of_next; assumption) | dsimp only | apply pair_wf
    | apply mem_wf | apply mk_wf

theorem execXor_wf (g : Guard) (d : Reg) (a : Src) (b : Src) (s : State) (hw : Wf s) :
    okR (execXor g d a b s) := by
  unfold execXor
  with_reducible repeat' first
    | assumption | intro _ | apply aluForm_wf | apply foldl_wf | apply foldl_pair | apply ite_wf | apply ite_pair
    | apply ite_okR | apply ite_okKv | apply fst_wf | apply next_ok | apply stop_ok | apply refuse_ok | split
    | (apply of_pair; assumption) | (apply of_next; assumption) | dsimp only | apply pair_wf | apply mem_wf
    | apply mk_wf

theorem execXori_wf (g : Guard) (d : Reg) (a : Src) (imm : BitVec 37) (s : State) (hw : Wf s) :
    okR (execXori g d a imm s) := by
  unfold execXori
  with_reducible repeat' first
    | assumption | intro _ | apply aluForm_wf | apply foldl_wf | apply foldl_pair | apply ite_wf | apply ite_pair
    | apply ite_okR | apply ite_okKv | apply fst_wf | apply next_ok | apply stop_ok | apply refuse_ok | split
    | (apply of_pair; assumption) | (apply of_next; assumption) | dsimp only | apply pair_wf | apply mem_wf
    | apply mk_wf

end Sys2Proof.Laws.Canon
end

