-- ==== Sys2Proof/Laws/CanonExec.lean ====
section
/-!
SUPPORT. Every arm of `exec` keeps the memory in its canonical form.
-/
namespace Sys2Proof.Laws.Canon

open Sys2Proof Machine

/-- What `exec` answers holds a memory in canonical form if the state does. -/
theorem exec_wf (i : Instr) (s : State) (hw : Wf s) : okR (exec i s) :=
  match i with
  | .nop g => execNop_wf g s hw
  | .halt g => execHalt_wf g s hw
  | .trap g code => execTrap_wf g code s hw
  | .tret g => execTret_wf g s hw
  | .wait g => execWait_wf g s hw
  | .brk g code => execBrk_wf g code s hw
  | .add g d a b => execAdd_wf g d a b s hw
  | .sub g d a b => execSub_wf g d a b s hw
  | .and g d a b => execAnd_wf g d a b s hw
  | .or g d a b => execOr_wf g d a b s hw
  | .xor g d a b => execXor_wf g d a b s hw
  | .andn g d a b => execAndn_wf g d a b s hw
  | .shl g d a b => execShl_wf g d a b s hw
  | .shr g d a b => execShr_wf g d a b s hw
  | .sra g d a b => execSra_wf g d a b s hw
  | .rol g d a b => execRol_wf g d a b s hw
  | .min g d a b => execMin_wf g d a b s hw
  | .max g d a b => execMax_wf g d a b s hw
  | .minz g d a b => execMinz_wf g d a b s hw
  | .maxz g d a b => execMaxz_wf g d a b s hw
  | .mul g d a b => execMul_wf g d a b s hw
  | .mulh g d a b => execMulh_wf g d a b s hw
  | .mulhz g d a b => execMulhz_wf g d a b s hw
  | .div g d a b => execDiv_wf g d a b s hw
  | .divz g d a b => execDivz_wf g d a b s hw
  | .rem g d a b => execRem_wf g d a b s hw
  | .remz g d a b => execRemz_wf g d a b s hw
  | .clz g d a => execClz_wf g d a s hw
  | .ctz g d a => execCtz_wf g d a s hw
  | .popc g d a => execPopc_wf g d a s hw
  | .sel g d a b p => execSel_wf g d a b p s hw
  | .bext g d a b c => execBext_wf g d a b c s hw
  | .bins g d a b c => execBins_wf g d a b c s hw
  | .addi g d a imm => execAddi_wf g d a imm s hw
  | .andi g d a imm => execAndi_wf g d a imm s hw
  | .ori g d a imm => execOri_wf g d a imm s hw
  | .xori g d a imm => execXori_wf g d a imm s hw
  | .shli g d a n => execShli_wf g d a n s hw
  | .shri g d a n => execShri_wf g d a n s hw
  | .srai g d a n => execSrai_wf g d a n s hw
  | .li g d imm => execLi_wf g d imm s hw
  | .liH g d a imm => execLiH_wf g d a imm s hw
  | .cmpEq g d a b => execCmpEq_wf g d a b s hw
  | .cmpNe g d a b => execCmpNe_wf g d a b s hw
  | .cmpLt g d a b => execCmpLt_wf g d a b s hw
  | .cmpGe g d a b => execCmpGe_wf g d a b s hw
  | .cmpLo g d a b => execCmpLo_wf g d a b s hw
  | .cmpHs g d a b => execCmpHs_wf g d a b s hw
  | .cmpiEq g d a imm => execCmpiEq_wf g d a imm s hw
  | .cmpiNe g d a imm => execCmpiNe_wf g d a imm s hw
  | .cmpiLt g d a imm => execCmpiLt_wf g d a imm s hw
  | .cmpiGe g d a imm => execCmpiGe_wf g d a imm s hw
  | .cmpiLo g d a imm => execCmpiLo_wf g d a imm s hw
  | .cmpiHs g d a imm => execCmpiHs_wf g d a imm s hw
  | .pand g d a b => execPand_wf g d a b s hw
  | .por g d a b => execPor_wf g d a b s hw
  | .pxor g d a b => execPxor_wf g d a b s hw
  | .pandn g d a b => execPandn_wf g d a b s hw
  | .pmov g d a => execPmov_wf g d a s hw
  | .pget g d a => execPget_wf g d a s hw
  | .br g off => execBr_wf g off s hw
  | .call g d off => execCall_wf g d off s hw
  | .ret g a => execRet_wf g a s hw
  | .jr g d a => execJr_wf g d a s hw
  | .loop g b off => execLoop_wf g b off s hw
  | .ldS8 g d m => execLdS8_wf g d m s hw
  | .ldZ8 g d m => execLdZ8_wf g d m s hw
  | .ldS16 g d m => execLdS16_wf g d m s hw
  | .ldZ16 g d m => execLdZ16_wf g d m s hw
  | .ldS32 g d m => execLdS32_wf g d m s hw
  | .ldZ32 g d m => execLdZ32_wf g d m s hw
  | .ld64 g d m => execLd64_wf g d m s hw
  | .st8 g v m => execSt8_wf g v m s hw
  | .st16 g v m => execSt16_wf g v m s hw
  | .st32 g v m => execSt32_wf g v m s hw
  | .st64 g v m => execSt64_wf g v m s hw
  | .amoAdd64 g d b m => execAmoAdd64_wf g d b m s hw
  | .amoMin64 g d b m => execAmoMin64_wf g d b m s hw
  | .amoMax64 g d b m => execAmoMax64_wf g d b m s hw
  | .amoMinz64 g d b m => execAmoMinz64_wf g d b m s hw
  | .amoMaxz64 g d b m => execAmoMaxz64_wf g d b m s hw
  | .amoAnd64 g d b m => execAmoAnd64_wf g d b m s hw
  | .amoOr64 g d b m => execAmoOr64_wf g d b m s hw
  | .amoXor64 g d b m => execAmoXor64_wf g d b m s hw
  | .amoSwap64 g d b m => execAmoSwap64_wf g d b m s hw
  | .amoCas64 g d b m => execAmoCas64_wf g d b m s hw
  | .amoFadd64 g d b m => execAmoFadd64_wf g d b m s hw
  | .amoAdd32 g d b m => execAmoAdd32_wf g d b m s hw
  | .amoMin32 g d b m => execAmoMin32_wf g d b m s hw
  | .amoMax32 g d b m => execAmoMax32_wf g d b m s hw
  | .amoMinz32 g d b m => execAmoMinz32_wf g d b m s hw
  | .amoMaxz32 g d b m => execAmoMaxz32_wf g d b m s hw
  | .amoAnd32 g d b m => execAmoAnd32_wf g d b m s hw
  | .amoOr32 g d b m => execAmoOr32_wf g d b m s hw
  | .amoXor32 g d b m => execAmoXor32_wf g d b m s hw
  | .amoSwap32 g d b m => execAmoSwap32_wf g d b m s hw
  | .amoCas32 g d b m => execAmoCas32_wf g d b m s hw
  | .amoFadd32 g d b m => execAmoFadd32_wf g d b m s hw
  | .fence g sc => execFence_wf g sc s hw
  | .fenceX g sc => execFenceX_wf g sc s hw
  | .fenceCfg g => execFenceCfg_wf g s hw
  | .krd g d k => execKrd_wf g d k s hw
  | .kwr g k a => execKwr_wf g k a s hw
  | .kset g k a => execKset_wf g k a s hw
  | .kclr g k a => execKclr_wf g k a s hw
  | .fadd g f d a b => execFadd_wf g f d a b s hw
  | .fsub g f d a b => execFsub_wf g f d a b s hw
  | .fmul g f d a b => execFmul_wf g f d a b s hw
  | .fdiv g f d a b => execFdiv_wf g f d a b s hw
  | .fsqrt g f d a => execFsqrt_wf g f d a s hw
  | .ffma g f d a b c => execFfma_wf g f d a b c s hw
  | .fmin g f d a b => execFmin_wf g f d a b s hw
  | .fmax g f d a b => execFmax_wf g f d a b s hw
  | .fcmp g f rel d a b => execFcmp_wf g f rel d a b s hw
  | .fcvt g f fromInt n d a => execFcvt_wf g f fromInt n d a s hw
  | .fclass g f d a => execFclass_wf g f d a s hw
  | .cfgFetch g d u a => execCfgFetch_wf g d u a s hw
  | .cfgLoad g d u a => execCfgLoad_wf g d u a s hw
  | .cfgEvict g d u a mode tag => execCfgEvict_wf g d u a mode tag s hw
  | .cfgInband g d ag a => execCfgInband_wf g d ag a s hw
  | .cfgProbe g d u sel => execCfgProbe_wf g d u sel s hw
  | .cfgTag g d tag => execCfgTag_wf g d tag s hw
  | .strmRd g d ag a b c slot defer => execStrmRd_wf g d ag a b c slot defer s hw
  | .strmWr g d ag a b c slot defer => execStrmWr_wf g d ag a b c slot defer s hw
  | .strmInd g d ag a b c slot defer => execStrmInd_wf g d ag a b c slot defer s hw
  | .strmCst g d ag a b c slot defer => execStrmCst_wf g d ag a b c slot defer s hw
  | .strmRec g d ag a b c slot defer => execStrmRec_wf g d ag a b c slot defer s hw
  | .strmCancel g d ag a => execStrmCancel_wf g d ag a s hw
  | .strmStat g d ag a => execStrmStat_wf g d ag a s hw
  | .barRd g d u => execBarRd_wf g d u s hw
  | .barWr g d u => execBarWr_wf g d u s hw
  | .barCfg g d u drain tag => execBarCfg_wf g d u drain tag s hw
  | .barAll g d => execBarAll_wf g d s hw
  | .barIf g d ag a cond => execBarIf_wf g d ag a cond s hw
  | .ctlSet g d ct a n => execCtlSet_wf g d ct a n s hw
  | .ctlGo g d ct => execCtlGo_wf g d ct s hw
  | .ctlWait g d ct => execCtlWait_wf g d ct s hw
  | .ctlAbort g d ct => execCtlAbort_wf g d ct s hw
  | .tplArm g d tm a => execTplArm_wf g d tm a s hw
  | .tplDisarm g d tm => execTplDisarm_wf g d tm s hw
  | .tplFire g d tm a => execTplFire_wf g d tm a s hw
  | .tplStat g d tm => execTplStat_wf g d tm s hw
  | .qPush g d q a last => execQPush_wf g d q a last s hw
  | .qPop g d q peek => execQPop_wf g d q peek s hw
  | .qSpace g d q => execQSpace_wf g d q s hw
  | .qWait g d q a space => execQWait_wf g d q a space s hw
  | .semInit g d a b => execSemInit_wf g d a b s hw
  | .semTake g d a tok sb => execSemTake_wf g d a tok sb s hw
  | .semWait g d a b => execSemWait_wf g d a b s hw
  | .semAdv g d a n => execSemAdv_wf g d a n s hw
  | .mxTok g d a => execMxTok_wf g d a s hw
  | .mxAccrd g d acc row col => execMxAccrd_wf g d acc row col s hw
  | .mxAccclr g d acc => execMxAccclr_wf g d acc s hw
  | .mxStat g d => execMxStat_wf g d s hw
  | .collRed g d a => execCollRed_wf g d a s hw
  | .collAttn g d a => execCollAttn_wf g d a s hw
  | .collGath g d a => execCollGath_wf g d a s hw
  | .collScat g d a => execCollScat_wf g d a s hw
  | .collBcast g d a => execCollBcast_wf g d a s hw
  | .collA2a g d a => execCollA2a_wf g d a s hw
  | .collWait g d a => execCollWait_wf g d a s hw
  | .pairBox g d a => execPairBox_wf g d a s hw
  | .pairBin g d => execPairBin_wf g d s hw
  | .pairScan g d a b sb dig => execPairScan_wf g d a b sb dig s hw
  | .pairStat g d => execPairStat_wf g d s hw
  | .pairClr g d => execPairClr_wf g d s hw
  | .kvAlloc g d a => execKvAlloc_wf g d a s hw
  | .kvFree g d a all => execKvFree_wf g d a all s hw
  | .kvShare g d a b => execKvShare_wf g d a b s hw
  | .kvMap g d a => execKvMap_wf g d a s hw
  | .kvLimit g d a b clr => execKvLimit_wf g d a b clr s hw
  | .kvLend g d a b => execKvLend_wf g d a b s hw
  | .taskSpawn g d q a => execTaskSpawn_wf g d q a s hw
  | .taskDone g => execTaskDone_wf g s hw
  | .taskYield g d => execTaskYield_wf g d s hw
  | .taskArg g d n => execTaskArg_wf g d n s hw
  | .taskCancel g d a => execTaskCancel_wf g d a s hw
  | .frzSave g d a b => execFrzSave_wf g d a b s hw
  | .frzLoad g d a q => execFrzLoad_wf g d a q s hw
  | .quiPoll g d wait => execQuiPoll_wf g d wait s hw
  | .quiRep g d a sel => execQuiRep_wf g d a sel s hw
  | .xlatInv g d a b scope mode => execXlatInv_wf g d a b scope mode s hw
  | .xlatProbe g d a b leaf => execXlatProbe_wf g d a b leaf s hw
  | .xlatRes g d ag a target => execXlatRes_wf g d ag a target s hw
  | .pendingResultWrite c r => execPendingResultWrite_wf c r s hw
  | .waitEnd c => execWaitEnd_wf c s hw
  | .barrierEnd c => execBarrierEnd_wf c s hw
  | .fenceResume c => execFenceResume_wf c s hw
  | .queueFormResume c => execQueueFormResume_wf c s hw
  | .ctlWaitEnd c => execCtlWaitEnd_wf c s hw
  | .collWaitEnd c => execCollWaitEnd_wf c s hw
  | .quiPollWaitEnd c => execQuiPollWaitEnd_wf c s hw
  | .semRetest c => execSemRetest_wf c s hw
  | .asyncTrap c => execAsyncTrap_wf c s hw
  | .programPageFill c => execProgramPageFill_wf c s hw
  | .bankAccess who id seg => execBankAccess_wf who id seg s hw
  | .routerForward c rt => execRouterForward_wf c rt s hw
  | .kill c pe => execKill_wf c pe s hw
  | .killReturn c ch => execKillReturn_wf c ch s hw
  | .peFire c pe => execPeFire_wf c pe s hw
  | .digitEmit c pe => execDigitEmit_wf c pe s hw
  | .steer c rt => execSteer_wf c rt s hw
  | .carry c rt => execCarry_wf c rt s hw
  | .invar c rt => execInvar_wf c rt s hw
  | .merge c rt => execMerge_wf c rt s hw
  | .join c rt => execJoin_wf c rt s hw
  | .order c rt => execOrder_wf c rt s hw
  | .arb c rt => execArb_wf c rt s hw
  | .tagin c rt => execTagin_wf c rt s hw
  | .tagout c rt => execTagout_wf c rt s hw
  | .mld c mt port part => execMld_wf c mt port part s hw
  | .mst c mt port part => execMst_wf c mt port part s hw
  | .gath c mt port part => execGath_wf c mt port part s hw
  | .scat c mt port part => execScat_wf c mt port part s hw
  | .upd c mt port part => execUpd_wf c mt port part s hw
  | .dep c mt port part => execDep_wf c mt port part s hw
  | .sparseUpdateApply c mt bank idx into => execSparseUpdateApply_wf c mt bank idx into s hw
  | .mxTokenEnqueue c => execMxTokenEnqueue_wf c s hw
  | .mma c => execMma_wf c s hw
  | .mmaAcc c => execMmaAcc_wf c s hw
  | .accRd c => execAccRd_wf c s hw
  | .accClr c => execAccClr_wf c s hw
  | .matrixStep c => execMatrixStep_wf c s hw
  | .streamElement c ag slot => execStreamElement_wf c ag slot s hw
  | .streamWrite c ag slot => execStreamWrite_wf c ag slot s hw
  | .streamDone c ag slot => execStreamDone_wf c ag slot s hw
  | .streamCancelComplete c ag slot => execStreamCancelComplete_wf c ag slot s hw
  | .barIfDecide c ag slot => execBarIfDecide_wf c ag slot s hw
  | .pageWalk c va => execPageWalk_wf c va s hw
  | .templateFiring c tm => execTemplateFiring_wf c tm s hw
  | .copyEnd c tm => execCopyEnd_wf c tm s hw
  | .compressPhase c tm => execCompressPhase_wf c tm s hw
  | .sbPush c sb => execSbPush_wf c sb s hw
  | .sbPop c sb => execSbPop_wf c sb s hw
  | .frameInstall c idx => execFrameInstall_wf c idx s hw
  | .demandFill c node => execDemandFill_wf c node s hw
  | .configRecord c node => execConfigRecord_wf c node s hw
  | .evictDrainClear c idx => execEvictDrainClear_wf c idx s hw
  | .permit c ct => execPermit_wf c ct s hw
  | .doneToken c ct => execDoneToken_wf c ct s hw
  | .iterationOpen c ct => execIterationOpen_wf c ct s hw
  | .quiescenceVerdict c => execQuiescenceVerdict_wf c s hw
  | .deadlockTrap c => execDeadlockTrap_wf c s hw
  | .reservedOpcode w => execReservedOpcode_wf w s hw
  | .fabricCycle => execFabricCycle_wf s hw
  | .taskReady d q slot => execTaskReady_wf d q slot s hw
  | .schedulerBind d => execSchedulerBind_wf d s hw
  | .preempt d => execPreempt_wf d s hw
  | .freeze d => execFreeze_wf d s hw
  | .taskRetire d q slot => execTaskRetire_wf d q slot s hw
  | .collRendezvous team r => execCollRendezvous_wf team r s hw
  | .collCombine team seq t => execCollCombine_wf team seq t s hw
  | .pairHomeCell k => execPairHomeCell_wf k s hw
  | .pairRecordPush k => execPairRecordPush_wf k s hw
  | .kvRequestRoute idx => execKvRequestRoute_wf idx s hw
  | .plainDelivery k idx => execPlainDelivery_wf k idx s hw
  | .plainElementFire k e => execPlainElementFire_wf k e s hw
  | .storeHomeFailure c id => execStoreHomeFailure_wf c id s hw
  | .passInbound c => execPassInbound_wf c s hw
  | .passOutbound c => execPassOutbound_wf c s hw
  | .ringPass c slot => execRingPass_wf c slot s hw
  | .coldreset => execColdreset_wf s hw
  | .warmreset => execWarmreset_wf s hw
  | .boot => execBoot_wf s hw
  | .recoveryFetch => execRecoveryFetch_wf s hw
  | .spdmMeasurement index => execSpdmMeasurement_wf index s hw
  | .hostAccess r => execHostAccess_wf r s hw
  | .hostAtomicop r => execHostAtomicop_wf r s hw
  | .atsTranslationCompletion page frame => execAtsTranslationCompletion_wf page frame s hw
  | .atsInvalidation page => execAtsInvalidation_wf page s hw
  | .tqFirstHalfWrite d q v => execTqFirstHalfWrite_wf d q v s hw
  | .tqSecondHalfWrite d q v => execTqSecondHalfWrite_wf d q v s hw
  | .taskCounterWrite d t v => execTaskCounterWrite_wf d t v s hw
  | .fqpop d => execFqpop_wf d s hw
  | .fzareaWrite d v => execFzareaWrite_wf d v s hw
  | .kvPoolWrite d r v => execKvPoolWrite_wf d r v s hw
  | .dmaWindowWrite n limit v => execDmaWindowWrite_wf n limit v s hw
  | .dwlock v => execDwlock_wf v s hw
  | .stlinkWrite v => execStlinkWrite_wf v s hw
  | .routeTableWrite p v => execRouteTableWrite_wf p v s hw
  | .registerWrite r v => execRegisterWrite_wf r v s hw
  | .clockStepChange => execClockStepChange_wf s hw
  | .cycleStretch d => execCycleStretch_wf d s hw
  | .linkRetrainFailure l => execLinkRetrainFailure_wf l s hw
  | .remoteAccess r => execRemoteAccess_wf r s hw
  | .ktimeTick => execKtimeTick_wf s hw
  | .stretchRelease d => execStretchRelease_wf d s hw
  | .stanumPortTraining p up => execStanumPortTraining_wf p up s hw
  | .remoteReplayFailure c id => execRemoteReplayFailure_wf c id s hw
  | .atsDisable => execAtsDisable_wf s hw

end Sys2Proof.Laws.Canon
end

