-- ==== Sys2Proof/Laws/Encoding.lean ====
section
/-!
SUPPORT. The fields of a packed word are the fields it was packed from (R96).
-/
set_option linter.unusedSimpArgs false

namespace Sys2Proof.Laws

theorem extract_low {m n s l : Nat} (x : BitVec m) (y : BitVec n) (h : s + l ≤ n) :
    (x ++ y).extractLsb' s l = y.extractLsb' s l := by
  apply BitVec.eq_of_getLsbD_eq; intro i hi
  simp [BitVec.getLsbD_append, hi, show s + i < n by omega]

theorem extract_high {m n s l : Nat} (x : BitVec m) (y : BitVec n) (h : n ≤ s) :
    (x ++ y).extractLsb' s l = x.extractLsb' (s - n) l := by
  apply BitVec.eq_of_getLsbD_eq; intro i hi
  simp [BitVec.getLsbD_append, hi, show ¬ s + i < n by omega, show s + i - n = s - n + i by omega]

theorem extract_all {n s : Nat} (x : BitVec n) (h : s = 0) : x.extractLsb' s n = x := by
  subst h
  apply BitVec.eq_of_getLsbD_eq; intro i hi; simp [hi]

theorem bit_low {m n i : Nat} (x : BitVec m) (y : BitVec n) (h : i < n) : (x ++ y).getLsbD i = y.getLsbD i := by
  simp [BitVec.getLsbD_append, h]

theorem bit_high {m n i : Nat} (x : BitVec m) (y : BitVec n) (h : n ≤ i) :
    (x ++ y).getLsbD i = x.getLsbD (i - n) := by
  simp [BitVec.getLsbD_append, show ¬ i < n by omega]

theorem bit_ofBool {s : Nat} (b : Bool) (h : s = 0) : (BitVec.ofBool b).getLsbD s = b := by
  subst h; cases b <;> rfl

theorem fMaj_packR (maj g mn d a b c sz) : fMaj (packR maj g mn d a b c sz) = maj := by
  simp only [fMaj, packR, packHeader, packSrc]
  rw [extract_high _ _ (by decide)]
  simp (disch := decide) only [extract_low, extract_high, bit_low, bit_high, bit_ofBool, extract_all]

theorem fMin_packR (maj g mn d a b c sz) : fMin (packR maj g mn d a b c sz) = mn := by
  simp only [fMin, packR, packHeader, packSrc]
  rw [extract_high _ _ (by decide)]
  simp (disch := decide) only [extract_low, extract_high, bit_low, bit_high, bit_ofBool, extract_all]

theorem guardOf_packR (maj g mn d a b c sz) : guardOf (packR maj g mn d a b c sz) = g := by
  simp only [guardOf, packR, packHeader, packSrc]
  rw [bit_high _ _ (by decide), extract_high _ _ (by decide)]
  simp (disch := decide) only [extract_low, extract_high, bit_low, bit_high, bit_ofBool, extract_all]

theorem fD_packR (maj g mn d a b c sz) : fD (packR maj g mn d a b c sz) = d := by
  simp only [fD, packR, packHeader, packSrc]
  rw [extract_high _ _ (by decide)]
  simp (disch := decide) only [extract_low, extract_high, bit_low, bit_high, bit_ofBool, extract_all]

theorem srcA_packR (maj g mn d a b c sz) : srcA (packR maj g mn d a b c sz) = a := by
  simp only [srcA, fA, fLA, packR, packHeader, packSrc]
  rw [extract_high _ _ (by decide), bit_high _ _ (by decide)]
  simp (disch := decide) only [extract_low, extract_high, bit_low, bit_high, bit_ofBool, extract_all]

theorem srcB_packR (maj g mn d a b c sz) : srcB (packR maj g mn d a b c sz) = b := by
  simp only [srcB, fB, fLB, packR, packHeader, packSrc]
  rw [extract_high _ _ (by decide), bit_high _ _ (by decide)]
  simp (disch := decide) only [extract_low, extract_high, bit_low, bit_high, bit_ofBool, extract_all]

theorem srcC_packR (maj g mn d a b c sz) : srcC (packR maj g mn d a b c sz) = c := by
  simp only [srcC, fC, fLC, packR, packHeader, packSrc]
  rw [extract_high _ _ (by decide), bit_high _ _ (by decide)]
  simp (disch := decide) only [extract_low, extract_high, bit_low, bit_high, bit_ofBool, extract_all]

theorem fSZ_packR (maj g mn d a b c sz) : fSZ (packR maj g mn d a b c sz) = sz := by
  simp only [fSZ, packR, packHeader, packSrc]
  rw [extract_high _ _ (by decide)]
  simp (disch := decide) only [extract_low, extract_high, bit_low, bit_high, bit_ofBool, extract_all]

theorem fLow_packR (maj g mn d a b c sz) : fLow (packR maj g mn d a b c sz) = 0 := by
  rw [fLow, packR, extract_low _ _ (by decide), extract_all _ rfl]

theorem fMaj_packI (maj g mn d a imm) : fMaj (packI maj g mn d a imm) = maj := by
  simp only [fMaj, packI, packHeader, packSrc]
  rw [extract_high _ _ (by decide)]
  simp (disch := decide) only [extract_low, extract_high, bit_low, bit_high, bit_ofBool, extract_all]

theorem fMin_packI (maj g mn d a imm) : fMin (packI maj g mn d a imm) = mn := by
  simp only [fMin, packI, packHeader, packSrc]
  rw [extract_high _ _ (by decide)]
  simp (disch := decide) only [extract_low, extract_high, bit_low, bit_high, bit_ofBool, extract_all]

theorem guardOf_packI (maj g mn d a imm) : guardOf (packI maj g mn d a imm) = g := by
  simp only [guardOf, packI, packHeader, packSrc]
  rw [bit_high _ _ (by decide), extract_high _ _ (by decide)]
  simp (disch := decide) only [extract_low, extract_high, bit_low, bit_high, bit_ofBool, extract_all]

theorem fD_packI (maj g mn d a imm) : fD (packI maj g mn d a imm) = d := by
  simp only [fD, packI, packHeader, packSrc]
  rw [extract_high _ _ (by decide)]
  simp (disch := decide) only [extract_low, extract_high, bit_low, bit_high, bit_ofBool, extract_all]

theorem srcA_packI (maj g mn d a imm) : srcA (packI maj g mn d a imm) = a := by
  simp only [srcA, fA, fLA, packI, packHeader, packSrc]
  rw [extract_high _ _ (by decide), bit_high _ _ (by decide)]
  simp (disch := decide) only [extract_low, extract_high, bit_low, bit_high, bit_ofBool, extract_all]

theorem fImm37_packI (maj g mn d a imm) : fImm37 (packI maj g mn d a imm) = imm := by
  rw [fImm37, packI, extract_low _ _ (by decide), extract_all _ rfl]

theorem fMaj_packM (maj g mn d a b sc ar ld off) : fMaj (packM maj g mn d a b sc ar ld off) = maj := by
  simp only [fMaj, packM, packHeader, packSrc]
  rw [extract_high _ _ (by decide)]
  simp (disch := decide) only [extract_low, extract_high, bit_low, bit_high, bit_ofBool, extract_all]

theorem fMin_packM (maj g mn d a b sc ar ld off) : fMin (packM maj g mn d a b sc ar ld off) = mn := by
  simp only [fMin, packM, packHeader, packSrc]
  rw [extract_high _ _ (by decide)]
  simp (disch := decide) only [extract_low, extract_high, bit_low, bit_high, bit_ofBool, extract_all]

theorem guardOf_packM (maj g mn d a b sc ar ld off) : guardOf (packM maj g mn d a b sc ar ld off) = g := by
  simp only [guardOf, packM, packHeader, packSrc]
  rw [bit_high _ _ (by decide), extract_high _ _ (by decide)]
  simp (disch := decide) only [extract_low, extract_high, bit_low, bit_high, bit_ofBool, extract_all]

theorem fD_packM (maj g mn d a b sc ar ld off) : fD (packM maj g mn d a b sc ar ld off) = d := by
  simp only [fD, packM, packHeader, packSrc]
  rw [extract_high _ _ (by decide)]
  simp (disch := decide) only [extract_low, extract_high, bit_low, bit_high, bit_ofBool, extract_all]

theorem srcA_packM (maj g mn d a b sc ar ld off) : srcA (packM maj g mn d a b sc ar ld off) = a := by
  simp only [srcA, fA, fLA, packM, packHeader, packSrc]
  rw [extract_high _ _ (by decide), bit_high _ _ (by decide)]
  simp (disch := decide) only [extract_low, extract_high, bit_low, bit_high, bit_ofBool, extract_all]

theorem srcB_packM (maj g mn d a b sc ar ld off) : srcB (packM maj g mn d a b sc ar ld off) = b := by
  simp only [srcB, fB, fLB, packM, packHeader, packSrc]
  rw [extract_high _ _ (by decide), bit_high _ _ (by decide)]
  simp (disch := decide) only [extract_low, extract_high, bit_low, bit_high, bit_ofBool, extract_all]

theorem fSC_packM (maj g mn d a b sc ar ld off) : fSC (packM maj g mn d a b sc ar ld off) = sc := by
  simp only [fSC, packM, packHeader, packSrc]
  rw [extract_high _ _ (by decide)]
  simp (disch := decide) only [extract_low, extract_high, bit_low, bit_high, bit_ofBool, extract_all]

theorem fAR_packM (maj g mn d a b sc ar ld off) : fAR (packM maj g mn d a b sc ar ld off) = ar := by
  simp only [fAR, packM, packHeader, packSrc]
  rw [bit_high _ _ (by decide)]
  simp (disch := decide) only [bit_low, bit_high, bit_ofBool]

theorem fLD_packM (maj g mn d a b sc ar ld off) : fLD (packM maj g mn d a b sc ar ld off) = ld := by
  simp only [fLD, packM, packHeader, packSrc]
  rw [bit_high _ _ (by decide)]
  simp (disch := decide) only [bit_low, bit_high, bit_ofBool]

theorem fOff26_packM (maj g mn d a b sc ar ld off) : fOff26 (packM maj g mn d a b sc ar ld off) = off := by
  rw [fOff26, packM, extract_low _ _ (by decide), extract_all _ rfl]

theorem fMaj_packB (maj g mn d a b off) : fMaj (packB maj g mn d a b off) = maj := by
  simp only [fMaj, packB, packHeader, packSrc]
  rw [extract_high _ _ (by decide)]
  simp (disch := decide) only [extract_low, extract_high, bit_low, bit_high, bit_ofBool, extract_all]

theorem fMin_packB (maj g mn d a b off) : fMin (packB maj g mn d a b off) = mn := by
  simp only [fMin, packB, packHeader, packSrc]
  rw [extract_high _ _ (by decide)]
  simp (disch := decide) only [extract_low, extract_high, bit_low, bit_high, bit_ofBool, extract_all]

theorem guardOf_packB (maj g mn d a b off) : guardOf (packB maj g mn d a b off) = g := by
  simp only [guardOf, packB, packHeader, packSrc]
  rw [bit_high _ _ (by decide), extract_high _ _ (by decide)]
  simp (disch := decide) only [extract_low, extract_high, bit_low, bit_high, bit_ofBool, extract_all]

theorem fD_packB (maj g mn d a b off) : fD (packB maj g mn d a b off) = d := by
  simp only [fD, packB, packHeader, packSrc]
  rw [extract_high _ _ (by decide)]
  simp (disch := decide) only [extract_low, extract_high, bit_low, bit_high, bit_ofBool, extract_all]

theorem srcA_packB (maj g mn d a b off) : srcA (packB maj g mn d a b off) = a := by
  simp only [srcA, fA, fLA, packB, packHeader, packSrc]
  rw [extract_high _ _ (by decide), bit_high _ _ (by decide)]
  simp (disch := decide) only [extract_low, extract_high, bit_low, bit_high, bit_ofBool, extract_all]

theorem fB_packB (maj g mn d a b off) : fB (packB maj g mn d a b off) = b := by
  simp only [fB, packB, packHeader, packSrc]
  rw [extract_high _ _ (by decide)]
  simp (disch := decide) only [extract_low, extract_high, bit_low, bit_high, bit_ofBool, extract_all]

theorem fOff32_packB (maj g mn d a b off) : fOff32 (packB maj g mn d a b off) = off := by
  rw [fOff32, packB, extract_low _ _ (by decide), extract_all _ rfl]

theorem fMaj_packX (maj g mn d a b c h imm) : fMaj (packX maj g mn d a b c h imm) = maj := by
  simp only [fMaj, packX, packHeader, packSrc]
  rw [extract_high _ _ (by decide)]
  simp (disch := decide) only [extract_low, extract_high, bit_low, bit_high, bit_ofBool, extract_all]

theorem fMin_packX (maj g mn d a b c h imm) : fMin (packX maj g mn d a b c h imm) = mn := by
  simp only [fMin, packX, packHeader, packSrc]
  rw [extract_high _ _ (by decide)]
  simp (disch := decide) only [extract_low, extract_high, bit_low, bit_high, bit_ofBool, extract_all]

theorem guardOf_packX (maj g mn d a b c h imm) : guardOf (packX maj g mn d a b c h imm) = g := by
  simp only [guardOf, packX, packHeader, packSrc]
  rw [bit_high _ _ (by decide), extract_high _ _ (by decide)]
  simp (disch := decide) only [extract_low, extract_high, bit_low, bit_high, bit_ofBool, extract_all]

theorem fD_packX (maj g mn d a b c h imm) : fD (packX maj g mn d a b c h imm) = d := by
  simp only [fD, packX, packHeader, packSrc]
  rw [extract_high _ _ (by decide)]
  simp (disch := decide) only [extract_low, extract_high, bit_low, bit_high, bit_ofBool, extract_all]

theorem srcA_packX (maj g mn d a b c h imm) : srcA (packX maj g mn d a b c h imm) = a := by
  simp only [srcA, fA, fLA, packX, packHeader, packSrc]
  rw [extract_high _ _ (by decide), bit_high _ _ (by decide)]
  simp (disch := decide) only [extract_low, extract_high, bit_low, bit_high, bit_ofBool, extract_all]

theorem srcB_packX (maj g mn d a b c h imm) : srcB (packX maj g mn d a b c h imm) = b := by
  simp only [srcB, fB, fLB, packX, packHeader, packSrc]
  rw [extract_high _ _ (by decide), bit_high _ _ (by decide)]
  simp (disch := decide) only [extract_low, extract_high, bit_low, bit_high, bit_ofBool, extract_all]

theorem srcC_packX (maj g mn d a b c h imm) : srcC (packX maj g mn d a b c h imm) = c := by
  simp only [srcC, fC, fLC, packX, packHeader, packSrc]
  rw [extract_high _ _ (by decide), bit_high _ _ (by decide)]
  simp (disch := decide) only [extract_low, extract_high, bit_low, bit_high, bit_ofBool, extract_all]

theorem fH_packX (maj g mn d a b c h imm) : fH (packX maj g mn d a b c h imm) = h := by
  simp only [fH, packX, packHeader, packSrc]
  rw [extract_high _ _ (by decide)]
  simp (disch := decide) only [extract_low, extract_high, bit_low, bit_high, bit_ofBool, extract_all]

theorem fImm16_packX (maj g mn d a b c h imm) : fImm16 (packX maj g mn d a b c h imm) = imm := by
  rw [fImm16, packX, extract_low _ _ (by decide), extract_all _ rfl]

theorem fA_packR (maj g mn d a b c sz) : fA (packR maj g mn d a b c sz) = a.reg :=
  congrArg Src.reg (srcA_packR maj g mn d a b c sz)

theorem fLA_packR (maj g mn d a b c sz) : fLA (packR maj g mn d a b c sz) = a.last :=
  congrArg Src.last (srcA_packR maj g mn d a b c sz)

theorem fB_packR (maj g mn d a b c sz) : fB (packR maj g mn d a b c sz) = b.reg :=
  congrArg Src.reg (srcB_packR maj g mn d a b c sz)

theorem fLB_packR (maj g mn d a b c sz) : fLB (packR maj g mn d a b c sz) = b.last :=
  congrArg Src.last (srcB_packR maj g mn d a b c sz)

theorem fC_packR (maj g mn d a b c sz) : fC (packR maj g mn d a b c sz) = c.reg :=
  congrArg Src.reg (srcC_packR maj g mn d a b c sz)

theorem fLC_packR (maj g mn d a b c sz) : fLC (packR maj g mn d a b c sz) = c.last :=
  congrArg Src.last (srcC_packR maj g mn d a b c sz)

theorem fA_packI (maj g mn d a imm) : fA (packI maj g mn d a imm) = a.reg :=
  congrArg Src.reg (srcA_packI maj g mn d a imm)

theorem fLA_packI (maj g mn d a imm) : fLA (packI maj g mn d a imm) = a.last :=
  congrArg Src.last (srcA_packI maj g mn d a imm)

theorem fA_packM (maj g mn d a b sc ar ld off) : fA (packM maj g mn d a b sc ar ld off) = a.reg :=
  congrArg Src.reg (srcA_packM maj g mn d a b sc ar ld off)

theorem fLA_packM (maj g mn d a b sc ar ld off) : fLA (packM maj g mn d a b sc ar ld off) = a.last :=
  congrArg Src.last (srcA_packM maj g mn d a b sc ar ld off)

theorem fB_packM (maj g mn d a b sc ar ld off) : fB (packM maj g mn d a b sc ar ld off) = b.reg :=
  congrArg Src.reg (srcB_packM maj g mn d a b sc ar ld off)

theorem fLB_packM (maj g mn d a b sc ar ld off) : fLB (packM maj g mn d a b sc ar ld off) = b.last :=
  congrArg Src.last (srcB_packM maj g mn d a b sc ar ld off)

theorem fA_packB (maj g mn d a b off) : fA (packB maj g mn d a b off) = a.reg :=
  congrArg Src.reg (srcA_packB maj g mn d a b off)

theorem fLA_packB (maj g mn d a b off) : fLA (packB maj g mn d a b off) = a.last :=
  congrArg Src.last (srcA_packB maj g mn d a b off)

theorem fA_packX (maj g mn d a b c h imm) : fA (packX maj g mn d a b c h imm) = a.reg :=
  congrArg Src.reg (srcA_packX maj g mn d a b c h imm)

theorem fLA_packX (maj g mn d a b c h imm) : fLA (packX maj g mn d a b c h imm) = a.last :=
  congrArg Src.last (srcA_packX maj g mn d a b c h imm)

theorem fB_packX (maj g mn d a b c h imm) : fB (packX maj g mn d a b c h imm) = b.reg :=
  congrArg Src.reg (srcB_packX maj g mn d a b c h imm)

theorem fLB_packX (maj g mn d a b c h imm) : fLB (packX maj g mn d a b c h imm) = b.last :=
  congrArg Src.last (srcB_packX maj g mn d a b c h imm)

theorem fC_packX (maj g mn d a b c h imm) : fC (packX maj g mn d a b c h imm) = c.reg :=
  congrArg Src.reg (srcC_packX maj g mn d a b c h imm)

theorem fLC_packX (maj g mn d a b c h imm) : fLC (packX maj g mn d a b c h imm) = c.last :=
  congrArg Src.last (srcC_packX maj g mn d a b c h imm)

end Sys2Proof.Laws
end

