-- ==== Sys2Proof/Laws/State.lean ====
section
/-!
SUPPORT. What each update of the state leaves, field by field, and the parts read back after an update.
-/
namespace Sys2Proof.Laws
open Sys2Proof.Machine

variable (s : State)

/-! `setCore` changes cores alone. -/

@[simp] theorem setCore_agenda (c : Nat) (x : Core) : (s.setCore c x).agenda = s.agenda := rfl
@[simp] theorem setCore_focus (c : Nat) (x : Core) : (s.setCore c x).focus = s.focus := rfl
@[simp] theorem setCore_rota (c : Nat) (x : Core) : (s.setCore c x).rota = s.rota := rfl
@[simp] theorem setCore_free (c : Nat) (x : Core) : (s.setCore c x).free = s.free := rfl
@[simp] theorem setCore_cyc (c : Nat) (x : Core) : (s.setCore c x).cyc = s.cyc := rfl
@[simp] theorem setCore_kcyc (c : Nat) (x : Core) : (s.setCore c x).kcyc = s.kcyc := rfl
@[simp] theorem setCore_ktime (c : Nat) (x : Core) : (s.setCore c x).ktime = s.ktime := rfl
@[simp] theorem setCore_mem (c : Nat) (x : Core) : (s.setCore c x).mem = s.mem := rfl
@[simp] theorem setCore_ecc (c : Nat) (x : Core) : (s.setCore c x).ecc = s.ecc := rfl
@[simp] theorem setCore_clusters (c : Nat) (x : Core) : (s.setCore c x).clusters = s.clusters := rfl
@[simp] theorem setCore_dies (c : Nat) (x : Core) : (s.setCore c x).dies = s.dies := rfl
@[simp] theorem setCore_pkg (c : Nat) (x : Core) : (s.setCore c x).pkg = s.pkg := rfl
@[simp] theorem setCore_kv (c : Nat) (x : Core) : (s.setCore c x).kv = s.kv := rfl
@[simp] theorem setCore_stations (c : Nat) (x : Core) : (s.setCore c x).stations = s.stations := rfl
@[simp] theorem setCore_images (c : Nat) (x : Core) : (s.setCore c x).images = s.images := rfl
@[simp] theorem setCore_stopped (c : Nat) (x : Core) : (s.setCore c x).stopped = s.stopped := rfl

/-! `modCore` changes cores alone. -/

@[simp] theorem modCore_agenda (c : Nat) (f : Core → Core) : (s.modCore c f).agenda = s.agenda := rfl
@[simp] theorem modCore_focus (c : Nat) (f : Core → Core) : (s.modCore c f).focus = s.focus := rfl
@[simp] theorem modCore_rota (c : Nat) (f : Core → Core) : (s.modCore c f).rota = s.rota := rfl
@[simp] theorem modCore_free (c : Nat) (f : Core → Core) : (s.modCore c f).free = s.free := rfl
@[simp] theorem modCore_cyc (c : Nat) (f : Core → Core) : (s.modCore c f).cyc = s.cyc := rfl
@[simp] theorem modCore_kcyc (c : Nat) (f : Core → Core) : (s.modCore c f).kcyc = s.kcyc := rfl
@[simp] theorem modCore_ktime (c : Nat) (f : Core → Core) : (s.modCore c f).ktime = s.ktime := rfl
@[simp] theorem modCore_mem (c : Nat) (f : Core → Core) : (s.modCore c f).mem = s.mem := rfl
@[simp] theorem modCore_ecc (c : Nat) (f : Core → Core) : (s.modCore c f).ecc = s.ecc := rfl
@[simp] theorem modCore_clusters (c : Nat) (f : Core → Core) : (s.modCore c f).clusters = s.clusters := rfl
@[simp] theorem modCore_dies (c : Nat) (f : Core → Core) : (s.modCore c f).dies = s.dies := rfl
@[simp] theorem modCore_pkg (c : Nat) (f : Core → Core) : (s.modCore c f).pkg = s.pkg := rfl
@[simp] theorem modCore_kv (c : Nat) (f : Core → Core) : (s.modCore c f).kv = s.kv := rfl
@[simp] theorem modCore_stations (c : Nat) (f : Core → Core) : (s.modCore c f).stations = s.stations := rfl
@[simp] theorem modCore_images (c : Nat) (f : Core → Core) : (s.modCore c f).images = s.images := rfl
@[simp] theorem modCore_stopped (c : Nat) (f : Core → Core) : (s.modCore c f).stopped = s.stopped := rfl

/-! `modCpOf` changes cores alone. -/

@[simp] theorem modCpOf_agenda (c : Nat) (f : Cp → Cp) : (s.modCpOf c f).agenda = s.agenda := rfl
@[simp] theorem modCpOf_focus (c : Nat) (f : Cp → Cp) : (s.modCpOf c f).focus = s.focus := rfl
@[simp] theorem modCpOf_rota (c : Nat) (f : Cp → Cp) : (s.modCpOf c f).rota = s.rota := rfl
@[simp] theorem modCpOf_free (c : Nat) (f : Cp → Cp) : (s.modCpOf c f).free = s.free := rfl
@[simp] theorem modCpOf_cyc (c : Nat) (f : Cp → Cp) : (s.modCpOf c f).cyc = s.cyc := rfl
@[simp] theorem modCpOf_kcyc (c : Nat) (f : Cp → Cp) : (s.modCpOf c f).kcyc = s.kcyc := rfl
@[simp] theorem modCpOf_ktime (c : Nat) (f : Cp → Cp) : (s.modCpOf c f).ktime = s.ktime := rfl
@[simp] theorem modCpOf_mem (c : Nat) (f : Cp → Cp) : (s.modCpOf c f).mem = s.mem := rfl
@[simp] theorem modCpOf_ecc (c : Nat) (f : Cp → Cp) : (s.modCpOf c f).ecc = s.ecc := rfl
@[simp] theorem modCpOf_clusters (c : Nat) (f : Cp → Cp) : (s.modCpOf c f).clusters = s.clusters := rfl
@[simp] theorem modCpOf_dies (c : Nat) (f : Cp → Cp) : (s.modCpOf c f).dies = s.dies := rfl
@[simp] theorem modCpOf_pkg (c : Nat) (f : Cp → Cp) : (s.modCpOf c f).pkg = s.pkg := rfl
@[simp] theorem modCpOf_kv (c : Nat) (f : Cp → Cp) : (s.modCpOf c f).kv = s.kv := rfl
@[simp] theorem modCpOf_stations (c : Nat) (f : Cp → Cp) : (s.modCpOf c f).stations = s.stations := rfl
@[simp] theorem modCpOf_images (c : Nat) (f : Cp → Cp) : (s.modCpOf c f).images = s.images := rfl
@[simp] theorem modCpOf_stopped (c : Nat) (f : Cp → Cp) : (s.modCpOf c f).stopped = s.stopped := rfl

/-! `modCp` changes cores alone. -/

@[simp] theorem modCp_agenda (f : Cp → Cp) : (s.modCp f).agenda = s.agenda := rfl
@[simp] theorem modCp_focus (f : Cp → Cp) : (s.modCp f).focus = s.focus := rfl
@[simp] theorem modCp_rota (f : Cp → Cp) : (s.modCp f).rota = s.rota := rfl
@[simp] theorem modCp_free (f : Cp → Cp) : (s.modCp f).free = s.free := rfl
@[simp] theorem modCp_cyc (f : Cp → Cp) : (s.modCp f).cyc = s.cyc := rfl
@[simp] theorem modCp_kcyc (f : Cp → Cp) : (s.modCp f).kcyc = s.kcyc := rfl
@[simp] theorem modCp_ktime (f : Cp → Cp) : (s.modCp f).ktime = s.ktime := rfl
@[simp] theorem modCp_mem (f : Cp → Cp) : (s.modCp f).mem = s.mem := rfl
@[simp] theorem modCp_ecc (f : Cp → Cp) : (s.modCp f).ecc = s.ecc := rfl
@[simp] theorem modCp_clusters (f : Cp → Cp) : (s.modCp f).clusters = s.clusters := rfl
@[simp] theorem modCp_dies (f : Cp → Cp) : (s.modCp f).dies = s.dies := rfl
@[simp] theorem modCp_pkg (f : Cp → Cp) : (s.modCp f).pkg = s.pkg := rfl
@[simp] theorem modCp_kv (f : Cp → Cp) : (s.modCp f).kv = s.kv := rfl
@[simp] theorem modCp_stations (f : Cp → Cp) : (s.modCp f).stations = s.stations := rfl
@[simp] theorem modCp_images (f : Cp → Cp) : (s.modCp f).images = s.images := rfl
@[simp] theorem modCp_stopped (f : Cp → Cp) : (s.modCp f).stopped = s.stopped := rfl

/-! `modCluster` changes clusters alone. -/

@[simp] theorem modCluster_agenda (k : Nat) (f : Cluster → Cluster) : (s.modCluster k f).agenda = s.agenda := rfl
@[simp] theorem modCluster_focus (k : Nat) (f : Cluster → Cluster) : (s.modCluster k f).focus = s.focus := rfl
@[simp] theorem modCluster_rota (k : Nat) (f : Cluster → Cluster) : (s.modCluster k f).rota = s.rota := rfl
@[simp] theorem modCluster_free (k : Nat) (f : Cluster → Cluster) : (s.modCluster k f).free = s.free := rfl
@[simp] theorem modCluster_cyc (k : Nat) (f : Cluster → Cluster) : (s.modCluster k f).cyc = s.cyc := rfl
@[simp] theorem modCluster_kcyc (k : Nat) (f : Cluster → Cluster) : (s.modCluster k f).kcyc = s.kcyc := rfl
@[simp] theorem modCluster_ktime (k : Nat) (f : Cluster → Cluster) : (s.modCluster k f).ktime = s.ktime := rfl
@[simp] theorem modCluster_mem (k : Nat) (f : Cluster → Cluster) : (s.modCluster k f).mem = s.mem := rfl
@[simp] theorem modCluster_ecc (k : Nat) (f : Cluster → Cluster) : (s.modCluster k f).ecc = s.ecc := rfl
@[simp] theorem modCluster_cores (k : Nat) (f : Cluster → Cluster) : (s.modCluster k f).cores = s.cores := rfl
@[simp] theorem modCluster_dies (k : Nat) (f : Cluster → Cluster) : (s.modCluster k f).dies = s.dies := rfl
@[simp] theorem modCluster_pkg (k : Nat) (f : Cluster → Cluster) : (s.modCluster k f).pkg = s.pkg := rfl
@[simp] theorem modCluster_kv (k : Nat) (f : Cluster → Cluster) : (s.modCluster k f).kv = s.kv := rfl
@[simp] theorem modCluster_stations (k : Nat) (f : Cluster → Cluster) : (s.modCluster k f).stations = s.stations := rfl
@[simp] theorem modCluster_images (k : Nat) (f : Cluster → Cluster) : (s.modCluster k f).images = s.images := rfl
@[simp] theorem modCluster_stopped (k : Nat) (f : Cluster → Cluster) : (s.modCluster k f).stopped = s.stopped := rfl

/-! `modDie` changes dies alone. -/

@[simp] theorem modDie_agenda (d : Nat) (f : Die → Die) : (s.modDie d f).agenda = s.agenda := rfl
@[simp] theorem modDie_focus (d : Nat) (f : Die → Die) : (s.modDie d f).focus = s.focus := rfl
@[simp] theorem modDie_rota (d : Nat) (f : Die → Die) : (s.modDie d f).rota = s.rota := rfl
@[simp] theorem modDie_free (d : Nat) (f : Die → Die) : (s.modDie d f).free = s.free := rfl
@[simp] theorem modDie_cyc (d : Nat) (f : Die → Die) : (s.modDie d f).cyc = s.cyc := rfl
@[simp] theorem modDie_kcyc (d : Nat) (f : Die → Die) : (s.modDie d f).kcyc = s.kcyc := rfl
@[simp] theorem modDie_ktime (d : Nat) (f : Die → Die) : (s.modDie d f).ktime = s.ktime := rfl
@[simp] theorem modDie_mem (d : Nat) (f : Die → Die) : (s.modDie d f).mem = s.mem := rfl
@[simp] theorem modDie_ecc (d : Nat) (f : Die → Die) : (s.modDie d f).ecc = s.ecc := rfl
@[simp] theorem modDie_cores (d : Nat) (f : Die → Die) : (s.modDie d f).cores = s.cores := rfl
@[simp] theorem modDie_clusters (d : Nat) (f : Die → Die) : (s.modDie d f).clusters = s.clusters := rfl
@[simp] theorem modDie_pkg (d : Nat) (f : Die → Die) : (s.modDie d f).pkg = s.pkg := rfl
@[simp] theorem modDie_kv (d : Nat) (f : Die → Die) : (s.modDie d f).kv = s.kv := rfl
@[simp] theorem modDie_stations (d : Nat) (f : Die → Die) : (s.modDie d f).stations = s.stations := rfl
@[simp] theorem modDie_images (d : Nat) (f : Die → Die) : (s.modDie d f).images = s.images := rfl
@[simp] theorem modDie_stopped (d : Nat) (f : Die → Die) : (s.modDie d f).stopped = s.stopped := rfl

/-! `modGrid` changes cores alone. -/

@[simp] theorem modGrid_agenda (c : Nat) (f : Grid → Grid) : (s.modGrid c f).agenda = s.agenda := rfl
@[simp] theorem modGrid_focus (c : Nat) (f : Grid → Grid) : (s.modGrid c f).focus = s.focus := rfl
@[simp] theorem modGrid_rota (c : Nat) (f : Grid → Grid) : (s.modGrid c f).rota = s.rota := rfl
@[simp] theorem modGrid_free (c : Nat) (f : Grid → Grid) : (s.modGrid c f).free = s.free := rfl
@[simp] theorem modGrid_cyc (c : Nat) (f : Grid → Grid) : (s.modGrid c f).cyc = s.cyc := rfl
@[simp] theorem modGrid_kcyc (c : Nat) (f : Grid → Grid) : (s.modGrid c f).kcyc = s.kcyc := rfl
@[simp] theorem modGrid_ktime (c : Nat) (f : Grid → Grid) : (s.modGrid c f).ktime = s.ktime := rfl
@[simp] theorem modGrid_mem (c : Nat) (f : Grid → Grid) : (s.modGrid c f).mem = s.mem := rfl
@[simp] theorem modGrid_ecc (c : Nat) (f : Grid → Grid) : (s.modGrid c f).ecc = s.ecc := rfl
@[simp] theorem modGrid_clusters (c : Nat) (f : Grid → Grid) : (s.modGrid c f).clusters = s.clusters := rfl
@[simp] theorem modGrid_dies (c : Nat) (f : Grid → Grid) : (s.modGrid c f).dies = s.dies := rfl
@[simp] theorem modGrid_pkg (c : Nat) (f : Grid → Grid) : (s.modGrid c f).pkg = s.pkg := rfl
@[simp] theorem modGrid_kv (c : Nat) (f : Grid → Grid) : (s.modGrid c f).kv = s.kv := rfl
@[simp] theorem modGrid_stations (c : Nat) (f : Grid → Grid) : (s.modGrid c f).stations = s.stations := rfl
@[simp] theorem modGrid_images (c : Nat) (f : Grid → Grid) : (s.modGrid c f).images = s.images := rfl
@[simp] theorem modGrid_stopped (c : Nat) (f : Grid → Grid) : (s.modGrid c f).stopped = s.stopped := rfl

/-! `modUnits` changes cores alone. -/

@[simp] theorem modUnits_agenda (c : Nat) (f : Units → Units) : (s.modUnits c f).agenda = s.agenda := rfl
@[simp] theorem modUnits_focus (c : Nat) (f : Units → Units) : (s.modUnits c f).focus = s.focus := rfl
@[simp] theorem modUnits_rota (c : Nat) (f : Units → Units) : (s.modUnits c f).rota = s.rota := rfl
@[simp] theorem modUnits_free (c : Nat) (f : Units → Units) : (s.modUnits c f).free = s.free := rfl
@[simp] theorem modUnits_cyc (c : Nat) (f : Units → Units) : (s.modUnits c f).cyc = s.cyc := rfl
@[simp] theorem modUnits_kcyc (c : Nat) (f : Units → Units) : (s.modUnits c f).kcyc = s.kcyc := rfl
@[simp] theorem modUnits_ktime (c : Nat) (f : Units → Units) : (s.modUnits c f).ktime = s.ktime := rfl
@[simp] theorem modUnits_mem (c : Nat) (f : Units → Units) : (s.modUnits c f).mem = s.mem := rfl
@[simp] theorem modUnits_ecc (c : Nat) (f : Units → Units) : (s.modUnits c f).ecc = s.ecc := rfl
@[simp] theorem modUnits_clusters (c : Nat) (f : Units → Units) : (s.modUnits c f).clusters = s.clusters := rfl
@[simp] theorem modUnits_dies (c : Nat) (f : Units → Units) : (s.modUnits c f).dies = s.dies := rfl
@[simp] theorem modUnits_pkg (c : Nat) (f : Units → Units) : (s.modUnits c f).pkg = s.pkg := rfl
@[simp] theorem modUnits_kv (c : Nat) (f : Units → Units) : (s.modUnits c f).kv = s.kv := rfl
@[simp] theorem modUnits_stations (c : Nat) (f : Units → Units) : (s.modUnits c f).stations = s.stations := rfl
@[simp] theorem modUnits_images (c : Nat) (f : Units → Units) : (s.modUnits c f).images = s.images := rfl
@[simp] theorem modUnits_stopped (c : Nat) (f : Units → Units) : (s.modUnits c f).stopped = s.stopped := rfl

/-! Parts read back. -/

theorem core_setCore (c n : Nat) (x : Core) : (s.setCore c x).core n = if c = n then x else s.core n :=
  tabGet_set _ _ _ _ _

@[simp] theorem core_setCore_same (c : Nat) (x : Core) : (s.setCore c x).core c = x := by simp [core_setCore]

theorem core_modCore (c n : Nat) (f : Core → Core) :
    (s.modCore c f).core n = if c = n then f (s.core c) else s.core n := core_setCore s c n _

@[simp] theorem core_modCore_same (c : Nat) (f : Core → Core) : (s.modCore c f).core c = f (s.core c) := by
  simp [core_modCore]

theorem core_modCore_ne {c n : Nat} (f : Core → Core) (h : c ≠ n) : (s.modCore c f).core n = s.core n := by
  simp [core_modCore, h]

theorem cpOf_modCpOf (c n : Nat) (f : Cp → Cp) :
    (s.modCpOf c f).cpOf n = if c = n then f (s.cpOf c) else s.cpOf n := by
  simp only [State.cpOf, State.modCpOf, core_modCore]
  split <;> rfl

@[simp] theorem cpOf_modCpOf_same (c : Nat) (f : Cp → Cp) : (s.modCpOf c f).cpOf c = f (s.cpOf c) := by
  simp [cpOf_modCpOf]

theorem cpOf_modCpOf_ne {c n : Nat} (f : Cp → Cp) (h : c ≠ n) : (s.modCpOf c f).cpOf n = s.cpOf n := by
  simp [cpOf_modCpOf, h]

@[simp] theorem cp_modCp (f : Cp → Cp) : (s.modCp f).cp = f s.cp := cpOf_modCpOf_same s _ f

theorem cpOf_modCp_ne {n : Nat} (f : Cp → Cp) (h : s.focus.val ≠ n) : (s.modCp f).cpOf n = s.cpOf n :=
  cpOf_modCpOf_ne s f h

@[simp] theorem grid_modCpOf (c n : Nat) (f : Cp → Cp) : (s.modCpOf c f).grid n = s.grid n := by
  simp only [State.grid, State.modCpOf, core_modCore]
  split
  · next h => subst h; rfl
  · rfl

@[simp] theorem units_modCpOf (c n : Nat) (f : Cp → Cp) : (s.modCpOf c f).units n = s.units n := by
  simp only [State.units, State.modCpOf, core_modCore]
  split
  · next h => subst h; rfl
  · rfl

theorem grid_modGrid (c n : Nat) (f : Grid → Grid) :
    (s.modGrid c f).grid n = if c = n then f (s.grid c) else s.grid n := by
  simp only [State.grid, State.modGrid, core_modCore]
  split <;> rfl

@[simp] theorem grid_modGrid_same (c : Nat) (f : Grid → Grid) : (s.modGrid c f).grid c = f (s.grid c) := by
  simp [grid_modGrid]

@[simp] theorem cpOf_modGrid (c n : Nat) (f : Grid → Grid) : (s.modGrid c f).cpOf n = s.cpOf n := by
  simp only [State.cpOf, State.modGrid, core_modCore]
  split
  · next h => subst h; rfl
  · rfl

@[simp] theorem units_modGrid (c n : Nat) (f : Grid → Grid) : (s.modGrid c f).units n = s.units n := by
  simp only [State.units, State.modGrid, core_modCore]
  split
  · next h => subst h; rfl
  · rfl

theorem units_modUnits (c n : Nat) (f : Units → Units) :
    (s.modUnits c f).units n = if c = n then f (s.units c) else s.units n := by
  simp only [State.units, State.modUnits, core_modCore]
  split <;> rfl

@[simp] theorem units_modUnits_same (c : Nat) (f : Units → Units) : (s.modUnits c f).units c = f (s.units c) := by
  simp [units_modUnits]

@[simp] theorem cpOf_modUnits (c n : Nat) (f : Units → Units) : (s.modUnits c f).cpOf n = s.cpOf n := by
  simp only [State.cpOf, State.modUnits, core_modCore]
  split
  · next h => subst h; rfl
  · rfl

@[simp] theorem grid_modUnits (c n : Nat) (f : Units → Units) : (s.modUnits c f).grid n = s.grid n := by
  simp only [State.grid, State.modUnits, core_modCore]
  split
  · next h => subst h; rfl
  · rfl

theorem die_modDie (d n : Nat) (f : Die → Die) : (s.modDie d f).die n = if d = n then f (s.die d) else s.die n :=
  tabGet_set _ _ _ _ _

@[simp] theorem die_modDie_same (d : Nat) (f : Die → Die) : (s.modDie d f).die d = f (s.die d) := by simp [die_modDie]

@[simp] theorem core_modDie (d n : Nat) (f : Die → Die) : (s.modDie d f).core n = s.core n := rfl

@[simp] theorem cpOf_modDie (d n : Nat) (f : Die → Die) : (s.modDie d f).cpOf n = s.cpOf n := rfl

theorem cluster_modCluster (k n : Nat) (f : Cluster → Cluster) :
    (s.modCluster k f).cluster n = if k = n then f (s.cluster k) else s.cluster n :=
  tabGet_set _ _ _ _ _

@[simp] theorem cluster_modCluster_same (k : Nat) (f : Cluster → Cluster) :
    (s.modCluster k f).cluster k = f (s.cluster k) := by
  simp [cluster_modCluster]

@[simp] theorem core_modCluster (k n : Nat) (f : Cluster → Cluster) : (s.modCluster k f).core n = s.core n := rfl

end Sys2Proof.Laws
end

