-- ==== Sys2Proof/Laws/Regs.lean ====
section
/-!
SUPPORT. The register file of a control processor: what a write, a vacated source and a completed instruction leave.
-/
namespace Sys2Proof.Laws
open Sys2Proof.Machine

variable (x : Regs)

@[simp] theorem put_pc (r : Reg) (v : Word) : (x.put r v).pc = x.pc := by unfold Regs.put; split <;> rfl
@[simp] theorem put_preds (r : Reg) (v : Word) : (x.put r v).preds = x.preds := by unfold Regs.put; split <;> rfl
@[simp] theorem put_zero (v : Word) : x.put 0 v = x := by simp [Regs.put]
@[simp] theorem vacate_pc (r : Reg) : (x.vacate r).pc = x.pc := by unfold Regs.vacate; split <;> rfl
@[simp] theorem vacate_preds (r : Reg) : (x.vacate r).preds = x.preds := by unfold Regs.vacate; split <;> rfl

@[simp] theorem vacateAll_pc (l : List Src) : (x.vacateAll l).pc = x.pc := by
  induction l generalizing x with
  | nil => rfl
  | cons a l ih => simp only [Regs.vacateAll, ih]; split <;> simp

@[simp] theorem vacateAll_preds (l : List Src) : (x.vacateAll l).preds = x.preds := by
  induction l generalizing x with
  | nil => rfl
  | cons a l ih => simp only [Regs.vacateAll, ih]; split <;> simp

/-- g0 reads zero (R134). -/
@[simp] theorem get_zero : x.get 0 = 0 := by simp [Regs.get]

/-- g0 is never vacant (R134). -/
@[simp] theorem vacant_zero : x.vacant 0 = false := by simp [Regs.vacant]

/-- p0 reads true (R135). -/
@[simp] theorem pred_zero : x.pred 0 = true := by simp [Regs.pred]

/-- A write to p0 is discarded (R135). -/
@[simp] theorem setPred_zero (b : Bool) : x.setPred 0 b = x := by simp [Regs.setPred]

theorem one_hot (n i : Nat) (hi : i < 32) : (1#32 <<< n).getLsbD i = decide (i = n) := by
  rw [BitVec.getLsbD_shiftLeft]
  by_cases h : i < n
  · have : ¬ i = n := by omega
    simp [h, this]
  · by_cases e : i = n
    · subst e; simp [hi]
    · have : ¬ i - n = 0 := by omega
      simp [h, e, BitVec.getLsbD_one, this]

theorem vac_put (r q : Reg) (v : Word) (h : r ≠ 0) :
    (x.put r v).vac.getLsbD q.toNat = (x.vac.getLsbD q.toNat && !decide (q.toNat = r.toNat)) := by
  rw [Regs.put, if_neg h]
  simp only [BitVec.getLsbD_and, BitVec.getLsbD_not, one_hot _ _ q.isLt]
  simp [q.isLt]

theorem vac_vacate (r q : Reg) (h : r ≠ 0) :
    (x.vacate r).vac.getLsbD q.toNat = (x.vac.getLsbD q.toNat || decide (q.toNat = r.toNat)) := by
  rw [Regs.vacate, if_neg h]
  simp only [BitVec.getLsbD_or, one_hot _ _ q.isLt]

theorem toNat_ne {r q : Reg} (h : q ≠ r) : ¬ q.toNat = r.toNat := fun e => h (BitVec.eq_of_toNat_eq e)

/-- The register written is occupied. -/
theorem vacant_put_same (r : Reg) (v : Word) (h : r ≠ 0) : (x.put r v).vacant r = false := by
  rw [Regs.vacant, vac_put x r r v h]
  simp

/-- The register written holds the value written. -/
theorem get_put_same (r : Reg) (v : Word) (h : r ≠ 0) : (x.put r v).get r = v := by
  rw [Regs.get, vacant_put_same x r v h, if_neg (by simpa using h)]
  simp only [Regs.put, if_neg h]
  simp

/-- Every other register is as vacant as before. -/
theorem vacant_put_ne {r q : Reg} (v : Word) (h : q ≠ r) : (x.put r v).vacant q = x.vacant q := by
  by_cases hr : r = 0
  · rw [hr, put_zero]
  · rw [Regs.vacant, vac_put x r q v hr]
    simp [Regs.vacant, toNat_ne h]

/-- Every other register holds what it held. -/
theorem get_put_ne {r q : Reg} (v : Word) (h : q ≠ r) : (x.put r v).get q = x.get q := by
  by_cases hr : r = 0
  · rw [hr, put_zero]
  · rw [Regs.get, Regs.get, vacant_put_ne x v h]
    simp only [Regs.put, if_neg hr]
    split
    · rfl
    · simp [Ne.symm (toNat_ne h)]

/-- The register vacated reads zero (R137). -/
theorem get_vacate_same (r : Reg) : (x.vacate r).get r = 0 := by
  by_cases h : r = 0
  · subst h; exact get_zero _
  · rw [Regs.get, Regs.vacant, vac_vacate x r r h]
    simp

theorem vacant_vacate_ne {r q : Reg} (h : q ≠ r) : (x.vacate r).vacant q = x.vacant q := by
  by_cases hr : r = 0
  · rw [hr]; rfl
  · rw [Regs.vacant, vac_vacate x r q hr]
    simp [Regs.vacant, toNat_ne h]

/-- Every other register is as before. -/
theorem get_vacate_ne {r q : Reg} (h : q ≠ r) : (x.vacate r).get q = x.get q := by
  by_cases hr : r = 0
  · rw [hr]; rfl
  · rw [Regs.get, Regs.get, vacant_vacate_ne x h]
    simp only [Regs.vacate, if_neg hr]
    split
    · rfl
    · simp [Ne.symm (toNat_ne h)]

/-- A register that no source vacates is as before (R99). -/
theorem get_vacateAll (l : List Src) (r : Reg) (h : ∀ a ∈ l, a.last = true → a.reg ≠ r) :
    (x.vacateAll l).get r = x.get r := by
  induction l generalizing x with
  | nil => rfl
  | cons a l ih =>
    simp only [Regs.vacateAll]
    rw [ih _ fun b hb => h b (List.mem_cons_of_mem a hb)]
    split
    · next hl => exact get_vacate_ne x (Ne.symm (h a (List.mem_cons_self ..) hl))
    · rfl

theorem get_withPc (v : Word) (r : Reg) : ({ x with pc := v } : Regs).get r = x.get r := rfl

variable (y : Cp)

@[simp] theorem retireTo_ctl (l : List Src) (pc : Word) : (y.retireTo l pc id).ctl = y.ctl := rfl
@[simp] theorem put_ctl (r : Reg) (v : Word) : (y.put r v).ctl = y.ctl := rfl
@[simp] theorem put_k (r : Reg) (v : Word) : (y.put r v).k = y.k := rfl
@[simp] theorem putPred_ctl (p : PReg) (b : Bool) : (y.putPred p b).ctl = y.ctl := rfl
@[simp] theorem putPred_k (p : PReg) (b : Bool) : (y.putPred p b).k = y.k := rfl
@[simp] theorem skip_ctl (l : List Src) : (y.skip l).ctl = y.ctl := rfl
@[simp] theorem skip_k (l : List Src) : (y.skip l).k = y.k := rfl
@[simp] theorem skip_pc (l : List Src) : (y.skip l).regs.pc = y.regs.pc + 8 := rfl
@[simp] theorem complete_regs (l : List Src) (f : Cp → Cp) : (y.complete l f).regs = (y.retire l f).regs := rfl
@[simp] theorem complete_k (l : List Src) (f : Cp → Cp) : (y.complete l f).k = (y.retire l f).k := rfl

end Sys2Proof.Laws
end

