-- ==== Sys2Proof/Laws/Forms.lean ====
section
/-!
SUPPORT. What the shared operations of the forms can do: the checks of R107 in their order, and what follows each.
-/
namespace Sys2Proof.Laws
open Sys2Proof.Machine

variable (s : State) (i : Instr) (g : Guard) (srcs : List Src)

/-- The four ways of a form (R97, R99, R107): its guard fails, it is privileged in user mode, it reads a vacant register
with VSTRICT = 1, or it has its own effect. -/
theorem runForm_cases (priv : Bool) (k : Result) :
    (s.cp.regs.guard g = false ∧ runForm s i g priv srcs k = .next (s.modCp fun x => x.skip srcs))
    ∨ (s.cp.regs.guard g = true ∧ priv = true ∧ s.cp.k.sys = false
        ∧ runForm s i g priv srcs k = s.raise causePriv (wordOf i))
    ∨ (∃ r, s.cp.regs.guard g = true ∧ (priv = true → s.cp.k.sys = true) ∧ s.cp.k.vstrict = true
        ∧ s.cp.regs.firstVacant srcs = some r ∧ runForm s i g priv srcs k = s.raise causeVacant (r.setWidth 64))
    ∨ (s.cp.regs.guard g = true ∧ (priv = true → s.cp.k.sys = true)
        ∧ (s.cp.k.vstrict = false ∨ s.cp.regs.firstVacant srcs = none) ∧ runForm s i g priv srcs k = k) := by
  unfold runForm
  cases hg : s.cp.regs.guard g
  · exact .inl ⟨rfl, by simp⟩
  · cases hp : priv <;> cases hs : s.cp.k.sys <;> cases hv : s.cp.k.vstrict <;>
      cases hf : s.cp.regs.firstVacant srcs <;> simp

variable {s i g srcs}

theorem runForm_skip {priv : Bool} {k : Result} (hg : s.cp.regs.guard g = false) :
    runForm s i g priv srcs k = .next (s.modCp fun x => x.skip srcs) := by simp [runForm, hg]

theorem runForm_priv {k : Result} (hg : s.cp.regs.guard g = true) (hs : s.cp.k.sys = false) :
    runForm s i g true srcs k = s.raise causePriv (wordOf i) := by simp [runForm, hg, hs]

theorem runForm_vacant {priv : Bool} {k : Result} {r : Reg} (hg : s.cp.regs.guard g = true)
    (hp : priv = true → s.cp.k.sys = true) (hv : s.cp.k.vstrict = true) (hf : s.cp.regs.firstVacant srcs = some r) :
    runForm s i g priv srcs k = s.raise causeVacant (r.setWidth 64) := by
  cases priv
  · simp [runForm, hg, hv, hf]
  · simp [runForm, hg, hv, hf, hp rfl]

theorem runForm_run {priv : Bool} {k : Result} (hg : s.cp.regs.guard g = true)
    (hp : priv = true → s.cp.k.sys = true)
    (hv : s.cp.k.vstrict = false ∨ s.cp.regs.firstVacant srcs = none) : runForm s i g priv srcs k = k := by
  unfold runForm
  rcases hv with hv | hv <;> cases priv <;> simp_all

theorem cmdForm_run {priv : Bool} {k : Result} (hg : s.cp.regs.guard g = true)
    (hp : priv = true → s.cp.k.sys = true)
    (hv : s.cp.k.vstrict = false ∨ s.cp.regs.firstVacant srcs = none) (hf : s.cp.held i = false) :
    cmdForm s i g priv srcs k = k := by
  rw [cmdForm, runForm_run hg hp hv, hf]
  rfl

/-- A form that writes one register completes with it written. -/
theorem aluForm_run {d : Reg} {v : Word} (hg : s.cp.regs.guard g = true)
    (hv : s.cp.k.vstrict = false ∨ s.cp.regs.firstVacant srcs = none) :
    aluForm s i g srcs d v = .next (s.retire srcs fun x => x.put d v) := runForm_run hg (by simp) hv

/-- A form that writes one predicate completes with it written. -/
theorem predForm_run {d : PReg} {b : Bool} (hg : s.cp.regs.guard g = true)
    (hv : s.cp.k.vstrict = false ∨ s.cp.regs.firstVacant srcs = none) :
    predForm s i g srcs d b = .next (s.retire srcs fun x => x.putPred d b) := runForm_run hg (by simp) hv

/-- A form stops for no reason of its own: whatever it does next, the state it leaves is that of its checks or of `k`. -/
theorem runForm_next {priv : Bool} {k : Result} {t : State} (h : runForm s i g priv srcs k = .next t) :
    t = s.modCp (fun x => x.skip srcs)
    ∨ t = s.modCp (fun x => x.raise causePriv (wordOf i))
    ∨ (∃ r : Reg, t = s.modCp fun x => x.raise causeVacant (r.setWidth 64))
    ∨ k = .next t := by
  rcases runForm_cases s i g srcs priv k with ⟨-, e⟩ | ⟨-, -, -, e⟩ | ⟨r, -, -, -, -, e⟩ | ⟨-, -, -, e⟩
  · rw [e] at h; cases h; exact .inl rfl
  · rw [e] at h; cases h; exact .inr (.inl rfl)
  · rw [e] at h; cases h; exact .inr (.inr (.inl ⟨r, rfl⟩))
  · rw [e] at h; exact .inr (.inr (.inr h))

/-! A synchronous trap (R149, R449). -/

variable (x : Cp) (cause : BitVec 6) (epc tval : Word)

@[simp] theorem trap_pc : (x.trap cause epc tval).regs.pc = x.k.tvec.setWidth 64 <<< 3 := rfl
@[simp] theorem trap_get (r : Reg) : (x.trap cause epc tval).regs.get r = x.regs.get r := rfl
@[simp] theorem trap_cause : (x.trap cause epc tval).k.cause = cause := rfl
@[simp] theorem trap_epc : (x.trap cause epc tval).k.epc = epc := rfl
@[simp] theorem trap_tval : (x.trap cause epc tval).k.tval = tval := rfl
@[simp] theorem trap_sys : (x.trap cause epc tval).k.sys = true := rfl
@[simp] theorem trap_psys : (x.trap cause epc tval).k.psys = x.k.sys := rfl

theorem raise_eq (s : State) : s.raise cause tval = .next (s.modCp fun x => x.trap cause x.regs.pc tval) := rfl

end Sys2Proof.Laws
end

