-- ==== Sys2Proof/Laws/Ends.lean ====
section
/-!
SUPPORT. A form that completes leaves what `Ends` says: the shared completion, once for all forms.
-/
namespace Sys2Proof.Laws
open Sys2Proof.Machine

variable {x : Regs} {s : State} {srcs : List Src}

theorem firstVacant_none : x.firstVacant srcs = none ↔ ∀ a ∈ srcs, x.vacant a.reg = false := by
  induction srcs with
  | nil => simp [Regs.firstVacant]
  | cons a l ih =>
    simp only [Regs.firstVacant]
    cases h : x.vacant a.reg <;> simp [h, ih]

theorem firstVacant_isSome : (x.firstVacant srcs).isSome = srcs.any fun a => x.vacant a.reg := by
  induction srcs with
  | nil => rfl
  | cons a l ih =>
    simp only [Regs.firstVacant, List.any_cons]
    cases h : x.vacant a.reg <;> simp [ih]

/-- Every source that the form vacates reads zero, and the rest of the register file is as before (R99). -/
theorem get_vacateAll_eq (r : Reg) : (x.vacateAll srcs).get r = if lastUse srcs r then 0 else x.get r := by
  induction srcs generalizing x with
  | nil => simp [Regs.vacateAll, lastUse]
  | cons a l ih =>
    simp only [Regs.vacateAll, ih, lastUse, List.any_cons]
    by_cases hl : a.last = true
    · by_cases h : a.reg = r
      · simp [hl, h, get_vacate_same]
      · simp [hl, h, get_vacate_ne x (Ne.symm h)]
    · simp [hl]

theorem vacant_vacate_same (r : Reg) : (x.vacate r).vacant r = (r != 0) := by
  by_cases h : r = 0
  · rw [h]; exact vacant_zero _
  · rw [Regs.vacant, vac_vacate x r r h]
    simp

theorem vacant_vacateAll_eq (r : Reg) :
    (x.vacateAll srcs).vacant r = (x.vacant r || (r != 0 && lastUse srcs r)) := by
  induction srcs generalizing x with
  | nil => simp [Regs.vacateAll, lastUse]
  | cons a l ih =>
    simp only [Regs.vacateAll, ih, lastUse, List.any_cons]
    by_cases hl : a.last = true
    · by_cases h : a.reg = r
      · by_cases h0 : r = 0
        · rw [if_pos hl, h, vacant_vacate_same, h0, vacant_zero]; rfl
        · rw [if_pos hl, h, vacant_vacate_same, bne_iff_ne.2 h0, beq_self_eq_true, hl]
          cases x.vacant r <;> rfl
      · rw [if_pos hl, vacant_vacate_ne x (Ne.symm h), beq_eq_false_iff_ne.2 h]; simp
    · simp [hl]

theorem hot8 (p : PReg) (n : Nat) (hn : n < 8) : (1#8 <<< p.toNat).getLsbD n = decide (n = p.toNat) := by
  have := p.isLt
  rw [BitVec.getLsbD_shiftLeft]
  by_cases h : n < p.toNat
  · simp [h, show ¬ n = p.toNat by omega]
  · by_cases e : n = p.toNat
    · subst e; simp [hn]
    · simp [hn, h, e, BitVec.getLsbD_one, show ¬ n - p.toNat = 0 by omega]

theorem bit_setPred (p : PReg) (b : Bool) (hp : p ≠ 0) (n : Nat) (hn : n < 8) :
    (x.setPred p b).preds.getLsbD n = if n = p.toNat then b else x.preds.getLsbD n := by
  rw [Regs.setPred, if_neg hp]
  cases b
  · simp only [Bool.false_eq_true, if_false, BitVec.getLsbD_and, BitVec.getLsbD_not, hot8 p _ hn]
    by_cases h : n = p.toNat <;> simp [h, hn]
  · simp only [if_true, BitVec.getLsbD_or, hot8 p _ hn]
    by_cases h : n = p.toNat <;> simp [h]

theorem pred_setPred (p q : PReg) (b : Bool) :
    (x.setPred p b).pred q = if q = p ∧ q ≠ 0 then b else x.pred q := by
  by_cases hp : p = 0
  · rw [hp, setPred_zero, if_neg (by rintro ⟨h, h'⟩; exact h' h)]
  · by_cases h0 : q = 0
    · rw [h0, pred_zero, pred_zero, if_neg (by simp)]
    · have e : (x.setPred p b).pred q = (x.setPred p b).preds.getLsbD q.toNat := by
        rw [Regs.pred, beq_eq_false_iff_ne.2 h0, Bool.false_or]
      have e' : x.pred q = x.preds.getLsbD q.toNat := by rw [Regs.pred, beq_eq_false_iff_ne.2 h0, Bool.false_or]
      rw [e, e', bit_setPred p b hp _ q.isLt]
      by_cases hqp : q = p
      · rw [if_pos (congrArg _ hqp), if_pos ⟨hqp, h0⟩]
      · rw [if_neg fun h => hqp (BitVec.eq_of_toNat_eq h), if_neg fun h => hqp h.1]

/-- The register file after a form: sources vacated, the program counter moved, one result written. -/
def regsAfter (x : Regs) (srcs : List Src) (pc : Word) (wr : Option (Reg × Word)) (wp : Option (PReg × Bool)) : Regs :=
  let y := match wr with
    | some (d, v) => ({ x.vacateAll srcs with pc := pc } : Regs).put d v
    | none => { x.vacateAll srcs with pc := pc }
  match wp with
  | some (p, b) => y.setPred p b
  | none => y

theorem setPred_get (p : PReg) (b : Bool) (r : Reg) : (x.setPred p b).get r = x.get r := by
  unfold Regs.setPred; split <;> rfl

theorem setPred_vacant (p : PReg) (b : Bool) (r : Reg) : (x.setPred p b).vacant r = x.vacant r := by
  unfold Regs.setPred; split <;> rfl

theorem setPred_pc (p : PReg) (b : Bool) : (x.setPred p b).pc = x.pc := by
  unfold Regs.setPred; split <;> rfl

theorem put_pred (d : Reg) (v : Word) (p : PReg) : (x.put d v).pred p = x.pred p := by
  unfold Regs.pred; rw [put_preds]

theorem vacateAll_pred (p : PReg) : (x.vacateAll srcs).pred p = x.pred p := by
  unfold Regs.pred; rw [vacateAll_preds]

theorem get_put (d r : Reg) (v : Word) : (x.put d v).get r = if r = d ∧ r ≠ 0 then v else x.get r := by
  by_cases h0 : r = 0
  · rw [h0, get_zero, get_zero, if_neg fun h => h.2 rfl]
  · by_cases h : r = d
    · rw [if_pos ⟨h, h0⟩, ← h, get_put_same x r v h0]
    · rw [if_neg fun e => h e.1, get_put_ne x v h]

theorem vacant_put (d r : Reg) (v : Word) : (x.put d v).vacant r = if r = d then false else x.vacant r := by
  by_cases h : r = d
  · rw [if_pos h, ← h]
    by_cases h0 : r = 0
    · rw [h0]; exact vacant_zero _
    · exact vacant_put_same x r v h0
  · rw [if_neg h, vacant_put_ne x v h]

/-- A form whose control processor is left so leaves what `Leaves` says. -/
theorem leaves_modCp {c : CpCtl} {f : Cp → Cp} {pc : Word} {wr : Option (Reg × Word)} {wp : Option (PReg × Bool)} {k : KRegs}
    (hr : (f s.cp).regs = regsAfter s.cp.regs srcs pc wr wp) (hk : (f s.cp).k = k)
    (hc : (f s.cp).ctl = c) : Leaves s (s.modCp f) srcs pc wr wp k c where
  pc := by
    rw [cp_modCp, hr]; unfold regsAfter
    rcases wr with _ | ⟨d, v⟩ <;> rcases wp with _ | ⟨p, b⟩ <;> simp [setPred_pc]
  reg r := by
    rw [cp_modCp, hr]; unfold regsAfter
    rcases wr with _ | ⟨d, v⟩ <;> rcases wp with _ | ⟨p, b⟩ <;>
      simp only [setPred_get, get_put, get_withPc, get_vacateAll_eq, regAfter]
  vacant r := by
    have e (y : Regs) : ({ y with pc := pc } : Regs).vacant r = y.vacant r := rfl
    rw [cp_modCp, hr]; unfold regsAfter
    rcases wr with _ | ⟨d, v⟩ <;> rcases wp with _ | ⟨p, b⟩ <;>
      simp only [setPred_vacant, vacant_put, e, vacant_vacateAll_eq, vacantAfter]
  pred p := by
    have e (y : Regs) : ({ y with pc := pc } : Regs).pred p = y.pred p := rfl
    rw [cp_modCp, hr]; unfold regsAfter
    rcases wr with _ | ⟨d, v⟩ <;> rcases wp with _ | ⟨q, b⟩ <;>
      simp only [pred_setPred, put_pred, e, vacateAll_pred, predAfter]
  kregs := by rw [cp_modCp, hk]
  ctl := by rw [cp_modCp, hc]
  rest := by rw [cp_modCp]; rfl

/-- A form whose control processor is left so ends as `Ends` says. -/
theorem ends_modCp {f : Cp → Cp} {pc : Word} {wr : Option (Reg × Word)} {wp : Option (PReg × Bool)} {k : KRegs}
    (hr : (f s.cp).regs = regsAfter s.cp.regs srcs pc wr wp) (hk : (f s.cp).k = k)
    (hc : (f s.cp).ctl = s.cp.ctl) : Ends s (s.modCp f) srcs pc wr wp k := leaves_modCp hr hk hc

theorem retireTo_k (pc : Word) (x : Cp) :
    (x.retireTo srcs pc id).k = { x.k with vread := x.k.vread || srcs.any fun a => x.regs.vacant a.reg } := by
  simp only [Cp.retireTo, id, firstVacant_isSome]

/-- A ready form passes the checks of R107. -/
theorem ready_run {i : Instr} {g : Guard} {priv : Bool} {k : Result} (h : Ready s g priv srcs) :
    runForm s i g priv srcs k = k := runForm_run h.1 h.2.1 (h.2.2.imp id firstVacant_none.2)

theorem ready_cmd {i : Instr} {g : Guard} {priv : Bool} {k : Result} (h : Ready s g priv srcs)
    (hf : s.cp.held i = false) : cmdForm s i g priv srcs k = k :=
  cmdForm_run h.1 h.2.1 (h.2.2.imp id firstVacant_none.2) hf

/-- A form that writes one register leaves what `Writes` says. -/
theorem writes_alu {i : Instr} {g : Guard} {d : Reg} {v w : Word} (h : Ready s g false srcs)
    (he : exec i s = aluForm s i g srcs d v) (hv : v = w) : Writes i s srcs d w := by
  subst hv
  refine ⟨s.retire srcs fun x => x.put d v, ?_, ends_modCp ?_ ?_ ?_⟩
  · rw [he, aluForm, ready_run h]
  · rfl
  · exact retireTo_k (s.cp.regs.pc + 8) _
  · rfl

/-- A form that writes one predicate leaves what `Decides` says. -/
theorem decides_pred {i : Instr} {g : Guard} {d : PReg} {v w : Bool} (h : Ready s g false srcs)
    (he : exec i s = predForm s i g srcs d v) (hv : v = w) : Decides i s srcs d w := by
  subst hv
  refine ⟨s.retire srcs fun x => x.putPred d v, ?_, ends_modCp ?_ ?_ ?_⟩
  · rw [he, predForm, ready_run h]
  · rfl
  · exact retireTo_k (s.cp.regs.pc + 8) _
  · rfl

theorem complete_k_eq (x : Cp) (f : Cp → Cp) (hf : ∀ y, (f y).k = y.k) :
    (x.complete srcs f).k = { x.k with vread := x.k.vread || srcs.any fun a => x.regs.vacant a.reg } := by
  have h := retireTo_k (srcs := srcs) (x.regs.pc + 8) x
  rw [complete_k, Cp.retire, Cp.retireTo, hf]
  exact h

/-- A command that replies completes with its word in gD. -/
theorem replies_of {i : Instr} {u : State} {d : Reg} {v : Word} (h : exec i s = u.reply srcs d v) :
    Replies i s u srcs d v :=
  ⟨_, h, leaves_modCp rfl (complete_k_eq _ _ fun _ => rfl) rfl⟩

theorem awaitReg_regs (x : Cp) (d : Reg) (o : Bool) : (x.awaitReg d o).regs = x.regs := by
  unfold Cp.awaitReg; split <;> rfl

theorem awaitReg_k (x : Cp) (d : Reg) (o : Bool) : (x.awaitReg d o).k = x.k := by
  unfold Cp.awaitReg; split <;> rfl

/-- A command that is posted completes with gD pending. -/
theorem awaits_of {i : Instr} {u : State} {d : Reg} {o : Bool} (h : exec i s = .next (u.posted srcs d o)) :
    Awaits i s u srcs d o := by
  refine ⟨_, h, leaves_modCp (s := u) (f := fun x => x.complete srcs fun y => y.awaitReg d o) ?_
    (complete_k_eq _ _ fun y => awaitReg_k y d o) ?_⟩
  · rw [complete_regs, Cp.retire, Cp.retireTo, awaitReg_regs]; rfl
  · simp only [Cp.complete, Cp.retire, Cp.retireTo, Cp.awaitReg, awaiting]
    split <;> rfl

/-- A form that waits stands. -/
theorem stands_of {i : Instr} (h : exec i s = s.stand i) : Stands i s := h

end Sys2Proof.Laws
end

