-- ==== Sys2Proof/Laws/PerInstr.lean ====
section
/-!
SUPPORT. Every form's word decodes to the form, one lemma per constructor; an event has no word.
-/
set_option linter.unusedSimpArgs false
set_option Elab.async false

namespace Sys2Proof.Laws

theorem handleOf_code {base n : Nat} (i : Fin n) (h : base + n ≤ 512) :
    handleOf (handleCode base i.val) base n = some i := by
  have hi := i.isLt
  have e : (handleCode base i.val).toNat = base + i.val := by
    simp only [handleCode, BitVec.toNat_ofNat]; omega
  simp [handleOf, e]

theorem handleOf_code_ne {base base' n n' : Nat} (i : Fin n) (h : base + n ≤ 512)
    (hd : base + n ≤ base' ∨ base' + n' ≤ base) : handleOf (handleCode base i.val) base' n' = none := by
  have hi := i.isLt
  have e : (handleCode base i.val).toNat = base + i.val := by
    simp only [handleCode, BitVec.toNat_ofNat]; omega
  simp only [handleOf, e]
  split
  · split
    · omega
    · rfl
  · rfl

theorem precOf_code (f : Prec) : precOf (precCode f) = some f := by cases f <;> rfl

theorem relOf_code (r : FRel) : relOf ((relCode r).setWidth 5 |>.extractLsb' 0 2) = r := by cases r <;> rfl

theorem relCode_high (r : FRel) : (BitVec.setWidth 5 (relCode r)).extractLsb' 2 3 = 0 := by cases r <;> rfl

theorem fnumOf_code (b : Bool) (n : FNum) : fnumOf ((fcvtCode b n).extractLsb' 0 3) = some n := by
  cases b <;> cases n <;> rfl

theorem fcvtCode_from (b : Bool) (n : FNum) : (fcvtCode b n).getLsbD 3 = b := by cases b <;> cases n <;> rfl

theorem fcvtCode_high (b : Bool) (n : FNum) : (fcvtCode b n).getLsbD 4 = false := by cases b <;> cases n <;> rfl

theorem kregOf_code (k : KReg) : kregOf ((BitVec.setWidth 37 (kregNumber k)).extractLsb' 0 8) = some k := by
  cases k <;> rfl

theorem kregNumber_fits (k : KReg) : (BitVec.setWidth 37 (kregNumber k)).toNat < 2 ^ 8 := by cases k <;> decide

theorem extract_setWidth {m n l : Nat} (x : BitVec m) (h : l = m) (h' : m ≤ n) :
    HEq ((x.setWidth n).extractLsb' 0 l) x := by
  subst h
  apply heq_of_eq
  apply BitVec.eq_of_getLsbD_eq; intro i hi
  simp [hi, show i < n by omega]

theorem extract_setWidth_eq {m n : Nat} (x : BitVec m) (h : m ≤ n) : (x.setWidth n).extractLsb' 0 m = x :=
  eq_of_heq (extract_setWidth x rfl h)

theorem setWidth_toNat_lt {m n : Nat} (x : BitVec m) : (x.setWidth n).toNat < 2 ^ m := by
  have hx := x.isLt
  rw [BitVec.toNat_setWidth]
  exact Nat.lt_of_le_of_lt (Nat.mod_le _ _) hx

theorem predField_low (p : PReg) : (predField p).extractLsb' 0 3 = p := extract_setWidth_eq p (by decide)

theorem predField_high (p : PReg) : (predField p).extractLsb' 3 2 = 0 := by
  revert p; decide

theorem cfgUnitOf_code (u : CfgUnit) (h : u.ok = true) : cfgUnitOf (cfgUnitCode u) = some u := by
  cases u with
  | core => rfl
  | node id =>
    have e : (id.setWidth 9).extractLsb' 0 8 = id := extract_setWidth_eq id (by decide)
    have hne : (id.setWidth 9 == (0x1FF : BitVec 9)) = false := by
      revert id; decide
    have hlt : (id.setWidth 9).toNat < 256 := setWidth_toNat_lt id
    simp only [CfgUnit.ok] at h
    unfold cfgUnitOf cfgUnitCode
    dsimp only
    rw [hne, e, h, decide_eq_true hlt]
    rfl

theorem queueUnitOf_code (q : QUnit) : queueUnitOf (queueUnitCode q) = some q := by
  cases q with
  | sb n =>
    have e := handleOf_code (base := 0x40) n (by decide)
    unfold queueUnitOf queueUnitCode
    dsimp only
    rw [e]
  | fq n =>
    have e := handleOf_code (base := 0x100) n (by decide)
    have e' := handleOf_code_ne (base := 0x100) (base' := 0x40) (n' := 16) n (by decide) (by decide)
    unfold queueUnitOf queueUnitCode
    dsimp only
    rw [e', e]
    rfl

theorem handleCode_ne_core {base n : Nat} (i : Fin n) (h : base + n ≤ 511) :
    (handleCode base i.val == (0x1FF : BitVec 9)) = false := by
  have hi := i.isLt
  rw [beq_eq_false_iff_ne]; intro e
  have := congrArg BitVec.toNat e
  simp only [handleCode, BitVec.toNat_ofNat] at this
  have h2 : (0x1FF : BitVec 9).toNat = 511 := rfl
  omega

theorem barUnitOf_code (base : Nat) (u : BarUnit) (h : u.ok = true) (hb : base + 4 ≤ 511) :
    barUnitOf (barUnitCode base u) base (barUnitSrc u) = some u := by
  cases u with
  | core => rfl
  | ag n a =>
    simp only [BarUnit.ok] at h
    have e := handleOf_code (base := base) n (by omega)
    simp only [barUnitOf, barUnitCode, barUnitSrc, handleCode_ne_core n hb, e, h]
    rfl

theorem bool_fits (b : Bool) : b.toNat % 65536 < 2 := by cases b <;> decide

theorem slot_fits (d : Bool) (s : Fin 4) : (BitVec.ofBool d ++ (BitVec.ofFin s : BitVec 2)).toNat % 65536 < 8 := by
  revert d s; decide

theorem slot_low (d : Bool) (s : Fin 4) :
    Fin.ofNat 4 ((BitVec.ofBool d ++ (BitVec.ofFin s : BitVec 2)).toNat % 65536) = s := by revert d s; decide

theorem slot_high (d : Bool) (s : Fin 4) : (BitVec.ofBool d ++ (BitVec.ofFin s : BitVec 2))[2] = d := by
  revert d s; decide

theorem sb_fits (d : Bool) (s : Fin 16) : (BitVec.ofBool d ++ (BitVec.ofFin s : BitVec 4)).toNat % 65536 < 32 := by
  revert d s; decide

theorem sb_low (d : Bool) (s : Fin 16) :
    Fin.ofNat 16 ((BitVec.ofBool d ++ (BitVec.ofFin s : BitVec 4)).toNat % 65536) = s := by revert d s; decide

theorem sb_low' (d : Bool) (s : Fin 16) :
    BitVec.extractLsb' 0 4 (BitVec.setWidth 16 (BitVec.ofBool d ++ (BitVec.ofFin s : BitVec 4))) = BitVec.ofFin s := by
  revert d s; decide

theorem sb_high (d : Bool) (s : Fin 16) : (BitVec.ofBool d ++ (BitVec.ofFin s : BitVec 4))[4] = d := by
  revert d s; decide

theorem pair_high {m n k : Nat} (x : BitVec m) (y : BitVec n) (h : m + n ≤ k) :
    (BitVec.setWidth k (x ++ y)).extractLsb' n m = x := by
  apply BitVec.eq_of_getLsbD_eq; intro i hi
  simp [hi, show n + i < k by omega, BitVec.getLsbD_append]

theorem pair_low {m n k : Nat} (x : BitVec m) (y : BitVec n) (h : m + n ≤ k) :
    (BitVec.setWidth k (x ++ y)).extractLsb' 0 n = y := by
  apply BitVec.eq_of_getLsbD_eq; intro i hi
  simp [hi, show i < k by omega, BitVec.getLsbD_append]

theorem pair_fits {m n k : Nat} (x : BitVec m) (y : BitVec n)  : (x ++ y).toNat % k < 2 ^ (m + n) :=
  Nat.lt_of_le_of_lt (Nat.mod_le _ _) (x ++ y).isLt

theorem scope_fits (s : BitVec 3) (m : BitVec 2) : (s ++ (0#2) ++ m).toNat % 65536 < 128 := 
  Nat.lt_of_le_of_lt (Nat.mod_le _ _) (s ++ 0#2 ++ m).isLt

theorem scope_parts (s : BitVec 3) (m : BitVec 2) : 
   (BitVec.setWidth 16 (s ++ (0#2) ++ m)).extractLsb' 4 3 = s ∧ (BitVec.setWidth 16 (s ++ (0#2) ++ m)).extractLsb' 0 2 = m ∧ (BitVec.setWidth 16 (s ++ (0#2) ++ m)).extractLsb' 2 2 = 0#2 := by
  revert s m; decide

theorem q_parts (q : Fin 16) : (BitVec.ofFin q : BitVec 4).toNat % 65536 < 16 ∧ Fin.ofNat 16 ((BitVec.ofFin q : BitVec 4).toNat % 65536) = q := by
  revert q; decide

theorem kreg_fits (k : KReg) : (kregNumber k).toNat % 137438953472 < 256 := by cases k <;> decide

theorem fcvt_from' (b : Bool) (n : FNum) : (fcvtCode b n)[3] = b := by cases b <;> cases n <;> rfl

theorem fcvt_high' (b : Bool) (n : FNum) : (fcvtCode b n)[4] = false := by cases b <;> cases n <;> rfl

theorem drain_high (d : Bool) (t : BitVec 8) : (BitVec.ofBool d ++ t)[8] = d := by
  revert d t; decide

theorem condImm_pred (inv : Bool) (p : PReg) : (condImm (.pred p inv)).getLsbD 0 = false ∧ (condImm (.pred p inv)).getLsbD 1 = inv ∧
   (condImm (.pred p inv)).extractLsb' 2 10 = 0#10 ∧ (condImm (.pred p inv)).toNat < 4096 := by
  simp only [condImm]; revert inv; decide

theorem ap_bits (a : BitVec 4) (b : BitVec 6) (inv : Bool) (i : Nat) : (a ++ b ++ BitVec.ofBool inv ++ (1 : BitVec 1)).getLsbD i =
  if i < 1 then true else if i < 2 then inv else if i < 8 then b.getLsbD (i-2) else a.getLsbD (i-8) := by
  rw [BitVec.getLsbD_append, BitVec.getLsbD_append, BitVec.getLsbD_append]
  rcases i with _ | _ | i
  · simp
  · simp
  · simp [show ¬ (i + 1 + 1 < 2) by omega]
    by_cases h : i < 6 
    · simp [h, show i + 1 + 1 < 8 by omega]
    · simp [h, show ¬ (i + 1 + 1 < 8) by omega]

theorem condImm_buffer (sb : Fin 16) (dbit : BitVec 6) (inv : Bool) : (condImm (.buffer sb dbit inv)).getLsbD 0 = true ∧
   (condImm (.buffer sb dbit inv)).getLsbD 1 = inv ∧ (condImm (.buffer sb dbit inv)).extractLsb' 2 6 = dbit ∧
   (condImm (.buffer sb dbit inv)).extractLsb' 8 4 = BitVec.ofFin sb := by
  have e : ∀ i < 16, (condImm (.buffer sb dbit inv)).getLsbD i = if i < 1 then true else if i < 2 then inv else if i < 8 then dbit.getLsbD (i-2) else (BitVec.ofFin sb : BitVec 4).getLsbD (i-8) := by
    intro i hi
    rw [← ap_bits]; simp only [condImm, BitVec.getLsbD_setWidth, hi, decide_true, Bool.true_and]
  refine ⟨e 0 (by decide), e 1 (by decide), ?_, ?_⟩
  · apply BitVec.eq_of_getLsbD_eq; intro i hi
    rw [BitVec.getLsbD_extractLsb', e _ (by omega)]
    simp [hi, show ¬ (2 + i < 1) by omega, show ¬ (2 + i < 2) by omega, show 2 + i < 8 by omega]
  · apply BitVec.eq_of_getLsbD_eq; intro i hi
    rw [BitVec.getLsbD_extractLsb', e _ (by omega)]
    simp [hi, show ¬ (8 + i < 1) by omega, show ¬ (8 + i < 2) by omega, show ¬ (8 + i < 8) by omega]

theorem condImm_fits (c : BarCond) : (condImm c).toNat < 4096 := by
  cases c with
  | pred p inv => exact (condImm_pred inv p).2.2.2
  | buffer sb d i => 
    simp only [condImm, BitVec.toNat_setWidth]
    exact Nat.lt_of_le_of_lt (Nat.mod_le _ _) (((BitVec.ofFin sb : BitVec 4) ++ d ++ BitVec.ofBool i ++ (1 : BitVec 1))).isLt

theorem condOf_code (w : Word) (c : BarCond) (h : fImm16 w = condImm c) (h2 : fC w = (condSrc c).reg) (h3 : fLC w = (condSrc c).last) : condOf w = some c := by
  cases c with
  | pred p inv =>
    obtain ⟨e0, e1, e2, _⟩ := condImm_pred inv p
    simp only [condOf, h, e0, e1, e2, predOkC, predC, h2, h3, condSrc]
    simp [Laws.predField_low, Laws.predField_high]
  | buffer sb d inv =>
    obtain ⟨e0, e1, e2, e3⟩ := condImm_buffer sb d inv
    simp only [condOf, h, e0, e1, e2, e3, h2, h3, condSrc]
    simp

/-- What every lemma of this family says of an instruction: the word of a well-formed one decodes to it. -/
def Encoding.Statement (i : Instr) : Prop := wf i = true → ∀ w, encode i = some w → decode w = .ok i

theorem Encoding.nop (g : Guard) :
    Encoding.Statement (.nop g) := by
  intro h w e
  cases e
  simp only [wf, Bool.and_eq_true] at h
  simp [fMaj_packR, fMin_packR, guardOf_packR, fD_packR, srcA_packR, srcB_packR, srcC_packR, fSZ_packR, fLow_packR,
    fA_packR, fLA_packR, fB_packR, fLB_packR, fC_packR, fLC_packR, need, form, withField, zeroR, decode, decodeSys,
    relOf_code, relCode_high, fnumOf_code, fcvtCode_from, fcvtCode_high, kregOf_code, kregNumber_fits,
    predField_low, predField_high, precOf_code, h]

theorem Encoding.halt (g : Guard) :
    Encoding.Statement (.halt g) := by
  intro h w e
  cases e
  simp only [wf, Bool.and_eq_true] at h
  simp [fMaj_packR, fMin_packR, guardOf_packR, fD_packR, srcA_packR, srcB_packR, srcC_packR, fSZ_packR, fLow_packR,
    fA_packR, fLA_packR, fB_packR, fLB_packR, fC_packR, fLC_packR, need, form, withField, zeroR, decode, decodeSys,
    relOf_code, relCode_high, fnumOf_code, fcvtCode_from, fcvtCode_high, kregOf_code, kregNumber_fits,
    predField_low, predField_high, precOf_code, h]

theorem Encoding.trap (g : Guard) (code : BitVec 16) :
    Encoding.Statement (.trap g code) := by
  intro h w e
  cases e
  have fit : code.toNat % 137438953472 < 65536 := by have := code.isLt; omega
  simp only [wf, Bool.and_eq_true] at h
  simp [fMaj_packI, fMin_packI, guardOf_packI, fD_packI, srcA_packI, fImm37_packI, fA_packI, fLA_packI, need, form,
    withField, zeroI, decode, decodeSys, relOf_code, relCode_high, fnumOf_code, fcvtCode_from, fcvtCode_high,
    kregOf_code, kregNumber_fits, predField_low, predField_high, precOf_code, immFits, fit, extract_setWidth_eq
    code (by decide : 16 ≤ 37), h]

theorem Encoding.tret (g : Guard) :
    Encoding.Statement (.tret g) := by
  intro h w e
  cases e
  simp only [wf, Bool.and_eq_true] at h
  simp [fMaj_packR, fMin_packR, guardOf_packR, fD_packR, srcA_packR, srcB_packR, srcC_packR, fSZ_packR, fLow_packR,
    fA_packR, fLA_packR, fB_packR, fLB_packR, fC_packR, fLC_packR, need, form, withField, zeroR, decode, decodeSys,
    relOf_code, relCode_high, fnumOf_code, fcvtCode_from, fcvtCode_high, kregOf_code, kregNumber_fits,
    predField_low, predField_high, precOf_code, h]

theorem Encoding.wait (g : Guard) :
    Encoding.Statement (.wait g) := by
  intro h w e
  cases e
  simp only [wf, Bool.and_eq_true] at h
  simp [fMaj_packR, fMin_packR, guardOf_packR, fD_packR, srcA_packR, srcB_packR, srcC_packR, fSZ_packR, fLow_packR,
    fA_packR, fLA_packR, fB_packR, fLB_packR, fC_packR, fLC_packR, need, form, withField, zeroR, decode, decodeSys,
    relOf_code, relCode_high, fnumOf_code, fcvtCode_from, fcvtCode_high, kregOf_code, kregNumber_fits,
    predField_low, predField_high, precOf_code, h]

theorem Encoding.brk (g : Guard) (code : BitVec 16) :
    Encoding.Statement (.brk g code) := by
  intro h w e
  cases e
  have fit : code.toNat % 137438953472 < 65536 := by have := code.isLt; omega
  simp only [wf, Bool.and_eq_true] at h
  simp [fMaj_packI, fMin_packI, guardOf_packI, fD_packI, srcA_packI, fImm37_packI, fA_packI, fLA_packI, need, form,
    withField, zeroI, decode, decodeSys, relOf_code, relCode_high, fnumOf_code, fcvtCode_from, fcvtCode_high,
    kregOf_code, kregNumber_fits, predField_low, predField_high, precOf_code, immFits, fit, extract_setWidth_eq
    code (by decide : 16 ≤ 37), h]

theorem Encoding.add (g : Guard) (d : Reg) (a : Src) (b : Src) :
    Encoding.Statement (.add g d a b) := by
  intro h w e
  cases e
  simp only [wf, Bool.and_eq_true] at h
  simp [fMaj_packR, fMin_packR, guardOf_packR, fD_packR, srcA_packR, srcB_packR, srcC_packR, fSZ_packR, fLow_packR,
    fA_packR, fLA_packR, fB_packR, fLB_packR, fC_packR, fLC_packR, need, form, withField, zeroR, decode,
    decodeIntR, relOf_code, relCode_high, fnumOf_code, fcvtCode_from, fcvtCode_high, kregOf_code, kregNumber_fits,
    predField_low, predField_high, precOf_code, h]

theorem Encoding.sub (g : Guard) (d : Reg) (a : Src) (b : Src) :
    Encoding.Statement (.sub g d a b) := by
  intro h w e
  cases e
  simp only [wf, Bool.and_eq_true] at h
  simp [fMaj_packR, fMin_packR, guardOf_packR, fD_packR, srcA_packR, srcB_packR, srcC_packR, fSZ_packR, fLow_packR,
    fA_packR, fLA_packR, fB_packR, fLB_packR, fC_packR, fLC_packR, need, form, withField, zeroR, decode,
    decodeIntR, relOf_code, relCode_high, fnumOf_code, fcvtCode_from, fcvtCode_high, kregOf_code, kregNumber_fits,
    predField_low, predField_high, precOf_code, h]

theorem Encoding.and (g : Guard) (d : Reg) (a : Src) (b : Src) :
    Encoding.Statement (.and g d a b) := by
  intro h w e
  cases e
  simp only [wf, Bool.and_eq_true] at h
  simp [fMaj_packR, fMin_packR, guardOf_packR, fD_packR, srcA_packR, srcB_packR, srcC_packR, fSZ_packR, fLow_packR,
    fA_packR, fLA_packR, fB_packR, fLB_packR, fC_packR, fLC_packR, need, form, withField, zeroR, decode,
    decodeIntR, relOf_code, relCode_high, fnumOf_code, fcvtCode_from, fcvtCode_high, kregOf_code, kregNumber_fits,
    predField_low, predField_high, precOf_code, h]

theorem Encoding.or (g : Guard) (d : Reg) (a : Src) (b : Src) :
    Encoding.Statement (.or g d a b) := by
  intro h w e
  cases e
  simp only [wf, Bool.and_eq_true] at h
  simp [fMaj_packR, fMin_packR, guardOf_packR, fD_packR, srcA_packR, srcB_packR, srcC_packR, fSZ_packR, fLow_packR,
    fA_packR, fLA_packR, fB_packR, fLB_packR, fC_packR, fLC_packR, need, form, withField, zeroR, decode,
    decodeIntR, relOf_code, relCode_high, fnumOf_code, fcvtCode_from, fcvtCode_high, kregOf_code, kregNumber_fits,
    predField_low, predField_high, precOf_code, h]

theorem Encoding.xor (g : Guard) (d : Reg) (a : Src) (b : Src) :
    Encoding.Statement (.xor g d a b) := by
  intro h w e
  cases e
  simp only [wf, Bool.and_eq_true] at h
  simp [fMaj_packR, fMin_packR, guardOf_packR, fD_packR, srcA_packR, srcB_packR, srcC_packR, fSZ_packR, fLow_packR,
    fA_packR, fLA_packR, fB_packR, fLB_packR, fC_packR, fLC_packR, need, form, withField, zeroR, decode,
    decodeIntR, relOf_code, relCode_high, fnumOf_code, fcvtCode_from, fcvtCode_high, kregOf_code, kregNumber_fits,
    predField_low, predField_high, precOf_code, h]

theorem Encoding.andn (g : Guard) (d : Reg) (a : Src) (b : Src) :
    Encoding.Statement (.andn g d a b) := by
  intro h w e
  cases e
  simp only [wf, Bool.and_eq_true] at h
  simp [fMaj_packR, fMin_packR, guardOf_packR, fD_packR, srcA_packR, srcB_packR, srcC_packR, fSZ_packR, fLow_packR,
    fA_packR, fLA_packR, fB_packR, fLB_packR, fC_packR, fLC_packR, need, form, withField, zeroR, decode,
    decodeIntR, relOf_code, relCode_high, fnumOf_code, fcvtCode_from, fcvtCode_high, kregOf_code, kregNumber_fits,
    predField_low, predField_high, precOf_code, h]

theorem Encoding.shl (g : Guard) (d : Reg) (a : Src) (b : Src) :
    Encoding.Statement (.shl g d a b) := by
  intro h w e
  cases e
  simp only [wf, Bool.and_eq_true] at h
  simp [fMaj_packR, fMin_packR, guardOf_packR, fD_packR, srcA_packR, srcB_packR, srcC_packR, fSZ_packR, fLow_packR,
    fA_packR, fLA_packR, fB_packR, fLB_packR, fC_packR, fLC_packR, need, form, withField, zeroR, decode,
    decodeIntR, relOf_code, relCode_high, fnumOf_code, fcvtCode_from, fcvtCode_high, kregOf_code, kregNumber_fits,
    predField_low, predField_high, precOf_code, h]

theorem Encoding.shr (g : Guard) (d : Reg) (a : Src) (b : Src) :
    Encoding.Statement (.shr g d a b) := by
  intro h w e
  cases e
  simp only [wf, Bool.and_eq_true] at h
  simp [fMaj_packR, fMin_packR, guardOf_packR, fD_packR, srcA_packR, srcB_packR, srcC_packR, fSZ_packR, fLow_packR,
    fA_packR, fLA_packR, fB_packR, fLB_packR, fC_packR, fLC_packR, need, form, withField, zeroR, decode,
    decodeIntR, relOf_code, relCode_high, fnumOf_code, fcvtCode_from, fcvtCode_high, kregOf_code, kregNumber_fits,
    predField_low, predField_high, precOf_code, h]

theorem Encoding.sra (g : Guard) (d : Reg) (a : Src) (b : Src) :
    Encoding.Statement (.sra g d a b) := by
  intro h w e
  cases e
  simp only [wf, Bool.and_eq_true] at h
  simp [fMaj_packR, fMin_packR, guardOf_packR, fD_packR, srcA_packR, srcB_packR, srcC_packR, fSZ_packR, fLow_packR,
    fA_packR, fLA_packR, fB_packR, fLB_packR, fC_packR, fLC_packR, need, form, withField, zeroR, decode,
    decodeIntR, relOf_code, relCode_high, fnumOf_code, fcvtCode_from, fcvtCode_high, kregOf_code, kregNumber_fits,
    predField_low, predField_high, precOf_code, h]

theorem Encoding.rol (g : Guard) (d : Reg) (a : Src) (b : Src) :
    Encoding.Statement (.rol g d a b) := by
  intro h w e
  cases e
  simp only [wf, Bool.and_eq_true] at h
  simp [fMaj_packR, fMin_packR, guardOf_packR, fD_packR, srcA_packR, srcB_packR, srcC_packR, fSZ_packR, fLow_packR,
    fA_packR, fLA_packR, fB_packR, fLB_packR, fC_packR, fLC_packR, need, form, withField, zeroR, decode,
    decodeIntR, relOf_code, relCode_high, fnumOf_code, fcvtCode_from, fcvtCode_high, kregOf_code, kregNumber_fits,
    predField_low, predField_high, precOf_code, h]

theorem Encoding.min (g : Guard) (d : Reg) (a : Src) (b : Src) :
    Encoding.Statement (.min g d a b) := by
  intro h w e
  cases e
  simp only [wf, Bool.and_eq_true] at h
  simp [fMaj_packR, fMin_packR, guardOf_packR, fD_packR, srcA_packR, srcB_packR, srcC_packR, fSZ_packR, fLow_packR,
    fA_packR, fLA_packR, fB_packR, fLB_packR, fC_packR, fLC_packR, need, form, withField, zeroR, decode,
    decodeIntR, relOf_code, relCode_high, fnumOf_code, fcvtCode_from, fcvtCode_high, kregOf_code, kregNumber_fits,
    predField_low, predField_high, precOf_code, h]

theorem Encoding.max (g : Guard) (d : Reg) (a : Src) (b : Src) :
    Encoding.Statement (.max g d a b) := by
  intro h w e
  cases e
  simp only [wf, Bool.and_eq_true] at h
  simp [fMaj_packR, fMin_packR, guardOf_packR, fD_packR, srcA_packR, srcB_packR, srcC_packR, fSZ_packR, fLow_packR,
    fA_packR, fLA_packR, fB_packR, fLB_packR, fC_packR, fLC_packR, need, form, withField, zeroR, decode,
    decodeIntR, relOf_code, relCode_high, fnumOf_code, fcvtCode_from, fcvtCode_high, kregOf_code, kregNumber_fits,
    predField_low, predField_high, precOf_code, h]

theorem Encoding.minz (g : Guard) (d : Reg) (a : Src) (b : Src) :
    Encoding.Statement (.minz g d a b) := by
  intro h w e
  cases e
  simp only [wf, Bool.and_eq_true] at h
  simp [fMaj_packR, fMin_packR, guardOf_packR, fD_packR, srcA_packR, srcB_packR, srcC_packR, fSZ_packR, fLow_packR,
    fA_packR, fLA_packR, fB_packR, fLB_packR, fC_packR, fLC_packR, need, form, withField, zeroR, decode,
    decodeIntR, relOf_code, relCode_high, fnumOf_code, fcvtCode_from, fcvtCode_high, kregOf_code, kregNumber_fits,
    predField_low, predField_high, precOf_code, h]

theorem Encoding.maxz (g : Guard) (d : Reg) (a : Src) (b : Src) :
    Encoding.Statement (.maxz g d a b) := by
  intro h w e
  cases e
  simp only [wf, Bool.and_eq_true] at h
  simp [fMaj_packR, fMin_packR, guardOf_packR, fD_packR, srcA_packR, srcB_packR, srcC_packR, fSZ_packR, fLow_packR,
    fA_packR, fLA_packR, fB_packR, fLB_packR, fC_packR, fLC_packR, need, form, withField, zeroR, decode,
    decodeIntR, relOf_code, relCode_high, fnumOf_code, fcvtCode_from, fcvtCode_high, kregOf_code, kregNumber_fits,
    predField_low, predField_high, precOf_code, h]

theorem Encoding.mul (g : Guard) (d : Reg) (a : Src) (b : Src) :
    Encoding.Statement (.mul g d a b) := by
  intro h w e
  cases e
  simp only [wf, Bool.and_eq_true] at h
  simp [fMaj_packR, fMin_packR, guardOf_packR, fD_packR, srcA_packR, srcB_packR, srcC_packR, fSZ_packR, fLow_packR,
    fA_packR, fLA_packR, fB_packR, fLB_packR, fC_packR, fLC_packR, need, form, withField, zeroR, decode,
    decodeIntR, relOf_code, relCode_high, fnumOf_code, fcvtCode_from, fcvtCode_high, kregOf_code, kregNumber_fits,
    predField_low, predField_high, precOf_code, h]

theorem Encoding.mulh (g : Guard) (d : Reg) (a : Src) (b : Src) :
    Encoding.Statement (.mulh g d a b) := by
  intro h w e
  cases e
  simp only [wf, Bool.and_eq_true] at h
  simp [fMaj_packR, fMin_packR, guardOf_packR, fD_packR, srcA_packR, srcB_packR, srcC_packR, fSZ_packR, fLow_packR,
    fA_packR, fLA_packR, fB_packR, fLB_packR, fC_packR, fLC_packR, need, form, withField, zeroR, decode,
    decodeIntR, relOf_code, relCode_high, fnumOf_code, fcvtCode_from, fcvtCode_high, kregOf_code, kregNumber_fits,
    predField_low, predField_high, precOf_code, h]

theorem Encoding.mulhz (g : Guard) (d : Reg) (a : Src) (b : Src) :
    Encoding.Statement (.mulhz g d a b) := by
  intro h w e
  cases e
  simp only [wf, Bool.and_eq_true] at h
  simp [fMaj_packR, fMin_packR, guardOf_packR, fD_packR, srcA_packR, srcB_packR, srcC_packR, fSZ_packR, fLow_packR,
    fA_packR, fLA_packR, fB_packR, fLB_packR, fC_packR, fLC_packR, need, form, withField, zeroR, decode,
    decodeIntR, relOf_code, relCode_high, fnumOf_code, fcvtCode_from, fcvtCode_high, kregOf_code, kregNumber_fits,
    predField_low, predField_high, precOf_code, h]

theorem Encoding.div (g : Guard) (d : Reg) (a : Src) (b : Src) :
    Encoding.Statement (.div g d a b) := by
  intro h w e
  cases e
  simp only [wf, Bool.and_eq_true] at h
  simp [fMaj_packR, fMin_packR, guardOf_packR, fD_packR, srcA_packR, srcB_packR, srcC_packR, fSZ_packR, fLow_packR,
    fA_packR, fLA_packR, fB_packR, fLB_packR, fC_packR, fLC_packR, need, form, withField, zeroR, decode,
    decodeIntR, relOf_code, relCode_high, fnumOf_code, fcvtCode_from, fcvtCode_high, kregOf_code, kregNumber_fits,
    predField_low, predField_high, precOf_code, h]

theorem Encoding.divz (g : Guard) (d : Reg) (a : Src) (b : Src) :
    Encoding.Statement (.divz g d a b) := by
  intro h w e
  cases e
  simp only [wf, Bool.and_eq_true] at h
  simp [fMaj_packR, fMin_packR, guardOf_packR, fD_packR, srcA_packR, srcB_packR, srcC_packR, fSZ_packR, fLow_packR,
    fA_packR, fLA_packR, fB_packR, fLB_packR, fC_packR, fLC_packR, need, form, withField, zeroR, decode,
    decodeIntR, relOf_code, relCode_high, fnumOf_code, fcvtCode_from, fcvtCode_high, kregOf_code, kregNumber_fits,
    predField_low, predField_high, precOf_code, h]

theorem Encoding.rem (g : Guard) (d : Reg) (a : Src) (b : Src) :
    Encoding.Statement (.rem g d a b) := by
  intro h w e
  cases e
  simp only [wf, Bool.and_eq_true] at h
  simp [fMaj_packR, fMin_packR, guardOf_packR, fD_packR, srcA_packR, srcB_packR, srcC_packR, fSZ_packR, fLow_packR,
    fA_packR, fLA_packR, fB_packR, fLB_packR, fC_packR, fLC_packR, need, form, withField, zeroR, decode,
    decodeIntR, relOf_code, relCode_high, fnumOf_code, fcvtCode_from, fcvtCode_high, kregOf_code, kregNumber_fits,
    predField_low, predField_high, precOf_code, h]

theorem Encoding.remz (g : Guard) (d : Reg) (a : Src) (b : Src) :
    Encoding.Statement (.remz g d a b) := by
  intro h w e
  cases e
  simp only [wf, Bool.and_eq_true] at h
  simp [fMaj_packR, fMin_packR, guardOf_packR, fD_packR, srcA_packR, srcB_packR, srcC_packR, fSZ_packR, fLow_packR,
    fA_packR, fLA_packR, fB_packR, fLB_packR, fC_packR, fLC_packR, need, form, withField, zeroR, decode,
    decodeIntR, relOf_code, relCode_high, fnumOf_code, fcvtCode_from, fcvtCode_high, kregOf_code, kregNumber_fits,
    predField_low, predField_high, precOf_code, h]

theorem Encoding.clz (g : Guard) (d : Reg) (a : Src) :
    Encoding.Statement (.clz g d a) := by
  intro h w e
  cases e
  simp only [wf, Bool.and_eq_true] at h
  simp [fMaj_packR, fMin_packR, guardOf_packR, fD_packR, srcA_packR, srcB_packR, srcC_packR, fSZ_packR, fLow_packR,
    fA_packR, fLA_packR, fB_packR, fLB_packR, fC_packR, fLC_packR, need, form, withField, zeroR, decode,
    decodeIntR, relOf_code, relCode_high, fnumOf_code, fcvtCode_from, fcvtCode_high, kregOf_code, kregNumber_fits,
    predField_low, predField_high, precOf_code, h]

theorem Encoding.ctz (g : Guard) (d : Reg) (a : Src) :
    Encoding.Statement (.ctz g d a) := by
  intro h w e
  cases e
  simp only [wf, Bool.and_eq_true] at h
  simp [fMaj_packR, fMin_packR, guardOf_packR, fD_packR, srcA_packR, srcB_packR, srcC_packR, fSZ_packR, fLow_packR,
    fA_packR, fLA_packR, fB_packR, fLB_packR, fC_packR, fLC_packR, need, form, withField, zeroR, decode,
    decodeIntR, relOf_code, relCode_high, fnumOf_code, fcvtCode_from, fcvtCode_high, kregOf_code, kregNumber_fits,
    predField_low, predField_high, precOf_code, h]

theorem Encoding.popc (g : Guard) (d : Reg) (a : Src) :
    Encoding.Statement (.popc g d a) := by
  intro h w e
  cases e
  simp only [wf, Bool.and_eq_true] at h
  simp [fMaj_packR, fMin_packR, guardOf_packR, fD_packR, srcA_packR, srcB_packR, srcC_packR, fSZ_packR, fLow_packR,
    fA_packR, fLA_packR, fB_packR, fLB_packR, fC_packR, fLC_packR, need, form, withField, zeroR, decode,
    decodeIntR, relOf_code, relCode_high, fnumOf_code, fcvtCode_from, fcvtCode_high, kregOf_code, kregNumber_fits,
    predField_low, predField_high, precOf_code, h]

theorem Encoding.sel (g : Guard) (d : Reg) (a : Src) (b : Src) (p : PReg) :
    Encoding.Statement (.sel g d a b p) := by
  intro h w e
  cases e
  simp only [wf, Bool.and_eq_true] at h
  simp [fMaj_packR, fMin_packR, guardOf_packR, fD_packR, srcA_packR, srcB_packR, srcC_packR, fSZ_packR, fLow_packR,
    fA_packR, fLA_packR, fB_packR, fLB_packR, fC_packR, fLC_packR, need, form, withField, zeroR, decode,
    decodeIntR, relOf_code, relCode_high, fnumOf_code, fcvtCode_from, fcvtCode_high, kregOf_code, kregNumber_fits,
    predField_low, predField_high, precOf_code, predOkC, predC, h]

theorem Encoding.bext (g : Guard) (d : Reg) (a : Src) (b : Src) (c : Src) :
    Encoding.Statement (.bext g d a b c) := by
  intro h w e
  cases e
  simp only [wf, Bool.and_eq_true] at h
  simp [fMaj_packR, fMin_packR, guardOf_packR, fD_packR, srcA_packR, srcB_packR, srcC_packR, fSZ_packR, fLow_packR,
    fA_packR, fLA_packR, fB_packR, fLB_packR, fC_packR, fLC_packR, need, form, withField, zeroR, decode,
    decodeIntR, relOf_code, relCode_high, fnumOf_code, fcvtCode_from, fcvtCode_high, kregOf_code, kregNumber_fits,
    predField_low, predField_high, precOf_code, h]

theorem Encoding.bins (g : Guard) (d : Reg) (a : Src) (b : Src) (c : Src) :
    Encoding.Statement (.bins g d a b c) := by
  intro h w e
  cases e
  simp only [wf, Bool.and_eq_true] at h
  simp [fMaj_packR, fMin_packR, guardOf_packR, fD_packR, srcA_packR, srcB_packR, srcC_packR, fSZ_packR, fLow_packR,
    fA_packR, fLA_packR, fB_packR, fLB_packR, fC_packR, fLC_packR, need, form, withField, zeroR, decode,
    decodeIntR, relOf_code, relCode_high, fnumOf_code, fcvtCode_from, fcvtCode_high, kregOf_code, kregNumber_fits,
    predField_low, predField_high, precOf_code, h]

theorem Encoding.addi (g : Guard) (d : Reg) (a : Src) (imm : BitVec 37) :
    Encoding.Statement (.addi g d a imm) := by
  intro h w e
  cases e
  simp only [wf, Bool.and_eq_true] at h
  simp [fMaj_packI, fMin_packI, guardOf_packI, fD_packI, srcA_packI, fImm37_packI, fA_packI, fLA_packI, need, form,
    withField, zeroI, decode, decodeIntI, relOf_code, relCode_high, fnumOf_code, fcvtCode_from, fcvtCode_high,
    kregOf_code, kregNumber_fits, predField_low, predField_high, precOf_code, h]

theorem Encoding.andi (g : Guard) (d : Reg) (a : Src) (imm : BitVec 37) :
    Encoding.Statement (.andi g d a imm) := by
  intro h w e
  cases e
  simp only [wf, Bool.and_eq_true] at h
  simp [fMaj_packI, fMin_packI, guardOf_packI, fD_packI, srcA_packI, fImm37_packI, fA_packI, fLA_packI, need, form,
    withField, zeroI, decode, decodeIntI, relOf_code, relCode_high, fnumOf_code, fcvtCode_from, fcvtCode_high,
    kregOf_code, kregNumber_fits, predField_low, predField_high, precOf_code, h]

theorem Encoding.ori (g : Guard) (d : Reg) (a : Src) (imm : BitVec 37) :
    Encoding.Statement (.ori g d a imm) := by
  intro h w e
  cases e
  simp only [wf, Bool.and_eq_true] at h
  simp [fMaj_packI, fMin_packI, guardOf_packI, fD_packI, srcA_packI, fImm37_packI, fA_packI, fLA_packI, need, form,
    withField, zeroI, decode, decodeIntI, relOf_code, relCode_high, fnumOf_code, fcvtCode_from, fcvtCode_high,
    kregOf_code, kregNumber_fits, predField_low, predField_high, precOf_code, h]

theorem Encoding.xori (g : Guard) (d : Reg) (a : Src) (imm : BitVec 37) :
    Encoding.Statement (.xori g d a imm) := by
  intro h w e
  cases e
  simp only [wf, Bool.and_eq_true] at h
  simp [fMaj_packI, fMin_packI, guardOf_packI, fD_packI, srcA_packI, fImm37_packI, fA_packI, fLA_packI, need, form,
    withField, zeroI, decode, decodeIntI, relOf_code, relCode_high, fnumOf_code, fcvtCode_from, fcvtCode_high,
    kregOf_code, kregNumber_fits, predField_low, predField_high, precOf_code, h]

theorem Encoding.shli (g : Guard) (d : Reg) (a : Src) (n : BitVec 6) :
    Encoding.Statement (.shli g d a n) := by
  intro h w e
  cases e
  have fit : n.toNat % 137438953472 < 64 := by have := n.isLt; omega
  simp only [wf, Bool.and_eq_true] at h
  simp [fMaj_packI, fMin_packI, guardOf_packI, fD_packI, srcA_packI, fImm37_packI, fA_packI, fLA_packI, need, form,
    withField, zeroI, decode, decodeIntI, relOf_code, relCode_high, fnumOf_code, fcvtCode_from, fcvtCode_high,
    kregOf_code, kregNumber_fits, predField_low, predField_high, precOf_code, immFits, fit, extract_setWidth_eq n
    (by decide : 6 ≤ 37), h]

theorem Encoding.shri (g : Guard) (d : Reg) (a : Src) (n : BitVec 6) :
    Encoding.Statement (.shri g d a n) := by
  intro h w e
  cases e
  have fit : n.toNat % 137438953472 < 64 := by have := n.isLt; omega
  simp only [wf, Bool.and_eq_true] at h
  simp [fMaj_packI, fMin_packI, guardOf_packI, fD_packI, srcA_packI, fImm37_packI, fA_packI, fLA_packI, need, form,
    withField, zeroI, decode, decodeIntI, relOf_code, relCode_high, fnumOf_code, fcvtCode_from, fcvtCode_high,
    kregOf_code, kregNumber_fits, predField_low, predField_high, precOf_code, immFits, fit, extract_setWidth_eq n
    (by decide : 6 ≤ 37), h]

theorem Encoding.srai (g : Guard) (d : Reg) (a : Src) (n : BitVec 6) :
    Encoding.Statement (.srai g d a n) := by
  intro h w e
  cases e
  have fit : n.toNat % 137438953472 < 64 := by have := n.isLt; omega
  simp only [wf, Bool.and_eq_true] at h
  simp [fMaj_packI, fMin_packI, guardOf_packI, fD_packI, srcA_packI, fImm37_packI, fA_packI, fLA_packI, need, form,
    withField, zeroI, decode, decodeIntI, relOf_code, relCode_high, fnumOf_code, fcvtCode_from, fcvtCode_high,
    kregOf_code, kregNumber_fits, predField_low, predField_high, precOf_code, immFits, fit, extract_setWidth_eq n
    (by decide : 6 ≤ 37), h]

theorem Encoding.li (g : Guard) (d : Reg) (imm : BitVec 37) :
    Encoding.Statement (.li g d imm) := by
  intro h w e
  cases e
  simp only [wf, Bool.and_eq_true] at h
  simp [fMaj_packI, fMin_packI, guardOf_packI, fD_packI, srcA_packI, fImm37_packI, fA_packI, fLA_packI, need, form,
    withField, zeroI, decode, decodeIntI, relOf_code, relCode_high, fnumOf_code, fcvtCode_from, fcvtCode_high,
    kregOf_code, kregNumber_fits, predField_low, predField_high, precOf_code, h]

theorem Encoding.liH (g : Guard) (d : Reg) (a : Src) (imm : BitVec 27) :
    Encoding.Statement (.liH g d a imm) := by
  intro h w e
  cases e
  have fit : imm.toNat % 137438953472 < 134217728 := by have := imm.isLt; omega
  simp only [wf, Bool.and_eq_true] at h
  simp [fMaj_packI, fMin_packI, guardOf_packI, fD_packI, srcA_packI, fImm37_packI, fA_packI, fLA_packI, need, form,
    withField, zeroI, decode, decodeIntI, relOf_code, relCode_high, fnumOf_code, fcvtCode_from, fcvtCode_high,
    kregOf_code, kregNumber_fits, predField_low, predField_high, precOf_code, immFits, fit, extract_setWidth_eq imm
    (by decide : 27 ≤ 37), h]

theorem Encoding.cmpEq (g : Guard) (d : PReg) (a : Src) (b : Src) :
    Encoding.Statement (.cmpEq g d a b) := by
  intro h w e
  cases e
  simp only [wf, Bool.and_eq_true] at h
  simp [fMaj_packR, fMin_packR, guardOf_packR, fD_packR, srcA_packR, srcB_packR, srcC_packR, fSZ_packR, fLow_packR,
    fA_packR, fLA_packR, fB_packR, fLB_packR, fC_packR, fLC_packR, need, form, withField, zeroR, decode, decodeCmp,
    relOf_code, relCode_high, fnumOf_code, fcvtCode_from, fcvtCode_high, kregOf_code, kregNumber_fits,
    predField_low, predField_high, precOf_code, predOkD, predD, h]

theorem Encoding.cmpNe (g : Guard) (d : PReg) (a : Src) (b : Src) :
    Encoding.Statement (.cmpNe g d a b) := by
  intro h w e
  cases e
  simp only [wf, Bool.and_eq_true] at h
  simp [fMaj_packR, fMin_packR, guardOf_packR, fD_packR, srcA_packR, srcB_packR, srcC_packR, fSZ_packR, fLow_packR,
    fA_packR, fLA_packR, fB_packR, fLB_packR, fC_packR, fLC_packR, need, form, withField, zeroR, decode, decodeCmp,
    relOf_code, relCode_high, fnumOf_code, fcvtCode_from, fcvtCode_high, kregOf_code, kregNumber_fits,
    predField_low, predField_high, precOf_code, predOkD, predD, h]

theorem Encoding.cmpLt (g : Guard) (d : PReg) (a : Src) (b : Src) :
    Encoding.Statement (.cmpLt g d a b) := by
  intro h w e
  cases e
  simp only [wf, Bool.and_eq_true] at h
  simp [fMaj_packR, fMin_packR, guardOf_packR, fD_packR, srcA_packR, srcB_packR, srcC_packR, fSZ_packR, fLow_packR,
    fA_packR, fLA_packR, fB_packR, fLB_packR, fC_packR, fLC_packR, need, form, withField, zeroR, decode, decodeCmp,
    relOf_code, relCode_high, fnumOf_code, fcvtCode_from, fcvtCode_high, kregOf_code, kregNumber_fits,
    predField_low, predField_high, precOf_code, predOkD, predD, h]

theorem Encoding.cmpGe (g : Guard) (d : PReg) (a : Src) (b : Src) :
    Encoding.Statement (.cmpGe g d a b) := by
  intro h w e
  cases e
  simp only [wf, Bool.and_eq_true] at h
  simp [fMaj_packR, fMin_packR, guardOf_packR, fD_packR, srcA_packR, srcB_packR, srcC_packR, fSZ_packR, fLow_packR,
    fA_packR, fLA_packR, fB_packR, fLB_packR, fC_packR, fLC_packR, need, form, withField, zeroR, decode, decodeCmp,
    relOf_code, relCode_high, fnumOf_code, fcvtCode_from, fcvtCode_high, kregOf_code, kregNumber_fits,
    predField_low, predField_high, precOf_code, predOkD, predD, h]

theorem Encoding.cmpLo (g : Guard) (d : PReg) (a : Src) (b : Src) :
    Encoding.Statement (.cmpLo g d a b) := by
  intro h w e
  cases e
  simp only [wf, Bool.and_eq_true] at h
  simp [fMaj_packR, fMin_packR, guardOf_packR, fD_packR, srcA_packR, srcB_packR, srcC_packR, fSZ_packR, fLow_packR,
    fA_packR, fLA_packR, fB_packR, fLB_packR, fC_packR, fLC_packR, need, form, withField, zeroR, decode, decodeCmp,
    relOf_code, relCode_high, fnumOf_code, fcvtCode_from, fcvtCode_high, kregOf_code, kregNumber_fits,
    predField_low, predField_high, precOf_code, predOkD, predD, h]

theorem Encoding.cmpHs (g : Guard) (d : PReg) (a : Src) (b : Src) :
    Encoding.Statement (.cmpHs g d a b) := by
  intro h w e
  cases e
  simp only [wf, Bool.and_eq_true] at h
  simp [fMaj_packR, fMin_packR, guardOf_packR, fD_packR, srcA_packR, srcB_packR, srcC_packR, fSZ_packR, fLow_packR,
    fA_packR, fLA_packR, fB_packR, fLB_packR, fC_packR, fLC_packR, need, form, withField, zeroR, decode, decodeCmp,
    relOf_code, relCode_high, fnumOf_code, fcvtCode_from, fcvtCode_high, kregOf_code, kregNumber_fits,
    predField_low, predField_high, precOf_code, predOkD, predD, h]

theorem Encoding.cmpiEq (g : Guard) (d : PReg) (a : Src) (imm : BitVec 37) :
    Encoding.Statement (.cmpiEq g d a imm) := by
  intro h w e
  cases e
  simp only [wf, Bool.and_eq_true] at h
  simp [fMaj_packI, fMin_packI, guardOf_packI, fD_packI, srcA_packI, fImm37_packI, fA_packI, fLA_packI, need, form,
    withField, zeroI, decode, decodeCmp, relOf_code, relCode_high, fnumOf_code, fcvtCode_from, fcvtCode_high,
    kregOf_code, kregNumber_fits, predField_low, predField_high, precOf_code, predOkD, predD, h]

theorem Encoding.cmpiNe (g : Guard) (d : PReg) (a : Src) (imm : BitVec 37) :
    Encoding.Statement (.cmpiNe g d a imm) := by
  intro h w e
  cases e
  simp only [wf, Bool.and_eq_true] at h
  simp [fMaj_packI, fMin_packI, guardOf_packI, fD_packI, srcA_packI, fImm37_packI, fA_packI, fLA_packI, need, form,
    withField, zeroI, decode, decodeCmp, relOf_code, relCode_high, fnumOf_code, fcvtCode_from, fcvtCode_high,
    kregOf_code, kregNumber_fits, predField_low, predField_high, precOf_code, predOkD, predD, h]

theorem Encoding.cmpiLt (g : Guard) (d : PReg) (a : Src) (imm : BitVec 37) :
    Encoding.Statement (.cmpiLt g d a imm) := by
  intro h w e
  cases e
  simp only [wf, Bool.and_eq_true] at h
  simp [fMaj_packI, fMin_packI, guardOf_packI, fD_packI, srcA_packI, fImm37_packI, fA_packI, fLA_packI, need, form,
    withField, zeroI, decode, decodeCmp, relOf_code, relCode_high, fnumOf_code, fcvtCode_from, fcvtCode_high,
    kregOf_code, kregNumber_fits, predField_low, predField_high, precOf_code, predOkD, predD, h]

theorem Encoding.cmpiGe (g : Guard) (d : PReg) (a : Src) (imm : BitVec 37) :
    Encoding.Statement (.cmpiGe g d a imm) := by
  intro h w e
  cases e
  simp only [wf, Bool.and_eq_true] at h
  simp [fMaj_packI, fMin_packI, guardOf_packI, fD_packI, srcA_packI, fImm37_packI, fA_packI, fLA_packI, need, form,
    withField, zeroI, decode, decodeCmp, relOf_code, relCode_high, fnumOf_code, fcvtCode_from, fcvtCode_high,
    kregOf_code, kregNumber_fits, predField_low, predField_high, precOf_code, predOkD, predD, h]

theorem Encoding.cmpiLo (g : Guard) (d : PReg) (a : Src) (imm : BitVec 37) :
    Encoding.Statement (.cmpiLo g d a imm) := by
  intro h w e
  cases e
  simp only [wf, Bool.and_eq_true] at h
  simp [fMaj_packI, fMin_packI, guardOf_packI, fD_packI, srcA_packI, fImm37_packI, fA_packI, fLA_packI, need, form,
    withField, zeroI, decode, decodeCmp, relOf_code, relCode_high, fnumOf_code, fcvtCode_from, fcvtCode_high,
    kregOf_code, kregNumber_fits, predField_low, predField_high, precOf_code, predOkD, predD, h]

theorem Encoding.cmpiHs (g : Guard) (d : PReg) (a : Src) (imm : BitVec 37) :
    Encoding.Statement (.cmpiHs g d a imm) := by
  intro h w e
  cases e
  simp only [wf, Bool.and_eq_true] at h
  simp [fMaj_packI, fMin_packI, guardOf_packI, fD_packI, srcA_packI, fImm37_packI, fA_packI, fLA_packI, need, form,
    withField, zeroI, decode, decodeCmp, relOf_code, relCode_high, fnumOf_code, fcvtCode_from, fcvtCode_high,
    kregOf_code, kregNumber_fits, predField_low, predField_high, precOf_code, predOkD, predD, h]

theorem Encoding.pand (g : Guard) (d : PReg) (a : PReg) (b : PReg) :
    Encoding.Statement (.pand g d a b) := by
  intro h w e
  cases e
  simp only [wf, Bool.and_eq_true] at h
  simp [fMaj_packR, fMin_packR, guardOf_packR, fD_packR, srcA_packR, srcB_packR, srcC_packR, fSZ_packR, fLow_packR,
    fA_packR, fLA_packR, fB_packR, fLB_packR, fC_packR, fLC_packR, need, form, withField, zeroR, decode,
    decodePred, relOf_code, relCode_high, fnumOf_code, fcvtCode_from, fcvtCode_high, kregOf_code, kregNumber_fits,
    predField_low, predField_high, precOf_code, predOkA, predA, predOkB, predB, predOkD, predD, h]

theorem Encoding.por (g : Guard) (d : PReg) (a : PReg) (b : PReg) :
    Encoding.Statement (.por g d a b) := by
  intro h w e
  cases e
  simp only [wf, Bool.and_eq_true] at h
  simp [fMaj_packR, fMin_packR, guardOf_packR, fD_packR, srcA_packR, srcB_packR, srcC_packR, fSZ_packR, fLow_packR,
    fA_packR, fLA_packR, fB_packR, fLB_packR, fC_packR, fLC_packR, need, form, withField, zeroR, decode,
    decodePred, relOf_code, relCode_high, fnumOf_code, fcvtCode_from, fcvtCode_high, kregOf_code, kregNumber_fits,
    predField_low, predField_high, precOf_code, predOkA, predA, predOkB, predB, predOkD, predD, h]

theorem Encoding.pxor (g : Guard) (d : PReg) (a : PReg) (b : PReg) :
    Encoding.Statement (.pxor g d a b) := by
  intro h w e
  cases e
  simp only [wf, Bool.and_eq_true] at h
  simp [fMaj_packR, fMin_packR, guardOf_packR, fD_packR, srcA_packR, srcB_packR, srcC_packR, fSZ_packR, fLow_packR,
    fA_packR, fLA_packR, fB_packR, fLB_packR, fC_packR, fLC_packR, need, form, withField, zeroR, decode,
    decodePred, relOf_code, relCode_high, fnumOf_code, fcvtCode_from, fcvtCode_high, kregOf_code, kregNumber_fits,
    predField_low, predField_high, precOf_code, predOkA, predA, predOkB, predB, predOkD, predD, h]

theorem Encoding.pandn (g : Guard) (d : PReg) (a : PReg) (b : PReg) :
    Encoding.Statement (.pandn g d a b) := by
  intro h w e
  cases e
  simp only [wf, Bool.and_eq_true] at h
  simp [fMaj_packR, fMin_packR, guardOf_packR, fD_packR, srcA_packR, srcB_packR, srcC_packR, fSZ_packR, fLow_packR,
    fA_packR, fLA_packR, fB_packR, fLB_packR, fC_packR, fLC_packR, need, form, withField, zeroR, decode,
    decodePred, relOf_code, relCode_high, fnumOf_code, fcvtCode_from, fcvtCode_high, kregOf_code, kregNumber_fits,
    predField_low, predField_high, precOf_code, predOkA, predA, predOkB, predB, predOkD, predD, h]

theorem Encoding.pmov (g : Guard) (d : PReg) (a : PReg) :
    Encoding.Statement (.pmov g d a) := by
  intro h w e
  cases e
  simp only [wf, Bool.and_eq_true] at h
  simp [fMaj_packR, fMin_packR, guardOf_packR, fD_packR, srcA_packR, srcB_packR, srcC_packR, fSZ_packR, fLow_packR,
    fA_packR, fLA_packR, fB_packR, fLB_packR, fC_packR, fLC_packR, need, form, withField, zeroR, decode,
    decodePred, relOf_code, relCode_high, fnumOf_code, fcvtCode_from, fcvtCode_high, kregOf_code, kregNumber_fits,
    predField_low, predField_high, precOf_code, predOkA, predA, predOkD, predD, h]

theorem Encoding.pget (g : Guard) (d : Reg) (a : PReg) :
    Encoding.Statement (.pget g d a) := by
  intro h w e
  cases e
  simp only [wf, Bool.and_eq_true] at h
  simp [fMaj_packR, fMin_packR, guardOf_packR, fD_packR, srcA_packR, srcB_packR, srcC_packR, fSZ_packR, fLow_packR,
    fA_packR, fLA_packR, fB_packR, fLB_packR, fC_packR, fLC_packR, need, form, withField, zeroR, decode,
    decodePred, relOf_code, relCode_high, fnumOf_code, fcvtCode_from, fcvtCode_high, kregOf_code, kregNumber_fits,
    predField_low, predField_high, precOf_code, predOkA, predA, h]

theorem Encoding.br (g : Guard) (off : BitVec 32) :
    Encoding.Statement (.br g off) := by
  intro h w e
  cases e
  simp only [wf, Bool.and_eq_true] at h
  simp [fMaj_packB, fMin_packB, guardOf_packB, fD_packB, srcA_packB, fB_packB, fOff32_packB, fA_packB, fLA_packB,
    need, form, withField, zeroB, decode, decodeBranch, relOf_code, relCode_high, fnumOf_code, fcvtCode_from,
    fcvtCode_high, kregOf_code, kregNumber_fits, predField_low, predField_high, precOf_code, h]

theorem Encoding.call (g : Guard) (d : Reg) (off : BitVec 32) :
    Encoding.Statement (.call g d off) := by
  intro h w e
  cases e
  simp only [wf, Bool.and_eq_true] at h
  simp [fMaj_packB, fMin_packB, guardOf_packB, fD_packB, srcA_packB, fB_packB, fOff32_packB, fA_packB, fLA_packB,
    need, form, withField, zeroB, decode, decodeBranch, relOf_code, relCode_high, fnumOf_code, fcvtCode_from,
    fcvtCode_high, kregOf_code, kregNumber_fits, predField_low, predField_high, precOf_code, h]

theorem Encoding.ret (g : Guard) (a : Src) :
    Encoding.Statement (.ret g a) := by
  intro h w e
  cases e
  simp only [wf, Bool.and_eq_true] at h
  simp [fMaj_packB, fMin_packB, guardOf_packB, fD_packB, srcA_packB, fB_packB, fOff32_packB, fA_packB, fLA_packB,
    need, form, withField, zeroB, decode, decodeBranch, relOf_code, relCode_high, fnumOf_code, fcvtCode_from,
    fcvtCode_high, kregOf_code, kregNumber_fits, predField_low, predField_high, precOf_code, h]

theorem Encoding.jr (g : Guard) (d : Reg) (a : Src) :
    Encoding.Statement (.jr g d a) := by
  intro h w e
  cases e
  simp only [wf, Bool.and_eq_true] at h
  simp [fMaj_packB, fMin_packB, guardOf_packB, fD_packB, srcA_packB, fB_packB, fOff32_packB, fA_packB, fLA_packB,
    need, form, withField, zeroB, decode, decodeBranch, relOf_code, relCode_high, fnumOf_code, fcvtCode_from,
    fcvtCode_high, kregOf_code, kregNumber_fits, predField_low, predField_high, precOf_code, h]

theorem Encoding.loop (g : Guard) (b : Reg) (off : BitVec 32) :
    Encoding.Statement (.loop g b off) := by
  intro h w e
  cases e
  simp only [wf, Bool.and_eq_true, Bool.not_eq_true', beq_eq_false_iff_ne, ne_eq] at h
  simp [fMaj_packB, fMin_packB, guardOf_packB, fD_packB, srcA_packB, fB_packB, fOff32_packB, fA_packB, fLA_packB,
    need, form, withField, zeroB, decode, decodeBranch, relOf_code, relCode_high, fnumOf_code, fcvtCode_from,
    fcvtCode_high, kregOf_code, kregNumber_fits, predField_low, predField_high, precOf_code, h]
  exact h.2

theorem Encoding.ldS8 (g : Guard) (d : Reg) (m : MemOp) :
    Encoding.Statement (.ldS8 g d m) := by
  intro h w e
  cases e
  obtain ⟨ma, mb, mo, mar, msc⟩ := m
  simp only [wf, Bool.and_eq_true, MemOp.ok, AmoOperand.ok] at h
  simp [fMaj_packM, fMin_packM, guardOf_packM, fD_packM, srcA_packM, srcB_packM, fSC_packM, fAR_packM, fLD_packM,
    fOff26_packM, fA_packM, fLA_packM, fB_packM, fLB_packM, need, form, withField, zeroM, decode, decodeLoad,
    relOf_code, relCode_high, fnumOf_code, fcvtCode_from, fcvtCode_high, kregOf_code, kregNumber_fits,
    predField_low, predField_high, precOf_code, MemOp.ok, memOf, MemOp.ok, AmoOperand.ok, h]

theorem Encoding.ldZ8 (g : Guard) (d : Reg) (m : MemOp) :
    Encoding.Statement (.ldZ8 g d m) := by
  intro h w e
  cases e
  obtain ⟨ma, mb, mo, mar, msc⟩ := m
  simp only [wf, Bool.and_eq_true, MemOp.ok, AmoOperand.ok] at h
  simp [fMaj_packM, fMin_packM, guardOf_packM, fD_packM, srcA_packM, srcB_packM, fSC_packM, fAR_packM, fLD_packM,
    fOff26_packM, fA_packM, fLA_packM, fB_packM, fLB_packM, need, form, withField, zeroM, decode, decodeLoad,
    relOf_code, relCode_high, fnumOf_code, fcvtCode_from, fcvtCode_high, kregOf_code, kregNumber_fits,
    predField_low, predField_high, precOf_code, MemOp.ok, memOf, MemOp.ok, AmoOperand.ok, h]

theorem Encoding.ldS16 (g : Guard) (d : Reg) (m : MemOp) :
    Encoding.Statement (.ldS16 g d m) := by
  intro h w e
  cases e
  obtain ⟨ma, mb, mo, mar, msc⟩ := m
  simp only [wf, Bool.and_eq_true, MemOp.ok, AmoOperand.ok] at h
  simp [fMaj_packM, fMin_packM, guardOf_packM, fD_packM, srcA_packM, srcB_packM, fSC_packM, fAR_packM, fLD_packM,
    fOff26_packM, fA_packM, fLA_packM, fB_packM, fLB_packM, need, form, withField, zeroM, decode, decodeLoad,
    relOf_code, relCode_high, fnumOf_code, fcvtCode_from, fcvtCode_high, kregOf_code, kregNumber_fits,
    predField_low, predField_high, precOf_code, MemOp.ok, memOf, MemOp.ok, AmoOperand.ok, h]

theorem Encoding.ldZ16 (g : Guard) (d : Reg) (m : MemOp) :
    Encoding.Statement (.ldZ16 g d m) := by
  intro h w e
  cases e
  obtain ⟨ma, mb, mo, mar, msc⟩ := m
  simp only [wf, Bool.and_eq_true, MemOp.ok, AmoOperand.ok] at h
  simp [fMaj_packM, fMin_packM, guardOf_packM, fD_packM, srcA_packM, srcB_packM, fSC_packM, fAR_packM, fLD_packM,
    fOff26_packM, fA_packM, fLA_packM, fB_packM, fLB_packM, need, form, withField, zeroM, decode, decodeLoad,
    relOf_code, relCode_high, fnumOf_code, fcvtCode_from, fcvtCode_high, kregOf_code, kregNumber_fits,
    predField_low, predField_high, precOf_code, MemOp.ok, memOf, MemOp.ok, AmoOperand.ok, h]

theorem Encoding.ldS32 (g : Guard) (d : Reg) (m : MemOp) :
    Encoding.Statement (.ldS32 g d m) := by
  intro h w e
  cases e
  obtain ⟨ma, mb, mo, mar, msc⟩ := m
  simp only [wf, Bool.and_eq_true, MemOp.ok, AmoOperand.ok] at h
  simp [fMaj_packM, fMin_packM, guardOf_packM, fD_packM, srcA_packM, srcB_packM, fSC_packM, fAR_packM, fLD_packM,
    fOff26_packM, fA_packM, fLA_packM, fB_packM, fLB_packM, need, form, withField, zeroM, decode, decodeLoad,
    relOf_code, relCode_high, fnumOf_code, fcvtCode_from, fcvtCode_high, kregOf_code, kregNumber_fits,
    predField_low, predField_high, precOf_code, MemOp.ok, memOf, MemOp.ok, AmoOperand.ok, h]

theorem Encoding.ldZ32 (g : Guard) (d : Reg) (m : MemOp) :
    Encoding.Statement (.ldZ32 g d m) := by
  intro h w e
  cases e
  obtain ⟨ma, mb, mo, mar, msc⟩ := m
  simp only [wf, Bool.and_eq_true, MemOp.ok, AmoOperand.ok] at h
  simp [fMaj_packM, fMin_packM, guardOf_packM, fD_packM, srcA_packM, srcB_packM, fSC_packM, fAR_packM, fLD_packM,
    fOff26_packM, fA_packM, fLA_packM, fB_packM, fLB_packM, need, form, withField, zeroM, decode, decodeLoad,
    relOf_code, relCode_high, fnumOf_code, fcvtCode_from, fcvtCode_high, kregOf_code, kregNumber_fits,
    predField_low, predField_high, precOf_code, MemOp.ok, memOf, MemOp.ok, AmoOperand.ok, h]

theorem Encoding.ld64 (g : Guard) (d : Reg) (m : MemOp) :
    Encoding.Statement (.ld64 g d m) := by
  intro h w e
  cases e
  obtain ⟨ma, mb, mo, mar, msc⟩ := m
  simp only [wf, Bool.and_eq_true, MemOp.ok, AmoOperand.ok] at h
  simp [fMaj_packM, fMin_packM, guardOf_packM, fD_packM, srcA_packM, srcB_packM, fSC_packM, fAR_packM, fLD_packM,
    fOff26_packM, fA_packM, fLA_packM, fB_packM, fLB_packM, need, form, withField, zeroM, decode, decodeLoad,
    relOf_code, relCode_high, fnumOf_code, fcvtCode_from, fcvtCode_high, kregOf_code, kregNumber_fits,
    predField_low, predField_high, precOf_code, MemOp.ok, memOf, MemOp.ok, AmoOperand.ok, h]

theorem Encoding.st8 (g : Guard) (v : Src) (m : MemOp) :
    Encoding.Statement (.st8 g v m) := by
  intro h w e
  cases e
  obtain ⟨ma, mb, mo, mar, msc⟩ := m
  simp only [wf, Bool.and_eq_true, MemOp.ok, AmoOperand.ok] at h
  simp [fMaj_packM, fMin_packM, guardOf_packM, fD_packM, srcA_packM, srcB_packM, fSC_packM, fAR_packM, fLD_packM,
    fOff26_packM, fA_packM, fLA_packM, fB_packM, fLB_packM, need, form, withField, zeroM, decode, decodeStore,
    relOf_code, relCode_high, fnumOf_code, fcvtCode_from, fcvtCode_high, kregOf_code, kregNumber_fits,
    predField_low, predField_high, precOf_code, MemOp.ok, memOf, srcV, MemOp.ok, AmoOperand.ok, h]

theorem Encoding.st16 (g : Guard) (v : Src) (m : MemOp) :
    Encoding.Statement (.st16 g v m) := by
  intro h w e
  cases e
  obtain ⟨ma, mb, mo, mar, msc⟩ := m
  simp only [wf, Bool.and_eq_true, MemOp.ok, AmoOperand.ok] at h
  simp [fMaj_packM, fMin_packM, guardOf_packM, fD_packM, srcA_packM, srcB_packM, fSC_packM, fAR_packM, fLD_packM,
    fOff26_packM, fA_packM, fLA_packM, fB_packM, fLB_packM, need, form, withField, zeroM, decode, decodeStore,
    relOf_code, relCode_high, fnumOf_code, fcvtCode_from, fcvtCode_high, kregOf_code, kregNumber_fits,
    predField_low, predField_high, precOf_code, MemOp.ok, memOf, srcV, MemOp.ok, AmoOperand.ok, h]

theorem Encoding.st32 (g : Guard) (v : Src) (m : MemOp) :
    Encoding.Statement (.st32 g v m) := by
  intro h w e
  cases e
  obtain ⟨ma, mb, mo, mar, msc⟩ := m
  simp only [wf, Bool.and_eq_true, MemOp.ok, AmoOperand.ok] at h
  simp [fMaj_packM, fMin_packM, guardOf_packM, fD_packM, srcA_packM, srcB_packM, fSC_packM, fAR_packM, fLD_packM,
    fOff26_packM, fA_packM, fLA_packM, fB_packM, fLB_packM, need, form, withField, zeroM, decode, decodeStore,
    relOf_code, relCode_high, fnumOf_code, fcvtCode_from, fcvtCode_high, kregOf_code, kregNumber_fits,
    predField_low, predField_high, precOf_code, MemOp.ok, memOf, srcV, MemOp.ok, AmoOperand.ok, h]

theorem Encoding.st64 (g : Guard) (v : Src) (m : MemOp) :
    Encoding.Statement (.st64 g v m) := by
  intro h w e
  cases e
  obtain ⟨ma, mb, mo, mar, msc⟩ := m
  simp only [wf, Bool.and_eq_true, MemOp.ok, AmoOperand.ok] at h
  simp [fMaj_packM, fMin_packM, guardOf_packM, fD_packM, srcA_packM, srcB_packM, fSC_packM, fAR_packM, fLD_packM,
    fOff26_packM, fA_packM, fLA_packM, fB_packM, fLB_packM, need, form, withField, zeroM, decode, decodeStore,
    relOf_code, relCode_high, fnumOf_code, fcvtCode_from, fcvtCode_high, kregOf_code, kregNumber_fits,
    predField_low, predField_high, precOf_code, MemOp.ok, memOf, srcV, MemOp.ok, AmoOperand.ok, h]

theorem Encoding.amoAdd64 (g : Guard) (d : Reg) (b : Src) (m : AmoOperand) :
    Encoding.Statement (.amoAdd64 g d b m) := by
  intro h w e
  cases e
  obtain ⟨ma, mo, mar, msc⟩ := m
  simp only [wf, Bool.and_eq_true, MemOp.ok, AmoOperand.ok] at h
  simp [fMaj_packM, fMin_packM, guardOf_packM, fD_packM, srcA_packM, srcB_packM, fSC_packM, fAR_packM, fLD_packM,
    fOff26_packM, fA_packM, fLA_packM, fB_packM, fLB_packM, need, form, withField, zeroM, decode, decodeAtomic,
    relOf_code, relCode_high, fnumOf_code, fcvtCode_from, fcvtCode_high, kregOf_code, kregNumber_fits,
    predField_low, predField_high, precOf_code, AmoOperand.ok, amoOf, MemOp.ok, AmoOperand.ok, h]

theorem Encoding.amoMin64 (g : Guard) (d : Reg) (b : Src) (m : AmoOperand) :
    Encoding.Statement (.amoMin64 g d b m) := by
  intro h w e
  cases e
  obtain ⟨ma, mo, mar, msc⟩ := m
  simp only [wf, Bool.and_eq_true, MemOp.ok, AmoOperand.ok] at h
  simp [fMaj_packM, fMin_packM, guardOf_packM, fD_packM, srcA_packM, srcB_packM, fSC_packM, fAR_packM, fLD_packM,
    fOff26_packM, fA_packM, fLA_packM, fB_packM, fLB_packM, need, form, withField, zeroM, decode, decodeAtomic,
    relOf_code, relCode_high, fnumOf_code, fcvtCode_from, fcvtCode_high, kregOf_code, kregNumber_fits,
    predField_low, predField_high, precOf_code, AmoOperand.ok, amoOf, MemOp.ok, AmoOperand.ok, h]

theorem Encoding.amoMax64 (g : Guard) (d : Reg) (b : Src) (m : AmoOperand) :
    Encoding.Statement (.amoMax64 g d b m) := by
  intro h w e
  cases e
  obtain ⟨ma, mo, mar, msc⟩ := m
  simp only [wf, Bool.and_eq_true, MemOp.ok, AmoOperand.ok] at h
  simp [fMaj_packM, fMin_packM, guardOf_packM, fD_packM, srcA_packM, srcB_packM, fSC_packM, fAR_packM, fLD_packM,
    fOff26_packM, fA_packM, fLA_packM, fB_packM, fLB_packM, need, form, withField, zeroM, decode, decodeAtomic,
    relOf_code, relCode_high, fnumOf_code, fcvtCode_from, fcvtCode_high, kregOf_code, kregNumber_fits,
    predField_low, predField_high, precOf_code, AmoOperand.ok, amoOf, MemOp.ok, AmoOperand.ok, h]

theorem Encoding.amoMinz64 (g : Guard) (d : Reg) (b : Src) (m : AmoOperand) :
    Encoding.Statement (.amoMinz64 g d b m) := by
  intro h w e
  cases e
  obtain ⟨ma, mo, mar, msc⟩ := m
  simp only [wf, Bool.and_eq_true, MemOp.ok, AmoOperand.ok] at h
  simp [fMaj_packM, fMin_packM, guardOf_packM, fD_packM, srcA_packM, srcB_packM, fSC_packM, fAR_packM, fLD_packM,
    fOff26_packM, fA_packM, fLA_packM, fB_packM, fLB_packM, need, form, withField, zeroM, decode, decodeAtomic,
    relOf_code, relCode_high, fnumOf_code, fcvtCode_from, fcvtCode_high, kregOf_code, kregNumber_fits,
    predField_low, predField_high, precOf_code, AmoOperand.ok, amoOf, MemOp.ok, AmoOperand.ok, h]

theorem Encoding.amoMaxz64 (g : Guard) (d : Reg) (b : Src) (m : AmoOperand) :
    Encoding.Statement (.amoMaxz64 g d b m) := by
  intro h w e
  cases e
  obtain ⟨ma, mo, mar, msc⟩ := m
  simp only [wf, Bool.and_eq_true, MemOp.ok, AmoOperand.ok] at h
  simp [fMaj_packM, fMin_packM, guardOf_packM, fD_packM, srcA_packM, srcB_packM, fSC_packM, fAR_packM, fLD_packM,
    fOff26_packM, fA_packM, fLA_packM, fB_packM, fLB_packM, need, form, withField, zeroM, decode, decodeAtomic,
    relOf_code, relCode_high, fnumOf_code, fcvtCode_from, fcvtCode_high, kregOf_code, kregNumber_fits,
    predField_low, predField_high, precOf_code, AmoOperand.ok, amoOf, MemOp.ok, AmoOperand.ok, h]

theorem Encoding.amoAnd64 (g : Guard) (d : Reg) (b : Src) (m : AmoOperand) :
    Encoding.Statement (.amoAnd64 g d b m) := by
  intro h w e
  cases e
  obtain ⟨ma, mo, mar, msc⟩ := m
  simp only [wf, Bool.and_eq_true, MemOp.ok, AmoOperand.ok] at h
  simp [fMaj_packM, fMin_packM, guardOf_packM, fD_packM, srcA_packM, srcB_packM, fSC_packM, fAR_packM, fLD_packM,
    fOff26_packM, fA_packM, fLA_packM, fB_packM, fLB_packM, need, form, withField, zeroM, decode, decodeAtomic,
    relOf_code, relCode_high, fnumOf_code, fcvtCode_from, fcvtCode_high, kregOf_code, kregNumber_fits,
    predField_low, predField_high, precOf_code, AmoOperand.ok, amoOf, MemOp.ok, AmoOperand.ok, h]

theorem Encoding.amoOr64 (g : Guard) (d : Reg) (b : Src) (m : AmoOperand) :
    Encoding.Statement (.amoOr64 g d b m) := by
  intro h w e
  cases e
  obtain ⟨ma, mo, mar, msc⟩ := m
  simp only [wf, Bool.and_eq_true, MemOp.ok, AmoOperand.ok] at h
  simp [fMaj_packM, fMin_packM, guardOf_packM, fD_packM, srcA_packM, srcB_packM, fSC_packM, fAR_packM, fLD_packM,
    fOff26_packM, fA_packM, fLA_packM, fB_packM, fLB_packM, need, form, withField, zeroM, decode, decodeAtomic,
    relOf_code, relCode_high, fnumOf_code, fcvtCode_from, fcvtCode_high, kregOf_code, kregNumber_fits,
    predField_low, predField_high, precOf_code, AmoOperand.ok, amoOf, MemOp.ok, AmoOperand.ok, h]

theorem Encoding.amoXor64 (g : Guard) (d : Reg) (b : Src) (m : AmoOperand) :
    Encoding.Statement (.amoXor64 g d b m) := by
  intro h w e
  cases e
  obtain ⟨ma, mo, mar, msc⟩ := m
  simp only [wf, Bool.and_eq_true, MemOp.ok, AmoOperand.ok] at h
  simp [fMaj_packM, fMin_packM, guardOf_packM, fD_packM, srcA_packM, srcB_packM, fSC_packM, fAR_packM, fLD_packM,
    fOff26_packM, fA_packM, fLA_packM, fB_packM, fLB_packM, need, form, withField, zeroM, decode, decodeAtomic,
    relOf_code, relCode_high, fnumOf_code, fcvtCode_from, fcvtCode_high, kregOf_code, kregNumber_fits,
    predField_low, predField_high, precOf_code, AmoOperand.ok, amoOf, MemOp.ok, AmoOperand.ok, h]

theorem Encoding.amoSwap64 (g : Guard) (d : Reg) (b : Src) (m : AmoOperand) :
    Encoding.Statement (.amoSwap64 g d b m) := by
  intro h w e
  cases e
  obtain ⟨ma, mo, mar, msc⟩ := m
  simp only [wf, Bool.and_eq_true, MemOp.ok, AmoOperand.ok] at h
  simp [fMaj_packM, fMin_packM, guardOf_packM, fD_packM, srcA_packM, srcB_packM, fSC_packM, fAR_packM, fLD_packM,
    fOff26_packM, fA_packM, fLA_packM, fB_packM, fLB_packM, need, form, withField, zeroM, decode, decodeAtomic,
    relOf_code, relCode_high, fnumOf_code, fcvtCode_from, fcvtCode_high, kregOf_code, kregNumber_fits,
    predField_low, predField_high, precOf_code, AmoOperand.ok, amoOf, MemOp.ok, AmoOperand.ok, h]

theorem Encoding.amoCas64 (g : Guard) (d : Reg) (b : Src) (m : AmoOperand) :
    Encoding.Statement (.amoCas64 g d b m) := by
  intro h w e
  cases e
  obtain ⟨ma, mo, mar, msc⟩ := m
  simp only [wf, Bool.and_eq_true, MemOp.ok, AmoOperand.ok] at h
  simp [fMaj_packM, fMin_packM, guardOf_packM, fD_packM, srcA_packM, srcB_packM, fSC_packM, fAR_packM, fLD_packM,
    fOff26_packM, fA_packM, fLA_packM, fB_packM, fLB_packM, need, form, withField, zeroM, decode, decodeAtomic,
    relOf_code, relCode_high, fnumOf_code, fcvtCode_from, fcvtCode_high, kregOf_code, kregNumber_fits,
    predField_low, predField_high, precOf_code, AmoOperand.ok, amoOf, MemOp.ok, AmoOperand.ok, h]

theorem Encoding.amoFadd64 (g : Guard) (d : Reg) (b : Src) (m : AmoOperand) :
    Encoding.Statement (.amoFadd64 g d b m) := by
  intro h w e
  cases e
  obtain ⟨ma, mo, mar, msc⟩ := m
  simp only [wf, Bool.and_eq_true, MemOp.ok, AmoOperand.ok] at h
  simp [fMaj_packM, fMin_packM, guardOf_packM, fD_packM, srcA_packM, srcB_packM, fSC_packM, fAR_packM, fLD_packM,
    fOff26_packM, fA_packM, fLA_packM, fB_packM, fLB_packM, need, form, withField, zeroM, decode, decodeAtomic,
    relOf_code, relCode_high, fnumOf_code, fcvtCode_from, fcvtCode_high, kregOf_code, kregNumber_fits,
    predField_low, predField_high, precOf_code, AmoOperand.ok, amoOf, MemOp.ok, AmoOperand.ok, h]

theorem Encoding.amoAdd32 (g : Guard) (d : Reg) (b : Src) (m : AmoOperand) :
    Encoding.Statement (.amoAdd32 g d b m) := by
  intro h w e
  cases e
  obtain ⟨ma, mo, mar, msc⟩ := m
  simp only [wf, Bool.and_eq_true, MemOp.ok, AmoOperand.ok] at h
  simp [fMaj_packM, fMin_packM, guardOf_packM, fD_packM, srcA_packM, srcB_packM, fSC_packM, fAR_packM, fLD_packM,
    fOff26_packM, fA_packM, fLA_packM, fB_packM, fLB_packM, need, form, withField, zeroM, decode, decodeAtomic,
    relOf_code, relCode_high, fnumOf_code, fcvtCode_from, fcvtCode_high, kregOf_code, kregNumber_fits,
    predField_low, predField_high, precOf_code, AmoOperand.ok, amoOf, MemOp.ok, AmoOperand.ok, h]

theorem Encoding.amoMin32 (g : Guard) (d : Reg) (b : Src) (m : AmoOperand) :
    Encoding.Statement (.amoMin32 g d b m) := by
  intro h w e
  cases e
  obtain ⟨ma, mo, mar, msc⟩ := m
  simp only [wf, Bool.and_eq_true, MemOp.ok, AmoOperand.ok] at h
  simp [fMaj_packM, fMin_packM, guardOf_packM, fD_packM, srcA_packM, srcB_packM, fSC_packM, fAR_packM, fLD_packM,
    fOff26_packM, fA_packM, fLA_packM, fB_packM, fLB_packM, need, form, withField, zeroM, decode, decodeAtomic,
    relOf_code, relCode_high, fnumOf_code, fcvtCode_from, fcvtCode_high, kregOf_code, kregNumber_fits,
    predField_low, predField_high, precOf_code, AmoOperand.ok, amoOf, MemOp.ok, AmoOperand.ok, h]

theorem Encoding.amoMax32 (g : Guard) (d : Reg) (b : Src) (m : AmoOperand) :
    Encoding.Statement (.amoMax32 g d b m) := by
  intro h w e
  cases e
  obtain ⟨ma, mo, mar, msc⟩ := m
  simp only [wf, Bool.and_eq_true, MemOp.ok, AmoOperand.ok] at h
  simp [fMaj_packM, fMin_packM, guardOf_packM, fD_packM, srcA_packM, srcB_packM, fSC_packM, fAR_packM, fLD_packM,
    fOff26_packM, fA_packM, fLA_packM, fB_packM, fLB_packM, need, form, withField, zeroM, decode, decodeAtomic,
    relOf_code, relCode_high, fnumOf_code, fcvtCode_from, fcvtCode_high, kregOf_code, kregNumber_fits,
    predField_low, predField_high, precOf_code, AmoOperand.ok, amoOf, MemOp.ok, AmoOperand.ok, h]

theorem Encoding.amoMinz32 (g : Guard) (d : Reg) (b : Src) (m : AmoOperand) :
    Encoding.Statement (.amoMinz32 g d b m) := by
  intro h w e
  cases e
  obtain ⟨ma, mo, mar, msc⟩ := m
  simp only [wf, Bool.and_eq_true, MemOp.ok, AmoOperand.ok] at h
  simp [fMaj_packM, fMin_packM, guardOf_packM, fD_packM, srcA_packM, srcB_packM, fSC_packM, fAR_packM, fLD_packM,
    fOff26_packM, fA_packM, fLA_packM, fB_packM, fLB_packM, need, form, withField, zeroM, decode, decodeAtomic,
    relOf_code, relCode_high, fnumOf_code, fcvtCode_from, fcvtCode_high, kregOf_code, kregNumber_fits,
    predField_low, predField_high, precOf_code, AmoOperand.ok, amoOf, MemOp.ok, AmoOperand.ok, h]

theorem Encoding.amoMaxz32 (g : Guard) (d : Reg) (b : Src) (m : AmoOperand) :
    Encoding.Statement (.amoMaxz32 g d b m) := by
  intro h w e
  cases e
  obtain ⟨ma, mo, mar, msc⟩ := m
  simp only [wf, Bool.and_eq_true, MemOp.ok, AmoOperand.ok] at h
  simp [fMaj_packM, fMin_packM, guardOf_packM, fD_packM, srcA_packM, srcB_packM, fSC_packM, fAR_packM, fLD_packM,
    fOff26_packM, fA_packM, fLA_packM, fB_packM, fLB_packM, need, form, withField, zeroM, decode, decodeAtomic,
    relOf_code, relCode_high, fnumOf_code, fcvtCode_from, fcvtCode_high, kregOf_code, kregNumber_fits,
    predField_low, predField_high, precOf_code, AmoOperand.ok, amoOf, MemOp.ok, AmoOperand.ok, h]

theorem Encoding.amoAnd32 (g : Guard) (d : Reg) (b : Src) (m : AmoOperand) :
    Encoding.Statement (.amoAnd32 g d b m) := by
  intro h w e
  cases e
  obtain ⟨ma, mo, mar, msc⟩ := m
  simp only [wf, Bool.and_eq_true, MemOp.ok, AmoOperand.ok] at h
  simp [fMaj_packM, fMin_packM, guardOf_packM, fD_packM, srcA_packM, srcB_packM, fSC_packM, fAR_packM, fLD_packM,
    fOff26_packM, fA_packM, fLA_packM, fB_packM, fLB_packM, need, form, withField, zeroM, decode, decodeAtomic,
    relOf_code, relCode_high, fnumOf_code, fcvtCode_from, fcvtCode_high, kregOf_code, kregNumber_fits,
    predField_low, predField_high, precOf_code, AmoOperand.ok, amoOf, MemOp.ok, AmoOperand.ok, h]

theorem Encoding.amoOr32 (g : Guard) (d : Reg) (b : Src) (m : AmoOperand) :
    Encoding.Statement (.amoOr32 g d b m) := by
  intro h w e
  cases e
  obtain ⟨ma, mo, mar, msc⟩ := m
  simp only [wf, Bool.and_eq_true, MemOp.ok, AmoOperand.ok] at h
  simp [fMaj_packM, fMin_packM, guardOf_packM, fD_packM, srcA_packM, srcB_packM, fSC_packM, fAR_packM, fLD_packM,
    fOff26_packM, fA_packM, fLA_packM, fB_packM, fLB_packM, need, form, withField, zeroM, decode, decodeAtomic,
    relOf_code, relCode_high, fnumOf_code, fcvtCode_from, fcvtCode_high, kregOf_code, kregNumber_fits,
    predField_low, predField_high, precOf_code, AmoOperand.ok, amoOf, MemOp.ok, AmoOperand.ok, h]

theorem Encoding.amoXor32 (g : Guard) (d : Reg) (b : Src) (m : AmoOperand) :
    Encoding.Statement (.amoXor32 g d b m) := by
  intro h w e
  cases e
  obtain ⟨ma, mo, mar, msc⟩ := m
  simp only [wf, Bool.and_eq_true, MemOp.ok, AmoOperand.ok] at h
  simp [fMaj_packM, fMin_packM, guardOf_packM, fD_packM, srcA_packM, srcB_packM, fSC_packM, fAR_packM, fLD_packM,
    fOff26_packM, fA_packM, fLA_packM, fB_packM, fLB_packM, need, form, withField, zeroM, decode, decodeAtomic,
    relOf_code, relCode_high, fnumOf_code, fcvtCode_from, fcvtCode_high, kregOf_code, kregNumber_fits,
    predField_low, predField_high, precOf_code, AmoOperand.ok, amoOf, MemOp.ok, AmoOperand.ok, h]

theorem Encoding.amoSwap32 (g : Guard) (d : Reg) (b : Src) (m : AmoOperand) :
    Encoding.Statement (.amoSwap32 g d b m) := by
  intro h w e
  cases e
  obtain ⟨ma, mo, mar, msc⟩ := m
  simp only [wf, Bool.and_eq_true, MemOp.ok, AmoOperand.ok] at h
  simp [fMaj_packM, fMin_packM, guardOf_packM, fD_packM, srcA_packM, srcB_packM, fSC_packM, fAR_packM, fLD_packM,
    fOff26_packM, fA_packM, fLA_packM, fB_packM, fLB_packM, need, form, withField, zeroM, decode, decodeAtomic,
    relOf_code, relCode_high, fnumOf_code, fcvtCode_from, fcvtCode_high, kregOf_code, kregNumber_fits,
    predField_low, predField_high, precOf_code, AmoOperand.ok, amoOf, MemOp.ok, AmoOperand.ok, h]

theorem Encoding.amoCas32 (g : Guard) (d : Reg) (b : Src) (m : AmoOperand) :
    Encoding.Statement (.amoCas32 g d b m) := by
  intro h w e
  cases e
  obtain ⟨ma, mo, mar, msc⟩ := m
  simp only [wf, Bool.and_eq_true, MemOp.ok, AmoOperand.ok] at h
  simp [fMaj_packM, fMin_packM, guardOf_packM, fD_packM, srcA_packM, srcB_packM, fSC_packM, fAR_packM, fLD_packM,
    fOff26_packM, fA_packM, fLA_packM, fB_packM, fLB_packM, need, form, withField, zeroM, decode, decodeAtomic,
    relOf_code, relCode_high, fnumOf_code, fcvtCode_from, fcvtCode_high, kregOf_code, kregNumber_fits,
    predField_low, predField_high, precOf_code, AmoOperand.ok, amoOf, MemOp.ok, AmoOperand.ok, h]

theorem Encoding.amoFadd32 (g : Guard) (d : Reg) (b : Src) (m : AmoOperand) :
    Encoding.Statement (.amoFadd32 g d b m) := by
  intro h w e
  cases e
  obtain ⟨ma, mo, mar, msc⟩ := m
  simp only [wf, Bool.and_eq_true, MemOp.ok, AmoOperand.ok] at h
  simp [fMaj_packM, fMin_packM, guardOf_packM, fD_packM, srcA_packM, srcB_packM, fSC_packM, fAR_packM, fLD_packM,
    fOff26_packM, fA_packM, fLA_packM, fB_packM, fLB_packM, need, form, withField, zeroM, decode, decodeAtomic,
    relOf_code, relCode_high, fnumOf_code, fcvtCode_from, fcvtCode_high, kregOf_code, kregNumber_fits,
    predField_low, predField_high, precOf_code, AmoOperand.ok, amoOf, MemOp.ok, AmoOperand.ok, h]

theorem Encoding.fence (g : Guard) (sc : BitVec 3) :
    Encoding.Statement (.fence g sc) := by
  intro h w e
  cases e
  simp only [wf, Bool.and_eq_true] at h
  simp [fMaj_packM, fMin_packM, guardOf_packM, fD_packM, srcA_packM, srcB_packM, fSC_packM, fAR_packM, fLD_packM,
    fOff26_packM, fA_packM, fLA_packM, fB_packM, fLB_packM, need, form, withField, zeroM, decode, decodeFence,
    relOf_code, relCode_high, fnumOf_code, fcvtCode_from, fcvtCode_high, kregOf_code, kregNumber_fits,
    predField_low, predField_high, precOf_code, h]

theorem Encoding.fenceX (g : Guard) (sc : BitVec 3) :
    Encoding.Statement (.fenceX g sc) := by
  intro h w e
  cases e
  simp only [wf, Bool.and_eq_true] at h
  simp [fMaj_packM, fMin_packM, guardOf_packM, fD_packM, srcA_packM, srcB_packM, fSC_packM, fAR_packM, fLD_packM,
    fOff26_packM, fA_packM, fLA_packM, fB_packM, fLB_packM, need, form, withField, zeroM, decode, decodeFence,
    relOf_code, relCode_high, fnumOf_code, fcvtCode_from, fcvtCode_high, kregOf_code, kregNumber_fits,
    predField_low, predField_high, precOf_code, h]

theorem Encoding.fenceCfg (g : Guard) :
    Encoding.Statement (.fenceCfg g) := by
  intro h w e
  cases e
  simp only [wf, Bool.and_eq_true] at h
  simp [fMaj_packM, fMin_packM, guardOf_packM, fD_packM, srcA_packM, srcB_packM, fSC_packM, fAR_packM, fLD_packM,
    fOff26_packM, fA_packM, fLA_packM, fB_packM, fLB_packM, need, form, withField, zeroM, decode, decodeFence,
    relOf_code, relCode_high, fnumOf_code, fcvtCode_from, fcvtCode_high, kregOf_code, kregNumber_fits,
    predField_low, predField_high, precOf_code, h]

theorem Encoding.krd (g : Guard) (d : Reg) (k : KReg) :
    Encoding.Statement (.krd g d k) := by
  intro h w e
  cases e
  have fit := kreg_fits k
  simp only [wf, Bool.and_eq_true] at h
  simp [fMaj_packI, fMin_packI, guardOf_packI, fD_packI, srcA_packI, fImm37_packI, fA_packI, fLA_packI, need, form,
    withField, zeroI, decode, decodeKreg, relOf_code, relCode_high, fnumOf_code, fcvtCode_from, fcvtCode_high,
    kregOf_code, kregNumber_fits, predField_low, predField_high, precOf_code, immFits, fit, h]

theorem Encoding.kwr (g : Guard) (k : KReg) (a : Src) :
    Encoding.Statement (.kwr g k a) := by
  intro h w e
  cases e
  have fit := kreg_fits k
  simp only [wf, Bool.and_eq_true] at h
  simp [fMaj_packI, fMin_packI, guardOf_packI, fD_packI, srcA_packI, fImm37_packI, fA_packI, fLA_packI, need, form,
    withField, zeroI, decode, decodeKreg, relOf_code, relCode_high, fnumOf_code, fcvtCode_from, fcvtCode_high,
    kregOf_code, kregNumber_fits, predField_low, predField_high, precOf_code, immFits, fit, h]

theorem Encoding.kset (g : Guard) (k : KReg) (a : Src) :
    Encoding.Statement (.kset g k a) := by
  intro h w e
  cases e
  have fit := kreg_fits k
  simp only [wf, Bool.and_eq_true] at h
  simp [fMaj_packI, fMin_packI, guardOf_packI, fD_packI, srcA_packI, fImm37_packI, fA_packI, fLA_packI, need, form,
    withField, zeroI, decode, decodeKreg, relOf_code, relCode_high, fnumOf_code, fcvtCode_from, fcvtCode_high,
    kregOf_code, kregNumber_fits, predField_low, predField_high, precOf_code, immFits, fit, h]

theorem Encoding.kclr (g : Guard) (k : KReg) (a : Src) :
    Encoding.Statement (.kclr g k a) := by
  intro h w e
  cases e
  have fit := kreg_fits k
  simp only [wf, Bool.and_eq_true] at h
  simp [fMaj_packI, fMin_packI, guardOf_packI, fD_packI, srcA_packI, fImm37_packI, fA_packI, fLA_packI, need, form,
    withField, zeroI, decode, decodeKreg, relOf_code, relCode_high, fnumOf_code, fcvtCode_from, fcvtCode_high,
    kregOf_code, kregNumber_fits, predField_low, predField_high, precOf_code, immFits, fit, h]

theorem Encoding.fadd (g : Guard) (f : Prec) (d : Reg) (a : Src) (b : Src) :
    Encoding.Statement (.fadd g f d a b) := by
  intro h w e
  cases e
  simp only [wf, Bool.and_eq_true] at h
  simp [fMaj_packR, fMin_packR, guardOf_packR, fD_packR, srcA_packR, srcB_packR, srcC_packR, fSZ_packR, fLow_packR,
    fA_packR, fLA_packR, fB_packR, fLB_packR, fC_packR, fLC_packR, need, form, withField, zeroR, decode, decodeFp,
    relOf_code, relCode_high, fnumOf_code, fcvtCode_from, fcvtCode_high, kregOf_code, kregNumber_fits,
    predField_low, predField_high, precOf_code, h]

theorem Encoding.fsub (g : Guard) (f : Prec) (d : Reg) (a : Src) (b : Src) :
    Encoding.Statement (.fsub g f d a b) := by
  intro h w e
  cases e
  simp only [wf, Bool.and_eq_true] at h
  simp [fMaj_packR, fMin_packR, guardOf_packR, fD_packR, srcA_packR, srcB_packR, srcC_packR, fSZ_packR, fLow_packR,
    fA_packR, fLA_packR, fB_packR, fLB_packR, fC_packR, fLC_packR, need, form, withField, zeroR, decode, decodeFp,
    relOf_code, relCode_high, fnumOf_code, fcvtCode_from, fcvtCode_high, kregOf_code, kregNumber_fits,
    predField_low, predField_high, precOf_code, h]

theorem Encoding.fmul (g : Guard) (f : Prec) (d : Reg) (a : Src) (b : Src) :
    Encoding.Statement (.fmul g f d a b) := by
  intro h w e
  cases e
  simp only [wf, Bool.and_eq_true] at h
  simp [fMaj_packR, fMin_packR, guardOf_packR, fD_packR, srcA_packR, srcB_packR, srcC_packR, fSZ_packR, fLow_packR,
    fA_packR, fLA_packR, fB_packR, fLB_packR, fC_packR, fLC_packR, need, form, withField, zeroR, decode, decodeFp,
    relOf_code, relCode_high, fnumOf_code, fcvtCode_from, fcvtCode_high, kregOf_code, kregNumber_fits,
    predField_low, predField_high, precOf_code, h]

theorem Encoding.fdiv (g : Guard) (f : Prec) (d : Reg) (a : Src) (b : Src) :
    Encoding.Statement (.fdiv g f d a b) := by
  intro h w e
  cases e
  simp only [wf, Bool.and_eq_true] at h
  simp [fMaj_packR, fMin_packR, guardOf_packR, fD_packR, srcA_packR, srcB_packR, srcC_packR, fSZ_packR, fLow_packR,
    fA_packR, fLA_packR, fB_packR, fLB_packR, fC_packR, fLC_packR, need, form, withField, zeroR, decode, decodeFp,
    relOf_code, relCode_high, fnumOf_code, fcvtCode_from, fcvtCode_high, kregOf_code, kregNumber_fits,
    predField_low, predField_high, precOf_code, h]

theorem Encoding.fsqrt (g : Guard) (f : Prec) (d : Reg) (a : Src) :
    Encoding.Statement (.fsqrt g f d a) := by
  intro h w e
  cases e
  simp only [wf, Bool.and_eq_true] at h
  simp [fMaj_packR, fMin_packR, guardOf_packR, fD_packR, srcA_packR, srcB_packR, srcC_packR, fSZ_packR, fLow_packR,
    fA_packR, fLA_packR, fB_packR, fLB_packR, fC_packR, fLC_packR, need, form, withField, zeroR, decode, decodeFp,
    relOf_code, relCode_high, fnumOf_code, fcvtCode_from, fcvtCode_high, kregOf_code, kregNumber_fits,
    predField_low, predField_high, precOf_code, h]

theorem Encoding.ffma (g : Guard) (f : Prec) (d : Reg) (a : Src) (b : Src) (c : Src) :
    Encoding.Statement (.ffma g f d a b c) := by
  intro h w e
  cases e
  simp only [wf, Bool.and_eq_true] at h
  simp [fMaj_packR, fMin_packR, guardOf_packR, fD_packR, srcA_packR, srcB_packR, srcC_packR, fSZ_packR, fLow_packR,
    fA_packR, fLA_packR, fB_packR, fLB_packR, fC_packR, fLC_packR, need, form, withField, zeroR, decode, decodeFp,
    relOf_code, relCode_high, fnumOf_code, fcvtCode_from, fcvtCode_high, kregOf_code, kregNumber_fits,
    predField_low, predField_high, precOf_code, h]

theorem Encoding.fmin (g : Guard) (f : Prec) (d : Reg) (a : Src) (b : Src) :
    Encoding.Statement (.fmin g f d a b) := by
  intro h w e
  cases e
  simp only [wf, Bool.and_eq_true] at h
  simp [fMaj_packR, fMin_packR, guardOf_packR, fD_packR, srcA_packR, srcB_packR, srcC_packR, fSZ_packR, fLow_packR,
    fA_packR, fLA_packR, fB_packR, fLB_packR, fC_packR, fLC_packR, need, form, withField, zeroR, decode, decodeFp,
    relOf_code, relCode_high, fnumOf_code, fcvtCode_from, fcvtCode_high, kregOf_code, kregNumber_fits,
    predField_low, predField_high, precOf_code, h]

theorem Encoding.fmax (g : Guard) (f : Prec) (d : Reg) (a : Src) (b : Src) :
    Encoding.Statement (.fmax g f d a b) := by
  intro h w e
  cases e
  simp only [wf, Bool.and_eq_true] at h
  simp [fMaj_packR, fMin_packR, guardOf_packR, fD_packR, srcA_packR, srcB_packR, srcC_packR, fSZ_packR, fLow_packR,
    fA_packR, fLA_packR, fB_packR, fLB_packR, fC_packR, fLC_packR, need, form, withField, zeroR, decode, decodeFp,
    relOf_code, relCode_high, fnumOf_code, fcvtCode_from, fcvtCode_high, kregOf_code, kregNumber_fits,
    predField_low, predField_high, precOf_code, h]

theorem Encoding.fcmp (g : Guard) (f : Prec) (rel : FRel) (d : PReg) (a : Src) (b : Src) :
    Encoding.Statement (.fcmp g f rel d a b) := by
  intro h w e
  cases e
  simp only [wf, Bool.and_eq_true] at h
  simp [fMaj_packR, fMin_packR, guardOf_packR, fD_packR, srcA_packR, srcB_packR, srcC_packR, fSZ_packR, fLow_packR,
    fA_packR, fLA_packR, fB_packR, fLB_packR, fC_packR, fLC_packR, need, form, withField, zeroR, decode, decodeFp,
    relOf_code, relCode_high, fnumOf_code, fcvtCode_from, fcvtCode_high, kregOf_code, kregNumber_fits,
    predField_low, predField_high, precOf_code, predOkD, predD, h]

theorem Encoding.fcvt (g : Guard) (f : Prec) (fromInt : Bool) (n : FNum) (d : Reg) (a : Src) :
    Encoding.Statement (.fcvt g f fromInt n d a) := by
  intro h w e
  cases e
  simp only [wf, Bool.and_eq_true] at h
  simp [fMaj_packR, fMin_packR, guardOf_packR, fD_packR, srcA_packR, srcB_packR, srcC_packR, fSZ_packR, fLow_packR,
    fA_packR, fLA_packR, fB_packR, fLB_packR, fC_packR, fLC_packR, need, form, withField, zeroR, decode, decodeFp,
    relOf_code, relCode_high, fnumOf_code, fcvtCode_from, fcvtCode_high, kregOf_code, kregNumber_fits,
    predField_low, predField_high, precOf_code, fcvt_from', fcvt_high', h]

theorem Encoding.fclass (g : Guard) (f : Prec) (d : Reg) (a : Src) :
    Encoding.Statement (.fclass g f d a) := by
  intro h w e
  cases e
  simp only [wf, Bool.and_eq_true] at h
  simp [fMaj_packR, fMin_packR, guardOf_packR, fD_packR, srcA_packR, srcB_packR, srcC_packR, fSZ_packR, fLow_packR,
    fA_packR, fLA_packR, fB_packR, fLB_packR, fC_packR, fLC_packR, need, form, withField, zeroR, decode, decodeFp,
    relOf_code, relCode_high, fnumOf_code, fcvtCode_from, fcvtCode_high, kregOf_code, kregNumber_fits,
    predField_low, predField_high, precOf_code, h]

theorem Encoding.cfgFetch (g : Guard) (d : Reg) (u : CfgUnit) (a : Src) :
    Encoding.Statement (.cfgFetch g d u a) := by
  intro h w e
  cases e
  simp only [wf, Bool.and_eq_true] at h
  simp [fMaj_packX, fMin_packX, guardOf_packX, fD_packX, srcA_packX, srcB_packX, srcC_packX, fH_packX,
    fImm16_packX, fA_packX, fLA_packX, fB_packX, fLB_packX, fC_packX, fLC_packX, need, form, withField, zeroX,
    decode, decodeCfg, relOf_code, relCode_high, fnumOf_code, fcvtCode_from, fcvtCode_high, kregOf_code,
    kregNumber_fits, predField_low, predField_high, precOf_code, cfgUnitOf_code, h]

theorem Encoding.cfgLoad (g : Guard) (d : Reg) (u : CfgUnit) (a : Src) :
    Encoding.Statement (.cfgLoad g d u a) := by
  intro h w e
  cases e
  simp only [wf, Bool.and_eq_true] at h
  simp [fMaj_packX, fMin_packX, guardOf_packX, fD_packX, srcA_packX, srcB_packX, srcC_packX, fH_packX,
    fImm16_packX, fA_packX, fLA_packX, fB_packX, fLB_packX, fC_packX, fLC_packX, need, form, withField, zeroX,
    decode, decodeCfg, relOf_code, relCode_high, fnumOf_code, fcvtCode_from, fcvtCode_high, kregOf_code,
    kregNumber_fits, predField_low, predField_high, precOf_code, cfgUnitOf_code, h]

theorem Encoding.cfgEvict (g : Guard) (d : Reg) (u : CfgUnit) (a : Src) (mode : BitVec 2) (tag : BitVec 8) :
    Encoding.Statement (.cfgEvict g d u a mode tag) := by
  intro h w e
  cases e
  have fit := pair_fits (k := 65536) mode tag
  simp only [wf, Bool.and_eq_true] at h
  simp [fMaj_packX, fMin_packX, guardOf_packX, fD_packX, srcA_packX, srcB_packX, srcC_packX, fH_packX,
    fImm16_packX, fA_packX, fLA_packX, fB_packX, fLB_packX, fC_packX, fLC_packX, need, form, withField, zeroX,
    decode, decodeCfg, relOf_code, relCode_high, fnumOf_code, fcvtCode_from, fcvtCode_high, kregOf_code,
    kregNumber_fits, predField_low, predField_high, precOf_code, fit, pair_high mode tag (by decide : 2 + 8 ≤ 16),
    pair_low mode tag (by decide : 2 + 8 ≤ 16), cfgUnitOf_code, h] <;> exact fit

theorem Encoding.cfgInband (g : Guard) (d : Reg) (ag : Fin 4) (a : Src) :
    Encoding.Statement (.cfgInband g d ag a) := by
  intro h w e
  cases e
  simp only [wf, Bool.and_eq_true] at h
  simp [fMaj_packX, fMin_packX, guardOf_packX, fD_packX, srcA_packX, srcB_packX, srcC_packX, fH_packX,
    fImm16_packX, fA_packX, fLA_packX, fB_packX, fLB_packX, fC_packX, fLC_packX, need, form, withField, zeroX,
    decode, decodeCfg, relOf_code, relCode_high, fnumOf_code, fcvtCode_from, fcvtCode_high, kregOf_code,
    kregNumber_fits, predField_low, predField_high, precOf_code, handleOf_code ag, h]

theorem Encoding.cfgProbe (g : Guard) (d : Reg) (u : CfgUnit) (sel : BitVec 7) :
    Encoding.Statement (.cfgProbe g d u sel) := by
  intro h w e
  cases e
  have fit : sel.toNat % 65536 < 128 := by have := sel.isLt; omega
  simp only [wf, Bool.and_eq_true] at h
  simp [fMaj_packX, fMin_packX, guardOf_packX, fD_packX, srcA_packX, srcB_packX, srcC_packX, fH_packX,
    fImm16_packX, fA_packX, fLA_packX, fB_packX, fLB_packX, fC_packX, fLC_packX, need, form, withField, zeroX,
    decode, decodeCfg, relOf_code, relCode_high, fnumOf_code, fcvtCode_from, fcvtCode_high, kregOf_code,
    kregNumber_fits, predField_low, predField_high, precOf_code, fit, extract_setWidth_eq sel (by decide : 7 ≤ 16),
    cfgUnitOf_code, h]

theorem Encoding.cfgTag (g : Guard) (d : Reg) (tag : BitVec 8) :
    Encoding.Statement (.cfgTag g d tag) := by
  intro h w e
  cases e
  have fit : tag.toNat % 65536 < 256 := by have := tag.isLt; omega
  simp only [wf, Bool.and_eq_true] at h
  simp [fMaj_packX, fMin_packX, guardOf_packX, fD_packX, srcA_packX, srcB_packX, srcC_packX, fH_packX,
    fImm16_packX, fA_packX, fLA_packX, fB_packX, fLB_packX, fC_packX, fLC_packX, need, form, withField, zeroX,
    decode, decodeCfg, relOf_code, relCode_high, fnumOf_code, fcvtCode_from, fcvtCode_high, kregOf_code,
    kregNumber_fits, predField_low, predField_high, precOf_code, fit, extract_setWidth_eq tag (by decide : 8 ≤ 16),
    h]

theorem Encoding.strmRd (g : Guard) (d : Reg) (ag : Fin 4) (a : Src) (b : Src) (c : Src) (slot : Fin 4) (defer :
    Bool) :
    Encoding.Statement (.strmRd g d ag a b c slot defer) := by
  intro h w e
  cases e
  simp only [wf, Bool.and_eq_true] at h
  simp [fMaj_packX, fMin_packX, guardOf_packX, fD_packX, srcA_packX, srcB_packX, srcC_packX, fH_packX,
    fImm16_packX, fA_packX, fLA_packX, fB_packX, fLB_packX, fC_packX, fLC_packX, need, form, withField, zeroX,
    decode, decodeStrm, relOf_code, relCode_high, fnumOf_code, fcvtCode_from, fcvtCode_high, kregOf_code,
    kregNumber_fits, predField_low, predField_high, precOf_code, slot_fits, slot_low, slot_high, handleOf_code ag,
    h] <;> exact slot_low defer slot

theorem Encoding.strmWr (g : Guard) (d : Reg) (ag : Fin 4) (a : Src) (b : Src) (c : Src) (slot : Fin 4) (defer :
    Bool) :
    Encoding.Statement (.strmWr g d ag a b c slot defer) := by
  intro h w e
  cases e
  simp only [wf, Bool.and_eq_true] at h
  simp [fMaj_packX, fMin_packX, guardOf_packX, fD_packX, srcA_packX, srcB_packX, srcC_packX, fH_packX,
    fImm16_packX, fA_packX, fLA_packX, fB_packX, fLB_packX, fC_packX, fLC_packX, need, form, withField, zeroX,
    decode, decodeStrm, relOf_code, relCode_high, fnumOf_code, fcvtCode_from, fcvtCode_high, kregOf_code,
    kregNumber_fits, predField_low, predField_high, precOf_code, slot_fits, slot_low, slot_high, handleOf_code ag,
    h] <;> exact slot_low defer slot

theorem Encoding.strmInd (g : Guard) (d : Reg) (ag : Fin 4) (a : Src) (b : Src) (c : Src) (slot : Fin 4) (defer :
    Bool) :
    Encoding.Statement (.strmInd g d ag a b c slot defer) := by
  intro h w e
  cases e
  simp only [wf, Bool.and_eq_true] at h
  simp [fMaj_packX, fMin_packX, guardOf_packX, fD_packX, srcA_packX, srcB_packX, srcC_packX, fH_packX,
    fImm16_packX, fA_packX, fLA_packX, fB_packX, fLB_packX, fC_packX, fLC_packX, need, form, withField, zeroX,
    decode, decodeStrm, relOf_code, relCode_high, fnumOf_code, fcvtCode_from, fcvtCode_high, kregOf_code,
    kregNumber_fits, predField_low, predField_high, precOf_code, slot_fits, slot_low, slot_high, handleOf_code ag,
    h] <;> exact slot_low defer slot

theorem Encoding.strmCst (g : Guard) (d : Reg) (ag : Fin 8) (a : Src) (b : Src) (c : Src) (slot : Fin 4) (defer :
    Bool) :
    Encoding.Statement (.strmCst g d ag a b c slot defer) := by
  intro h w e
  cases e
  simp only [wf, Bool.and_eq_true] at h
  simp [fMaj_packX, fMin_packX, guardOf_packX, fD_packX, srcA_packX, srcB_packX, srcC_packX, fH_packX,
    fImm16_packX, fA_packX, fLA_packX, fB_packX, fLB_packX, fC_packX, fLC_packX, need, form, withField, zeroX,
    decode, decodeStrm, relOf_code, relCode_high, fnumOf_code, fcvtCode_from, fcvtCode_high, kregOf_code,
    kregNumber_fits, predField_low, predField_high, precOf_code, slot_fits, slot_low, slot_high, handleOf_code ag,
    h]
  first
  | (intro x
     have r := h.2
     simp only [show ¬ (4 ≤ ag.val) by omega, decide_false, Bool.false_or, beq_iff_eq] at r
     exact r)
  | (have r := h.2
     rw [if_pos (by simpa using r)]
     exact congrArg (fun n => Except.ok (Instr.strmCst g d ag a b c n defer)) (slot_low defer slot))

theorem Encoding.strmRec (g : Guard) (d : Reg) (ag : Fin 8) (a : Src) (b : Src) (c : Src) (slot : Fin 4) (defer :
    Bool) :
    Encoding.Statement (.strmRec g d ag a b c slot defer) := by
  intro h w e
  cases e
  simp only [wf, Bool.and_eq_true] at h
  simp [fMaj_packX, fMin_packX, guardOf_packX, fD_packX, srcA_packX, srcB_packX, srcC_packX, fH_packX,
    fImm16_packX, fA_packX, fLA_packX, fB_packX, fLB_packX, fC_packX, fLC_packX, need, form, withField, zeroX,
    decode, decodeStrm, relOf_code, relCode_high, fnumOf_code, fcvtCode_from, fcvtCode_high, kregOf_code,
    kregNumber_fits, predField_low, predField_high, precOf_code, slot_fits, slot_low, slot_high, handleOf_code ag,
    h] <;> exact slot_low defer slot

theorem Encoding.strmCancel (g : Guard) (d : Reg) (ag : Fin 8) (a : Src) :
    Encoding.Statement (.strmCancel g d ag a) := by
  intro h w e
  cases e
  simp only [wf, Bool.and_eq_true] at h
  simp [fMaj_packX, fMin_packX, guardOf_packX, fD_packX, srcA_packX, srcB_packX, srcC_packX, fH_packX,
    fImm16_packX, fA_packX, fLA_packX, fB_packX, fLB_packX, fC_packX, fLC_packX, need, form, withField, zeroX,
    decode, decodeStrm, relOf_code, relCode_high, fnumOf_code, fcvtCode_from, fcvtCode_high, kregOf_code,
    kregNumber_fits, predField_low, predField_high, precOf_code, handleOf_code ag, h]

theorem Encoding.strmStat (g : Guard) (d : Reg) (ag : Fin 8) (a : Src) :
    Encoding.Statement (.strmStat g d ag a) := by
  intro h w e
  cases e
  simp only [wf, Bool.and_eq_true] at h
  simp [fMaj_packX, fMin_packX, guardOf_packX, fD_packX, srcA_packX, srcB_packX, srcC_packX, fH_packX,
    fImm16_packX, fA_packX, fLA_packX, fB_packX, fLB_packX, fC_packX, fLC_packX, need, form, withField, zeroX,
    decode, decodeStrm, relOf_code, relCode_high, fnumOf_code, fcvtCode_from, fcvtCode_high, kregOf_code,
    kregNumber_fits, predField_low, predField_high, precOf_code, handleOf_code ag, h]

theorem Encoding.barRd (g : Guard) (d : Reg) (u : BarUnit) :
    Encoding.Statement (.barRd g d u) := by
  intro h w e
  cases e
  simp only [wf, Bool.and_eq_true] at h
  simp [fMaj_packX, fMin_packX, guardOf_packX, fD_packX, srcA_packX, srcB_packX, srcC_packX, fH_packX,
    fImm16_packX, fA_packX, fLA_packX, fB_packX, fLB_packX, fC_packX, fLC_packX, need, form, withField, zeroX,
    decode, decodeBar, relOf_code, relCode_high, fnumOf_code, fcvtCode_from, fcvtCode_high, kregOf_code,
    kregNumber_fits, predField_low, predField_high, precOf_code, barUnitOf_code, h]

theorem Encoding.barWr (g : Guard) (d : Reg) (u : BarUnit) :
    Encoding.Statement (.barWr g d u) := by
  intro h w e
  cases e
  simp only [wf, Bool.and_eq_true] at h
  simp [fMaj_packX, fMin_packX, guardOf_packX, fD_packX, srcA_packX, srcB_packX, srcC_packX, fH_packX,
    fImm16_packX, fA_packX, fLA_packX, fB_packX, fLB_packX, fC_packX, fLC_packX, need, form, withField, zeroX,
    decode, decodeBar, relOf_code, relCode_high, fnumOf_code, fcvtCode_from, fcvtCode_high, kregOf_code,
    kregNumber_fits, predField_low, predField_high, precOf_code, barUnitOf_code, h]

theorem Encoding.barCfg (g : Guard) (d : Reg) (u : CfgUnit) (drain : Bool) (tag : BitVec 8) :
    Encoding.Statement (.barCfg g d u drain tag) := by
  intro h w e
  cases e
  have fit := pair_fits (k := 65536) (BitVec.ofBool drain) tag
  simp only [wf, Bool.and_eq_true] at h
  simp [fMaj_packX, fMin_packX, guardOf_packX, fD_packX, srcA_packX, srcB_packX, srcC_packX, fH_packX,
    fImm16_packX, fA_packX, fLA_packX, fB_packX, fLB_packX, fC_packX, fLC_packX, need, form, withField, zeroX,
    decode, decodeBar, relOf_code, relCode_high, fnumOf_code, fcvtCode_from, fcvtCode_high, kregOf_code,
    kregNumber_fits, predField_low, predField_high, precOf_code, fit, drain_high, pair_low (BitVec.ofBool drain)
    tag (by decide : 1 + 8 ≤ 16), cfgUnitOf_code, h]
  first
  | (intro x; subst x; simpa using h.2)
  | (have r := h.2
     rw [if_pos (by simpa using r), if_pos (show _ < 512 from fit)])

theorem Encoding.barAll (g : Guard) (d : Reg) :
    Encoding.Statement (.barAll g d) := by
  intro h w e
  cases e
  simp only [wf, Bool.and_eq_true] at h
  simp [fMaj_packX, fMin_packX, guardOf_packX, fD_packX, srcA_packX, srcB_packX, srcC_packX, fH_packX,
    fImm16_packX, fA_packX, fLA_packX, fB_packX, fLB_packX, fC_packX, fLC_packX, need, form, withField, zeroX,
    decode, decodeBar, relOf_code, relCode_high, fnumOf_code, fcvtCode_from, fcvtCode_high, kregOf_code,
    kregNumber_fits, predField_low, predField_high, precOf_code, h]

theorem Encoding.barIf (g : Guard) (d : Reg) (ag : Fin 8) (a : Src) (cond : BarCond) :
    Encoding.Statement (.barIf g d ag a cond) := by
  intro h w e
  cases e
  simp only [wf, Bool.and_eq_true] at h
  simp [fMaj_packX, fMin_packX, guardOf_packX, fD_packX, srcA_packX, srcB_packX, srcC_packX, fH_packX,
    fImm16_packX, fA_packX, fLA_packX, fB_packX, fLB_packX, fC_packX, fLC_packX, need, form, withField, zeroX,
    decode, decodeBar, relOf_code, relCode_high, fnumOf_code, fcvtCode_from, fcvtCode_high, kregOf_code,
    kregNumber_fits, predField_low, predField_high, precOf_code, condOf_code _ cond, condImm_fits, handleOf_code
    ag, h]

theorem Encoding.ctlSet (g : Guard) (d : Reg) (ct : Fin 8) (a : Src) (n : BitVec 2) :
    Encoding.Statement (.ctlSet g d ct a n) := by
  intro h w e
  cases e
  have fit : n.toNat % 65536 < 4 := by have := n.isLt; omega
  simp only [wf, Bool.and_eq_true] at h
  simp [fMaj_packX, fMin_packX, guardOf_packX, fD_packX, srcA_packX, srcB_packX, srcC_packX, fH_packX,
    fImm16_packX, fA_packX, fLA_packX, fB_packX, fLB_packX, fC_packX, fLC_packX, need, form, withField, zeroX,
    decode, decodeCtl, relOf_code, relCode_high, fnumOf_code, fcvtCode_from, fcvtCode_high, kregOf_code,
    kregNumber_fits, predField_low, predField_high, precOf_code, fit, extract_setWidth_eq n (by decide : 2 ≤ 16),
    handleOf_code ct, h]

theorem Encoding.ctlGo (g : Guard) (d : Reg) (ct : Fin 8) :
    Encoding.Statement (.ctlGo g d ct) := by
  intro h w e
  cases e
  simp only [wf, Bool.and_eq_true] at h
  simp [fMaj_packX, fMin_packX, guardOf_packX, fD_packX, srcA_packX, srcB_packX, srcC_packX, fH_packX,
    fImm16_packX, fA_packX, fLA_packX, fB_packX, fLB_packX, fC_packX, fLC_packX, need, form, withField, zeroX,
    decode, decodeCtl, relOf_code, relCode_high, fnumOf_code, fcvtCode_from, fcvtCode_high, kregOf_code,
    kregNumber_fits, predField_low, predField_high, precOf_code, handleOf_code ct, h]

theorem Encoding.ctlWait (g : Guard) (d : Reg) (ct : Fin 8) :
    Encoding.Statement (.ctlWait g d ct) := by
  intro h w e
  cases e
  simp only [wf, Bool.and_eq_true] at h
  simp [fMaj_packX, fMin_packX, guardOf_packX, fD_packX, srcA_packX, srcB_packX, srcC_packX, fH_packX,
    fImm16_packX, fA_packX, fLA_packX, fB_packX, fLB_packX, fC_packX, fLC_packX, need, form, withField, zeroX,
    decode, decodeCtl, relOf_code, relCode_high, fnumOf_code, fcvtCode_from, fcvtCode_high, kregOf_code,
    kregNumber_fits, predField_low, predField_high, precOf_code, handleOf_code ct, h]

theorem Encoding.ctlAbort (g : Guard) (d : Reg) (ct : Fin 8) :
    Encoding.Statement (.ctlAbort g d ct) := by
  intro h w e
  cases e
  simp only [wf, Bool.and_eq_true] at h
  simp [fMaj_packX, fMin_packX, guardOf_packX, fD_packX, srcA_packX, srcB_packX, srcC_packX, fH_packX,
    fImm16_packX, fA_packX, fLA_packX, fB_packX, fLB_packX, fC_packX, fLC_packX, need, form, withField, zeroX,
    decode, decodeCtl, relOf_code, relCode_high, fnumOf_code, fcvtCode_from, fcvtCode_high, kregOf_code,
    kregNumber_fits, predField_low, predField_high, precOf_code, handleOf_code ct, h]

theorem Encoding.tplArm (g : Guard) (d : Reg) (tm : Fin 16) (a : Src) :
    Encoding.Statement (.tplArm g d tm a) := by
  intro h w e
  cases e
  simp only [wf, Bool.and_eq_true] at h
  simp [fMaj_packX, fMin_packX, guardOf_packX, fD_packX, srcA_packX, srcB_packX, srcC_packX, fH_packX,
    fImm16_packX, fA_packX, fLA_packX, fB_packX, fLB_packX, fC_packX, fLC_packX, need, form, withField, zeroX,
    decode, decodeTpl, relOf_code, relCode_high, fnumOf_code, fcvtCode_from, fcvtCode_high, kregOf_code,
    kregNumber_fits, predField_low, predField_high, precOf_code, handleOf_code tm, h]

theorem Encoding.tplDisarm (g : Guard) (d : Reg) (tm : Fin 16) :
    Encoding.Statement (.tplDisarm g d tm) := by
  intro h w e
  cases e
  simp only [wf, Bool.and_eq_true] at h
  simp [fMaj_packX, fMin_packX, guardOf_packX, fD_packX, srcA_packX, srcB_packX, srcC_packX, fH_packX,
    fImm16_packX, fA_packX, fLA_packX, fB_packX, fLB_packX, fC_packX, fLC_packX, need, form, withField, zeroX,
    decode, decodeTpl, relOf_code, relCode_high, fnumOf_code, fcvtCode_from, fcvtCode_high, kregOf_code,
    kregNumber_fits, predField_low, predField_high, precOf_code, handleOf_code tm, h]

theorem Encoding.tplFire (g : Guard) (d : Reg) (tm : Fin 16) (a : Src) :
    Encoding.Statement (.tplFire g d tm a) := by
  intro h w e
  cases e
  simp only [wf, Bool.and_eq_true] at h
  simp [fMaj_packX, fMin_packX, guardOf_packX, fD_packX, srcA_packX, srcB_packX, srcC_packX, fH_packX,
    fImm16_packX, fA_packX, fLA_packX, fB_packX, fLB_packX, fC_packX, fLC_packX, need, form, withField, zeroX,
    decode, decodeTpl, relOf_code, relCode_high, fnumOf_code, fcvtCode_from, fcvtCode_high, kregOf_code,
    kregNumber_fits, predField_low, predField_high, precOf_code, handleOf_code tm, h]

theorem Encoding.tplStat (g : Guard) (d : Reg) (tm : Fin 16) :
    Encoding.Statement (.tplStat g d tm) := by
  intro h w e
  cases e
  simp only [wf, Bool.and_eq_true] at h
  simp [fMaj_packX, fMin_packX, guardOf_packX, fD_packX, srcA_packX, srcB_packX, srcC_packX, fH_packX,
    fImm16_packX, fA_packX, fLA_packX, fB_packX, fLB_packX, fC_packX, fLC_packX, need, form, withField, zeroX,
    decode, decodeTpl, relOf_code, relCode_high, fnumOf_code, fcvtCode_from, fcvtCode_high, kregOf_code,
    kregNumber_fits, predField_low, predField_high, precOf_code, handleOf_code tm, h]

theorem Encoding.qPush (g : Guard) (d : Reg) (q : QUnit) (a : Src) (last : Bool) :
    Encoding.Statement (.qPush g d q a last) := by
  intro h w e
  cases e
  simp only [wf, Bool.and_eq_true] at h
  simp [fMaj_packX, fMin_packX, guardOf_packX, fD_packX, srcA_packX, srcB_packX, srcC_packX, fH_packX,
    fImm16_packX, fA_packX, fLA_packX, fB_packX, fLB_packX, fC_packX, fLC_packX, need, form, withField, zeroX,
    decode, decodeQ, relOf_code, relCode_high, fnumOf_code, fcvtCode_from, fcvtCode_high, kregOf_code,
    kregNumber_fits, predField_low, predField_high, precOf_code, bool_fits, queueUnitOf_code, h] <;> exact
    Nat.le_of_lt_succ (bool_fits last)

theorem Encoding.qPop (g : Guard) (d : Reg) (q : QUnit) (peek : Bool) :
    Encoding.Statement (.qPop g d q peek) := by
  intro h w e
  cases e
  simp only [wf, Bool.and_eq_true] at h
  simp [fMaj_packX, fMin_packX, guardOf_packX, fD_packX, srcA_packX, srcB_packX, srcC_packX, fH_packX,
    fImm16_packX, fA_packX, fLA_packX, fB_packX, fLB_packX, fC_packX, fLC_packX, need, form, withField, zeroX,
    decode, decodeQ, relOf_code, relCode_high, fnumOf_code, fcvtCode_from, fcvtCode_high, kregOf_code,
    kregNumber_fits, predField_low, predField_high, precOf_code, bool_fits, queueUnitOf_code, h] <;> exact
    Nat.le_of_lt_succ (bool_fits peek)

theorem Encoding.qSpace (g : Guard) (d : Reg) (q : QUnit) :
    Encoding.Statement (.qSpace g d q) := by
  intro h w e
  cases e
  simp only [wf, Bool.and_eq_true] at h
  simp [fMaj_packX, fMin_packX, guardOf_packX, fD_packX, srcA_packX, srcB_packX, srcC_packX, fH_packX,
    fImm16_packX, fA_packX, fLA_packX, fB_packX, fLB_packX, fC_packX, fLC_packX, need, form, withField, zeroX,
    decode, decodeQ, relOf_code, relCode_high, fnumOf_code, fcvtCode_from, fcvtCode_high, kregOf_code,
    kregNumber_fits, predField_low, predField_high, precOf_code, queueUnitOf_code, h]

theorem Encoding.qWait (g : Guard) (d : Reg) (q : QUnit) (a : Src) (space : Bool) :
    Encoding.Statement (.qWait g d q a space) := by
  intro h w e
  cases e
  simp only [wf, Bool.and_eq_true] at h
  simp [fMaj_packX, fMin_packX, guardOf_packX, fD_packX, srcA_packX, srcB_packX, srcC_packX, fH_packX,
    fImm16_packX, fA_packX, fLA_packX, fB_packX, fLB_packX, fC_packX, fLC_packX, need, form, withField, zeroX,
    decode, decodeQ, relOf_code, relCode_high, fnumOf_code, fcvtCode_from, fcvtCode_high, kregOf_code,
    kregNumber_fits, predField_low, predField_high, precOf_code, bool_fits, queueUnitOf_code, h] <;> exact
    Nat.le_of_lt_succ (bool_fits space)

theorem Encoding.semInit (g : Guard) (d : Reg) (a : Src) (b : Src) :
    Encoding.Statement (.semInit g d a b) := by
  intro h w e
  cases e
  simp only [wf, Bool.and_eq_true] at h
  simp [fMaj_packX, fMin_packX, guardOf_packX, fD_packX, srcA_packX, srcB_packX, srcC_packX, fH_packX,
    fImm16_packX, fA_packX, fLA_packX, fB_packX, fLB_packX, fC_packX, fLC_packX, need, form, withField, zeroX,
    decode, decodeSem, relOf_code, relCode_high, fnumOf_code, fcvtCode_from, fcvtCode_high, kregOf_code,
    kregNumber_fits, predField_low, predField_high, precOf_code, h]

theorem Encoding.semTake (g : Guard) (d : Reg) (a : Src) (tok : Bool) (sb : Fin 16) :
    Encoding.Statement (.semTake g d a tok sb) := by
  intro h w e
  cases e
  simp only [wf, Bool.and_eq_true] at h
  simp [fMaj_packX, fMin_packX, guardOf_packX, fD_packX, srcA_packX, srcB_packX, srcC_packX, fH_packX,
    fImm16_packX, fA_packX, fLA_packX, fB_packX, fLB_packX, fC_packX, fLC_packX, need, form, withField, zeroX,
    decode, decodeSem, relOf_code, relCode_high, fnumOf_code, fcvtCode_from, fcvtCode_high, kregOf_code,
    kregNumber_fits, predField_low, predField_high, precOf_code, sb_fits, sb_low, sb_low', sb_high, h]
  intro x
  subst x
  have r := h.2
  simp at r
  subst r
  rfl

theorem Encoding.semWait (g : Guard) (d : Reg) (a : Src) (b : Src) :
    Encoding.Statement (.semWait g d a b) := by
  intro h w e
  cases e
  simp only [wf, Bool.and_eq_true] at h
  simp [fMaj_packX, fMin_packX, guardOf_packX, fD_packX, srcA_packX, srcB_packX, srcC_packX, fH_packX,
    fImm16_packX, fA_packX, fLA_packX, fB_packX, fLB_packX, fC_packX, fLC_packX, need, form, withField, zeroX,
    decode, decodeSem, relOf_code, relCode_high, fnumOf_code, fcvtCode_from, fcvtCode_high, kregOf_code,
    kregNumber_fits, predField_low, predField_high, precOf_code, h]

theorem Encoding.semAdv (g : Guard) (d : Reg) (a : Src) (n : BitVec 16) :
    Encoding.Statement (.semAdv g d a n) := by
  intro h w e
  cases e
  simp only [wf, Bool.and_eq_true, Bool.not_eq_true', beq_eq_false_iff_ne, ne_eq] at h
  simp [fMaj_packX, fMin_packX, guardOf_packX, fD_packX, srcA_packX, srcB_packX, srcC_packX, fH_packX,
    fImm16_packX, fA_packX, fLA_packX, fB_packX, fLB_packX, fC_packX, fLC_packX, need, form, withField, zeroX,
    decode, decodeSem, relOf_code, relCode_high, fnumOf_code, fcvtCode_from, fcvtCode_high, kregOf_code,
    kregNumber_fits, predField_low, predField_high, precOf_code, h]
  have r : ¬ n = 0#16 := h.2
  rw [if_neg r, if_pos n.isLt]

theorem Encoding.mxTok (g : Guard) (d : Reg) (a : Src) :
    Encoding.Statement (.mxTok g d a) := by
  intro h w e
  cases e
  simp only [wf, Bool.and_eq_true] at h
  simp [fMaj_packX, fMin_packX, guardOf_packX, fD_packX, srcA_packX, srcB_packX, srcC_packX, fH_packX,
    fImm16_packX, fA_packX, fLA_packX, fB_packX, fLB_packX, fC_packX, fLC_packX, need, form, withField, zeroX,
    decode, decodeMx, relOf_code, relCode_high, fnumOf_code, fcvtCode_from, fcvtCode_high, kregOf_code,
    kregNumber_fits, predField_low, predField_high, precOf_code, h]

theorem Encoding.mxAccrd (g : Guard) (d : Reg) (acc : Fin 4) (row : BitVec 6) (col : BitVec 6) :
    Encoding.Statement (.mxAccrd g d acc row col) := by
  intro h w e
  cases e
  have fit := pair_fits (k := 65536) row col
  simp only [wf, Bool.and_eq_true] at h
  simp [fMaj_packX, fMin_packX, guardOf_packX, fD_packX, srcA_packX, srcB_packX, srcC_packX, fH_packX,
    fImm16_packX, fA_packX, fLA_packX, fB_packX, fLB_packX, fC_packX, fLC_packX, need, form, withField, zeroX,
    decode, decodeMx, relOf_code, relCode_high, fnumOf_code, fcvtCode_from, fcvtCode_high, kregOf_code,
    kregNumber_fits, predField_low, predField_high, precOf_code, fit, pair_high row col (by decide : 6 + 6 ≤ 16),
    pair_low row col (by decide : 6 + 6 ≤ 16), handleOf_code acc, h] <;> exact fit

theorem Encoding.mxAccclr (g : Guard) (d : Reg) (acc : Fin 4) :
    Encoding.Statement (.mxAccclr g d acc) := by
  intro h w e
  cases e
  simp only [wf, Bool.and_eq_true] at h
  simp [fMaj_packX, fMin_packX, guardOf_packX, fD_packX, srcA_packX, srcB_packX, srcC_packX, fH_packX,
    fImm16_packX, fA_packX, fLA_packX, fB_packX, fLB_packX, fC_packX, fLC_packX, need, form, withField, zeroX,
    decode, decodeMx, relOf_code, relCode_high, fnumOf_code, fcvtCode_from, fcvtCode_high, kregOf_code,
    kregNumber_fits, predField_low, predField_high, precOf_code, handleOf_code acc, h]

theorem Encoding.mxStat (g : Guard) (d : Reg) :
    Encoding.Statement (.mxStat g d) := by
  intro h w e
  cases e
  simp only [wf, Bool.and_eq_true] at h
  simp [fMaj_packX, fMin_packX, guardOf_packX, fD_packX, srcA_packX, srcB_packX, srcC_packX, fH_packX,
    fImm16_packX, fA_packX, fLA_packX, fB_packX, fLB_packX, fC_packX, fLC_packX, need, form, withField, zeroX,
    decode, decodeMx, relOf_code, relCode_high, fnumOf_code, fcvtCode_from, fcvtCode_high, kregOf_code,
    kregNumber_fits, predField_low, predField_high, precOf_code, h]

theorem Encoding.collRed (g : Guard) (d : Reg) (a : Src) :
    Encoding.Statement (.collRed g d a) := by
  intro h w e
  cases e
  simp only [wf, Bool.and_eq_true] at h
  simp [fMaj_packX, fMin_packX, guardOf_packX, fD_packX, srcA_packX, srcB_packX, srcC_packX, fH_packX,
    fImm16_packX, fA_packX, fLA_packX, fB_packX, fLB_packX, fC_packX, fLC_packX, need, form, withField, zeroX,
    decode, decodeColl, relOf_code, relCode_high, fnumOf_code, fcvtCode_from, fcvtCode_high, kregOf_code,
    kregNumber_fits, predField_low, predField_high, precOf_code, h]

theorem Encoding.collAttn (g : Guard) (d : Reg) (a : Src) :
    Encoding.Statement (.collAttn g d a) := by
  intro h w e
  cases e
  simp only [wf, Bool.and_eq_true] at h
  simp [fMaj_packX, fMin_packX, guardOf_packX, fD_packX, srcA_packX, srcB_packX, srcC_packX, fH_packX,
    fImm16_packX, fA_packX, fLA_packX, fB_packX, fLB_packX, fC_packX, fLC_packX, need, form, withField, zeroX,
    decode, decodeColl, relOf_code, relCode_high, fnumOf_code, fcvtCode_from, fcvtCode_high, kregOf_code,
    kregNumber_fits, predField_low, predField_high, precOf_code, h]

theorem Encoding.collGath (g : Guard) (d : Reg) (a : Src) :
    Encoding.Statement (.collGath g d a) := by
  intro h w e
  cases e
  simp only [wf, Bool.and_eq_true] at h
  simp [fMaj_packX, fMin_packX, guardOf_packX, fD_packX, srcA_packX, srcB_packX, srcC_packX, fH_packX,
    fImm16_packX, fA_packX, fLA_packX, fB_packX, fLB_packX, fC_packX, fLC_packX, need, form, withField, zeroX,
    decode, decodeColl, relOf_code, relCode_high, fnumOf_code, fcvtCode_from, fcvtCode_high, kregOf_code,
    kregNumber_fits, predField_low, predField_high, precOf_code, h]

theorem Encoding.collScat (g : Guard) (d : Reg) (a : Src) :
    Encoding.Statement (.collScat g d a) := by
  intro h w e
  cases e
  simp only [wf, Bool.and_eq_true] at h
  simp [fMaj_packX, fMin_packX, guardOf_packX, fD_packX, srcA_packX, srcB_packX, srcC_packX, fH_packX,
    fImm16_packX, fA_packX, fLA_packX, fB_packX, fLB_packX, fC_packX, fLC_packX, need, form, withField, zeroX,
    decode, decodeColl, relOf_code, relCode_high, fnumOf_code, fcvtCode_from, fcvtCode_high, kregOf_code,
    kregNumber_fits, predField_low, predField_high, precOf_code, h]

theorem Encoding.collBcast (g : Guard) (d : Reg) (a : Src) :
    Encoding.Statement (.collBcast g d a) := by
  intro h w e
  cases e
  simp only [wf, Bool.and_eq_true] at h
  simp [fMaj_packX, fMin_packX, guardOf_packX, fD_packX, srcA_packX, srcB_packX, srcC_packX, fH_packX,
    fImm16_packX, fA_packX, fLA_packX, fB_packX, fLB_packX, fC_packX, fLC_packX, need, form, withField, zeroX,
    decode, decodeColl, relOf_code, relCode_high, fnumOf_code, fcvtCode_from, fcvtCode_high, kregOf_code,
    kregNumber_fits, predField_low, predField_high, precOf_code, h]

theorem Encoding.collA2a (g : Guard) (d : Reg) (a : Src) :
    Encoding.Statement (.collA2a g d a) := by
  intro h w e
  cases e
  simp only [wf, Bool.and_eq_true] at h
  simp [fMaj_packX, fMin_packX, guardOf_packX, fD_packX, srcA_packX, srcB_packX, srcC_packX, fH_packX,
    fImm16_packX, fA_packX, fLA_packX, fB_packX, fLB_packX, fC_packX, fLC_packX, need, form, withField, zeroX,
    decode, decodeColl, relOf_code, relCode_high, fnumOf_code, fcvtCode_from, fcvtCode_high, kregOf_code,
    kregNumber_fits, predField_low, predField_high, precOf_code, h]

theorem Encoding.collWait (g : Guard) (d : Reg) (a : Src) :
    Encoding.Statement (.collWait g d a) := by
  intro h w e
  cases e
  simp only [wf, Bool.and_eq_true] at h
  simp [fMaj_packX, fMin_packX, guardOf_packX, fD_packX, srcA_packX, srcB_packX, srcC_packX, fH_packX,
    fImm16_packX, fA_packX, fLA_packX, fB_packX, fLB_packX, fC_packX, fLC_packX, need, form, withField, zeroX,
    decode, decodeColl, relOf_code, relCode_high, fnumOf_code, fcvtCode_from, fcvtCode_high, kregOf_code,
    kregNumber_fits, predField_low, predField_high, precOf_code, h]

theorem Encoding.pairBox (g : Guard) (d : Reg) (a : Src) :
    Encoding.Statement (.pairBox g d a) := by
  intro h w e
  cases e
  simp only [wf, Bool.and_eq_true] at h
  simp [fMaj_packX, fMin_packX, guardOf_packX, fD_packX, srcA_packX, srcB_packX, srcC_packX, fH_packX,
    fImm16_packX, fA_packX, fLA_packX, fB_packX, fLB_packX, fC_packX, fLC_packX, need, form, withField, zeroX,
    decode, decodePair, relOf_code, relCode_high, fnumOf_code, fcvtCode_from, fcvtCode_high, kregOf_code,
    kregNumber_fits, predField_low, predField_high, precOf_code, h]

theorem Encoding.pairBin (g : Guard) (d : Reg) :
    Encoding.Statement (.pairBin g d) := by
  intro h w e
  cases e
  simp only [wf, Bool.and_eq_true] at h
  simp [fMaj_packX, fMin_packX, guardOf_packX, fD_packX, srcA_packX, srcB_packX, srcC_packX, fH_packX,
    fImm16_packX, fA_packX, fLA_packX, fB_packX, fLB_packX, fC_packX, fLC_packX, need, form, withField, zeroX,
    decode, decodePair, relOf_code, relCode_high, fnumOf_code, fcvtCode_from, fcvtCode_high, kregOf_code,
    kregNumber_fits, predField_low, predField_high, precOf_code, h]

theorem Encoding.pairScan (g : Guard) (d : Reg) (a : Src) (b : Src) (sb : Fin 16) (dig : Bool) :
    Encoding.Statement (.pairScan g d a b sb dig) := by
  intro h w e
  cases e
  simp only [wf, Bool.and_eq_true] at h
  simp [fMaj_packX, fMin_packX, guardOf_packX, fD_packX, srcA_packX, srcB_packX, srcC_packX, fH_packX,
    fImm16_packX, fA_packX, fLA_packX, fB_packX, fLB_packX, fC_packX, fLC_packX, need, form, withField, zeroX,
    decode, decodePair, relOf_code, relCode_high, fnumOf_code, fcvtCode_from, fcvtCode_high, kregOf_code,
    kregNumber_fits, predField_low, predField_high, precOf_code, sb_fits, sb_low, sb_low', sb_high, h]

theorem Encoding.pairStat (g : Guard) (d : Reg) :
    Encoding.Statement (.pairStat g d) := by
  intro h w e
  cases e
  simp only [wf, Bool.and_eq_true] at h
  simp [fMaj_packX, fMin_packX, guardOf_packX, fD_packX, srcA_packX, srcB_packX, srcC_packX, fH_packX,
    fImm16_packX, fA_packX, fLA_packX, fB_packX, fLB_packX, fC_packX, fLC_packX, need, form, withField, zeroX,
    decode, decodePair, relOf_code, relCode_high, fnumOf_code, fcvtCode_from, fcvtCode_high, kregOf_code,
    kregNumber_fits, predField_low, predField_high, precOf_code, h]

theorem Encoding.pairClr (g : Guard) (d : Reg) :
    Encoding.Statement (.pairClr g d) := by
  intro h w e
  cases e
  simp only [wf, Bool.and_eq_true] at h
  simp [fMaj_packX, fMin_packX, guardOf_packX, fD_packX, srcA_packX, srcB_packX, srcC_packX, fH_packX,
    fImm16_packX, fA_packX, fLA_packX, fB_packX, fLB_packX, fC_packX, fLC_packX, need, form, withField, zeroX,
    decode, decodePair, relOf_code, relCode_high, fnumOf_code, fcvtCode_from, fcvtCode_high, kregOf_code,
    kregNumber_fits, predField_low, predField_high, precOf_code, h]

theorem Encoding.kvAlloc (g : Guard) (d : Reg) (a : Src) :
    Encoding.Statement (.kvAlloc g d a) := by
  intro h w e
  cases e
  simp only [wf, Bool.and_eq_true] at h
  simp [fMaj_packX, fMin_packX, guardOf_packX, fD_packX, srcA_packX, srcB_packX, srcC_packX, fH_packX,
    fImm16_packX, fA_packX, fLA_packX, fB_packX, fLB_packX, fC_packX, fLC_packX, need, form, withField, zeroX,
    decode, decodeKv, relOf_code, relCode_high, fnumOf_code, fcvtCode_from, fcvtCode_high, kregOf_code,
    kregNumber_fits, predField_low, predField_high, precOf_code, h]

theorem Encoding.kvFree (g : Guard) (d : Reg) (a : Src) (all : Bool) :
    Encoding.Statement (.kvFree g d a all) := by
  intro h w e
  cases e
  simp only [wf, Bool.and_eq_true] at h
  simp [fMaj_packX, fMin_packX, guardOf_packX, fD_packX, srcA_packX, srcB_packX, srcC_packX, fH_packX,
    fImm16_packX, fA_packX, fLA_packX, fB_packX, fLB_packX, fC_packX, fLC_packX, need, form, withField, zeroX,
    decode, decodeKv, relOf_code, relCode_high, fnumOf_code, fcvtCode_from, fcvtCode_high, kregOf_code,
    kregNumber_fits, predField_low, predField_high, precOf_code, bool_fits, h] <;> exact Nat.le_of_lt_succ
    (bool_fits all)

theorem Encoding.kvShare (g : Guard) (d : Reg) (a : Src) (b : Src) :
    Encoding.Statement (.kvShare g d a b) := by
  intro h w e
  cases e
  simp only [wf, Bool.and_eq_true] at h
  simp [fMaj_packX, fMin_packX, guardOf_packX, fD_packX, srcA_packX, srcB_packX, srcC_packX, fH_packX,
    fImm16_packX, fA_packX, fLA_packX, fB_packX, fLB_packX, fC_packX, fLC_packX, need, form, withField, zeroX,
    decode, decodeKv, relOf_code, relCode_high, fnumOf_code, fcvtCode_from, fcvtCode_high, kregOf_code,
    kregNumber_fits, predField_low, predField_high, precOf_code, h]

theorem Encoding.kvMap (g : Guard) (d : Reg) (a : Src) :
    Encoding.Statement (.kvMap g d a) := by
  intro h w e
  cases e
  simp only [wf, Bool.and_eq_true] at h
  simp [fMaj_packX, fMin_packX, guardOf_packX, fD_packX, srcA_packX, srcB_packX, srcC_packX, fH_packX,
    fImm16_packX, fA_packX, fLA_packX, fB_packX, fLB_packX, fC_packX, fLC_packX, need, form, withField, zeroX,
    decode, decodeKv, relOf_code, relCode_high, fnumOf_code, fcvtCode_from, fcvtCode_high, kregOf_code,
    kregNumber_fits, predField_low, predField_high, precOf_code, h]

theorem Encoding.kvLimit (g : Guard) (d : Reg) (a : Src) (b : Src) (clr : Bool) :
    Encoding.Statement (.kvLimit g d a b clr) := by
  intro h w e
  cases e
  simp only [wf, Bool.and_eq_true] at h
  simp [fMaj_packX, fMin_packX, guardOf_packX, fD_packX, srcA_packX, srcB_packX, srcC_packX, fH_packX,
    fImm16_packX, fA_packX, fLA_packX, fB_packX, fLB_packX, fC_packX, fLC_packX, need, form, withField, zeroX,
    decode, decodeKv, relOf_code, relCode_high, fnumOf_code, fcvtCode_from, fcvtCode_high, kregOf_code,
    kregNumber_fits, predField_low, predField_high, precOf_code, bool_fits, h] <;> exact Nat.le_of_lt_succ
    (bool_fits clr)

theorem Encoding.kvLend (g : Guard) (d : Reg) (a : Src) (b : Src) :
    Encoding.Statement (.kvLend g d a b) := by
  intro h w e
  cases e
  simp only [wf, Bool.and_eq_true] at h
  simp [fMaj_packX, fMin_packX, guardOf_packX, fD_packX, srcA_packX, srcB_packX, srcC_packX, fH_packX,
    fImm16_packX, fA_packX, fLA_packX, fB_packX, fLB_packX, fC_packX, fLC_packX, need, form, withField, zeroX,
    decode, decodeKv, relOf_code, relCode_high, fnumOf_code, fcvtCode_from, fcvtCode_high, kregOf_code,
    kregNumber_fits, predField_low, predField_high, precOf_code, h]

theorem Encoding.taskSpawn (g : Guard) (d : Reg) (q : Fin 16) (a : Src) :
    Encoding.Statement (.taskSpawn g d q a) := by
  intro h w e
  cases e
  simp only [wf, Bool.and_eq_true] at h
  simp [fMaj_packX, fMin_packX, guardOf_packX, fD_packX, srcA_packX, srcB_packX, srcC_packX, fH_packX,
    fImm16_packX, fA_packX, fLA_packX, fB_packX, fLB_packX, fC_packX, fLC_packX, need, form, withField, zeroX,
    decode, decodeTask, relOf_code, relCode_high, fnumOf_code, fcvtCode_from, fcvtCode_high, kregOf_code,
    kregNumber_fits, predField_low, predField_high, precOf_code, handleOf_code q, h]

theorem Encoding.taskDone (g : Guard) :
    Encoding.Statement (.taskDone g) := by
  intro h w e
  cases e
  simp only [wf, Bool.and_eq_true] at h
  simp [fMaj_packX, fMin_packX, guardOf_packX, fD_packX, srcA_packX, srcB_packX, srcC_packX, fH_packX,
    fImm16_packX, fA_packX, fLA_packX, fB_packX, fLB_packX, fC_packX, fLC_packX, need, form, withField, zeroX,
    decode, decodeTask, relOf_code, relCode_high, fnumOf_code, fcvtCode_from, fcvtCode_high, kregOf_code,
    kregNumber_fits, predField_low, predField_high, precOf_code, h]

theorem Encoding.taskYield (g : Guard) (d : Reg) :
    Encoding.Statement (.taskYield g d) := by
  intro h w e
  cases e
  simp only [wf, Bool.and_eq_true] at h
  simp [fMaj_packX, fMin_packX, guardOf_packX, fD_packX, srcA_packX, srcB_packX, srcC_packX, fH_packX,
    fImm16_packX, fA_packX, fLA_packX, fB_packX, fLB_packX, fC_packX, fLC_packX, need, form, withField, zeroX,
    decode, decodeTask, relOf_code, relCode_high, fnumOf_code, fcvtCode_from, fcvtCode_high, kregOf_code,
    kregNumber_fits, predField_low, predField_high, precOf_code, h]

theorem Encoding.taskArg (g : Guard) (d : Reg) (n : BitVec 4) :
    Encoding.Statement (.taskArg g d n) := by
  intro h w e
  cases e
  have fit : n.toNat % 65536 < 16 := by have := n.isLt; omega
  simp only [wf, Bool.and_eq_true] at h
  simp [fMaj_packX, fMin_packX, guardOf_packX, fD_packX, srcA_packX, srcB_packX, srcC_packX, fH_packX,
    fImm16_packX, fA_packX, fLA_packX, fB_packX, fLB_packX, fC_packX, fLC_packX, need, form, withField, zeroX,
    decode, decodeTask, relOf_code, relCode_high, fnumOf_code, fcvtCode_from, fcvtCode_high, kregOf_code,
    kregNumber_fits, predField_low, predField_high, precOf_code, fit, extract_setWidth_eq n (by decide : 4 ≤ 16), h]

theorem Encoding.taskCancel (g : Guard) (d : Reg) (a : Src) :
    Encoding.Statement (.taskCancel g d a) := by
  intro h w e
  cases e
  simp only [wf, Bool.and_eq_true] at h
  simp [fMaj_packX, fMin_packX, guardOf_packX, fD_packX, srcA_packX, srcB_packX, srcC_packX, fH_packX,
    fImm16_packX, fA_packX, fLA_packX, fB_packX, fLB_packX, fC_packX, fLC_packX, need, form, withField, zeroX,
    decode, decodeTask, relOf_code, relCode_high, fnumOf_code, fcvtCode_from, fcvtCode_high, kregOf_code,
    kregNumber_fits, predField_low, predField_high, precOf_code, h]

theorem Encoding.frzSave (g : Guard) (d : Reg) (a : Src) (b : Src) :
    Encoding.Statement (.frzSave g d a b) := by
  intro h w e
  cases e
  simp only [wf, Bool.and_eq_true] at h
  simp [fMaj_packX, fMin_packX, guardOf_packX, fD_packX, srcA_packX, srcB_packX, srcC_packX, fH_packX,
    fImm16_packX, fA_packX, fLA_packX, fB_packX, fLB_packX, fC_packX, fLC_packX, need, form, withField, zeroX,
    decode, decodeFrz, relOf_code, relCode_high, fnumOf_code, fcvtCode_from, fcvtCode_high, kregOf_code,
    kregNumber_fits, predField_low, predField_high, precOf_code, h]

theorem Encoding.frzLoad (g : Guard) (d : Reg) (a : Src) (q : Fin 16) :
    Encoding.Statement (.frzLoad g d a q) := by
  intro h w e
  cases e
  have e1 := (q_parts q).1
  have e2 := (q_parts q).2
  simp at e1 e2
  simp only [wf, Bool.and_eq_true] at h
  simp [fMaj_packX, fMin_packX, guardOf_packX, fD_packX, srcA_packX, srcB_packX, srcC_packX, fH_packX,
    fImm16_packX, fA_packX, fLA_packX, fB_packX, fLB_packX, fC_packX, fLC_packX, need, form, withField, zeroX,
    decode, decodeFrz, relOf_code, relCode_high, fnumOf_code, fcvtCode_from, fcvtCode_high, kregOf_code,
    kregNumber_fits, predField_low, predField_high, precOf_code, e1, e2, h]

theorem Encoding.quiPoll (g : Guard) (d : Reg) (wait : Bool) :
    Encoding.Statement (.quiPoll g d wait) := by
  intro h w e
  cases e
  simp only [wf, Bool.and_eq_true] at h
  simp [fMaj_packX, fMin_packX, guardOf_packX, fD_packX, srcA_packX, srcB_packX, srcC_packX, fH_packX,
    fImm16_packX, fA_packX, fLA_packX, fB_packX, fLB_packX, fC_packX, fLC_packX, need, form, withField, zeroX,
    decode, decodeQui, relOf_code, relCode_high, fnumOf_code, fcvtCode_from, fcvtCode_high, kregOf_code,
    kregNumber_fits, predField_low, predField_high, precOf_code, bool_fits, h] <;> exact Nat.le_of_lt_succ
    (bool_fits wait)

theorem Encoding.quiRep (g : Guard) (d : Reg) (a : Src) (sel : BitVec 2) :
    Encoding.Statement (.quiRep g d a sel) := by
  intro h w e
  cases e
  have fit : sel.toNat % 65536 < 4 := by have := sel.isLt; omega
  simp only [wf, Bool.and_eq_true] at h
  simp [fMaj_packX, fMin_packX, guardOf_packX, fD_packX, srcA_packX, srcB_packX, srcC_packX, fH_packX,
    fImm16_packX, fA_packX, fLA_packX, fB_packX, fLB_packX, fC_packX, fLC_packX, need, form, withField, zeroX,
    decode, decodeQui, relOf_code, relCode_high, fnumOf_code, fcvtCode_from, fcvtCode_high, kregOf_code,
    kregNumber_fits, predField_low, predField_high, precOf_code, fit, extract_setWidth_eq sel (by decide : 2 ≤ 16),
    h]

theorem Encoding.xlatInv (g : Guard) (d : Reg) (a : Src) (b : Src) (scope : BitVec 3) (mode : BitVec 2) :
    Encoding.Statement (.xlatInv g d a b scope mode) := by
  intro h w e
  cases e
  obtain ⟨e1, e2, e3⟩ := scope_parts scope mode
  have fit := scope_fits scope mode
  simp only [wf, Bool.and_eq_true] at h
  simp [fMaj_packX, fMin_packX, guardOf_packX, fD_packX, srcA_packX, srcB_packX, srcC_packX, fH_packX,
    fImm16_packX, fA_packX, fLA_packX, fB_packX, fLB_packX, fC_packX, fLC_packX, need, form, withField, zeroX,
    decode, decodeXlat, relOf_code, relCode_high, fnumOf_code, fcvtCode_from, fcvtCode_high, kregOf_code,
    kregNumber_fits, predField_low, predField_high, precOf_code, e1, e2, e3, fit, h]

theorem Encoding.xlatProbe (g : Guard) (d : Reg) (a : Src) (b : Src) (leaf : Bool) :
    Encoding.Statement (.xlatProbe g d a b leaf) := by
  intro h w e
  cases e
  simp only [wf, Bool.and_eq_true] at h
  simp [fMaj_packX, fMin_packX, guardOf_packX, fD_packX, srcA_packX, srcB_packX, srcC_packX, fH_packX,
    fImm16_packX, fA_packX, fLA_packX, fB_packX, fLB_packX, fC_packX, fLC_packX, need, form, withField, zeroX,
    decode, decodeXlat, relOf_code, relCode_high, fnumOf_code, fcvtCode_from, fcvtCode_high, kregOf_code,
    kregNumber_fits, predField_low, predField_high, precOf_code, bool_fits, h] <;> exact Nat.le_of_lt_succ
    (bool_fits leaf)

theorem Encoding.xlatRes (g : Guard) (d : Reg) (ag : Fin 8) (a : Src) (target : BitVec 2) :
    Encoding.Statement (.xlatRes g d ag a target) := by
  intro h w e
  cases e
  have fit : target.toNat % 65536 < 4 := by have := target.isLt; omega
  simp only [wf, Bool.and_eq_true, Bool.not_eq_true', beq_eq_false_iff_ne, ne_eq] at h
  simp [fMaj_packX, fMin_packX, guardOf_packX, fD_packX, srcA_packX, srcB_packX, srcC_packX, fH_packX,
    fImm16_packX, fA_packX, fLA_packX, fB_packX, fLB_packX, fC_packX, fLC_packX, need, form, withField, zeroX,
    decode, decodeXlat, relOf_code, relCode_high, fnumOf_code, fcvtCode_from, fcvtCode_high, kregOf_code,
    kregNumber_fits, predField_low, predField_high, precOf_code, fit, extract_setWidth_eq target (by decide : 2 ≤
    16), handleOf_code ag, h]
  exact h.2

theorem Encoding.pendingResultWrite (c : CoreIx) (r : Reg) : Encoding.Statement (.pendingResultWrite c r) :=
  fun _ _ h => nomatch h

theorem Encoding.waitEnd (c : CoreIx) : Encoding.Statement (.waitEnd c) :=
  fun _ _ h => nomatch h

theorem Encoding.barrierEnd (c : CoreIx) : Encoding.Statement (.barrierEnd c) :=
  fun _ _ h => nomatch h

theorem Encoding.fenceResume (c : CoreIx) : Encoding.Statement (.fenceResume c) :=
  fun _ _ h => nomatch h

theorem Encoding.queueFormResume (c : CoreIx) : Encoding.Statement (.queueFormResume c) :=
  fun _ _ h => nomatch h

theorem Encoding.ctlWaitEnd (c : CoreIx) : Encoding.Statement (.ctlWaitEnd c) :=
  fun _ _ h => nomatch h

theorem Encoding.collWaitEnd (c : CoreIx) : Encoding.Statement (.collWaitEnd c) :=
  fun _ _ h => nomatch h

theorem Encoding.quiPollWaitEnd (c : CoreIx) : Encoding.Statement (.quiPollWaitEnd c) :=
  fun _ _ h => nomatch h

theorem Encoding.semRetest (c : CoreIx) : Encoding.Statement (.semRetest c) :=
  fun _ _ h => nomatch h

theorem Encoding.asyncTrap (c : CoreIx) : Encoding.Statement (.asyncTrap c) :=
  fun _ _ h => nomatch h

theorem Encoding.programPageFill (c : CoreIx) : Encoding.Statement (.programPageFill c) :=
  fun _ _ h => nomatch h

theorem Encoding.bankAccess (who : Requester) (id : Nat) (seg : Nat) : Encoding.Statement (.bankAccess who id seg) :=
  fun _ _ h => nomatch h

theorem Encoding.routerForward (c : CoreIx) (rt : Fin 16) : Encoding.Statement (.routerForward c rt) :=
  fun _ _ h => nomatch h

theorem Encoding.kill (c : CoreIx) (pe : Fin 16) : Encoding.Statement (.kill c pe) :=
  fun _ _ h => nomatch h

theorem Encoding.killReturn (c : CoreIx) (ch : ChanId) : Encoding.Statement (.killReturn c ch) :=
  fun _ _ h => nomatch h

theorem Encoding.peFire (c : CoreIx) (pe : Fin 16) : Encoding.Statement (.peFire c pe) :=
  fun _ _ h => nomatch h

theorem Encoding.digitEmit (c : CoreIx) (pe : Fin 16) : Encoding.Statement (.digitEmit c pe) :=
  fun _ _ h => nomatch h

theorem Encoding.steer (c : CoreIx) (rt : Fin 16) : Encoding.Statement (.steer c rt) :=
  fun _ _ h => nomatch h

theorem Encoding.carry (c : CoreIx) (rt : Fin 16) : Encoding.Statement (.carry c rt) :=
  fun _ _ h => nomatch h

theorem Encoding.invar (c : CoreIx) (rt : Fin 16) : Encoding.Statement (.invar c rt) :=
  fun _ _ h => nomatch h

theorem Encoding.merge (c : CoreIx) (rt : Fin 16) : Encoding.Statement (.merge c rt) :=
  fun _ _ h => nomatch h

theorem Encoding.join (c : CoreIx) (rt : Fin 16) : Encoding.Statement (.join c rt) :=
  fun _ _ h => nomatch h

theorem Encoding.order (c : CoreIx) (rt : Fin 16) : Encoding.Statement (.order c rt) :=
  fun _ _ h => nomatch h

theorem Encoding.arb (c : CoreIx) (rt : Fin 16) : Encoding.Statement (.arb c rt) :=
  fun _ _ h => nomatch h

theorem Encoding.tagin (c : CoreIx) (rt : Fin 16) : Encoding.Statement (.tagin c rt) :=
  fun _ _ h => nomatch h

theorem Encoding.tagout (c : CoreIx) (rt : Fin 16) : Encoding.Statement (.tagout c rt) :=
  fun _ _ h => nomatch h

theorem Encoding.mld (c : CoreIx) (mt : Fin 4) (port : Fin 4) (part : PortPart) : Encoding.Statement (.mld c mt port part) :=
  fun _ _ h => nomatch h

theorem Encoding.mst (c : CoreIx) (mt : Fin 4) (port : Fin 4) (part : PortPart) : Encoding.Statement (.mst c mt port part) :=
  fun _ _ h => nomatch h

theorem Encoding.gath (c : CoreIx) (mt : Fin 4) (port : Fin 4) (part : PortPart) : Encoding.Statement (.gath c mt port part) :=
  fun _ _ h => nomatch h

theorem Encoding.scat (c : CoreIx) (mt : Fin 4) (port : Fin 4) (part : PortPart) : Encoding.Statement (.scat c mt port part) :=
  fun _ _ h => nomatch h

theorem Encoding.upd (c : CoreIx) (mt : Fin 4) (port : Fin 4) (part : PortPart) : Encoding.Statement (.upd c mt port part) :=
  fun _ _ h => nomatch h

theorem Encoding.dep (c : CoreIx) (mt : Fin 4) (port : Fin 4) (part : PortPart) : Encoding.Statement (.dep c mt port part) :=
  fun _ _ h => nomatch h

theorem Encoding.sparseUpdateApply (c : CoreIx) (mt : Fin 4) (bank : Fin 16) (i : Nat) (into : Option Nat) : Encoding.Statement (.sparseUpdateApply c mt bank i into) :=
  fun _ _ h => nomatch h

theorem Encoding.mxTokenEnqueue (c : CoreIx) : Encoding.Statement (.mxTokenEnqueue c) :=
  fun _ _ h => nomatch h

theorem Encoding.mma (c : CoreIx) : Encoding.Statement (.mma c) :=
  fun _ _ h => nomatch h

theorem Encoding.mmaAcc (c : CoreIx) : Encoding.Statement (.mmaAcc c) :=
  fun _ _ h => nomatch h

theorem Encoding.accRd (c : CoreIx) : Encoding.Statement (.accRd c) :=
  fun _ _ h => nomatch h

theorem Encoding.accClr (c : CoreIx) : Encoding.Statement (.accClr c) :=
  fun _ _ h => nomatch h

theorem Encoding.matrixStep (c : CoreIx) : Encoding.Statement (.matrixStep c) :=
  fun _ _ h => nomatch h

theorem Encoding.streamElement (c : CoreIx) (ag : Fin 8) (slot : Fin 4) : Encoding.Statement (.streamElement c ag slot) :=
  fun _ _ h => nomatch h

theorem Encoding.streamWrite (c : CoreIx) (ag : Fin 8) (slot : Fin 4) : Encoding.Statement (.streamWrite c ag slot) :=
  fun _ _ h => nomatch h

theorem Encoding.streamDone (c : CoreIx) (ag : Fin 8) (slot : Fin 4) : Encoding.Statement (.streamDone c ag slot) :=
  fun _ _ h => nomatch h

theorem Encoding.streamCancelComplete (c : CoreIx) (ag : Fin 8) (slot : Fin 4) : Encoding.Statement (.streamCancelComplete c ag slot) :=
  fun _ _ h => nomatch h

theorem Encoding.barIfDecide (c : CoreIx) (ag : Fin 8) (slot : Fin 4) : Encoding.Statement (.barIfDecide c ag slot) :=
  fun _ _ h => nomatch h

theorem Encoding.pageWalk (c : CoreIx) (va : Word) : Encoding.Statement (.pageWalk c va) :=
  fun _ _ h => nomatch h

theorem Encoding.templateFiring (c : CoreIx) (tm : Fin 16) : Encoding.Statement (.templateFiring c tm) :=
  fun _ _ h => nomatch h

theorem Encoding.copyEnd (c : CoreIx) (tm : Fin 16) : Encoding.Statement (.copyEnd c tm) :=
  fun _ _ h => nomatch h

theorem Encoding.compressPhase (c : CoreIx) (tm : Fin 16) : Encoding.Statement (.compressPhase c tm) :=
  fun _ _ h => nomatch h

theorem Encoding.sbPush (c : CoreIx) (sb : Fin 16) : Encoding.Statement (.sbPush c sb) :=
  fun _ _ h => nomatch h

theorem Encoding.sbPop (c : CoreIx) (sb : Fin 16) : Encoding.Statement (.sbPop c sb) :=
  fun _ _ h => nomatch h

theorem Encoding.frameInstall (c : CoreIx) (i : Nat) : Encoding.Statement (.frameInstall c i) :=
  fun _ _ h => nomatch h

theorem Encoding.demandFill (c : CoreIx) (node : NodeId) : Encoding.Statement (.demandFill c node) :=
  fun _ _ h => nomatch h

theorem Encoding.configRecord (c : CoreIx) (node : NodeId) : Encoding.Statement (.configRecord c node) :=
  fun _ _ h => nomatch h

theorem Encoding.evictDrainClear (c : CoreIx) (i : Nat) : Encoding.Statement (.evictDrainClear c i) :=
  fun _ _ h => nomatch h

theorem Encoding.permit (c : CoreIx) (ct : Fin 8) : Encoding.Statement (.permit c ct) :=
  fun _ _ h => nomatch h

theorem Encoding.doneToken (c : CoreIx) (ct : Fin 8) : Encoding.Statement (.doneToken c ct) :=
  fun _ _ h => nomatch h

theorem Encoding.iterationOpen (c : CoreIx) (ct : Fin 8) : Encoding.Statement (.iterationOpen c ct) :=
  fun _ _ h => nomatch h

theorem Encoding.quiescenceVerdict (c : CoreIx) : Encoding.Statement (.quiescenceVerdict c) :=
  fun _ _ h => nomatch h

theorem Encoding.deadlockTrap (c : CoreIx) : Encoding.Statement (.deadlockTrap c) :=
  fun _ _ h => nomatch h

theorem Encoding.reservedOpcode (w : Word) : Encoding.Statement (.reservedOpcode w) :=
  fun _ _ h => nomatch h

theorem Encoding.fabricCycle  : Encoding.Statement .fabricCycle :=
  fun _ _ h => nomatch h

theorem Encoding.taskReady (d : DieIx) (q : Fin 16) (slot : BitVec 8) : Encoding.Statement (.taskReady d q slot) :=
  fun _ _ h => nomatch h

theorem Encoding.schedulerBind (d : DieIx) : Encoding.Statement (.schedulerBind d) :=
  fun _ _ h => nomatch h

theorem Encoding.preempt (d : DieIx) : Encoding.Statement (.preempt d) :=
  fun _ _ h => nomatch h

theorem Encoding.freeze (d : DieIx) : Encoding.Statement (.freeze d) :=
  fun _ _ h => nomatch h

theorem Encoding.taskRetire (d : DieIx) (q : Fin 16) (slot : BitVec 8) : Encoding.Statement (.taskRetire d q slot) :=
  fun _ _ h => nomatch h

theorem Encoding.collRendezvous (team : BitVec 16) (r : Rendezvous) :
    Encoding.Statement (.collRendezvous team r) :=
  fun _ _ h => nomatch h

theorem Encoding.collCombine (team : BitVec 16) (seq : BitVec 16) (t : Arrival) : Encoding.Statement (.collCombine team seq t) :=
  fun _ _ h => nomatch h

theorem Encoding.pairHomeCell (k : ClusterIx) : Encoding.Statement (.pairHomeCell k) :=
  fun _ _ h => nomatch h

theorem Encoding.pairRecordPush (k : ClusterIx) : Encoding.Statement (.pairRecordPush k) :=
  fun _ _ h => nomatch h

theorem Encoding.kvRequestRoute (i : Nat) : Encoding.Statement (.kvRequestRoute i) :=
  fun _ _ h => nomatch h

theorem Encoding.plainDelivery (k : ClusterIx) (i : Nat) : Encoding.Statement (.plainDelivery k i) :=
  fun _ _ h => nomatch h

theorem Encoding.plainElementFire (k : ClusterIx) (e : Fin 128) : Encoding.Statement (.plainElementFire k e) :=
  fun _ _ h => nomatch h

theorem Encoding.storeHomeFailure (c : CoreIx) (id : Nat) : Encoding.Statement (.storeHomeFailure c id) :=
  fun _ _ h => nomatch h

theorem Encoding.passInbound (c : CoreIx) : Encoding.Statement (.passInbound c) :=
  fun _ _ h => nomatch h

theorem Encoding.passOutbound (c : CoreIx) : Encoding.Statement (.passOutbound c) :=
  fun _ _ h => nomatch h

theorem Encoding.ringPass (c : CoreIx) (slot : Fin 8) : Encoding.Statement (.ringPass c slot) :=
  fun _ _ h => nomatch h

theorem Encoding.coldreset  : Encoding.Statement .coldreset :=
  fun _ _ h => nomatch h

theorem Encoding.warmreset  : Encoding.Statement .warmreset :=
  fun _ _ h => nomatch h

theorem Encoding.boot  : Encoding.Statement .boot :=
  fun _ _ h => nomatch h

theorem Encoding.recoveryFetch  : Encoding.Statement .recoveryFetch :=
  fun _ _ h => nomatch h

theorem Encoding.spdmMeasurement (index : Fin 5) : Encoding.Statement (.spdmMeasurement index) :=
  fun _ _ h => nomatch h

theorem Encoding.hostAccess (r : HostReq) : Encoding.Statement (.hostAccess r) :=
  fun _ _ h => nomatch h

theorem Encoding.hostAtomicop (r : HostAtomic) : Encoding.Statement (.hostAtomicop r) :=
  fun _ _ h => nomatch h

theorem Encoding.atsTranslationCompletion (page : BitVec 34) (frame : BitVec 34) : Encoding.Statement (.atsTranslationCompletion page frame) :=
  fun _ _ h => nomatch h

theorem Encoding.atsInvalidation (page : BitVec 34) : Encoding.Statement (.atsInvalidation page) :=
  fun _ _ h => nomatch h

theorem Encoding.tqFirstHalfWrite (d : DieIx) (q : Fin 16) (v : BitVec 512) : Encoding.Statement (.tqFirstHalfWrite d q v) :=
  fun _ _ h => nomatch h

theorem Encoding.tqSecondHalfWrite (d : DieIx) (q : Fin 16) (v : BitVec 512) : Encoding.Statement (.tqSecondHalfWrite d q v) :=
  fun _ _ h => nomatch h

theorem Encoding.taskCounterWrite (d : DieIx) (t : Fin 1024) (v : BitVec 32) : Encoding.Statement (.taskCounterWrite d t v) :=
  fun _ _ h => nomatch h

theorem Encoding.fqpop (d : DieIx) : Encoding.Statement (.fqpop d) :=
  fun _ _ h => nomatch h

theorem Encoding.fzareaWrite (d : DieIx) (v : Word) : Encoding.Statement (.fzareaWrite d v) :=
  fun _ _ h => nomatch h

theorem Encoding.kvPoolWrite (d : DieIx) (r : KvPoolReg) (v : Word) : Encoding.Statement (.kvPoolWrite d r v) :=
  fun _ _ h => nomatch h

theorem Encoding.dmaWindowWrite (n : Fin 8) (limit : Bool) (v : Word) : Encoding.Statement (.dmaWindowWrite n limit v) :=
  fun _ _ h => nomatch h

theorem Encoding.dwlock (v : Word) : Encoding.Statement (.dwlock v) :=
  fun _ _ h => nomatch h

theorem Encoding.stlinkWrite (v : Word) : Encoding.Statement (.stlinkWrite v) :=
  fun _ _ h => nomatch h

theorem Encoding.routeTableWrite (p : Fin 512) (v : BitVec 16) : Encoding.Statement (.routeTableWrite p v) :=
  fun _ _ h => nomatch h

theorem Encoding.registerWrite (r : PlainReg) (v : Word) : Encoding.Statement (.registerWrite r v) :=
  fun _ _ h => nomatch h

theorem Encoding.clockStepChange  : Encoding.Statement .clockStepChange :=
  fun _ _ h => nomatch h

theorem Encoding.cycleStretch (d : DieIx) : Encoding.Statement (.cycleStretch d) :=
  fun _ _ h => nomatch h

theorem Encoding.linkRetrainFailure (l : Fin 18) : Encoding.Statement (.linkRetrainFailure l) :=
  fun _ _ h => nomatch h

theorem Encoding.remoteAccess (r : RemoteReq) : Encoding.Statement (.remoteAccess r) :=
  fun _ _ h => nomatch h

theorem Encoding.ktimeTick  : Encoding.Statement .ktimeTick :=
  fun _ _ h => nomatch h

theorem Encoding.stretchRelease (d : DieIx) : Encoding.Statement (.stretchRelease d) :=
  fun _ _ h => nomatch h

theorem Encoding.stanumPortTraining (p : Fin 18) (up : Bool) : Encoding.Statement (.stanumPortTraining p up) :=
  fun _ _ h => nomatch h

theorem Encoding.remoteReplayFailure (c : CoreIx) (id : Nat) : Encoding.Statement (.remoteReplayFailure c id) :=
  fun _ _ h => nomatch h

theorem Encoding.atsDisable  : Encoding.Statement .atsDisable :=
  fun _ _ h => nomatch h

end Sys2Proof.Laws
end

