-- ==== Sys2Proof/Laws/Translation.lean ====
section
/-!
SUPPORT. What a correction, a walk, a lookup and a translation leave as it is: every control processor, the memory and the
turn.
-/
namespace Sys2Proof.Laws
open Sys2Proof.Machine

/-- The control processors, the memory, the package registers and the turn of two states are the same. -/
structure Keeps (s t : State) : Prop where
  cp : ∀ c, t.cpOf c = s.cpOf c
  mem : t.mem = s.mem
  pkg : t.pkg = s.pkg
  focus : t.focus = s.focus

theorem Keeps.refl (s : State) : Keeps s s := ⟨fun _ => rfl, rfl, rfl, rfl⟩

theorem Keeps.trans {s t u : State} (a : Keeps s t) (b : Keeps t u) : Keeps s u :=
  ⟨fun c => (b.cp c).trans (a.cp c), b.mem.trans a.mem, b.pkg.trans a.pkg, b.focus.trans a.focus⟩

theorem Keeps.issuing {s t : State} (a : Keeps s t) : t.cp = s.cp := by
  rw [State.cp, a.focus, a.cp, State.cp]

theorem cpOf_modCore_of {f : Core → Core} (s : State) (c n : Nat) (h : ∀ x, (f x).cp = x.cp) :
    (s.modCore c f).cpOf n = s.cpOf n := by
  rw [State.cpOf, core_modCore]
  split
  · next e => rw [h, e]; rfl
  · rfl

theorem keeps_modCore {f : Core → Core} (s : State) (c : Nat) (h : ∀ x, (f x).cp = x.cp) : Keeps s (s.modCore c f) :=
  ⟨fun n => cpOf_modCore_of s c n h, rfl, rfl, rfl⟩

theorem keeps_modCluster (s : State) (k : Nat) (f : Cluster → Cluster) : Keeps s (s.modCluster k f) :=
  ⟨fun _ => rfl, rfl, rfl, rfl⟩

theorem keeps_foldl {α : Type} (f : State → α → State) (h : ∀ s a, Keeps s (f s a)) :
    ∀ (l : List α) (s : State), Keeps s (l.foldl f s)
  | [], s => .refl s
  | a :: l, s => (h s a).trans (keeps_foldl f h l (f s a))

theorem keeps_correctHalf (d : Nat) (s : State) (h : Nat) : Keeps s (State.correctHalf d s h) := by
  unfold State.correctHalf
  split
  · exact ⟨fun _ => rfl, rfl, rfl, rfl⟩
  · exact .refl s

theorem keeps_eccRead (s : State) (pa n : Nat) : Keeps s (s.eccRead pa n) :=
  keeps_foldl _ (keeps_correctHalf _) _ s

theorem keeps_walkFrom (root : BitVec 58) (va : Nat) :
    ∀ (n : Nat) (s : State) (t : Nat), Keeps s (s.walkFrom root va t n).1
  | 0, s, _ => .refl s
  | l + 1, s, t => by
    unfold State.walkFrom
    dsimp only
    have h := keeps_eccRead s (t + 8 * (va / 2 ^ (12 + 9 * l) % 512)) 8
    split
    · exact .refl s
    · repeat' split
      all_goals first | exact h | exact h.trans (keeps_walkFrom root va l _ _)

theorem keeps_walk (s : State) (root : BitVec 58) (va : Nat) : Keeps s (s.walk root va).1 := by
  unfold State.walk
  split
  · exact keeps_walkFrom root va 5 s _
  · exact .refl s

theorem keeps_lookup (s : State) (c : Nat) (root : BitVec 58) (va : Nat) : Keeps s (s.lookup c root va).1 := by
  unfold State.lookup
  split
  · exact .refl s
  · split
    · exact .refl s
    · split
      · next x _ => exact keeps_modCore s c (f := fun y => { y with tlb := tlbAdd 128 y.tlb x }) fun _ => rfl
      · dsimp only
        have h := (keeps_modCore s c (f := fun y =>
          { y with grid := { y.grid with pcs := tabSet 0 y.grid.pcs 12 (tabGet 0 y.grid.pcs 12 + 1) } })
            fun _ => rfl).trans (keeps_walk _ root va)
        split
        · next x _ e =>
          rw [e] at h
          exact (h.trans (keeps_modCore _ c (f := fun y => { y with tlb := tlbAdd 128 y.tlb x }) fun _ => rfl)).trans
            (keeps_modCluster _ (c / 12) fun y => { y with tlb := tlbAdd 4096 y.tlb x })
        · next e => rw [e] at h; exact h

theorem keeps_translate (s : State) (c : Nat) (root : BitVec 58) (va : Nat) (u : Use) (sys : Bool) :
    Keeps s (s.translate c root va u sys).1 := by
  have h := keeps_lookup s c root va
  unfold State.translate
  split
  · next e => rw [e] at h; exact h
  · next e => rw [e] at h; split <;> exact h

/-- Translating the parts of an access changes no control processor and no memory (R225, R384). -/
theorem keeps_translateParts (c ea : Nat) (u : Use) (sys : Bool) :
    ∀ (l : List (Nat × Nat)) (s : State), Keeps s (s.translateParts c ea u sys l).1
  | [], s => .refl s
  | p :: l, s => by
    have h := keeps_translate s c (s.cpOf c).ctl.xroot ((ea + p.1) % 2 ^ 64) u sys
    unfold State.translateParts
    split
    · next e => rw [e] at h; exact h
    · next t pa e =>
      rw [e] at h
      have k := keeps_translateParts c ea u sys l t
      split
      · next e => rw [e] at k; exact h.trans k
      · next e => rw [e] at k; exact h.trans k

/-- The removal of `xlat.inv` changes no control processor and no memory (R388). -/
theorem keeps_dropXlats (s : State) (sc c : Nat) (gone : Xlat → Bool) : Keeps s (s.dropXlats sc c gone) :=
  (keeps_foldl (fun (s : State) n => s.modCore n fun x => x.dropXlats gone)
      (fun s n => keeps_modCore s n fun _ => rfl) _ s).trans
    (keeps_foldl (fun (s : State) k => s.modCluster k fun x => { x with tlb := x.tlb.filter fun e => !gone e })
      (fun s _ => keeps_modCluster s _ _) _ _)

end Sys2Proof.Laws
end

