-- ==== Sys2Proof/Laws/Turns.lean ====
section
/-!
SUPPORT. Every event of a turn is `exec` of an event: what holds of `exec` on the events holds of the turns.
-/
namespace Sys2Proof.Laws.Turns

open Sys2Proof Machine

/-- The event is `exec` of an instruction that is one. -/
def IsExec (f : Event) : Prop := ∃ i, isEvent i = true ∧ ∀ s, f s = exec i s

theorem pendingResultWrite_ev {c r} : IsExec (execPendingResultWrite c r) := ⟨.pendingResultWrite c r, rfl, fun _ => rfl⟩
theorem waitEnd_ev {c} : IsExec (execWaitEnd c) := ⟨.waitEnd c, rfl, fun _ => rfl⟩
theorem barrierEnd_ev {c} : IsExec (execBarrierEnd c) := ⟨.barrierEnd c, rfl, fun _ => rfl⟩
theorem fenceResume_ev {c} : IsExec (execFenceResume c) := ⟨.fenceResume c, rfl, fun _ => rfl⟩
theorem queueFormResume_ev {c} : IsExec (execQueueFormResume c) := ⟨.queueFormResume c, rfl, fun _ => rfl⟩
theorem ctlWaitEnd_ev {c} : IsExec (execCtlWaitEnd c) := ⟨.ctlWaitEnd c, rfl, fun _ => rfl⟩
theorem collWaitEnd_ev {c} : IsExec (execCollWaitEnd c) := ⟨.collWaitEnd c, rfl, fun _ => rfl⟩
theorem quiPollWaitEnd_ev {c} : IsExec (execQuiPollWaitEnd c) := ⟨.quiPollWaitEnd c, rfl, fun _ => rfl⟩
theorem semRetest_ev {c} : IsExec (execSemRetest c) := ⟨.semRetest c, rfl, fun _ => rfl⟩
theorem bankAccess_ev {r id seg} : IsExec (execBankAccess r id seg) := ⟨.bankAccess r id seg, rfl, fun _ => rfl⟩
theorem routerForward_ev {c rt} : IsExec (execRouterForward c rt) := ⟨.routerForward c rt, rfl, fun _ => rfl⟩
theorem kill_ev {c pe} : IsExec (execKill c pe) := ⟨.kill c pe, rfl, fun _ => rfl⟩
theorem killReturn_ev {c ch} : IsExec (execKillReturn c ch) := ⟨.killReturn c ch, rfl, fun _ => rfl⟩
theorem peFire_ev {c pe} : IsExec (execPeFire c pe) := ⟨.peFire c pe, rfl, fun _ => rfl⟩
theorem digitEmit_ev {c pe} : IsExec (execDigitEmit c pe) := ⟨.digitEmit c pe, rfl, fun _ => rfl⟩
theorem steer_ev {c rt} : IsExec (execSteer c rt) := ⟨.steer c rt, rfl, fun _ => rfl⟩
theorem carry_ev {c rt} : IsExec (execCarry c rt) := ⟨.carry c rt, rfl, fun _ => rfl⟩
theorem invar_ev {c rt} : IsExec (execInvar c rt) := ⟨.invar c rt, rfl, fun _ => rfl⟩
theorem merge_ev {c rt} : IsExec (execMerge c rt) := ⟨.merge c rt, rfl, fun _ => rfl⟩
theorem join_ev {c rt} : IsExec (execJoin c rt) := ⟨.join c rt, rfl, fun _ => rfl⟩
theorem order_ev {c rt} : IsExec (execOrder c rt) := ⟨.order c rt, rfl, fun _ => rfl⟩
theorem arb_ev {c rt} : IsExec (execArb c rt) := ⟨.arb c rt, rfl, fun _ => rfl⟩
theorem tagin_ev {c rt} : IsExec (execTagin c rt) := ⟨.tagin c rt, rfl, fun _ => rfl⟩
theorem tagout_ev {c rt} : IsExec (execTagout c rt) := ⟨.tagout c rt, rfl, fun _ => rfl⟩
theorem mld_ev {c mt port part} : IsExec (execMld c mt port part) := ⟨.mld c mt port part, rfl, fun _ => rfl⟩
theorem mst_ev {c mt port part} : IsExec (execMst c mt port part) := ⟨.mst c mt port part, rfl, fun _ => rfl⟩
theorem gath_ev {c mt port part} : IsExec (execGath c mt port part) := ⟨.gath c mt port part, rfl, fun _ => rfl⟩
theorem scat_ev {c mt port part} : IsExec (execScat c mt port part) := ⟨.scat c mt port part, rfl, fun _ => rfl⟩
theorem upd_ev {c mt port part} : IsExec (execUpd c mt port part) := ⟨.upd c mt port part, rfl, fun _ => rfl⟩
theorem dep_ev {c mt port part} : IsExec (execDep c mt port part) := ⟨.dep c mt port part, rfl, fun _ => rfl⟩
theorem sparseUpdateApply_ev {c mt bank idx into} : IsExec (execSparseUpdateApply c mt bank idx into) := ⟨.sparseUpdateApply c mt bank idx into, rfl, fun _ => rfl⟩
theorem mxTokenEnqueue_ev {c} : IsExec (execMxTokenEnqueue c) := ⟨.mxTokenEnqueue c, rfl, fun _ => rfl⟩
theorem mma_ev {c} : IsExec (execMma c) := ⟨.mma c, rfl, fun _ => rfl⟩
theorem mmaAcc_ev {c} : IsExec (execMmaAcc c) := ⟨.mmaAcc c, rfl, fun _ => rfl⟩
theorem accRd_ev {c} : IsExec (execAccRd c) := ⟨.accRd c, rfl, fun _ => rfl⟩
theorem accClr_ev {c} : IsExec (execAccClr c) := ⟨.accClr c, rfl, fun _ => rfl⟩
theorem matrixStep_ev {c} : IsExec (execMatrixStep c) := ⟨.matrixStep c, rfl, fun _ => rfl⟩
theorem streamElement_ev {c ag slot} : IsExec (execStreamElement c ag slot) := ⟨.streamElement c ag slot, rfl, fun _ => rfl⟩
theorem streamWrite_ev {c ag slot} : IsExec (execStreamWrite c ag slot) := ⟨.streamWrite c ag slot, rfl, fun _ => rfl⟩
theorem streamDone_ev {c ag slot} : IsExec (execStreamDone c ag slot) := ⟨.streamDone c ag slot, rfl, fun _ => rfl⟩
theorem streamCancelComplete_ev {c ag slot} : IsExec (execStreamCancelComplete c ag slot) := ⟨.streamCancelComplete c ag slot, rfl, fun _ => rfl⟩
theorem barIfDecide_ev {c ag slot} : IsExec (execBarIfDecide c ag slot) := ⟨.barIfDecide c ag slot, rfl, fun _ => rfl⟩
theorem templateFiring_ev {c tm} : IsExec (execTemplateFiring c tm) := ⟨.templateFiring c tm, rfl, fun _ => rfl⟩
theorem copyEnd_ev {c tm} : IsExec (execCopyEnd c tm) := ⟨.copyEnd c tm, rfl, fun _ => rfl⟩
theorem compressPhase_ev {c tm} : IsExec (execCompressPhase c tm) := ⟨.compressPhase c tm, rfl, fun _ => rfl⟩
theorem sbPush_ev {c sb} : IsExec (execSbPush c sb) := ⟨.sbPush c sb, rfl, fun _ => rfl⟩
theorem sbPop_ev {c sb} : IsExec (execSbPop c sb) := ⟨.sbPop c sb, rfl, fun _ => rfl⟩
theorem frameInstall_ev {c idx} : IsExec (execFrameInstall c idx) := ⟨.frameInstall c idx, rfl, fun _ => rfl⟩
theorem demandFill_ev {c node} : IsExec (execDemandFill c node) := ⟨.demandFill c node, rfl, fun _ => rfl⟩
theorem configRecord_ev {c node} : IsExec (execConfigRecord c node) := ⟨.configRecord c node, rfl, fun _ => rfl⟩
theorem evictDrainClear_ev {c idx} : IsExec (execEvictDrainClear c idx) := ⟨.evictDrainClear c idx, rfl, fun _ => rfl⟩
theorem permit_ev {c ct} : IsExec (execPermit c ct) := ⟨.permit c ct, rfl, fun _ => rfl⟩
theorem doneToken_ev {c ct} : IsExec (execDoneToken c ct) := ⟨.doneToken c ct, rfl, fun _ => rfl⟩
theorem iterationOpen_ev {c ct} : IsExec (execIterationOpen c ct) := ⟨.iterationOpen c ct, rfl, fun _ => rfl⟩
theorem quiescenceVerdict_ev {c} : IsExec (execQuiescenceVerdict c) := ⟨.quiescenceVerdict c, rfl, fun _ => rfl⟩
theorem deadlockTrap_ev {c} : IsExec (execDeadlockTrap c) := ⟨.deadlockTrap c, rfl, fun _ => rfl⟩
theorem taskReady_ev {d q slot} : IsExec (execTaskReady d q slot) := ⟨.taskReady d q slot, rfl, fun _ => rfl⟩
theorem schedulerBind_ev {d} : IsExec (execSchedulerBind d) := ⟨.schedulerBind d, rfl, fun _ => rfl⟩
theorem preempt_ev {d} : IsExec (execPreempt d) := ⟨.preempt d, rfl, fun _ => rfl⟩
theorem freeze_ev {d} : IsExec (execFreeze d) := ⟨.freeze d, rfl, fun _ => rfl⟩
theorem taskRetire_ev {d q slot} : IsExec (execTaskRetire d q slot) := ⟨.taskRetire d q slot, rfl, fun _ => rfl⟩
theorem collRendezvous_ev {team r} : IsExec (execCollRendezvous team r) :=
  ⟨.collRendezvous team r, rfl, fun _ => rfl⟩
theorem collCombine_ev {team seq t} : IsExec (execCollCombine team seq t) := ⟨.collCombine team seq t, rfl, fun _ => rfl⟩
theorem pairHomeCell_ev {k} : IsExec (execPairHomeCell k) := ⟨.pairHomeCell k, rfl, fun _ => rfl⟩
theorem pairRecordPush_ev {k} : IsExec (execPairRecordPush k) := ⟨.pairRecordPush k, rfl, fun _ => rfl⟩
theorem kvRequestRoute_ev {idx} : IsExec (execKvRequestRoute idx) := ⟨.kvRequestRoute idx, rfl, fun _ => rfl⟩
theorem plainDelivery_ev {k idx} : IsExec (execPlainDelivery k idx) := ⟨.plainDelivery k idx, rfl, fun _ => rfl⟩
theorem plainElementFire_ev {k e} : IsExec (execPlainElementFire k e) := ⟨.plainElementFire k e, rfl, fun _ => rfl⟩
theorem storeHomeFailure_ev {c id} : IsExec (execStoreHomeFailure c id) := ⟨.storeHomeFailure c id, rfl, fun _ => rfl⟩
theorem passInbound_ev {c} : IsExec (execPassInbound c) := ⟨.passInbound c, rfl, fun _ => rfl⟩
theorem passOutbound_ev {c} : IsExec (execPassOutbound c) := ⟨.passOutbound c, rfl, fun _ => rfl⟩
theorem ringPass_ev {c slot} : IsExec (execRingPass c slot) := ⟨.ringPass c slot, rfl, fun _ => rfl⟩
theorem boot_ev : IsExec (execBoot) := ⟨.boot, rfl, fun _ => rfl⟩
theorem recoveryFetch_ev : IsExec (execRecoveryFetch) := ⟨.recoveryFetch, rfl, fun _ => rfl⟩
theorem ktimeTick_ev : IsExec (execKtimeTick) := ⟨.ktimeTick, rfl, fun _ => rfl⟩

/-- Every event of a list is `exec` of an event. -/
def All (l : List Event) : Prop := ∀ f ∈ l, IsExec f

theorem all_nil : All [] := fun _ h => nomatch h
theorem all_cons {f : Event} {l : List Event} (h : IsExec f) (hl : All l) : All (f :: l) := by
  intro g hg
  rcases List.mem_cons.mp hg with rfl | hg
  · exact h
  · exact hl g hg
theorem all_append {l m : List Event} (hl : All l) (hm : All m) : All (l ++ m) := by
  intro g hg
  rcases List.mem_append.mp hg with hg | hg
  · exact hl g hg
  · exact hm g hg
theorem all_map {α : Type} {l : List α} {f : α → Event} (h : ∀ a, IsExec (f a)) : All (l.map f) := by
  intro g hg
  obtain ⟨a, _, rfl⟩ := List.mem_map.mp hg
  exact h a
theorem all_flatMap {α : Type} {l : List α} {f : α → List Event} (h : ∀ a, All (f a)) : All (l.flatMap f) := by
  intro g hg
  obtain ⟨a, _, hg⟩ := List.mem_flatMap.mp hg
  exact h a g hg
theorem all_ite {c : Prop} [Decidable c] {l m : List Event} (hl : All l) (hm : All m) : All (if c then l else m) := by
  split <;> assumption

theorem portOp_ev (op : Nat) (c : CoreIx) (t p : Fin 4) (part : PortPart) : IsExec (portOp op c t p part) := by
  unfold portOp
  split
  · exact mld_ev
  · exact mst_ev
  · exact gath_ev
  · exact scat_ev
  · exact upd_ev
  · exact dep_ev

theorem cp_all (c : CoreIx) (x : Cp) : All (cpEvents c x) := by
  unfold cpEvents
  with_reducible repeat' first
    | intro _ | apply all_nil | apply all_append | apply all_cons | apply all_map | apply all_flatMap
    | apply all_ite | apply pendingResultWrite_ev | apply waitEnd_ev | apply barrierEnd_ev | apply fenceResume_ev
    | apply queueFormResume_ev | apply ctlWaitEnd_ev | apply collWaitEnd_ev | apply quiPollWaitEnd_ev
    | apply semRetest_ev | apply bankAccess_ev | apply storeHomeFailure_ev

theorem node_all (c : CoreIx) (r : Fin 16) : All (nodeEvents c r) := by
  unfold nodeEvents
  with_reducible repeat' first
    | intro _ | apply all_nil | apply all_append | apply all_cons | apply all_map | apply all_flatMap
    | apply all_ite | apply routerForward_ev | apply kill_ev | apply killReturn_ev | apply peFire_ev
    | apply digitEmit_ev | apply steer_ev | apply carry_ev | apply invar_ev | apply merge_ev | apply join_ev
    | apply order_ev | apply arb_ev | apply tagin_ev | apply tagout_ev | apply demandFill_ev | apply configRecord_ev

theorem endpoint_all (c : CoreIx) (k : NodeId) : All (endpointEvents c k) := by
  unfold endpointEvents
  with_reducible repeat' first
    | intro _ | apply all_nil | apply all_append | apply all_cons | apply all_map | apply all_flatMap
    | apply all_ite | apply killReturn_ev | apply demandFill_ev | apply configRecord_ev

theorem port_all (s : State) (c : CoreIx) (a b : Fin 4) : All (s.portEvents c a b) := by
  unfold State.portEvents
  with_reducible repeat' first
    | intro _ | apply all_nil | apply all_append | apply all_cons | apply all_map | apply all_flatMap
    | apply all_ite | apply portOp_ev

theorem window_all (c : CoreIx) (g : Grid) : All (windowEvents c g) := by
  unfold windowEvents
  with_reducible repeat' first
    | intro _ | apply all_nil | apply all_append | apply all_cons | apply all_map | apply all_flatMap
    | apply all_ite | apply sparseUpdateApply_ev

theorem stream_all (c : CoreIx) (n : Nat) : All (streamEvents c n) := by
  unfold streamEvents
  with_reducible repeat' first
    | intro _ | apply all_nil | apply all_append | apply all_cons | apply all_map | apply all_flatMap
    | apply all_ite | apply streamElement_ev | apply streamWrite_ev | apply streamDone_ev
    | apply streamCancelComplete_ev | apply barIfDecide_ev

theorem buffer_all (c : CoreIx) (n : Fin 16) : All (bufferEvents c n) := by
  unfold bufferEvents
  with_reducible repeat' first
    | intro _ | apply all_nil | apply all_append | apply all_cons | apply all_map | apply all_flatMap
    | apply all_ite | apply templateFiring_ev | apply copyEnd_ev | apply compressPhase_ev | apply sbPush_ev
    | apply sbPop_ev

theorem flight_all (c : CoreIx) (l : List Flown) : All (flightEvents c l) := by
  unfold flightEvents
  with_reducible repeat' first
    | intro _ | apply all_nil | apply all_append | apply all_cons | apply all_map | apply all_flatMap
    | apply bankAccess_ev

theorem access_all (c : CoreIx) (x : Core) : All (accessEvents c x) := by
  unfold accessEvents
  with_reducible repeat' first
    | intro _ | apply all_append | apply all_flatMap | apply flight_all

theorem core_all (s : State) (c : CoreIx) : All (s.coreEvents c) := by
  unfold State.coreEvents
  with_reducible repeat' first
    | intro _ | apply all_nil | apply all_append | apply all_cons | apply all_map | apply all_flatMap
    | apply all_ite | apply cp_all | apply access_all | apply node_all | apply endpoint_all | apply port_all | apply window_all
    | apply stream_all | apply buffer_all | apply mxTokenEnqueue_ev | apply mma_ev | apply mmaAcc_ev
    | apply accRd_ev | apply accClr_ev | apply matrixStep_ev | apply frameInstall_ev | apply evictDrainClear_ev
    | apply permit_ev | apply doneToken_ev | apply iterationOpen_ev | apply quiescenceVerdict_ev
    | apply deadlockTrap_ev | apply passInbound_ev | apply passOutbound_ev | apply ringPass_ev

theorem coll_all (s : State) : All (s.collEvents) := by
  unfold State.collEvents
  with_reducible repeat' first
    | intro _ | apply all_nil | apply all_append | apply all_cons | apply all_map | apply all_flatMap
    | apply all_ite | apply collRendezvous_ev | apply collCombine_ev

theorem cluster_all (s : State) (k : Nat) : All (s.clusterEvents k) := by
  unfold State.clusterEvents
  with_reducible repeat' first
    | intro _ | apply all_nil | apply all_append | apply all_cons | apply all_map
    | apply all_flatMap | apply all_ite | apply pairHomeCell_ev | apply pairRecordPush_ev | apply plainDelivery_ev
    | apply plainElementFire_ev | apply demandFill_ev | apply flight_all | split

theorem die_all (s : State) (d : Nat) : All (s.dieEvents d) := by
  unfold State.dieEvents
  with_reducible repeat' first
    | intro _ | apply all_nil | apply all_append | apply all_cons | apply all_map | apply all_flatMap
    | apply all_ite | apply taskReady_ev | apply schedulerBind_ev | apply preempt_ev | apply freeze_ev
    | apply taskRetire_ev

theorem package_all (s : State) : All (s.packageEvents) := by
  unfold State.packageEvents
  with_reducible repeat' first
    | intro _ | apply all_nil | apply all_append | apply all_cons | apply all_map | apply all_flatMap
    | apply all_ite | apply coll_all | apply cluster_all | apply die_all | apply flight_all | apply bankAccess_ev
    | apply kvRequestRoute_ev | apply boot_ev
    | apply recoveryFetch_ev | apply ktimeTick_ev

/-- Every event of a turn is `exec` of an event. -/
theorem turn_all (s : State) : All s.turnEvents :=
  all_append (all_ite (core_all s _) all_nil) (all_ite all_nil (package_all s))

end Sys2Proof.Laws.Turns
end

