-- ==== Sys2Proof/Tests/Slice0.lean ====
section
/-!
SUPPORT. Tests: words of every form, refused words and ill-formed terms, single steps with results worked out from the
manual, and for every statement of Obligations.lean a state and operands that meet its hypotheses.
-/
namespace Sys2Proof.Tests

open Machine

-- One theorem at a time: the kernel evaluates each, and many at once ask for a thread each.
set_option Elab.async false

/-- No guard. -/
def gd : Guard := ⟨false, 0⟩

/-- The word decodes to the form, and is the word of the form. -/
def reads (w : Nat) (i : Instr) : Prop := decodeTableWord 64 w = some i ∧ encode i = some (BitVec.ofNat 64 w)

/-- The word is refused, by that name. -/
def refused (w : Word) (r : Reject) : Prop := decode w = .error r

/-! ### Words -/

/-- Words of the system forms, put together from the formats of R96 and the fields of R147-R150. -/
theorem test_decode_system :
    reads 0x0000000000000000 (.nop gd)
    ∧ reads 0x0001000000000000 (.halt gd)
    ∧ reads 0x0003000000000000 (.tret gd)
    ∧ reads 0x0004000000000000 (.wait gd)
    ∧ reads 0x000200000000BEEF (.trap gd 0xBEEF)
    ∧ reads 0x000500000000BEEF (.brk gd 0xBEEF) :=
  ⟨⟨rfl, rfl⟩, ⟨rfl, rfl⟩, ⟨rfl, rfl⟩, ⟨rfl, rfl⟩, ⟨rfl, rfl⟩, ⟨rfl, rfl⟩⟩

/-- Words of the integer forms, put together from the formats of R96 and the fields of R103, R104. -/
theorem test_decode_integer :
    reads 0x0400AAB300000000 (.add gd 21 ⟨10, true⟩ ⟨19, false⟩)
    ∧ reads 0x0401AAB300000000 (.sub gd 21 ⟨10, true⟩ ⟨19, false⟩)
    ∧ reads 0x0402AAB300000000 (.and gd 21 ⟨10, true⟩ ⟨19, false⟩)
    ∧ reads 0x0403AAB300000000 (.or gd 21 ⟨10, true⟩ ⟨19, false⟩)
    ∧ reads 0x0404AAB300000000 (.xor gd 21 ⟨10, true⟩ ⟨19, false⟩)
    ∧ reads 0x0405AAB300000000 (.andn gd 21 ⟨10, true⟩ ⟨19, false⟩)
    ∧ reads 0x0406AAB300000000 (.shl gd 21 ⟨10, true⟩ ⟨19, false⟩)
    ∧ reads 0x0407AAB300000000 (.shr gd 21 ⟨10, true⟩ ⟨19, false⟩)
    ∧ reads 0x0408AAB300000000 (.sra gd 21 ⟨10, true⟩ ⟨19, false⟩)
    ∧ reads 0x0409AAB300000000 (.rol gd 21 ⟨10, true⟩ ⟨19, false⟩)
    ∧ reads 0x040AAAB300000000 (.min gd 21 ⟨10, true⟩ ⟨19, false⟩)
    ∧ reads 0x040BAAB300000000 (.max gd 21 ⟨10, true⟩ ⟨19, false⟩)
    ∧ reads 0x040CAAB300000000 (.minz gd 21 ⟨10, true⟩ ⟨19, false⟩)
    ∧ reads 0x040DAAB300000000 (.maxz gd 21 ⟨10, true⟩ ⟨19, false⟩)
    ∧ reads 0x040EAAB300000000 (.mul gd 21 ⟨10, true⟩ ⟨19, false⟩)
    ∧ reads 0x040FAAB300000000 (.mulh gd 21 ⟨10, true⟩ ⟨19, false⟩) :=
  ⟨⟨rfl, rfl⟩, ⟨rfl, rfl⟩, ⟨rfl, rfl⟩, ⟨rfl, rfl⟩, ⟨rfl, rfl⟩, ⟨rfl, rfl⟩, ⟨rfl, rfl⟩, ⟨rfl, rfl⟩, ⟨rfl, rfl⟩,
    ⟨rfl, rfl⟩, ⟨rfl, rfl⟩, ⟨rfl, rfl⟩, ⟨rfl, rfl⟩, ⟨rfl, rfl⟩, ⟨rfl, rfl⟩, ⟨rfl, rfl⟩⟩

/-- Words of the integer forms, put together from the formats of R96 and the fields of R103, R104. -/
theorem test_decode_integer_2 :
    reads 0x0410AAB300000000 (.mulhz gd 21 ⟨10, true⟩ ⟨19, false⟩)
    ∧ reads 0x0411AAB300000000 (.div gd 21 ⟨10, true⟩ ⟨19, false⟩)
    ∧ reads 0x0412AAB300000000 (.divz gd 21 ⟨10, true⟩ ⟨19, false⟩)
    ∧ reads 0x0413AAB300000000 (.rem gd 21 ⟨10, true⟩ ⟨19, false⟩)
    ∧ reads 0x0414AAB300000000 (.remz gd 21 ⟨10, true⟩ ⟨19, false⟩)
    ∧ reads 0x04158A4000000000 (.clz gd 17 ⟨9, false⟩)
    ∧ reads 0x04168A4000000000 (.ctz gd 17 ⟨9, false⟩)
    ∧ reads 0x04178A4000000000 (.popc gd 17 ⟨9, false⟩)
    ∧ reads 0x0418190598000000 (.sel gd 3 ⟨4, false⟩ ⟨5, true⟩ 6)
    ∧ reads 0x041919051A000000 (.bext gd 3 ⟨4, false⟩ ⟨5, false⟩ ⟨6, true⟩)
    ∧ reads 0x041A19051A000000 (.bins gd 3 ⟨4, false⟩ ⟨5, false⟩ ⟨6, true⟩) :=
  ⟨⟨rfl, rfl⟩, ⟨rfl, rfl⟩, ⟨rfl, rfl⟩, ⟨rfl, rfl⟩, ⟨rfl, rfl⟩, ⟨rfl, rfl⟩, ⟨rfl, rfl⟩, ⟨rfl, rfl⟩, ⟨rfl, rfl⟩,
    ⟨rfl, rfl⟩, ⟨rfl, rfl⟩⟩

/-- Words of the immediate forms, put together from the formats of R96 and the fields of R103, R104. -/
theorem test_decode_immediate :
    reads 0x0800191FFFFFFFFE (.addi gd 3 ⟨4, false⟩ 0x1FFFFFFFFE)
    ∧ reads 0x0801191FFFFFFFFE (.andi gd 3 ⟨4, false⟩ 0x1FFFFFFFFE)
    ∧ reads 0x0802191FFFFFFFFE (.ori gd 3 ⟨4, false⟩ 0x1FFFFFFFFE)
    ∧ reads 0x0803191FFFFFFFFE (.xori gd 3 ⟨4, false⟩ 0x1FFFFFFFFE)
    ∧ reads 0x0804192000000025 (.shli gd 3 ⟨4, true⟩ 37)
    ∧ reads 0x0805192000000025 (.shri gd 3 ⟨4, true⟩ 37)
    ∧ reads 0x0806192000000025 (.srai gd 3 ⟨4, true⟩ 37)
    ∧ reads 0x0807F81FFFFFFFFF (.li gd 31 0x1FFFFFFFFF)
    ∧ reads 0x080818C004000001 (.liH gd 3 ⟨3, false⟩ 0x4000001) :=
  ⟨⟨rfl, rfl⟩, ⟨rfl, rfl⟩, ⟨rfl, rfl⟩, ⟨rfl, rfl⟩, ⟨rfl, rfl⟩, ⟨rfl, rfl⟩, ⟨rfl, rfl⟩, ⟨rfl, rfl⟩, ⟨rfl, rfl⟩⟩

/-- Words of the compare forms, put together from the formats of R96 and the fields of R103, R104. -/
theorem test_decode_compare :
    reads 0x0EC0384200000000 (.cmpEq ⟨true, 3⟩ 7 ⟨1, false⟩ ⟨2, false⟩)
    ∧ reads 0x0C08284000000063 (.cmpiEq gd 5 ⟨1, false⟩ 99)
    ∧ reads 0x0EC1384200000000 (.cmpNe ⟨true, 3⟩ 7 ⟨1, false⟩ ⟨2, false⟩)
    ∧ reads 0x0C09284000000063 (.cmpiNe gd 5 ⟨1, false⟩ 99)
    ∧ reads 0x0EC2384200000000 (.cmpLt ⟨true, 3⟩ 7 ⟨1, false⟩ ⟨2, false⟩)
    ∧ reads 0x0C0A284000000063 (.cmpiLt gd 5 ⟨1, false⟩ 99)
    ∧ reads 0x0EC3384200000000 (.cmpGe ⟨true, 3⟩ 7 ⟨1, false⟩ ⟨2, false⟩)
    ∧ reads 0x0C0B284000000063 (.cmpiGe gd 5 ⟨1, false⟩ 99)
    ∧ reads 0x0EC4384200000000 (.cmpLo ⟨true, 3⟩ 7 ⟨1, false⟩ ⟨2, false⟩)
    ∧ reads 0x0C0C284000000063 (.cmpiLo gd 5 ⟨1, false⟩ 99)
    ∧ reads 0x0EC5384200000000 (.cmpHs ⟨true, 3⟩ 7 ⟨1, false⟩ ⟨2, false⟩)
    ∧ reads 0x0C0D284000000063 (.cmpiHs gd 5 ⟨1, false⟩ 99) :=
  ⟨⟨rfl, rfl⟩, ⟨rfl, rfl⟩, ⟨rfl, rfl⟩, ⟨rfl, rfl⟩, ⟨rfl, rfl⟩, ⟨rfl, rfl⟩, ⟨rfl, rfl⟩, ⟨rfl, rfl⟩, ⟨rfl, rfl⟩,
    ⟨rfl, rfl⟩, ⟨rfl, rfl⟩, ⟨rfl, rfl⟩⟩

/-- Words of the predicate forms, put together from the formats of R96 and the fields of R103, R104. -/
theorem test_decode_predicate :
    reads 0x1000098300000000 (.pand gd 1 6 3)
    ∧ reads 0x1001098300000000 (.por gd 1 6 3)
    ∧ reads 0x1002098300000000 (.pxor gd 1 6 3)
    ∧ reads 0x1003098300000000 (.pandn gd 1 6 3)
    ∧ reads 0x1004098000000000 (.pmov gd 1 6)
    ∧ reads 0x1005F18000000000 (.pget gd 30 6) :=
  ⟨⟨rfl, rfl⟩, ⟨rfl, rfl⟩, ⟨rfl, rfl⟩, ⟨rfl, rfl⟩, ⟨rfl, rfl⟩, ⟨rfl, rfl⟩⟩

/-- Words of the branch forms, put together from the formats of R96 and the fields of R103, R104. -/
theorem test_decode_branch :
    reads 0x14000000FFFFFFFF (.br gd 0xFFFFFFFF)
    ∧ reads 0x1401100000000005 (.call gd 2 5)
    ∧ reads 0x140200A000000000 (.ret gd ⟨2, true⟩)
    ∧ reads 0x140311C000000000 (.jr gd 2 ⟨7, false⟩)
    ∧ reads 0x14040006FFFFFFFD (.loop gd 6 0xFFFFFFFD) :=
  ⟨⟨rfl, rfl⟩, ⟨rfl, rfl⟩, ⟨rfl, rfl⟩, ⟨rfl, rfl⟩, ⟨rfl, rfl⟩⟩

/-- Words of the load and store forms, put together from the formats of R96 and the fields of R103, R104. -/
theorem test_decode_load_and_store :
    reads 0x1800424AABFFFFF8 (.ldS8 gd 8 ⟨⟨9, false⟩, ⟨10, true⟩, 0x3FFFFF8, true, 2⟩)
    ∧ reads 0x1801424AABFFFFF8 (.ldZ8 gd 8 ⟨⟨9, false⟩, ⟨10, true⟩, 0x3FFFFF8, true, 2⟩)
    ∧ reads 0x1802424AABFFFFF8 (.ldS16 gd 8 ⟨⟨9, false⟩, ⟨10, true⟩, 0x3FFFFF8, true, 2⟩)
    ∧ reads 0x1803424AABFFFFF8 (.ldZ16 gd 8 ⟨⟨9, false⟩, ⟨10, true⟩, 0x3FFFFF8, true, 2⟩)
    ∧ reads 0x1804424AABFFFFF8 (.ldS32 gd 8 ⟨⟨9, false⟩, ⟨10, true⟩, 0x3FFFFF8, true, 2⟩)
    ∧ reads 0x1805424AABFFFFF8 (.ldZ32 gd 8 ⟨⟨9, false⟩, ⟨10, true⟩, 0x3FFFFF8, true, 2⟩)
    ∧ reads 0x1806424AABFFFFF8 (.ld64 gd 8 ⟨⟨9, false⟩, ⟨10, true⟩, 0x3FFFFF8, true, 2⟩)
    ∧ reads 0x1C00424A04000018 (.st8 gd ⟨8, true⟩ ⟨⟨9, false⟩, ⟨10, false⟩, 24, false, 0⟩)
    ∧ reads 0x1C01424A04000018 (.st16 gd ⟨8, true⟩ ⟨⟨9, false⟩, ⟨10, false⟩, 24, false, 0⟩)
    ∧ reads 0x1C02424A04000018 (.st32 gd ⟨8, true⟩ ⟨⟨9, false⟩, ⟨10, false⟩, 24, false, 0⟩)
    ∧ reads 0x1C03424A04000018 (.st64 gd ⟨8, true⟩ ⟨⟨9, false⟩, ⟨10, false⟩, 24, false, 0⟩) :=
  ⟨⟨rfl, rfl⟩, ⟨rfl, rfl⟩, ⟨rfl, rfl⟩, ⟨rfl, rfl⟩, ⟨rfl, rfl⟩, ⟨rfl, rfl⟩, ⟨rfl, rfl⟩, ⟨rfl, rfl⟩, ⟨rfl, rfl⟩,
    ⟨rfl, rfl⟩, ⟨rfl, rfl⟩⟩

/-- Words of the atomic forms, put together from the formats of R96 and the fields of R103, R104. -/
theorem test_decode_atomic :
    reads 0x20000883D8000008 (.amoAdd64 gd 1 ⟨3, true⟩ ⟨⟨2, false⟩, 8, true, 5⟩)
    ∧ reads 0x201008A300000004 (.amoAdd32 gd 1 ⟨3, false⟩ ⟨⟨2, true⟩, 4, false, 0⟩)
    ∧ reads 0x20010883D8000008 (.amoMin64 gd 1 ⟨3, true⟩ ⟨⟨2, false⟩, 8, true, 5⟩)
    ∧ reads 0x201108A300000004 (.amoMin32 gd 1 ⟨3, false⟩ ⟨⟨2, true⟩, 4, false, 0⟩)
    ∧ reads 0x20020883D8000008 (.amoMax64 gd 1 ⟨3, true⟩ ⟨⟨2, false⟩, 8, true, 5⟩)
    ∧ reads 0x201208A300000004 (.amoMax32 gd 1 ⟨3, false⟩ ⟨⟨2, true⟩, 4, false, 0⟩)
    ∧ reads 0x20030883D8000008 (.amoMinz64 gd 1 ⟨3, true⟩ ⟨⟨2, false⟩, 8, true, 5⟩)
    ∧ reads 0x201308A300000004 (.amoMinz32 gd 1 ⟨3, false⟩ ⟨⟨2, true⟩, 4, false, 0⟩)
    ∧ reads 0x20040883D8000008 (.amoMaxz64 gd 1 ⟨3, true⟩ ⟨⟨2, false⟩, 8, true, 5⟩)
    ∧ reads 0x201408A300000004 (.amoMaxz32 gd 1 ⟨3, false⟩ ⟨⟨2, true⟩, 4, false, 0⟩)
    ∧ reads 0x20050883D8000008 (.amoAnd64 gd 1 ⟨3, true⟩ ⟨⟨2, false⟩, 8, true, 5⟩)
    ∧ reads 0x201508A300000004 (.amoAnd32 gd 1 ⟨3, false⟩ ⟨⟨2, true⟩, 4, false, 0⟩)
    ∧ reads 0x20060883D8000008 (.amoOr64 gd 1 ⟨3, true⟩ ⟨⟨2, false⟩, 8, true, 5⟩)
    ∧ reads 0x201608A300000004 (.amoOr32 gd 1 ⟨3, false⟩ ⟨⟨2, true⟩, 4, false, 0⟩)
    ∧ reads 0x20070883D8000008 (.amoXor64 gd 1 ⟨3, true⟩ ⟨⟨2, false⟩, 8, true, 5⟩)
    ∧ reads 0x201708A300000004 (.amoXor32 gd 1 ⟨3, false⟩ ⟨⟨2, true⟩, 4, false, 0⟩) :=
  ⟨⟨rfl, rfl⟩, ⟨rfl, rfl⟩, ⟨rfl, rfl⟩, ⟨rfl, rfl⟩, ⟨rfl, rfl⟩, ⟨rfl, rfl⟩, ⟨rfl, rfl⟩, ⟨rfl, rfl⟩, ⟨rfl, rfl⟩,
    ⟨rfl, rfl⟩, ⟨rfl, rfl⟩, ⟨rfl, rfl⟩, ⟨rfl, rfl⟩, ⟨rfl, rfl⟩, ⟨rfl, rfl⟩, ⟨rfl, rfl⟩⟩

/-- Words of the atomic forms, put together from the formats of R96 and the fields of R103, R104. -/
theorem test_decode_atomic_2 :
    reads 0x20080883D8000008 (.amoSwap64 gd 1 ⟨3, true⟩ ⟨⟨2, false⟩, 8, true, 5⟩)
    ∧ reads 0x201808A300000004 (.amoSwap32 gd 1 ⟨3, false⟩ ⟨⟨2, true⟩, 4, false, 0⟩)
    ∧ reads 0x20090883D8000008 (.amoCas64 gd 1 ⟨3, true⟩ ⟨⟨2, false⟩, 8, true, 5⟩)
    ∧ reads 0x201908A300000004 (.amoCas32 gd 1 ⟨3, false⟩ ⟨⟨2, true⟩, 4, false, 0⟩)
    ∧ reads 0x200A0883D8000008 (.amoFadd64 gd 1 ⟨3, true⟩ ⟨⟨2, false⟩, 8, true, 5⟩)
    ∧ reads 0x201A08A300000004 (.amoFadd32 gd 1 ⟨3, false⟩ ⟨⟨2, true⟩, 4, false, 0⟩) :=
  ⟨⟨rfl, rfl⟩, ⟨rfl, rfl⟩, ⟨rfl, rfl⟩, ⟨rfl, rfl⟩, ⟨rfl, rfl⟩, ⟨rfl, rfl⟩⟩

/-- Words of the fence forms, put together from the formats of R96 and the fields of R103, R104. -/
theorem test_decode_fence :
    reads 0x2400000030000000 (.fence gd 3)
    ∧ reads 0x2401000050000000 (.fenceX gd 5)
    ∧ reads 0x2402000000000000 (.fenceCfg gd) :=
  ⟨⟨rfl, rfl⟩, ⟨rfl, rfl⟩, ⟨rfl, rfl⟩⟩

/-- Words of the k-register forms, put together from the formats of R96 and the fields of R138. -/
theorem test_decode_k_register :
    reads 0x2800200000000000 (.krd gd 4 .kstat)
    ∧ reads 0x2800200000000001 (.krd gd 4 .kcause)
    ∧ reads 0x2800200000000002 (.krd gd 4 .kepc)
    ∧ reads 0x2800200000000003 (.krd gd 4 .ktval)
    ∧ reads 0x2800200000000004 (.krd gd 4 .ktvec)
    ∧ reads 0x2800200000000005 (.krd gd 4 .kscratch)
    ∧ reads 0x2800200000000006 (.krd gd 4 .kfpm)
    ∧ reads 0x2800200000000007 (.krd gd 4 .kevt)
    ∧ reads 0x2800200000000008 (.krd gd 4 .kctx)
    ∧ reads 0x2800200000000009 (.krd gd 4 .kcore)
    ∧ reads 0x280020000000000A (.krd gd 4 .ktask)
    ∧ reads 0x280020000000000B (.krd gd 4 .kgroup)
    ∧ reads 0x280020000000000C (.krd gd 4 .kargbase)
    ∧ reads 0x280020000000000D (.krd gd 4 .kprio)
    ∧ reads 0x280020000000000E (.krd gd 4 .kqui)
    ∧ reads 0x280020000000000F (.krd gd 4 .kcyc) :=
  ⟨⟨rfl, rfl⟩, ⟨rfl, rfl⟩, ⟨rfl, rfl⟩, ⟨rfl, rfl⟩, ⟨rfl, rfl⟩, ⟨rfl, rfl⟩, ⟨rfl, rfl⟩, ⟨rfl, rfl⟩, ⟨rfl, rfl⟩,
    ⟨rfl, rfl⟩, ⟨rfl, rfl⟩, ⟨rfl, rfl⟩, ⟨rfl, rfl⟩, ⟨rfl, rfl⟩, ⟨rfl, rfl⟩, ⟨rfl, rfl⟩⟩

/-- Words of the k-register forms, put together from the formats of R96 and the fields of R138. -/
theorem test_decode_k_register_2 :
    reads 0x2800200000000010 (.krd gd 4 .ktime)
    ∧ reads 0x2801012000000006 (.kwr gd .kfpm ⟨4, true⟩)
    ∧ reads 0x2802012000000006 (.kset gd .kfpm ⟨4, true⟩)
    ∧ reads 0x2803012000000006 (.kclr gd .kfpm ⟨4, true⟩) :=
  ⟨⟨rfl, rfl⟩, ⟨rfl, rfl⟩, ⟨rfl, rfl⟩, ⟨rfl, rfl⟩⟩

/-- Words of the floating forms, put together from the formats of R96 and the fields of R105. -/
theorem test_decode_floating :
    reads 0x2C00088300000000 (.fadd gd .s 1 ⟨2, false⟩ ⟨3, false⟩)
    ∧ reads 0x2C01088300800000 (.fsub gd .d 1 ⟨2, false⟩ ⟨3, false⟩)
    ∧ reads 0x2C02088300000000 (.fmul gd .s 1 ⟨2, false⟩ ⟨3, false⟩)
    ∧ reads 0x2C03088300800000 (.fdiv gd .d 1 ⟨2, false⟩ ⟨3, false⟩)
    ∧ reads 0x2C06088300000000 (.fmin gd .s 1 ⟨2, false⟩ ⟨3, false⟩)
    ∧ reads 0x2C07088300800000 (.fmax gd .d 1 ⟨2, false⟩ ⟨3, false⟩)
    ∧ reads 0x2C04088000800000 (.fsqrt gd .d 1 ⟨2, false⟩)
    ∧ reads 0x2C0A088000000000 (.fclass gd .s 1 ⟨2, false⟩)
    ∧ reads 0x2C05088312000000 (.ffma gd .s 1 ⟨2, false⟩ ⟨3, false⟩ ⟨4, true⟩)
    ∧ reads 0x2C08088300800000 (.fcmp gd .d .eq 1 ⟨2, false⟩ ⟨3, false⟩)
    ∧ reads 0x2C08088304800000 (.fcmp gd .d .lt 1 ⟨2, false⟩ ⟨3, false⟩)
    ∧ reads 0x2C08088308800000 (.fcmp gd .d .le 1 ⟨2, false⟩ ⟨3, false⟩)
    ∧ reads 0x2C0808830C800000 (.fcmp gd .d .un 1 ⟨2, false⟩ ⟨3, false⟩)
    ∧ reads 0x2C09088004000000 (.fcvt gd .s false .d 1 ⟨2, false⟩)
    ∧ reads 0x2C09088000800000 (.fcvt gd .d false .s 1 ⟨2, false⟩)
    ∧ reads 0x2C09088008800000 (.fcvt gd .d false .l 1 ⟨2, false⟩) :=
  ⟨⟨rfl, rfl⟩, ⟨rfl, rfl⟩, ⟨rfl, rfl⟩, ⟨rfl, rfl⟩, ⟨rfl, rfl⟩, ⟨rfl, rfl⟩, ⟨rfl, rfl⟩, ⟨rfl, rfl⟩, ⟨rfl, rfl⟩,
    ⟨rfl, rfl⟩, ⟨rfl, rfl⟩, ⟨rfl, rfl⟩, ⟨rfl, rfl⟩, ⟨rfl, rfl⟩, ⟨rfl, rfl⟩, ⟨rfl, rfl⟩⟩

/-- Words of the floating forms, put together from the formats of R96 and the fields of R105. -/
theorem test_decode_floating_2 :
    reads 0x2C09088028000000 (.fcvt gd .s true .l 1 ⟨2, false⟩)
    ∧ reads 0x2C0908800C800000 (.fcvt gd .d false .lu 1 ⟨2, false⟩)
    ∧ reads 0x2C0908802C000000 (.fcvt gd .s true .lu 1 ⟨2, false⟩)
    ∧ reads 0x2C09088010800000 (.fcvt gd .d false .w 1 ⟨2, false⟩)
    ∧ reads 0x2C09088030000000 (.fcvt gd .s true .w 1 ⟨2, false⟩)
    ∧ reads 0x2C09088014800000 (.fcvt gd .d false .wu 1 ⟨2, false⟩)
    ∧ reads 0x2C09088034000000 (.fcvt gd .s true .wu 1 ⟨2, false⟩) :=
  ⟨⟨rfl, rfl⟩, ⟨rfl, rfl⟩, ⟨rfl, rfl⟩, ⟨rfl, rfl⟩, ⟨rfl, rfl⟩, ⟨rfl, rfl⟩, ⟨rfl, rfl⟩⟩

/-- Words of the configuration forms, put together from the formats of R96 and the fields of R370. -/
theorem test_decode_configuration :
    reads 0x4000088001FF0000 (.cfgFetch gd 1 .core ⟨2, false⟩)
    ∧ reads 0x400108A000130000 (.cfgLoad gd 1 (.node 0x13) ⟨2, true⟩)
    ∧ reads 0x4002088000600277 (.cfgEvict gd 1 (.node 0x60) ⟨2, false⟩ 2 0x77)
    ∧ reads 0x4003088000330000 (.cfgInband gd 1 3 ⟨2, false⟩)
    ∧ reads 0x400408000029004E (.cfgProbe gd 1 (.node 0x29) 0x4E)
    ∧ reads 0x4004080001FF001F (.cfgProbe gd 1 .core 31)
    ∧ reads 0x40050800000000A5 (.cfgTag gd 1 0xA5)
    ∧ reads 0x48020800003801A5 (.barCfg gd 1 (.node 0x38) true 0xA5) :=
  ⟨⟨rfl, rfl⟩, ⟨rfl, rfl⟩, ⟨rfl, rfl⟩, ⟨rfl, rfl⟩, ⟨rfl, rfl⟩, ⟨rfl, rfl⟩, ⟨rfl, rfl⟩, ⟨rfl, rfl⟩⟩

/-- Words of the stream forms, put together from the formats of R96 and the fields of R298, R305. -/
theorem test_decode_stream :
    reads 0x440052EC34310007 (.strmRd gd 10 1 ⟨11, true⟩ ⟨12, false⟩ ⟨13, false⟩ 3 true)
    ∧ reads 0x440152EC34350007 (.strmWr gd 10 1 ⟨11, true⟩ ⟨12, false⟩ ⟨13, false⟩ 3 true)
    ∧ reads 0x440252EC34310007 (.strmInd gd 10 1 ⟨11, true⟩ ⟨12, false⟩ ⟨13, false⟩ 3 true)
    ∧ reads 0x440352CC00330001 (.strmCst gd 10 3 ⟨11, false⟩ ⟨12, false⟩ ⟨0, false⟩ 1 false)
    ∧ reads 0x440352CC24370001 (.strmCst gd 10 7 ⟨11, false⟩ ⟨12, false⟩ ⟨9, false⟩ 1 false)
    ∧ reads 0x440452CC24300000 (.strmRec gd 10 0 ⟨11, false⟩ ⟨12, false⟩ ⟨9, false⟩ 0 false)
    ∧ reads 0x440552C000360000 (.strmCancel gd 10 6 ⟨11, false⟩)
    ∧ reads 0x440652C000360000 (.strmStat gd 10 6 ⟨11, false⟩)
    ∧ reads 0x480052C000320000 (.barRd gd 10 (.ag 2 ⟨11, false⟩))
    ∧ reads 0x4800500001FF0000 (.barRd gd 10 .core)
    ∧ reads 0x480152C000360000 (.barWr gd 10 (.ag 2 ⟨11, false⟩))
    ∧ reads 0x4803500000000000 (.barAll gd 10)
    ∧ reads 0x480452C014360002 (.barIf gd 10 6 ⟨11, false⟩ (.pred 5 true))
    ∧ reads 0x480452C000310CA9 (.barIf gd 10 1 ⟨11, false⟩ (.buffer 12 0x2A false)) :=
  ⟨⟨rfl, rfl⟩, ⟨rfl, rfl⟩, ⟨rfl, rfl⟩, ⟨rfl, rfl⟩, ⟨rfl, rfl⟩, ⟨rfl, rfl⟩, ⟨rfl, rfl⟩, ⟨rfl, rfl⟩, ⟨rfl, rfl⟩,
    ⟨rfl, rfl⟩, ⟨rfl, rfl⟩, ⟨rfl, rfl⟩, ⟨rfl, rfl⟩, ⟨rfl, rfl⟩⟩

/-- Words of the controller and queue forms,
    put together from the formats of R96 and the fields of R106 and the tables of 15 and 21. -/
theorem test_decode_controller_and_queue :
    reads 0x4C00088000270002 (.ctlSet gd 1 7 ⟨2, false⟩ 2)
    ∧ reads 0x4C01080000250000 (.ctlGo gd 1 5)
    ∧ reads 0x4C02080000250000 (.ctlWait gd 1 5)
    ∧ reads 0x4C03080000250000 (.ctlAbort gd 1 5)
    ∧ reads 0x50000880005F0000 (.tplArm gd 1 15 ⟨2, false⟩)
    ∧ reads 0x5001080000500000 (.tplDisarm gd 1 0)
    ∧ reads 0x5002088000510000 (.tplFire gd 1 1 ⟨2, false⟩)
    ∧ reads 0x5003080000520000 (.tplStat gd 1 2)
    ∧ reads 0x54000880004E0001 (.qPush gd 1 (.sb 14) ⟨2, false⟩ true)
    ∧ reads 0x54010800010F0001 (.qPop gd 1 (.fq 15) true)
    ∧ reads 0x5402080000400000 (.qSpace gd 1 (.sb 0))
    ∧ reads 0x5403088001000001 (.qWait gd 1 (.fq 0) ⟨2, false⟩ true)
    ∧ reads 0x5800088300000000 (.semInit gd 1 ⟨2, false⟩ ⟨3, false⟩)
    ∧ reads 0x580108800000001B (.semTake gd 1 ⟨2, false⟩ true 11)
    ∧ reads 0x5802088380000000 (.semWait gd 1 ⟨2, false⟩ ⟨3, true⟩)
    ∧ reads 0x580308800000FFFF (.semAdv gd 1 ⟨2, false⟩ 0xFFFF) :=
  ⟨⟨rfl, rfl⟩, ⟨rfl, rfl⟩, ⟨rfl, rfl⟩, ⟨rfl, rfl⟩, ⟨rfl, rfl⟩, ⟨rfl, rfl⟩, ⟨rfl, rfl⟩, ⟨rfl, rfl⟩, ⟨rfl, rfl⟩,
    ⟨rfl, rfl⟩, ⟨rfl, rfl⟩, ⟨rfl, rfl⟩, ⟨rfl, rfl⟩, ⟨rfl, rfl⟩, ⟨rfl, rfl⟩, ⟨rfl, rfl⟩⟩

/-- Words of the matrix and collective forms, put together from the formats of R96 and the fields of R188, 17. -/
theorem test_decode_matrix_and_collective :
    reads 0x5C00088000380000 (.mxTok gd 1 ⟨2, false⟩)
    ∧ reads 0x5C01080001230A95 (.mxAccrd gd 1 3 0x2A 0x15)
    ∧ reads 0x5C02080001210000 (.mxAccclr gd 1 1)
    ∧ reads 0x5C03080000380000 (.mxStat gd 1)
    ∧ reads 0x600029A000000000 (.collRed gd 5 ⟨6, true⟩)
    ∧ reads 0x6006394000000000 (.collWait gd 7 ⟨5, false⟩)
    ∧ reads 0x6001298000000000 (.collAttn gd 5 ⟨6, false⟩)
    ∧ reads 0x6002298000000000 (.collGath gd 5 ⟨6, false⟩)
    ∧ reads 0x6003298000000000 (.collScat gd 5 ⟨6, false⟩)
    ∧ reads 0x6004298000000000 (.collBcast gd 5 ⟨6, false⟩)
    ∧ reads 0x6005298000000000 (.collA2a gd 5 ⟨6, false⟩) :=
  ⟨⟨rfl, rfl⟩, ⟨rfl, rfl⟩, ⟨rfl, rfl⟩, ⟨rfl, rfl⟩, ⟨rfl, rfl⟩, ⟨rfl, rfl⟩, ⟨rfl, rfl⟩, ⟨rfl, rfl⟩, ⟨rfl, rfl⟩,
    ⟨rfl, rfl⟩, ⟨rfl, rfl⟩⟩

/-- Words of the pair and kv forms, put together from the formats of R96 and the fields of R414, R420. -/
theorem test_decode_pair_and_kv :
    reads 0x6400298000000000 (.pairBox gd 5 ⟨6, false⟩)
    ∧ reads 0x6401280000000000 (.pairBin gd 5)
    ∧ reads 0x640229870000001C (.pairScan gd 5 ⟨6, false⟩ ⟨7, false⟩ 12 true)
    ∧ reads 0x6403280000000000 (.pairStat gd 5)
    ∧ reads 0x6404280000000000 (.pairClr gd 5)
    ∧ reads 0x6800298000000000 (.kvAlloc gd 5 ⟨6, false⟩)
    ∧ reads 0x6801298000000001 (.kvFree gd 5 ⟨6, false⟩ true)
    ∧ reads 0x6802298700000000 (.kvShare gd 5 ⟨6, false⟩ ⟨7, false⟩)
    ∧ reads 0x6803298000000000 (.kvMap gd 5 ⟨6, false⟩)
    ∧ reads 0x6804298700000000 (.kvLimit gd 5 ⟨6, false⟩ ⟨7, false⟩ false)
    ∧ reads 0x6805298780000000 (.kvLend gd 5 ⟨6, false⟩ ⟨7, true⟩) :=
  ⟨⟨rfl, rfl⟩, ⟨rfl, rfl⟩, ⟨rfl, rfl⟩, ⟨rfl, rfl⟩, ⟨rfl, rfl⟩, ⟨rfl, rfl⟩, ⟨rfl, rfl⟩, ⟨rfl, rfl⟩, ⟨rfl, rfl⟩,
    ⟨rfl, rfl⟩, ⟨rfl, rfl⟩⟩

/-- Words of the task and translation forms, put together from the formats of R96 and the fields of R328, R387,
    R447, R460. -/
theorem test_decode_task_and_translation :
    reads 0x6C002980011E0000 (.taskSpawn gd 5 14 ⟨6, false⟩)
    ∧ reads 0x6C01000000000000 (.taskDone gd)
    ∧ reads 0x6C02280000000000 (.taskYield gd 5)
    ∧ reads 0x6C0328000000000F (.taskArg gd 5 15)
    ∧ reads 0x6C04298000000000 (.taskCancel gd 5 ⟨6, false⟩)
    ∧ reads 0x7000298700000000 (.frzSave gd 5 ⟨6, false⟩ ⟨7, false⟩)
    ∧ reads 0x7001298000000009 (.frzLoad gd 5 ⟨6, false⟩ 9)
    ∧ reads 0x7400280000000001 (.quiPoll gd 5 true)
    ∧ reads 0x7401298000000002 (.quiRep gd 5 ⟨6, false⟩ 2)
    ∧ reads 0x7800298700000042 (.xlatInv gd 5 ⟨6, false⟩ ⟨7, false⟩ 4 2)
    ∧ reads 0x7801298700000001 (.xlatProbe gd 5 ⟨6, false⟩ ⟨7, false⟩ true)
    ∧ reads 0x7802298000340002 (.xlatRes gd 5 4 ⟨6, false⟩ 2) :=
  ⟨⟨rfl, rfl⟩, ⟨rfl, rfl⟩, ⟨rfl, rfl⟩, ⟨rfl, rfl⟩, ⟨rfl, rfl⟩, ⟨rfl, rfl⟩, ⟨rfl, rfl⟩, ⟨rfl, rfl⟩, ⟨rfl, rfl⟩,
    ⟨rfl, rfl⟩, ⟨rfl, rfl⟩, ⟨rfl, rfl⟩⟩

/-! ### Refused words, one for each check of R107 step 1 -/

theorem test_refused_major : refused 0xC000000000000000 .major := rfl

theorem test_refused_minor : refused 0x0006000000000000 .minor := rfl

theorem test_refused_guard : refused 0x0200000000000000 .guard := rfl

theorem test_refused_bits : refused 0x0400088300000001 .mustBeZero := rfl

theorem test_refused_last_use : refused 0x0400082300000000 .lastUse := rfl

theorem test_refused_scope_6 : refused 0x2400000060000000 .scope := rfl

theorem test_refused_scope_without_order : refused 0x1806088010000000 .scope := rfl

theorem test_refused_size : refused 0x2C00088301000000 .size := rfl

theorem test_refused_fcvt_same : refused 0x2C09088004800000 .fcvt := rfl

theorem test_refused_fcvt_code_6 : refused 0x2C09088018000000 .fcvt := rfl

theorem test_refused_kreg : refused 0x2800080000000011 .kreg := rfl

theorem test_refused_handle : refused 0x4400088300340000 .handle := rfl

theorem test_refused_node : refused 0x40000880002C0000 .handle := rfl

theorem test_refused_counter : refused 0x1404000000000001 .counter := rfl

theorem test_refused_sem_adv_0 : refused 0x5803088000000000 .operand := rfl

theorem test_refused_sem_take_sb : refused 0x5801088000000003 .operand := rfl

theorem test_refused_predicate_top_bits : refused 0x0C00404200000000 .mustBeZero := rfl

theorem test_refused_trap_code : refused 0x0002000000010000 .mustBeZero := rfl

/-! ### Ill-formed terms, one for each check of WellFormed.lean -/

theorem test_ill_formed_guard_not_p0 : wf (.nop ⟨true, 0⟩) = false := rfl

theorem test_ill_formed_last_use_g0 : wf (.add gd 1 ⟨0, true⟩ ⟨2, false⟩) = false := rfl

theorem test_ill_formed_scope : wf (.fence gd 7) = false := rfl

theorem test_ill_formed_scope_without_order : wf (.ld64 gd 1 ⟨⟨2, false⟩, ⟨3, false⟩, 0, false, 1⟩) = false := rfl

theorem test_ill_formed_atomic_order : wf (.amoAdd64 gd 1 ⟨3, false⟩ ⟨⟨2, false⟩, 0, true, 6⟩) = false := rfl

theorem test_ill_formed_store_data_g0 : wf (.st8 gd ⟨0, true⟩ ⟨⟨2, false⟩, ⟨3, false⟩, 0, false, 0⟩) = false := rfl

theorem test_ill_formed_node : wf (.cfgLoad gd 1 (.node 0x39) ⟨2, false⟩) = false := rfl

theorem test_ill_formed_barrier_handle : wf (.barRd gd 1 (.ag 0 ⟨0, true⟩)) = false := rfl

theorem test_ill_formed_fcvt : wf (.fcvt gd .s false .s 1 ⟨2, false⟩) = false := rfl

theorem test_ill_formed_fcvt_int : wf (.fcvt gd .d true .s 1 ⟨2, false⟩) = false := rfl

theorem test_ill_formed_probe_core : wf (.cfgProbe gd 1 .core 32) = false := rfl

theorem test_ill_formed_probe_port : wf (.cfgProbe gd 1 (.node 0x10) 0x20) = false := rfl

theorem test_ill_formed_loop_counter : wf (.loop gd 0 1) = false := rfl

theorem test_ill_formed_cst_base : wf (.strmCst gd 1 2 ⟨3, false⟩ ⟨4, false⟩ ⟨5, false⟩ 0 false) = false := rfl

theorem test_ill_formed_barrier_tag : wf (.barCfg gd 1 .core false 3) = false := rfl

theorem test_ill_formed_push_last : wf (.qPush gd 1 (.fq 0) ⟨2, false⟩ true) = false := rfl

theorem test_ill_formed_sem_take : wf (.semTake gd 1 ⟨2, false⟩ false 3) = false := rfl

theorem test_ill_formed_sem_adv : wf (.semAdv gd 1 ⟨2, false⟩ 0) = false := rfl

theorem test_ill_formed_inv_scope : wf (.xlatInv gd 1 ⟨2, false⟩ ⟨3, false⟩ 6 0) = false := rfl

theorem test_ill_formed_res_target : wf (.xlatRes gd 1 0 ⟨2, false⟩ 3) = false := rfl

/-! ### Single steps -/

/-- Core 0 bound at pc 0 in system mode, with one page of the first GiB translated to the same addresses of HBM4. -/
def base : State :=
  let page : Xlat := { root := 0, va := 0, pa := 0, k := 18, rd := true, wr := true, ex := true, so := false }
  ((State.reset.withFetchWord 64 0).modCore 0 fun y => { y with tlb := [page] }).modCluster 0 fun y => { y with tlb := [page] }

/-- The state with these registers of the issuing core written. -/
def regs (l : List (Reg × Word)) (s : State) : State := s.modCp fun x => l.foldl (fun x p => x.put p.1 p.2) x

/-- The step goes on. -/
def goes : Result → Bool
  | .next _ => true
  | _ => false

/-- What `f` reads in the next state. -/
def after {α : Type} (r : Result) (f : State → α) : Option α :=
  match r with
  | .next t => some (f t)
  | _ => none

/-- The register g3 of core 0, and its pc, after a form on a state with g1 and g2 written. -/
def g3 (i : Instr) (a b : Word) : Option (Word × Word) :=
  after (exec i (regs [(1, a), (2, b)] base)) fun t => (t.cp.regs.get 3, t.cp.regs.pc)

/-- The cause, KTVAL and pc after a form. -/
def trapOf (i : Instr) (s : State) : Option (BitVec 6 × Word × Word) :=
  after (exec i s) fun t => (t.cp.k.cause, t.cp.k.tval, t.cp.regs.pc)

/-- The value of the predicate p1 after a form on a state with g1 and g2 written. -/
def p1 (i : Instr) (a b : Word) : Option Bool :=
  after (exec i (regs [(1, a), (2, b)] base)) fun t => t.cp.regs.pred 1

/-- The value waiting for register 3. -/
def got3 (t : State) : Option (Option Word) := (listFind (fun p => p.reg == 3) t.cp.ctl.pend).map fun p => p.val

/-- The bytes at address 0x100, the values waiting for g3 of core 0, after the first access posted by a form is performed; the memory at
0x100 holds these bytes before. -/
def performed (i : Instr) (l : List (Reg × Word)) (bs : List Byte) : Option (List Byte × Option (Option Word)) :=
  match exec i (regs l (base.writeBytes 0x100 bs)) with
  | .next t => after (exec (.bankAccess (.core 0) 0 0) t) fun t => (t.bytesAt 0x100 bs.length, got3 t)
  | _ => none

theorem test_add_wraps : g3 (.add gd 3 ⟨1, false⟩ ⟨2, false⟩) 0xFFFFFFFFFFFFFFFF 3 = some (2, 8) := by
  decide +kernel

theorem test_sub_borrows : g3 (.sub gd 3 ⟨1, false⟩ ⟨2, false⟩) 3 5 = some (0xFFFFFFFFFFFFFFFE, 8) := by
  decide +kernel

theorem test_andn : g3 (.andn gd 3 ⟨1, false⟩ ⟨2, false⟩) 0xFF 0x0F = some (0xF0, 8) := by decide +kernel

theorem test_and : g3 (.and gd 3 ⟨1, false⟩ ⟨2, false⟩) 0xFC 0x3F = some (0x3C, 8) := by decide +kernel

theorem test_or : g3 (.or gd 3 ⟨1, false⟩ ⟨2, false⟩) 0xF0 0x0C = some (0xFC, 8) := by decide +kernel

theorem test_xor : g3 (.xor gd 3 ⟨1, false⟩ ⟨2, false⟩) 0xFF 0x0F = some (0xF0, 8) := by decide +kernel

theorem test_shl_count_mod_64 : g3 (.shl gd 3 ⟨1, false⟩ ⟨2, false⟩) 1 0x44 = some (0x10, 8) := by decide +kernel

theorem test_shr_logical : g3 (.shr gd 3 ⟨1, false⟩ ⟨2, false⟩) 0x8000000000000000 63 = some (1, 8) := by
  decide +kernel

theorem test_sra_sign : g3 (.sra gd 3 ⟨1, false⟩ ⟨2, false⟩) 0x8000000000000000 63 = some (0xFFFFFFFFFFFFFFFF, 8) := by
  decide +kernel

theorem test_rol : g3 (.rol gd 3 ⟨1, false⟩ ⟨2, false⟩) 0x8000000000000001 4 = some (0x18, 8) := by
  decide +kernel

theorem test_min_signed : g3 (.min gd 3 ⟨1, false⟩ ⟨2, false⟩) 0xFFFFFFFFFFFFFFFF 1 = some (0xFFFFFFFFFFFFFFFF, 8) := by
  decide +kernel

theorem test_max_signed : g3 (.max gd 3 ⟨1, false⟩ ⟨2, false⟩) 0xFFFFFFFFFFFFFFFF 1 = some (1, 8) := by
  decide +kernel

theorem test_minz_unsigned : g3 (.minz gd 3 ⟨1, false⟩ ⟨2, false⟩) 0xFFFFFFFFFFFFFFFF 1 = some (1, 8) := by
  decide +kernel

theorem test_maxz_unsigned : g3 (.maxz gd 3 ⟨1, false⟩ ⟨2, false⟩) 0xFFFFFFFFFFFFFFFF 1 = some (0xFFFFFFFFFFFFFFFF, 8) := by
  decide +kernel

theorem test_mul_low : g3 (.mul gd 3 ⟨1, false⟩ ⟨2, false⟩) 0x100000000 0x100000001 = some (0x100000000, 8) := by
  decide +kernel

theorem test_mulh_signed : g3 (.mulh gd 3 ⟨1, false⟩ ⟨2, false⟩) 0xFFFFFFFFFFFFFFFF 2 = some (0xFFFFFFFFFFFFFFFF, 8) := by
  decide +kernel

theorem test_mulhz_unsigned : g3 (.mulhz gd 3 ⟨1, false⟩ ⟨2, false⟩) 0xFFFFFFFFFFFFFFFF 2 = some (1, 8) := by
  decide +kernel

/-- R152. -/
theorem test_div_overflow : g3 (.div gd 3 ⟨1, false⟩ ⟨2, false⟩) 0x8000000000000000 0xFFFFFFFFFFFFFFFF = some (0x8000000000000000, 8) := by
  decide +kernel

/-- -7 / 2 is -3 (R152). -/
theorem test_div_truncates : g3 (.div gd 3 ⟨1, false⟩ ⟨2, false⟩) 0xFFFFFFFFFFFFFFF9 2 = some (0xFFFFFFFFFFFFFFFD, 8) := by
  decide +kernel

/-- R152. -/
theorem test_divz_zero : g3 (.divz gd 3 ⟨1, false⟩ ⟨2, false⟩) 9 0 = some (0xFFFFFFFFFFFFFFFF, 8) := by
  decide +kernel

/-- -7 = 2 * -3 - 1 (R152). -/
theorem test_rem_sign : g3 (.rem gd 3 ⟨1, false⟩ ⟨2, false⟩) 0xFFFFFFFFFFFFFFF9 2 = some (0xFFFFFFFFFFFFFFFF, 8) := by
  decide +kernel

/-- R152. -/
theorem test_remz_zero : g3 (.remz gd 3 ⟨1, false⟩ ⟨2, false⟩) 9 0 = some (9, 8) := by decide +kernel

theorem test_clz : g3 (.clz gd 3 ⟨1, false⟩) 0x00FF 0 = some (56, 8) := by decide +kernel

theorem test_clz_zero : g3 (.clz gd 3 ⟨1, false⟩) 0 0 = some (64, 8) := by decide +kernel

theorem test_ctz : g3 (.ctz gd 3 ⟨1, false⟩) 0x0A00 0 = some (9, 8) := by decide +kernel

theorem test_popc : g3 (.popc gd 3 ⟨1, false⟩) 0xF0F0 0 = some (8, 8) := by decide +kernel

theorem test_sel_p0 : g3 (.sel gd 3 ⟨1, false⟩ ⟨2, false⟩ 0) 5 6 = some (5, 8) := by decide +kernel

theorem test_sel_p1 : g3 (.sel gd 3 ⟨1, false⟩ ⟨2, false⟩ 1) 5 6 = some (6, 8) := by decide +kernel

/-- The value worked in R153. -/
theorem test_bext_worked : after (exec (.bext gd 3 ⟨1, false⟩ ⟨2, false⟩ ⟨4, false⟩)
      (regs [(1, 0x1122334455667788), (2, 0x99AABBCCDDEEFFEE), (4, 0x1038)] base)) (fun t => t.cp.regs.get 3) = some 0xEE11 := by
  decide +kernel

/-- The value worked in R153. -/
theorem test_bins_worked : after (exec (.bins gd 3 ⟨1, false⟩ ⟨2, false⟩ ⟨4, false⟩)
      (regs [(1, 0xFFFFFFFFFFFFFFFF), (2, 0xABC), (4, 0x0C3C)] base)) (fun t => t.cp.regs.get 3) = some 0xCFFFFFFFFFFFFFFF := by
  decide +kernel

theorem test_addi_negative : g3 (.addi gd 3 ⟨1, false⟩ 0x1FFFFFFFFF) 5 0 = some (4, 8) := by decide +kernel

theorem test_andi_sign : g3 (.andi gd 3 ⟨1, false⟩ 0x1FFFFFFFF0) 0xFFFFFFFFFFFFFFFF 0 = some (0xFFFFFFFFFFFFFFF0, 8) := by
  decide +kernel

theorem test_ori : g3 (.ori gd 3 ⟨1, false⟩ 0x0F) 0xF0 0 = some (0xFF, 8) := by decide +kernel

theorem test_xori_not : g3 (.xori gd 3 ⟨1, false⟩ 0x1FFFFFFFFF) 0 0 = some (0xFFFFFFFFFFFFFFFF, 8) := by
  decide +kernel

theorem test_shli : g3 (.shli gd 3 ⟨1, false⟩ 63) 3 0 = some (0x8000000000000000, 8) := by decide +kernel

theorem test_shri : g3 (.shri gd 3 ⟨1, false⟩ 4) 0xF0 0 = some (0x0F, 8) := by decide +kernel

theorem test_srai : g3 (.srai gd 3 ⟨1, false⟩ 4) 0x8000000000000000 0 = some (0xF800000000000000, 8) := by
  decide +kernel

theorem test_li_sign : g3 (.li gd 3 0x1000000000) 0 0 = some (0xFFFFFFF000000000, 8) := by decide +kernel

theorem test_liH : g3 (.liH gd 3 ⟨1, false⟩ 0x1) 0xFFFFFFFFFFFFFFFF 0 = some (0x3FFFFFFFFF, 8) := by
  decide +kernel

theorem test_write_g0_discarded : g3 (.add gd 0 ⟨1, false⟩ ⟨2, false⟩) 1 2 = some (0, 8) := by decide +kernel

theorem test_cmpEq : p1 (.cmpEq gd 1 ⟨1, false⟩ ⟨2, false⟩) 0xFFFFFFFFFFFFFFFF 1 = some false := by
  decide +kernel

theorem test_cmpNe : p1 (.cmpNe gd 1 ⟨1, false⟩ ⟨2, false⟩) 0xFFFFFFFFFFFFFFFF 1 = some true := by
  decide +kernel

theorem test_cmpLt : p1 (.cmpLt gd 1 ⟨1, false⟩ ⟨2, false⟩) 0xFFFFFFFFFFFFFFFF 1 = some true := by
  decide +kernel

theorem test_cmpGe : p1 (.cmpGe gd 1 ⟨1, false⟩ ⟨2, false⟩) 0xFFFFFFFFFFFFFFFF 1 = some false := by
  decide +kernel

theorem test_cmpLo : p1 (.cmpLo gd 1 ⟨1, false⟩ ⟨2, false⟩) 0xFFFFFFFFFFFFFFFF 1 = some false := by
  decide +kernel

theorem test_cmpHs : p1 (.cmpHs gd 1 ⟨1, false⟩ ⟨2, false⟩) 0xFFFFFFFFFFFFFFFF 1 = some true := by
  decide +kernel

theorem test_cmpiEq_minus_1 : p1 (.cmpiEq gd 1 ⟨1, false⟩ 0x1FFFFFFFFF) 0xFFFFFFFFFFFFFFFF 1 = some true := by
  decide +kernel

theorem test_cmpiNe_minus_1 : p1 (.cmpiNe gd 1 ⟨1, false⟩ 0x1FFFFFFFFF) 0xFFFFFFFFFFFFFFFF 1 = some false := by
  decide +kernel

theorem test_cmpiLt_minus_1 : p1 (.cmpiLt gd 1 ⟨1, false⟩ 0x1FFFFFFFFF) 0xFFFFFFFFFFFFFFFF 1 = some false := by
  decide +kernel

theorem test_cmpiGe_minus_1 : p1 (.cmpiGe gd 1 ⟨1, false⟩ 0x1FFFFFFFFF) 0xFFFFFFFFFFFFFFFF 1 = some true := by
  decide +kernel

theorem test_cmpiLo_minus_1 : p1 (.cmpiLo gd 1 ⟨1, false⟩ 0x1FFFFFFFFF) 0xFFFFFFFFFFFFFFFF 1 = some false := by
  decide +kernel

theorem test_cmpiHs_minus_1 : p1 (.cmpiHs gd 1 ⟨1, false⟩ 0x1FFFFFFFFF) 0xFFFFFFFFFFFFFFFF 1 = some true := by
  decide +kernel

theorem test_pand : p1 (.pand gd 1 0 1) 0 0 = some false := by decide +kernel

theorem test_por : p1 (.por gd 1 0 1) 0 0 = some true := by decide +kernel

theorem test_pxor : p1 (.pxor gd 1 0 0) 0 0 = some false := by decide +kernel

theorem test_pandn : p1 (.pandn gd 1 0 2) 0 0 = some true := by decide +kernel

theorem test_pmov : p1 (.pmov gd 1 0) 0 0 = some true := by decide +kernel

theorem test_pget : g3 (.pget gd 3 0) 0 0 = some (1, 8) := by decide +kernel

theorem test_p0_discards : after (exec (.cmpNe gd 0 ⟨1, false⟩ ⟨1, false⟩) base) (fun t => t.cp.regs.pred 0) = some true := by
  decide +kernel

theorem test_br_back : g3 (.br gd 0xFFFFFFFF) 0 0 = some (0, 0xFFFFFFFFFFFFFFF8) := by decide +kernel

theorem test_call_links : g3 (.call gd 3 4) 0 0 = some (8, 32) := by decide +kernel

theorem test_jr_reads_first : g3 (.jr gd 1 ⟨1, false⟩) 0x40 0 = some (0, 0x40) := by decide +kernel

theorem test_ret : g3 (.ret gd ⟨1, false⟩) 0x48 0 = some (0, 0x48) := by decide +kernel

theorem test_ret_misaligned : trapOf (.ret gd ⟨1, false⟩) (regs [(1, 0x44)] base) = some (0x04, 0x44, 0) := by
  decide +kernel

/-- R158. -/
theorem test_loop_last : after (exec (.loop gd 1 0xFFFFFFF0) (regs [(1, 1)] base)) (fun t => (t.cp.regs.get 1, t.cp.regs.pc)) = some (0, 8) := by
  decide +kernel

/-- R158. -/
theorem test_loop_again : after (exec (.loop gd 1 0xFFFFFFFF) (regs [(1, 2)] base)) (fun t => (t.cp.regs.get 1, t.cp.regs.pc)) =
      some (1, 0xFFFFFFFFFFFFFFF8) := by
  decide +kernel

theorem test_nop : after (exec (.nop gd) base) (fun t => t.cp.regs.pc) = some 8 := by decide +kernel

theorem test_halt : after (exec (.halt gd) base) (fun t => t.cp.alive) = some false := by decide +kernel

theorem test_trap_code : trapOf (.trap gd 0xBEEF) base = some (0x09, 0xBEEF, 0) := by decide +kernel

theorem test_brk_code : trapOf (.brk gd 1) base = some (0x0A, 1, 0) := by decide +kernel

theorem test_tret : after (exec (.tret gd) (base.modCp fun x => { x with k := { x.k with epc := 0x47, psys := false } }))
      (fun t => (t.cp.regs.pc, t.cp.k.sys)) = some (0x40, false) := by
  decide +kernel

/-- PRIV with the word (R107). -/
theorem test_halt_in_task_mode : trapOf (.halt gd) (base.modCp fun x => { x with k := { x.k with sys := false } }) =
      some (0x02, 0x0001000000000000, 0) := by
  decide +kernel

theorem test_reserved_word : trapOf (.reservedOpcode 0x0200000000000000) base = some (0x01, 0x0200000000000000, 0) := by
  decide +kernel

/-- The first vacant source in field order (R99). -/
theorem test_vacant_read : trapOf (.add gd 3 ⟨5, false⟩ ⟨6, false⟩) (base.modCp fun x => { x with k := { x.k with vstrict := true } }) =
      some (0x03, 5, 0) := by
  decide +kernel

/-- The case worked after R107. -/
theorem test_last_use_failed_guard : after (exec (.add ⟨false, 1⟩ 3 ⟨1, true⟩ ⟨2, false⟩) (regs [(1, 7), (3, 9)] base))
      (fun t => (t.cp.regs.vacant 1, t.cp.regs.get 3)) = some (true, 9) := by
  decide +kernel

/-- R99. -/
theorem test_last_use_source_is_destination : after (exec (.add gd 1 ⟨1, true⟩ ⟨1, false⟩) (regs [(1, 7)] base))
      (fun t => (t.cp.regs.vacant 1, t.cp.regs.get 1)) = some (false, 14) := by
  decide +kernel

/-- PSYS and SYS are 1 at reset (R139). -/
theorem test_krd_kstat : g3 (.krd gd 3 .kstat) 0 0 = some (0x30, 8) := by decide +kernel

theorem test_kwr_kfpm_rm_5_keeps : after (exec (.kwr gd .kfpm ⟨1, false⟩) (regs [(1, 5)] base)) (fun t => t.cp.k.rm) = some 0 := by
  decide +kernel

theorem test_kset_kevt : after (exec (.kset gd .kevt ⟨1, false⟩) (regs [(1, 0x15)] base)) (fun t => t.cp.k.evt) = some 5 := by
  decide +kernel

theorem test_kclr_flags : after (exec (.kclr gd .kfpm ⟨1, false⟩)
      ((regs [(1, 0x10)] base).modCp fun x => { x with k := { x.k with flags := 3 } })) (fun t => t.cp.k.flags) = some 2 := by
  decide +kernel

/-- 1 + 2^-24 ties to even, NX. -/
theorem test_fadd_half_ulp : after (exec (.fadd gd .s 3 ⟨1, false⟩ ⟨2, false⟩) (regs [(1, 0x3F800000), (2, 0x33800000)] base))
      (fun t => (t.cp.regs.get 3, t.cp.k.flags)) = some (0x3F800000, 1) := by
  decide +kernel

theorem test_fsub : g3 (.fsub gd .d 3 ⟨1, false⟩ ⟨2, false⟩) 0x3FF0000000000000 0x4000000000000000 = some (0xBFF0000000000000, 8) := by
  decide +kernel

theorem test_fmul : g3 (.fmul gd .d 3 ⟨1, false⟩ ⟨2, false⟩) 0x4000000000000000 0x4008000000000000 = some (0x4018000000000000, 8) := by
  decide +kernel

theorem test_fdiv : g3 (.fdiv gd .d 3 ⟨1, false⟩ ⟨2, false⟩) 0x4018000000000000 0x4008000000000000 = some (0x4000000000000000, 8) := by
  decide +kernel

theorem test_fsqrt : g3 (.fsqrt gd .d 3 ⟨1, false⟩) 0x4010000000000000 0 = some (0x4000000000000000, 8) := by
  decide +kernel

theorem test_ffma : g3 (.ffma gd .d 3 ⟨1, false⟩ ⟨1, false⟩ ⟨2, false⟩) 0x4000000000000000 0x3FF0000000000000 = some (0x4014000000000000, 8) := by
  decide +kernel

theorem test_fmin_nan : g3 (.fmin gd .s 3 ⟨1, false⟩ ⟨2, false⟩) 0x7FC00000 0x3F800000 = some (0x3F800000, 8) := by
  decide +kernel

theorem test_fmax_zeros : g3 (.fmax gd .s 3 ⟨1, false⟩ ⟨2, false⟩) 0x80000000 0 = some (0, 8) := by decide +kernel

theorem test_fcmp_un : p1 (.fcmp gd .s .un 1 ⟨1, false⟩ ⟨2, false⟩) 0x7FC00000 0 = some true := by decide +kernel

theorem test_fcvt_w : g3 (.fcvt gd .d false .w 3 ⟨1, false⟩) 0x4004000000000000 0 = some (2, 8) := by
  decide +kernel

theorem test_fclass_minus_zero : g3 (.fclass gd .d 3 ⟨1, false⟩) 0x8000000000000000 0 = some (8, 8) := by decide +kernel

theorem test_ldS8 : performed (.ldS8 gd 3 ⟨⟨1, false⟩, ⟨0, false⟩, 0, false, 0⟩) [(1, 0x100)] [0x80] = some ([0x80], some (some 0xFFFFFFFFFFFFFF80)) := by
  decide +kernel

theorem test_ldZ8 : performed (.ldZ8 gd 3 ⟨⟨1, false⟩, ⟨0, false⟩, 0, false, 0⟩) [(1, 0x100)] [0x80] = some ([0x80], some (some 0x80)) := by
  decide +kernel

theorem test_ldS16 : performed (.ldS16 gd 3 ⟨⟨1, false⟩, ⟨0, false⟩, 0, false, 0⟩) [(1, 0x100)] [0x01, 0x80] = some ([0x01, 0x80], some (some 0xFFFFFFFFFFFF8001)) := by
  decide +kernel

theorem test_ldZ16 : performed (.ldZ16 gd 3 ⟨⟨1, false⟩, ⟨0, false⟩, 0, false, 0⟩) [(1, 0x100)] [0x01, 0x80] = some ([0x01, 0x80], some (some 0x8001)) := by
  decide +kernel

theorem test_ldS32 : performed (.ldS32 gd 3 ⟨⟨1, false⟩, ⟨0, false⟩, 0, false, 0⟩) [(1, 0x100)] [0x78, 0x56, 0x34, 0x92] = some ([0x78, 0x56, 0x34, 0x92], some (some 0xFFFFFFFF92345678)) := by
  decide +kernel

theorem test_ldZ32 : performed (.ldZ32 gd 3 ⟨⟨1, false⟩, ⟨0, false⟩, 0, false, 0⟩) [(1, 0x100)] [0x78, 0x56, 0x34, 0x92] = some ([0x78, 0x56, 0x34, 0x92], some (some 0x92345678)) := by
  decide +kernel

theorem test_ld64 : performed (.ld64 gd 3 ⟨⟨1, false⟩, ⟨0, false⟩, 0, false, 0⟩) [(1, 0x100)] [1, 2, 3, 4, 5, 6, 7, 0x88] = some ([1, 2, 3, 4, 5, 6, 7, 0x88], some (some 0x8807060504030201)) := by
  decide +kernel

theorem test_st8 : performed (.st8 gd ⟨2, false⟩ ⟨⟨1, false⟩, ⟨0, false⟩, 0, false, 0⟩) [(1, 0x100), (2, 0x1122334455667788)] [1, 2] = some ([0x88, 2], none) := by
  decide +kernel

theorem test_st16 : performed (.st16 gd ⟨2, false⟩ ⟨⟨1, false⟩, ⟨0, false⟩, 0, false, 0⟩) [(1, 0x100), (2, 0x1122334455667788)] [1, 2, 3] = some ([0x88, 0x77, 3], none) := by
  decide +kernel

theorem test_st32 : performed (.st32 gd ⟨2, false⟩ ⟨⟨1, false⟩, ⟨0, false⟩, 0, false, 0⟩) [(1, 0x100), (2, 0x1122334455667788)] [1, 2, 3, 4, 5] = some ([0x88, 0x77, 0x66, 0x55, 5], none) := by
  decide +kernel

theorem test_st64 : performed (.st64 gd ⟨2, false⟩ ⟨⟨1, false⟩, ⟨0, false⟩, 0, false, 0⟩) [(1, 0x100), (2, 0x1122334455667788)] [1] = some ([0x88], none) := by
  decide +kernel

theorem test_amoAdd64 : performed (.amoAdd64 gd 3 ⟨2, false⟩ ⟨⟨1, false⟩, 0, false, 0⟩) [(1, 0x100), (2, 2), (3, 0)] [0xFF, 0xFF, 0xFF, 0xFF, 0xFF, 0xFF, 0xFF, 0xFF] =
      some ([1, 0, 0, 0, 0, 0, 0, 0], some (some 0xFFFFFFFFFFFFFFFF)) := by
  decide +kernel

theorem test_amoMin64 : performed (.amoMin64 gd 3 ⟨2, false⟩ ⟨⟨1, false⟩, 0, false, 0⟩) [(1, 0x100), (2, 1), (3, 0)] [0xFF, 0xFF, 0xFF, 0xFF, 0xFF, 0xFF, 0xFF, 0xFF] =
      some ([0xFF, 0xFF, 0xFF, 0xFF, 0xFF, 0xFF, 0xFF, 0xFF], some (some 0xFFFFFFFFFFFFFFFF)) := by
  decide +kernel

theorem test_amoMax64 : performed (.amoMax64 gd 3 ⟨2, false⟩ ⟨⟨1, false⟩, 0, false, 0⟩) [(1, 0x100), (2, 1), (3, 0)] [0xFF, 0xFF, 0xFF, 0xFF, 0xFF, 0xFF, 0xFF, 0xFF] =
      some ([1, 0, 0, 0, 0, 0, 0, 0], some (some 0xFFFFFFFFFFFFFFFF)) := by
  decide +kernel

theorem test_amoMinz64 : performed (.amoMinz64 gd 3 ⟨2, false⟩ ⟨⟨1, false⟩, 0, false, 0⟩) [(1, 0x100), (2, 1), (3, 0)] [0xFF, 0xFF, 0xFF, 0xFF, 0xFF, 0xFF, 0xFF, 0xFF] =
      some ([1, 0, 0, 0, 0, 0, 0, 0], some (some 0xFFFFFFFFFFFFFFFF)) := by
  decide +kernel

theorem test_amoMaxz64 : performed (.amoMaxz64 gd 3 ⟨2, false⟩ ⟨⟨1, false⟩, 0, false, 0⟩) [(1, 0x100), (2, 1), (3, 0)] [0xFF, 0xFF, 0xFF, 0xFF, 0xFF, 0xFF, 0xFF, 0xFF] =
      some ([0xFF, 0xFF, 0xFF, 0xFF, 0xFF, 0xFF, 0xFF, 0xFF], some (some 0xFFFFFFFFFFFFFFFF)) := by
  decide +kernel

theorem test_amoAnd64 : performed (.amoAnd64 gd 3 ⟨2, false⟩ ⟨⟨1, false⟩, 0, false, 0⟩) [(1, 0x100), (2, 1), (3, 0)] [0xFF, 0xFF, 0xFF, 0xFF, 0xFF, 0xFF, 0xFF, 0xFF] =
      some ([1, 0, 0, 0, 0, 0, 0, 0], some (some 0xFFFFFFFFFFFFFFFF)) := by
  decide +kernel

theorem test_amoOr64 : performed (.amoOr64 gd 3 ⟨2, false⟩ ⟨⟨1, false⟩, 0, false, 0⟩) [(1, 0x100), (2, 1), (3, 0)] [0, 0, 0, 0, 0, 0, 0, 0] =
      some ([1, 0, 0, 0, 0, 0, 0, 0], some (some 0)) := by
  decide +kernel

theorem test_amoXor64 : performed (.amoXor64 gd 3 ⟨2, false⟩ ⟨⟨1, false⟩, 0, false, 0⟩) [(1, 0x100), (2, 1), (3, 0)] [1, 0, 0, 0, 0, 0, 0, 0] =
      some ([0, 0, 0, 0, 0, 0, 0, 0], some (some 1)) := by
  decide +kernel

theorem test_amoSwap64 : performed (.amoSwap64 gd 3 ⟨2, false⟩ ⟨⟨1, false⟩, 0, false, 0⟩) [(1, 0x100), (2, 1), (3, 0)] [0xFF, 0xFF, 0xFF, 0xFF, 0xFF, 0xFF, 0xFF, 0xFF] =
      some ([1, 0, 0, 0, 0, 0, 0, 0], some (some 0xFFFFFFFFFFFFFFFF)) := by
  decide +kernel

theorem test_amoCas64 : performed (.amoCas64 gd 3 ⟨2, false⟩ ⟨⟨1, false⟩, 0, false, 0⟩) [(1, 0x100), (2, 1), (3, 0xFFFFFFFFFFFFFFFF)] [0xFF, 0xFF, 0xFF, 0xFF, 0xFF, 0xFF, 0xFF, 0xFF] =
      some ([1, 0, 0, 0, 0, 0, 0, 0], some (some 0xFFFFFFFFFFFFFFFF)) := by
  decide +kernel

theorem test_amoFadd64 : performed (.amoFadd64 gd 3 ⟨2, false⟩ ⟨⟨1, false⟩, 0, false, 0⟩) [(1, 0x100), (2, 0x3FF0000000000000), (3, 0)] [0, 0, 0, 0, 0, 0, 0xF0, 0x3F] =
      some ([0, 0, 0, 0, 0, 0, 0, 0x40], some (some 0x3FF0000000000000)) := by
  decide +kernel

theorem test_amoAdd32 : performed (.amoAdd32 gd 3 ⟨2, false⟩ ⟨⟨1, false⟩, 0, false, 0⟩) [(1, 0x100), (2, 2), (3, 0)] [0xFF, 0xFF, 0xFF, 0xFF] =
      some ([1, 0, 0, 0], some (some 0xFFFFFFFF)) := by
  decide +kernel

theorem test_amoMin32 : performed (.amoMin32 gd 3 ⟨2, false⟩ ⟨⟨1, false⟩, 0, false, 0⟩) [(1, 0x100), (2, 1), (3, 0)] [0xFF, 0xFF, 0xFF, 0xFF] =
      some ([0xFF, 0xFF, 0xFF, 0xFF], some (some 0xFFFFFFFF)) := by
  decide +kernel

theorem test_amoMax32 : performed (.amoMax32 gd 3 ⟨2, false⟩ ⟨⟨1, false⟩, 0, false, 0⟩) [(1, 0x100), (2, 1), (3, 0)] [0xFF, 0xFF, 0xFF, 0xFF] =
      some ([1, 0, 0, 0], some (some 0xFFFFFFFF)) := by
  decide +kernel

theorem test_amoMinz32 : performed (.amoMinz32 gd 3 ⟨2, false⟩ ⟨⟨1, false⟩, 0, false, 0⟩) [(1, 0x100), (2, 1), (3, 0)] [0xFF, 0xFF, 0xFF, 0xFF] =
      some ([1, 0, 0, 0], some (some 0xFFFFFFFF)) := by
  decide +kernel

theorem test_amoMaxz32 : performed (.amoMaxz32 gd 3 ⟨2, false⟩ ⟨⟨1, false⟩, 0, false, 0⟩) [(1, 0x100), (2, 1), (3, 0)] [0xFF, 0xFF, 0xFF, 0xFF] =
      some ([0xFF, 0xFF, 0xFF, 0xFF], some (some 0xFFFFFFFF)) := by
  decide +kernel

theorem test_amoAnd32 : performed (.amoAnd32 gd 3 ⟨2, false⟩ ⟨⟨1, false⟩, 0, false, 0⟩) [(1, 0x100), (2, 1), (3, 0)] [0xFF, 0xFF, 0xFF, 0xFF] =
      some ([1, 0, 0, 0], some (some 0xFFFFFFFF)) := by
  decide +kernel

theorem test_amoOr32 : performed (.amoOr32 gd 3 ⟨2, false⟩ ⟨⟨1, false⟩, 0, false, 0⟩) [(1, 0x100), (2, 1), (3, 0)] [0, 0, 0, 0] =
      some ([1, 0, 0, 0], some (some 0)) := by
  decide +kernel

theorem test_amoXor32 : performed (.amoXor32 gd 3 ⟨2, false⟩ ⟨⟨1, false⟩, 0, false, 0⟩) [(1, 0x100), (2, 1), (3, 0)] [1, 0, 0, 0] =
      some ([0, 0, 0, 0], some (some 1)) := by
  decide +kernel

theorem test_amoSwap32 : performed (.amoSwap32 gd 3 ⟨2, false⟩ ⟨⟨1, false⟩, 0, false, 0⟩) [(1, 0x100), (2, 1), (3, 0)] [0xFF, 0xFF, 0xFF, 0xFF] =
      some ([1, 0, 0, 0], some (some 0xFFFFFFFF)) := by
  decide +kernel

/-- The comparand 0 differs (R229). -/
theorem test_amoCas32_fails : performed (.amoCas32 gd 3 ⟨2, false⟩ ⟨⟨1, false⟩, 0, false, 0⟩) [(1, 0x100), (2, 1), (3, 0)] [0xFF, 0xFF, 0xFF, 0xFF] =
      some ([0xFF, 0xFF, 0xFF, 0xFF], some (some 0xFFFFFFFF)) := by
  decide +kernel

theorem test_amoFadd32 : performed (.amoFadd32 gd 3 ⟨2, false⟩ ⟨⟨1, false⟩, 0, false, 0⟩) [(1, 0x100), (2, 0x3F800000), (3, 0)] [0, 0, 0x80, 0x3F] =
      some ([0, 0, 0, 0x40], some (some 0x3F800000)) := by
  decide +kernel

theorem test_amo_misaligned : trapOf (.amoAdd64 gd 3 ⟨2, false⟩ ⟨⟨1, false⟩, 0, false, 0⟩) (regs [(1, 0x104)] base) = some (0x04, 0x104, 0) := by
  decide +kernel

/-- XLATE (R226). -/
theorem test_load_untranslated : trapOf (.ld64 gd 3 ⟨⟨1, false⟩, ⟨0, false⟩, 0, false, 0⟩) (regs [(1, 0x40000000)] base) = some (0x05, 0x40000000, 0) := by
  decide +kernel

theorem test_fence_core : after (exec (.fence gd 0) base) (fun t => (t.cp.regs.pc, t.cp.ctl.fences)) = some (8, []) := by
  decide +kernel

/-- `li g1, 5` as the first instruction after reset. -/
theorem test_fetch_runs : after (step (State.reset.withFetchWord 64 0x0807080000000005)) (fun t => (t.cp.regs.get 1, t.cp.regs.pc)) = some (5, 8) := by
  decide +kernel


/-! ### Witnesses: for each statement, states and operands that meet the hypotheses of its clauses -/

theorem witness_DecodeEncode : wf (.add gd 3 ⟨4, true⟩ ⟨5, false⟩) = true
    ∧ encode (.add gd 3 ⟨4, true⟩ ⟨5, false⟩) = some 0x0400192500000000 := ⟨rfl, rfl⟩

/-- `li g1, 5` at the program counter. -/
def fetched : State := State.reset.withFetchWord 64 0x0807080000000005

theorem witness_StepRunsDecoded :
    (fetched.agenda = [] ∧ fetched.stopped = false ∧ fetched.cp.alive = true ∧ fetched.waved fetched.focus.val = false)
    ∧ fetched.unstarted fetched.focus.val = false ∧ fetched.cp.ctl.reqs.any (fun r => r.far) = false
    ∧ (fetched.grid fetched.focus.val).loads.any (fun l => l.reg.isNone) = false ∧ fetched.verdictDue fetched.focus.val = false
    ∧ fetched.cp.trapPending = false ∧ fetched.cp.ctl.standing = none ∧ fetched.cp.ctl.issued ≠ fetched.cyc + 1
    ∧ fetched.fetch fetched.focus.val = .word 0x0807080000000005 0 ∧ fetched.cp.waitsFor (.li gd 1 5) = false
    ∧ fetched.cp.ctl.again = false ∧ pairCmd (.li gd 1 5) = false
    ∧ goes (exec (.li gd 1 5) ((fetched.cacheRead fetched.focus.val 0 (fetched.cp.regs.pc.toNat / 8 % 512)).modCore
        fetched.focus.val fun y =>
        { y with
          cp := { y.cp with ctl := { y.cp.ctl with entry := false, issued := fetched.cyc + 1, again := false } }
          grid := { y.grid with pcs := tabSet 0 y.grid.pcs 13 (tabGet 0 y.grid.pcs 13 + 1) }
          cache := y.cache.touch 0 })) = true := by
  decide +kernel

/-- A form that stands with its record read. -/
theorem witness_StepRunsDecoded_record :
    let f : Standing := ⟨.mxTok gd 3 ⟨1, false⟩, none⟩
    let s := fetched.modCp fun x => { x with ctl := { x.ctl with standing := some f, records := [⟨0, 64, 7⟩] } }
    s.cp.ctl.standing = some f ∧ s.cp.ctl.records = ⟨0, 64, 7⟩ :: [] ∧ pairCmd f.form = false
    ∧ s.waved s.focus.val = false ∧ s.cp.alive = true ∧ goes (exec f.form s) = true := by
  decide +kernel

/-- A pair command of core 1, beside core 0 with an instruction of its own. -/
theorem witness_StepRunsDecoded_pair :
    let s := { fetched with focus := 1 }
    pairCmd (.pairBox gd 3 ⟨1, false⟩) = true ∧ (0 : CoreIx).val / 12 = s.focus.val / 12 ∧ (0 : CoreIx).val < s.focus.val
    ∧ (match s.planAlone 0 with | .run j _ => pairCmd j | _ => true) = false := by
  decide +kernel

/-- The word at the program counter is refused. -/
def fetchedBad : State := State.reset.withFetchWord 64 0x0200000000000000

theorem witness_StepRunsDecoded_reserved :
    fetchedBad.fetch fetchedBad.focus.val = .word 0x0200000000000000 0 ∧ fetchedBad.cp.alive = true
    ∧ fetchedBad.cp.waitsFor (.reservedOpcode 0x0200000000000000) = false
    ∧ goes (exec (.reservedOpcode 0x0200000000000000) fetchedBad) = true := by
  decide +kernel

/-- An event on the agenda, and a package that has stopped. -/
def eventful : State := { base with agenda := [.event .ktimeTick, .issue 0] }

theorem witness_StepRunsEvent :
    (eventful.agenda = .event .ktimeTick :: [.issue 0] ∧ isEvent .ktimeTick = true ∧ eventful.stopped = false
      ∧ eventful.mayStep .ktimeTick = true)
    ∧ (({ eventful with stopped := true } : State).agenda = .event .ktimeTick :: [.issue 0]
      ∧ ({ eventful with stopped := true } : State).mayStep .ktimeTick = false)
    ∧ base.hostHome false 0x80000 8 false = .mgmt 0
    ∧ (({ base with stopped := true } : State).stopped = true ∧ ({ base with stopped := true } : State).agenda = []) := by
  decide +kernel

theorem witness_FailedGuardActsNot :
    ((encode (.add ⟨false, 1⟩ 3 ⟨1, true⟩ ⟨2, false⟩)).isSome = true ∧ wf (.add ⟨false, 1⟩ 3 ⟨1, true⟩ ⟨2, false⟩) = true
      ∧ base.cp.regs.guard (Machine.guardOf (.add ⟨false, 1⟩ 3 ⟨1, true⟩ ⟨2, false⟩)) = false)
    ∧ (0x0200000000000000 : Word).extractLsb' 57 1 = 1#1 ∧ (0x0200000000000000 : Word).extractLsb' 54 3 = 0#3 := by
  decide +kernel

/-- VSTRICT = 1, with g1 occupied and g2 vacant. -/
def strict : State := (regs [(1, 7)] base).modCp fun x => { x with k := { x.k with vstrict := true } }

theorem witness_VacantReadTraps :
    (encode (.add gd 3 ⟨1, false⟩ ⟨2, false⟩)).isSome = true
    ∧ srcsOf (.add gd 3 ⟨1, false⟩ ⟨2, false⟩) = [⟨1, false⟩] ++ ⟨2, false⟩ :: []
    ∧ strict.cp.regs.guard (Machine.guardOf (.add gd 3 ⟨1, false⟩ ⟨2, false⟩)) = true
    ∧ privileged (.add gd 3 ⟨1, false⟩ ⟨2, false⟩) = false ∧ strict.cp.k.vstrict = true
    ∧ strict.cp.regs.vacant 2 = true ∧ strict.cp.regs.vacant 1 = false := by
  decide +kernel

/-- Core 0 in task mode. -/
def task : State := base.modCp fun x => { x with k := { x.k with sys := false } }

theorem witness_PrivilegedFormsTrap :
    encode (.kset gd .kscratch ⟨31, true⟩) = some 0x280207E000000005 ∧ privileged (.kset gd .kscratch ⟨31, true⟩) = true
    ∧ task.cp.regs.guard (Machine.guardOf (.kset gd .kscratch ⟨31, true⟩)) = true ∧ task.cp.k.sys = false := by
  decide +kernel

theorem ready_base (l : List Src) (priv : Bool) : Ready base gd priv l :=
  ⟨by decide +kernel, fun _ => by decide +kernel, .inl (by decide +kernel)⟩

theorem witness_TrapsAndReturns : Ready base gd true [] := ready_base _ _

theorem witness_SystemForms : Ready base gd false [] ∧ Ready base gd true [] := ⟨ready_base _ _, ready_base _ _⟩

theorem witness_IntegerResults : Ready base gd false [⟨1, false⟩, ⟨2, true⟩] ∧ Ready base gd false [⟨31, false⟩] :=
  ⟨ready_base _ _, ready_base _ _⟩

theorem witness_DivisionResults : Ready base gd false [⟨1, false⟩, ⟨2, false⟩]
    ∧ goes (exec (.rem gd 3 ⟨1, false⟩ ⟨2, false⟩) (regs [(1, 0xFFFFFFFFFFFFFFF9), (2, 2)] base)) = true
    ∧ (3 : Reg) ≠ 0 ∧ remSigned 0xFFFFFFFFFFFFFFF9 2 ≠ 0 := by
  refine ⟨ready_base _ _, ?_, ?_⟩ <;> decide +kernel

theorem witness_BitFieldResults : Ready base gd false [⟨1, false⟩, ⟨2, false⟩, ⟨4, false⟩]
    ∧ min ((base.cp.val ⟨4, false⟩).toNat / 256 % 128) 64 = 0 := ⟨ready_base _ _, by decide +kernel⟩

theorem witness_ImmediateResults : Ready base gd false [⟨1, true⟩] ∧ Ready base gd false [] := ⟨ready_base _ _, ready_base _ _⟩

theorem witness_CompareAndPredicateForms : Ready base gd false [⟨1, false⟩, ⟨2, false⟩] ∧ Ready base gd false [⟨1, false⟩]
    ∧ Ready base gd false [] := ⟨ready_base _ _, ready_base _ _, ready_base _ _⟩

theorem witness_Branches : Ready (regs [(1, 0xFFFFFFFFFFFFFFF8), (2, 0xFFFFFFFFFFFFFFFF)] base) gd false [⟨1, false⟩]
    ∧ ((regs [(1, 0xFFFFFFFFFFFFFFF8), (2, 0xFFFFFFFFFFFFFFFF)] base).cp.val ⟨1, false⟩).toNat % 8 = 0
    ∧ ((regs [(1, 0xFFFFFFFFFFFFFFF8), (2, 0xFFFFFFFFFFFFFFFF)] base).cp.val ⟨2, false⟩).toNat % 8 ≠ 0
    ∧ Ready base gd false [] := by
  refine ⟨by unfold Ready; decide +kernel, ?_, ?_, ready_base _ _⟩ <;> decide +kernel

theorem witness_CountedLoop : Ready base gd false [⟨1, false⟩] ∧ base.cp.regs.get 1 = 0 ∧ base.cp.regs.vacant 1 = true
    ∧ (regs [(1, 1)] base).cp.regs.get 1 ≠ 0 ∧ base.cp.regs.guard ⟨false, 1⟩ = false ∧ gd.ok = true
    ∧ encode (.loop gd 0 1) = some 0x1404000000000001 := by
  refine ⟨ready_base _ _, ?_, ?_, ?_, ?_, ?_, ?_⟩ <;> decide +kernel

theorem witness_KRegisterForms : Ready base gd true [⟨1, false⟩] ∧ Ready base gd false [⟨1, false⟩] ∧ Ready base gd false [] :=
  ⟨ready_base _ _, ready_base _ _, ready_base _ _⟩

theorem witness_FloatingFormsComplete : Ready base gd false [⟨1, false⟩, ⟨2, false⟩]
    ∧ Ready base gd false [⟨1, false⟩, ⟨2, false⟩, ⟨3, false⟩] ∧ Ready base gd false [⟨1, false⟩] :=
  ⟨ready_base _ _, ready_base _ _, ready_base _ _⟩

theorem witness_FloatingMinMax :
    ((Prec.operand .s 0x7FC00000).isNan = true ∧ (Prec.operand .s 0).isNan = false)
    ∧ ((Prec.operand .d 0x7FF0000000000001).isNan = true ∧ (Prec.operand .d 0x7FEFFFFFFFFFFFFF).isNan = false) := by
  decide +kernel

/-- A result that is an `ok` of `v` is `v` beside the state it leaves. -/
theorem translated_eq {x : State × Except Fail (List Seg)} {gs : List Seg} (h : x.2.toOption = some gs) :
    x = (x.1, .ok gs) := by
  obtain ⟨s, r⟩ := x
  cases r <;> simp_all [Except.toOption]

theorem failed_eq {x : State × Except Fail (List Seg)} {f : Fail} (h : (match x.2 with | .ok _ => none | .error f => some f) = some f) :
    x = (x.1, .error f) := by
  obtain ⟨s, r⟩ := x
  cases r <;> simp_all

/-- g1 = 0xFFF, so that 8 bytes cross a 16-byte block, and g2 = 0x100. -/
def pointed : State := regs [(1, 0xFFF), (2, 0x100)] base

/-- The two parts of 8 bytes at 0x10F9. -/
def parted : List Seg := [⟨0x10F9, 0, 7, false⟩, ⟨0x1100, 7, 1, false⟩]

/-- A load, a store and an atomic that issue: at 0x10F9 in two parts, and at 0x100. -/
theorem witness_LoadsPost :
    Issues (.ld64 gd 3 ⟨⟨1, false⟩, ⟨2, false⟩, 0x3FFFFFA, false, 0⟩) pointed (pointed.translateParts 0 0x10F9 .read true (accessParts 0x10F9 8)).1 gd [⟨1, false⟩, ⟨2, false⟩] 0x10F9 8
      (.load 8 false) .plain false 0 parted where
  ready := by unfold Ready; decide +kernel
  free := by decide +kernel
  aligned := by intro h; exact absurd rfl h
  walked := by decide +kernel
  translated := translated_eq (by decide +kernel)
  region := by decide +kernel
  ordered := by decide +kernel
  home := by decide +kernel

theorem witness_StoresPost :
    Issues (.st64 gd ⟨2, false⟩ ⟨⟨1, false⟩, ⟨2, false⟩, 0x3FFFFFA, false, 0⟩) pointed (pointed.translateParts 0 0x10F9 .write true (accessParts 0x10F9 8)).1 gd
      [⟨1, false⟩, ⟨2, false⟩, ⟨2, false⟩] 0x10F9 8 (.store 8) .plain false 0 parted where
  ready := by unfold Ready; decide +kernel
  free := by decide +kernel
  aligned := by intro h; exact absurd rfl h
  walked := by decide +kernel
  translated := translated_eq (by decide +kernel)
  region := by decide +kernel
  ordered := by decide +kernel
  home := by decide +kernel

theorem witness_AtomicsPost :
    Issues (.amoCas64 gd 2 ⟨1, false⟩ ⟨⟨2, false⟩, 0, true, 5⟩) pointed (pointed.translateParts 0 0x100 .both true (accessParts 0x100 8)).1 gd
      [⟨2, false⟩, ⟨1, false⟩, ⟨2, false⟩] 0x100 8 (.amo .cas true) (.atomic .cas) true 5 [⟨0x100, 0, 8, false⟩] where
  ready := by unfold Ready; decide +kernel
  free := by decide +kernel
  aligned := by decide +kernel
  walked := by decide +kernel
  translated := translated_eq (by decide +kernel)
  region := by decide +kernel
  ordered := by decide +kernel
  home := by decide +kernel

theorem witness_AtomicsPost_misaligned : Ready pointed gd false [⟨1, false⟩, ⟨2, false⟩]
    ∧ pointed.cp.held (.amoAdd32 gd 3 ⟨2, false⟩ ⟨⟨1, false⟩, 0, false, 0⟩) = false
    ∧ (BitVec.ofInt 64 ((pointed.cp.val ⟨1, false⟩).toNat + (0 : BitVec 26).toInt)).toNat % 4 ≠ 0 := by
  refine ⟨by unfold Ready; decide +kernel, ?_, ?_⟩ <;> decide +kernel

theorem witness_AccessFaults :
    Ready pointed gd false [⟨1, false⟩, ⟨1, false⟩] ∧ pointed.cp.held (.ld64 gd 3 ⟨⟨1, false⟩, ⟨1, false⟩, 0, false, 0⟩) = false
    ∧ pointed.cp.ctl.reqs.any (fun x => pointed.mayOrder 0 x (.load 8 false) false 0) = false
    ∧ (accessParts 0x40000000 8).any (fun p => pointed.walkWaits 0 ((0x40000000 + p.1) % 2 ^ 64)) = false
    ∧ pointed.translateParts 0 0x40000000 .read true (accessParts 0x40000000 8)
        = ((pointed.translateParts 0 0x40000000 .read true (accessParts 0x40000000 8)).1, .error ⟨0x05, 0x40000000⟩) := by
  refine ⟨by unfold Ready; decide +kernel, ?_, ?_, ?_, failed_eq ?_⟩ <;> decide +kernel

/-- A page whose last byte lies in no HBM4 stack's space. -/
def unmapped : State :=
  base.modCore 0 fun y => { y with tlb := [{ root := 0, va := 0, pa := 0xC00000000, k := 18, rd := true, wr := true, ex := true, so := false }] }

theorem witness_AccessFaults_region :
    unmapped.translateParts 0 0 .read true (accessParts 0 8)
      = ((unmapped.translateParts 0 0 .read true (accessParts 0 8)).1, .ok [⟨0xC00000000, 0, 8, false⟩])
    ∧ ((unmapped.translateParts 0 0 .read true (accessParts 0 8)).1.regionFail 0 8 .plain false true
        [⟨0xC00000000, 0, 8, false⟩]).isSome = true := by
  refine ⟨translated_eq ?_, ?_⟩ <;> decide +kernel

/-- A request of core 0 that waits at its home. -/
def asked (op : CpOp) (gs : List Seg) : CpReq := ⟨7, op, gs, 0x1122334455667788, 0, 3, 8, false, 0, [], false, false, []⟩

/-- The core with that request, g3 pending and g4 awaiting a value that has returned. -/
def asking (op : CpOp) (gs : List Seg) : State :=
  base.modCp fun x => { x with ctl := { x.ctl with
    reqs := [asked op gs], pend := [⟨3, true, none⟩, ⟨4, false, some 9⟩] } }

theorem witness_HomePerformsLoad :
    let g : Seg := ⟨0x103, 0, 4, false⟩
    let r := asked (.load 4 true) [g]
    let s := asking (.load 4 true) [g]
    listFind (fun q => q.id == r.id) (s.cpOf 0).ctl.reqs = some r ∧ r.op = .load 4 true ∧ r.segs = [g] ∧ g.off = 0 ∧ g.n = 4 ∧ g.done = false ∧ r.got = []
    ∧ s.reqBarred 0 r = false ∧ s.lateFail r = none
    ∧ (s.isOwn g.pa && regionOf (paKind g.pa) == .mmio) = false := by
  decide +kernel

/-- The read of a record of 64 bytes in two parts, the first of which a home has performed. -/
theorem witness_HomePerformsLoad_record :
    let g : Seg := ⟨0x120, 32, 32, false⟩
    let r := asked (.record 0x100 64) [⟨0x100, 0, 32, true⟩, g]
    let s := asking (.record 0x100 64) [⟨0x100, 0, 32, true⟩, g]
    listFind (fun q => q.id == r.id) (s.cpOf 0).ctl.reqs = some r ∧ r.segs[1]? = some g ∧ g.done = false
    ∧ (∀ k < 2, ∀ h, r.segs[k]? = some h → k ≠ 1 → h.done = true)
    ∧ s.reqBarred 0 r = false ∧ s.lateFail r = none ∧ (s.isOwn g.pa && regionOf (paKind g.pa) == .mmio) = false
    ∧ (asked (.record 0x100 64) [⟨0x100, 0, 32, false⟩, g]).segs[0]? = some ⟨0x100, 0, 32, false⟩ := by
  refine ⟨?_, ?_, ?_, fun k hk => ?_, ?_, ?_, ?_, ?_⟩
  case refine_4 => match k, hk with
    | 0, _ => intro h e; cases e; simp
    | 1, _ => simp
  all_goals decide +kernel

theorem witness_HomePerformsStore :
    let g : Seg := ⟨0x1100, 7, 1, false⟩
    let r := asked (.store 8) [⟨0x10F9, 0, 7, false⟩, g]
    let s := asking (.store 8) [⟨0x10F9, 0, 7, false⟩, g]
    listFind (fun q => q.id == r.id) (s.cpOf 0).ctl.reqs = some r ∧ r.op = .store 8 ∧ r.segs[1]? = some g ∧ g.off + g.n ≤ 8 ∧ g.done = false
    ∧ s.reqBarred 0 r = false ∧ s.lateFail r = none
    ∧ (s.isOwn g.pa && regionOf (paKind g.pa) == .mmio) = false := by
  decide +kernel

theorem witness_HomePerformsAtomic :
    let g : Seg := ⟨0x100, 0, 4, false⟩
    let r := asked (.amo .cas false) [g]
    let s := asking (.amo .cas false) [g]
    listFind (fun q => q.id == r.id) (s.cpOf 0).ctl.reqs = some r ∧ r.op = .amo .cas false ∧ r.segs = [g]
    ∧ g.n = (if false then 8 else 4) ∧ g.done = false ∧ s.waveBars 0 g.pa = false ∧ s.lateFail r = none
    ∧ (s.isOwn g.pa && regionOf (paKind g.pa) == .mmio) = false := by
  decide +kernel

theorem witness_ResultsReturn :
    let s := asking (.store 8) [⟨0x100, 0, 8, false⟩]
    listFind (fun q => q.reg == 4 && q.val.isSome) (s.cpOf 0).ctl.pend = some ⟨4, false, some 9⟩
    ∧ s.cp.ctl.standing = none ∧ s.cp.regs.guard gd = true
    ∧ s.cp.regs.guard (Machine.guardOf (.add ⟨false, 1⟩ 5 ⟨3, true⟩ ⟨2, false⟩)) = false
    ∧ s.cp.ctl.pend = ⟨3, true, none⟩ :: [⟨4, false, some 9⟩]
    ∧ srcsOf (.add gd 5 ⟨3, true⟩ ⟨2, false⟩) = ⟨3, true⟩ :: [⟨2, false⟩] ∧ destOf (.add gd 3 ⟨1, false⟩ ⟨2, false⟩) = some 3
    ∧ s.fetch s.focus.val = .word 0 0 ∧ (regs [(1, 0)] s).cp.waitsFor (instrOf 0x0400192300000000) = true
    ∧ s.cp.trapPending = false := by
  decide +kernel

/-- An access outstanding behind a fence of a kind that waits for it. -/
def fencing (kind : FenceKind) : State :=
  (asking (.store 8) [⟨0x100, 0, 8, false⟩]).modCp fun x => { x with ctl := { x.ctl with fences := [⟨[7], kind⟩] } }

/-- The same fence with nothing outstanding, and a form that stood behind it. -/
def unfencing (kind : FenceKind) (i : Instr) : State :=
  base.modCp fun x => { x with ctl := { x.ctl with fences := [⟨[7], kind⟩], standing := some ⟨i, none⟩ } }

/-- A load, which a fence holds. -/
def aLoad : Instr := .ld64 gd 3 ⟨⟨1, false⟩, ⟨0, false⟩, 0, false, 0⟩

theorem witness_FencesHoldAndEnd : Ready base gd false [] ∧ Ready (fencing .accesses) gd false [⟨1, false⟩, ⟨0, false⟩]
    ∧ ((fencing .accesses).cp.ctl.fences = [⟨[7], .accesses⟩] ∧ ((fencing .accesses).cp.ctl.reqs.map fun r => r.id) = [7])
    ∧ (makesAccess aLoad = true ∧ startsFill (.cfgFetch gd 3 .core ⟨1, false⟩) = true
      ∧ makesAccess (.qPush gd 3 (.fq 0) ⟨1, false⟩ false) = false ∧ startsFill aLoad = false)
    ∧ ((fencing .accesses).cp.held aLoad = true ∧ (fencing .commands).cp.held (.qPush gd 3 (.fq 0) ⟨1, false⟩ false) = true
      ∧ (fencing .fills).cp.held (.cfgFetch gd 3 .core ⟨1, false⟩) = true)
    ∧ (unfencing .accesses aLoad).cp.ctl.met ⟨[7], .accesses⟩ = true
    ∧ ((unfencing .accesses aLoad).cpOf 0).ctl.standing = some ⟨aLoad, none⟩
    ∧ ((unfencing .accesses aLoad).cpOf 0).ctl.fences ≠ [] ∧ ((unfencing .accesses aLoad).cpOf 0).held aLoad = false := by
  refine ⟨ready_base _ _, by unfold Ready; decide +kernel, ?_, ?_, ?_, ?_, ?_, ?_, ?_⟩ <;> decide +kernel

/-- A request of core 0, one of another package. -/
def askedFar (op : CpOp) (pa : Nat) : CpReq := { asked op [⟨pa, 0, 4, false⟩] with far := true, srcs := [⟨1, true⟩] }

/-- The half at 0x100 holds two flipped bits, and a request waits there. -/
def broken (r : CpReq) : State :=
  { (base.modCp fun x => { x with ctl := { x.ctl with reqs := [r], pend := [⟨3, true, none⟩] } }) with ecc := [(0x20, .double)] }

/-- A far load that its home performs, with a last use. -/
theorem witness_HomePerformsLoad_far :
    let r := askedFar (.load 4 true) 0x100
    let s := { broken r with ecc := [] }
    listFind (fun q => q.id == r.id) (s.cpOf 0).ctl.reqs = some r ∧ r.far = true ∧ lastUse r.srcs 1 = true
    ∧ s.reqBarred 0 r = false ∧ s.lateFail r = none ∧ (s.isOwn 0x100 && regionOf (paKind 0x100) == .mmio) = false := by
  decide +kernel

theorem witness_AccessesThatFail :
    (let r := asked (.store 4) [⟨0x100, 0, 4, false⟩]
     ((broken r).cpOf 0).alive = true ∧ listFind (fun q => q.id == r.id && !q.op.reads) ((broken r).cpOf 0).ctl.reqs = some r
     ∧ r.segs.any (fun g => g.done) = false ∧ (broken r).reqBarred 0 r = false
     ∧ ((broken r).homeFail r.op r.segs).isSome = true)
    ∧ (∀ op ∈ [CpOp.store 4, .load 4 false],
       let r := askedFar op (2 ^ 49)
       listFind (fun q => q.id == r.id) ((broken r).cpOf 0).ctl.reqs = some r
       ∧ r.segs.any (fun g => !(broken r).isOwn g.pa) = true ∧ r.far = true ∧ r.segs.any (fun g => g.done) = false)
    ∧ (let r := askedFar (.load 4 false) 0x100
       ((broken r).cpOf 0).alive = true ∧ listFind (fun q => q.id == r.id) ((broken r).cpOf 0).ctl.reqs = some r
       ∧ r.segs[0]? = some ⟨0x100, 0, 4, false⟩ ∧ (broken r).reqBarred 0 r = false ∧ r.op.reads = true ∧ r.far = true
       ∧ ((broken r).homeFail r.op r.segs).isSome = true) := by
  decide +kernel

theorem witness_WrittenBytesReadBack : halfCovered 0x101 15 0x21 = true := by decide +kernel

/-- A frame: its kind, its node, and fields as values and lowest bits. -/
def frame (kind node : Nat) (l : List (Nat × Nat)) : Frame :=
  BitVec.ofNat 256 (l.foldl (fun n p => n + p.1 * 2 ^ p.2) (kind * 2 ^ 252 + node * 2 ^ 244))

/-- The state with a frame in a slot of a node of core 0. -/
def slotted (k i : Nat) (f : Frame) (s : State) : State :=
  s.modGrid 0 fun g => { g with slots := tabSet .reset g.slots (4 * k + i) { v := true, ctag := fCtag f, frame := f, inst := 0 } }

/-- A record: its 64-bit words as number and value. -/
def record (l : List (Nat × Nat)) : Nat := l.foldl (fun n p => n + p.2 * 2 ^ (64 * p.1)) 0

/-- g1 = 0x1000, where a number stands in memory. -/
def holding (n v : Nat) : State := regs [(1, 0x1000), (2, 0)] (base.writeNat 0x1000 n v)

/-- The commands of a state with nothing outstanding issue. -/
theorem cmd_ready {i : Instr} {s : State} {priv : Bool} {srcs : List Src} (h : s.cp.regs.guard gd = true) (hp : s.cp.k.sys = true)
    (hv : s.cp.k.vstrict = false) (hf : s.cp.held i = false) : CmdReady i s gd priv srcs := ⟨⟨h, fun _ => hp, .inl hv⟩, hf⟩

/-- The same state once the core has read those n bytes as a record. -/
def recorded (n v : Nat) : State :=
  (holding n v).modCp fun x => { x with ctl := { x.ctl with records := [⟨0x1000, n, v⟩] } }

/-- A read record, by its value, the focus kept. -/
def recordIs (s : State) (va n : Nat) (p : State → Nat → Bool) : Bool :=
  match s.readRecord va n n with
  | .ok u v => decide (u.focus = s.focus) && p u v
  | _ => false

/-- An image of one frame, of ag0, at g1, and a slot of ag0 that holds the tag. -/
def imaged : State :=
  slotted 0x30 0 (frame 3 0x30 []) (holding 64 ((frame 3 0x30 []).toNat + 2 ^ 256 * (frame 15 0 [(1, 208)]).toNat))

/-- Whether a fetch goes on with these frames, and what it leaves meets a condition. -/
def fetches (s : State) (va : Nat) (fs : List Frame) (p : State → Bool) : Bool :=
  match s.cfgFetch 0 va true with
  | .goes u l => l == fs && p u
  | _ => false

/-- Whether a load goes on. -/
def loads (s : State) (va : Nat) : Bool :=
  match s.cfgLoad 0 va true (unitNode .core) (some 3) with
  | .goes _ () => true
  | _ => false

/-- The same with an earlier load open, which every later command of the core waits for. -/
def behindLoad : State :=
  imaged.modGrid 0 fun g => { g with loads := [{ id := 1, node := none, reg := some 5, left := 1, count := 0 }] }

theorem witness_ConfigurationForms : CmdReady (.cfgFetch gd 3 .core ⟨1, false⟩) imaged gd false [⟨1, false⟩]
    ∧ (!((imaged.grid 0).before none).isEmpty) = false
    ∧ fetches imaged 0x1000 [frame 3 0x30 []] (fun u => (u.slotFor 0 0x30 0).isSome
        && ((u.core 0).cache.imageBad 0x1000 1).isNone && ((u.core 0).cache.evict 0x1000).2 != 0) = true
    ∧ loads imaged 0x1000 = true ∧ (fKind (frame 3 0x30 []) ≤ 3 ∨ fKind (frame 3 0x30 []) = 7) := by
  refine ⟨cmd_ready ?_ ?_ ?_ ?_, ?_, ?_, ?_, ?_⟩ <;> decide +kernel

theorem witness_ConfigurationForms_behind : CmdReady (.cfgEvict gd 3 .core ⟨1, false⟩ 0 0) behindLoad gd false [⟨1, false⟩]
    ∧ (!((behindLoad.grid 0).before (some 0x30)).isEmpty) = true ∧ (!((behindLoad.grid 0).before none).isEmpty) = true
    ∧ (0x53 : BitVec 7).getLsbD 4 = true ∧ (0x03 : BitVec 7).getLsbD 4 = false := by
  refine ⟨cmd_ready ?_ ?_ ?_ ?_, ?_, ?_, ?_, ?_⟩ <;> decide +kernel

/-- A stream runs in slot 0 of ag0. -/
def streaming (p : StreamPhase) : State :=
  base.modUnits 0 fun u => { u with streams := tabSet .reset u.streams 0 { Stream.reset with phase := p, gen := 1, record := 1 + 2 ^ 64 } }

theorem witness_ConfigurationForms_barriers : CmdReady (.cfgTag gd 3 0) base gd false []
    ∧ CmdReady (.barCfg gd 3 .core true 0) base gd false [] ∧ base.tagDrained 0 none 0 = true
    ∧ CmdReady (.barCfg gd 3 .core true 0) (streaming .running) gd false [] ∧ (streaming .running).tagDrained 0 none 0 = false
    ∧ (streaming .running).cp.ctl.told = false
    ∧ ((streaming .running).modCp fun x => { x with ctl := { x.ctl with told := true } }).cp.ctl.told = true
    ∧ base.cfgSettled 0 (some 0x38) = true
    ∧ (behindLoad.modGrid 0 fun g => { g with loads := [{ id := 1, node := some 0x38, reg := none, left := 1, count := 0 }] }).cfgSettled
        0 (some 0x38) = false := by
  refine ⟨cmd_ready ?_ ?_ ?_ ?_, cmd_ready ?_ ?_ ?_ ?_, ?_, cmd_ready ?_ ?_ ?_ ?_, ?_, ?_, ?_, ?_, ?_⟩ <;> decide +kernel

/-- One level of one element of fp32; for an inbound stream 7 digits. -/
def shaped (digits : Nat) : Nat := record [(0, 1 + digits * 2 ^ 12), (1, 1)]

theorem witness_StreamForms :
    CmdReady (.strmRd gd 3 0 ⟨2, false⟩ ⟨1, false⟩ ⟨2, false⟩ 0 false) (recorded 64 (shaped 7)) gd false
      [⟨2, false⟩, ⟨1, false⟩, ⟨2, false⟩]
    ∧ recordIs (recorded 64 (shaped 7)) 0x1000 64 (fun u v => v == shaped 7
        && refusal .plain (BitVec.ofNat 512 v) true (u.portRaw 0 (BitVec.ofNat 512 v)) == 0
        && refusal .cst (BitVec.ofNat 512 v) true (u.portRaw 0 (BitVec.ofNat 512 v)) == 0 && !(u.stream 0 0 0).phase.busy && (u.copyIn 0 0 0).isNone) = true
    ∧ refusal .plain (BitVec.ofNat 512 (shaped 0)) false none = 0
    ∧ refusal .ind (BitVec.ofNat 512 (shaped 7 + record [(0, 2 ^ 31)])) true none = 0 := by
  refine ⟨cmd_ready ?_ ?_ ?_ ?_, ?_, ?_, ?_⟩ <;> decide +kernel

/-- A form whose record is not read yet: it makes its request. -/
theorem witness_StreamForms_record :
    CmdReady (.collRed gd 3 ⟨1, false⟩) (holding 128 7) gd false [⟨1, false⟩]
    ∧ (match (holding 128 7).readRecord 0x1000 128 128 with | .post _ gs => gs.length == 8 | _ => false) = true := by
  refine ⟨cmd_ready ?_ ?_ ?_ ?_, ?_⟩ <;> decide +kernel

theorem witness_StreamForms_named :
    base.named 0 0 0x3004 = none ∧ (streaming .running).named 0 0 0x3004 = some 0 ∧ (streaming .done).named 0 0 0x3004 = some 0
    ∧ ((streaming .running).stream 0 0 0).phase = .running
    ∧ (((streaming .running).stream 0 0 0).atEnd && ((streaming .running).stream 0 0 0).x.delivered) = false
    ∧ ((streaming .done).stream 0 0 0).phase.busy = false
    ∧ ((streaming .deferred).stream 0 0 0).phase = .deferred ∧ ((base.cp.regs.pred 0 != false) = true)
    ∧ ((base.cp.regs.pred 0 != true) = false) := by
  decide +kernel

theorem witness_StreamForms_barriers :
    base.slotsDone 0 (base.barrierSlots 0 .core false) = true
    ∧ (streaming .running).slotsDone 0 ((streaming .running).barrierSlots 0 .core false) = false
    ∧ base.slotsDone 0 (base.barrierSlots 0 .core true) = true
    ∧ (base.modUnits 0 fun u => { u with streams := [(31, { Stream.reset with phase := .withheld })] }).slotsDone 0
        (rangeFrom 16 16) = false
    ∧ base.allDone 0 = true ∧ (streaming .running).allDone 0 = false := by
  decide +kernel

/-- A root controller ct7 of one counter without children, stopped or running. -/
def controlled (run : Bool) : State :=
  (slotted 0x27 1 (frame 4 0x27 [(15, 220), (1, 210)]) (regs [(1, 5)] base)).modGrid 0 fun g =>
    { g with ctls := [(29, { Ctl.reset with running := run })] }

theorem witness_ControllerForms : CmdReady (.ctlSet gd 3 7 ⟨1, false⟩ 0) (controlled false) gd false [⟨1, false⟩]
    ∧ base.slotFor 0 0x27 0 = none
    ∧ (controlled false).slotFor 0 0x27 0 = some (1, frame 4 0x27 [(15, 220), (1, 210)])
    ∧ ((controlled false).ctl 0 7 1).running = false ∧ bits ((controlled false).cp.val ⟨1, false⟩) 52 12 = 0
    ∧ bits ((controlled false).cp.val ⟨1, false⟩) 0 12 ≠ 0 ∧ 0 < fNctr (frame 4 0x27 [(15, 220), (1, 210)])
    ∧ fParent (frame 4 0x27 [(15, 220), (1, 210)]) = 15
    ∧ ((controlled false).treeOf 0 0 [7] 8).all (fun k => ((controlled false).slotFor 0 (0x20 + k) 0).all fun p =>
        !((controlled false).ctl 0 k p.1).running) = true
    ∧ (controlled false).ctlRunning 0 7 0 = false ∧ (controlled true).ctlRunning 0 7 0 = true
    ∧ (CmdReady (.ctlGo gd 3 7) (controlled false) gd false [] ∧ CmdReady (.ctlAbort gd 3 7) (controlled true) gd false [])
    ∧ (7 ∈ [7] ∧ ((controlled true).slotFor 0 (0x20 + 7) 0).isSome = true ∧ ((controlled true).ctl 0 7 1).running = true) := by
  refine ⟨cmd_ready ?_ ?_ ?_ ?_, ?_, ?_, ?_, ?_, ?_, ?_, ?_, ?_, ?_, ?_,
    ⟨cmd_ready ?_ ?_ ?_ ?_, cmd_ready ?_ ?_ ?_ ?_⟩, ?_⟩ <;> decide +kernel

/-- fq3 with n entries, and tm0 with a frame that names it. -/
def queued (n : Nat) : State :=
  (slotted 0x50 0 (frame 9 0x50 [(3, 220)]) (regs [(1, 0x1000), (2, 1), (5, 16)] (base.writeNat 0x1000 64 (record [(0, 1), (1, 1)])))).modUnits 0
    fun u => { u with fqs := tabSet [] u.fqs 3 ((rangeFrom 0 n).map fun i => (word i, [])) }

theorem witness_TemplateAndQueueForms : CmdReady (.tplArm gd 3 0 ⟨1, false⟩) (queued 1) gd false [⟨1, false⟩]
    ∧ recordIs ((queued 1).modCp fun x => { x with ctl := { x.ctl with records := [⟨0x1000, 128, record [(0, 1), (1, 1)]⟩] } })
        0x1000 128 (fun _ v => armRefusal (BitVec.ofNat 1024 v) == 0) = true
    ∧ ((queued 1).frameFor 0 0x50 (((queued 1).tpl 0 0).known.getD 0)).isSome = true
    ∧ (queued 15).fqRoom 0 3 = true ∧ (queued 16).fqRoom 0 3 = false
    ∧ ((queued 1).cp.val ⟨2, false⟩).toNat ≤ ((queued 1).fq 0 3).length
    ∧ ((queued 15).fq 0 3).length < ((queued 15).cp.val ⟨5, false⟩).toNat ∧ ((queued 15).cp.val ⟨5, false⟩).toNat ≤ 16
    ∧ (queued 0).fq 0 3 = [] ∧ (queued 1).fq 0 3 = [(0, [])] ∧ (queued 1).cp.drained [] = true := by
  refine ⟨cmd_ready ?_ ?_ ?_ ?_, ?_, ?_, ?_, ?_, ?_, ?_, ?_, ?_, ?_, ?_⟩ <;> decide +kernel

/-- Stream buffer sb2 of 256 bytes at scratch 0, fed by the side psrc and read through qdst, holding one word flit. -/
def bufferedBy (psrc qdst : Nat) : State :=
  let f := frame 8 0x42 [(psrc, 195), (qdst, 190)]
  (slotted 0x42 0 f base).sbPutFlit 0 2 0 f byCp (Flit.seal ⟨77, 0, 0, 0, false, true, 0, 0⟩)

theorem witness_TemplateAndQueueForms_buffer :
    let s : State := { bufferedBy 0x10 0x15 with cyc := 5 }
    s.sbAt 0 2 0 = some (0, frame 8 0x42 [(0x10, 195), (0x15, 190)]) ∧ sbRaw (frame 8 0x42 [(0x10, 195), (0x15, 190)]) = false
    ∧ (s.sbHead 0 2 0 (frame 8 0x42 [(0x10, 195), (0x15, 190)]) byCp).map (fun x => x.pay) = some 77
    ∧ s.sbAcquired 0 2 0 16 = true := by
  decide +kernel

/-- A semaphore word at 0x1000, which g1 points to. -/
def semaphore (next serve : Nat) : State := holding 8 (next * 2 ^ 32 + serve)

/-- A semaphore form is checked. -/
def semOk (s : State) (op : AmoOp) (release : Bool) (p : State → Nat → Bool) : Bool :=
  match s.semCheck 0x1000 op release with
  | .ok u pa => decide (u.focus = s.focus) && p u pa
  | _ => false

theorem witness_SemaphoreForms : CmdReady (.semWait gd 3 ⟨1, false⟩ ⟨2, false⟩) (semaphore 4 4) gd false [⟨1, false⟩, ⟨2, false⟩]
    ∧ semOk (semaphore 4 4) .swap false (fun _ _ => true) = true
    ∧ semOk (semaphore 4 0xFFFFFFFF) .add true (fun _ _ => true) = true
    ∧ semOk (semaphore 4 4) .add false (fun u pa =>
        (((u.eccRead pa 8).writeNat pa 8 (5 * 2 ^ 32 + 4)).semTest pa 4).2 == some 4 && (u.semTest pa 0).2 == some 4
          && (u.semTest pa 5).2.isNone) = true
    ∧ semOk (semaphore 4 3) .add false (fun u pa =>
        (((u.eccRead pa 8).writeNat pa 8 (5 * 2 ^ 32 + 3)).semTest pa 4).2.isNone) = true := by
  refine ⟨cmd_ready ?_ ?_ ?_ ?_, ?_, ?_, ?_, ?_⟩ <;> decide +kernel

/-- The matrix token queue with n entries. -/
def tokens (n : Nat) : State :=
  (regs [(1, 0x400000)] base).modUnits 0 fun u =>
    { u with mx := { u.mx with queue := (rangeFrom 0 n).map fun i => ⟨BitVec.ofNat 16 i, 0, some 0x400000, false, 0, 0⟩ } }

theorem witness_MatrixForms : CmdReady (.mxTok gd 3 ⟨1, false⟩) (tokens 15) gd false [⟨1, false⟩] ∧ mxPayloadOk ((tokens 15).cp.val ⟨1, false⟩) = true
    ∧ ((tokens 15).mx 0).room = true ∧ ((tokens 16).mx 0).room = false ∧ mxPayloadOk 0 = false := by
  refine ⟨cmd_ready ?_ ?_ ?_ ?_, ?_, ?_, ?_, ?_⟩ <;> decide +kernel

/-- A descriptor of a collective of one member, whose table is at 0x2000, and a collective in slot 0. -/
def descriptor : Nat := record [(1, 7 + 2 ^ 32), (2, 0x2000), (8, 1), (10, 1), (11, 1)]

/-- A slot occupied by that descriptor. -/
def collected (p : CollPhase) : State :=
  base.modCore 0 fun x => { x with colls := [(0, { CollSlot.reset with used := true, phase := p, desc := BitVec.ofNat 1024 descriptor })] }

/-- The core has read the descriptor and the one entry of its table. -/
def described : State :=
  (holding 128 descriptor).modCp fun x => { x with ctl := { x.ctl with records := [⟨0x1000, 128, descriptor⟩, ⟨0x2000, 8, 0⟩] } }

theorem witness_CollectiveForms : CmdReady (.collRed gd 3 ⟨1, false⟩) described gd false [⟨1, false⟩]
    ∧ recordIs described 0x1000 128 (fun u v =>
        let x : CollDesc := BitVec.ofNat 1024 v
        (match u.readTable (.collRed gd 3 ⟨1, false⟩) (cdWord x 2) (cdNmem x) [] with
          | .ok l => l == [0] | .error _ => false)
          && listFind (fun n => !(u.coll 0 n).used) (rangeFrom 0 8) == some 0
          && u.collCheck 0 u.cp.k.ctag .red x == 0
          && !((rangeFrom 0 8).any fun m => (u.coll 0 m).used && cdTeam (u.coll 0 m).desc == cdTeam x
            && cdSeq (u.coll 0 m).desc == cdSeq x)) = true
    ∧ [(0 : Word)].any (fun e => bits e 27 37 != 0) = false
    ∧ CmdReady (.collWait gd 3 ⟨1, false⟩) (collected .ended) gd false [⟨1, false⟩]
    ∧ (collected .ended).collNamed 0 (collHandle 0 (BitVec.ofNat 1024 descriptor)) = some 0
    ∧ ((collected .ended).coll 0 0).phase = .ended ∧ ((collected .ring).coll 0 0).phase ≠ .ended
    ∧ (collected .ring).collNamed 0 (collHandle 0 (BitVec.ofNat 1024 descriptor)) = some 0 := by
  refine ⟨cmd_ready ?_ ?_ ?_ ?_, ?_, ?_, cmd_ready ?_ ?_ ?_ ?_, ?_, ?_, ?_, ?_⟩ <;> decide +kernel

/-- A box of 4 by 4 by 4 cells of side 1.0. -/
def boxed : Nat :=
  record [(4, 0x4010000000000000), (5, 0x4010000000000000), (6, 0x4010000000000000), (7, 0x3FF0000000000000), (10, 12), (11, 1)]

/-- The pair engine of cluster 0 owned by core 0. -/
def paired (p : PairPhase) : State :=
  (slotted 0x42 0 (frame 8 0x42 [(0x11, 195)]) (regs [(1, 63), (2, 1)] base)).modCluster 0 fun x =>
    { x with pair := { x.pair with phase := p, box := BitVec.ofNat 1024 boxed } }

/-- The same engine with a bin or a scan under way. -/
def pairing (p : PairPhase) : State :=
  (paired p).modCluster 0 fun x => { x with pair := { x.pair with op := some (base.pairOp 3) } }

theorem witness_PairForms : CmdReady (.pairBox gd 3 ⟨1, false⟩) (recorded 128 boxed) gd false [⟨1, false⟩]
    ∧ recordIs (recorded 128 boxed) 0x1000 128 (fun u v => (u.pair 0).phase == .free && !(u.pair 0).running
        && boxRecOk (BitVec.ofNat 1024 v) && boxOk (BitVec.ofNat 1024 v)) = true
    ∧ CmdReady (.pairBin gd 3) (paired .owned) gd false []
    ∧ (paired .owned).pairMine 0 = true ∧ ((paired .owned).pair 0).running = false ∧ ((paired .owned).pair 0).op = none
    ∧ CmdReady (.pairScan gd 3 ⟨1, false⟩ ⟨2, false⟩ 2 false) (paired .valid) gd false [⟨1, false⟩, ⟨2, false⟩]
    ∧ ((paired .valid).pair 0).phase = .valid ∧ (paired .valid).pairMine 0 = true
    ∧ ((paired .valid).cp.val ⟨1, false⟩).toNat < boxTotal ((paired .valid).pair 0).box
    ∧ ((paired .valid).cp.val ⟨1, false⟩).toNat + ((paired .valid).cp.val ⟨2, false⟩).toNat
        ≤ boxTotal ((paired .valid).pair 0).box
    ∧ (paired .valid).sbAt 0 2 0 = some (0, frame 8 0x42 [(0x11, 195)]) ∧ sbPsrc (frame 8 0x42 [(0x11, 195)]) = 0x11 := by
  refine ⟨cmd_ready ?_ ?_ ?_ ?_, ?_, cmd_ready ?_ ?_ ?_ ?_, ?_, ?_, ?_, cmd_ready ?_ ?_ ?_ ?_, ?_, ?_, ?_, ?_, ?_, ?_⟩
    <;> decide +kernel

theorem witness_PairForms_clear : CmdReady (.pairClr gd 3) (pairing .binning) gd false []
    ∧ (pairing .binning).pairMine 0 = true ∧ ((pairing .binning).pair 0).op = some (base.pairOp 3)
    ∧ ((pairing .binning).pair 0).phase = .binning
    ∧ (pairing .scanning).pairMine 0 = true ∧ ((pairing .scanning).pair 0).phase ≠ .binning := by
  refine ⟨cmd_ready ?_ ?_ ?_ ?_, ?_, ?_, ?_, ?_, ?_⟩ <;> decide +kernel

theorem witness_KvForms : CmdReady (.kvShare gd 3 ⟨1, false⟩ ⟨2, false⟩) base gd false [⟨1, false⟩, ⟨2, false⟩] ∧ kvWordOk 0x7FF = true ∧ kvWordOk 0xF000 = false
    ∧ (kvWordOk 0 && (!true || kvBlk 0 == 0)) = true ∧ bits (0 : Word) 12 4 = 0 ∧ bits (0 : Word) 19 45 = 0
    ∧ bits (1 : Word) 3 61 = 0 ∧ bits (1 : Word) 0 3 ≠ 0 ∧ (4096 : Word).toNat % 64 = 0 := by
  refine ⟨cmd_ready ?_ ?_ ?_ ?_, ?_, ?_, ?_, ?_, ?_, ?_, ?_, ?_⟩ <;> decide +kernel

/-- A task in slot 5 of tq2 of die 0, in this phase; the state's g1 is its handle. -/
def tasked (p : TaskPhase) : State :=
  (regs [(1, 0x205)] base).modDie 0 fun x =>
    { x with sched := { x.sched with slots := [(517, { TSlot.reset with used := true, phase := p })] } }

/-- A task record: an entry at 8. -/
def plainTask : Nat := record [(1, 8)]

theorem witness_TaskForms : CmdReady (.taskSpawn gd 3 15 ⟨1, false⟩) (recorded 128 plainTask) gd false [⟨1, false⟩]
    ∧ recordIs (recorded 128 plainTask) 0x1000 128 (fun u v => recOk (BitVec.ofNat 1024 v)
        && (u.die 0).sched.freeSlot 15 == some 0) = true
    ∧ (CmdReady (.taskDone gd) base gd false [] ∧ CmdReady (.taskCancel gd 3 ⟨1, false⟩) (tasked .waiting) gd false [⟨1, false⟩])
    ∧ (base.cancelDeferred 0).allDone (base.cancelDeferred 0).focus.val = true
    ∧ ((streaming .running).cancelDeferred 0).allDone ((streaming .running).cancelDeferred 0).focus.val = false
    ∧ ((base.die 0).sched.cands base.ktime).any (fun x => decide (base.cp.k.prio.toNat ≤ x.level)
        && base.noPlace 0 ((base.die 0).sched.slot x.queue x.slot)) = false
    ∧ (∀ p ∈ [TaskPhase.waiting, .running],
      let w := (tasked p).bindOne 0
      w.focus = (tasked p).focus ∧ (w.die 0).sched.named (w.cp.val ⟨1, false⟩) = some (2, 5)
      ∧ ((w.die 0).sched.slot 2 5).phase = p)
    ∧ ((base.bindOne 0).die 0).sched.named ((base.bindOne 0).cp.val ⟨1, false⟩) = none := by
  refine ⟨cmd_ready ?_ ?_ ?_ ?_, ?_, ⟨cmd_ready ?_ ?_ ?_ ?_, cmd_ready ?_ ?_ ?_ ?_⟩, ?_, ?_, ?_, ?_, ?_⟩ <;> decide +kernel

/-- The core's own task runs in slot 5 of tq2, a task that needs every core of the die waits in slot 6, and the die has a freeze
area. -/
def yielding : State :=
  let s := base.modCp fun x => { x with ctl := { x.ctl with queue := 2, slot := 5 } }
  s.modDie 0 fun x =>
    { x with
      sched := { x.sched with slots := [(517, { TSlot.reset with used := true, phase := .running }),
        (518, { TSlot.reset with used := true, phase := .ready, record := BitVec.ofNat 1024 (record [(0, 8)]) })] }
      faults := { x.faults with fzSize := 64 } }

theorem witness_TaskForms_yield : CmdReady (.taskYield gd 3) yielding gd false []
    ∧ ((yielding.die 0).sched.cands yielding.ktime).any (fun x => decide (yielding.cp.k.prio.toNat ≤ x.level)
        && yielding.noPlace 0 ((yielding.die 0).sched.slot x.queue x.slot)) = true
    ∧ ((yielding.die 0).sched.slot 2 5).used = true ∧ ((yielding.die 0).sched.slot 2 5).phase = .running
    ∧ yielding.areaFit 0 ((yielding.die 0).sched.slot 2 5).shape = some 0 := by
  refine ⟨cmd_ready ?_ ?_ ?_ ?_, ?_, ?_, ?_, ?_⟩ <;> decide +kernel

theorem witness_FreezeForms : CmdReady (.frzSave gd 3 ⟨1, false⟩ ⟨2, false⟩) (tasked .running) gd true [⟨1, false⟩, ⟨2, false⟩]
    ∧ ((tasked .running).die 0).sched.named ((tasked .running).cp.val ⟨1, false⟩) = some (2, 5)
    ∧ ¬(2 = (tasked .running).cp.ctl.queue.toNat ∧ 5 = (tasked .running).cp.ctl.slot.toNat)
    ∧ ((((tasked .running).die 0).sched).slot 2 5).phase = .running
    ∧ (tasked .running).frzAddrOk (0x10000 % 2 ^ 58) (imageSize 0) = true
    ∧ ((tasked .running).die 0).sched.freeSlot 2 = some 0 := by
  refine ⟨cmd_ready ?_ ?_ ?_ ?_, ?_, ?_, ?_, ?_, ?_⟩ <;> decide +kernel

theorem leBytes_length (v n : Nat) : (leBytes v n).length = n := by
  induction n generalizing v with
  | zero => rfl
  | succ n ih => simp [leBytes, ih]

theorem rangeFrom_length (a n : Nat) : (rangeFrom a n).length = n := by
  induction n generalizing a with
  | zero => rfl
  | succ n ih => simp [rangeFrom, ih]

theorem flatMap_length {f : Nat → List Byte} {k : Nat} (h : ∀ a, (f a).length = k) (a n : Nat) :
    ((rangeFrom a n).flatMap f).length = k * n := by
  induction n generalizing a with
  | zero => rfl
  | succ n ih => simp [rangeFrom, h, ih, Nat.mul_succ, Nat.add_comm]

/-- An image is as long as its units (R457). -/
theorem image_length (x : Image) : x.bytes.length = 65536 * imageUnits x.cores.length := by
  have hidden (off n : Nat) : (x.hidden off n).length = n := by simp [Image.hidden, rangeFrom_length]
  have scratch (m : Memory) : (scratchBytes m).length = 4096 * 192 := flatMap_length (fun p => Laws.memBytes_length m _ _) 0 192
  have part (r : Nat) : (x.section r).length = 1114112 := by
    simp only [Image.section, List.length_append, hidden, scratch, Mx.bytes, flatMap_length (fun k => leBytes_length _ 8)]
  have head (check : Nat) : (x.header check).length = 65536 := by
    simp only [Image.header, List.length_append, hidden, leBytes_length, List.length_replicate, List.length_cons, List.length_nil]
    omega
  simp only [Image.bytes, Image.withCheck, List.length_append, head, flatMap_length part, imageUnits]
  omega

/-- Pages read one after another are the bytes of all. -/
theorem pages_bytes (s : State) (pa n : Nat) (hp : s.isOwn pa = true) (hn : pa % 2 ^ 49 + 4096 * n ≤ 2 ^ 49) :
    s.pagesAt pa n = s.bytesAt pa (4096 * n) := by
  have keys (m : Memory) (a b : Nat) : memBytes m a 4096 ++ memBytes m (a + 4096) b = memBytes m a (4096 + b) := by
    have h (k a : Nat) : memBytes m a k ++ memBytes m (a + k) b = memBytes m a (k + b) := by
      induction k generalizing a with
      | zero => simp [memBytes]
      | succ k ih =>
        rw [show k + 1 + b = k + b + 1 by omega, memBytes, memBytes, List.cons_append, ← ih (a + 1),
          show a + 1 + k = a + (k + 1) by omega]
    exact h 4096 a
  have own (p : Nat) (h : pa % 2 ^ 49 + p < 2 ^ 49) : s.memKey (pa + p) = s.memKey pa + p := by
    have q : s.isOwn (pa + p) = true := by
      simp only [State.isOwn, paPkg] at hp ⊢
      rw [show (pa + p) / 2 ^ 49 = pa / 2 ^ 49 by omega]
      exact hp
    simp only [State.memKey, hp, q, if_true]
    omega
  have go (p k : Nat) (h : pa % 2 ^ 49 + 4096 * (p + k) ≤ 2 ^ 49) :
      (rangeFrom p k).flatMap (fun p => s.bytesAt (pa + 4096 * p) 4096)
        = memBytes s.mem (s.memKey pa + 4096 * p) (4096 * k) := by
    induction k generalizing p with
    | zero => rfl
    | succ k ih =>
      rw [rangeFrom, List.flatMap_cons, ih (p + 1) (by omega), State.bytesAt, own _ (by omega),
        show s.memKey pa + 4096 * (p + 1) = s.memKey pa + 4096 * p + 4096 by omega, keys,
        show 4096 + 4096 * k = 4096 * (k + 1) by omega]
  simpa [State.pagesAt, State.bytesAt] using go 0 n (by omega)

theorem ecc_clean (l : List Nat) (p : Nat → Bool) :
    l.foldl (fun e h => if p h then tabSet Ecc.clean e h .clean else e) ([] : Tab Ecc) = [] := by
  induction l with
  | nil => rfl
  | cons h l ih =>
    rw [List.foldl_cons]
    split
    · exact ih
    · exact ih

theorem ecc_written (s : State) (h : s.ecc = []) (pa : Nat) (bs : List Byte) : (s.writeBytes pa bs).ecc = [] := by
  unfold State.writeBytes
  rw [h]
  exact ecc_clean _ _

/-- The state with an image written at an address. -/
def withImage (s : State) (pa : Nat) (y : Image) : State := { s.writeBytes pa y.bytes with images := [y] }

theorem bytes_with (t : State) (l : List Image) (pa n : Nat) : ({ t with images := l } : State).bytesAt pa n = t.bytesAt pa n := rfl

/-- An image that stands in memory is found there. -/
theorem image_found (s : State) (pa : Nat) (y : Image) (n : Nat) (hn : imageUnits y.cores.length = n) (he : s.ecc = [])
    (hp : s.isOwn pa = true) (hb : pa % 2 ^ 49 + 65536 * n ≤ 2 ^ 49) : (withImage s pa y).imageAt pa = some y := by
  have e : (withImage s pa y).ecc = [] := ecc_written s he pa y.bytes
  have l : y.bytes.length = 4096 * (16 * n) := by rw [image_length, hn]; omega
  have b : (withImage s pa y).pagesAt pa (16 * n) = y.bytes := by
    rw [pages_bytes (withImage s pa y) _ _ hp (by omega), ← l, withImage, bytes_with, Laws.bytesAt_writeBytes]
  simp [State.imageAt, listFind, show (withImage s pa y).images = [y] from rfl, State.marksIn, e, hn, b]

/-- An image of a task of one core, and a state with it at 0x10000. -/
def anImage : Image :=
  { serial := 0, shape := 0, prio := 0, verdict := false, lch := false, task := 0, record := 7, xroot := 0, first := 0,
    cores := [Core.reset], scratch := [[]], parts := [] }

def imaging : State := withImage (regs [(1, 0x10000)] base) 0x10000 anImage

theorem witness_FreezeForms_load : CmdReady (.frzLoad gd 3 ⟨1, false⟩ 2) imaging gd true [⟨1, false⟩]
    ∧ imaging.frzAddrOk ((imaging.cp.val ⟨1, false⟩).toNat % 2 ^ 58) 65536 = true
    ∧ imaging.imageAt ((imaging.cp.val ⟨1, false⟩).toNat % 2 ^ 58) = some anImage
    ∧ imaging.frzAddrOk ((imaging.cp.val ⟨1, false⟩).toNat % 2 ^ 58) (imageSize anImage.shape) = true
    ∧ (imaging.die 0).sched.freeSlot 2 = some 0 := by
  have a : (imaging.cp.val ⟨1, false⟩).toNat % 2 ^ 58 = 0x10000 := by decide +kernel
  refine ⟨cmd_ready ?_ ?_ ?_ ?_, ?_, ?_, ?_, ?_⟩
  case refine_6 =>
    rw [a]
    exact image_found _ _ _ 18 (by decide) (by decide +kernel) (by decide +kernel) (by decide +kernel)
  all_goals decide +kernel

/-- The core with KEVT and the wake latch of bit 1 as given. -/
def waiting (evt : BitVec 4) (latch : Bool) : State :=
  base.modCp fun x => { x with k := { x.k with evt := evt }, ctl := { x.ctl with latch1 := latch } }

theorem witness_QuiescenceForms : CmdReady (.quiRep gd 3 ⟨1, false⟩ 0) base gd false [⟨1, false⟩] ∧ base.cp.k.verdict = 0
    ∧ (base.modCp fun x => { x with k := { x.k with verdict := 1 } }).cp.k.verdict ≠ 0
    ∧ Ready (waiting 2 true) gd false [] ∧ (waiting 2 true).cp.k.evt &&& (waiting 2 true).waitEvents 0 ≠ 0
    ∧ (waiting 2 false).cp.k.evt ≠ 0 ∧ (waiting 2 false).cp.k.evt &&& (waiting 2 false).waitEvents 0 = 0
    ∧ base.cp.k.evt = 0 := by
  refine ⟨cmd_ready ?_ ?_ ?_ ?_, ?_, ?_, by unfold Ready; decide +kernel, ?_, ?_, ?_, ?_⟩ <;> decide +kernel

theorem witness_TranslationForms : base.cp.ctl.reqs.any (fun r => r.op.writes) = false
    ∧ CmdReady (.xlatInv gd 3 ⟨1, false⟩ ⟨2, false⟩ 0 0) base gd true [⟨1, false⟩, ⟨2, false⟩]
    ∧ CmdReady (.xlatProbe gd 3 ⟨1, false⟩ ⟨2, false⟩ false) base gd true [⟨1, false⟩, ⟨2, false⟩]
    ∧ CmdReady (.xlatRes gd 3 0 ⟨1, false⟩ 0) base gd true [⟨1, false⟩]
    ∧ (base.goneWithin 0 0 (fun (x : Xlat) => x.gone 2 0 0)).any base.pageInUse = false
    ∧ (base.goneWithin 0 0 (fun (x : Xlat) => x.gone 2 0 0)) ≠ []
    ∧ (asking (.store 8) [⟨0x100, 0, 8, false⟩]).cp.ctl.reqs.any (fun r => r.op.writes) = true := by
  refine ⟨?_, cmd_ready ?_ ?_ ?_ ?_, cmd_ready ?_ ?_ ?_ ?_, cmd_ready ?_ ?_ ?_ ?_, ?_, ?_, ?_⟩ <;> decide +kernel

/-- A form stands at core 0, which is not the core that issues. -/
def standing (i : Instr) (sem : Option SemWait) (s : State) : State :=
  { (s.modCpOf 0 fun x => { x with ctl := { x.ctl with standing := some ⟨i, sem⟩ } }) with focus := 7 }

theorem witness_StandingFormsEnd :
    (standing (.wait gd) none (waiting 2 true)).standingAt 0 = some (.wait gd)
    ∧ Ready (asCore (standing (.wait gd) none (waiting 2 true)) 0) gd false []
    ∧ (asCore (standing (.wait gd) none (waiting 2 true)) 0).cp.k.evt
        &&& (standing (.wait gd) none (waiting 2 true)).waitEvents 0 ≠ 0
    ∧ CmdReady (.barRd gd 3 .core) (asCore (standing (.barRd gd 3 .core) none base) 0) gd false []
    ∧ (asCore (standing (.barRd gd 3 .core) none base) 0).slotsDone 0 (rangeFrom 0 32) = true
    ∧ (asCore (standing (.barAll gd 3) none base) 0).allDone 0 = true
    ∧ (asCore (standing (.barCfg gd 3 .core true 0) none base) 0).tagDrained 0 none 0 = true
    ∧ ((asCore (standing (.taskDone gd) none base) 0).cancelDeferred 0).allDone 0 = true := by
  refine ⟨?_, by unfold Ready; decide +kernel, ?_, cmd_ready ?_ ?_ ?_ ?_, ?_, ?_, ?_, ?_⟩ <;> decide +kernel

theorem witness_StandingFormsEnd_queues :
    CmdReady (.qPush gd 3 (.fq 3) ⟨2, false⟩ false) (asCore (standing (.qPush gd 3 (.fq 3) ⟨2, false⟩ false) none (queued 15)) 0) gd false [⟨2, false⟩]
    ∧ (asCore (standing (.qPush gd 3 (.fq 3) ⟨2, false⟩ false) none (queued 15)) 0).fqRoom 0 3 = true
    ∧ (asCore (standing (.qPop gd 3 (.fq 3) false) none (queued 1)) 0).fq 0 3 = [(0, [])]
    ∧ ((asCore (standing (.qWait gd 3 (.fq 3) ⟨2, false⟩ false) none (queued 1)) 0).cp.val ⟨2, false⟩).toNat = 1
    ∧ mxPayloadOk ((asCore (standing (.mxTok gd 3 ⟨1, false⟩) none (tokens 15)) 0).cp.val ⟨1, false⟩) = true
    ∧ ((asCore (standing (.mxTok gd 3 ⟨1, false⟩) none (tokens 15)) 0).mx 0).room = true
    ∧ (asCore (standing (.ctlWait gd 3 7) none (controlled false)) 0).ctlRunning 0 7 0 = false
    ∧ ((asCore (standing (.collWait gd 3 ⟨1, false⟩) none (collected .ended)) 0).coll 0 0).phase = .ended := by
  refine ⟨cmd_ready ?_ ?_ ?_ ?_, ?_, ?_, ?_, ?_, ?_, ?_, ?_⟩ <;> decide +kernel

/-- The word at 0x1000 serves ticket 4; `sem.take` and `sem.wait` for it stand. -/
theorem witness_StandingFormsEnd_semaphores :
    ((asCore (standing (.semTake gd 3 ⟨1, false⟩ false 0) (some ⟨0x1000, some 4, false⟩) (semaphore 5 4)) 0).semTest
      0x1000 4).2 = some 4
    ∧ ((asCore (standing (.semWait gd 3 ⟨1, false⟩ ⟨2, false⟩) (some ⟨0x1000, none, false⟩) (semaphore 5 4)) 0).semTest
      0x1000 0).2 = some 4
    ∧ (asCore (standing (.quiPoll gd 3 true) none
        (base.modCp fun x => { x with k := { x.k with verdict := 1 } })) 0).cp.k.verdict ≠ 0 := by
  decide +kernel

/-- A trap of cause DEADLOCK is pending. -/
def trapping : State := base.modCp fun x => { x with ctl := { x.ctl with traps := [(0x0B, 9)] } }

/-- Every core of the group of core 0 has been quiet for 1024 cycles, and so has its Plain; ct7 runs or not. -/
def quiet (run : Bool) : State :=
  ((controlled run).modCp fun x => { x with k := { x.k with qcount := 1024 } }).modCluster 0 fun x =>
    { x with plain := { x.plain with qcount := 1024 } }

/-- The page at the program counter is not resident, translates, and has a block to go to. -/
def fills (s : State) : Bool :=
  !(canonical (s.cpOf 0).regs.pc.toNat && ((s.core 0).cache.find fun b => b.isPage (s.cpOf 0).regs.pc.toNat).isSome)
  && match s.translate 0 (s.cpOf 0).ctl.xroot (s.cpOf 0).regs.pc.toNat .fetch (s.cpOf 0).k.sys with
    | (u, .ok pa) => (u.fillFail (pa / 4096 * 4096) 4096).isNone && ((u.core 0).cache.victim).any fun n => decide (n < 32)
    | _ => false

theorem witness_ProcessorEvents :
    ((trapping.cpOf 0).alive = true ∧ trapping.waved 0 = false ∧ (trapping.cpOf 0).ctl.standing = none
      ∧ trapping.unstarted 0 = false ∧ (trapping.cpOf 0).ctl.reqs.any (fun r => r.far) = false
      ∧ nextTrap (trapping.cpOf 0).ctl.traps asyncOrder = some (0x0B, 9))
    ∧ ((base.modCore 0 fun x => { x with cache := .reset }).fetch 0 = .miss ∧ (base.cpOf 0).fillsHeld = false
      ∧ base.walkWaits 0 (base.cpOf 0).regs.pc.toNat = false ∧ fills (base.modCore 0 fun x => { x with cache := .reset }) = true)
    ∧ (canonical 0x40000000 = true ∧ base.tlbHit 0 (base.cpOf 0).ctl.xroot 0x40000000 = false
      ∧ base.walkWaits 0 0x40000000 = false ∧ (base.cpOf 0).ctl.bound = true) := by
  decide +kernel

theorem witness_ProcessorEvents_verdicts :
    ((trapping.cpOf 0).ctl.standing = none
      ∧ ((standing (.wait gd) none trapping).cpOf 0).ctl.standing = some ⟨.wait gd, none⟩)
    ∧ (((quiet true).groupCores 0).filter fun n => !((quiet true).grid n).closed) ≠ []
    ∧ ((quiet false).verdictDue 0 = true ∧ ((quiet false).groupCores 0).all (quiet false).rootsDone = true)
    ∧ ((quiet true).verdictDue 0 = true ∧ ((quiet true).groupCores 0).all (quiet true).rootsDone = false)
    ∧ (let s : State := { base.modGrid 0 (fun g => { g with doom := some 3, verdictAt := 8 }) with cyc := 12 }
       (s.grid 0).doom = some 3 ∧ (s.grid 0).verdictAt + 4 ≤ s.cyc ∧ s.waved 0 = false) := by
  decide +kernel

/-- The state with these flits in a channel of core 0, in cycle 5. -/
def channeled (k : Nat) (l : List Flit) (s : State) : State :=
  { (s.modChan 0 k fun x => { x with flits := l }) with cyc := 5 }

/-- Router rt0 sends its N input to operand 0 of its PE. -/
def routed : State := channeled (faceKey 0 0) [mkFlit 0 0 9 false true] (slotted 0x10 0 (frame 1 0x10 [(1, 209)]) base)

/-- Router rt0 runs an operator with N as its first input and E as its second; the flit is at N. -/
def operated (op : Nat) (f : Flit) : State :=
  channeled (faceKey 0 0) [f] (slotted 0x10 2 (frame 1 0x10 [(op, 226), (1, 200), (2, 197)]) base)

/-- What the operator of that slot does. -/
def acts (op : Nat) (f : Flit) (act : Nat → Frame → (Nat → Option Flit) → OpState → OpAct) : OpAct :=
  let s := operated op f
  let x := s.slotAt 0 0x10 2
  act (rtParam x.frame).toNat x.frame (s.opHead 0 0 x.frame x.ctag) (s.opState 0 0 2)

/-- A record stands at its second input too. -/
def beside (op : Nat) (f : Flit) : State := channeled (faceKey 0 1) [mkFlit 0 0 9 false true] (operated op f)

/-- What the operator of that slot does with both inputs there. -/
def actsBoth (op : Nat) (f : Flit) (act : Nat → Frame → (Nat → Option Flit) → OpState → OpAct) : OpAct :=
  let s := beside op f
  let x := s.slotAt 0 0x10 2
  act (rtParam x.frame).toNat x.frame (s.opHead 0 0 x.frame x.ctag) (s.opState 0 0 2)

/-- It is a move whose outputs have room and whose inputs may move. -/
def movesBoth (op : Nat) (f : Flit) (a : OpAct) : Bool :=
  match a with
  | .move ks emit _ => (beside op f).opReady 0 0 ((beside op f).slotAt 0 0x10 2).frame 0 ks emit
  | _ => false

/-- It waits. -/
def waitsFor (a : OpAct) : Bool :=
  match a with
  | .wait => true
  | _ => false

/-- It is a move whose outputs have room. -/
def moves (op : Nat) (f : Flit) (a : OpAct) : Bool :=
  match a with
  | .move ks emit _ => (operated op f).opReady 0 0 ((operated op f).slotAt 0 0x10 2).frame 0 ks emit
  | _ => false

/-- It is a stop. -/
def stops (a : OpAct) : Bool :=
  match a with
  | .stop _ _ => true
  | _ => false

/-- Only its N input can move, before and after that move. -/
def movesAlone : Bool :=
  match routed.movable 0 0 0 with
  | some (f, outs) =>
    let t := (routed.forward 0 0 (inputKey 0 0) f outs).grantTo 0 0 0
    (rangeFrom 1 4).all fun n =>
      (routed.movable 0 0 n).isNone && (t.movable 0 0 n).isNone
  | none => false

theorem witness_RouterEvents :
    (routed.movable 0 0 0).isSome = true ∧ routed.mayMove 0 0 0 = true ∧ movesAlone = true
    ∧ (∀ k < 5, ((base.movable 0 0 k).isSome && base.mayMove 0 0 k) = false)
    ∧ ((operated 1 (mkFlit 0 0 1 false true)).slotAt 0 0x10 2).v = true
    ∧ fOp ((operated 1 (mkFlit 0 0 1 false true)).slotAt 0 0x10 2).frame = 1
    ∧ ((operated 1 (mkFlit 0 0 1 false true)).opState 0 0 2).stopped = false
    ∧ (∀ j < 4, j ≠ 2 → ((operated 1 (mkFlit 0 0 1 false true)).slotAt 0 0x10 j).v = false) := by
  decide +kernel

theorem witness_RouterEvents_acts :
    movesBoth 1 (mkFlit 0 0 1 false true) (actsBoth 1 (mkFlit 0 0 1 false true) fun p _ h st => opSteer p h st) = true
    ∧ stops (actsBoth 1 (mkFlit 1 0 1 false true) fun p _ h st => opSteer p h st) = true
    ∧ waitsFor (acts 1 (mkFlit 0 0 1 false true) fun p _ h st => opSteer p h st) = true
    ∧ moves 2 (mkFlit 0 0 1 false true) (acts 2 (mkFlit 0 0 1 false true) fun p _ h st => opCarry p h st) = true
    ∧ moves 3 (mkFlit 0 0 1 false true) (acts 3 (mkFlit 0 0 1 false true) fun p _ h st => opInvar p h st) = true
    ∧ movesBoth 4 (mkFlit 0 0 1 false true) (actsBoth 4 (mkFlit 0 0 1 false true) fun p _ h st => opMerge p h st) = true
    ∧ moves 7 (mkFlit 0 0 1 false true) (acts 7 (mkFlit 0 0 1 false true) fun p f h st => opArb p f h st) = true := by
  decide +kernel

/-- A `join` with a flit at each of its inputs, and an `order` with record 0 at its first input. -/
theorem witness_RouterEvents_pairs :
    (let s := channeled (faceKey 0 1) [mkFlit 0 0 2 false true] (channeled (faceKey 0 0) [mkFlit 0 0 1 false true]
       (slotted 0x10 2 (frame 1 0x10 [(5, 226), (1, 200), (2, 197), (2 ^ 16, 0)]) base))
     let x := s.slotAt 0 0x10 2
     match opJoin (rtParam x.frame).toNat x.ctag (s.opHead 0 0 x.frame x.ctag) (s.opState 0 0 2) with
     | .move ks emit _ => s.opReady 0 0 x.frame 0 ks emit
     | _ => false) = true
    ∧ moves 6 (mkFlit 0 0 0 false true) (acts 6 (mkFlit 0 0 0 false true) fun p f h st => opOrder p f h st) = true := by
  decide +kernel

theorem witness_RouterEvents_tags :
    moves 8 (mkFlit 4 0 1 false true) (acts 8 (mkFlit 4 0 1 false true) fun p _ h st =>
      ((operated 8 (mkFlit 4 0 1 false true)).tagIn 0 p 0 h st).act) = true
    ∧ stops (acts 9 (mkFlit 0 0 1 false true) fun p _ h st =>
      ((operated 9 (mkFlit 0 0 1 false true)).tagOut 0 (4 * 0x10 + 2) p 0 h st).act) = true := by
  decide +kernel

/-- An element in progress at pe0, whose header has been emitted. -/
def job : PeJob :=
  { slot := 0, ctag := 0, ops := [.empty, .empty], out := [], headed := true, badHdr := false, sent := 3, stop := none,
    stopAt := 0, no := 0, drained := false }

/-- A KILL in the result channel of pe0, which runs that element of a `d.add`. -/
def killing : State :=
  ((slotted 0 0 (frame 0 0 [(0, 226), (7, 218)]) base).modGrid 0 fun g =>
    { g with pes := tabSet .reset g.pes 0 { job := some job, stopped := false } }).modChan 0
    (resultKey 0) fun x => { x with kills := [⟨0, 0, 5⟩] }

/-- A KILL in operand 0 of pe0, which rt0 feeds from its N input, as operand 1 too or not. -/
def returning (two : Bool) : State :=
  (((slotted 0x10 0 (frame 1 0x10 ([(1, 209)] ++ if two then [(1, 206)] else [])) base).modChan 0 (operandKey 0 0) fun x =>
    { x with kills := [⟨0, 0, 5⟩], source := [(0, some (0, 3, 0))] })).modChan 0 0 fun x => { x with part := some (3, 0) }

theorem witness_KillAndElementEvents :
    ((killing.chan 0 (resultKey 0)).kills = [⟨0, 0, 5⟩] ∧ (killing.chan 0 (resultKey 0)).lastKill ≠ killing.cyc + 1
      ∧ (killing.pe 0 0).job = some job ∧ job.sent < (killing.peRes 0 0 (killing.slotAt 0 0 job.slot).frame job).total)
    ∧ (∀ two : Bool,
       let s := returning two
       (s.chan 0 (chanKey (.operand 0 0))).kills = [⟨0, 0, 5⟩] ∧ (s.chan 0 (chanKey (.operand 0 0))).lastKill ≠ s.cyc + 1
       ∧ tabGet none (s.chan 0 (chanKey (.operand 0 0))).source 0 = some (0, 3, 0) ∧ (s.chan 0 0).part = some (3, 0)
       ∧ s.fedOuts 0 0 0 = (if two then [4, 5] else [4])
       ∧ listFind (fun o => s.fedChan 0 0 0 o == some (0, chanKey (.operand 0 0))) (s.fedOuts 0 0 0) = some 4
       ∧ ((s.fedOuts 0 0 0).all fun o => ([(4, (⟨3, 0, 5⟩ : KillMsg))] : List (Nat × KillMsg)).any fun r => r.1 == o) = !two
       ∧ (s.chan 0 0).returned = [] ∧ (s.chan 0 0).kills.length < 4) := by
  decide +kernel

/-- pe0 has a frame of this operation, and flits of this kind at its operands. -/
def firing (op kind : Nat) (l : List (Nat × Nat)) : State :=
  channeled (operandKey 0 1) [mkFlit kind 0 9 false false] (channeled (operandKey 0 0) [mkFlit kind 0 7 false false]
    (slotted 0 1 (frame 0 0 ([(op, 226)] ++ l)) base))

/-- The heads of pe0. -/
def heads (s : State) (f : Frame) : List Flit := (peReads f).filterMap (s.peHead 0 0)

theorem witness_KillAndElementEvents_fire :
    let f := frame 0 0 [(0, 226), (7, 218)]
    let w := frame 0 0 [(0x20, 226)]
    let s := firing 0 1 [(7, 218)]
    let t := firing 0x20 0 []
    let u := firing 0x20 4 []
    let v := firing 0x20 1 []
    (s.pe 0 0).job = none ∧ (s.pe 0 0).stopped = false ∧ s.slotFor 0 0 0 = some (1, f) ∧ s.isWithheld 0 0 0 = false
    ∧ (heads s f).length = (peReads f).length ∧ (heads s f).any (fun h => h.kind == 5) = false
    ∧ (heads s f).all (fun h => h.kind == 4) = false ∧ (heads s f).all (peStart f) = true
    ∧ (heads s f).all (fun h => h.ctag == 0) = true
    ∧ (peIsWord (fOp f) && fOp f != 0x30 && (!peIsCst f || false)) = false
    ∧ t.slotFor 0 0 0 = some (1, w) ∧ (heads t w).all (peStart w) = true
    ∧ (heads t w).all (fun h => h.kind == 4) = false ∧ (peIsWord (fOp w) && fOp w != 0x30 && (!peIsCst w || false)) = true
    ∧ (heads u w).all (fun h => h.kind == 4) = true ∧ (heads v w).all (peStart w) = false := by
  decide +kernel

/-- pe0 runs that element with the digits sent as given, under a frame of this operation. -/
def emitting (op sent : Nat) (drained : Bool) : State :=
  (slotted 0 0 (frame 0 0 [(op, 226), (7, 218)]) base).modGrid 0 fun g =>
    { g with pes := tabSet .reset g.pes 0 { job := some { job with sent := sent, drained := drained }, stopped := false } }

theorem witness_KillAndElementEvents_emit :
    ((emitting 0x2F 3 false).pe 0 0).job = some job ∧ peIsCst ((emitting 0x2F 3 false).slotAt 0 0 0).frame = true
    ∧ (∀ d : Bool, ((emitting 0x0F 3 d).pe 0 0).job = some { job with drained := d }
      ∧ peIsCst ((emitting 0x0F 3 d).slotAt 0 0 0).frame = false ∧ peIsAcc ((emitting 0x0F 3 d).slotAt 0 0 0).frame = true)
    ∧ (∀ sent ∈ [3, 7],
      let s := emitting 0 sent false
      let j := { job with sent := sent }
      let f := (s.slotAt 0 0 0).frame
      let r := (peReads f).foldl (fun (q : State × PeJob) k => q.1.peTake 0 0 q.2 k) (s, j)
      (s.pe 0 0).job = some j ∧ peIsCst f = false ∧ peIsAcc f = false ∧ s.room 0 (resultKey 0) 4 = true
      ∧ (r.2.next f (originId 0 0) (s.peRes 0 0 f r.2) s.cyc 0).isSome = decide (sent = 3)) := by
  decide +kernel

/-- An element of a window, ordered or not. -/
def element (ord : Bool) (n : Nat) : UpdElem :=
  { port := 0, records := [(n, 0)], off := 8, op := 0, esz := 3, ord := ord, val := 1, dep := none, seq := 0 }

/-- Port 0 of mt0 with a frame of this operation on words of 8 bytes at 0, the last flit of a record at its side, the flits
before it taken, and these queues. -/
def ported (op : Nat) (q : PortQ) (y : Port) : State :=
  (channeled (drainKey 256) [mkFlit 0 0 0x100 false true] (slotted 256 0 (frame 2 0x28 [(op, 226), (3, 188)]) base)).modGrid 0
    fun g => { g with portqs := [(256, q)], ports := tabSet .reset g.ports (4 * 256) y }

/-- A port that has taken the address flit 0x200 where the operation takes data. -/
def partly (op : Nat) : Port :=
  { Port.reset with taken := if op = 0 ∨ op = 2 ∨ op = 5 then [] else [mkFlit 0 0 0x200 false false] }

/-- Whether the head of port 0 fires within the tile. -/
def portFires (s : State) : Bool :=
  match s.portStep 0 256 (s.slotAt 0 256 0).frame (s.port 0 256 0).taken (mkFlit 0 0 0x100 false true) with
  | .fire o false _ none => offsetIn (s.slotAt 0 256 0).frame o
  | _ => false

theorem witness_PortEvents_take : ∀ op ∈ rangeFrom 0 6,
    let s := ported op .reset (partly op)
    s.head 0 (drainKey 256) = some (mkFlit 0 0 0x100 false true)
    ∧ s.slotFor 0 256 0 = some (0, frame 2 0x28 [(op, 226), (3, 188)]) ∧ fOp (frame 2 0x28 [(op, 226), (3, 188)]) = op
    ∧ s.portWithheld 0 256 0 = false ∧ (s.portq 0 256).reqs.length < 16 ∧ s.portHeld 0 256 < 32 ∧ (mkFlit 0 0 0x100 false true).sideBad = false
    ∧ portFires s = true := by
  decide +kernel

/-- A request of port 0 at 0x100, and its place in the reorder buffer. -/
def request : PortReq :=
  { id := 5, slot := 0, seq := 0, off := 0x100, poison := false, data := [mkFlit 0 0 9 false true],
    fired := mkFlit 0 0 0x100 false true, ends := false, waited := false, iter := none }

theorem witness_PortEvents_access : ∀ op ∈ rangeFrom 0 6,
    let s := ported op { next := 6, reqs := [request], outs := [⟨5, 0, false, []⟩] } .reset
    (s.portq 0 256).reqs[0]? = some request ∧ fOp (s.slotAt 0 256 0).frame = op
    ∧ requestReady (s.slotAt 0 256 0).frame (s.portq 0 256).reqs 0 request = true ∧ (s.portq 0 256).mayIssue 5 = true
    ∧ s.narrowBad (s.scratchPa 0 0x100) (fBytes (s.slotAt 0 256 0).frame) = false
    ∧ (s.window 0 (bankOf 0x100)).length < 16 := by
  decide +kernel

/-- A record of an update that has ended with nothing outstanding. -/
def ended : PortRec := { id := 0, seq := 0, left := 0, ended := true, ready := [], eot := none }

theorem witness_PortEvents_send :
    (∀ op ∈ rangeFrom 0 4,
      let s := ported op { next := 6, reqs := [], outs := [⟨5, 0, true, [mkFlit 0 0 1 false true]⟩] } .reset
      (s.portq 0 256).outs = [⟨5, 0, true, [mkFlit 0 0 1 false true]⟩] ∧ fOp (s.slotAt 0 256 0).frame = op
      ∧ s.portWithheld 0 256 0 = false ∧ s.sideRoom 0 (fb (s.slotAt 0 256 0).frame 221 218) = true)
    ∧ (∀ op ∈ [4, 5],
      let s := ported op .reset { Port.reset with waiting := [ended] }
      listFind (fun i => (s.slotAt 0 256 i).v && fOp (s.slotAt 0 256 i).frame == op && !s.portWithheld 0 256 i
        && (nextUpdate 256 (fCtag (s.slotAt 0 256 i).frame) (s.port 0 256 i).waiting).isSome
        && s.sideRoom 0 (fb (s.slotAt 0 256 i).frame 221 218)) (rangeFrom 0 4) = some 0
      ∧ (nextUpdate 256 0 (s.port 0 256 0).waiting).isSome = true) := by
  decide +kernel

/-- The tag of every slot of port 0 is withheld. -/
def withheldPort : State := base.modGrid 0 fun g => { g with withheld := [(256, 0)] }

theorem witness_PortEvents_withheld (i : Nat) : withheldPort.portWithheld 0 256 i = true := by
  have a : withheldPort.slotAt 0 256 i = .reset := rfl
  have b : withheldPort.isWithheld 0 256 (fCtag Slot.reset.frame) = true := by decide +kernel
  simp [State.portWithheld, a, b]

theorem witness_PortEvents :
    applyReady [element false 1, element true 2] 0 (element false 1) = true ∧ base.mayApply 0 (element false 1) = true
    ∧ base.eccBad (base.scratchPa 0 8) 8 = false ∧ (element false 1).dep = none
    ∧ mergeReady (element false 1) (element false 2) = true ∧ mergeReady (element false 1) (element true 2) = false
    ∧ ((base.setWindow 0 5 [element false 1, element false 2]).window 0 5)[1]? = some (element false 2)
    ∧ (let x : UpdElem := { element false 1 with esz := 1, dep := some (7, 0) }
       x.dep = some (7, 0) ∧ applyReady [x] 0 x = true ∧ base.mayApply 0 x = true) := by
  decide +kernel

/-- The frame of mx: operands in sb1 and sb2, results in sb3. -/
def mxFrame : Frame := frame 5 0x38 [(1, 220), (2, 216), (3, 207)]

/-- mx with the two raw operand buffers holding one block of this header each, and these entries in its queue. -/
def multiplied (ha hb : Nat) (l : List MxEntry) (op : Option MxOp) (out : Option (List Flit)) : State :=
  let fa := frame 8 0x41 [(0x10, 195), (0x13, 190)]
  let fb := frame 8 0x42 [(1, 204 + 8), (0x10, 195), (0x13, 190)]
  let fr := frame 8 0x43 [(2, 204 + 8), (0x13, 195), (0x15, 190)]
  let s := slotted 0x43 0 fr (slotted 0x42 0 fb (slotted 0x41 0 fa (slotted 0x38 0 mxFrame base)))
  let s := (s.sbPut 0 1 0 fa byCp (leBytes ha 8) true).sbPut 0 2 0 fb byCp (leBytes hb 8) true
  { (s.modUnits 0 fun u => { u with mx := { u.mx with queue := l, op := op, out := out } }) with cyc := 5 }

/-- A token of the product of one block by one block. -/
def mmaTok (acc tb : Nat) : Word := word (acc * 2 ^ 54 + 2 ^ 22 + tb * 2 ^ 20)

/-- An entry of the token queue. -/
def entry (w : Option Word) : MxEntry := ⟨4, 0, w, false, 0, 3⟩

/-- The place that the head token names. -/
def placed (s : State) (p : State → Word → MxPlace → Bool) : Bool :=
  match s.mxHead 0 with
  | .token _ w q => p s w q
  | _ => false

/-- The kind of the operands of the head token: ready, a wrong axis, or malformed. -/
def operandsAre (s : State) : Nat :=
  match s.mxHead 0 with
  | .token _ w q => match s.mxOperands 0 w q with
    | .ready _ _ => 1
    | .axis _ _ => 2
    | .malformed => 3
    | _ => 0
  | _ => 0

theorem witness_MatrixEvents :
    operandsAre (multiplied 0 0 [entry (some (mmaTok 0 1))] none none) = 1
    ∧ operandsAre (multiplied 0 0 [entry (some (mmaTok 1 0))] none none) = 2
    ∧ operandsAre (multiplied 0xFF00 0 [entry (some (mmaTok 0 1))] none none) = 3
    ∧ mxMop (mmaTok 0 1) = 0 ∧ mxMop (mmaTok 1 0) = 1
    ∧ ((multiplied 0 0 [entry (some (mmaTok 0 1))] none none).mx 0).op = none := by
  decide +kernel

/-- The head of the queue is the read of an element, or a payload that is no token. -/
def headIs (s : State) (k : Nat) : Bool :=
  match s.mxHead 0 with
  | .read _ => k == 0
  | .bad e => k == 1 && e.bad
  | _ => false

theorem witness_MatrixEvents_tokens :
    placed (multiplied 0 0 [entry (some 0x80000000000000)] none (some [])) (fun _ w _ => mxMop w == 2) = true
    ∧ placed (multiplied 0 0 [entry (some 0x80000000000000)] none (some [mkFlit 0 0 1 false false, mkFlit 0 0 2 false true]))
        (fun s _ p => s.sbRoom 0 p.rsb.1 p.rsb.2.1 p.rsb.2.2 byMatrix 16) = true
    ∧ placed (multiplied 0 0 [entry (some 0xC0000000000000)] none none) (fun _ w _ => mxMop w == 3) = true
    ∧ placed (multiplied 0 0 [entry (some (mmaTok 0 1))] (some ⟨0, 0, 0, 1, 0, 8, 8⟩) none) (fun s _ _ => (s.mx 0).op.isSome) = true
    ∧ headIs (multiplied 0 0 [entry none] none none) 0 = true
    ∧ headIs (multiplied 0 0 [{ entry (some 0) with bad := true }] none none) 1 = true := by
  decide +kernel

/-- A control flit at operand 2 of pe4, whose router feeds mx. -/
theorem witness_MatrixEvents_enqueue :
    let s := channeled (operandKey 4 2) [mkFlit 6 0 0x400000 false true] (slotted 0x38 0 (frame 5 0x38 [(4, 211)]) base)
    s.mxSource 0 = some (4, mkFlit 6 0 0x400000 false true) ∧ (s.mx 0).room = true ∧ s.mxOffered 0 = false := by
  decide +kernel

/-- Slot 0 of ag0 or ag4 in this phase, with more of it set. -/
def moving (ag : Nat) (p : StreamPhase) (f : Stream → Stream) (s : State) : State :=
  s.modUnits 0 fun u =>
    let x : Stream := { Stream.reset with phase := p, gen := 1, record := 1 + 2 ^ 64 }
    { u with streams := tabSet .reset u.streams (4 * ag) (f x) }

/-- The generator has a frame whose side is 2. -/
def sided (ag : Nat) : State := slotted (0x30 + ag) 0 (frame 3 (0x30 + ag) [(2, 220)]) base

/-- Whether accesses are issued. -/
def issues : Issue → Bool
  | .ok _ _ => true
  | _ => false

/-- Whether a flit is sent. -/
def sends : Delivery → Bool
  | .sent _ => true
  | _ => false

/-- A word flit. -/
def wordFlit (v : Word) : Flit := mkFlit 0 0 v false true

theorem witness_StreamAndTemplateEvents :
    (let s := moving 0 .running (fun x => { x with base := 0x1000, sys := true }) (sided 0)
     let x := s.stream 0 0 0
     s.copyIn 0 0 0 = none ∧ s.waved 0 = false ∧ x.phase = .running ∧ x.cancelling = false ∧ x.atEnd = false ∧ x.x.sent = true
     ∧ x.x.front = none ∧ againOf x.x.flown = none ∧ x.x.waiting < 32 ∧ x.konst = none ∧ shInd x.record = false ∧ s.streamTarget 0 0 x ≠ .wait
     ∧ issues (s.issueRead 0 x.x x.record x.base x.sys 0 1) = true)
    ∧ (let s := moving 0 .running (fun x => { x with x := { x.x with pos := 1, out := [wordFlit 1, wordFlit 2] } }) (sided 0)
       let x := s.stream 0 0 0
       x.atEnd = true ∧ x.x.out = [wordFlit 1, wordFlit 2] ∧ s.hasTurn 0 0 (shPort x.record) x.ctag x.order = true
       ∧ sends (s.deliverFlit 0 (byStream 0 0) (s.streamTarget 0 0 x) (wordFlit 1)) = true)
    ∧ (let s := moving 0 .running (fun x => { x with x := { x.x with pos := 1 } }) base
       listFind (fun (t : FireTok) => t.ag == 0 && t.slot == 0 && !t.lost) (s.units 0).fires = none
       ∧ (s.stream 0 0 0).atEnd = true ∧ (s.stream 0 0 0).x.delivered = true ∧ (s.stream 0 0 0).cancelling = false)
    ∧ (let s := moving 0 .running (fun x => { x with cancelling := true, since := 1, x := { x.x with pos := 1 } }) { base with cyc := 0 }
       (s.stream 0 0 0).phase = .running ∧ (s.stream 0 0 0).since = s.cyc + 1 ∧ (s.stream 0 0 0).atEnd = true
       ∧ (s.stream 0 0 0).x.delivered = true) := by
  decide +kernel

theorem witness_StreamAndTemplateEvents_cancels : ∀ ag ∈ [0, 4],
    let s := moving ag .running (fun x => { x with cancelling := true }) base
    listFind (fun (t : Tail) => t.ag == ag && t.slot == 0 && !t.lost) (s.units 0).tails = none
    ∧ (s.stream 0 ag 0).cancelling = true ∧ (s.stream 0 ag 0).x.performed = true ∧ (s.stream 0 ag 0).since ≠ s.cyc + 1 := by
  decide +kernel

/-- An output stream of a constant at 0x1000, and one that takes words of its side, where a word flit stands. -/
theorem witness_StreamAndTemplateEvents_writes :
    (let s := moving 4 .running (fun x => { x with konst := some 7, base := 0x1000, sys := true }) base
     let x := s.stream 0 4 0
     s.waved 0 = false ∧ x.phase = .running ∧ x.cancelling = false ∧ x.atEnd = false ∧ x.konst.isSome = true ∧ againOf x.x.flown = none ∧ x.x.writing < 32
     ∧ issues (s.issueWrite 0 x.x x.sys x.x.pos 1 (x.puts 0 4 0).1) = true)
    ∧ (let s := channeled (drainKey 0x34) [wordFlit 9] (moving 4 .running (fun x => { x with record := 1 + 2 ^ 11 + 2 ^ 64 }) (sided 4))
       let x := s.stream 0 4 0
       x.konst = none ∧ x.x.block.length < x.gathers ∧ s.hasTurn 0 4 (shPort x.record) x.ctag x.order = true
       ∧ (match s.outHead 0 4 0 x with
         | .flit f _ => f == wordFlit 9
         | _ => false) = true
       ∧ shIsWord x.record = true ∧ (wordFlit 9).kind = 0)
    ∧ (let s := channeled (drainKey 0x34) [mkFlit 3 0 0 false true]
         (moving 4 .running (fun x => { x with x := { x.x with taken := [mkFlit 1 0 0 false false] } }) (sided 4))
       let x := s.stream 0 4 0
       x.konst = none ∧ x.x.block.length < x.gathers ∧ s.hasTurn 0 4 (shPort x.record) x.ctag x.order = true
       ∧ (match s.outHead 0 4 0 x with
         | .flit f _ => f == mkFlit 3 0 0 false true
         | _ => false) = true
       ∧ shIsWord x.record = false ∧ x.x.taken ≠ []) := by
  decide +kernel

/-- A fire token of ag0 for fq3. -/
def fireTok : FireTok := ⟨0, 0, 0x13, 5, 0, false⟩

/-- A decider flit in sb2, which slot 0 of ag0 awaits. -/
def deciding (v : Word) : State :=
  let f := frame 8 0x42 [(0x10, 195), (0x14, 190)]
  let s := moving 0 .deciding (fun x => { x with decider := some ⟨2, 0, false⟩ }) (slotted 0x42 0 f base)
  { s.sbPutFlit 0 2 0 f byCp (mkFlit 0 0 v false true) with cyc := 5 }

theorem witness_StreamAndTemplateEvents_decide :
    (listFind (fun t => t.ag == 0 && t.slot == 0 && !t.lost) ((base.modUnits 0 fun u => { u with fires := [fireTok] }).units 0).fires
        = some fireTok
      ∧ (match (base.modUnits 0 fun u => { u with fires := [fireTok] }).emitFire 0 byFire 0x13 5 0 with
        | .sent _ => true
        | _ => false) = true)
    ∧ ((deciding 1).stream 0 0 0).phase = .deciding ∧ ((deciding 1).stream 0 0 0).cancelling = false
    ∧ (deciding 1).waved 0 = false ∧ ((deciding 1).stream 0 0 0).skip = none ∧ ((deciding 1).stream 0 0 0).decider = some ⟨2, 0, false⟩
    ∧ (deciding 1).sbAt 0 2 0 = some (0, frame 8 0x42 [(0x10, 195), (0x14, 190)])
    ∧ ((deciding 1).sbHead 0 2 0 (frame 8 0x42 [(0x10, 195), (0x14, 190)]) (byStream 0 0))
        = some (mkFlit 0 0 1 false true)
    ∧ ((deciding 0).sbHead 0 2 0 (frame 8 0x42 [(0x10, 195), (0x14, 190)]) (byStream 0 0))
        = some (mkFlit 0 0 0 false true) := by
  decide +kernel

/-- tm0 in this phase, with an arming of one level of one fp32 element, and more of it set. -/
def copying (p : TplPhase) (kind : Nat) (f : Tpl → Tpl) : State :=
  (queued 1).modUnits 0 fun u =>
    let arm : Arm := ⟨BitVec.ofNat 1024 (record [(0, 1), (1, 1), (12, 1 + kind * 512)]), 0, 0, true⟩
    let x : Tpl := { Tpl.reset with phase := p, place := some 0, arm := arm }
    { u with tpls := tabSet .reset u.tpls 0 (f x) }

theorem witness_StreamAndTemplateEvents_templates :
    (((copying .armed 0 id).tpl 0 0).phase = .armed ∧ (copying .armed 0 id).waved 0 = false
      ∧ (copying .armed 0 id).frameFor 0 0x50 0 = some (frame 9 0x50 [(3, 220)])
      ∧ (copying .armed 0 id).fq 0 3 = [(0, [])]
      ∧ listFind (fun i => !((copying .armed 0 id).stream 0 0 i).phase.busy && ((copying .armed 0 id).copyIn 0 0 i).isNone)
          (rangeFrom 0 4) = some 0)
    ∧ (copying .copying 0 id).copyIn 0 0 0 = some 0 ∧ (copying .copying 0 id).waved 0 = false := by
  decide +kernel

/-- tm0 with a generator that copies, in this phase of its copy to 0x2000, having gathered one element. -/
def gathered (kind : Nat) (f : Tpl → Tpl) : State :=
  slotted 0x30 0 (frame 3 0x30 [(1, 219)]) (copying .copying kind fun t =>
    f { t with x := { t.x with pos := 1, block := [constElem 1 0] }, daddr := 0x2000, rowp := 0x3000 })

theorem witness_StreamAndTemplateEvents_copies :
    let s := gathered 0 id
    let m := s.tpl 0 0
    s.copyIn 0 0 0 = some 0 ∧ m.phase = .copying ∧ m.x.sent = true ∧ s.copyFrame 0 m = some true ∧ armKind m.arm.record = 0
    ∧ againOf m.x.flown = none ∧ m.gathered = true ∧ m.x.writing < 32
    ∧ issues (s.issueWrite 0 { m.x with xl := none } m.arm.sys (m.took - m.sources) m.sources (m.puts 0)) = true := by
  decide +kernel

theorem witness_StreamAndTemplateEvents_compress :
    (let s := gathered 2 fun t => { t with stage := 1, x := { t.x with block := [] } }
     (s.tpl 0 0).phase = .copying ∧ armKind (s.tpl 0 0).arm.record = 2 ∧ s.waved 0 = false ∧ s.copyFrame 0 (s.tpl 0 0) = some true
     ∧ againOf (s.tpl 0 0).x.flown = none ∧ (s.tpl 0 0).stage = 1 ∧ (s.tpl 0 0).copied = true)
    ∧ (let s := gathered 2 fun t => { t with stage := 2 }
       let m := s.tpl 0 0
       m.stage = 2 ∧ m.rows ≤ m.fullRows ∧ s.copyFrame 0 m = some true
       ∧ issues (s.issueWrite 0 { m.x with xl := none } m.arm.sys m.x.pos 0
          [{ va := m.rowp + word (4 * m.rows), bit := 0, w := 32,
             v := if m.rows = 0 then 0 else listGet 0 m.ends (m.rows - 1) }]) = true)
    ∧ (let s := gathered 2 fun t => { t with stage := 3 }
       let m := s.tpl 0 0
       m.stage = 3 ∧ m.x.writing < 32 ∧ s.copyFrame 0 m = some true
       ∧ issues (s.issueWrite 0 { m.x with xl := none } m.arm.sys m.x.pos 0
          [{ va := m.daddr + 8, bit := 0, w := 64, v := m.kept }]) = true)
    ∧ (let m := (gathered 2 fun t => { t with stage := 2, rows := t.fullRows + 1 }).tpl 0 0
       m.stage = 2 ∧ m.fullRows < m.rows ∧ m.x.flown = [])
    ∧ (let s := gathered 2 fun t => { t with stage := 4 }
       let m := s.tpl 0 0
       m.stage = 4 ∧ m.x.flown = [] ∧ s.copyFrame 0 m = some true
       ∧ issues (s.issueWrite 0 { m.x with xl := none } m.arm.sys m.x.pos 0
          [{ va := m.daddr, bit := 0, w := 64, v := 1 }]) = true)
    ∧ (let t := (copying .copying 0 (fun t => { t with x := { t.x with pos := 1 } })).tpl 0 0
       t.phase = .copying ∧ t.copied = true ∧ armKind t.arm.record ≠ 2 ∧ t.x.poison.count = 0
        ∧ shFdst (armShape t.arm.record) = 0 ∧ t.pending = none) := by
  decide +kernel

theorem witness_BufferAndContextEvents :
    (let f := frame 8 0x42 [(2, 195), (0x15, 190)]
     let s := channeled (drainKey 0x42) [mkFlit 0 0 9 false true] (slotted 0x42 0 f base)
     s.head 0 (drainKey 0x42) = some (mkFlit 0 0 9 false true) ∧ s.sbAt 0 2 0 = some (0, f)
     ∧ (mkFlit 0 0 9 false true).sideBad = false ∧ sbRaw f = false ∧ sbPsrc f < 16 ∧ s.sbRoom 0 2 0 f byEdge 16 = true)
    ∧ (let s := (slotted 0x42 1 (frame 8 0x42 [(0x10, 195), (0x13, 190)]) base).modUnits 0 fun u =>
         { u with sbufs := [(9, { Sbuf.reset with flag := true })] }
       listFind (fun i => s.readerCount 0 2 (s.slotAt 0 0x42 i).ctag == 0 && (s.sbuf 0 2 i).flag)
         ((rangeFrom 0 4).filter fun i => (s.slotAt 0 0x42 i).v) = some 1)
    ∧ (let s : State := { bufferedBy 0x10 2 with cyc := 5 }
       let slots := (rangeFrom 0 4).filter fun i => (s.slotAt 0 0x42 i).v
       listFind (fun i => s.readerCount 0 2 (s.slotAt 0 0x42 i).ctag == 0 && (s.sbuf 0 2 i).flag) slots = none
       ∧ listFind (fun i => decide (sbQdst (s.slotAt 0 0x42 i).frame < 16)
           && s.sideRoom 0 (sbQdst (s.slotAt 0 0x42 i).frame)
           && (s.sbHead 0 2 i (s.slotAt 0 0x42 i).frame byEdge).isSome) slots = some 0) := by
  decide +kernel

/-- A bulk install of ag0's frame. -/
def install : Install := { frame := frame 3 0x30 [], kind := .bulk, load := 0, via := 0, src := 0, met := 0, placed := false, tokens := [] }

/-- A configuration flit that names rt2 at its N input. -/
def cfgFlit : Flit := mkFlit 5 0 (word (1 * 2 ^ 60 + 0x12 * 2 ^ 52)) false false

theorem witness_BufferAndContextEvents_installs :
    (let s := base.modGrid 0 fun g => { g with installs := [install] }
     (s.grid 0).installs[0]? = some install ∧ s.mayWrite 0 install = true
     ∧ s.firstInstall 0 0 install = true ∧ initOuts install.frame = [])
    ∧ (let s := channeled (drainKey 0x42) [mkFlit 0 0 9 false true] base
       s.fillDue 0 0x42 = some 0 ∧ (((s.count 0 9 1).active 0).core 0).cache.frameFor 0x42 0 = none)
    ∧ (let s := channeled (faceKey 2 0) [cfgFlit] base
       listFind (fun kk => (tabGet [] (s.grid 0).collect kk).length == 4
           && !((s.grid 0).installs.any fun x => x.via == kk + 1)) (nodeInputs (nodeKey (.rt 2))) = none
       ∧ cfgFlit.last = false
       ∧ listFind (fun kk => s.cfgTakes 0 2 (inputOf kk) && s.mayMove 0 2 (inputOf kk)) (nodeInputs (nodeKey (.rt 2))) = some (faceKey 2 0)
       ∧ s.head 0 (faceKey 2 0) = some cfgFlit) := by
  decide +kernel

/-- The N input of rt2 holds a whole record, a frame of rt2. -/
theorem witness_BufferAndContextEvents_record :
    let f := frame 1 0x12 [(1, 209)]
    let w := (frameWords f).reverse.map fun v => mkFlit 5 0 v false true
    let s := base.modGrid 0 fun g => { g with collect := [(faceKey 2 0, w)] }
    listFind (fun kk => (tabGet [] (s.grid 0).collect kk).length == 4
        && !((s.grid 0).installs.any fun x => x.via == kk + 1)) (nodeInputs (nodeKey (.rt 2))) = some (faceKey 2 0)
    ∧ (let q := tabGet [] (s.grid 0).collect (faceKey 2 0)
       let p := q.map fun x => x.pay
       frameOf (listGet 0 p 3) (listGet 0 p 2) (listGet 0 p 1) (listGet 0 p 0) = f)
    ∧ (s.grid 0).badCfg.contains (faceKey 2 0) = false ∧ frameOk f = true ∧ fKind f = 1 ∧ fKey f = nodeKey (.rt 2) := by
  decide +kernel

/-- An image of one frame of sb2 in the configuration cache, and a flit that waits for it. -/
def cached : State :=
  channeled (drainKey 0x42) [mkFlit 0 0 9 false true]
    (base.modCore 0 fun y =>
      { y with cache := y.cache.placeImage 0x1000 0 [frame 8 0x42 [(2, 195), (0x15, 190)], frame 15 0 [(1, 208)]] 32 })

theorem witness_BufferAndContextEvents_fill :
    cached.fillDue 0 0x42 = some 0
    ∧ (((cached.count 0 9 1).active 0).core 0).cache.frameFor 0x42 0 = some (frame 8 0x42 [(2, 195), (0x15, 190)])
    ∧ frameOk (frame 8 0x42 [(2, 195), (0x15, 190)]) = true ∧ fKind (frame 8 0x42 [(2, 195), (0x15, 190)]) ≠ 15 := by
  decide +kernel

/-- An evict of every node, that discards or not. -/
def evicting (discard : Bool) (slots : Option (List Nat)) : EvictCmd :=
  { id := 1, node := none, discard := discard, slots := slots, tag := 0, reg := 3, count := 0, after := [] }

/-- A token for ct7. -/
def token (done : Bool) : CtlToken :=
  { done := done, cpsrc := !done, src := 2, dst := 7, ctag := 0, aborted := false, iter := 0, due := 0 }

/-- A leaf ct7 of one counter that runs from 0 to 2, with a port bound to it or not. -/
def leaf (port : Bool) : State :=
  let f := frame 4 0x27 [(15, 220), (1, 210), (2 * 2 ^ 12 + 1, 156)]
  let s := slotted 0x27 0 f base
  let s := if port then slotted 256 0 (frame 2 0x28 [(1, 196), (7, 193)]) s else s
  s.modGrid 0 fun g => { g with ctls := [(28, { Ctl.reset with
    running := true, permitted := true, cur := [BitVec.ofNat 52 (2 * 2 ^ 12 + 1)] })] }

theorem witness_BufferAndContextEvents_control :
    ((base.modGrid 0 fun g => { g with evicts := [evicting true none] }).grid 0).evicts[0]? = some (evicting true none)
    ∧ ((base.modGrid 0 fun g => { g with evicts := [evicting false (some [])] }).grid 0).ended [] = true
    ∧ (let e := evicting false (some [4 * 0x30])
       let s := slotted 0x30 0 (frame 3 0x30 []) (base.modGrid 0 fun g => { g with evicts := [e] })
       let slots := (e.slots.getD (s.tagSlots 0 e.node e.tag)).filter fun k =>
         (s.slotAt 0 (k / 4) (k % 4)).v && (s.slotAt 0 (k / 4) (k % 4)).ctag == e.tag
       listFind (fun k => !s.resident 0 (k / 4) e.tag) slots = some (4 * 0x30)
       ∧ (slots.filter fun x => x != 4 * 0x30) = [])
    ∧ (((leaf false).modGrid 0 fun g => { g with net := [token false] }).grid 0).tokenFor 0 7 false = some (token false)
    ∧ (((leaf false).modGrid 0 fun g => { g with net := [token true] }).grid 0).tokenFor 0 7 true = some (token true)
    ∧ (let u := ((leaf false).modGrid 0 fun g => { g with net := [token false] }).takeToken 0 (token false)
       (u.slotFor 0 0x27 0).isSome = true)
    ∧ (leaf false).boundPorts 0 7 0 = [] ∧ (leaf true).boundPorts 0 7 0 = [256] := by
  decide +kernel

theorem witness_BufferAndContextEvents_leaf : ∀ b : Bool,
    let s := leaf b
    listFind (fun i =>
        let x := s.ctl 0 7 i
        let sl := s.slotAt 0 0x27 i
        sl.v && x.permitted && !x.aborting && (fChildren sl.frame).isEmpty
          && decide (x.opened < runLength sl.frame x.cur) && decide (x.opens.length < leafLimit sl.frame)
          && x.openedAt != s.cyc + 1) (rangeFrom 0 4) = some 0 := by
  decide +kernel

/-- A task that has been READY since 0 and needs the whole die, while core 0 runs another; and room for an image. -/
def urgent : State :=
  { (base.modDie 0 fun x => { x with
      sched := { x.sched with slots :=
        [(0, { TSlot.reset with used := true, phase := .running }),
         (513, { TSlot.reset with used := true, phase := .ready, record := 8 })] }
      faults := { x.faults with fzSize := 32 } }) with ktime := 256000 }

theorem witness_SchedulerEvents :
    ({ base with pkg := { base.pkg with boot := .running } } : State).pkg.boot = .running
    ∧ base.areaUsed 0 = false
    ∧ ((tasked .waiting).die 0).sched.isReady 2 5 1 = true ∧ (base.die 0).sched.boundCyc ≠ base.cyc + 1 := by
  decide +kernel

/-- A READY task of one core in slot 5 of tq2, which nothing keeps from a free core. -/
def placeable : Bool :=
  let u := (tasked .ready).startTasks 0
  let y := (u.die 0).sched
  match y.cands u.ktime with
  | a :: _ =>
    let p := u.shapesOf 0 (y.slot a.queue a.slot)
    decide (y.boundCyc ≠ (tasked .ready).cyc + 1) && decide ((y.slot a.queue a.slot).image = none)
      && (p.1.firstPlacement 0 (recPcl (y.slot a.queue a.slot).record) p.2).isSome
  | [] => false

theorem witness_SchedulerEvents_bind : placeable = true
    ∧ (let s := base.modDie 0 fun x => { x with sched := { x.sched with boundCyc := base.cyc + 1 } }
       ((s.startTasks 0).die 0).sched.boundCyc = (s.startTasks 0).cyc + 1) := by
  decide +kernel

theorem witness_SchedulerEvents_preempt :
    let x := (urgent.die 0).sched
    (listFind (fun (a : Cand) => (x.slot a.queue a.slot).urgent urgent.ktime && urgent.noPlace 0 (x.slot a.queue a.slot))
      (x.cands urgent.ktime)).isSome = true
    ∧ (urgent.victim 0 (urgent.shapesOf 0 (x.slot 2 1)).2).isSome = true ∧ urgent.areaFit 0 0 = some 0
    ∧ x.waves.any (fun w => w.cause == .preempt) = false := by
  decide +kernel

theorem witness_SchedulerEvents_waves :
    urgent.waveReady 0 ⟨0, 0, .preempt, 0⟩ = true
    ∧ (let s := urgent.modCpOf 0 fun x => { x with ctl := { x.ctl with done := true } }
       ((s.die 0).sched.slot 0 0).used = true ∧ ((s.die 0).sched.slot 0 0).phase = .running ∧ (s.die 0).sched.waves = []
       ∧ (coresFrom ((s.die 0).sched.slot 0 0).first ((s.die 0).sched.slot 0 0).shape).all
          (fun c => (s.cpOf c).ctl.done && !s.accessing c) = true) := by
  decide +kernel

/-- A collective of core 0 alone, whose table entry is right or not, and the job it became. -/
def rendezvous (e : Word) : State :=
  base.modCore 0 fun x => { x with colls := [(0, { CollSlot.reset with
    used := true, phase := .rendezvous, desc := BitVec.ofNat 1024 descriptor, table := [e] })] }

/-- A job of that collective. -/
def collJob (f : CollForm) : CollJob :=
  { id := 0, team := 7, seq := 0, form := f, members := [(0, 0)],
    descs := [BitVec.ofNat 1024 (descriptor + 64)], ended := [], data := [], read := [] }

/-- The state with a slot in a ring of that job. -/
def ringing (used : Bool) : State :=
  { (base.modCore 0 fun x => { x with colls := [(0, { CollSlot.reset with used := true, phase := .ring, job := if used then 0 else 9 })] })
    with stations := { Stations.reset with jobs := [{ collJob .attn with id := if used then 0 else 9, members := [(0, if used then 0 else 1)] }] } }

theorem witness_CollectivePairKvPlainEvents :
    ((rendezvous 0).failWithdrawn 7 0).collIssued 7 0 = [(0, 0)]
    ∧ [(0 : Word)].any ((rendezvous 0).failWithdrawn 7 0).memberLost = false
    ∧ ((rendezvous 0).failWithdrawn 7 0).farRanks [0] = []
    ∧ ([(0 : Word)].filterMap (rendezvous 0).memberCore).all (fun m => [((0 : Nat), (0 : Nat))].any fun q => q.1 == m) = true
    ∧ (rendezvous 0).collAgrees ((rendezvous 0).coll 0 0) [(0, 0)] [] = true
    ∧ ({ rendezvous 0 with cores := ((rendezvous 0).modCore 0 fun x => { x with colls := [(0, { (tabGet CollSlot.reset x.colls 0) with
        desc := BitVec.ofNat 1024 (descriptor + 2 ^ 640) })] }).cores } : State).collAgrees
          { (rendezvous 0).coll 0 0 with desc := BitVec.ofNat 1024 (descriptor + 2 ^ 640) } [(0, 0)] [] = false
    ∧ [(2 ^ 18 : Word)].any ((rendezvous (2 ^ 18)).failWithdrawn 7 0).memberLost = true
    ∧ (collJob .red).isRing = false ∧ (ringing true).withdrawn (collJob .attn) = false
    ∧ (ringing true).jobOpen (collJob .attn) = true
    ∧ (ringing false).withdrawn { collJob .attn with id := 9, members := [(0, 1)] } = true := by
  decide +kernel

/-- The descriptor of the member of rank r of two, and core 0 and a core of package 1 as the members. -/
def descriptorOf (r : Nat) : CollDesc :=
  BitVec.ofNat 1024 (record [(1, 7 + 2 * 2 ^ 32 + r * 2 ^ 48), (2, 0x2000), (8, 1), (9, r), (10, 1), (11, 2)])

def apart : State :=
  let s := base.modCore 0 fun x => { x with colls := [(0, { CollSlot.reset with
    used := true, phase := .rendezvous, desc := descriptorOf 0, table := [0, 2 ^ 18] })] }
  { s with pkg := { s.pkg with stEn := true, ports := 1, routes := [(1, 0)] } }

theorem witness_CollectivePairKvPlainEvents_far :
    let u := apart.failWithdrawn 7 0
    let x := u.coll 0 0
    let far : List FarMember := [⟨1, .issued (descriptorOf 1) [0, 0, 128, 63]⟩]
    u.collIssued 7 0 = [(0, 0)] ∧ x.table.any u.memberLost = false ∧ u.farRanks x.table = [1]
    ∧ ((u.farRanks x.table).map fun r => (r, (listFind (fun (f : FarMember) => f.rank == r) far).map fun f => f.news))
        = [((1 : Nat), descriptorOf 1, ([0, 0, 128, 63] : List Byte))].map (fun q => (q.1, some (.issued q.2.1 q.2.2)))
    ∧ (x.table.filterMap u.memberCore).all (fun m => [((0 : Nat), (0 : Nat))].any fun q => q.1 == m) = true
    ∧ u.collAgrees x [(0, 0)] [(1, descriptorOf 1)] = true ∧ u.collAgrees x [(0, 0)] [(1, descriptorOf 0)] = false := by
  decide +kernel

/-- A ring of core 0 alone whose slot is at this part of its pass, with bytes got for its buffer. -/
def ringAt (part : Nat) (n : Nat) : State :=
  { (base.modCore 0 fun x => { x with colls := [(0, { CollSlot.reset with
      used := true, phase := .ring, part := part, got := List.replicate n 0 })] }) with
    stations := { Stations.reset with
      jobs := [{ collJob .attn with descs := [BitVec.ofNat 1024 (descriptor + 16 * 2 ^ 960)], read := [(0, 0)] }] } }

theorem witness_CollectivePairKvPlainEvents_ring : ∀ part ∈ [0, 1],
    let s := ringAt part 16
    let j := { collJob .attn with descs := [BitVec.ofNat 1024 (descriptor + 16 * 2 ^ 960)], read := [(0, 0)] }
    let x := s.coll 0 0
    listFind (fun (j : CollJob) => x.used && x.phase == .ring && j.id == x.job) s.stations.jobs = some j
    ∧ s.withdrawn j = false ∧ s.jobOpen j = true ∧ x.pass ≠ j.members.length ∧ x.part = part ∧ x.todo = [] ∧ x.flown = []
    ∧ j.read.contains (cdRank x.desc, 0) = true ∧ cdBytes (listGet 0 j.descs 0) 0 = 16 ∧ 16 ≤ x.got.length := by
  decide +kernel

/-- An operation of the pair engine of cluster 0. -/
def pairOperation (cur : List Flit) (ending : Option Word) : PairOp :=
  { core := 0, dest := 3, ctag := 0, sys := true, covered := [], ahead := [], cell := [], puts := [], asked := 0, cleared := 0, index := 0, point := none, stored := false,
    last := 1, sb := 2, dig := false, cells := [], members := [], todo := [], points := [], cur := cur, tests := none,
    emitted := 0, stale := false, tested := false, ending := ending }

/-- The engine at that operation. -/
def operating (p : PairPhase) (o : PairOp) : State :=
  ({ (paired p).modCluster 0 fun x => { x with pair := { x.pair with op := some o } } with cyc := 5 })

/-- The engine stands ready for a step of that operation, in that phase. -/
def stepsPair (p : PairPhase) (e : Option Word) : Bool :=
  let s := operating p (pairOperation [] e)
  (s.pair 0).op == some (pairOperation [] e) && !(s.pair 0).held && !s.waved 0 && (s.cpOf 0).drained []
    && (s.pair 0).phase == p && (s.pair 0).clear == []
    && (s.pairAgain 0 (pairOperation [] e)).isNone

theorem witness_CollectivePairKvPlainEvents_pairs :
    stepsPair .binning none = true ∧ stepsPair .scanning none = true ∧ stepsPair .scanning (some 5) = true
    ∧ (let s := operating .scanning (pairOperation [mkFlit 0 0 1 false true] none)
       s.sbAt 0 2 0 = some (0, frame 8 0x42 [(0x11, 195)]) ∧ sbRaw (frame 8 0x42 [(0x11, 195)]) = false
       ∧ s.sbRoom 0 2 0 (frame 8 0x42 [(0x11, 195)]) byPairs 16 = true) := by
  decide +kernel

/-- The collective of core 0 at this phase of its member, with these accesses to make, and the job. -/
def combining (p : CollPhase) (todo : List CollRun) : State :=
  { (base.modCore 0 fun x => { x with colls := [(0, { CollSlot.reset with used := true, phase := p, todo := todo })] }) with
    stations := { Stations.reset with jobs := [collJob .red] } }

theorem witness_CollectivePairKvPlainEvents_combine :
    (∀ acc ∈ [[], [({ core := 0, sys := true, va := 0x1000, unit := 4, left := 8, data := none } : CollRun)]],
      let s := combining .ready acc
      let ps := (collJob .red).members.zip (rangeFrom 0 1)
      listFind (fun (j : CollJob) => j.team == 7 && j.seq == 0) s.stations.jobs = some (collJob .red)
      ∧ s.withdrawn (collJob .red) = false ∧ s.jobOpen (collJob .red) = true
      ∧ listFind (fun (p : (Nat × Nat) × Nat) => (s.coll p.1.1 p.1.2).ready) (ps.filter fun p => !(collJob .red).ended.contains p.2)
        = (if acc = [] then none else some ((0, 0), 0))
      ∧ (acc = [] → (ps.filter fun p => !(collJob .red).ended.contains p.2).all (fun p =>
          !(s.coll p.1.1 p.1.2).ready && (s.coll p.1.1 p.1.2).phase == .ready) = true))
    ∧ (collJob .red).arrives (.leaf 0) = true := by
  decide +kernel

/-- A KV request of core 0 at die 0. -/
def kvAsked (k : KvKind) (a b : Word) : KvReq :=
  { core := 0, dest := 3, kind := k, a := a, b := b, die := 0, stage := .first, after := [], freed := 0, flown := [] }

/-- The state with it in flight. -/
def kvAsking (r : KvReq) : State := { base with kv := { base.kv with reqs := [r] } }

/-- How a request ends: with a word, with an error, or elsewhere. -/
def kvEnds (r : KvReq) : Nat :=
  match (kvAsking r).kvStep r with
  | .done _ _ => 1
  | .error _ _ => 2
  | .go _ _ => 3
  | _ => 0

theorem witness_CollectivePairKvPlainEvents_kv :
    (kvAsking (kvAsked (.limit false) 0 0x100000)).kv.reqs[0]? = some (kvAsked (.limit false) 0 0x100000)
    ∧ kvEnds (kvAsked (.limit false) 0 0x8000000) = 1
    ∧ (kvAsking (kvAsked .alloc 0 0)).kvBehind 0 (kvAsked .alloc 0 0) = false := by
  decide +kernel

/-- A record in the Plain. -/
def precord : PRec := ⟨0, 0, 0, [mkFlit 0 0 9 false true]⟩

/-- The frame of Plain element 5: a word operation of two operands, whose result leaves through no destination. -/
def plainFrame : Frame := frame 6 5 [(0x20, 226), (0xFF, 104), (0xFF, 96)]

/-- The Plain of cluster 0 with element 5 installed and these records. -/
def plained (links : List Flight) (a b : List PRec) : State :=
  base.modCluster 0 fun x => { x with
    slots := [(4 * 517, { v := true, ctag := 0, frame := plainFrame, inst := 0 })]
    plain := { x.plain with owners := [(20, 1)], links := links, inputs := [(15, a), (16, b)] } }

theorem witness_CollectivePairKvPlainEvents_plain :
    (let f : Flight := ⟨3, 6, 0, false, precord⟩
     let s := plained [f] [] []
     (s.plain 0).links[0]? = some f ∧ s.plainHeld 0 0 = false ∧ ((s.plain 0).inputAt 6 0).length < 8
     ∧ s.plainSlot 0 6 0 0 = none)
    ∧ (let f : Flight := ⟨3, 128, 0, false, precord⟩
       let s := plained [f] [] []
       (s.plain 0).links[0]? = some f ∧ 128 ≤ f.dst ∧ f.body.flits = [mkFlit 0 0 9 false true] ∧ (s.cpOf 0).ctl.bound = true
       ∧ s.groupOf 0 = f.body.owner ∧ (s.plain 0).passBusy 0 = false ∧ (s.plain 0).outFlits 0 < 16)
    ∧ ((plained [] [precord] [precord]).plainTwins 0 5 0 0 plainFrame).isNone = true
    ∧ ((plained [] [precord] [precord]).plainMatch 0 5 precord).isSome = true
    ∧ ((plained [] [] []).plain 0).elemStopped 5 = false
    ∧ (((plained [] [] []).modPlain 0 fun x => { x with stopped := [5] }).plain 0).elemStopped 5 = true
    ∧ ((plained [] [precord, precord] []).plainTwins 0 5 0 0 plainFrame) = some (precord, precord)
    ∧ plainDests plainFrame = [] ∧ (plained [] [] []).plainHeld 0 0 = false
    ∧ (plained [] [] []).plainSlot 0 5 0 0 = some (0, plainFrame) := by
  decide +kernel

/-- A flit at the side of the pass of core 0, and one in the record that leaves it. -/
theorem witness_CollectivePairKvPlainEvents_pass :
    (let s := (slotted 0x60 0 (frame 7 0x60 [(2, 220)]) base).modCluster 0 fun x =>
       { x with plain := { x.plain with leaving := [(0, [mkFlit 0 0 9 false true])] } }
     tabGet [] (s.plain 0).leaving 0 = [mkFlit 0 0 9 false true] ∧ s.passBuffer 0 0 = none
     ∧ s.frameFor 0 0x60 (mkFlit 0 0 9 false true).ctag = some (frame 7 0x60 [(2, 220)])
     ∧ s.sideRoom 0 (fb (frame 7 0x60 [(2, 220)]) 223 220) = true)
    ∧ (let s := channeled (drainKey 0x60) [mkFlit 0 0 9 false true] base
       (s.chan 0 passInKey).flits = [] ∧ s.head 0 (drainKey 0x60) = some (mkFlit 0 0 9 false true)
       ∧ (mkFlit 0 0 9 false true).sideBad = false ∧ s.room 0 passInKey 16 = true) := by
  decide +kernel

/-- What a host request finds. -/
def homeIs (bar2 : Bool) (o n : Nat) (write : Bool) : Nat :=
  match base.hostHome bar2 o n write with
  | .mem pa => pa + 1
  | _ => 0

/-- The package has no route to the host's request: an offset outside the map. -/
theorem witness_ResetAndHostEvents_none :
    (match base.hostHome false 0x90000 4 false with
      | .none => true
      | _ => false) = true := by
  decide +kernel

/-- A read of 8 bytes of one bank word, one of 32 bytes, and requests that are too long. -/
theorem witness_ResetAndHostEvents_sizes :
    hostFits { bar2 := true, off := 0x100, write := none, n := 8 } = true
    ∧ hostFits { bar2 := true, off := 0x100, write := none, n := 4097 } = false
    ∧ homeIs true 0x100 32 false = 0x101 ∧ base.hostPosted = false ∧ oneWord 0x100 8 = true ∧ oneWord 0x100 32 = false
    ∧ (base.pkg.ats.filter fun p => p.1 != 5).length < 256 := by
  decide +kernel

theorem witness_ResetAndHostEvents :
    base.pkg.boot = .rom ∧ homeIs true 0x100 8 false = 0x101 ∧ homeIs true 0x100 8 true = 0x101
    ∧ homeIs true 0x100 4 true = 0x101 ∧ base.wavedScratch 0x100 = false ∧ base.narrowBad 0x100 4 = false
    ∧ ({ base with ecc := [(0x20, .double)] } : State).narrowBad 0x100 4 = true
    ∧ amoPcie .cas = true ∧ base.bar2Pa 0x100 = 0x100 ∧ amoNew .add true 1 2 0 = some 3
    ∧ (let s : State := { base with pkg := { base.pkg with boot := .recovery, fetching := some (0, 8) } }
       s.pkg.boot = .recovery ∧ s.pkg.fetching = some (0, 8))
    ∧ ({ base with pkg := { base.pkg with boot := .verify } } : State).pkg.boot = .verify
    ∧ (let pa := base.ownPkg * 2 ^ 49 + 0x100
       offsetOk pa = true ∧ offsetOk (pa + 8 - 1) = true ∧ base.wavedScratch pa = false ∧ regionOf (paKind pa) = .hbm) := by
  decide +kernel

theorem witness_ManagementEvents :
    base.pkg.lock = false ∧ ({ base with pkg := { base.pkg with lock := true } } : State).pkg.lock = true
    ∧ base.pkg.stEn = false ∧ ({ base with pkg := { base.pkg with stEn := true } } : State).pkg.stEn = true
    ∧ (0x8000 : Word).getLsbD 15 = true ∧ (2 : Word).extractLsb' 0 2 ≠ 3 ∧ (base.die 0).stretched = false
    ∧ base.kvIdle 0 = true
    ∧ (base.modKv 1 fun x => { x with free := [(7, 3)] }).kvIdle 0 = false := by
  decide +kernel

theorem witness_StepKeepsMemoryCanonical : memWf (base.writeNat 0x100 8 0x0100000000000001).mem = true
    ∧ goes (step (base.writeNat 0x100 8 0x0100000000000001)) = true := by
  decide +kernel

end Sys2Proof.Tests
end

section
/-!
The checks that every form makes before its own effect (R107), and what is left when the guard fails (R97).
-/
namespace Sys2Proof.Proofs
open Sys2Proof.Machine Sys2Proof.Laws

/-- The registers that a form reads at issue, in field order: its sources, and for `loop` the counter in B, a field that has
no last-use bit and is the form's destination too (R98, R158). -/
def readsOf : Instr → List Src
  | .loop _ b _ => [⟨b, false⟩]
  | i => srcsOf i

/-- The counter of `loop` is never vacated, so that the reads of a form take effect as its sources do when it is skipped. -/
theorem skip_readsOf (x : Cp) (i : Instr) : x.skip (readsOf i) = x.skip (srcsOf i) := by
  unfold readsOf
  split
  case h_1 => rfl
  case h_2 => rfl

/-- Every form is its own effect behind the checks of R107: the form's guard, its privilege and its reads in field
order. The cases follow the families of the opcode table; an event has no word. -/
theorem exec_eq_runForm (i : Instr) (s : State) (h : (encode i).isSome = true) :
    ∃ k, exec i s = runForm s i (Machine.guardOf i) (privileged i) (readsOf i) k := by
  cases i
  case nop | halt | trap | tret | wait | brk => exact ⟨_, rfl⟩
  case add | sub | and | or | xor | andn | shl | shr | sra | rol | min | max | minz | maxz | mul | mulh | mulhz | div
    | divz | rem | remz | clz | ctz | popc | sel | bext | bins => exact ⟨_, rfl⟩
  case addi | andi | ori | xori | shli | shri | srai | li | liH => exact ⟨_, rfl⟩
  case cmpEq | cmpNe | cmpLt | cmpGe | cmpLo | cmpHs | cmpiEq | cmpiNe | cmpiLt | cmpiGe | cmpiLo | cmpiHs =>
    exact ⟨_, rfl⟩
  case pand | por | pxor | pandn | pmov | pget => exact ⟨_, rfl⟩
  case br | call | ret | jr | loop => exact ⟨_, rfl⟩
  case ldS8 | ldZ8 | ldS16 | ldZ16 | ldS32 | ldZ32 | ld64 | st8 | st16 | st32 | st64 => exact ⟨_, rfl⟩
  case amoAdd64 | amoMin64 | amoMax64 | amoMinz64 | amoMaxz64 | amoAnd64 | amoOr64 | amoXor64 | amoSwap64 | amoCas64
    | amoFadd64 => exact ⟨_, rfl⟩
  case amoAdd32 | amoMin32 | amoMax32 | amoMinz32 | amoMaxz32 | amoAnd32 | amoOr32 | amoXor32 | amoSwap32 | amoCas32
    | amoFadd32 => exact ⟨_, rfl⟩
  case fence | fenceX | fenceCfg | krd | kwr | kset | kclr => exact ⟨_, rfl⟩
  case fadd | fsub | fmul | fdiv | fsqrt | ffma | fmin | fmax | fcmp | fcvt | fclass => exact ⟨_, rfl⟩
  case cfgFetch | cfgLoad | cfgEvict | cfgInband | cfgProbe | cfgTag => exact ⟨_, rfl⟩
  case strmRd | strmWr | strmInd | strmCst | strmRec | strmCancel | strmStat => exact ⟨_, rfl⟩
  case barRd | barWr | barCfg | barAll | barIf => exact ⟨_, rfl⟩
  case ctlSet | ctlGo | ctlWait | ctlAbort | tplArm | tplDisarm | tplFire | tplStat => exact ⟨_, rfl⟩
  case qPush | qPop | qSpace | qWait | semInit | semTake | semWait | semAdv => exact ⟨_, rfl⟩
  case mxTok | mxAccrd | mxAccclr | mxStat => exact ⟨_, rfl⟩
  case collRed | collAttn | collGath | collScat | collBcast | collA2a | collWait => exact ⟨_, rfl⟩
  case pairBox | pairBin | pairScan | pairStat | pairClr => exact ⟨_, rfl⟩
  case kvAlloc | kvFree | kvShare | kvMap | kvLimit | kvLend => exact ⟨_, rfl⟩
  case taskSpawn | taskDone | taskYield | taskArg | taskCancel => exact ⟨_, rfl⟩
  case frzSave | frzLoad | quiPoll | quiRep | xlatInv | xlatProbe | xlatRes => exact ⟨_, rfl⟩
  all_goals exact nomatch h

/-- A form whose guard fails skips its own effect, whatever that is (R97). -/
theorem exec_of_guard_false {i : Instr} {s : State} (h : (encode i).isSome = true)
    (hg : s.cp.regs.guard (Machine.guardOf i) = false) :
    exec i s = .next (s.modCp fun x => x.skip (srcsOf i)) := by
  obtain ⟨k, hk⟩ := exec_eq_runForm i s h
  simp only [hk, runForm_skip hg, skip_readsOf]

/-- Skipping a form advances the program counter and takes its last uses, and leaves the rest of the package (R97, R99). -/
theorem ends_skip (s : State) (srcs : List Src) :
    Ends s (s.modCp fun x => x.skip srcs) srcs (s.cp.regs.pc + 8) none none s.cp.k :=
  ends_modCp rfl (skip_k _ _) (skip_ctl _ _)

/-- The guard asks for p[GP], or with GN for its opposite (R97). -/
theorem guard_eq (x : Regs) (g : Guard) : x.guard g = if g.neg then !x.pred g.p else x.pred g.p := by
  unfold Regs.guard
  cases g.neg <;> cases x.pred g.p <;> rfl

/-- The decoder checks the guard first of all (R107). -/
theorem decode_of_guard_not_ok {w : Word} (h : (guardOf w).ok = false) : decode w = .error .guard := by
  rw [decode, h]
  rfl

/-- A word with GN = 1 and GP = 0 carries the guard "not p0" (R97). -/
theorem guardOf_not_ok {w : Word} (hn : w.extractLsb' 57 1 = 1#1) (hp : w.extractLsb' 54 3 = 0#3) :
    (guardOf w).ok = false := by
  have hbit : w.getLsbD 57 = true := by simpa using congrArg (·.getLsbD 0) hn
  simp [guardOf, Guard.ok, hbit, hp]

/-- A word that is no form traps with ILLOP, and KTVAL holds the word (R107). -/
theorem traps_reservedOpcode (s : State) (w : Word) : Traps (.reservedOpcode w) s 0x01 w := rfl

/-- Settles O5: every form makes its guard check before anything else, so a failed guard leaves what `Cp.skip` leaves; a
guard "not p0" never gets past the decoder. -/
theorem failedGuardActsNot : Obligations.FailedGuardActsNot := by
  refine ⟨fun i s h _ hg => ?_, guard_eq, pred_zero, fun s w hn hp => ?_⟩
  · exact ⟨_, exec_of_guard_false h hg, ends_skip s (srcsOf i)⟩
  · exact ⟨decode_of_guard_not_ok (guardOf_not_ok hn hp), traps_reservedOpcode s w⟩

end Sys2Proof.Proofs
end

section
/-!
Division (R152): quotients and remainders as numbers, and the sign of a remainder.
-/
namespace Sys2Proof.Proofs
open Sys2Proof.Machine Sys2Proof.Laws

/-- The operands whose quotient overflows, as numbers. -/
theorem overflows_iff (a b : Word) :
    a = 0x8000000000000000 ∧ b = 0xFFFFFFFFFFFFFFFF ↔ a.toInt = -2 ^ 63 ∧ b.toInt = -1 := by
  rw [← BitVec.toInt_inj, ← BitVec.toInt_inj]
  rfl

theorem eq_zero_iff_toNat (b : Word) : b = 0 ↔ b.toNat = 0 := (BitVec.toNat_inj (y := 0#64)).symm

theorem divSigned_eq (a b : Word) :
    divSigned a b = if b.toNat = 0 then 0xFFFFFFFFFFFFFFFF
      else if a.toInt = -2 ^ 63 ∧ b.toInt = -1 then 0x8000000000000000
      else BitVec.ofInt 64 (a.toInt.tdiv b.toInt) := by
  simp only [divSigned, eq_zero_iff_toNat, overflows_iff, u64]

theorem divUnsigned_eq (a b : Word) :
    divUnsigned a b = if b.toNat = 0 then 0xFFFFFFFFFFFFFFFF else BitVec.ofNat 64 (a.toNat / b.toNat) := by
  simp only [divUnsigned, eq_zero_iff_toNat]

theorem remSigned_eq (a b : Word) :
    remSigned a b = if b.toNat = 0 then a
      else if a.toInt = -2 ^ 63 ∧ b.toInt = -1 then 0
      else BitVec.ofInt 64 (a.toInt - b.toInt * a.toInt.tdiv b.toInt) := by
  simp only [remSigned, eq_zero_iff_toNat, overflows_iff, u64]

theorem remUnsigned_eq (a b : Word) :
    remUnsigned a b = if b.toNat = 0 then a else BitVec.ofNat 64 (a.toNat - b.toNat * (a.toNat / b.toNat)) := by
  simp only [remUnsigned, eq_zero_iff_toNat]

/-- The signed remainder of a division that truncates is the library's `srem`, in the two exceptional cases too. -/
theorem remSigned_eq_srem (a b : Word) : remSigned a b = a.srem b := by
  have hsrem : BitVec.ofInt 64 (a.toInt - b.toInt * a.toInt.tdiv b.toInt) = a.srem b := by
    rw [← Int.tmod_def, ← BitVec.toInt_srem, BitVec.ofInt_toInt]
  rw [remSigned]
  split
  next hb => rw [hb]; exact BitVec.srem_zero.symm
  next hb =>
    split
    next h => obtain ⟨ha, hb⟩ := h; rw [ha, hb]; rfl
    next => exact hsrem

/-- A remainder that is not zero has the sign of the dividend (R152). -/
theorem remSigned_neg_iff {a b : Word} (h : remSigned a b ≠ 0) : (remSigned a b).toInt < 0 ↔ a.toInt < 0 := by
  have h0 : a.toInt.tmod b.toInt ≠ 0 := by
    rw [← BitVec.toInt_srem, ← remSigned_eq_srem]
    exact fun e => h (BitVec.toInt_inj.1 e)
  rw [remSigned_eq_srem, BitVec.toInt_srem]
  constructor
  · exact fun hr => Int.not_le.1 fun ha => absurd (Int.tmod_nonneg b.toInt ha) (Int.not_le.2 hr)
  · intro ha
    have := Int.tmod_nonneg b.toInt (a := -a.toInt) (by omega)
    rw [Int.neg_tmod] at this
    omega

/-- What a form writes to a register other than g0 is one value. -/
theorem writes_unique {i : Instr} {s : State} {srcs : List Src} {d : Reg} {v w : Word} (hd : d ≠ 0)
    (hv : Writes i s srcs d v) (hw : Writes i s srcs d w) : v = w := by
  obtain ⟨t, ht, hv⟩ := hv
  obtain ⟨u, hu, hw⟩ := hw
  obtain rfl : t = u := by simpa [ht] using hu
  have reads (v : Word) : regAfter s srcs (some (d, v)) d = v := if_pos ⟨rfl, hd⟩
  rw [← reads v, ← hv.reg, hw.reg, reads]

/-- Settles O11: the model's quotients and remainders are those of the rule, and the remainder takes the dividend's sign
because it is `srem`. -/
theorem divisionResults : Obligations.DivisionResults := by
  intro s g d a b h
  have hrem : Writes (.rem g d a b) s [a, b] d (remSigned (s.cp.val a) (s.cp.val b)) := writes_alu h rfl rfl
  refine ⟨writes_alu h rfl (divSigned_eq _ _), writes_alu h rfl (divUnsigned_eq _ _), remSigned_eq _ _ ▸ hrem,
    writes_alu h rfl (remUnsigned_eq _ _), fun v hv hd h0 => ?_⟩
  obtain rfl := writes_unique hd hv hrem
  exact remSigned_neg_iff h0

end Sys2Proof.Proofs
end

section
/-!
Bit fields (R153): `bext` and `bins` as numbers.
-/
namespace Sys2Proof.Proofs
open Sys2Proof.Machine Sys2Proof.Laws

theorem word_shiftLeft (m n : Nat) : word m <<< n = word (m * 2 ^ n) := by
  apply BitVec.eq_of_toNat_eq
  simp [Nat.shiftLeft_eq]

theorem shiftLeft_eq_word (b : Word) (n : Nat) : b <<< n = word (b.toNat * 2 ^ n) := by
  rw [← word_shiftLeft, word, BitVec.ofNat_toNat, BitVec.setWidth_eq]

theorem fieldPos_eq (c : Word) : fieldPos c = c.toNat % 64 := by simp [fieldPos, bits]

theorem fieldLen_eq (c : Word) : fieldLen c = min (c.toNat / 256 % 128) 64 := rfl

theorem bitExtract_eq (a b c : Word) :
    bitExtract a b c = word ((b.toNat * 2 ^ 64 + a.toNat) / 2 ^ (c.toNat % 64)
      % 2 ^ min (c.toNat / 256 % 128) 64) := by
  rw [bitExtract, fieldPos_eq, fieldLen_eq]

theorem bitInsert_eq (a b c : Word) :
    bitInsert a b c =
      let m := word ((2 ^ min (c.toNat / 256 % 128) 64 - 1) * 2 ^ (c.toNat % 64))
      (a &&& ~~~m) ||| (word (b.toNat * 2 ^ (c.toNat % 64)) &&& m) := by
  rw [bitInsert, maskWord, word_shiftLeft, shiftLeft_eq_word, fieldPos_eq, fieldLen_eq]

/-- A field of length 0 is empty: nothing is extracted, nothing inserted. -/
theorem bitExtract_of_len_zero {c : Word} (a b : Word) (h : fieldLen c = 0) : bitExtract a b c = 0 := by
  rw [bitExtract, h, Nat.pow_zero, Nat.mod_one]
  rfl

theorem bitInsert_of_len_zero {c : Word} (a b : Word) (h : fieldLen c = 0) : bitInsert a b c = a := by
  have hm : maskWord (fieldLen c) <<< fieldPos c = 0#64 := by simp [h, maskWord]
  rw [bitInsert, hm, BitVec.not_zero, BitVec.and_allOnes, BitVec.and_zero, BitVec.or_zero]

/-- Settles O12: `bext` and `bins` write `bitExtract` and `bitInsert`, which are the rule's fields of numbers. -/
theorem bitFieldResults : Obligations.BitFieldResults := by
  refine ⟨fun s g d a b c h => ⟨?_, ?_, fun h0 => ⟨?_, ?_⟩⟩, by decide, by decide⟩
  · exact writes_alu h rfl (bitExtract_eq _ _ _)
  · exact writes_alu h rfl (bitInsert_eq _ _ _)
  · exact writes_alu h rfl (bitExtract_of_len_zero _ _ h0)
  · exact writes_alu h rfl (bitInsert_of_len_zero _ _ h0)

end Sys2Proof.Proofs
end

section
/-!
The counted loop (R158).
-/
namespace Sys2Proof.Proofs
open Sys2Proof.Machine Sys2Proof.Laws

theorem shiftLeft_three (x : Word) : x <<< 3 = 8 * x := by
  rw [BitVec.shiftLeft_eq_mul_twoPow, BitVec.mul_comm]
  rfl

/-- A branch goes to its own address plus 8 times the signed offset (R104, R157). -/
theorem branchTarget_eq (pc : Word) (off : BitVec 32) :
    branchTarget pc off = BitVec.ofInt 64 (pc.toNat + 8 * off.toInt) := by
  rw [branchTarget, BitVec.signExtend, shiftLeft_three, BitVec.ofInt_add, BitVec.ofInt_mul, BitVec.ofInt_natCast,
    BitVec.ofNat_toNat, BitVec.setWidth_eq]
  rfl

/-- A vacant register reads zero (R134, R137). -/
theorem get_of_vacant {x : Regs} {r : Reg} (h : x.vacant r = true) : x.get r = 0 := if_pos (.inr h)

section
variable {s : State} {g : Guard} {b : Reg} {off : BitVec 32}

/-- With its counter at zero a ready `loop` falls through. -/
theorem exec_loop_of_zero (h : Ready s g false [⟨b, false⟩]) (h0 : s.cp.regs.get b = 0) :
    exec (.loop g b off) s = .next (s.retire [⟨b, false⟩] id) :=
  (ready_run h).trans (if_pos h0)

theorem ends_loop_of_zero :
    Ends s (s.retire [⟨b, false⟩] id) [] (s.cp.regs.pc + 8) none none (kAfter s [⟨b, false⟩]) :=
  ends_modCp rfl (retireTo_k _ _) rfl

/-- Otherwise it counts down, and branches while the counter is not zero. -/
theorem exec_loop_of_ne_zero (h : Ready s g false [⟨b, false⟩]) (h0 : s.cp.regs.get b ≠ 0) :
    exec (.loop g b off) s = .next (s.modCp fun x => x.retireTo [⟨b, false⟩]
      (if (s.cp.regs.get b).toNat = 1 then s.cp.regs.pc + 8 else branchTarget s.cp.regs.pc off)
      fun y => y.put b (s.cp.regs.get b - 1)) := by
  refine (ready_run h).trans ((if_neg h0).trans ?_)
  by_cases h1 : s.cp.regs.get b = 1
  · rw [if_pos h1, h1]; rfl
  · have hn : ¬ (s.cp.regs.get b).toNat = 1 := fun e => h1 (BitVec.eq_of_toNat_eq e)
    rw [if_neg h1, if_neg hn]; rfl

theorem ends_loop_of_ne_zero (pc v : Word) :
    Ends s (s.modCp fun x => x.retireTo [⟨b, false⟩] pc fun y => y.put b v) [] pc (some (b, v)) none
      (kAfter s [⟨b, false⟩]) :=
  ends_modCp rfl (retireTo_k pc s.cp) rfl

/-- A vacant counter stays vacant, for `loop` has no last-use bit, and its read sets VREAD (R137). -/
theorem vacant_of_ends_loop {t : State} {pc : Word} (h : Ends s t [] pc none none (kAfter s [⟨b, false⟩]))
    (hv : s.cp.regs.vacant b = true) : t.cp.regs.vacant b = true ∧ t.cp.k.vread = true := by
  rw [h.vacant, h.kregs]
  simp [vacantAfter, kAfter, hv]

end

/-- A word that counts in g0 is refused once its guard is found in order (R104, R158). -/
theorem decode_loop_zero {g : Guard} {off : BitVec 32} {w : Word} (hg : g.ok = true)
    (h : encode (.loop g 0 off) = some w) : decode w = .error .counter := by
  cases h
  simp [decode, decodeBranch, need, guardOf_packB, fMaj_packB, fMin_packB, fB_packB, hg]

/-- Settles O16: a zero counter falls through, any other is at least 1 and counts down without wrapping; a failed guard
skips the form, and the decoder refuses g0. -/
theorem countedLoop : Obligations.CountedLoop := by
  refine ⟨fun s g b off h => ?_, fun s g b off hg => ⟨_, exec_of_guard_false rfl hg, ends_skip s []⟩,
    fun g off s w hg hw => ⟨decode_loop_zero hg hw, traps_reservedOpcode s w⟩⟩
  dsimp only
  rw [← branchTarget_eq]
  by_cases h0 : s.cp.regs.get b = 0
  · exact ⟨_, exec_loop_of_zero h h0, fun _ => ends_loop_of_zero, fun hne => absurd h0 hne,
      fun hv => ⟨h0, vacant_of_ends_loop ends_loop_of_zero hv⟩⟩
  · exact ⟨_, exec_loop_of_ne_zero h h0, fun hz => absurd hz h0, fun _ => ends_loop_of_ne_zero _ _,
      fun hv => absurd (get_of_vacant hv) h0⟩

end Sys2Proof.Proofs
end

section
/-!
`fmin` and `fmax` (R165): the order on values that are no NaN is asymmetric.
-/
namespace Sys2Proof.Proofs
open Sys2Proof.Machine Sys2Proof.Laws

/-- The difference changes its sign when its operands change places. -/
theorem sub_m_swap (x y : Dy) : (x.sub y).m = -(y.sub x).m := by
  by_cases hx : x.m = 0
  · by_cases hy : y.m = 0 <;> simp [Dy.sub, Dy.add, Dy.neg, hx, hy]
  · by_cases hy : y.m = 0
    · simp [Dy.sub, Dy.add, Dy.neg, hx, hy]
    · have hnx : ¬ -x.m = 0 := fun e => hx (Int.neg_eq_zero.1 e)
      have hny : ¬ -y.m = 0 := fun e => hy (Int.neg_eq_zero.1 e)
      simp only [Dy.sub, Dy.add, Dy.neg, Dy.at, if_neg hx, if_neg hy, if_neg hnx, if_neg hny, Int.min_comm y.e x.e,
        Int.neg_mul]
      omega

theorem dy_lt_asymm {x y : Dy} (h : x.lt y = true) : y.lt x = false := by
  have := sub_m_swap x y
  simp only [Dy.lt, Dy.isNeg, decide_eq_true_eq, decide_eq_false_iff_not] at h ⊢
  omega

/-- Of two values at most one is less than the other, whether or not -0 counts as less than +0. -/
theorem less_asymm {z : Bool} {x y : FVal} (h : x.less z y = true) : y.less z x = false := by
  cases x with
  | nan => simp [FVal.less] at h
  | inf a => cases y with
    | nan => rfl
    | inf b => simp_all [FVal.less]
    | fin b m e => simp_all [FVal.less]
  | fin a m e => cases y with
    | nan => rfl
    | inf b => simp_all [FVal.less]
    | fin b n d =>
      rw [FVal.less] at h ⊢
      rw [Bool.and_comm]
      by_cases hz : ((FVal.fin a m e).isZero && (FVal.fin b n d).isZero) = true
      · rw [if_pos hz] at h ⊢
        revert h
        cases z <;> cases a <;> cases b <;> decide
      · rw [if_neg hz] at h ⊢
        exact dy_lt_asymm h

/-- x comes before y in the order whose first operand `fmin`, or with `isMax` `fmax`, returns (R165). -/
def precedes (isMax : Bool) (x y : FVal) : Bool := if isMax then y.less true x else x.less true y

theorem precedes_asymm {isMax : Bool} {x y : FVal} (h : precedes isMax x y = true) : precedes isMax y x = false := by
  cases isMax <;> exact less_asymm h

section
variable {f : Prec} {a b : Word} (isMax : Bool)

theorem fpMinMax_nan_left (hx : (f.operand a).isNan = true) (hy : (f.operand b).isNan = false) :
    (fpMinMax f isMax a b).1 = f.clean b := by simp only [fpMinMax, hx, hy]

theorem fpMinMax_nan_right (hx : (f.operand a).isNan = false) (hy : (f.operand b).isNan = true) :
    (fpMinMax f isMax a b).1 = f.clean a := by simp only [fpMinMax, hx, hy]

theorem fpMinMax_nan_both (hx : (f.operand a).isNan = true) (hy : (f.operand b).isNan = true) :
    (fpMinMax f isMax a b).1 = f.nan := by simp only [fpMinMax, hx, hy]

theorem fpMinMax_flags : (fpMinMax f isMax a b).2
    = if (f.operand a).isSignalling || (f.operand b).isSignalling then flNV else 0 := by
  simp [fpMinMax, signallingFlags]

/-- Of two numbers the result is one, and the other does not come before it. -/
theorem fpMinMax_of_numbers (hx : (f.operand a).isNan = false) (hy : (f.operand b).isNan = false) :
    (fpMinMax f isMax a b).1 = f.clean a ∧ precedes isMax (f.operand b) (f.operand a) = false
    ∨ (fpMinMax f isMax a b).1 = f.clean b ∧ precedes isMax (f.operand a) (f.operand b) = false := by
  have hr : (fpMinMax f isMax a b).1
      = if precedes isMax (f.operand a) (f.operand b) then f.clean a else f.clean b := by
    simp only [fpMinMax, hx, hy]
    rfl
  by_cases h : precedes isMax (f.operand a) (f.operand b) = true
  · exact .inl ⟨hr.trans (if_pos h), precedes_asymm h⟩
  · exact .inr ⟨hr.trans (if_neg h), Bool.eq_false_iff.2 h⟩

end

theorem fpMin_zeros (f : Prec) : (fpMinMax f false (f.zero false) (f.zero true)).1 = f.zero true := by
  cases f <;> decide

theorem fpMax_zeros (f : Prec) : (fpMinMax f true (f.zero false) (f.zero true)).1 = f.zero false := by
  cases f <;> decide

/-- Settles O19: the cases are those of the operands that are NaNs, and between numbers the order is asymmetric. -/
theorem floatingMinMax : Obligations.FloatingMinMax := by
  intro f a b
  refine ⟨?_, ?_, ?_, ?_, fpMinMax_flags false, ?_, fpMin_zeros f, fpMax_zeros f⟩
  · exact fun ⟨hx, hy⟩ => ⟨fpMinMax_nan_left false hx hy, fpMinMax_nan_left true hx hy⟩
  · exact fun ⟨hx, hy⟩ => ⟨fpMinMax_nan_right false hx hy, fpMinMax_nan_right true hx hy⟩
  · exact fun ⟨hx, hy⟩ => ⟨fpMinMax_nan_both false hx hy, fpMinMax_nan_both true hx hy⟩
  · exact fun ⟨hx, hy⟩ => ⟨fpMinMax_of_numbers false hx hy, fpMinMax_of_numbers true hx hy⟩
  · exact (fpMinMax_flags true).trans (fpMinMax_flags false).symm

end Sys2Proof.Proofs
end

section
/-!
Taking a trap and returning from it (R149).
-/
namespace Sys2Proof.Proofs
open Sys2Proof.Machine Sys2Proof.Laws

/-- KTVEC.BASE * 8 (R139): the three bits shifted in stay within the word. -/
theorem setWidth_shiftLeft_three (x : BitVec 61) : x.setWidth 64 <<< 3 = BitVec.ofNat 64 (x.toNat * 8) := by
  bv_omega

/-- KEPC as it is read is KEPC rounded down to a multiple of 8 (R139). -/
theorem epcRead_eq (k : KRegs) : k.epcRead = BitVec.ofNat 64 (k.epc.toNat / 8 * 8) :=
  calc k.epcRead
    _ = k.epc >>> 3 <<< 3 := (BitVec.shiftLeft_ushiftRight (x := k.epc) (n := 3)).symm
    _ = word ((k.epc >>> 3).toNat * 2 ^ 3) := shiftLeft_eq_word _ _
    _ = word (k.epc.toNat / 8 * 8) := congrArg (fun n => word (n * 8))
      ((BitVec.toNat_ushiftRight _ _).trans (Nat.shiftRight_eq_div_pow _ 3))

/-- Settles O8: the entry into a trap is one step, whose handler's address is KTVEC.BASE shifted; `tret` goes to KEPC as it
is read. -/
theorem trapsAndReturns : Obligations.TrapsAndReturns := by
  refine ⟨fun x cause epc tval => ⟨rfl, rfl, rfl, rfl, rfl, ?_, rfl, rfl, rfl⟩, fun s g h => ⟨_, ready_run h, ?_⟩⟩
  · rw [trap_pc, setWidth_shiftLeft_three]
  · rw [← epcRead_eq]
    exact ends_modCp rfl rfl rfl

end Sys2Proof.Proofs
end

section
/-!
Decoding undoes encoding (R96, R107): the lemma of each form, put together.
-/
namespace Sys2Proof.Proofs
open Sys2Proof.Machine Sys2Proof.Laws

/-- The word of every well-formed form decodes to it; an event has no word. -/
theorem encoding_statement : ∀ i : Instr, Encoding.Statement i
  | .nop .. => Encoding.nop _ | .halt .. => Encoding.halt _ | .trap .. => Encoding.trap _ _
  | .tret .. => Encoding.tret _ | .wait .. => Encoding.wait _ | .brk .. => Encoding.brk _ _
  | .add .. => Encoding.add _ _ _ _ | .sub .. => Encoding.sub _ _ _ _ | .and .. => Encoding.and _ _ _ _
  | .or .. => Encoding.or _ _ _ _ | .xor .. => Encoding.xor _ _ _ _ | .andn .. => Encoding.andn _ _ _ _
  | .shl .. => Encoding.shl _ _ _ _ | .shr .. => Encoding.shr _ _ _ _ | .sra .. => Encoding.sra _ _ _ _
  | .rol .. => Encoding.rol _ _ _ _ | .min .. => Encoding.min _ _ _ _ | .max .. => Encoding.max _ _ _ _
  | .minz .. => Encoding.minz _ _ _ _ | .maxz .. => Encoding.maxz _ _ _ _ | .mul .. => Encoding.mul _ _ _ _
  | .mulh .. => Encoding.mulh _ _ _ _ | .mulhz .. => Encoding.mulhz _ _ _ _ | .div .. => Encoding.div _ _ _ _
  | .divz .. => Encoding.divz _ _ _ _ | .rem .. => Encoding.rem _ _ _ _ | .remz .. => Encoding.remz _ _ _ _
  | .clz .. => Encoding.clz _ _ _ | .ctz .. => Encoding.ctz _ _ _ | .popc .. => Encoding.popc _ _ _
  | .sel .. => Encoding.sel _ _ _ _ _ | .bext .. => Encoding.bext _ _ _ _ _ | .bins .. => Encoding.bins _ _ _ _ _
  | .addi .. => Encoding.addi _ _ _ _ | .andi .. => Encoding.andi _ _ _ _ | .ori .. => Encoding.ori _ _ _ _
  | .xori .. => Encoding.xori _ _ _ _ | .shli .. => Encoding.shli _ _ _ _ | .shri .. => Encoding.shri _ _ _ _
  | .srai .. => Encoding.srai _ _ _ _ | .li .. => Encoding.li _ _ _ | .liH .. => Encoding.liH _ _ _ _
  | .cmpEq .. => Encoding.cmpEq _ _ _ _ | .cmpNe .. => Encoding.cmpNe _ _ _ _ | .cmpLt .. => Encoding.cmpLt _ _ _ _
  | .cmpGe .. => Encoding.cmpGe _ _ _ _ | .cmpLo .. => Encoding.cmpLo _ _ _ _ | .cmpHs .. => Encoding.cmpHs _ _ _ _
  | .cmpiEq .. => Encoding.cmpiEq _ _ _ _ | .cmpiNe .. => Encoding.cmpiNe _ _ _ _
  | .cmpiLt .. => Encoding.cmpiLt _ _ _ _ | .cmpiGe .. => Encoding.cmpiGe _ _ _ _
  | .cmpiLo .. => Encoding.cmpiLo _ _ _ _ | .cmpiHs .. => Encoding.cmpiHs _ _ _ _ | .pand .. => Encoding.pand _ _ _ _
  | .por .. => Encoding.por _ _ _ _ | .pxor .. => Encoding.pxor _ _ _ _ | .pandn .. => Encoding.pandn _ _ _ _
  | .pmov .. => Encoding.pmov _ _ _ | .pget .. => Encoding.pget _ _ _ | .br .. => Encoding.br _ _
  | .call .. => Encoding.call _ _ _ | .ret .. => Encoding.ret _ _ | .jr .. => Encoding.jr _ _ _
  | .loop .. => Encoding.loop _ _ _ | .ldS8 .. => Encoding.ldS8 _ _ _ | .ldZ8 .. => Encoding.ldZ8 _ _ _
  | .ldS16 .. => Encoding.ldS16 _ _ _ | .ldZ16 .. => Encoding.ldZ16 _ _ _ | .ldS32 .. => Encoding.ldS32 _ _ _
  | .ldZ32 .. => Encoding.ldZ32 _ _ _ | .ld64 .. => Encoding.ld64 _ _ _ | .st8 .. => Encoding.st8 _ _ _
  | .st16 .. => Encoding.st16 _ _ _ | .st32 .. => Encoding.st32 _ _ _ | .st64 .. => Encoding.st64 _ _ _
  | .amoAdd64 .. => Encoding.amoAdd64 _ _ _ _ | .amoMin64 .. => Encoding.amoMin64 _ _ _ _
  | .amoMax64 .. => Encoding.amoMax64 _ _ _ _ | .amoMinz64 .. => Encoding.amoMinz64 _ _ _ _
  | .amoMaxz64 .. => Encoding.amoMaxz64 _ _ _ _ | .amoAnd64 .. => Encoding.amoAnd64 _ _ _ _
  | .amoOr64 .. => Encoding.amoOr64 _ _ _ _ | .amoXor64 .. => Encoding.amoXor64 _ _ _ _
  | .amoSwap64 .. => Encoding.amoSwap64 _ _ _ _ | .amoCas64 .. => Encoding.amoCas64 _ _ _ _
  | .amoFadd64 .. => Encoding.amoFadd64 _ _ _ _ | .amoAdd32 .. => Encoding.amoAdd32 _ _ _ _
  | .amoMin32 .. => Encoding.amoMin32 _ _ _ _ | .amoMax32 .. => Encoding.amoMax32 _ _ _ _
  | .amoMinz32 .. => Encoding.amoMinz32 _ _ _ _ | .amoMaxz32 .. => Encoding.amoMaxz32 _ _ _ _
  | .amoAnd32 .. => Encoding.amoAnd32 _ _ _ _ | .amoOr32 .. => Encoding.amoOr32 _ _ _ _
  | .amoXor32 .. => Encoding.amoXor32 _ _ _ _ | .amoSwap32 .. => Encoding.amoSwap32 _ _ _ _
  | .amoCas32 .. => Encoding.amoCas32 _ _ _ _ | .amoFadd32 .. => Encoding.amoFadd32 _ _ _ _
  | .fence .. => Encoding.fence _ _ | .fenceX .. => Encoding.fenceX _ _ | .fenceCfg .. => Encoding.fenceCfg _
  | .krd .. => Encoding.krd _ _ _ | .kwr .. => Encoding.kwr _ _ _ | .kset .. => Encoding.kset _ _ _
  | .kclr .. => Encoding.kclr _ _ _ | .fadd .. => Encoding.fadd _ _ _ _ _ | .fsub .. => Encoding.fsub _ _ _ _ _
  | .fmul .. => Encoding.fmul _ _ _ _ _ | .fdiv .. => Encoding.fdiv _ _ _ _ _ | .fsqrt .. => Encoding.fsqrt _ _ _ _
  | .ffma .. => Encoding.ffma _ _ _ _ _ _ | .fmin .. => Encoding.fmin _ _ _ _ _ | .fmax .. => Encoding.fmax _ _ _ _ _
  | .fcmp .. => Encoding.fcmp _ _ _ _ _ _ | .fcvt .. => Encoding.fcvt _ _ _ _ _ _
  | .fclass .. => Encoding.fclass _ _ _ _ | .cfgFetch .. => Encoding.cfgFetch _ _ _ _
  | .cfgLoad .. => Encoding.cfgLoad _ _ _ _ | .cfgEvict .. => Encoding.cfgEvict _ _ _ _ _ _
  | .cfgInband .. => Encoding.cfgInband _ _ _ _ | .cfgProbe .. => Encoding.cfgProbe _ _ _ _
  | .cfgTag .. => Encoding.cfgTag _ _ _ | .strmRd .. => Encoding.strmRd _ _ _ _ _ _ _ _
  | .strmWr .. => Encoding.strmWr _ _ _ _ _ _ _ _ | .strmInd .. => Encoding.strmInd _ _ _ _ _ _ _ _
  | .strmCst .. => Encoding.strmCst _ _ _ _ _ _ _ _ | .strmRec .. => Encoding.strmRec _ _ _ _ _ _ _ _
  | .strmCancel .. => Encoding.strmCancel _ _ _ _ | .strmStat .. => Encoding.strmStat _ _ _ _
  | .barRd .. => Encoding.barRd _ _ _ | .barWr .. => Encoding.barWr _ _ _ | .barCfg .. => Encoding.barCfg _ _ _ _ _
  | .barAll .. => Encoding.barAll _ _ | .barIf .. => Encoding.barIf _ _ _ _ _
  | .ctlSet .. => Encoding.ctlSet _ _ _ _ _ | .ctlGo .. => Encoding.ctlGo _ _ _
  | .ctlWait .. => Encoding.ctlWait _ _ _ | .ctlAbort .. => Encoding.ctlAbort _ _ _
  | .tplArm .. => Encoding.tplArm _ _ _ _ | .tplDisarm .. => Encoding.tplDisarm _ _ _
  | .tplFire .. => Encoding.tplFire _ _ _ _ | .tplStat .. => Encoding.tplStat _ _ _
  | .qPush .. => Encoding.qPush _ _ _ _ _ | .qPop .. => Encoding.qPop _ _ _ _ | .qSpace .. => Encoding.qSpace _ _ _
  | .qWait .. => Encoding.qWait _ _ _ _ _ | .semInit .. => Encoding.semInit _ _ _ _
  | .semTake .. => Encoding.semTake _ _ _ _ _ | .semWait .. => Encoding.semWait _ _ _ _
  | .semAdv .. => Encoding.semAdv _ _ _ _ | .mxTok .. => Encoding.mxTok _ _ _
  | .mxAccrd .. => Encoding.mxAccrd _ _ _ _ _ | .mxAccclr .. => Encoding.mxAccclr _ _ _
  | .mxStat .. => Encoding.mxStat _ _ | .collRed .. => Encoding.collRed _ _ _
  | .collAttn .. => Encoding.collAttn _ _ _ | .collGath .. => Encoding.collGath _ _ _
  | .collScat .. => Encoding.collScat _ _ _ | .collBcast .. => Encoding.collBcast _ _ _
  | .collA2a .. => Encoding.collA2a _ _ _ | .collWait .. => Encoding.collWait _ _ _
  | .pairBox .. => Encoding.pairBox _ _ _ | .pairBin .. => Encoding.pairBin _ _
  | .pairScan .. => Encoding.pairScan _ _ _ _ _ _ | .pairStat .. => Encoding.pairStat _ _
  | .pairClr .. => Encoding.pairClr _ _ | .kvAlloc .. => Encoding.kvAlloc _ _ _
  | .kvFree .. => Encoding.kvFree _ _ _ _ | .kvShare .. => Encoding.kvShare _ _ _ _
  | .kvMap .. => Encoding.kvMap _ _ _ | .kvLimit .. => Encoding.kvLimit _ _ _ _ _
  | .kvLend .. => Encoding.kvLend _ _ _ _ | .taskSpawn .. => Encoding.taskSpawn _ _ _ _
  | .taskDone .. => Encoding.taskDone _ | .taskYield .. => Encoding.taskYield _ _
  | .taskArg .. => Encoding.taskArg _ _ _ | .taskCancel .. => Encoding.taskCancel _ _ _
  | .frzSave .. => Encoding.frzSave _ _ _ _ | .frzLoad .. => Encoding.frzLoad _ _ _ _
  | .quiPoll .. => Encoding.quiPoll _ _ _ | .quiRep .. => Encoding.quiRep _ _ _ _
  | .xlatInv .. => Encoding.xlatInv _ _ _ _ _ _ | .xlatProbe .. => Encoding.xlatProbe _ _ _ _ _
  | .xlatRes .. => Encoding.xlatRes _ _ _ _ _ | .pendingResultWrite .. => Encoding.pendingResultWrite _ _
  | .waitEnd .. => Encoding.waitEnd _ | .barrierEnd .. => Encoding.barrierEnd _
  | .fenceResume .. => Encoding.fenceResume _ | .queueFormResume .. => Encoding.queueFormResume _
  | .ctlWaitEnd .. => Encoding.ctlWaitEnd _ | .collWaitEnd .. => Encoding.collWaitEnd _
  | .quiPollWaitEnd .. => Encoding.quiPollWaitEnd _ | .semRetest .. => Encoding.semRetest _
  | .asyncTrap .. => Encoding.asyncTrap _ | .programPageFill .. => Encoding.programPageFill _
  | .bankAccess .. => Encoding.bankAccess _ _ _ | .routerForward .. => Encoding.routerForward _ _
  | .kill .. => Encoding.kill _ _ | .killReturn .. => Encoding.killReturn _ _ | .peFire .. => Encoding.peFire _ _
  | .digitEmit .. => Encoding.digitEmit _ _ | .steer .. => Encoding.steer _ _ | .carry .. => Encoding.carry _ _
  | .invar .. => Encoding.invar _ _ | .merge .. => Encoding.merge _ _ | .join .. => Encoding.join _ _
  | .order .. => Encoding.order _ _ | .arb .. => Encoding.arb _ _ | .tagin .. => Encoding.tagin _ _
  | .tagout .. => Encoding.tagout _ _ | .mld .. => Encoding.mld _ _ _ _ | .mst .. => Encoding.mst _ _ _ _
  | .gath .. => Encoding.gath _ _ _ _ | .scat .. => Encoding.scat _ _ _ _ | .upd .. => Encoding.upd _ _ _ _
  | .dep .. => Encoding.dep _ _ _ _ | .sparseUpdateApply .. => Encoding.sparseUpdateApply _ _ _ _ _
  | .mxTokenEnqueue .. => Encoding.mxTokenEnqueue _ | .mma .. => Encoding.mma _ | .mmaAcc .. => Encoding.mmaAcc _
  | .accRd .. => Encoding.accRd _ | .accClr .. => Encoding.accClr _ | .matrixStep .. => Encoding.matrixStep _
  | .streamElement .. => Encoding.streamElement _ _ _ | .streamWrite .. => Encoding.streamWrite _ _ _
  | .streamDone .. => Encoding.streamDone _ _ _ | .streamCancelComplete .. => Encoding.streamCancelComplete _ _ _
  | .barIfDecide .. => Encoding.barIfDecide _ _ _ | .pageWalk .. => Encoding.pageWalk _ _
  | .templateFiring .. => Encoding.templateFiring _ _ | .copyEnd .. => Encoding.copyEnd _ _
  | .compressPhase .. => Encoding.compressPhase _ _ | .sbPush .. => Encoding.sbPush _ _
  | .sbPop .. => Encoding.sbPop _ _ | .frameInstall .. => Encoding.frameInstall _ _
  | .demandFill .. => Encoding.demandFill _ _ | .configRecord .. => Encoding.configRecord _ _
  | .evictDrainClear .. => Encoding.evictDrainClear _ _ | .permit .. => Encoding.permit _ _
  | .doneToken .. => Encoding.doneToken _ _ | .iterationOpen .. => Encoding.iterationOpen _ _
  | .quiescenceVerdict .. => Encoding.quiescenceVerdict _ | .deadlockTrap .. => Encoding.deadlockTrap _
  | .reservedOpcode .. => Encoding.reservedOpcode _ | .fabricCycle => Encoding.fabricCycle
  | .taskReady .. => Encoding.taskReady _ _ _ | .schedulerBind .. => Encoding.schedulerBind _
  | .preempt .. => Encoding.preempt _ | .freeze .. => Encoding.freeze _ | .taskRetire .. => Encoding.taskRetire _ _ _
  | .collRendezvous .. => Encoding.collRendezvous _ _ | .collCombine .. => Encoding.collCombine _ _ _
  | .pairHomeCell .. => Encoding.pairHomeCell _ | .pairRecordPush .. => Encoding.pairRecordPush _
  | .kvRequestRoute .. => Encoding.kvRequestRoute _ | .plainDelivery .. => Encoding.plainDelivery _ _
  | .plainElementFire .. => Encoding.plainElementFire _ _ | .storeHomeFailure .. => Encoding.storeHomeFailure _ _
  | .passInbound .. => Encoding.passInbound _ | .passOutbound .. => Encoding.passOutbound _
  | .ringPass .. => Encoding.ringPass _ _ | .coldreset => Encoding.coldreset | .warmreset => Encoding.warmreset
  | .boot => Encoding.boot | .recoveryFetch => Encoding.recoveryFetch
  | .spdmMeasurement .. => Encoding.spdmMeasurement _ | .hostAccess .. => Encoding.hostAccess _
  | .hostAtomicop .. => Encoding.hostAtomicop _
  | .atsTranslationCompletion .. => Encoding.atsTranslationCompletion _ _
  | .atsInvalidation .. => Encoding.atsInvalidation _ | .tqFirstHalfWrite .. => Encoding.tqFirstHalfWrite _ _ _
  | .tqSecondHalfWrite .. => Encoding.tqSecondHalfWrite _ _ _
  | .taskCounterWrite .. => Encoding.taskCounterWrite _ _ _ | .fqpop .. => Encoding.fqpop _
  | .fzareaWrite .. => Encoding.fzareaWrite _ _ | .kvPoolWrite .. => Encoding.kvPoolWrite _ _ _
  | .dmaWindowWrite .. => Encoding.dmaWindowWrite _ _ _ | .dwlock .. => Encoding.dwlock _
  | .stlinkWrite .. => Encoding.stlinkWrite _ | .routeTableWrite .. => Encoding.routeTableWrite _ _
  | .registerWrite .. => Encoding.registerWrite _ _ | .clockStepChange => Encoding.clockStepChange
  | .cycleStretch .. => Encoding.cycleStretch _ | .linkRetrainFailure .. => Encoding.linkRetrainFailure _
  | .remoteAccess .. => Encoding.remoteAccess _ | .ktimeTick => Encoding.ktimeTick
  | .stretchRelease .. => Encoding.stretchRelease _ | .stanumPortTraining .. => Encoding.stanumPortTraining _ _
  | .remoteReplayFailure .. => Encoding.remoteReplayFailure _ _ | .atsDisable => Encoding.atsDisable

/-- Settles O1, constructor by constructor. -/
theorem decodeEncode : Obligations.DecodeEncode := encoding_statement

end Sys2Proof.Proofs
end

section
/-!
No form and no event stops (R11, R39): the shared operations answer a next state, and so does every arm of `exec`.
-/
namespace Sys2Proof.Proofs
open Sys2Proof.Machine Sys2Proof.Laws

/-- The result is a next state. -/
def Goes (r : Result) : Prop := ∃ t, r = .next t

theorem goes_next (t : State) : Goes (.next t) := ⟨t, rfl⟩

theorem goes_ite {c : Prop} [Decidable c] {a b : Result} (ha : Goes a) (hb : Goes b) : Goes (if c then a else b) := by
  split
  · exact ha
  · exact hb

section
variable {s : State} {i : Instr} {g : Guard} {priv : Bool} {srcs : List Src} {d : Reg} {k : Result}

theorem runForm_goes (hk : Goes k) : Goes (runForm s i g priv srcs k) := by
  rcases runForm_cases s i g srcs priv k with ⟨-, e⟩ | ⟨-, -, -, e⟩ | ⟨r, -, -, -, -, e⟩ | ⟨-, -, -, e⟩ <;> rw [e]
  · exact goes_next _
  · exact goes_next _
  · exact goes_next _
  · exact hk

theorem cmdForm_goes (hk : Goes k) : Goes (cmdForm s i g priv srcs k) := by
  refine runForm_goes ?_
  split
  · exact goes_next _
  · exact hk

theorem accessForm_goes {ea : Word} {n : Nat} {op : CpOp} {acc : Acc} {data cmp : Word} {ar : Bool} {sc : BitVec 3} :
    Goes (accessForm s i g srcs ea n op acc data cmp d ar sc) := by
  refine cmdForm_goes ?_
  dsimp only
  repeat' split
  all_goals exact goes_next _

theorem withRecord_goes {va n al : Nat} {f : State → Nat → Result} (hf : ∀ t v, Goes (f t v)) :
    Goes (withRecord s i va n al f) := by
  unfold withRecord
  split
  · exact goes_next _
  · exact goes_next _
  · exact goes_next _
  · exact hf _ _

theorem withSem_goes {a : Word} {op : AmoOp} {rel : Bool} {f : State → Nat → Result} (hf : ∀ t v, Goes (f t v)) :
    Goes (withSem s a op rel f) := by
  unfold withSem
  split
  · exact goes_next _
  · exact goes_next _
  · exact hf _ _

theorem atCore_goes {c : CoreIx} {f : State → Result} (hf : ∀ t, Goes (f t)) : Goes (s.atCore c f) := by
  obtain ⟨t, ht⟩ := hf { s with focus := c }
  unfold State.atCore
  rw [ht]
  exact goes_next _

theorem cfgIssue_goes {w : CfgWhat} {u : Option (BitVec 8)} {a : Src} : Goes (s.cfgIssue w u a d) := by
  unfold State.cfgIssue
  dsimp only
  repeat' split
  all_goals exact goes_next _

theorem startStream_goes {ag slot : Nat} {kind : StreamForm} {r : Shape} {base seed : Word} {konst : Option Word}
    {defer : Bool} : Goes (s.startStream srcs d ag slot kind r base seed konst defer) := by
  unfold State.startStream
  dsimp only
  repeat' split
  all_goals exact goes_next _

theorem strmForm_goes {ag slot : Nat} {a b c : Src} {kind : StreamForm} {base seed : Word} {konst : Option Word}
    {defer : Bool} : Goes (strmForm s i g d ag slot a b c kind base seed konst defer) :=
  cmdForm_goes (withRecord_goes fun _ _ => startStream_goes)

theorem barForm_goes {u : BarUnit} {out : Bool} : Goes (barForm s i g d u out) := by
  refine cmdForm_goes ?_
  dsimp only
  split
  · exact goes_next _
  · exact goes_next _

theorem mxSubmit_goes {w : Word} : Goes (mxSubmit s i srcs d w) := by
  unfold mxSubmit
  dsimp only
  split
  · exact goes_next _
  · exact goes_next _

/-- Where the member table is not there, the form waits or traps. -/
theorem readTable_error_goes {n : Nat} {va : Word} {l : List Word} {r : Result} (h : s.readTable i va n l = .error r) :
    Goes r := by
  induction n generalizing s va l with
  | zero => cases h
  | succ n ih =>
    unfold State.readTable at h
    split at h
    · cases h; exact goes_next _
    · cases h; exact goes_next _
    · cases h; exact goes_next _
    · exact ih h

theorem collForm_goes {a : Src} {form : CollForm} : Goes (collForm s i g d a form) := by
  refine cmdForm_goes (withRecord_goes fun t v => ?_)
  dsimp only
  split
  next h => exact readTable_error_goes h
  next => (repeat' split) <;> exact goes_next _

theorem semTaken_goes {a : Src} {tok : Bool} {sb pa : Nat} {t : BitVec 32} : Goes (s.semTaken i d a tok sb pa t) := by
  unfold State.semTaken
  dsimp only
  repeat' split
  all_goals exact goes_next _

theorem semTaking_goes {a : Src} {tok : Bool} {sb pa : Nat} {t : BitVec 32} : Goes (s.semTaking i d a tok sb pa t) := by
  unfold State.semTaking
  split
  · exact semTaken_goes
  · exact goes_next _

theorem semWaiting_goes {a b : Src} {pa : Nat} : Goes (s.semWaiting i d a b pa) := by
  unfold State.semWaiting
  split
  · exact goes_next _
  · exact goes_next _

theorem kvForm_goes {kind : KvKind} {die : Nat} {ok : Bool} {a b : Word} :
    Goes (kvForm s i g d srcs kind die ok a b) := by
  refine cmdForm_goes ?_
  split
  · exact goes_next _
  · exact goes_next _

end

section
variable {s : State} {op : Nat} {c : CoreIx}

theorem portEvent_goes {mt port : Fin 4} {part : PortPart} : Goes (portEvent op c mt port part s) := by
  cases part <;> exact goes_next _

theorem opEvent_goes {act : Frame → BitVec 8 → (Nat → Option Flit) → OpState → OpAct} {rt : Fin 16} :
    Goes (opEvent op act c rt s) := by
  unfold opEvent
  dsimp only
  split
  · exact goes_next _
  · exact goes_next _
  · exact goes_next _

theorem tagEvent_goes {act : State → Nat → Frame → BitVec 8 → (Nat → Option Flit) → OpState → TagAct} {rt : Fin 16} :
    Goes (tagEvent op act c rt s) := by
  unfold tagEvent
  dsimp only
  repeat' split
  all_goals exact goes_next _

end

/-- Every form of the table answers a next state, family by family; the ends of waits are those of the forms. -/
theorem form_goes (i : Instr) (s : State) (h : (encode i).isSome = true) : Goes (exec i s) := by
  cases i
  case nop | halt | trap | tret | brk | br | call | fence | fenceX | fenceCfg | krd | kwr | kset | kclr | fcmp =>
    exact runForm_goes (goes_next _)
  case wait | ret | jr | loop =>
    refine runForm_goes ?_
    dsimp only
    repeat' split
    all_goals exact goes_next _
  case add | sub | and | or | xor | andn | shl | shr | sra | rol | min | max | minz | maxz | mul | mulh | mulhz |
      div | divz | rem | remz | clz | ctz | popc | sel | bext | bins | addi | andi | ori | xori | shli | shri |
      srai | li | liH | pget | cmpEq | cmpNe | cmpLt | cmpGe | cmpLo | cmpHs | cmpiEq | cmpiNe | cmpiLt | cmpiGe |
      cmpiLo | cmpiHs | pand | por | pxor | pandn | pmov | fadd | fsub | fmul | fdiv | fsqrt | ffma | fmin | fmax
      | fcvt | fclass => exact runForm_goes (goes_next _)
  case ldS8 | ldZ8 | ldS16 | ldZ16 | ldS32 | ldZ32 | ld64 | st8 | st16 | st32 | st64 | amoAdd64 | amoMin64 |
      amoMax64 | amoMinz64 | amoMaxz64 | amoAnd64 | amoOr64 | amoXor64 | amoSwap64 | amoCas64 | amoFadd64 |
      amoAdd32 | amoMin32 | amoMax32 | amoMinz32 | amoMaxz32 | amoAnd32 | amoOr32 | amoXor32 | amoSwap32 |
      amoCas32 | amoFadd32 => exact accessForm_goes
  case cfgFetch | cfgLoad | cfgInband => exact cmdForm_goes cfgIssue_goes
  case cfgEvict =>
    refine cmdForm_goes ?_
    dsimp only
    split
    · split
      · exact goes_next _
      · exact cfgIssue_goes
    · exact goes_next _
    · exact goes_next _
  case strmRd | strmWr | strmInd | strmCst => exact strmForm_goes
  case strmRec =>
    refine cmdForm_goes ?_
    split
    · exact goes_next _
    · exact startStream_goes
  case barRd | barWr => exact barForm_goes
  case collRed | collAttn | collGath | collScat | collBcast | collA2a => exact collForm_goes
  case kvAlloc | kvFree | kvShare | kvMap | kvLimit | kvLend => exact kvForm_goes
  case mxTok =>
    refine cmdForm_goes ?_
    split
    · exact mxSubmit_goes
    · exact goes_next _
  case mxAccclr => exact cmdForm_goes mxSubmit_goes
  case semInit | semAdv => exact cmdForm_goes (withSem_goes fun _ _ => goes_next _)
  case semTake => exact cmdForm_goes (withSem_goes fun _ _ => semTaking_goes)
  case semWait => exact cmdForm_goes (withSem_goes fun _ _ => semWaiting_goes)
  case tplArm | taskSpawn | pairBox =>
    refine cmdForm_goes (withRecord_goes fun _ _ => ?_)
    dsimp only
    repeat' split
    all_goals exact goes_next _
  case cfgTag | tplDisarm | tplStat | qSpace | mxStat | pairStat | taskArg | quiRep =>
    exact cmdForm_goes (goes_next _)
  case cfgProbe | barCfg | barAll | barIf | strmCancel | ctlSet | ctlGo | ctlWait | ctlAbort | tplFire
      | qPush | qPop | qWait | mxAccrd | collWait | pairBin | pairScan | pairClr | taskDone | taskYield |
      taskCancel | frzSave | frzLoad | xlatInv | xlatProbe | xlatRes =>
    refine cmdForm_goes ?_
    dsimp only
    repeat' split
    all_goals exact goes_next _
  case strmStat | quiPoll =>
    refine cmdForm_goes ?_
    split
    · exact goes_next _
    · exact goes_next _
  all_goals exact nomatch h

section
variable {s : State} {c : CoreIx}

theorem execWaitEnd_goes : Goes (execWaitEnd c s) := by
  unfold execWaitEnd
  split
  · split
    · exact goes_next _
    · exact atCore_goes fun t => form_goes (.wait _) t rfl
  · exact goes_next _

theorem execBarrierEnd_goes : Goes (execBarrierEnd c s) := by
  unfold execBarrierEnd
  split
  · exact atCore_goes fun t => form_goes (.barRd _ _ _) t rfl
  · exact atCore_goes fun t => form_goes (.barWr _ _ _) t rfl
  · exact atCore_goes fun t => form_goes (.barAll _ _) t rfl
  · exact atCore_goes fun t => form_goes (.barCfg _ _ _ _ _) t rfl
  · exact atCore_goes fun t => form_goes (.taskDone _) t rfl
  · exact goes_next _

theorem execQueueFormResume_goes : Goes (execQueueFormResume c s) := by
  unfold execQueueFormResume
  split
  · exact atCore_goes fun t => form_goes (.qPush _ _ _ _ _) t rfl
  · exact atCore_goes fun t => form_goes (.qPop _ _ _ _) t rfl
  · exact atCore_goes fun t => form_goes (.qWait _ _ _ _ _) t rfl
  · exact atCore_goes fun t => form_goes (.tplFire _ _ _ _) t rfl
  · exact atCore_goes fun t => form_goes (.mxTok _ _ _) t rfl
  · exact atCore_goes fun t => form_goes (.mxAccrd _ _ _ _ _) t rfl
  · exact atCore_goes fun t => form_goes (.mxAccclr _ _ _) t rfl
  · exact goes_next _

theorem execCtlWaitEnd_goes : Goes (execCtlWaitEnd c s) := by
  unfold execCtlWaitEnd
  split
  · split
    · exact goes_next _
    · exact atCore_goes fun t => form_goes (.ctlWait _ _ _) t rfl
  · exact goes_next _

theorem execCollWaitEnd_goes : Goes (execCollWaitEnd c s) := by
  unfold execCollWaitEnd
  split
  · exact atCore_goes fun t => form_goes (.collWait _ _ _) t rfl
  · exact goes_next _

theorem execQuiPollWaitEnd_goes : Goes (execQuiPollWaitEnd c s) := by
  unfold execQuiPollWaitEnd
  split
  · split
    · exact goes_next _
    · exact atCore_goes fun t => form_goes (.quiPoll _ _ _) t rfl
  · exact goes_next _

theorem execSemRetest_goes : Goes (execSemRetest c s) := by
  unfold execSemRetest
  split
  · split
    · refine atCore_goes fun t => ?_
      split
      · exact semTaken_goes
      · exact semTaking_goes
    · exact atCore_goes fun t => semWaiting_goes
    · exact goes_next _
  · exact goes_next _

end

section
variable {s : State}

theorem execBankAccess_goes {who : Requester} {id seg : Nat} : Goes (execBankAccess who id seg s) := by
  unfold execBankAccess
  repeat' split
  all_goals exact goes_next _

theorem execRemoteReplayFailure_goes {c : CoreIx} {id : Nat} : Goes (execRemoteReplayFailure c id s) := by
  unfold execRemoteReplayFailure
  dsimp only
  repeat' split
  all_goals exact goes_next _

theorem execStoreHomeFailure_goes {c : CoreIx} {id : Nat} : Goes (execStoreHomeFailure c id s) := by
  unfold execStoreHomeFailure
  repeat' split
  all_goals exact goes_next _

theorem execPendingResultWrite_goes {c : CoreIx} {r : Reg} : Goes (execPendingResultWrite c r s) := by
  unfold execPendingResultWrite
  dsimp only
  repeat' split
  all_goals exact goes_next _

theorem execFenceResume_goes {c : CoreIx} : Goes (execFenceResume c s) := by
  unfold execFenceResume
  dsimp only
  repeat' split
  all_goals exact goes_next _

theorem execAsyncTrap_goes {c : CoreIx} : Goes (execAsyncTrap c s) := by
  unfold execAsyncTrap
  dsimp only
  repeat' split
  all_goals exact goes_next _

theorem execProgramPageFill_goes {c : CoreIx} : Goes (execProgramPageFill c s) := by
  unfold execProgramPageFill
  dsimp only
  repeat' split
  all_goals exact goes_next _

theorem execPageWalk_goes {c : CoreIx} {va : Word} : Goes (execPageWalk c va s) := by
  unfold execPageWalk
  dsimp only
  repeat' split
  all_goals exact goes_next _

theorem execDeadlockTrap_goes {c : CoreIx} : Goes (execDeadlockTrap c s) := by
  unfold execDeadlockTrap
  repeat' split
  all_goals exact goes_next _

theorem execQuiescenceVerdict_goes {c : CoreIx} : Goes (execQuiescenceVerdict c s) := by
  unfold execQuiescenceVerdict
  dsimp only
  repeat' split
  all_goals exact goes_next _

theorem execKill_goes {c : CoreIx} {pe : Fin 16} : Goes (execKill c pe s) := by
  unfold execKill
  dsimp only
  repeat' split
  all_goals exact goes_next _

theorem execKillReturn_goes {c : CoreIx} {ch : ChanId} : Goes (execKillReturn c ch s) := by
  unfold execKillReturn
  dsimp only
  repeat' split
  all_goals exact goes_next _

theorem execDigitEmit_goes {c : CoreIx} {pe : Fin 16} : Goes (execDigitEmit c pe s) := by
  unfold execDigitEmit
  dsimp only
  repeat' split
  all_goals exact goes_next _

theorem execPeFire_goes {c : CoreIx} {pe : Fin 16} : Goes (execPeFire c pe s) := by
  unfold execPeFire
  dsimp only
  repeat' split
  all_goals exact goes_next _

theorem execSparseUpdateApply_goes {c : CoreIx} {mt : Fin 4} {bank : Fin 16} {i : Nat} {into : Option Nat} : Goes (execSparseUpdateApply c mt bank i into s) := by
  unfold execSparseUpdateApply
  dsimp only
  repeat' split
  all_goals exact goes_next _

theorem execMxTokenEnqueue_goes {c : CoreIx} : Goes (execMxTokenEnqueue c s) := by
  unfold execMxTokenEnqueue
  dsimp only
  repeat' split
  all_goals exact goes_next _

theorem execAccRd_goes {c : CoreIx} : Goes (execAccRd c s) := by
  unfold execAccRd
  dsimp only
  repeat' split
  all_goals exact goes_next _

theorem execAccClr_goes {c : CoreIx} : Goes (execAccClr c s) := by
  unfold execAccClr
  dsimp only
  repeat' split
  all_goals exact goes_next _

theorem execMatrixStep_goes {c : CoreIx} : Goes (execMatrixStep c s) := by
  unfold execMatrixStep
  dsimp only
  repeat' split
  all_goals exact goes_next _

theorem execConfigRecord_goes {c : CoreIx} {node : NodeId} : Goes (execConfigRecord c node s) := by
  unfold execConfigRecord
  dsimp only
  repeat' split
  all_goals exact goes_next _

theorem execStreamElement_goes {c : CoreIx} {ag : Fin 8} {slot : Fin 4} : Goes (execStreamElement c ag slot s) := by
  unfold execStreamElement
  dsimp only
  repeat' split
  all_goals exact goes_next _

theorem execStreamDone_goes {c : CoreIx} {ag : Fin 8} {slot : Fin 4} : Goes (execStreamDone c ag slot s) := by
  unfold execStreamDone
  dsimp only
  repeat' split
  all_goals exact goes_next _

theorem execStreamCancelComplete_goes {c : CoreIx} {ag : Fin 8} {slot : Fin 4} : Goes (execStreamCancelComplete c ag slot s) := by
  unfold execStreamCancelComplete
  dsimp only
  repeat' split
  all_goals exact goes_next _

theorem execBarIfDecide_goes {c : CoreIx} {ag : Fin 8} {slot : Fin 4} : Goes (execBarIfDecide c ag slot s) := by
  unfold execBarIfDecide
  dsimp only
  repeat' split
  all_goals exact goes_next _

theorem execTemplateFiring_goes {c : CoreIx} {tm : Fin 16} : Goes (execTemplateFiring c tm s) := by
  unfold execTemplateFiring
  dsimp only
  repeat' split
  all_goals exact goes_next _

theorem execCompressPhase_goes {c : CoreIx} {tm : Fin 16} : Goes (execCompressPhase c tm s) := by
  unfold execCompressPhase
  dsimp only
  repeat' split
  all_goals exact goes_next _

theorem execCopyEnd_goes {c : CoreIx} {tm : Fin 16} : Goes (execCopyEnd c tm s) := by
  unfold execCopyEnd
  dsimp only
  repeat' split
  all_goals exact goes_next _

theorem execSbPush_goes {c : CoreIx} {sb : Fin 16} : Goes (execSbPush c sb s) := by
  unfold execSbPush
  dsimp only
  repeat' split
  all_goals exact goes_next _

theorem execSbPop_goes {c : CoreIx} {sb : Fin 16} : Goes (execSbPop c sb s) := by
  unfold execSbPop
  dsimp only
  repeat' split
  all_goals exact goes_next _

theorem execFrameInstall_goes {c : CoreIx} {i : Nat} : Goes (execFrameInstall c i s) := by
  unfold execFrameInstall
  repeat' split
  all_goals exact goes_next _

theorem execDemandFill_goes {c : CoreIx} {node : NodeId} : Goes (execDemandFill c node s) := by
  unfold execDemandFill
  dsimp only
  repeat' split
  all_goals exact goes_next _

theorem execEvictDrainClear_goes {c : CoreIx} {i : Nat} : Goes (execEvictDrainClear c i s) := by
  unfold execEvictDrainClear
  dsimp only
  repeat' split
  all_goals exact goes_next _

theorem execPermit_goes {c : CoreIx} {ct : Fin 8} : Goes (execPermit c ct s) := by
  unfold execPermit
  dsimp only
  repeat' split
  all_goals exact goes_next _

theorem execDoneToken_goes {c : CoreIx} {ct : Fin 8} : Goes (execDoneToken c ct s) := by
  unfold execDoneToken
  dsimp only
  repeat' split
  all_goals exact goes_next _

theorem execIterationOpen_goes {c : CoreIx} {ct : Fin 8} : Goes (execIterationOpen c ct s) := by
  unfold execIterationOpen
  dsimp only
  repeat' split
  all_goals exact goes_next _

theorem execFreeze_goes {d : DieIx} : Goes (execFreeze d s) := by
  unfold execFreeze
  repeat' split
  all_goals exact goes_next _

theorem execTaskRetire_goes {d : DieIx} {q : Fin 16} {slot : BitVec 8} : Goes (execTaskRetire d q slot s) := by
  unfold execTaskRetire
  dsimp only
  repeat' split
  all_goals exact goes_next _

theorem execPreempt_goes {d : DieIx} : Goes (execPreempt d s) := by
  unfold execPreempt
  dsimp only
  repeat' split
  all_goals exact goes_next _

theorem execCollRendezvous_goes {team : BitVec 16} {v : Rendezvous} : Goes (execCollRendezvous team v s) := by
  unfold execCollRendezvous
  dsimp only
  repeat' split
  all_goals exact goes_next _

theorem execCollCombine_goes {team seq : BitVec 16} {t : Arrival} : Goes (execCollCombine team seq t s) := by
  unfold execCollCombine
  repeat' split
  all_goals exact goes_next _

theorem execRingPass_goes {c : CoreIx} {slot : Fin 8} : Goes (execRingPass c slot s) := by
  unfold execRingPass
  dsimp only
  repeat' split
  all_goals exact goes_next _

theorem execPairHomeCell_goes {k : ClusterIx} : Goes (execPairHomeCell k s) := by
  unfold execPairHomeCell
  dsimp only
  repeat' split
  all_goals exact goes_next _

theorem execPairRecordPush_goes {k : ClusterIx} : Goes (execPairRecordPush k s) := by
  unfold execPairRecordPush
  dsimp only
  repeat' split
  all_goals exact goes_next _

theorem execKvRequestRoute_goes {i : Nat} : Goes (execKvRequestRoute i s) := by
  unfold execKvRequestRoute
  dsimp only
  repeat' split
  all_goals exact goes_next _

theorem execPlainDelivery_goes {k : ClusterIx} {i : Nat} : Goes (execPlainDelivery k i s) := by
  unfold execPlainDelivery
  dsimp only
  repeat' split
  all_goals exact goes_next _

theorem execPlainElementFire_goes {k : ClusterIx} {e : Fin 128} : Goes (execPlainElementFire k e s) := by
  unfold execPlainElementFire
  dsimp only
  repeat' split
  all_goals exact goes_next _

theorem execPassOutbound_goes {c : CoreIx} : Goes (execPassOutbound c s) := by
  unfold execPassOutbound
  dsimp only
  repeat' split
  all_goals exact goes_next _

theorem execRecoveryFetch_goes : Goes (execRecoveryFetch s) := by
  unfold execRecoveryFetch
  dsimp only
  repeat' split
  all_goals exact goes_next _

theorem execBoot_goes : Goes (execBoot s) := by
  unfold execBoot
  dsimp only
  repeat' split
  all_goals exact goes_next _

theorem execSpdmMeasurement_goes {index : Fin 5} : Goes (execSpdmMeasurement index s) := by
  unfold execSpdmMeasurement
  repeat' split
  all_goals exact goes_next _

theorem execHostAccess_goes {r : HostReq} : Goes (execHostAccess r s) := by
  unfold execHostAccess
  dsimp only
  repeat' split
  all_goals exact goes_next _

theorem execHostAtomicop_goes {r : HostAtomic} : Goes (execHostAtomicop r s) :=
  goes_ite (goes_ite (goes_next _) (goes_next _)) (goes_next _)

theorem execRemoteAccess_goes {r : RemoteReq} : Goes (execRemoteAccess r s) := by
  obtain ⟨pkg, core, addr, op⟩ := r
  cases op with
  | read n =>
    exact goes_ite (goes_next _) (goes_ite (goes_next _) (goes_ite (goes_next _) (goes_ite (goes_next _) (goes_next _))))
  | write bs => exact goes_ite (goes_next _) (goes_ite (goes_next _) (goes_ite (goes_next _) (goes_next _)))
  | amo o wide x y => exact goes_ite (goes_next _) (goes_ite (goes_next _) (goes_next _))

theorem execRegisterWrite_goes {r : PlainReg} {v : Word} : Goes (execRegisterWrite r v s) := by
  unfold execRegisterWrite
  dsimp only
  repeat' split
  all_goals exact goes_next _

theorem execAtsTranslationCompletion_goes {page frame : BitVec 34} : Goes (execAtsTranslationCompletion page frame s) := by
  unfold execAtsTranslationCompletion
  dsimp only
  repeat' split
  all_goals exact goes_next _

theorem execTqSecondHalfWrite_goes {d : DieIx} {q : Fin 16} {v : BitVec 512} : Goes (execTqSecondHalfWrite d q v s) := by
  unfold execTqSecondHalfWrite
  repeat' split
  all_goals exact goes_next _

theorem execFzareaWrite_goes {d : DieIx} {v : Word} : Goes (execFzareaWrite d v s) := by
  unfold execFzareaWrite
  dsimp only
  repeat' split
  all_goals exact goes_next _

theorem execKvPoolWrite_goes {d : DieIx} {r : KvPoolReg} {v : Word} : Goes (execKvPoolWrite d r v s) := by
  unfold execKvPoolWrite
  dsimp only
  repeat' split
  all_goals exact goes_next _

theorem execDmaWindowWrite_goes {n : Fin 8} {limit : Bool} {v : Word} : Goes (execDmaWindowWrite n limit v s) := by
  unfold execDmaWindowWrite
  dsimp only
  repeat' split
  all_goals exact goes_next _

theorem execRouteTableWrite_goes {p : Fin 512} {v : BitVec 16} : Goes (execRouteTableWrite p v s) := by
  unfold execRouteTableWrite
  dsimp only
  repeat' split
  all_goals exact goes_next _

theorem execCycleStretch_goes {d : DieIx} : Goes (execCycleStretch d s) := by
  unfold execCycleStretch
  dsimp only
  repeat' split
  all_goals exact goes_next _

theorem execStanumPortTraining_goes {p : Fin 18} {up : Bool} : Goes (execStanumPortTraining p up s) := by
  unfold execStanumPortTraining
  dsimp only
  repeat' split
  all_goals exact goes_next _

end

end Sys2Proof.Proofs
end

section
namespace Sys2Proof.Proofs
open Sys2Proof.Machine Sys2Proof.Laws

/-- Every event answers a next state; one whose condition does not hold answers the state it was given. -/
theorem event_goes (i : Instr) (s : State) (h : encode i = none) : Goes (exec i s) := by
  cases i
  case routerForward | mma | mmaAcc | streamWrite | fabricCycle | taskReady | schedulerBind | passInbound |
      coldreset | warmreset | atsInvalidation | tqFirstHalfWrite | taskCounterWrite | fqpop | dwlock |
      stlinkWrite | clockStepChange | linkRetrainFailure | ktimeTick | stretchRelease | atsDisable |
      reservedOpcode =>
    exact goes_next _
  case steer | carry | invar | merge | join | order | arb =>
    dsimp only [exec, execSteer, execCarry, execInvar, execMerge, execJoin, execOrder, execArb]
    exact opEvent_goes
  case tagin | tagout =>
    dsimp only [exec, execTagin, execTagout]
    exact tagEvent_goes
  case mld | mst | gath | scat | upd | dep => exact portEvent_goes
  case bankAccess => exact execBankAccess_goes
  case remoteReplayFailure => exact execRemoteReplayFailure_goes
  case storeHomeFailure => exact execStoreHomeFailure_goes
  case pendingResultWrite => exact execPendingResultWrite_goes
  case fenceResume => exact execFenceResume_goes
  case asyncTrap => exact execAsyncTrap_goes
  case programPageFill => exact execProgramPageFill_goes
  case pageWalk => exact execPageWalk_goes
  case deadlockTrap => exact execDeadlockTrap_goes
  case quiescenceVerdict => exact execQuiescenceVerdict_goes
  case kill => exact execKill_goes
  case killReturn => exact execKillReturn_goes
  case digitEmit => exact execDigitEmit_goes
  case peFire => exact execPeFire_goes
  case sparseUpdateApply => exact execSparseUpdateApply_goes
  case mxTokenEnqueue => exact execMxTokenEnqueue_goes
  case accRd => exact execAccRd_goes
  case accClr => exact execAccClr_goes
  case matrixStep => exact execMatrixStep_goes
  case configRecord => exact execConfigRecord_goes
  case streamElement => exact execStreamElement_goes
  case streamDone => exact execStreamDone_goes
  case streamCancelComplete => exact execStreamCancelComplete_goes
  case barIfDecide => exact execBarIfDecide_goes
  case templateFiring => exact execTemplateFiring_goes
  case compressPhase => exact execCompressPhase_goes
  case copyEnd => exact execCopyEnd_goes
  case sbPush => exact execSbPush_goes
  case sbPop => exact execSbPop_goes
  case frameInstall => exact execFrameInstall_goes
  case demandFill => exact execDemandFill_goes
  case evictDrainClear => exact execEvictDrainClear_goes
  case permit => exact execPermit_goes
  case doneToken => exact execDoneToken_goes
  case iterationOpen => exact execIterationOpen_goes
  case freeze => exact execFreeze_goes
  case taskRetire => exact execTaskRetire_goes
  case preempt => exact execPreempt_goes
  case collRendezvous => exact execCollRendezvous_goes
  case collCombine => exact execCollCombine_goes
  case ringPass => exact execRingPass_goes
  case pairHomeCell => exact execPairHomeCell_goes
  case pairRecordPush => exact execPairRecordPush_goes
  case kvRequestRoute => exact execKvRequestRoute_goes
  case plainDelivery => exact execPlainDelivery_goes
  case plainElementFire => exact execPlainElementFire_goes
  case passOutbound => exact execPassOutbound_goes
  case recoveryFetch => exact execRecoveryFetch_goes
  case boot => exact execBoot_goes
  case spdmMeasurement => exact execSpdmMeasurement_goes
  case hostAccess => exact execHostAccess_goes
  case hostAtomicop => exact execHostAtomicop_goes
  case remoteAccess => exact execRemoteAccess_goes
  case registerWrite => exact execRegisterWrite_goes
  case atsTranslationCompletion => exact execAtsTranslationCompletion_goes
  case tqSecondHalfWrite => exact execTqSecondHalfWrite_goes
  case fzareaWrite => exact execFzareaWrite_goes
  case kvPoolWrite => exact execKvPoolWrite_goes
  case dmaWindowWrite => exact execDmaWindowWrite_goes
  case routeTableWrite => exact execRouteTableWrite_goes
  case cycleStretch => exact execCycleStretch_goes
  case stanumPortTraining => exact execStanumPortTraining_goes
  case waitEnd => exact execWaitEnd_goes
  case barrierEnd => exact execBarrierEnd_goes
  case queueFormResume => exact execQueueFormResume_goes
  case ctlWaitEnd => exact execCtlWaitEnd_goes
  case collWaitEnd => exact execCollWaitEnd_goes
  case quiPollWaitEnd => exact execQuiPollWaitEnd_goes
  case semRetest => exact execSemRetest_goes
  all_goals exact nomatch h

/-- Every instruction and every event answers a next state. -/
theorem exec_goes (i : Instr) (s : State) : Goes (exec i s) := by
  rcases h : encode i with _ | w
  · exact event_goes i s h
  · exact form_goes i s (by rw [h]; rfl)

end Sys2Proof.Proofs
end

section
/-!
What one step can be: a fault of a stopped package, or what a form or an event answers. A set of states that the bookkeeping of
a step keeps and a property of its answers go through it.
-/
namespace Sys2Proof.Proofs
open Sys2Proof.Machine Sys2Proof.Laws

section
variable {Q : State → Prop} {R : Result → Prop} (execs : ∀ i t, Q t → R (exec i t))
include execs

theorem stepPlan_of (plans : ∀ t c i u, Q t → t.plan c = .run i u → Q u) {s t : State} {c : CoreIx}
    {k : State → Result} (hs : Q s) (hk : R (k t)) : R (stepPlan (s.plan c) t k) := by
  unfold stepPlan
  split
  · exact hk
  next i u hp =>
    have hr := execs i u (plans s c i u hs hp)
    split
    next v hv =>
      split
      · exact hk
      · rwa [hv] at hr
    · exact hr

theorem stepUnits_of (next : ∀ t, Q t → R (.next t)) {s : State}
    (turn : ∀ n c, Q { s with rota := n, focus := c }) : R (stepUnits s) := by
  unfold stepUnits
  split
  next f hf =>
    obtain ⟨i, -, hi⟩ := Turns.turn_all s f (List.mem_of_getElem? hf)
    rw [hi]
    exact execs i _ (turn _ s.focus)
  · split
    · exact next _ (turn 0 _)
    · exact execs .fabricCycle _ (turn 0 _)

/-- The cases of `step`, for a state in Q whatever its agenda and its place in the turn are. -/
theorem step_of (plans : ∀ t c i u, Q t → t.plan c = .run i u → Q u) (next : ∀ t, Q t → R (.next t)) {s : State}
    (stop : s.stopped = true → R (.fault .packageStopped)) (hs : Q s)
    (rest : ∀ l, Q { s with agenda := l }) (turn : ∀ n c, Q { s with rota := n, focus := c }) : R (step s) := by
  unfold step
  split
  next i l _ =>
    split
    next h => exact stop (by simp_all [State.mayStep])
    · split
      · exact execs i _ (rest l)
      · exact next _ (rest l)
  next c l _ =>
    split
    next h => exact stop h
    · exact stepPlan_of execs plans (rest l) (next _ (rest l))
  · split
    next h => exact stop h
    · exact stepPlan_of execs plans hs (stepUnits_of execs next turn)

end

/-- Settles O60: every form and every event goes on, and with it every step of a package that has not stopped. -/
theorem everyFormAndEventGoesOn : Obligations.EveryFormAndEventGoesOn :=
  ⟨exec_goes, fun _ hs => step_of (Q := fun _ => True) (R := Goes) (fun i t _ => exec_goes i t)
    (fun _ _ _ _ _ _ => trivial) (fun t _ => goes_next t) (fun h => absurd (h.symm.trans hs) nofun) trivial (fun _ => trivial) fun _ _ => trivial⟩

/-- Settles O59: a form and an event keep the memory's canonical form, and the rest of a step does not touch the memory. -/
theorem stepKeepsMemoryCanonical : Obligations.StepKeepsMemoryCanonical := fun _ t hs ht =>
  (step_of (Q := Canon.Wf) (R := Canon.okR) Canon.exec_wf
    (fun _ _ _ _ hw hp => Canon.of_plan hp (Canon.plan_wf _ _ hw)) (fun _ => Canon.next_ok) (fun _ => Canon.stop_ok _) hs (fun _ => hs) fun _ _ => hs).of t ht

end Sys2Proof.Proofs
end

section
/-!
The checks of R107 that trap: a vacant source with VSTRICT = 1 (R99, R137), and a privileged form in task mode.
-/
namespace Sys2Proof.Proofs
open Sys2Proof.Machine Sys2Proof.Laws

theorem firstVacant_append {x : Regs} {l r : List Src} {a : Src} (hl : ∀ b ∈ l, x.vacant b.reg = false)
    (ha : x.vacant a.reg = true) : x.firstVacant (l ++ a :: r) = some a.reg := by
  induction l with
  | nil => exact if_pos ha
  | cons b l ih =>
    obtain ⟨hb, hl⟩ := List.forall_mem_cons.1 hl
    rw [List.cons_append, Regs.firstVacant, hb]
    exact ih hl

/-- A form with a source reads its sources and nothing else; `loop`, which reads its counter, has none. -/
theorem readsOf_of_srcsOf {i : Instr} {l r : List Src} {a : Src} (h : srcsOf i = l ++ a :: r) :
    readsOf i = l ++ a :: r := by
  unfold readsOf
  split
  next => exact absurd h.symm (List.append_ne_nil_of_right_ne_nil _ (List.cons_ne_nil _ _))
  next => exact h

/-- Settles O6: every form's own effect stands behind the check of its reads, which finds the first vacant one. -/
theorem vacantReadTraps : Obligations.VacantReadTraps := by
  intro i s l r a henc hsrcs hg hpriv hstrict ha hl
  obtain ⟨k, hk⟩ := exec_eq_runForm i s henc
  rw [readsOf_of_srcsOf hsrcs] at hk
  exact hk.trans (runForm_vacant hg hpriv hstrict (firstVacant_append hl ha))

/-- The five k-registers that task mode does not write (R138). -/
theorem kregSystem_iff (k : KReg) :
    kregSystem k = true ↔ k = .kcause ∨ k = .kepc ∨ k = .ktval ∨ k = .ktvec ∨ k = .kscratch := by
  cases k <;> decide

theorem wordOf_of_encode {i : Instr} {w : Word} (h : encode i = some w) : wordOf i = w := by
  unfold wordOf
  split
  next => exact nomatch h
  next => rw [h]; rfl

/-- Settles O7: the check of the privilege comes before the form's own effect; the forms it is made for are those whose arm
of `privileged` is not `false`. -/
theorem privilegedFormsTrap : Obligations.PrivilegedFormsTrap := by
  refine ⟨fun i s w hw hp hg hs => ?_, fun i => ⟨fun h => ?_, ?_⟩⟩
  · obtain ⟨k, hk⟩ := exec_eq_runForm i s (by rw [hw]; rfl)
    rw [hp, runForm_priv hg hs, wordOf_of_encode hw] at hk
    exact hk
  · cases i
    case halt | tret | frzSave | frzLoad | xlatInv | xlatProbe | xlatRes => simp
    case kwr g k a => exact .inr <| .inr <| .inr <| .inr <| .inr <| .inr <| .inr ⟨g, k, a, .inl rfl, (kregSystem_iff k).1 h⟩
    case kset g k a =>
      exact .inr <| .inr <| .inr <| .inr <| .inr <| .inr <| .inr ⟨g, k, a, .inr (.inl rfl), (kregSystem_iff k).1 h⟩
    case kclr g k a =>
      exact .inr <| .inr <| .inr <| .inr <| .inr <| .inr <| .inr ⟨g, k, a, .inr (.inr rfl), (kregSystem_iff k).1 h⟩
    all_goals exact nomatch h
  · rintro (⟨g, rfl⟩ | ⟨g, rfl⟩ | ⟨g, d, a, b, rfl⟩ | ⟨g, d, a, q, rfl⟩ | ⟨g, d, a, b, c, m, rfl⟩ | ⟨g, d, a, b, l, rfl⟩
      | ⟨g, d, u, a, t, rfl⟩ | ⟨g, k, a, rfl | rfl | rfl, hk⟩)
    · rfl
    · rfl
    · rfl
    · rfl
    · rfl
    · rfl
    · rfl
    all_goals exact (kregSystem_iff k).2 hk

end Sys2Proof.Proofs
end

section
/-!
Integer results as numbers (R151, R154-R157).
-/
namespace Sys2Proof.Proofs
open Sys2Proof.Machine Sys2Proof.Laws

theorem add_eq_word (a b : Word) : a + b = word (a.toNat + b.toNat) := by
  rw [word, BitVec.ofNat_add, BitVec.ofNat_toNat, BitVec.ofNat_toNat, BitVec.setWidth_eq, BitVec.setWidth_eq]

theorem ofInt_toNat (a : Word) : BitVec.ofInt 64 a.toNat = a := by
  rw [BitVec.ofInt_natCast, BitVec.ofNat_toNat, BitVec.setWidth_eq]

theorem sub_eq_ofInt (a b : Word) : a - b = BitVec.ofInt 64 (a.toNat - b.toNat) := by
  rw [Int.sub_eq_add_neg, BitVec.ofInt_add, BitVec.ofInt_neg, ofInt_toNat, ofInt_toNat, BitVec.sub_eq_add_neg]

theorem mul_eq_word (a b : Word) : a * b = word (a.toNat * b.toNat) := by
  rw [word, BitVec.ofNat_mul, BitVec.ofNat_toNat, BitVec.ofNat_toNat, BitVec.setWidth_eq, BitVec.setWidth_eq]

theorem shiftCount_eq (b : Word) : shiftCount b = b.toNat % 64 := by simp [shiftCount, bits]

theorem ushiftRight_eq_word (a : Word) (n : Nat) : a >>> n = word (a.toNat / 2 ^ n) := by
  apply BitVec.eq_of_toNat_eq
  rw [BitVec.toNat_ushiftRight, Nat.shiftRight_eq_div_pow, BitVec.toNat_ofNat,
    Nat.mod_eq_of_lt (Nat.lt_of_le_of_lt (Nat.div_le_self _ _) a.isLt)]

theorem sshiftRight_eq_ofInt (a : Word) (n : Nat) : a.sshiftRight n = BitVec.ofInt 64 (a.toInt / 2 ^ n) := by
  rw [BitVec.sshiftRight, Int.shiftRight_eq_div_pow]
  rfl

theorem rotateLeft_eq_word (a : Word) {n : Nat} (h : n < 64) :
    a.rotateLeft n = word (a.toNat * 2 ^ n) ||| word (a.toNat / 2 ^ (64 - n)) := by
  rw [BitVec.rotateLeft_eq_rotateLeftAux_of_lt h, BitVec.rotateLeftAux, shiftLeft_eq_word, ushiftRight_eq_word]

/-- Whether the strict or the weak order picks the smaller, it is the same number. -/
theorem ite_slt {α : Type} {a b : Word} {x y : α} (h : a = b → x = y) :
    (if a.slt b then x else y) = if a.toInt ≤ b.toInt then x else y := by
  rw [BitVec.slt_eq_decide]
  rcases Int.lt_trichotomy a.toInt b.toInt with hlt | heq | hgt
  · simp [hlt, Int.le_of_lt hlt]
  · simp [heq, h (BitVec.toInt_inj.1 heq)]
  · simp [Int.not_lt.2 (Int.le_of_lt hgt), Int.not_le.2 hgt]

theorem ite_lt {α : Type} {a b : Word} {x y : α} (h : a = b → x = y) :
    (if a < b then x else y) = if a.toNat ≤ b.toNat then x else y := by
  simp only [BitVec.lt_def]
  rcases Nat.lt_trichotomy a.toNat b.toNat with hlt | heq | hgt
  · simp [hlt, Nat.le_of_lt hlt]
  · simp [heq, h (BitVec.toNat_inj.1 heq)]
  · simp [Nat.not_lt.2 (Nat.le_of_lt hgt), Nat.not_le.2 hgt]

theorem mulHigh_eq (x y : Int) : mulHigh x y = BitVec.ofInt 64 (x * y / 2 ^ 64) := by
  rw [mulHigh, Int.fdiv_eq_ediv_of_nonneg _ (by decide), u64]

theorem mulHigh_toNat (a b : Word) : mulHigh a.toNat b.toNat = word (a.toNat * b.toNat / 2 ^ 64) := by
  have h : (a.toNat * b.toNat / 2 ^ 64 : Int) = (a.toNat * b.toNat / 2 ^ 64 : Nat) := by omega
  rw [mulHigh_eq, h, BitVec.ofInt_natCast]

/-- What the number of leading zeros says of the low n bits: so many from the top are 0, and the next one is 1. -/
theorem leadingZeros_spec (w : Word) (n : Nat) :
    leadingZeros w n ≤ n ∧ (∀ j, j < leadingZeros w n → w.getLsbD (n - 1 - j) = false)
      ∧ (leadingZeros w n < n → w.getLsbD (n - 1 - leadingZeros w n) = true) := by
  induction n with
  | zero => simp [leadingZeros]
  | succ n ih =>
    obtain ⟨hle, hzero, hone⟩ := ih
    rw [leadingZeros]
    by_cases hb : w.getLsbD n = true
    · simp [hb]
    · rw [if_neg hb]
      refine ⟨by omega, fun j hj => ?_, fun hlt => ?_⟩
      · cases j with
        | zero => simpa using hb
        | succ j => rw [show n + 1 - 1 - (j + 1) = n - 1 - j by omega]; exact hzero j (by omega)
      · rw [show n + 1 - 1 - (1 + leadingZeros w n) = n - 1 - leadingZeros w n by omega]
        exact hone (by omega)

/-- What the number of trailing zeros says of the n bits from bit i on. -/
theorem trailingZeros_spec (w : Word) (i n : Nat) :
    trailingZeros w i n ≤ n ∧ (∀ j, j < trailingZeros w i n → w.getLsbD (i + j) = false)
      ∧ (trailingZeros w i n < n → w.getLsbD (i + trailingZeros w i n) = true) := by
  induction n generalizing i with
  | zero => simp [trailingZeros]
  | succ n ih =>
    obtain ⟨hle, hzero, hone⟩ := ih (i + 1)
    rw [trailingZeros]
    by_cases hb : w.getLsbD i = true
    · simp [hb]
    · rw [if_neg hb]
      refine ⟨by omega, fun j hj => ?_, fun hlt => ?_⟩
      · cases j with
        | zero => simpa using hb
        | succ j => rw [show i + (j + 1) = i + 1 + j by omega]; exact hzero j (by omega)
      · rw [← Nat.add_assoc]
        exact hone (by omega)

theorem popCount_eq (w : Word) (n : Nat) : popCount w n = (List.range n).countP fun j => w.getLsbD j := by
  induction n with
  | zero => rfl
  | succ n ih => rw [popCount, ih, List.range_succ, List.countP_append, List.countP_singleton, Nat.add_comm]

/-- Settles O10: each form writes its operation, which is the rule's operation on numbers. -/
theorem integerResults : Obligations.IntegerResults := by
  intro s g d a b p
  dsimp only
  rw [← shiftCount_eq]
  refine ⟨fun h => ⟨?_, ?_, ?_, ?_, ?_, ?_, ?_, ?_, ?_, ?_, ?_, ?_, ?_, ?_, ?_, ?_, ?_, ?_⟩, fun h => ⟨?_, ?_, ?_⟩⟩
  · exact writes_alu h rfl (add_eq_word _ _)
  · exact writes_alu h rfl (sub_eq_ofInt _ _)
  · exact writes_alu h rfl rfl
  · exact writes_alu h rfl rfl
  · exact writes_alu h rfl rfl
  · exact writes_alu h rfl rfl
  · exact writes_alu h rfl (shiftLeft_eq_word _ _)
  · exact writes_alu h rfl (ushiftRight_eq_word _ _)
  · exact writes_alu h rfl (sshiftRight_eq_ofInt _ _)
  · exact writes_alu h rfl (rotateLeft_eq_word _ (by rw [shiftCount_eq]; exact Nat.mod_lt _ (by decide)))
  · exact writes_alu h rfl (ite_slt fun e => e)
  · exact writes_alu h rfl (ite_slt fun e => e.symm)
  · exact writes_alu h rfl (ite_lt fun e => e)
  · exact writes_alu h rfl (ite_lt fun e => e.symm)
  · exact writes_alu h rfl (mul_eq_word _ _)
  · exact writes_alu h rfl (mulHigh_eq _ _)
  · exact writes_alu h rfl (mulHigh_toNat _ _)
  · exact writes_alu h rfl rfl
  · exact ⟨_, writes_alu h rfl rfl, leadingZeros_spec (s.cp.val a) 64⟩
  · refine ⟨_, writes_alu h rfl rfl, ?_⟩
    simpa using trailingZeros_spec (s.cp.val a) 0 64
  · exact writes_alu h rfl (by rw [popCount_eq])

theorem add_immWord (a : Word) (imm : BitVec 37) : a + immWord imm = BitVec.ofInt 64 (a.toNat + imm.toInt) := by
  rw [BitVec.ofInt_add, ofInt_toNat]
  rfl

/-- `li.h` puts its immediate above bits 36:0 of A. -/
theorem liH_eq_word (a : Word) (h : BitVec 27) :
    h ++ a.extractLsb' 0 37 = word (a.toNat % 2 ^ 37 + h.toNat * 2 ^ 37) := by
  apply BitVec.eq_of_toNat_eq
  rw [BitVec.toNat_append, Nat.shiftLeft_eq, Nat.mul_comm, ← Nat.two_pow_add_eq_or_of_lt (BitVec.isLt _)]
  have := h.isLt
  simp only [BitVec.extractLsb'_toNat, BitVec.toNat_ofNat, Nat.shiftRight_zero]
  omega

/-- Settles O13: the immediate is sign-extended by the word of its signed value. -/
theorem immediateResults : Obligations.ImmediateResults := by
  refine fun s g d a imm n i => ⟨fun h => ⟨?_, ?_, ?_, ?_, ?_, ?_, ?_, ?_⟩, fun h => writes_alu h rfl rfl⟩
  · exact writes_alu h rfl (add_immWord _ _)
  · exact writes_alu h rfl rfl
  · exact writes_alu h rfl rfl
  · exact writes_alu h rfl rfl
  · exact writes_alu h rfl (shiftLeft_eq_word _ _)
  · exact writes_alu h rfl (ushiftRight_eq_word _ _)
  · exact writes_alu h rfl (sshiftRight_eq_ofInt _ _)
  · exact writes_alu h rfl (liH_eq_word _ _)

theorem not_slt (a b : Word) : (!a.slt b) = decide (b.toInt ≤ a.toInt) := by
  rw [BitVec.slt_eq_decide, ← decide_not]
  exact decide_eq_decide.2 Int.not_lt

theorem not_ult (a b : Word) : (!a.ult b) = decide (b.toNat ≤ a.toNat) := by
  rw [BitVec.ult, ← decide_not]
  exact decide_eq_decide.2 Nat.not_lt

theorem bne_eq_decide (a b : Word) : (a != b) = decide (a ≠ b) := (decide_not (p := a = b)).symm

/-- Settles O14: the relations of words are those of the numbers. -/
theorem compareAndPredicateForms : Obligations.CompareAndPredicateForms := by
  refine fun s g d r a b imm p q =>
    ⟨fun h => ⟨?_, ?_, ?_, ?_, ?_, ?_⟩, fun h => ⟨?_, ?_, ?_, ?_, ?_, ?_⟩, fun h => ⟨?_, ?_, ?_, ?_, ?_, ?_⟩⟩
  · exact decides_pred h rfl rfl
  · exact decides_pred h rfl (bne_eq_decide _ _)
  · exact decides_pred h rfl BitVec.slt_eq_decide
  · exact decides_pred h rfl (not_slt _ _)
  · exact decides_pred h rfl rfl
  · exact decides_pred h rfl (not_ult _ _)
  · exact decides_pred h rfl rfl
  · exact decides_pred h rfl (bne_eq_decide _ _)
  · exact decides_pred h rfl BitVec.slt_eq_decide
  · exact decides_pred h rfl (not_slt _ _)
  · exact decides_pred h rfl rfl
  · exact decides_pred h rfl (not_ult _ _)
  · exact decides_pred h rfl rfl
  · exact decides_pred h rfl rfl
  · exact decides_pred h rfl rfl
  · exact decides_pred h rfl rfl
  · exact decides_pred h rfl rfl
  · exact writes_alu h rfl rfl

theorem aligned8_iff (a : Word) : aligned8 a = true ↔ a.toNat % 8 = 0 := beq_iff_eq

/-- A form that jumps to `pc`, perhaps with a result in a register, ends there. -/
theorem ends_retireTo (s : State) (srcs : List Src) (pc : Word) :
    Ends s (s.modCp fun x => x.retireTo srcs pc id) srcs pc none none (kAfter s srcs) :=
  ends_modCp rfl (retireTo_k pc s.cp) rfl

theorem ends_retireTo_put (s : State) (srcs : List Src) (pc : Word) (d : Reg) (v : Word) :
    Ends s (s.modCp fun x => x.retireTo srcs pc fun y => y.put d v) srcs pc (some (d, v)) none (kAfter s srcs) :=
  ends_modCp rfl (retireTo_k pc s.cp) rfl

/-- With no sources nothing vacant is read. -/
theorem kAfter_nil (s : State) : kAfter s [] = s.cp.k := by simp [kAfter]

/-- Settles O15: br and call go to `branchTarget`; ret and jr to A behind the check of its alignment. -/
theorem branches : Obligations.Branches := by
  intro s g d a off
  dsimp only
  rw [← branchTarget_eq, ← aligned8_iff, ← kAfter_nil]
  refine ⟨fun h => ⟨⟨_, ready_run h, ends_retireTo s [] _⟩, ⟨_, ready_run h, ends_retireTo_put s [] _ d _⟩⟩,
    fun h ha => ⟨⟨_, (ready_run h).trans (if_pos ha), ends_retireTo s [a] _⟩,
      ⟨_, (ready_run h).trans (if_pos ha), ends_retireTo_put s [a] _ d _⟩⟩,
    fun h ha => ?_⟩
  have hn := mt (aligned8_iff _).1 ha
  exact ⟨(ready_run h).trans (if_neg hn), (ready_run h).trans (if_neg hn)⟩

end Sys2Proof.Proofs
end

section
/-!
The k-registers (R139, R160): what `krd` reads as numbers, and the fields that the writing forms change.
-/
namespace Sys2Proof.Proofs
open Sys2Proof.Machine Sys2Proof.Laws

theorem boolWord_eq (b : Bool) : boolWord b = word b.toNat := by cases b <;> rfl

theorem setWidth_eq_word {n : Nat} (x : BitVec n) : x.setWidth 64 = word x.toNat := (BitVec.ofNat_toNat 64 x).symm

theorem eq_word_toNat (x : Word) : x = word x.toNat := (BitVec.setWidth_eq x).symm.trans (setWidth_eq_word x)

/-- A field above others is added to them. -/
theorem word_or_word {a b k : Nat} (h : b < 2 ^ k) : word (a * 2 ^ k) ||| word b = word (a * 2 ^ k + b) := by
  rw [Nat.mul_comm, Nat.two_pow_add_eq_or_of_lt h, word, word, word, BitVec.ofNat_or]

/-- A register of two fields, the upper one at bit k. -/
theorem fields_eq_word {m n : Nat} (x : BitVec m) (y : BitVec n) (k : Nat) (h : n ≤ k) :
    x.setWidth 64 <<< k ||| y.setWidth 64 = word (x.toNat * 2 ^ k + y.toNat) := by
  rw [setWidth_eq_word, setWidth_eq_word, word_shiftLeft,
    word_or_word (Nat.lt_of_lt_of_le y.isLt (Nat.pow_le_pow_right (by decide) h))]

/-- The four bits of KSTAT. -/
theorem kstat_eq_word (p s r v : Bool) :
    boolWord p <<< 5 ||| boolWord s <<< 4 ||| boolWord r <<< 1 ||| boolWord v
      = word (p.toNat * 32 + s.toNat * 16 + r.toNat * 2 + v.toNat) := by
  cases p <;> cases s <;> cases r <;> cases v <;> decide

theorem originId_lt (c : CoreIx) : originId c.val 0 < 2 ^ 18 := by
  have := c.isLt
  unfold originId
  omega

/-- KCORE: the package above the core's origin id. -/
theorem kcore_eq_word {n : Nat} (x : BitVec n) (c : CoreIx) :
    x.setWidth 64 <<< 18 ||| word (originId c.val 0) = word (x.toNat * 2 ^ 18 + originId c.val 0) := by
  rw [setWidth_eq_word, word_shiftLeft, word_or_word (originId_lt c)]

/-- KGROUP: FIRST above RANK above SHAPE. -/
theorem kgroup_eq_word (f : BitVec 18) (r : BitVec 7) (h : BitVec 4) :
    f.setWidth 64 <<< 18 ||| r.setWidth 64 <<< 8 ||| h.setWidth 64
      = word (f.toNat * 2 ^ 18 + r.toNat * 256 + h.toNat) := by
  have hr := r.isLt
  have hh := h.isLt
  rw [setWidth_eq_word, setWidth_eq_word, setWidth_eq_word, word_shiftLeft, word_shiftLeft, BitVec.or_assoc,
    word_or_word (by omega), word_or_word (by omega), Nat.add_assoc] <;> rfl

/-- The bit n of a word as a field. -/
theorem extractLsb'_one (v : Word) (n : Nat) : v.extractLsb' n 1 = BitVec.ofBool (v.getLsbD n) := by
  ext i hi
  obtain rfl : i = 0 := by omega
  simp

theorem ofBool_beq (x : Bool) : (BitVec.ofBool x == 1#1) = x := by cases x <;> rfl

theorem ofBool_or_beq (f x : Bool) : (BitVec.ofBool f ||| BitVec.ofBool x == 1#1) = (f || x) := by
  cases f <;> cases x <;> rfl

theorem ofBool_andNot_beq (f x : Bool) : (BitVec.ofBool f &&& ~~~BitVec.ofBool x == 1#1) = (f && !x) := by
  cases f <;> cases x <;> rfl

/-- The bits of KSTAT that `kwr`, `kset` and `kclr` write. -/
theorem kwrite_kstat (k : KRegs) (v : Word) :
    k.kwrite .kstat .write v = { k with vread := k.vread && !v.getLsbD 1, vstrict := v.getLsbD 0 }
    ∧ k.kwrite .kstat .set v = { k with vstrict := k.vstrict || v.getLsbD 0 }
    ∧ k.kwrite .kstat .clear v
      = { k with vread := k.vread && !v.getLsbD 1, vstrict := k.vstrict && !v.getLsbD 0 } := by
  simp only [KRegs.kwrite, kfield, kfieldW1c, extractLsb'_one, ofBool_beq, ofBool_or_beq, ofBool_andNot_beq, and_self]

/-- A form that writes a k-register ends with its sources read and then the register written (R160). -/
theorem ends_kwrite {s : State} {g : Guard} {r : KReg} {a : Src} {i : Instr} {op : KOp} {m : KRegs}
    (h : Ready s g (kregSystem r) [a]) (he : exec i s = kwriteForm s i g r op a)
    (hm : (kAfter s [a]).kwrite r op (s.cp.val a) = m) :
    ∃ t, exec i s = .next t ∧ Ends s t [a] (s.cp.regs.pc + 8) none none m := by
  subst hm
  refine ⟨_, he.trans (ready_run h), ends_modCp rfl ?_ rfl⟩
  exact congrArg (KRegs.kwrite · r op (s.cp.val a)) (retireTo_k (s.cp.regs.pc + 8) s.cp)

/-- Settles O17: `krd` register by register, and the writing forms by what `KRegs.kwrite` does to each. -/
theorem kRegisterForms : Obligations.KRegisterForms := by
  intro s g d a r
  refine ⟨fun h => writes_alu h rfl ?_, fun h => ?_⟩
  · cases r
    case kstat => exact kstat_eq_word _ _ _ _
    case kcause | kevt | kctx | kprio => exact setWidth_eq_word _
    case kepc => exact epcRead_eq _
    case ktval | kscratch | kargbase | kcyc | ktime => exact eq_word_toNat _
    case ktvec => exact setWidth_shiftLeft_three _
    case kfpm => exact fields_eq_word _ _ 4 (by decide)
    case kcore => exact kcore_eq_word _ _
    case ktask => exact fields_eq_word _ _ 8 (by decide)
    case kgroup => exact kgroup_eq_word _ _ _
    case kqui => exact fields_eq_word _ _ 16 (by decide)
  · have hpriv : decide (r = .kcause ∨ r = .kepc ∨ r = .ktval ∨ r = .ktvec ∨ r = .kscratch) = kregSystem r := by
      rw [Bool.eq_iff_iff, decide_eq_true_iff, kregSystem_iff]
    rw [hpriv] at h
    obtain ⟨hwrite, hset, hclear⟩ := kwrite_kstat (kAfter s [a]) (s.cp.val a)
    refine ⟨ends_kwrite h rfl ?_, ends_kwrite h rfl ?_, ends_kwrite h rfl ?_⟩
    · cases r
      case kstat => exact hwrite
      all_goals rfl
    · cases r
      case kstat => exact hset
      all_goals rfl
    · cases r
      case kstat => exact hclear
      all_goals rfl

end Sys2Proof.Proofs
end

section
/-!
`fclass` (R168): one bit for each class.
-/
namespace Sys2Proof.Proofs
open Sys2Proof.Machine Sys2Proof.Laws

/-- The position of the class of a value in the mask. -/
def classBit (f : Prec) : FVal → Nat
  | .nan signalling => if signalling then 8 else 9
  | .inf neg => if neg then 0 else 7
  | .fin neg m _ =>
    if m = 0 then (if neg then 3 else 4)
    else if m < 2 ^ f.fmt.man then (if neg then 2 else 5)
    else (if neg then 1 else 6)

theorem fpClass_eq (f : Prec) (a : Word) : fpClass f a = word (2 ^ classBit f (f.operand a)) := by
  unfold fpClass classBit
  cases f.operand a <;> rfl

section
variable {f : Prec} {x : FVal}

theorem classBit_lt : classBit f x < 10 := by
  unfold classBit
  repeat' split
  all_goals decide

/-- The position says which infinity, NaN or zero the value is. -/
theorem classBit_eq_iff :
    (classBit f x = 8 ↔ x = .nan true) ∧ (classBit f x = 9 ↔ x = .nan false) ∧ (classBit f x = 0 ↔ x = .inf true)
    ∧ (classBit f x = 7 ↔ x = .inf false) ∧ (classBit f x = 3 ↔ ∃ e, x = .fin true 0 e)
    ∧ (classBit f x = 4 ↔ ∃ e, x = .fin false 0 e) := by
  cases x with
  | nan b => cases b <;> simp [classBit]
  | inf b => cases b <;> simp [classBit]
  | fin b m e =>
    by_cases h0 : m = 0
    · cases b <;> simp [classBit, h0]
    · by_cases hm : m < 2 ^ f.fmt.man <;> cases b <;> simp [classBit, h0, hm]

end

/-- Masks with one bit set are equal where the positions of their bits are. -/
theorem word_two_pow_inj : ∀ m n : Fin 10, word (2 ^ m.val) = word (2 ^ n.val) ↔ m.val = n.val := by decide

theorem fpClass_eq_iff (f : Prec) (a : Word) {n : Nat} (hn : n < 10) :
    fpClass f a = word (2 ^ n) ↔ classBit f (f.operand a) = n := by
  rw [fpClass_eq]
  exact word_two_pow_inj ⟨_, classBit_lt⟩ ⟨n, hn⟩

/-- Settles O20: the mask is the power of two at the class's position. -/
theorem floatingClass : Obligations.FloatingClass := by
  intro f a
  obtain ⟨hs, hq, hni, hpi, hnz, hpz⟩ := classBit_eq_iff (f := f) (x := f.operand a)
  exact ⟨⟨_, classBit_lt, fpClass_eq f a⟩, (fpClass_eq_iff f a (n := 8) (by decide)).trans hs,
    (fpClass_eq_iff f a (n := 9) (by decide)).trans hq, (fpClass_eq_iff f a (n := 0) (by decide)).trans hni,
    (fpClass_eq_iff f a (n := 7) (by decide)).trans hpi, (fpClass_eq_iff f a (n := 3) (by decide)).trans hnz,
    (fpClass_eq_iff f a (n := 4) (by decide)).trans hpz⟩

end Sys2Proof.Proofs
end

section
/-!
Bytes written to memory (R202, R203, R208).
-/
namespace Sys2Proof.Proofs
open Sys2Proof.Machine Sys2Proof.Laws

theorem mem_rangeFrom {a n k : Nat} : k ∈ rangeFrom a n ↔ a ≤ k ∧ k < a + n := by
  induction n generalizing a with
  | zero => simp [rangeFrom]
  | succ n ih => rw [rangeFrom, List.mem_cons, ih]; omega

/-- A half that the bytes cover is one that they touch. -/
theorem mem_halvesOf_of_covered {a n h : Nat} (hc : halfCovered a n h = true) : h ∈ halvesOf a n := by
  have := of_decide_eq_true hc
  exact mem_rangeFrom.2 (by omega)

/-- Clearing the halves of a list that p names leaves each of them clean, and a clean half clean. -/
theorem clean_foldl {l : List Nat} {p : Nat → Bool} {e : Tab Ecc} {h : Nat}
    (hh : tabGet .clean e h = .clean ∨ h ∈ l ∧ p h = true) :
    tabGet .clean (l.foldl (fun e k => if p k then tabSet .clean e k .clean else e) e) h = .clean := by
  induction l generalizing e with
  | nil => simpa using hh
  | cons k l ih =>
    rw [List.mem_cons] at hh
    refine ih ?_
    dsimp only
    by_cases hp : p k = true
    · rw [if_pos hp, tabGet_set]
      by_cases hk : k = h
      · exact .inl (if_pos hk)
      · rw [if_neg hk]
        exact hh.imp id fun ⟨hm, hp⟩ => ⟨hm.resolve_left (Ne.symm hk), hp⟩
    · rw [if_neg hp]
      exact hh.imp id fun ⟨hm, hph⟩ => ⟨hm.resolve_left fun e => hp (e ▸ hph), hph⟩

/-- Settles O32: reading after writing is the memory's own law, and a write clears the halves that it covers. -/
theorem writtenBytesReadBack : Obligations.WrittenBytesReadBack := by
  refine fun s pa bs => ⟨bytesAt_writeBytes s pa bs, fun x hx => memGet_put_ne bs s.mem _ x hx, fun n v => ?_,
    fun h hh => clean_foldl (.inr ⟨mem_halvesOf_of_covered hh, hh⟩)⟩
  rw [natAt_writeNat, Nat.pow_mul]

end Sys2Proof.Proofs
end

section
/-!
Loads, stores and atomics at issue (R225-R230): what one posts, and how one traps.
-/
namespace Sys2Proof.Proofs
open Sys2Proof.Machine Sys2Proof.Laws

theorem keeps_of_translateParts {s u : State} {c ea : Nat} {use : Use} {sys : Bool} {l : List (Nat × Nat)}
    {r : Except Fail (List Seg)} (h : s.translateParts c ea use sys l = (u, r)) : Keeps s u := by
  simpa only [h] using keeps_translateParts c ea use sys l s

theorem isOwn_of_keeps {s u : State} (h : Keeps s u) (pa : Nat) : u.isOwn pa = s.isOwn pa := by
  simp only [State.isOwn, State.ownPkg, h.pkg]

/-- The control processor once an access is posted (R227): a read's register awaits its value, and the request stands last. -/
def afterPost (x : Cp) (op : CpOp) (gs : List Seg) (data cmp : Word) (d : Reg) (ar : Bool) (sc : BitVec 3) (pc : Word)
    (far : Bool) (srcs : List Src) : Cp :=
  (if op.reads then x.awaitReg d true else x).submit op gs data cmp d ar sc pc (if far then some srcs else none)

section
variable {s u : State} {i : Instr} {g : Guard} {srcs : List Src} {ea data cmp : Word} {n : Nat} {op : CpOp} {acc : Acc}
  {d : Reg} {ar : Bool} {sc : BitVec 3} {gs : List Seg}

/-- An access that issues is posted, and the next instruction follows. -/
theorem accessForm_posted (h : Issues i s u g srcs ea n op acc ar sc gs) :
    accessForm s i g srcs ea n op acc data cmp d ar sc
      = .next (u.retire (if farRead u op gs then [] else srcs) fun x =>
          afterPost x op gs data cmp d ar sc s.cp.regs.pc (farRead u op gs) srcs) := by
  have hown (pa) := isOwn_of_keeps (keeps_of_translateParts h.translated) pa
  have haligned : (acc != .plain && ea.toNat % n != 0) = false := by
    by_cases hp : acc = .plain
    · simp [hp]
    · simp [h.aligned hp]
  unfold accessForm
  rw [ready_cmd h.ready h.free]
  dsimp only
  rw [haligned, if_neg Bool.false_ne_true, h.walked, if_neg Bool.false_ne_true, h.translated]
  dsimp only
  rw [h.region]
  dsimp only
  rw [h.ordered, if_neg Bool.false_ne_true]
  simp only [farRead, hown, afterPost]
  cases hr : op.reads with
  | false => rfl
  | true => rw [h.home hr]

theorem awaitReg_ctl (x : Cp) (o : Bool) :
    (x.awaitReg d o).ctl
      = { x.ctl with pend := if d != 0 then x.ctl.pend ++ [⟨d, o, none⟩] else x.ctl.pend } := by
  by_cases hd : d = 0
  · rw [Cp.awaitReg, if_pos hd, hd]; rfl
  · rw [Cp.awaitReg, if_neg hd, bne_iff_ne.2 hd]; rfl

theorem afterPost_regs (x : Cp) (pc : Word) (far : Bool) :
    (afterPost x op gs data cmp d ar sc pc far srcs).regs = x.regs := by
  unfold afterPost
  split
  · exact awaitReg_regs x d true
  · rfl

theorem afterPost_k (x : Cp) (pc : Word) (far : Bool) :
    (afterPost x op gs data cmp d ar sc pc far srcs).k = x.k := by
  unfold afterPost
  split
  · exact awaitReg_k x d true
  · rfl

theorem afterPost_ctl (x : Cp) (pc : Word) (far : Bool) :
    (afterPost x op gs data cmp d ar sc pc far srcs).ctl
      = accessPosted x.ctl op gs data cmp d ar sc pc far srcs := by
  cases hr : op.reads with
  | false => simp only [afterPost, accessPosted, Cp.submit, hr]; cases far <;> rfl
  | true => simp only [afterPost, accessPosted, Cp.submit, hr, ↓reduceIte, awaitReg_ctl]; cases far <;> rfl

/-- An atomic that is not aligned traps before its address is translated (R230). -/
theorem accessForm_align (hr : Ready s g false srcs) (hf : s.cp.held i = false) (hp : acc ≠ .plain)
    (ha : ea.toNat % n ≠ 0) :
    accessForm s i g srcs ea n op acc data cmp d ar sc = s.raise causeAlign ea := by
  unfold accessForm
  rw [ready_cmd hr hf]
  dsimp only
  rw [bne_iff_ne.2 hp, bne_iff_ne.2 ha]
  rfl

/-- An access whose translation fails traps, a walk that fails once nothing that may be ordered before it is left. -/
theorem accessForm_untranslated {f : Fail} (hr : Ready s g false srcs) (hf : s.cp.held i = false)
    (hw : (accessParts ea.toNat n).any (fun p => s.walkWaits s.focus.val ((ea.toNat + p.1) % 2 ^ 64)) = false)
    (ht : s.translateParts s.focus.val ea.toNat
      (if op.reads && op.writes then .both else if op.reads then .read else .write) s.cp.k.sys
      (accessParts ea.toNat n) = (u, .error f))
    (ho : f.cause = causeProt ∨ s.cp.ctl.reqs.any (fun x => s.mayOrder s.focus.val x op ar sc) = false) :
    accessForm s i g srcs ea n op .plain data cmp d ar sc = u.raise f.cause f.val := by
  have hwait : (f.cause != causeProt && s.cp.ctl.reqs.any fun x => s.mayOrder s.focus.val x op ar sc) = false := by
    rcases ho with ho | ho <;> simp [ho]
  unfold accessForm
  rw [ready_cmd hr hf]
  dsimp only
  rw [if_neg (by simp), hw, if_neg Bool.false_ne_true, ht]
  dsimp only
  rw [hwait, if_neg Bool.false_ne_true]

/-- An access that its region refuses traps. -/
theorem accessForm_refused {f : Fail} (hr : Ready s g false srcs) (hf : s.cp.held i = false)
    (hw : (accessParts ea.toNat n).any (fun p => s.walkWaits s.focus.val ((ea.toNat + p.1) % 2 ^ 64)) = false)
    (ht : s.translateParts s.focus.val ea.toNat
      (if op.reads && op.writes then .both else if op.reads then .read else .write) s.cp.k.sys
      (accessParts ea.toNat n) = (u, .ok gs))
    (hg : u.regionFail ea.toNat n .plain op.writes s.cp.k.sys gs = some f) :
    accessForm s i g srcs ea n op .plain data cmp d ar sc = u.raise f.cause f.val := by
  unfold accessForm
  rw [ready_cmd hr hf]
  dsimp only
  rw [if_neg (by simp), hw, if_neg Bool.false_ne_true, ht]
  dsimp only
  rw [hg]

/-- What an access that issues leaves is what `Posts` says. -/
theorem posts_of_issues (he : exec i s = accessForm s i g srcs ea n op acc data cmp d ar sc)
    (h : Issues i s u g srcs ea n op acc ar sc gs) : Posts i s u srcs op gs data cmp d ar sc := by
  refine ⟨_, he.trans (accessForm_posted h), leaves_modCp ?_ ?_ ?_⟩
  · exact afterPost_regs _ _ _
  · exact (afterPost_k _ _ _).trans (retireTo_k _ _)
  · exact afterPost_ctl _ _ _

end

theorem memAddress_eq (x : Cp) (m : MemOp) :
    memAddress x m = BitVec.ofInt 64 ((x.val m.a).toNat + (x.val m.b).toNat + m.off.toInt) := by
  rw [memAddress, BitVec.ofInt_add, BitVec.ofInt_add, ofInt_toNat, ofInt_toNat]
  rfl

theorem amoAddress_eq (x : Cp) (m : AmoOperand) :
    amoAddress x m = BitVec.ofInt 64 ((x.val m.a).toNat + m.off.toInt) := by
  rw [amoAddress, BitVec.ofInt_add, ofInt_toNat]
  rfl

/-- Settles O22: a load form is an access that reads. -/
theorem loadsPost : Obligations.LoadsPost := by
  intro s u g d m gs
  dsimp only
  rw [← memAddress_eq]
  exact ⟨posts_of_issues rfl, posts_of_issues rfl, posts_of_issues rfl, posts_of_issues rfl, posts_of_issues rfl,
    posts_of_issues rfl, posts_of_issues rfl⟩

/-- Settles O23: a store form is an access that writes. -/
theorem storesPost : Obligations.StoresPost := by
  intro s u g v m gs
  dsimp only
  rw [← memAddress_eq]
  exact ⟨posts_of_issues rfl, posts_of_issues rfl, posts_of_issues rfl, posts_of_issues rfl⟩

/-- What is stated of one atomic form: it posts its access, and traps where that is not aligned. -/
theorem amo_posts {s u : State} {g : Guard} {d : Reg} {b : Src} {m : AmoOperand} {gs : List Seg} {i : Instr}
    {op : AmoOp} {wide : Bool} {srcs : List Src} {ea : Word} {n : Nat}
    (he : exec i s = accessForm s i g srcs ea n (.amo op wide) (.atomic op) (s.cp.val b) (s.cp.regs.get d) d m.ar m.sc) :
    (Issues i s u g srcs ea n (.amo op wide) (.atomic op) m.ar m.sc gs →
      Posts i s u srcs (.amo op wide) gs (s.cp.val b) (s.cp.regs.get d) d m.ar m.sc)
    ∧ (Ready s g false srcs → s.cp.held i = false → ea.toNat % n ≠ 0 → Traps i s 0x04 ea) :=
  ⟨posts_of_issues he, fun hr hf ha => he.trans (accessForm_align hr hf nofun ha)⟩

/-- Settles O24: an atomic form is an access that reads and writes, of 8 or 4 bytes. -/
theorem atomicsPost : Obligations.AtomicsPost := by
  intro s u g d b m gs
  dsimp only
  rw [← amoAddress_eq]
  refine ⟨?_, ?_, ?_, ?_, ?_, ?_, ?_, ?_, ?_, ?_, ?_, ?_, ?_, ?_, ?_, ?_, ?_, ?_, ?_, ?_, ?_, ?_⟩
  all_goals exact amo_posts rfl

/-- What a load that traps leaves: the entry into the trap at the state that the translation has left. -/
theorem raised_keeps {s u : State} (hk : Keeps s u) (f : Fail) :
    ∃ t, u.raise f.cause f.val = .next t ∧ t.cp.k.cause = f.cause ∧ t.cp.k.tval = f.val ∧ t.cp.k.epc = s.cp.regs.pc
      ∧ t.cp.regs.pc = s.cp.k.tvec.setWidth 64 <<< 3 ∧ (∀ r, t.cp.regs.get r = s.cp.regs.get r)
      ∧ (∀ r, t.cp.regs.vacant r = s.cp.regs.vacant r) ∧ t.cp.ctl.reqs = s.cp.ctl.reqs
      ∧ t.cp.ctl.pend = s.cp.ctl.pend ∧ t.mem = s.mem := by
  refine ⟨_, rfl, ?_⟩
  rw [cp_modCp, hk.issuing]
  exact ⟨rfl, rfl, rfl, rfl, fun _ => rfl, fun _ => rfl, rfl, rfl, hk.mem⟩

/-- Settles O25: a load's two failures before it is posted, each of which traps at the state the translation leaves. -/
theorem accessFaults : Obligations.AccessFaults := by
  intro s u g d m f i n b hi
  dsimp only
  rw [← memAddress_eq]
  intro hr hf hw hfail
  have hexec : exec i s = loadForm s i g d m n b := by
    simp only [List.mem_cons, Prod.mk.injEq, List.not_mem_nil, or_false] at hi
    rcases hi with h | h | h | h | h | h | h
    all_goals obtain ⟨rfl, rfl, rfl⟩ := h; rfl
  rcases hfail with ⟨ht, ho⟩ | ⟨gs, ht, hg⟩
  · rw [hexec, loadForm, accessForm_untranslated (op := .load n b) hr hf hw ht ho]
    exact raised_keeps (keeps_of_translateParts ht) f
  · rw [hexec, loadForm, accessForm_refused (op := .load n b) hr hf hw ht hg]
    exact raised_keeps (keeps_of_translateParts ht) f

end Sys2Proof.Proofs
end

section
/-!
What a home performs (R198, R208, R224, R228, R229), and what fails there (R202, R203, R227, R469).
-/
namespace Sys2Proof.Proofs
open Sys2Proof.Machine Sys2Proof.Laws

/-! Lists of bytes. -/

theorem listSet_append_same {α : Type} (l r : List α) (a b : α) : listSet (l ++ a :: r) l.length b = l ++ b :: r := by
  induction l with
  | nil => rfl
  | cons x l ih => exact congrArg (x :: ·) ih

/-- Bytes that follow those read so far are appended to them. -/
theorem putBytes_append (got bs : List Byte) : putBytes got got.length bs = got ++ bs := by
  induction bs generalizing got with
  | nil => exact (List.append_nil got).symm
  | cons b l ih =>
    have hset : listSet (got ++ List.replicate (got.length + 1 - got.length) 0) got.length b = got ++ [b] := by
      rw [Nat.add_sub_cancel_left]
      exact listSet_append_same got [] 0 b
    rw [putBytes, hset, List.append_cons]
    simpa using ih (got ++ [b])

theorem putBytes_nil (bs : List Byte) : putBytes [] 0 bs = bs := putBytes_append [] bs

/-- Byte i of the low n bytes of a number. -/
theorem getElem_leBytes (v n i : Nat) (h : i < (leBytes v n).length) : (leBytes v n)[i] = BitVec.ofNat 8 (v / 256 ^ i) := by
  induction n generalizing v i with
  | zero => exact absurd h (Nat.not_lt_zero i)
  | succ n ih =>
    cases i with
    | zero => simp [leBytes]
    | succ i =>
      have := ih (v / 256) i (by simpa [leBytes] using h)
      simpa [leBytes, Nat.div_div_eq_div_mul, Nat.pow_succ'] using this

theorem leNat_lt (l : List Byte) : leNat l < 2 ^ (8 * l.length) := by
  induction l with
  | nil => decide
  | cons b l ih =>
    have := b.isLt
    rw [leNat, List.length_cons, Nat.mul_succ, Nat.pow_add]
    omega

theorem natAt_lt (s : State) (pa n : Nat) : s.natAt pa n < 2 ^ (8 * n) := by
  simpa only [State.natAt, State.bytesAt, memBytes_length] using leNat_lt (s.bytesAt pa n)

theorem mem_of_listFind {α : Type} {p : α → Bool} {l : List α} {a : α} (h : listFind p l = some a) : a ∈ l := by
  induction l with
  | nil => exact nomatch h
  | cons b l ih =>
    rw [listFind] at h
    split at h
    · exact Option.some.inj h ▸ List.mem_cons_self
    · exact List.mem_cons_of_mem _ (ih h)

/-! A home that is memory. -/

/-- The byte lies in no MMIO region of this package. -/
def InMemory (s : State) (pa : Nat) : Prop := (s.isOwn pa && regionOf (paKind pa) == .mmio) = false

section
variable {s : State} {pa n : Nat}

theorem homeRead_of_memory (h : InMemory s pa) : s.homeRead pa n = (s.eccRead pa n, s.bytesAt pa n) :=
  if_neg (by rw [h]; exact Bool.false_ne_true)

theorem homeWrite_of_memory (bs : List Byte) (h : InMemory s pa) : s.homeWrite pa bs = s.writeBytes pa bs :=
  if_neg (by rw [h]; exact Bool.false_ne_true)

theorem releaseCounter_of_memory {c : Nat} {r : CpReq} (h : InMemory s pa) : s.releaseCounter c r pa n = s :=
  if_neg (by rw [h]; exact Bool.false_ne_true)

theorem memKey_of_keeps {t : State} (h : Keeps s t) (a : Nat) : t.memKey a = s.memKey a := by
  simp only [State.memKey, isOwn_of_keeps h]

theorem inMemory_of_keeps {t : State} (h : Keeps s t) (hm : InMemory s pa) : InMemory t pa := by
  rwa [InMemory, isOwn_of_keeps h]

theorem natAt_of_keeps {t : State} (h : Keeps s t) : t.natAt pa n = s.natAt pa n := by
  simp only [State.natAt, State.bytesAt, h.mem, memKey_of_keeps h]

end

/-- A part that is not performed, that no freeze wave bars and whose request does not fail is performed (R198). -/
theorem bankAccess_perform {s : State} {c : CoreIx} {r : CpReq} {j : Nat} {g : Seg}
    (hr : listFind (fun q => q.id == r.id) (s.cpOf c.val).ctl.reqs = some r) (hg : r.segs[j]? = some g)
    (hd : g.done = false) (hb : s.reqBarred c.val r = false) (hl : s.lateFail r = none) :
    exec (.bankAccess (.core c) r.id j) s = .next (s.perform c.val r j g) := by
  show execBankAccess (.core c) r.id j s = _
  simp only [execBankAccess, hr, hg, hd, hb, hl, Bool.or_self, Bool.false_eq_true, if_false]

/-- What a returned read leaves of the control processor: the registers of a read on the remote path take effect. -/
theorem cpOf_returnRead (s : State) (c : Nat) (r : CpReq) (v : Word) :
    (s.returnRead c r v).cpOf c
      = (if r.far then (s.cpOf c).readSrcs r.srcs else s.cpOf c).deliver r.dest v := by
  simp only [State.returnRead, State.deliver, cpOf_modCpOf_same]

section
variable {x : Cp} {r : CpReq} {v : Word}

/-- What register q reads once a read has returned. -/
theorem get_returned (q : Reg) :
    ((if r.far then x.readSrcs r.srcs else x).deliver r.dest v).regs.get q
      = if r.far = true ∧ lastUse r.srcs q = true then 0 else x.regs.get q := by
  cases hf : r.far with
  | false => simp [Cp.deliver]
  | true => simpa [Cp.readSrcs, Cp.deliver] using get_vacateAll_eq (x := x.regs) q

theorem pc_returned :
    ((if r.far then x.readSrcs r.srcs else x).deliver r.dest v).regs.pc = x.regs.pc := by
  cases r.far with
  | false => rfl
  | true => exact vacateAll_pc _ _

theorem ctl_returned :
    ((if r.far then x.readSrcs r.srcs else x).deliver r.dest v).ctl = (x.deliver r.dest v).ctl := by
  cases r.far <;> rfl

end

/-- A request whose only part is performed leaves the list. -/
theorem setReq_all_done {x : Cp} {r : CpReq} (h : r.segs.all (fun g => g.done) = true) :
    x.setReq r = { x with ctl := { x.ctl with reqs := x.ctl.reqs.filter fun q => q.id != r.id } } := by
  rw [Cp.setReq, if_pos h]

theorem listSet_eq_set {α : Type} (l : List α) (i : Nat) (a : α) : listSet l i a = l.set i a := by
  induction l generalizing i with
  | nil => rfl
  | cons b l ih => cases i <;> simp [listSet, ih]

/-- With part j performed, every part is when the others are. -/
theorem all_done_iff {l : List Seg} {j : Nat} {g : Seg} :
    (listSet l j { g with done := true }).all (fun g => g.done) = true
      ↔ ∀ k h, l[k]? = some h → k ≠ j → h.done = true := by
  rw [listSet_eq_set, List.all_eq_true]
  constructor
  · intro hall k h hk hne
    exact hall h (List.mem_iff_getElem?.2 ⟨k, by rw [List.getElem?_set_ne (Ne.symm hne), hk]⟩)
  · intro hall h hh
    obtain ⟨k, hk⟩ := List.mem_iff_getElem?.1 hh
    rw [List.getElem?_set] at hk
    split at hk
    · split at hk
      · exact Option.some.inj hk ▸ rfl
      · exact nomatch hk
    next hne => exact hall k h hk (Ne.symm hne)

/-- A request whose part has been performed, of several: it stands in its place. -/
theorem setReq_of_not_all {x : Cp} {r : CpReq} (h : ¬r.segs.all (fun g => g.done) = true) :
    x.setReq r = { x with ctl := { x.ctl with reqs := x.ctl.reqs.map fun q => if q.id = r.id then r else q } } := by
  rw [Cp.setReq, if_neg h]

theorem setReq_regs (x : Cp) (r : CpReq) : (x.setReq r).regs = x.regs := rfl
theorem setReq_k (x : Cp) (r : CpReq) : (x.setReq r).k = x.k := rfl
theorem setReq_pend (x : Cp) (r : CpReq) : (x.setReq r).ctl.pend = x.ctl.pend := rfl
theorem setReq_records (x : Cp) (r : CpReq) : (x.setReq r).ctl.records = x.ctl.records := rfl

section
variable {s : State} {c : CoreIx} {r : CpReq} {g : Seg}

/-- A load of one part returns the value of its bytes, and leaves the list of requests. -/
theorem perform_load {n : Nat} {signed : Bool} (hop : r.op = .load n signed) (hs : r.segs = [g]) (ho : g.off = 0)
    (hgot : r.got = []) (hm : InMemory s g.pa) :
    ∃ q : CpReq, q.id = r.id ∧ q.segs.all (fun g => g.done) = true ∧ s.perform c.val r 0 g
      = ((s.eccRead g.pa g.n).modCpOf c.val fun x => x.setReq q).returnRead c.val r
          (loadValue n signed (s.natAt g.pa g.n)) := by
  refine ⟨{ r with segs := listSet r.segs 0 { g with done := true }, got := s.bytesAt g.pa g.n }, rfl, ?_, ?_⟩
  · rw [hs]; rfl
  · simp only [State.perform, hop, homeRead_of_memory hm, ho, hgot, putBytes_nil, hs]
    rfl

/-- The memory once an atomic has stored its new value, where it has one. -/
def afterAmo (s : State) (pa n : Nat) : Option Nat → State
  | some v => (s.eccRead pa n).writeBytes pa (leBytes v n)
  | none => s.eccRead pa n

/-- An atomic returns its old value and writes the new one, where there is one (R229, R230). -/
theorem perform_amo {op : AmoOp} {wide : Bool} (hop : r.op = .amo op wide) (hs : r.segs = [g]) (hm : InMemory s g.pa) :
    ∃ q : CpReq, q.id = r.id ∧ q.segs.all (fun g => g.done) = true ∧ s.perform c.val r 0 g
      = ((afterAmo s g.pa g.n (amoNew op wide (s.natAt g.pa g.n) (r.data.toNat % 2 ^ if wide then 64 else 32)
          (r.cmp.toNat % 2 ^ if wide then 64 else 32))).modCpOf c.val fun x => x.setReq q).returnRead c.val r
          (word (s.natAt g.pa g.n)) := by
  refine ⟨{ r with segs := listSet r.segs 0 { g with done := true } }, rfl, ?_, ?_⟩
  · rw [hs]; rfl
  · have hm' := inMemory_of_keeps (keeps_eccRead s g.pa g.n) hm
    simp only [State.perform, hop, homeRead_of_memory hm, hs, homeWrite_of_memory _ hm', State.natAt]
    cases amoNew op wide (leNat (s.bytesAt g.pa g.n)) _ _ <;> rfl

end

/-- What the control processor of a core holds once a request of one part has returned v. -/
theorem returned_cp {s u : State} {c : CoreIx} {r q : CpReq} {v : Word} (hu : ∀ n, u.cpOf n = s.cpOf n) (hid : q.id = r.id)
    (hq : q.segs.all (fun g => g.done) = true) :
    let t := (u.modCpOf c.val fun x => x.setReq q).returnRead c.val r v
    (t.cpOf c.val).ctl.pend
        = (s.cpOf c.val).ctl.pend.map (fun p => if p.reg = r.dest then { p with val := some v } else p)
      ∧ (t.cpOf c.val).ctl.reqs = (s.cpOf c.val).ctl.reqs.filter (fun q => q.id != r.id)
      ∧ (r.far = false → (t.cpOf c.val).regs = (s.cpOf c.val).regs)
      ∧ (∀ q, (t.cpOf c.val).regs.get q =
          if r.far = true ∧ lastUse r.srcs q = true then 0 else (s.cpOf c.val).regs.get q)
      ∧ (t.cpOf c.val).regs.pc = (s.cpOf c.val).regs.pc ∧ t.mem = u.mem := by
  dsimp only
  rw [cpOf_returnRead, cpOf_modCpOf_same, hu, setReq_all_done hq, hid, ctl_returned, pc_returned]
  refine ⟨rfl, rfl, fun hf => ?_, fun q => get_returned q, rfl, rfl⟩
  rw [hf]
  rfl

end Sys2Proof.Proofs
end

section
/-!
Loads, stores, atomics and reads of records at a memory home, and the requests that fail there.
-/
namespace Sys2Proof.Proofs
open Sys2Proof.Machine Sys2Proof.Laws

section
variable {s : State} {c : CoreIx} {r : CpReq} {j n va : Nat} {g : Seg}

/-- The read of a record: one part's bytes join the others, and with the last part the record is there. -/
theorem perform_record (hop : r.op = .record va n) (hm : InMemory s g.pa) :
    let got := putBytes r.got g.off (s.bytesAt g.pa g.n)
    let q : CpReq := { r with segs := listSet r.segs j { g with done := true }, got := got }
    s.perform c.val r j g = (s.eccRead g.pa g.n).modCpOf c.val fun x =>
      let x := x.setReq q
      if q.segs.all (fun g => g.done) then
        { x with ctl := { x.ctl with records := x.ctl.records ++ [⟨va, n, leNat got⟩] } }
      else x := by
  simp only [State.perform, hop, homeRead_of_memory hm]

/-- A store writes the bytes of its data at its part's offset. -/
theorem perform_store (hop : r.op = .store n) (hm : InMemory s g.pa) :
    s.perform c.val r j g
      = (s.writeBytes g.pa (((leBytes r.data.toNat n).drop g.off).take g.n)).modCpOf c.val fun x =>
          x.setReq { r with segs := listSet r.segs j { g with done := true } } := by
  have hm' : InMemory (s.writeBytes g.pa (((leBytes r.data.toNat n).drop g.off).take g.n)) g.pa := hm
  simp only [State.perform, hop, homeWrite_of_memory _ hm, releaseCounter_of_memory hm']

end

/-- What the read of a record leaves at its core. -/
theorem record_performed {s : State} {c : CoreIx} {r : CpReq} {g : Seg} {j n va : Nat}
    (hr : r ∈ (s.cpOf c.val).ctl.reqs) (hop : r.op = .record va n) (hm : InMemory s g.pa) :
    let got := putBytes r.got g.off (s.bytesAt g.pa g.n)
    let t := s.perform c.val r j g
    (t.cpOf c.val).regs = (s.cpOf c.val).regs ∧ (t.cpOf c.val).ctl.pend = (s.cpOf c.val).ctl.pend ∧ t.mem = s.mem
      ∧ ((∀ k h, r.segs[k]? = some h → k ≠ j → h.done = true) →
        (t.cpOf c.val).ctl.records = (s.cpOf c.val).ctl.records ++ [⟨va, n, leNat got⟩]
        ∧ (t.cpOf c.val).ctl.reqs = (s.cpOf c.val).ctl.reqs.filter (fun q => q.id != r.id))
      ∧ (∀ k h, r.segs[k]? = some h → k ≠ j → h.done = false →
        (t.cpOf c.val).ctl.records = (s.cpOf c.val).ctl.records
        ∧ ∃ q ∈ (t.cpOf c.val).ctl.reqs, q.id = r.id ∧ q.got = got) := by
  have hk := keeps_eccRead s g.pa g.n
  dsimp only
  rw [perform_record hop hm, cpOf_modCpOf_same, hk.cp]
  by_cases hall : (listSet r.segs j { g with done := true }).all (fun g => g.done) = true
  · rw [if_pos hall, setReq_all_done hall]
    exact ⟨rfl, rfl, hk.mem, fun _ => ⟨rfl, rfl⟩,
      fun k h hk hne hnd => absurd ((all_done_iff.1 hall k h hk hne).symm.trans hnd) nofun⟩
  · rw [if_neg hall, setReq_of_not_all hall]
    exact ⟨rfl, rfl, hk.mem, fun hd => absurd (all_done_iff.2 hd) hall,
      fun _ _ _ _ _ => ⟨rfl, _, List.mem_map.2 ⟨r, hr, if_pos rfl⟩, rfl, rfl⟩⟩

/-- Settles O26: a load of one part returns its bytes as a number, a part of a record's read joins the others. -/
theorem homePerformsLoad : Obligations.HomePerformsLoad := by
  intro s c r g n signed hr hd hb hl hm
  refine ⟨fun hop hs ho hn hgot => ?_, fun va j hop hg => ?_⟩
  · obtain ⟨q, hid, hq, hp⟩ := perform_load (c := c) hop hs ho hgot hm
    have hk := keeps_eccRead s g.pa g.n
    have hcp := returned_cp (c := c) (v := loadValue n signed (s.natAt g.pa g.n)) hk.cp hid hq
    refine ⟨_, (bankAccess_perform hr (by rw [hs]; rfl) hd hb hl).trans (congrArg _ hp), ?_⟩
    subst hn
    rw [← hk.mem]
    exact hcp
  · exact ⟨_, bankAccess_perform hr hg hd hb hl, record_performed (mem_of_listFind hr) hop hm⟩

/-- Settles O27: the part of the data is written where it belongs, byte by byte. -/
theorem homePerformsStore : Obligations.HomePerformsStore := by
  intro s c r j n g hr hop hg hle hd hb hl hm
  refine ⟨_, (bankAccess_perform hr hg hd hb hl).trans (congrArg _ (perform_store hop hm)), fun x => ?_, ?_, ?_, ?_⟩
  · have hlen : (((leBytes r.data.toNat n).drop g.off).take g.n).length = g.n := by
      simp only [List.length_take, List.length_drop, leBytes_length]
      omega
    have hmem : ((s.writeBytes g.pa (((leBytes r.data.toNat n).drop g.off).take g.n)).modCpOf c.val fun x =>
        x.setReq { r with segs := listSet r.segs j { g with done := true } }).mem
        = memPut s.mem (s.memKey g.pa) (((leBytes r.data.toNat n).drop g.off).take g.n) := rfl
    rw [hmem]
    split
    next hx =>
      obtain ⟨i, rfl⟩ : ∃ i, x = s.memKey g.pa + i := ⟨x - s.memKey g.pa, by omega⟩
      rw [memGet_put _ _ _ i (by omega), List.getElem_take, List.getElem_drop, getElem_leBytes, Nat.add_sub_cancel_left]
    next hx => exact memGet_put_ne _ _ _ _ (by omega)
  · rw [cpOf_modCpOf_same]; rfl
  · rw [cpOf_modCpOf_same]; rfl
  · exact fun k hk => core_modCore_ne _ _ (Ne.symm hk)

theorem ite_lt_of_lt {p : Prop} [Decidable p] {a b m : Nat} (ha : a < m) (hb : b < m) : (if p then a else b) < m := by
  split
  · exact ha
  · exact hb

/-- The value that an atomic stores is of its width (R229). -/
theorem amoNew_lt {op : AmoOp} {wide : Bool} {old b d v : Nat} (ho : old < 2 ^ if wide then 64 else 32)
    (hb : b < 2 ^ if wide then 64 else 32) (h : amoNew op wide old b d = some v) : v < 2 ^ if wide then 64 else 32 := by
  have hpos : 0 < 2 ^ if wide then 64 else 32 := Nat.two_pow_pos _
  cases op
  case add | fadd => exact Option.some.inj h ▸ Nat.mod_lt _ hpos
  case min => exact Option.some.inj h ▸ ite_lt_of_lt ho hb
  case max => exact Option.some.inj h ▸ ite_lt_of_lt hb ho
  case minz => exact Option.some.inj h ▸ Nat.lt_of_le_of_lt (Nat.min_le_left _ _) ho
  case maxz => exact Option.some.inj h ▸ Nat.max_lt.2 ⟨ho, hb⟩
  case and => exact Option.some.inj h ▸ Nat.and_lt_two_pow _ hb
  case or => exact Option.some.inj h ▸ Nat.or_lt_two_pow ho hb
  case xor => exact Option.some.inj h ▸ Nat.xor_lt_two_pow ho hb
  case swap => exact Option.some.inj h ▸ hb
  case cas =>
    rw [amoNew] at h
    split at h
    · exact Option.some.inj h ▸ hb
    · exact nomatch h

theorem cpOf_afterAmo (s : State) (pa n : Nat) (o : Option Nat) (k : Nat) :
    (afterAmo s pa n o).cpOf k = s.cpOf k := by
  cases o <;> exact (keeps_eccRead s pa n).cp k

theorem natAt_afterAmo (s : State) (pa n : Nat) {o : Option Nat} (h : ∀ v, o = some v → v < 2 ^ (8 * n)) :
    (afterAmo s pa n o).natAt pa n = o.getD (s.natAt pa n) := by
  cases o with
  | none => exact natAt_of_keeps (keeps_eccRead s pa n)
  | some v => exact (natAt_writeNat (s.eccRead pa n) pa n v).trans (Nat.mod_eq_of_lt (h v rfl))

theorem memGet_afterAmo (s : State) (pa n : Nat) (o : Option Nat) {x : Nat}
    (hx : ¬(s.memKey pa ≤ x ∧ x < s.memKey pa + n)) : memGet (afterAmo s pa n o).mem x = memGet s.mem x := by
  have hk := keeps_eccRead s pa n
  cases o with
  | none => rw [afterAmo, hk.mem]
  | some v =>
    refine (memGet_put_ne (leBytes v n) _ _ _ ?_).trans (congrArg (memGet · x) hk.mem)
    rw [leBytes_length, memKey_of_keeps hk]
    omega

theorem getD_ite {p : Prop} [Decidable p] {a b : Nat} : (if p then some b else none).getD a = if p then b else a := by
  split
  · rfl
  · rfl

theorem mem_returnRead (s : State) (c : Nat) (r : CpReq) (v : Word) : (s.returnRead c r v).mem = s.mem := rfl

theorem natAt_returnRead (s : State) (c : Nat) (r : CpReq) (v : Word) (pa n : Nat) :
    (s.returnRead c r v).natAt pa n = s.natAt pa n := rfl

theorem natAt_modCpOf (s : State) (c : Nat) (f : Cp → Cp) (pa n : Nat) : (s.modCpOf c f).natAt pa n = s.natAt pa n := rfl

/-- What stands in the word after an atomic (R229): the new value of the table, or the old one where `amo.cas` fails. -/
def amoTable (op : AmoOp) (wide : Bool) (w old b d : Nat) : Nat :=
  match op with
  | .add => (old + b) % 2 ^ w
  | .min => if signedOf w old ≤ signedOf w b then old else b
  | .max => if signedOf w old ≤ signedOf w b then b else old
  | .minz => min old b
  | .maxz => max old b
  | .and => old &&& b
  | .or => old ||| b
  | .xor => old ^^^ b
  | .swap => b
  | .cas => if old = d then b else old
  | .fadd => amoFadd wide old b

theorem ite_decide_eq_true {α : Type} (p : Prop) [Decidable p] (x y : α) :
    (if decide p = true then x else y) = if p then x else y := by
  by_cases h : p
  · rw [if_pos h, if_pos (decide_eq_true h)]
  · rw [if_neg h, if_neg (ne_true_of_eq_false (decide_eq_false h))]

theorem amoNew_getD (op : AmoOp) {wide : Bool} {w old b d : Nat} (hw : w = if wide then 64 else 32) :
    (amoNew op wide old b d).getD old = amoTable op wide w old b d := by
  subst hw
  cases op
  case add | minz | maxz | and | or | xor | swap | fadd => rfl
  case min | max => exact ite_decide_eq_true ..
  case cas => exact getD_ite

/-- Settles O28: the value that `amoNew` gives is the table's, and it is stored in the event that returns the old one. -/
theorem homePerformsAtomic : Obligations.HomePerformsAtomic := by
  intro s c r g op wide hr hop hs hn hd hb hl hm
  dsimp only
  obtain ⟨q, hid, hq, hp⟩ := perform_amo (c := c) hop hs hm
  have hw : 8 * g.n = if wide then 64 else 32 := by rw [hn]; cases wide <;> rfl
  have hbar : s.reqBarred c.val r = false := by simp [State.reqBarred, hs, hd, hb]
  rw [← hw] at hp
  have hnew (v) (hv : amoNew op wide (s.natAt g.pa g.n) (r.data.toNat % 2 ^ (8 * g.n)) (r.cmp.toNat % 2 ^ (8 * g.n))
      = some v) : v < 2 ^ (8 * g.n) := by
    have ho := natAt_lt s g.pa g.n
    have hb := Nat.mod_lt r.data.toNat (Nat.two_pow_pos (8 * g.n))
    rw [hw] at ho hb hv ⊢
    exact amoNew_lt ho hb hv
  have hget : (amoNew op wide (s.natAt g.pa g.n) (r.data.toNat % 2 ^ (8 * g.n)) (r.cmp.toNat % 2 ^ (8 * g.n))).getD
      (s.natAt g.pa g.n) = _ := amoNew_getD op hw
  generalize amoNew op wide (s.natAt g.pa g.n) (r.data.toNat % 2 ^ (8 * g.n)) (r.cmp.toNat % 2 ^ (8 * g.n)) = o
    at hp hnew hget
  obtain ⟨hpend, hreqs, -, hregs, hpc, -⟩ := returned_cp (c := c) (v := word (s.natAt g.pa g.n))
    (cpOf_afterAmo s g.pa g.n o) hid hq
  rw [bankAccess_perform hr (by rw [hs]; rfl) hd hbar hl, hp]
  refine ⟨_, rfl, hpend, ?_, fun x hx => ?_, hreqs, hregs, hpc⟩
  · rw [natAt_returnRead, natAt_modCpOf, natAt_afterAmo s g.pa g.n hnew, hget]
    rfl
  · rw [mem_returnRead, modCpOf_mem, memGet_afterAmo s g.pa g.n o hx]

/-! Requests that fail at their homes. -/

theorem listFind_holds {α : Type} {p : α → Bool} {l : List α} {a : α} (h : listFind p l = some a) : p a = true := by
  induction l with
  | nil => exact nomatch h
  | cons b l ih =>
    rw [listFind] at h
    split at h
    next hb => exact Option.some.inj h ▸ hb
    next => exact ih h

/-- What a load or atomic that fails leaves of its core: a trap at its own address, and no register written. -/
theorem failRead_cp (s : State) (c : Nat) (r : CpReq) (f : Fail) :
    let t := s.failRead c r f
    t.mem = s.mem ∧ (t.cpOf c).ctl.reqs = (s.cpOf c).ctl.reqs.filter (fun q => q.id != r.id)
      ∧ (t.cpOf c).k.cause = f.cause ∧ (t.cpOf c).k.epc = r.pc ∧ (t.cpOf c).k.tval = f.val
      ∧ ∀ q, (t.cpOf c).regs.get q = (s.cpOf c).regs.get q := by
  dsimp only
  rw [State.failRead, cpOf_modCpOf_same]
  exact ⟨rfl, rfl, rfl, rfl, rfl, fun _ => rfl⟩

theorem pendTrap_any (x : Cp) (cause : BitVec 6) (v : Word) :
    (x.pendTrap cause v).ctl.traps.any (fun t => t.1 == cause) = true := by
  unfold Cp.pendTrap
  split
  next h => exact h
  next => simp

theorem pendTrap_regs (x : Cp) (cause : BitVec 6) (v : Word) : (x.pendTrap cause v).regs = x.regs := by
  unfold Cp.pendTrap; split <;> rfl

theorem pendTrap_reqs (x : Cp) (cause : BitVec 6) (v : Word) : (x.pendTrap cause v).ctl.reqs = x.ctl.reqs := by
  unfold Cp.pendTrap; split <;> rfl

/-- What a store that fails leaves of its core: its trap pending. -/
theorem failStore_cp (s : State) (c : Nat) (r : CpReq) (f : Fail) :
    let t := s.failStore c r f
    t.mem = s.mem ∧ (t.cpOf c).ctl.reqs = (s.cpOf c).ctl.reqs.filter (fun q => q.id != r.id)
      ∧ (t.cpOf c).ctl.traps.any (fun x => x.1 == f.cause) = true ∧ (t.cpOf c).regs = (s.cpOf c).regs := by
  dsimp only
  rw [State.failStore, State.pendTrap, cpOf_modCpOf_same, cpOf_modCpOf_same, pendTrap_regs, pendTrap_reqs]
  exact ⟨rfl, rfl, pendTrap_any _ _ _, rfl⟩

/-- Settles O31: the three events end in `failStore` or `failRead`. -/
theorem accessesThatFail : Obligations.AccessesThatFail := by
  intro s c r _
  refine ⟨fun f hr hd hb hf => ?_, fun hr hown hfar hd => ?_, fun f j g hr hg hgd hb hreads hfar hd hf => ?_⟩
  · have hop : r.op.reads = false := by have := listFind_holds hr; simp_all
    have hlate : s.lateFail r = some f := by simp [State.lateFail, hop, hd, hf]
    refine ⟨s.failStore c.val r f, ?_, failStore_cp s c.val r f⟩
    show execStoreHomeFailure c r.id s = _
    simp only [execStoreHomeFailure, hr, hb, hlate]
  · cases hop : r.op.reads with
    | false =>
      obtain ⟨hmem, hreqs, htraps, -⟩ := failStore_cp s c.val r ⟨causeRemote, word (segEnds r.segs).1⟩
      refine ⟨_, ?_, hmem, hreqs, nofun, fun _ => htraps⟩
      show execRemoteReplayFailure c r.id s = _
      simp [execRemoteReplayFailure, hr, hop, hown, hd hop]
    | true =>
      obtain ⟨hmem, hreqs, hcause, hepc, -, hget⟩ := failRead_cp s c.val r ⟨causeRemote, word (segEnds r.segs).1⟩
      refine ⟨_, ?_, hmem, hreqs, fun _ => ⟨hcause, hepc, hget⟩, nofun⟩
      show execRemoteReplayFailure c r.id s = _
      simp [execRemoteReplayFailure, hr, hop, hown, hfar hop]
  · obtain ⟨hmem, -, hcause, hepc, htval, hget⟩ := failRead_cp s c.val r f
    have hlate : s.lateFail r = some f := by simp [State.lateFail, hfar, hd, hf]
    refine ⟨_, ?_, hmem, hcause, hepc, htval, hget⟩
    show execBankAccess (.core c) r.id j s = _
    simp only [execBankAccess, hr, hg, hgd, hb, hlate, hreads, Bool.or_self, Bool.false_eq_true, if_false]

end Sys2Proof.Proofs
end

section
/-!
Values that return and the registers that wait for them (R144, R169, R227).
-/
namespace Sys2Proof.Proofs
open Sys2Proof.Machine Sys2Proof.Laws

/-- What PENDING_RESULT_WRITE leaves of a control processor. -/
def Cp.withResult (x : Cp) (r : Reg) (v : Word) : Cp :=
  { x with regs := x.regs.put r v, ctl := { x.ctl with pend := x.ctl.pend.filter fun q => q.reg != r } }

theorem isPending_of_mem {x : Cp} {p : Pend} (hp : p ∈ x.ctl.pend) (h0 : p.reg ≠ 0) : x.isPending p.reg = true := by
  rw [Cp.isPending, bne_iff_ne.2 h0]
  exact List.any_eq_true.2 ⟨p, hp, beq_self_eq_true _⟩

theorem not_isPending_withResult (x : Cp) (r : Reg) (v : Word) : (Cp.withResult x r v).isPending r = false := by
  simp [Cp.isPending, Cp.withResult]

section
variable {x : Cp} {r : Reg} {i : Instr}

/-- A form whose guard holds waits for a pending register that it reads or writes. -/
theorem waitsFor_of_names (hp : x.isPending r = true) (hg : x.regs.guard (Machine.guardOf i) = true)
    (h : (∃ a ∈ srcsOf i, a.reg = r) ∨ destOf i = some r) : x.waitsFor i = true := by
  rw [Cp.waitsFor, if_pos hg, Bool.or_eq_true]
  refine h.imp (fun ⟨a, ha, e⟩ => List.any_eq_true.2 ⟨a, ha, e ▸ hp⟩) fun e => ?_
  rw [e]
  exact hp

/-- The same, of a form whose sources and destination are these. -/
theorem waitsFor_of_fields {srcs : List Src} {d : Option Reg} (hp : x.isPending r = true)
    (hg : x.regs.guard (Machine.guardOf i) = true) (hs : srcsOf i = srcs) (hd : destOf i = d)
    (h : (∃ a ∈ srcs, a.reg = r) ∨ d = some r) : x.waitsFor i = true :=
  waitsFor_of_names hp hg (by rwa [hs, hd])

/-- One whose guard fails waits for a pending register that it vacates. -/
theorem waitsFor_of_vacates (hp : x.isPending r = true) (hg : x.regs.guard (Machine.guardOf i) = false)
    (h : ∃ a ∈ srcsOf i, a.reg = r ∧ a.last = true) : x.waitsFor i = true := by
  rw [Cp.waitsFor, hg, if_neg Bool.false_ne_true]
  obtain ⟨a, ha, e, hl⟩ := h
  exact List.any_eq_true.2 ⟨a, ha, by rw [hl, e, hp]; rfl⟩

end

/-- The form at the program counter is not carried out while it waits for a register. -/
theorem plan_of_waitsFor {s : State} {w : Word} {n : Nat} (hf : s.fetch s.focus.val = .word w n)
    (hw : s.cp.waitsFor (instrOf w) = true) (ht : s.cp.trapPending = false) (hs : s.cp.ctl.standing = none) :
    s.plan s.focus = .idle := by
  have halone : s.planAlone s.focus = .idle := by
    unfold State.planAlone
    extract_lets u x
    obtain ⟨hu, hx⟩ : u = s ∧ x = s.cp := ⟨rfl, rfl⟩
    clear_value x u
    subst hu hx
    rw [ht, hs, hf]
    dsimp only
    rw [hw]
    split
    · rfl
    · exact ite_self _
  rw [State.plan, halone]

/-- Settles O29: a register other than g0 is pending while a value for it is listed, and the planner asks for every register
that a form names. -/
theorem resultsReturn : Obligations.ResultsReturn := by
  refine ⟨fun s c p v hp hv => ?_, fun x r p hp hr h0 => ?_, fun s w n => plan_of_waitsFor⟩
  · have he : exec (.pendingResultWrite c p.reg) s = .next (s.modCpOf c.val fun x => Cp.withResult x p.reg v) := by
      show execPendingResultWrite c p.reg s = _
      simp only [execPendingResultWrite, hp, hv]
      rfl
    refine ⟨_, he, ?_⟩
    rw [cpOf_modCpOf_same]
    exact ⟨fun h0 => get_put_same _ _ _ h0, not_isPending_withResult _ _ _, fun r hr => get_put_ne _ _ hr, rfl, rfl⟩
  · subst hr
    have hpend := isPending_of_mem hp h0
    refine ⟨fun i => waitsFor_of_names hpend, fun i => waitsFor_of_vacates hpend, fun g d a b m n hg => ?_⟩
    refine ⟨fun h => waitsFor_of_fields hpend hg (srcs := [a, b]) (d := some d) rfl rfl ?_,
      fun h => waitsFor_of_fields hpend hg (srcs := [m.a, m.b]) (d := some d) rfl rfl ?_,
      fun h => waitsFor_of_fields hpend hg (srcs := [m.a, m.b, a]) (d := none) rfl rfl ?_,
      fun h => waitsFor_of_fields hpend hg (srcs := [n.a, b, ⟨d, false⟩]) (d := some d) rfl rfl ?_,
      fun h => waitsFor_of_fields hpend hg (srcs := [a]) (d := some d) rfl rfl ?_,
      fun off h => waitsFor_of_names hpend hg (.inr (congrArg some h)),
      fun k h => waitsFor_of_names hpend hg (.inr (congrArg some h))⟩
    all_goals simpa [or_comm, or_assoc, or_left_comm] using h

end Sys2Proof.Proofs
end

section
/-!
Fences (R211, R212, R232, R479).
-/
namespace Sys2Proof.Proofs
open Sys2Proof.Machine Sys2Proof.Laws

/-- A form that records a fence completes, and with no sources nothing else happens. -/
theorem leaves_addFence (s : State) (ids : List Nat) (kind : FenceKind) :
    Leaves s (s.retire [] fun x => x.addFence ids kind) [] (s.cp.regs.pc + 8) none none s.cp.k
      (s.cp.addFence ids kind).ctl :=
  leaves_modCp rfl ((retireTo_k (s.cp.regs.pc + 8) s.cp).trans (kAfter_nil s)) rfl

theorem unmet_iff {x : Cp} {k : FenceKind} : x.unmet k = true ↔ ∃ f ∈ x.ctl.fences, f.kind = k ∧ x.ctl.met f = false := by
  simp [Cp.unmet]

/-- A fence is not met while an access that it waits for is outstanding. -/
theorem not_met_of_outstanding {x : CpCtl} {f : Fence} (h : ∃ id ∈ f.ids, ∃ r ∈ x.reqs, r.id = id) :
    x.met f = false := by
  obtain ⟨_, hid, r, hr, rfl⟩ := h
  refine Bool.eq_false_iff.2 fun hm => ?_
  have := List.all_eq_true.1 hm _ hid
  rw [Bool.not_eq_true', List.any_eq_false] at this
  exact this r hr (beq_self_eq_true _)

theorem held_iff {x : Cp} {i : Instr} :
    x.held i = true ↔ x.unmet .commands = true ∨ makesAccess i = true ∧ x.unmet .accesses = true
      ∨ startsFill i = true ∧ x.unmet .fills = true := by
  simp [Cp.held, Cp.fillsHeld, or_assoc]

/-- A command or access that a fence holds stands at issue. -/
theorem stands_of_held {s : State} {i : Instr} {g : Guard} {srcs : List Src} {k : Result}
    (he : exec i s = cmdForm s i g false srcs k) (hr : Ready s g false srcs) (hh : s.cp.held i = true) : Stands i s :=
  stands_of (he.trans ((ready_run hr).trans (if_pos hh)))

/-- Settles O30: `addFence` is what the three forms do, `Cp.held` what a fence holds, and a held form stands before its own
effect. -/
theorem fencesHoldAndEnd : Obligations.FencesHoldAndEnd := by
  refine ⟨fun s g sc h => ⟨⟨_, ready_run h, leaves_addFence _ _ _⟩, ⟨_, ready_run h, leaves_addFence _ _ _⟩,
    ⟨_, ready_run h, leaves_addFence s _ _⟩⟩, fun x f i hf ho hk => ?_, fun x i hall => ?_, ?_, fun s c f hs hf hh => ?_⟩
  · have hu : x.unmet f.kind = true := unmet_iff.2 ⟨f, hf, rfl, not_met_of_outstanding ho⟩
    rcases hk with e | ⟨e, h⟩ | ⟨e, h⟩
    · exact held_iff.2 (.inl (e ▸ hu))
    · exact held_iff.2 (.inr (.inl ⟨h, e ▸ hu⟩))
    · exact held_iff.2 (.inr (.inr ⟨h, e ▸ hu⟩))
  · have hkind {k : FenceKind} (hu : x.unmet k = true) :
        k = .accesses ∧ makesAccess i = false ∨ k = .fills ∧ startsFill i = false := by
      obtain ⟨f, hf, rfl, hm⟩ := unmet_iff.1 hu
      exact (hall f hf).resolve_left (by rw [hm]; exact Bool.false_ne_true)
    refine Bool.eq_false_iff.2 fun hh => ?_
    rcases held_iff.1 hh with hu | ⟨ha, hu⟩ | ⟨ha, hu⟩
    · simpa using hkind hu
    · simpa [ha] using hkind hu
    · simpa [ha] using hkind hu
  · intro s g d a b c m n q ag sl ct u sh
    simp only [List.forall_mem_cons]
    refine ⟨?_, ?_, ?_, ?_, ?_, ?_, ?_, ?_, ?_, ?_, ?_, ?_, ?_, ?_, ?_, ?_, ?_, ?_, ?_, ?_, ?_, List.forall_mem_nil _⟩
    all_goals exact stands_of_held rfl
  · have hplain : (s.cpOf c.val).standsPlain = true := by rw [Cp.standsPlain, hs]; rfl
    have hfree : (s.cpOf c.val).heldByFence = false := by rw [Cp.heldByFence, hs]; exact hh
    show execFenceResume c s = _
    simp [execFenceResume, hplain, hfree, hf]

end Sys2Proof.Proofs
end

section
/-!
System forms (R147, R150), scalar floating point (R162-R168), and worked examples.
-/
namespace Sys2Proof.Proofs
open Sys2Proof.Machine Sys2Proof.Laws

/-- Settles O2, word by word. -/
theorem wordsDecode : Obligations.WordsDecode := by
  refine ⟨?_, ?_, ?_, ?_, ?_, ?_, ?_, ?_, ?_, ?_, ?_, ?_, ?_, ?_⟩
  all_goals rfl

/-- Settles O21, sum by sum. -/
theorem floatingRoundsTies : Obligations.FloatingRoundsTies := by
  refine ⟨?_, ?_, ?_, ?_, ?_, ?_, ?_⟩
  all_goals decide

/-- What `halt` leaves: the core issues no more, and its registers are as before. -/
theorem halt_leaves (s : State) :
    Leaves s (s.retire [] fun x => { x with ctl := { x.ctl with halted := true } }) [] (s.cp.regs.pc + 8) none none s.cp.k
      { s.cp.ctl with halted := true } :=
  leaves_modCp rfl ((retireTo_k (s.cp.regs.pc + 8) s.cp).trans (kAfter_nil s)) rfl

/-- Settles O9: the four forms are behind their checks; a reserved word has none. -/
theorem systemForms : Obligations.SystemForms := by
  refine fun s g code w => ⟨fun h => ⟨_, ready_run h, ?_⟩, fun h => ⟨_, ready_run h, ?_⟩, ready_run, ready_run,
    traps_reservedOpcode s w⟩
  · rw [← kAfter_nil s]
    exact ends_retireTo s [] _
  · have hl := halt_leaves s
    refine ⟨by rw [hl.ctl], ?_, hl.pc, hl.kregs, hl.reg, hl.rest⟩
    simp [Cp.alive, hl.ctl]

section
variable {s : State} {i : Instr} {g : Guard} {srcs : List Src}

/-- A floating form ends with its result in gD and its flags added to those that stand (R163). -/
theorem ends_fpForm {d : Reg} {r : Word × FFlags} (h : Ready s g false srcs) (he : exec i s = fpForm s i g srcs d r) :
    ∃ t, exec i s = .next t ∧ Ends s t srcs (s.cp.regs.pc + 8) (some (d, r.1)) none
      { kAfter s srcs with flags := s.cp.k.flags ||| r.2 } := by
  refine ⟨_, he.trans (ready_run h), ends_modCp rfl ?_ rfl⟩
  exact congrArg (fun k : KRegs => { k with flags := s.cp.k.flags ||| r.2 }) (retireTo_k (s.cp.regs.pc + 8) s.cp)

/-- The comparison does so with its truth in pD (R166). -/
theorem ends_fcmp {d : PReg} {r : Bool × FFlags} (h : Ready s g false srcs)
    (he : exec i s = runForm s i g false srcs (.next (s.retire srcs fun x => (x.putPred d r.1).raiseFlags r.2))) :
    ∃ t, exec i s = .next t ∧ Ends s t srcs (s.cp.regs.pc + 8) none (some (d, r.1))
      { kAfter s srcs with flags := s.cp.k.flags ||| r.2 } := by
  refine ⟨_, he.trans (ready_run h), ends_modCp rfl ?_ rfl⟩
  exact congrArg (fun k : KRegs => { k with flags := s.cp.k.flags ||| r.2 }) (retireTo_k (s.cp.regs.pc + 8) s.cp)

end

/-- Settles O18: every form but `fcmp` and `fclass` is an `fpForm`; `fclass` raises no flag. -/
theorem floatingFormsComplete : Obligations.FloatingFormsComplete := by
  refine fun s g f d p a b c rel fromInt n => ⟨fun h => ⟨?_, ?_, ?_, ?_, ?_, ?_, ?_⟩, fun h => ends_fpForm h rfl,
    fun h => ⟨ends_fpForm h rfl, ends_fpForm h rfl, ?_⟩⟩
  · exact ends_fpForm h rfl
  · exact ends_fpForm h rfl
  · exact ends_fpForm h rfl
  · exact ends_fpForm h rfl
  · exact ends_fpForm h rfl
  · exact ends_fpForm h rfl
  · exact ends_fcmp h rfl
  · obtain ⟨t, ht, hw⟩ := writes_alu (i := .fclass g f d a) h rfl rfl
    have hflags : s.cp.k.flags ||| (0 : FFlags) = s.cp.k.flags := BitVec.or_zero
    refine ⟨t, ht, ?_⟩
    dsimp only
    rw [hflags]
    exact hw

/-- Settles O58: no core is listed in the reset state, so each is the core of reset. -/
theorem resetState : Obligations.ResetState := by
  refine ⟨fun c => ?_, rfl, rfl, rfl, rfl⟩
  have hc : State.reset.cpOf c = Core.reset.cp := rfl
  rw [hc]
  exact ⟨by decide, by decide, rfl, rfl⟩

end Sys2Proof.Proofs
end

section
/-!
What a step carries out (R39, R144, R405, R468; log entries 1 and 28).
-/
namespace Sys2Proof.Proofs
open Sys2Proof.Machine Sys2Proof.Laws

/-- The core may act: it is bound and runs, nothing holds it back, and no trap is due (R41, R47, R144, R227, R337, R450). -/
structure FreeToIssue (s : State) : Prop where
  alive : s.cp.alive = true
  started : s.unstarted s.focus.val = false
  near : s.cp.ctl.reqs.any (fun r => r.far) = false
  calm : s.waved s.focus.val = false
  loaded : (s.grid s.focus.val).loads.any (fun l => l.reg.isNone) = false
  undecided : s.verdictDue s.focus.val = false
  untrapped : s.cp.trapPending = false

/-- The state in which the issue of the word in block `n` is counted, once for a form that a fence held (R445, log entry 28). -/
def issued (s : State) (n : Nat) : State :=
  (s.cacheRead s.focus.val n (s.cp.regs.pc.toNat / 8 % 512)).modCore s.focus.val fun y =>
    { y with
      cp := { y.cp with ctl := { y.cp.ctl with entry := false, issued := s.cyc + 1, again := false } }
      grid := { y.grid with
        pcs := if s.cp.ctl.again then y.grid.pcs else tabSet 0 y.grid.pcs 13 (tabGet 0 y.grid.pcs 13 + 1) }
      cache := y.cache.touch n }

theorem focus_issued (s : State) (n : Nat) : (issued s n).focus = s.focus := by
  rw [issued, modCore_focus, State.cacheRead]
  split
  · rfl
  · rfl

section
variable {s : State}

/-- A form that stands and has read its record goes on (R290). -/
theorem planAlone_of_record (h : FreeToIssue s) {f : Standing} {r : RecordGot} {l : List RecordGot}
    (hf : s.cp.ctl.standing = some f) (hr : s.cp.ctl.records = r :: l) : s.planAlone s.focus = .run f.form s := by
  unfold State.planAlone
  extract_lets u x
  obtain ⟨hu, hx⟩ : u = s ∧ x = s.cp := ⟨rfl, rfl⟩
  clear_value x u
  subst hu hx
  rw [h.alive, h.started, h.near, h.calm, h.loaded, h.undecided, h.untrapped, hf, hr]
  rfl

/-- A core at which nothing stands issues the form at its program counter, if it waits for no register. -/
theorem planAlone_of_word (h : FreeToIssue s) {w : Word} {n : Nat} (hs : s.cp.ctl.standing = none)
    (hi : s.cp.ctl.issued ≠ s.cyc + 1) (hf : s.fetch s.focus.val = .word w n)
    (hw : s.cp.waitsFor (instrOf w) = false) : s.planAlone s.focus = .run (instrOf w) (issued s n) := by
  unfold State.planAlone
  extract_lets u x
  obtain ⟨hu, hx⟩ : u = s ∧ x = s.cp := ⟨rfl, rfl⟩
  clear_value x u
  subst hu hx
  rw [h.alive, h.started, h.near, h.calm, h.loaded, h.undecided, h.untrapped, hs, hf]
  dsimp only
  rw [hw, beq_eq_false_iff_ne.2 hi]
  rfl

/-- No command to the pair engine of a lower core of the cluster goes ahead of this form (R405). -/
def FirstOfCluster (s : State) (i : Instr) : Prop :=
  pairCmd i = true → ∀ d : CoreIx, d.val / 12 = s.focus.val / 12 → d.val < s.focus.val →
    ∀ j t, s.planAlone d = .run j t → pairCmd j = false

theorem plan_of_alone {i : Instr} {t : State} (hp : s.planAlone s.focus = .run i t) (hf : FirstOfCluster s i) :
    s.plan s.focus = .run i t := by
  rw [State.plan, hp]
  refine if_neg fun h => ?_
  obtain ⟨hi, hany⟩ := Bool.and_eq_true_iff.1 h
  obtain ⟨d, hd, hcmd⟩ := List.any_eq_true.1 hany
  obtain ⟨hlo, hhi⟩ := mem_rangeFrom.1 hd
  have hv : (Fin.ofNat 768 d).val = d := Nat.mod_eq_of_lt (by have := s.focus.isLt; omega)
  split at hcmd
  next j u hj =>
    have := hf hi (Fin.ofNat 768 d) (by omega) (by omega) j u hj
    exact absurd (this.symm.trans hcmd) nofun
  next => exact nomatch hcmd

/-- With an empty agenda a step carries out the focus core's plan; where it changes nothing at the core the units go on. -/
theorem step_of_plan {i : Instr} {u t : State} (ha : s.agenda = []) (hs : s.stopped = false)
    (hp : s.plan s.focus = .run i u) (hu : u.focus = s.focus) (he : exec i u = .next t) :
    step s = if t.core s.focus.val = u.core s.focus.val then stepUnits s else .next t := by
  unfold step
  rw [ha]
  dsimp only
  rw [hs, if_neg Bool.false_ne_true, hp]
  dsimp only [stepPlan]
  rw [he, hu]

end

/-- Settles O3: what the planner gives the focus core is carried out. -/
theorem stepRunsDecoded : Obligations.StepRunsDecoded := by
  intro s w n ha hs h1 h2 h3 h4 h5 h6 h7
  have hfree : FreeToIssue s := ⟨h1, h2, h3, h4, h5, h6, h7⟩
  refine ⟨fun f r l hf hr hfirst t ht => ?_, fun hst hi hw hwait hfirst t ht => ?_⟩
  · exact step_of_plan ha hs (plan_of_alone (planAlone_of_record hfree hf hr) hfirst) rfl ht
  · exact step_of_plan ha hs (plan_of_alone (planAlone_of_word hfree hst hi hw hwait) hfirst) (focus_issued s n) ht

theorem mayStep_of_not_stopped {s : State} (h : s.stopped = false) (i : Instr) : s.mayStep i = true := by
  simp [State.mayStep, h]

/-- Settles O4: the cases of `step` and of `State.mayStep`. -/
theorem stepRunsEvent : Obligations.StepRunsEvent := by
  intro s i rest
  refine ⟨fun ha he hm => ?_, fun ha hm => ?_, fun hs hne => ?_, fun h => mayStep_of_not_stopped h i, ?_, fun r q h => ?_,
    fun hs => ?_⟩
  · rw [step, ha]; dsimp only; rw [hm, he]; rfl
  · rw [step, ha]; dsimp only; rw [hm]; rfl
  · unfold step
    split
    next e l hag => exact absurd hag (hne e l)
    · rw [hs]; rfl
    · rw [hs]; rfl
  · simp [State.mayStep]
  · simp [State.mayStep, h]
  · simp [State.mayStep, hs]

end Sys2Proof.Proofs
end

section
/-!
Commands: how one that is ready answers, is posted or stands (R39, R107, R169), and the work it posts (R501).
-/
namespace Sys2Proof.Proofs
open Sys2Proof.Machine Sys2Proof.Laws

section
variable {i : Instr} {s u : State} {g : Guard} {priv : Bool} {srcs : List Src} {d : Reg} {k : Result}

theorem exec_of_ready (h : CmdReady i s g priv srcs) (he : exec i s = cmdForm s i g priv srcs k) : exec i s = k :=
  he.trans (ready_cmd h.1 h.2)

theorem replies_of_ready {v : Word} (h : CmdReady i s g priv srcs) (he : exec i s = cmdForm s i g priv srcs k)
    (hk : k = u.reply srcs d v) : Replies i s u srcs d v :=
  replies_of ((exec_of_ready h he).trans hk)

theorem awaits_of_ready {o : Bool} (h : CmdReady i s g priv srcs) (he : exec i s = cmdForm s i g priv srcs k)
    (hk : k = .next (u.posted srcs d o)) : Awaits i s u srcs d o :=
  awaits_of ((exec_of_ready h he).trans hk)

theorem stands_of_ready (h : CmdReady i s g priv srcs) (he : exec i s = cmdForm s i g priv srcs k)
    (hk : k = s.stand i) : Stands i s :=
  stands_of ((exec_of_ready h he).trans hk)

end

/-- Posting work marks the grid as active and may open it again, and leaves the rest of it (R49, R501). -/
theorem grid_postWork (s : State) (c : Nat) : ∃ b, (s.postWork c).grid c = { s.grid c with act := true, closed := b } := by
  rw [State.postWork]
  dsimp only
  split
  · exact ⟨false, by rw [grid_modCpOf, grid_modGrid_same, State.active, grid_modGrid_same]⟩
  · exact ⟨(s.grid c).closed, by rw [State.active, grid_modGrid_same]⟩

section
variable (s : State) (c : Nat)

theorem waits_postWork : ((s.postWork c).grid c).waits = (s.grid c).waits := by
  obtain ⟨b, hb⟩ := grid_postWork s c
  rw [hb]

theorem evicts_postWork : ((s.postWork c).grid c).evicts = (s.grid c).evicts := by
  obtain ⟨b, hb⟩ := grid_postWork s c
  rw [hb]

theorem inbands_postWork : ((s.postWork c).grid c).inbands = (s.grid c).inbands := by
  obtain ⟨b, hb⟩ := grid_postWork s c
  rw [hb]

end

end Sys2Proof.Proofs
end

section
/-!
Configuration forms (R370-R378).
-/
namespace Sys2Proof.Proofs
open Sys2Proof.Machine Sys2Proof.Laws

theorem grid_takePlace (s : State) (c : Nat) (w : CfgWhat) : (s.takePlace c w).grid c = s.grid c := by
  unfold State.takePlace
  split
  · exact grid_modUnits ..
  · rfl

/-- STATUS 0 and 2 are not the refusal that posts no work (R371). -/
theorem cfgStatus_zero_bits (n : Nat) : ¬bits (cfgStatus 0 0 n) 62 2 = 1 := by
  have hn : n % 2 ^ 16 < 2 ^ 16 := Nat.mod_lt _ (by decide)
  simp only [bits, cfgStatus, BitVec.toNat_ofNat]
  omega

section
variable {s u : State} {w : CfgWhat} {unit : Option (BitVec 8)} {a : Src} {d : Reg}

/-- Behind an open command to its unit a configuration command waits in order (R370). -/
theorem cfgIssue_of_open (ho : (!((s.grid s.focus.val).before unit).isEmpty) = true) :
    s.cfgIssue w unit a d = .next ((((s.cfgQueue s.focus.val w unit (s.cp.val a).toNat d).takePlace s.focus.val w).postWork
      s.focus.val).posted [a] d false) := if_pos ho

/-- With none open it takes effect at once. -/
theorem cfgIssue_of_closed (ho : (!((s.grid s.focus.val).before unit).isEmpty) = false) :
    s.cfgIssue w unit a d = match s.cfgRun s.focus.val w unit (s.cp.val a).toNat s.cp.k.sys d with
      | .wait => .next s
      | .ends t w => if bits w 62 2 = 1 then t.reply [a] d w else (t.postWork s.focus.val).reply [a] d w
      | .goes t _ => .next (((t.takePlace s.focus.val w).postWork s.focus.val).posted [a] d false) := by
  unfold State.cfgIssue
  dsimp only
  rw [ho]
  rfl

theorem cfgIssue_of_ends {v : Word} (ho : (!((s.grid s.focus.val).before unit).isEmpty) = false)
    (hr : s.cfgRun s.focus.val w unit (s.cp.val a).toNat s.cp.k.sys d = .ends u v) (hv : ¬bits v 62 2 = 1) :
    s.cfgIssue w unit a d = (u.postWork s.focus.val).reply [a] d v := by
  rw [cfgIssue_of_closed ho, hr]
  exact if_neg hv

theorem cfgIssue_of_goes (ho : (!((s.grid s.focus.val).before unit).isEmpty) = false)
    (hr : s.cfgRun s.focus.val w unit (s.cp.val a).toNat s.cp.k.sys d = .goes u ()) :
    s.cfgIssue w unit a d = .next (((u.takePlace s.focus.val w).postWork s.focus.val).posted [a] d false) := by
  rw [cfgIssue_of_closed ho, hr]

theorem waits_cfgQueue (c va : Nat) :
    ((((s.cfgQueue c w unit va d).takePlace c w).postWork c).grid c).waits = (s.grid c).waits ++
      [⟨(s.grid c).nextLoad + 1, w, unit, va, (s.cpOf c).k.sys, d, (s.grid c).before unit⟩] := by
  rw [waits_postWork, grid_takePlace, State.cfgQueue, grid_modGrid_same]

end

/-- A configuration command behind an open one is posted, and its place in the list of those that wait is the last. -/
theorem cfg_queued {i : Instr} {s : State} {g : Guard} {a : Src} {d : Reg} {w : CfgWhat} {unit : Option (BitVec 8)}
    (h : CmdReady i s g false [a]) (he : exec i s = cmdForm s i g false [a] (s.cfgIssue w unit a d))
    (ho : (!((s.grid s.focus.val).before unit).isEmpty) = true) :
    ∃ v, Awaits i s v [a] d false ∧ (v.grid s.focus.val).waits = (s.grid s.focus.val).waits ++
      [⟨(s.grid s.focus.val).nextLoad + 1, w, unit, (s.cp.val a).toNat, s.cp.k.sys, d,
        (s.grid s.focus.val).before unit⟩] :=
  ⟨_, awaits_of_ready h he (cfgIssue_of_open ho), waits_cfgQueue s.focus.val (s.cp.val a).toNat⟩

/-- An image of frames that a generator can carry is emitted (R374). -/
theorem inbandFrames_goes {u : State} {c va ag order : Nat} {tag : BitVec 8} {d : Reg} {fs : List Frame}
    (hs : (u.slotFor c (0x30 + ag) tag).isSome = true) (hk : ∀ x ∈ fs, fKind x ≤ 3 ∨ fKind x = 7) (hne : fs ≠ [])
    (hb : (u.core c).cache.imageBad va fs.length = none) :
    u.inbandFrames c va ag tag order d fs = .goes ((u.imageRead c va fs.length).modGrid c fun g =>
      { g with
        nextLoad := g.nextLoad + 1
        inbands := g.inbands ++ [⟨g.nextLoad + 1, ag, tag, fs.flatMap inbandWords, fs.length, d, order⟩] }) () := by
  have hslot : (u.slotFor c (0x30 + ag) tag).isNone = false := by
    rw [Option.isNone_eq_false_iff, hs]
  have hany : (fs.any fun f => !(decide (fKind f ≤ 3) || fKind f == 7)) = false := by
    rw [List.any_eq_false]
    intro x hx
    rcases hk x hx with h | h <;> simp [h]
  rw [State.inbandFrames, hslot, hany, if_neg Bool.false_ne_true, if_neg Bool.false_ne_true, if_neg (by simpa using hne), hb]

theorem cfgRun_inband {s u : State} {c va ag order : Nat} {tag : BitVec 8} {unit : Option (BitVec 8)} {sys : Bool} {d : Reg}
    {fs : List Frame} (hf : s.cfgFetch c va sys = .goes u fs) :
    s.cfgRun c (.inband ag tag order) unit va sys d = u.inbandFrames c va ag tag order d fs := by
  rw [State.cfgRun, State.cfgInband, hf]

/-- `cfg.tag` answers with the old tag and sets the new one (R377). -/
theorem leaves_cfgTag (s : State) (d : Reg) (tag : BitVec 8) :
    Leaves s (s.complete [] fun x => { x.put d (x.k.ctag.setWidth 64) with k := { x.k with ctag := tag } }) []
      (s.cp.regs.pc + 8) (some (d, s.cp.k.ctag.setWidth 64)) none { s.cp.k with ctag := tag }
      { s.cp.ctl with standing := none, told := false, records := [] } :=
  leaves_modCp rfl (congrArg (fun k : KRegs => { k with ctag := tag }) (kAfter_nil s)) rfl

/-- Settles O33: fetch, load, mode 0 of evict and inband are issued alike, each with its own effect where no earlier command
is open; the others act at issue. -/
theorem configurationForms : Obligations.ConfigurationForms := by
  intro s u g d n a tag ag fs
  refine ⟨fun h => ⟨fun ho hf => ?_, cfg_queued h rfl⟩, fun h => ⟨fun ho hl => ?_, cfg_queued h rfl⟩,
    fun h => ⟨fun ho hf hs hk hne hb => ?_, cfg_queued h rfl⟩, fun h => ⟨fun y m ho hm h0 => ?_, cfg_queued h rfl⟩,
    fun m hm h => ?_, fun b h => replies_of_ready h rfl rfl, fun id b h => ⟨fun hb => ?_, fun hb => ?_⟩,
    fun h => ⟨_, exec_of_ready h rfl, leaves_cfgTag s d tag⟩, fun h => ⟨fun hd => ?_, fun hd ht => ?_, fun hd ht => ?_⟩,
    fun h => ⟨fun hs => ?_, fun hs => ?_⟩⟩
  · refine replies_of_ready h rfl (cfgIssue_of_ends ho ?_ (cfgStatus_zero_bits _))
    rw [State.cfgRun, hf]
  · exact awaits_of_ready h rfl (cfgIssue_of_goes ho hl)
  · have hr := inbandFrames_goes (order := (s.units s.focus.val).next) (d := d) hs hk hne hb
    let id := ((u.imageRead s.focus.val (s.cp.val a).toNat fs.length).grid s.focus.val).nextLoad + 1
    refine ⟨_, ⟨id, ag.val, s.cp.k.ctag, fs.flatMap inbandWords, fs.length, d, (s.units s.focus.val).next⟩,
      awaits_of_ready h rfl (cfgIssue_of_goes ho ((cfgRun_inband hf).trans hr)), ?_, rfl, rfl, rfl, rfl, rfl⟩
    rw [inbands_postWork, grid_takePlace, grid_modGrid_same]
  · refine replies_of_ready h rfl (cfgIssue_of_ends ho ?_ (cfgStatus_zero_bits _))
    rw [State.cfgRun, State.cfgEvict, hm]
    exact if_neg h0
  · have hevicts (e : EvictCmd) : ((((s.modGrid s.focus.val fun g =>
        { g with nextLoad := g.nextLoad + 1, evicts := g.evicts ++ [e] }).postWork s.focus.val).grid s.focus.val).evicts)
        = (s.grid s.focus.val).evicts ++ [e] := by
      rw [evicts_postWork, grid_modGrid_same]
    rcases hm with rfl | rfl
    · exact ⟨_, awaits_of_ready h rfl rfl, hevicts _⟩
    · exact ⟨_, awaits_of_ready h rfl rfl, hevicts _⟩
  · exact replies_of_ready h rfl (if_pos hb)
  · exact replies_of_ready h rfl (if_neg (Bool.eq_false_iff.1 hb))
  · exact replies_of_ready h rfl (if_pos hd)
  · exact stands_of_ready h rfl ((if_neg (Bool.eq_false_iff.1 hd)).trans (if_neg (Bool.eq_false_iff.1 ht)))
  · exact replies_of_ready h rfl ((if_neg (Bool.eq_false_iff.1 hd)).trans (if_pos ht))
  · refine ⟨_, replies_of_ready h rfl (if_pos hs), ?_⟩
    rw [grid_modGrid_same]
  · exact stands_of_ready h rfl (if_neg (Bool.eq_false_iff.1 hs))

end Sys2Proof.Proofs
end

section
/-!
Stream forms (R298-R307), and forms that read a record (R290).
-/
namespace Sys2Proof.Proofs
open Sys2Proof.Machine Sys2Proof.Laws

/-- A posted command, with what is claimed of the state of the units. -/
theorem awaits_such {i : Instr} {s : State} {g : Guard} {srcs : List Src} {d : Reg} {o : Bool} {k : Result} {P : State → Prop}
    (h : CmdReady i s g false srcs) (he : exec i s = cmdForm s i g false srcs k)
    (hk : ∃ u, k = .next (State.posted u srcs d o) ∧ P u) : ∃ u, Awaits i s u srcs d o ∧ P u :=
  hk.imp fun _ hu => ⟨awaits_of_ready h he hu.1, hu.2⟩

/-- Posting work changes no unit. -/
theorem units_postWork (s : State) (c n : Nat) : (s.postWork c).units n = s.units n := by
  rw [State.postWork]
  dsimp only
  split
  · rw [units_modCpOf, units_modGrid, State.active, units_modGrid]
  · rw [State.active, units_modGrid]

theorem cyc_postWork (s : State) (c : Nat) : (s.postWork c).cyc = s.cyc := by
  rw [State.postWork]
  dsimp only
  split
  · rw [modCpOf_cyc, modGrid_cyc, State.active, modGrid_cyc]
  · rw [State.active, modGrid_cyc]

section
variable (s : State) (c n i : Nat)

theorem stream_postWork : (s.postWork c).stream c n i = s.stream c n i := by
  rw [State.stream, State.stream, units_postWork]

theorem stream_setStream_same (x : Stream) : (s.setStream c n i x).stream c n i = x := by
  rw [State.stream, State.setStream, units_modUnits_same, tabGet_set, if_pos rfl]

end

/-- A cancel of a running stream with accesses or data in hand lets it run on, cancelling (R304). -/
theorem cancelStream_running {s : State} {c ag i : Nat} (hr : (s.stream c ag i).phase = .running)
    (he : ((s.stream c ag i).atEnd && (s.stream c ag i).x.delivered) = false) :
    s.cancelStream c ag i = s.setStream c ag i { s.stream c ag i with
      cancelling := true
      since := if (s.stream c ag i).cancelling then (s.stream c ag i).since else s.cyc + 1
      x := (s.stream c ag i).x.recalled } := by
  rw [State.cancelStream]
  dsimp only
  rw [hr]
  exact if_neg (Bool.eq_false_iff.1 he)

/-- A cancel leaves a stream that is over as it stands (R304). -/
theorem cancelStream_over {s : State} {c ag i : Nat} (hb : (s.stream c ag i).phase.busy = false) :
    s.cancelStream c ag i = s := by
  rw [State.cancelStream]
  split <;> simp_all [StreamPhase.busy]

/-- A launch whose record is accepted puts the stream in its slot and answers its identity (R299-R301). -/
theorem startStream_accepted {u : State} {srcs : List Src} {d : Reg} {ag slot : Nat} {kind : StreamForm} {r : Shape}
    {base seed : Word} {konst : Option Word} {defer : Bool} (hb : (u.stream u.focus.val ag slot).phase.busy = false)
    (hc : u.copyIn u.focus.val ag slot = none) (hr : refusal kind r (decide (ag < 4)) (u.portRaw u.focus.val r) = 0) :
    let x : Stream :=
      { Stream.reset with
        phase := .deferred, gen := (u.stream u.focus.val ag slot).gen + 1, record := r, base := base, seed := seed,
        konst := konst, ctag := u.cp.k.ctag, level := if shDegrade r then u.pkg.deg else 0, sys := u.cp.k.sys }
    let w := (u.setStream u.focus.val ag slot x).postWork u.focus.val
    u.startStream srcs d ag slot kind r base seed konst defer =
      State.reply (if defer then w else w.launch u.focus.val ag slot) srcs d (word (x.sid ag slot)) := by
  rw [State.startStream]
  dsimp only
  rw [hb, hc, hr]
  exact (if_neg Bool.false_ne_true).trans (if_neg fun h => h rfl)

section
variable {i : Instr} {s u : State} {va n align v : Nat} {k : State → Nat → Result}

/-- A form whose record has been read goes on with it. -/
theorem withRecord_of_ok (h : s.readRecord va n align = .ok u v) : withRecord s i va n align k = k u v := by
  rw [withRecord, h]

/-- A form that posts the reads of its record stands until they return (R144, R290). -/
theorem posts_record {g : Guard} {srcs : List Src} {gs : List Seg} (hrec : s.readRecord va n align = .post u gs)
    (h : CmdReady i s g false srcs) (he : exec i s = cmdForm s i g false srcs (withRecord s i va n align k)) :
    ∃ t, exec i s = .next t ∧ t.cp.ctl.standing = some ⟨i, none⟩ ∧ t.cp.regs = u.cp.regs ∧ t.cp.k = u.cp.k
      ∧ t.cp.ctl.reqs = u.cp.ctl.reqs ++
        [⟨u.cp.ctl.nextId, .record va n, gs, 0, 0, 0, u.cp.regs.pc, false, 0, [], false, true, []⟩] := by
  have hk : withRecord s i va n align k = .next (u.postRecord i va n gs) := by rw [withRecord, hrec]
  refine ⟨_, (exec_of_ready h he).trans hk, ?_⟩
  rw [State.postRecord, cp_modCp]
  exact ⟨rfl, rfl, rfl, rfl⟩

end

/-- Settles O34, clause by clause; a form that launches is one use of `startStream_accepted`. -/
theorem streamForms : Obligations.StreamForms := by
  intro s u g d a b c slot defer v
  dsimp only
  refine ⟨fun hf hrec => ⟨fun ag => ?_, fun ag hb hc hr h => ?_⟩, fun ag i hn hb hc hr h => ?_, fun ag i hn => ?_,
    fun ag cond hn => ?_, fun ag hn h => ?_, fun w => ?_, fun hd h => ?_, fun hd h => ?_, ?_⟩
  · rw [← hf]
    exact ⟨fun hb hc hr h => replies_of_ready h rfl ((withRecord_of_ok hrec).trans (startStream_accepted hb hc hr)),
      fun hb hc hr h => replies_of_ready h rfl ((withRecord_of_ok hrec).trans (startStream_accepted hb hc hr)),
      fun hb hc hr h => replies_of_ready h rfl ((withRecord_of_ok hrec).trans (startStream_accepted hb hc hr))⟩
  · rw [← hf] at hb hc hr ⊢
    exact replies_of_ready h rfl ((withRecord_of_ok hrec).trans (startStream_accepted hb hc hr))
  · refine replies_of_ready h rfl ?_
    rw [hn]
    exact startStream_accepted hb hc hr
  · refine ⟨fun h => ?_, fun hb h => ?_, fun hp he h => ?_, fun p inv hp hc h => ?_, fun p inv hp hc h => ?_,
      fun sb dbit inv hp h => ?_⟩
    · refine replies_of_ready h rfl ?_
      rw [hn]
    · refine replies_of_ready h rfl ?_
      dsimp only
      rw [hn]
      dsimp only
      rw [hb, if_neg Bool.false_ne_true, cancelStream_over hb, hb]
      exact if_neg Bool.false_ne_true
    · have hw : ((s.postWork s.focus.val).cancelStream s.focus.val ag.val i).stream s.focus.val ag.val i =
          { s.stream s.focus.val ag.val i with
            cancelling := true
            since := if (s.stream s.focus.val ag.val i).cancelling then (s.stream s.focus.val ag.val i).since else s.cyc + 1
            x := (s.stream s.focus.val ag.val i).x.recalled } := by
        rw [cancelStream_running (by rwa [stream_postWork]) (by rwa [stream_postWork]), stream_setStream_same,
          stream_postWork, cyc_postWork]
      have hbusy : (s.stream s.focus.val ag.val i).phase.busy = true := by rw [hp]; rfl
      refine awaits_such (P := fun t => (t.stream s.focus.val ag.val i).cancelling = true) h rfl ?_
      dsimp only
      rw [hn]
      dsimp only
      rw [hbusy, if_pos rfl, if_pos (by rw [hw]; exact hbusy)]
      exact ⟨_, rfl, by rw [stream_setStream_same, hw]⟩
    · refine replies_of_ready h rfl ?_
      dsimp only
      rw [hn]
      dsimp only
      rw [if_neg (fun hne => hne hp), if_pos hc]
    · refine replies_of_ready h rfl ?_
      dsimp only
      rw [hn]
      dsimp only
      rw [if_neg (fun hne => hne hp), if_neg (Bool.eq_false_iff.1 hc)]
    · refine replies_of_ready h rfl ?_
      dsimp only
      rw [hn]
      dsimp only
      rw [if_neg (fun hne => hne hp)]
  · refine ⟨fun h => ?_, fun h => ?_, fun h => ?_⟩
    · refine replies_of_ready h rfl ?_
      rw [hn]
    · refine replies_of_ready h rfl ?_
      dsimp only
      rw [hn]
    · refine replies_of_ready h rfl ?_
      dsimp only
      rw [hn]
  · refine replies_of_ready h rfl ?_
    rw [hn]
    rfl
  · exact ⟨fun hd h => replies_of_ready h rfl (if_pos hd), fun hd h => stands_of_ready h rfl (if_neg (Bool.eq_false_iff.1 hd)),
      fun hd h => replies_of_ready h rfl (if_pos hd), fun hd h => stands_of_ready h rfl (if_neg (Bool.eq_false_iff.1 hd))⟩
  · exact replies_of_ready h rfl (if_pos hd)
  · exact stands_of_ready h rfl (if_neg (Bool.eq_false_iff.1 hd))
  · intro ag af tm q i src srcs n gs hi h va hva hrec
    subst hva
    simp only [List.mem_cons, List.not_mem_nil, or_false, Prod.mk.injEq] at hi
    obtain ⟨rfl, rfl, rfl, rfl⟩ | ⟨rfl, rfl, rfl, rfl⟩ | ⟨rfl, rfl, rfl, rfl⟩ | ⟨rfl, rfl, rfl, rfl⟩ | ⟨rfl, rfl, rfl, rfl⟩ |
      ⟨rfl, rfl, rfl, rfl⟩ | ⟨rfl, rfl, rfl, rfl⟩ | ⟨rfl, rfl, rfl, rfl⟩ | ⟨rfl, rfl, rfl, rfl⟩ | ⟨rfl, rfl, rfl, rfl⟩ |
      ⟨rfl, rfl, rfl, rfl⟩ | ⟨rfl, rfl, rfl, rfl⟩ | ⟨rfl, rfl, rfl, rfl⟩ := hi
    all_goals exact posts_record hrec h rfl

end Sys2Proof.Proofs
end

section
/-!
Controller forms (R434-R437).
-/
namespace Sys2Proof.Proofs
open Sys2Proof.Machine Sys2Proof.Laws

/-- From `s` to `t` no slot of core `c` and no owner of one has changed. -/
structure SameSlots (c : Nat) (s t : State) : Prop where
  slots : (t.grid c).slots = (s.grid c).slots
  clusters : t.clusters = s.clusters
  kregs : (t.cpOf c).k = (s.cpOf c).k

namespace SameSlots
variable {c : Nat} {s t w : State}

theorem refl (c : Nat) (s : State) : SameSlots c s s := ⟨rfl, rfl, rfl⟩

theorem trans (h : SameSlots c s t) (h' : SameSlots c t w) : SameSlots c s w :=
  ⟨h'.slots.trans h.slots, h'.clusters.trans h.clusters, h'.kregs.trans h.kregs⟩

theorem modGrid {f : Grid → Grid} (hf : ∀ g, (f g).slots = g.slots) : SameSlots c s (s.modGrid c f) :=
  ⟨by rw [grid_modGrid_same, hf], rfl, by rw [cpOf_modGrid]⟩

theorem setCtl (n i : Nat) (x : Ctl) : SameSlots c s (s.setCtl c n i x) := modGrid fun _ => rfl

theorem slotFor (h : SameSlots c s t) (k : Nat) (tag : BitVec 8) : t.slotFor c k tag = s.slotFor c k tag := by
  have hat (i : Nat) : t.slotAt c k i = s.slotAt c k i := by
    rw [State.slotAt, State.slotAt, State.cluster, State.cluster, h.slots, h.clusters]
  have hown (i : Nat) : t.plainOwner c k i = s.plainOwner c k i := by
    rw [State.plainOwner, State.plainOwner, State.cluster, State.cluster, h.clusters]
  simp only [State.slotFor, hat, hown, h.kregs]

end SameSlots

theorem slotFor_lt {s : State} {c k i : Nat} {tag : BitVec 8} {f : Frame} (h : s.slotFor c k tag = some (i, f)) : i < 4 := by
  rw [State.slotFor, Option.map_eq_some_iff] at h
  obtain ⟨j, hj, hji⟩ := h
  cases hji
  exact Nat.lt_of_lt_of_eq (mem_rangeFrom.1 (mem_of_listFind hj)).2 (Nat.zero_add 4)

section
variable {s : State} {c n i k j : Nat} {x : Ctl}

theorem ctl_setCtl_same : (s.setCtl c n i x).ctl c n i = x := by
  rw [State.ctl, State.setCtl, grid_modGrid_same, tabGet_set, if_pos rfl]

theorem ctl_setCtl_ne (hi : i < 4) (hj : j < 4) (h : (k, j) ≠ (n, i)) : (s.setCtl c n i x).ctl c k j = s.ctl c k j := by
  have hne : 4 * n + i ≠ 4 * k + j := fun he => h (Prod.ext (by dsimp only; omega) (by dsimp only; omega))
  rw [State.ctl, State.ctl, State.setCtl, grid_modGrid_same, tabGet_set, if_neg hne]

theorem ctl_modCpOf {f : Cp → Cp} : (s.modCpOf c f).ctl c k j = s.ctl c k j := by
  rw [State.ctl, State.ctl, grid_modCpOf]

theorem ctl_postWork : (s.postWork c).ctl c k j = s.ctl c k j := by
  obtain ⟨b, hb⟩ := grid_postWork s c
  rw [State.ctl, State.ctl, hb]

end

/-! The ports forget requests, which changes no slot and no controller. -/

/-- From `s` to `t` no slot and no controller of core `c` has changed. -/
structure SameCtls (c : Nat) (s t : State) : Prop extends SameSlots c s t where
  ctls : (t.grid c).ctls = (s.grid c).ctls

namespace SameCtls
variable {c : Nat} {s t w : State}

theorem refl (c : Nat) (s : State) : SameCtls c s s := ⟨.refl c s, rfl⟩

theorem trans (h : SameCtls c s t) (h' : SameCtls c t w) : SameCtls c s w :=
  ⟨h.toSameSlots.trans h'.toSameSlots, h'.ctls.trans h.ctls⟩

theorem modGrid {f : Grid → Grid} (hf : ∀ g, (f g).slots = g.slots) (hc : ∀ g, (f g).ctls = g.ctls) :
    SameCtls c s (s.modGrid c f) :=
  ⟨.modGrid hf, by rw [grid_modGrid_same, hc]⟩

theorem ctl (h : SameCtls c s t) (n i : Nat) : t.ctl c n i = s.ctl c n i := by rw [State.ctl, State.ctl, h.ctls]

theorem foldl {α : Type} {f : State → α → State} (hf : ∀ s a, SameCtls c s (f s a)) (l : List α) (s : State) :
    SameCtls c s (l.foldl f s) := by
  induction l generalizing s with
  | nil => exact .refl c s
  | cons a l ih => exact (hf s a).trans (ih _)

theorem sendCtl (s : State) (c : Nat) (t : CtlToken) : SameCtls c s (s.sendCtl c t) := modGrid (fun _ => rfl) fun _ => rfl

theorem portForget (s : State) (c key : Nat) (r : PortReq) : SameCtls c s (s.portForget c key r) := by
  have h (s : State) (f : PortQ → PortQ) : SameCtls c s (s.modPortq c key f) := modGrid (fun _ => rfl) fun _ => rfl
  have hp (s : State) (i : Nat) (p : Port) : SameCtls c s (s.setPort c key i p) := modGrid (fun _ => rfl) fun _ => rfl
  rw [State.portForget]
  split
  · exact (h ..).trans (hp ..)
  · exact (h ..).trans (h ..)

theorem portsForget (s : State) (c n : Nat) (ks : List Nat) : SameCtls c s (s.portsForget c n ks) :=
  foldl (fun s key => foldl (fun s r => portForget s c key r) _ s) _ s

end SameCtls

/-! An abort of a tree: every controller of it that runs is marked as aborting, and then may end. -/

/-- A controller is aborting, or has ended aborted (R434). -/
def Aborts (x : Ctl) : Prop := x.aborting = true ∨ (x.running = false ∧ x.aborted = true)

theorem endRun_spec {s : State} {c n i : Nat} {f : Frame} {x : Ctl} :
    SameSlots c s (s.endRun c n i f x)
      ∧ (s.endRun c n i f x).ctl c n i =
          { x with running := false, permitted := false, aborting := false, aborted := x.aborting, opens := [] }
      ∧ ∀ k j, i < 4 → j < 4 → (k, j) ≠ (n, i) → (s.endRun c n i f x).ctl c k j = s.ctl c k j := by
  have hs : SameSlots c s ((s.setCtl c n i
      { x with running := false, permitted := false, aborting := false, aborted := x.aborting, opens := [] }).modCpOf c
        fun y => { y with ctl := { y.ctl with latch1 := true } }) :=
    (SameSlots.setCtl n i _).trans ⟨by rw [grid_modCpOf], rfl, by rw [cpOf_modCpOf_same]⟩
  rw [State.endRun]
  split
  · exact ⟨hs, by rw [ctl_modCpOf, ctl_setCtl_same], fun k j hi hj h => by rw [ctl_modCpOf, ctl_setCtl_ne hi hj h]⟩
  · refine ⟨hs.trans (SameCtls.sendCtl ..).toSameSlots, ?_, fun k j hi hj h => ?_⟩
    · rw [(SameCtls.sendCtl ..).ctl, ctl_modCpOf, ctl_setCtl_same]
    · rw [(SameCtls.sendCtl ..).ctl, ctl_modCpOf, ctl_setCtl_ne hi hj h]

/-- An aborting controller that goes on stays aborting, or ends aborted (R434). -/
theorem advance_aborting {s : State} {c n i : Nat} {f : Frame} (ha : (s.ctl c n i).aborting = true) :
    SameSlots c s (s.advance c n i f) ∧ Aborts ((s.advance c n i f).ctl c n i)
      ∧ ∀ k j, i < 4 → j < 4 → (k, j) ≠ (n, i) → (s.advance c n i f).ctl c k j = s.ctl c k j := by
  obtain ⟨x, hx, hxa⟩ : ∃ x : Ctl, (if !(fChildren f).isEmpty then
      { s.ctl c n i with
        complete := (s.ctl c n i).doneCount f
        iters := BitVec.ofNat 31 (((rangeFrom 0 ((s.ctl c n i).doneCount f)).filter fun j =>
          !(s.ctl c n i).spoiled.contains j).length) }
      else s.ctl c n i) = x ∧ x.aborting = true := ⟨_, rfl, by split <;> exact ha⟩
  have hset : SameSlots c s (s.setCtl c n i x) ∧ Aborts ((s.setCtl c n i x).ctl c n i)
      ∧ ∀ k j, i < 4 → j < 4 → (k, j) ≠ (n, i) → (s.setCtl c n i x).ctl c k j = s.ctl c k j :=
    ⟨.setCtl n i x, by rw [ctl_setCtl_same]; exact .inl hxa, fun k j hi hj h => ctl_setCtl_ne hi hj h⟩
  rw [State.advance]
  dsimp only
  rw [hx, if_pos hxa]
  split
  · exact hset
  · split
    · obtain ⟨hs, hc, ho⟩ := endRun_spec (s := s.setCtl c n i x) (c := c) (n := n) (i := i) (f := f) (x := x)
      exact ⟨hset.1.trans hs, by rw [hc]; exact .inr ⟨rfl, hxa⟩,
        fun k j hi hj h => (ho k j hi hj h).trans (hset.2.2 k j hi hj h)⟩
    · exact hset

section
variable {r : State} {c k i : Nat} {tag : BitVec 8} {f : Frame}

/-- Marking leaves the slots, marks a controller that runs, and unmarks none. -/
theorem markAborting_keeps {s : State} (h : SameSlots c r s) (hk : r.slotFor c (0x20 + k) tag = some (i, f)) (n : Nat) :
    SameSlots c r (s.markAborting c tag n)
      ∧ ((s.ctl c k i).running = true → ((s.markAborting c tag n).ctl c k i).running = true
        ∧ ((s.ctl c k i).aborting = true ∨ n = k → ((s.markAborting c tag n).ctl c k i).aborting = true)) := by
  rw [State.markAborting, h.slotFor]
  cases hn : r.slotFor c (0x20 + n) tag with
  | none =>
    refine ⟨h, fun hr => ⟨hr, fun ho => ho.elim id fun he => ?_⟩⟩
    rw [he, hk] at hn
    cases hn
  | some p =>
    obtain ⟨j, f'⟩ := p
    dsimp only
    split
    · next hrun =>
      have hf := SameCtls.portsForget s c (4 * n + j) ((s.ctl c n j).opens.map fun p => p.1)
      refine ⟨(h.trans hf.toSameSlots).trans (.setCtl n j _), fun hr => ?_⟩
      by_cases hsame : (k, i) = (n, j)
      · cases hsame
        rw [ctl_setCtl_same]
        exact ⟨hr, fun _ => rfl⟩
      · rw [ctl_setCtl_ne (slotFor_lt hn) (slotFor_lt hk) hsame, hf.ctl]
        refine ⟨hr, fun ho => ho.elim id fun he => ?_⟩
        subst he
        rw [hk] at hn
        cases hn
        exact absurd rfl hsame
    · next hrun =>
      refine ⟨h, fun hr => ⟨hr, fun ho => ho.elim id fun he => ?_⟩⟩
      subst he
      rw [hk] at hn
      cases hn
      exact absurd (by rw [hr]; rfl) hrun

theorem foldl_markAborting {l : List Nat} (hk : r.slotFor c (0x20 + k) tag = some (i, f)) {s : State}
    (h : SameSlots c r s) (hr : (s.ctl c k i).running = true) (hm : (s.ctl c k i).aborting = true ∨ k ∈ l) :
    SameSlots c r (l.foldl (fun s n => s.markAborting c tag n) s)
      ∧ ((l.foldl (fun s n => s.markAborting c tag n) s).ctl c k i).aborting = true := by
  induction l generalizing s with
  | nil => exact ⟨h, hm.resolve_right List.not_mem_nil⟩
  | cons n l ih =>
    obtain ⟨hs, hmark⟩ := markAborting_keeps h hk n
    obtain ⟨hr', ha⟩ := hmark hr
    refine ih hs hr' ?_
    rcases hm with hm | hm
    · exact .inl (ha (.inl hm))
    · exact (List.mem_cons.1 hm).imp (fun he => ha (.inr he.symm)) id

/-- Settling leaves the slots, and a controller that aborts or has ended aborted stays so. -/
theorem settleAborting_keeps {s : State} (h : SameSlots c r s) (hk : r.slotFor c (0x20 + k) tag = some (i, f)) (n : Nat) :
    SameSlots c r (s.settleAborting c tag n) ∧ (Aborts (s.ctl c k i) → Aborts ((s.settleAborting c tag n).ctl c k i)) := by
  rw [State.settleAborting, h.slotFor]
  cases hn : r.slotFor c (0x20 + n) tag with
  | none => exact ⟨h, id⟩
  | some p =>
    obtain ⟨j, f'⟩ := p
    dsimp only
    split
    · next ha =>
      obtain ⟨hs, hsame, ho⟩ := advance_aborting (f := f') ha
      refine ⟨h.trans hs, fun hab => ?_⟩
      by_cases hkn : (k, i) = (n, j)
      · cases hkn
        exact hsame
      · rwa [ho k i (slotFor_lt hn) (slotFor_lt hk) hkn]
    · exact ⟨h, id⟩

theorem foldl_settleAborting {l : List Nat} (hk : r.slotFor c (0x20 + k) tag = some (i, f)) {s : State}
    (h : SameSlots c r s) (ha : Aborts (s.ctl c k i)) :
    Aborts ((l.foldl (fun s n => s.settleAborting c tag n) s).ctl c k i) := by
  induction l generalizing s with
  | nil => exact ha
  | cons n l ih =>
    obtain ⟨hs, hab⟩ := settleAborting_keeps h hk n
    exact ih hs (hab ha)

/-- Every running controller of a tree that is aborted aborts (R434, R437). -/
theorem abortTree_aborts {l : List Nat} (hl : k ∈ l) (hk : r.slotFor c (0x20 + k) tag = some (i, f))
    (hr : (r.ctl c k i).running = true) : Aborts ((r.abortTree c tag l).ctl c k i) := by
  obtain ⟨hs, ha⟩ := foldl_markAborting hk (.refl c r) hr (.inr hl)
  exact foldl_settleAborting hk hs (.inl ha)

end

/-! The start of a tree by `ctl.go`. -/

/-- What `ctl.go` does at one controller of the tree of `root` (R437). -/
def startAt (c : Nat) (tag : BitVec 8) (root : Nat) (s : State) (n : Nat) : State :=
  match s.slotFor c (0x20 + n) tag with
  | some (i, _) => s.setCtl c n i
      { s.ctl c n i with
        cur := [], granted := [], returned := [], spoiled := [], opens := [], opened := 0, complete := 0, iters := 0,
        aborted := false, aborting := false, running := decide (n = root) }
  | none => s

/-- A controller that has just been started (R437). -/
def Started (x : Ctl) : Prop := x.running = true ∧ x.iters = 0 ∧ x.opens = [] ∧ x.aborted = false

section
variable {r : State} {c k i : Nat} {tag : BitVec 8} {f : Frame}

theorem foldl_startAt {l : List Nat} (hk : r.slotFor c (0x20 + k) tag = some (i, f)) {s : State} (h : SameSlots c r s)
    (hm : Started (s.ctl c k i) ∨ k ∈ l) : Started ((l.foldl (startAt c tag k) s).ctl c k i) := by
  induction l generalizing s with
  | nil => exact hm.resolve_right List.not_mem_nil
  | cons n l ih =>
    rw [List.foldl_cons]
    unfold startAt
    rw [h.slotFor]
    cases hn : r.slotFor c (0x20 + n) tag with
    | none =>
      refine ih h (hm.imp id fun hm => (List.mem_cons.1 hm).resolve_left fun he => ?_)
      rw [← he, hk] at hn
      cases hn
    | some p =>
      obtain ⟨j, f'⟩ := p
      refine ih (h.trans (.setCtl n j _)) ?_
      by_cases hkn : (k, i) = (n, j)
      · cases hkn
        rw [ctl_setCtl_same]
        exact .inl ⟨decide_eq_true rfl, rfl, rfl, rfl⟩
      · rw [ctl_setCtl_ne (slotFor_lt hn) (slotFor_lt hk) hkn]
        refine hm.imp id fun hm => (List.mem_cons.1 hm).resolve_left fun he => ?_
        subst he
        rw [hk] at hn
        cases hn
        exact hkn rfl

/-- A controller is of its own tree. -/
theorem mem_treeOf {s : State} {m : Nat} {l : List Nat} (h : k ∈ l) (hk : k < 8) : k ∈ s.treeOf c tag l m := by
  induction m generalizing l with
  | zero => exact h
  | succ m ih =>
    refine ih (List.mem_filter.2 ⟨mem_rangeFrom.2 ⟨Nat.zero_le k, by omega⟩, ?_⟩)
    rw [List.contains_iff_mem.2 h, Bool.true_or]

end

/-- `ctl.go` of a root whose tree is stopped starts the tree and sends the permit (R437). -/
theorem ctlGo_accepted {s : State} {g : Guard} {d : Reg} {ct : Fin 8} {i : Nat} {f : Frame}
    (h : CmdReady (.ctlGo g d ct) s g false []) (hf : s.slotFor s.focus.val (0x20 + ct.val) s.cp.k.ctag = some (i, f))
    (hp : fParent f = 15)
    (hstop : (s.treeOf s.focus.val s.cp.k.ctag [ct.val] 8).all (fun k =>
      (s.slotFor s.focus.val (0x20 + k) s.cp.k.ctag).all fun p => !(s.ctl s.focus.val k p.1).running) = true) :
    exec (.ctlGo g d ct) s = ctlAccept
      (((s.treeOf s.focus.val s.cp.k.ctag [ct.val] 8).foldl (startAt s.focus.val s.cp.k.ctag ct.val) s).sendCtl
        s.focus.val ⟨false, true, 0, ct.val, s.cp.k.ctag, false, 0, 0⟩) s.focus.val s.cp.k.ctag [] d ct.val := by
  have hstep (t : State) (n : Nat) : (match (t.slotFor s.focus.val (0x20 + n) s.cp.k.ctag).map fun p =>
        (p.1, t.ctl s.focus.val n p.1) with
      | some (i, x) => t.setCtl s.focus.val n i
          { x with
            cur := [], granted := [], returned := [], spoiled := [], opens := [], opened := 0, complete := 0, iters := 0,
            aborted := false, aborting := false, running := decide (n = ct.val) }
      | none => t) = startAt s.focus.val s.cp.k.ctag ct.val t n := by
    rw [startAt]
    cases t.slotFor s.focus.val (0x20 + n) s.cp.k.ctag <;> rfl
  have hany : ((s.treeOf s.focus.val s.cp.k.ctag [ct.val] 8).any fun n =>
      match (s.slotFor s.focus.val (0x20 + n) s.cp.k.ctag).map fun p => (p.1, s.ctl s.focus.val n p.1) with
      | some p => p.2.running
      | none => false) = false := by
    refine List.any_eq_false.2 fun n hn => ?_
    have hs := List.all_eq_true.1 hstop n hn
    cases hk : s.slotFor s.focus.val (0x20 + n) s.cp.k.ctag with
    | none => exact Bool.false_ne_true
    | some p =>
      rw [hk] at hs
      simpa using hs
  have he : exec (.ctlGo g d ct) s = cmdForm s (.ctlGo g d ct) g false [] _ := rfl
  rw [exec_of_ready h he]
  dsimp only
  rw [hf]
  dsimp only
  rw [hp]
  refine (if_neg (by decide)).trans ((if_neg (Bool.eq_false_iff.1 hany)).trans ?_)
  exact congrArg (fun fn => ctlAccept ((List.foldl fn s (s.treeOf s.focus.val s.cp.k.ctag [ct.val] 8)).sendCtl s.focus.val
    ⟨false, true, 0, ct.val, s.cp.k.ctag, false, 0, 0⟩) s.focus.val s.cp.k.ctag [] d ct.val) (funext fun t => funext (hstep t))

/-- Settles O35: the tree of an accepted `ctl.go` is started node by node, and an abort marks and then settles its tree. -/
theorem controllerForms : Obligations.ControllerForms := by
  intro s g d ct a n
  refine ⟨fun hn => ⟨fun h => ?_, fun h => ?_, fun h => ?_, fun h => ?_⟩, fun i f hf => ⟨fun hr hhi hlo hn h => ?_,
    fun h hp hstop => ?_, fun hr h => ?_, fun hr h => ?_, fun hr h => ?_, fun hr h => ?_⟩,
    fun r l k i f hl hk hr => abortTree_aborts hl hk hr⟩
  · refine replies_of_ready h rfl ?_
    dsimp only
    rw [hn]
    rfl
  · refine replies_of_ready h rfl ?_
    dsimp only
    rw [hn]
    rfl
  · refine replies_of_ready h rfl ?_
    dsimp only
    rw [hn]
    rfl
  · refine replies_of_ready h rfl ?_
    dsimp only
    rw [hn]
    rfl
  · refine replies_of_ready h rfl ?_
    dsimp only
    rw [hf]
    dsimp only
    rw [hr, if_neg Bool.false_ne_true, hhi, bne_self_eq_false, beq_false_of_ne hlo, decide_eq_false (Nat.not_le.2 hn)]
    exact if_neg Bool.false_ne_true
  · refine ⟨_, replies_of (ctlGo_accepted h hf hp hstop), ?_⟩
    obtain ⟨b, hb⟩ := grid_postWork
      (((s.treeOf s.focus.val s.cp.k.ctag [ct.val] 8).foldl (startAt s.focus.val s.cp.k.ctag ct.val) s).sendCtl
        s.focus.val ⟨false, true, 0, ct.val, s.cp.k.ctag, false, 0, 0⟩) s.focus.val
    obtain ⟨hrun, hiters, hopens, hab⟩ := foldl_startAt hf (.refl _ s) (.inr (mem_treeOf (List.mem_singleton_self ct.val) ct.isLt))
    rw [ctl_postWork, (SameCtls.sendCtl ..).ctl, hb]
    refine ⟨hrun, hiters, hopens, hab, ?_⟩
    rw [State.sendCtl, grid_modGrid_same]
    exact ⟨_, List.mem_append_right _ (List.mem_singleton_self _), rfl, rfl, rfl, rfl⟩
  · refine replies_of_ready h rfl ?_
    dsimp only
    rw [hf]
    exact if_neg (Bool.eq_false_iff.1 hr)
  · refine stands_of_ready h rfl ?_
    dsimp only
    rw [hf]
    exact if_pos hr
  · refine replies_of_ready h rfl ?_
    dsimp only
    rw [hf]
    exact if_pos (by rw [hr]; rfl)
  · refine replies_of_ready h rfl ?_
    dsimp only
    rw [hf]
    exact if_neg (by rw [hr]; exact Bool.false_ne_true)

end Sys2Proof.Proofs
end

section
/-!
Template, queue, semaphore and matrix forms (R188-R192, R311-R317, R439-R443).
-/
namespace Sys2Proof.Proofs
open Sys2Proof.Machine Sys2Proof.Laws

/-- Settles O36: each clause is one branch of its form. -/
theorem templateAndQueueForms : Obligations.TemplateAndQueueForms := by
  intro s u g d tm a n v
  refine ⟨fun hrec hf ha h => ?_, fun f hf => ⟨fun hr h => ?_, fun hr h => ?_⟩, fun hr h => ?_, fun hr h => ?_,
    fun hl hc h => ?_, fun hl hc h => ?_, fun h => replies_of_ready h rfl rfl, fun h => replies_of_ready h rfl rfl,
    fun h => replies_of_ready h rfl rfl, fun he h => ?_, fun w ids l hl hd h => ?_, fun i f x hs hraw hh ha h => ?_⟩
  · exact replies_of_ready h rfl ((withRecord_of_ok hrec).trans (if_neg fun hne => hne ha))
  · refine replies_of_ready h rfl ?_
    dsimp only
    rw [hf]
    dsimp only
    rw [hr]
    exact if_neg Bool.false_ne_true
  · refine stands_of_ready h rfl ?_
    dsimp only
    rw [hf]
    dsimp only
    rw [hr]
    exact if_pos rfl
  · exact replies_of_ready h rfl (if_pos hr)
  · exact stands_of_ready h rfl (if_neg (Bool.eq_false_iff.1 hr))
  · exact replies_of_ready h rfl ((if_neg (Nat.not_lt.2 hc)).trans (if_pos hl))
  · exact stands_of_ready h rfl ((if_neg (Nat.not_lt.2 hc)).trans (if_neg (Nat.not_le.2 hl)))
  · refine stands_of_ready h rfl ?_
    dsimp only
    rw [he]
  · refine replies_of_ready h rfl ?_
    dsimp only
    rw [hl]
    dsimp only
    rw [if_neg Bool.false_ne_true, hd]
    exact if_neg Bool.false_ne_true
  · refine replies_of_ready h rfl ?_
    dsimp only
    rw [hs]
    dsimp only
    rw [hraw, if_neg Bool.false_ne_true, hh]
    dsimp only
    rw [if_neg Bool.false_ne_true, ha]
    exact if_neg Bool.false_ne_true

section
variable {i : Instr} {s u t : State} {g : Guard} {srcs : List Src} {d : Reg} {a : Src} {va : Word} {op : AmoOp} {rel tok : Bool}
  {pa : Nat} {k : State → Nat → Result}

/-- A semaphore form whose word is checked goes on with it. -/
theorem withSem_of_ok (h : s.semCheck va op rel = .ok u pa) : withSem s va op rel k = k u pa := by
  rw [withSem, h]

/-- NEXT of a semaphore word is its upper half. -/
theorem semNext_natAt (u : State) (pa : Nat) : semNext (u.natAt pa 8) = u.natAt pa 8 / 2 ^ 32 := by
  have h := natAt_lt u pa 8
  rw [semNext]
  omega

/-- A take whose ticket is served completes with the ticket. -/
theorem semTaking_served {v sb : Nat} {tk : BitVec 32} (h : u.semTest pa tk.toNat = (t, some v)) :
    u.semTaking i d a false sb pa tk = t.reply [a] d (tk.setWidth 64) := by
  rw [State.semTaking, h]
  rfl

/-- A take whose turn has not come stands with its ticket. -/
theorem semTaking_waits {sb : Nat} {tk : BitVec 32} (h : u.semTest pa tk.toNat = (t, none)) :
    u.semTaking i d a tok sb pa tk = .next (t.modCp fun x => x.stand i (some ⟨pa, some tk, false⟩)) := by
  rw [State.semTaking, h]

end

section
variable {i : Instr} {u t : State} {d : Reg} {a b : Src} {pa : Nat}

theorem semWaiting_reached {v : Nat} (h : u.semTest pa (u.cp.val b).toNat = (t, some v)) :
    u.semWaiting i d a b pa = t.reply [a, b] d (word v) := by
  rw [State.semWaiting, h]

theorem semWaiting_waits (h : u.semTest pa (u.cp.val b).toNat = (t, none)) :
    u.semWaiting i d a b pa = .next (t.modCp fun x => x.stand i (some ⟨pa, none, false⟩)) := by
  rw [State.semWaiting, h]

end

/-- Settles O37: the check of the word gives its old value, and the rest is the arithmetic of its halves. -/
theorem semaphoreForms : Obligations.SemaphoreForms := by
  intro s u g d a b n sb pa
  dsimp only
  intro hf
  have hlt := natAt_lt u pa 8
  refine ⟨fun h hc => ⟨_, replies_of_ready h rfl (withSem_of_ok hc), ?_⟩,
    fun h hc => ⟨_, replies_of_ready h rfl (withSem_of_ok hc), ?_⟩, fun h hc => ?_,
    fun h hc => ⟨fun t v ht => replies_of_ready h rfl ((withSem_of_ok hc).trans (semWaiting_reached ht)),
      fun t ht => (exec_of_ready h rfl).trans ((withSem_of_ok hc).trans (semWaiting_waits ht))⟩⟩
  · rw [natAt_writeNat, semServe]
    omega
  · rw [natAt_writeNat, semNext_natAt, semServe]
    omega
  · have hk : (BitVec.ofNat 32 (u.natAt pa 8 / 2 ^ 32)).toNat = u.natAt pa 8 / 2 ^ 32 := by
      rw [BitVec.toNat_ofNat]
      omega
    have hw : (BitVec.ofNat 32 (u.natAt pa 8 / 2 ^ 32)).setWidth 64 = BitVec.ofNat 64 (u.natAt pa 8 / 2 ^ 32) := by
      rw [← BitVec.ofNat_toNat, hk]
    have he := (exec_of_ready h rfl).trans (withSem_of_ok hc)
    dsimp only at he
    rw [semNext_natAt] at he
    refine ⟨fun t v ht => ?_, fun t ht => ?_⟩
    · refine replies_of (he.trans ?_)
      rw [← hw]
      exact semTaking_served (by rwa [hk])
    · exact he.trans (semTaking_waits (by rwa [hk]))

/-- Settles O38: each clause is one branch of its form. -/
theorem matrixForms : Obligations.MatrixForms := by
  intro s g d a acc row col
  refine ⟨fun hp hr h => ?_, fun hp hr h => ?_, fun hp h => ?_, fun hr h => ?_, fun hr h => ?_, fun hr => ⟨fun h => ?_, fun h => ?_⟩,
    fun h => replies_of_ready h rfl rfl⟩
  · exact replies_of_ready h rfl ((if_pos hp).trans (if_pos hr))
  · exact stands_of_ready h rfl ((if_pos hp).trans (if_neg (Bool.eq_false_iff.1 hr)))
  · exact replies_of_ready h rfl (if_neg (Bool.eq_false_iff.1 hp))
  · exact replies_of_ready h rfl (if_pos hr)
  · exact awaits_of_ready h rfl (if_pos hr)
  · exact stands_of_ready h rfl (if_neg (Bool.eq_false_iff.1 hr))
  · exact stands_of_ready h rfl (if_neg (Bool.eq_false_iff.1 hr))

end Sys2Proof.Proofs
end

section
/-!
Collective, pair and KV forms (R343-R345, R405-R416, R420).
-/
namespace Sys2Proof.Proofs
open Sys2Proof.Machine Sys2Proof.Laws

section
variable {s u : State} {i : Instr} {g : Guard} {d : Reg} {a : Src} {form : CollForm} {v n : Nat} {table : List Word}

/-- The slot that an accepted collective takes (R343). -/
def collIssued (u : State) (form : CollForm) (x : CollDesc) (table : List Word) (c : Nat) : CollSlot :=
  { CollSlot.reset with
    used := true, form := form, phase := .rendezvous, desc := x, table := table, ctag := u.cp.k.ctag,
    sys := u.cp.k.sys, order := u.stations.nextIssue, covered := u.covered c }

/-- An issuing form whose descriptor and table are accepted takes the first free slot (R343). -/
theorem collForm_accepted (h : CmdReady i s g false [a]) (he : exec i s = collForm s i g d a form)
    (hrec : s.readRecord (s.cp.val a).toNat 128 128 = .ok u v)
    (htab : u.readTable i (cdWord (BitVec.ofNat 1024 v) 2) (cdNmem (BitVec.ofNat 1024 v)) [] = .ok table)
    (hslot : listFind (fun n => !(u.coll s.focus.val n).used) (rangeFrom 0 8) = some n)
    (hcheck : u.collCheck s.focus.val u.cp.k.ctag form (BitVec.ofNat 1024 v) = 0) (hres : tableReserved table = false)
    (hsame : ((rangeFrom 0 8).any fun m => (u.coll s.focus.val m).used
      && cdTeam (u.coll s.focus.val m).desc == cdTeam (BitVec.ofNat 1024 v)
      && cdSeq (u.coll s.focus.val m).desc == cdSeq (BitVec.ofNat 1024 v)) = false) :
    exec i s = ((u.setColl s.focus.val n (collIssued u form (BitVec.ofNat 1024 v) table s.focus.val)).modStations fun y =>
      { y with nextIssue := y.nextIssue + 1 }).reply [a] d (collHandle n (BitVec.ofNat 1024 v)) := by
  refine (exec_of_ready h he).trans ((withRecord_of_ok hrec).trans ?_)
  dsimp only
  rw [htab]
  dsimp only
  rw [hslot]
  dsimp only
  rw [hcheck, hres, hsame]
  rfl

theorem coll_setColl_same (c : Nat) (x : CollSlot) : (u.setColl c n x).coll c n = x := by
  rw [State.coll, State.setColl, core_modCore_same, tabGet_set, if_pos rfl]

end

/-- Settles O39: the six issuing forms are one form, and `coll.wait` looks at the phase of its slot. -/
theorem collectiveForms : Obligations.CollectiveForms := by
  intro s u g d a v n table
  refine ⟨fun i form hi h hrec htab hf hslot hcheck hres hsame => ?_, fun h hn => ⟨fun he => ?_, fun he => ?_⟩⟩
  · have he : exec i s = collForm s i g d a form := by
      simp only [List.mem_cons, List.not_mem_nil, or_false, Prod.mk.injEq] at hi
      obtain ⟨rfl, rfl⟩ | ⟨rfl, rfl⟩ | ⟨rfl, rfl⟩ | ⟨rfl, rfl⟩ | ⟨rfl, rfl⟩ | ⟨rfl, rfl⟩ := hi
      all_goals rfl
    refine ⟨_, replies_of (collForm_accepted h he hrec htab hslot hcheck hres hsame), ?_⟩
    have hc : ((u.setColl s.focus.val n (collIssued u form (BitVec.ofNat 1024 v) table s.focus.val)).modStations fun y =>
        { y with nextIssue := y.nextIssue + 1 }).coll s.focus.val n =
          collIssued u form (BitVec.ofNat 1024 v) table s.focus.val := coll_setColl_same ..
    rw [hc]
    exact ⟨rfl, rfl, rfl, rfl, rfl⟩
  · refine replies_of_ready h rfl ?_
    dsimp only
    rw [hn]
    exact if_pos he
  · refine stands_of_ready h rfl ?_
    dsimp only
    rw [hn]
    exact if_neg he

theorem pair_setPair_same (s : State) (k : Nat) (x : Pair) : (s.setPair k x).pair k = x := by
  rw [State.pair, State.setPair, cluster_modCluster_same]

/-- Settles O40: each clause is one branch of its form. -/
theorem pairForms : Obligations.PairForms := by
  intro s u g d a b sb dig v
  refine ⟨fun hrec hf hfree hrun hrecOk hok h => ?_, fun hm hr h => ?_, fun h hm hr hp ha hb i f hs hk => ?_, fun h => ?_,
    fun hm => ⟨fun ho h => ?_, fun o ho => ⟨fun hp h => ?_, fun hp h => ?_⟩⟩⟩
  · refine replies_of_ready h rfl ((withRecord_of_ok hrec).trans ?_)
    dsimp only
    rw [if_neg (fun hx => hx.1 hfree), hrun, hrecOk, hok]
    rfl
  · refine awaits_of_ready h rfl ?_
    dsimp only
    rw [hm, hr]
    rfl
  · refine awaits_such (P := fun t => (t.pair (s.focus.val / 12)).phase = .scanning) h rfl ?_
    dsimp only
    rw [hm, hr, Bool.not_true, if_neg Bool.false_ne_true, if_neg Bool.false_ne_true, if_neg (fun hx => hx hp),
      if_neg (by omega), hs]
    dsimp only
    rw [if_neg (fun hx => hx hk)]
    exact ⟨_, rfl, by rw [pair_setPair_same]⟩
  · refine replies_of_ready h rfl ?_
    dsimp only
    cases s.pairMine s.focus.val <;> rfl
  · refine replies_of_ready h rfl ?_
    dsimp only
    rw [hm, ho]
    rfl
  · refine replies_of_ready h rfl ?_
    dsimp only
    rw [hm, ho]
    exact if_pos hp
  · refine awaits_of_ready h rfl ?_
    dsimp only
    rw [hm, ho]
    exact if_neg hp

/-- A posted command leaves its register pending and goes on with the next instruction (R169). -/
theorem leaves_posted (s : State) (srcs : List Src) (d : Reg) (o : Bool) :
    Leaves s (s.posted srcs d o) srcs (s.cp.regs.pc + 8) none none (kAfter s srcs) (awaiting s.cp.ctl d o) := by
  refine leaves_modCp (f := fun x => x.complete srcs fun y => y.awaitReg d o) ?_
    (complete_k_eq _ _ fun y => awaitReg_k y d o) ?_
  · rw [complete_regs, Cp.retire, Cp.retireTo, awaitReg_regs]
    rfl
  · simp only [Cp.complete, Cp.retire, Cp.retireTo, Cp.awaitReg, awaiting]
    split <;> rfl

/-- A KV form posts its request where its operand words are valid, and is refused with reason 7 where they are not (R420). -/
theorem kvForm_spec {i : Instr} {s : State} {g : Guard} {d : Reg} {srcs : List Src} {kind : KvKind} {die : Nat} {ok : Bool}
    {a b : Word} (h : CmdReady i s g false srcs) (he : exec i s = kvForm s i g d srcs kind die ok a b) :
    (ok = true →
      ∃ t, exec i s = .next t
        ∧ t.kv.reqs = s.kv.reqs ++ [⟨s.focus.val, d, kind, a, b, die, .first, s.outstanding s.focus.val 3, 0, []⟩]
        ∧ t.cp.regs.pc = s.cp.regs.pc + 8 ∧ t.cp.ctl = awaiting s.cp.ctl d true ∧ t.mem = s.mem
        ∧ ∀ r, t.cp.regs.get r = regAfter s srcs none r)
    ∧ (ok = false → Replies i s s srcs d (kvRefused 7)) := by
  refine ⟨fun hok => ?_, fun hok => replies_of_ready h he (if_pos (by rw [hok]; rfl))⟩
  have hl := leaves_posted s srcs d true
  exact ⟨_, (exec_of_ready h he).trans (if_neg (by rw [hok]; exact Bool.false_ne_true)), rfl, hl.pc, hl.ctl, rfl, hl.reg⟩

/-- Settles O41: the six forms are one form with six checks of the operand words. -/
theorem kvForms : Obligations.KvForms := by
  intro s g d a b all clr
  dsimp only
  simp only [List.forall_mem_cons]
  exact ⟨fun h => kvForm_spec h rfl, fun h => kvForm_spec h rfl, fun h => kvForm_spec h rfl, fun h => kvForm_spec h rfl,
    fun h => kvForm_spec h rfl, fun h => kvForm_spec h rfl, fun _ hx => absurd hx List.not_mem_nil⟩

end Sys2Proof.Proofs
end

section
/-!
Task, freeze and quiescence forms (R148, R328-R333, R447, R460-R462).
-/
namespace Sys2Proof.Proofs
open Sys2Proof.Machine Sys2Proof.Laws

/-- A form without sources that changes the control state alone. -/
theorem leaves_completeCtl (s : State) (f : CpCtl → CpCtl) :
    Leaves s (s.complete [] fun x => { x with ctl := f x.ctl }) [] (s.cp.regs.pc + 8) none none s.cp.k
      { f s.cp.ctl with standing := none, told := false, records := [] } :=
  leaves_modCp rfl ((retireTo_k (s.cp.regs.pc + 8) s.cp).trans (kAfter_nil s)) rfl

/-- Settles O42, clause by clause: what a form needs of its record, slot or wave is a hypothesis of its clause. -/
theorem taskForms : Obligations.TaskForms := by
  intro s u g d a q n v k
  refine ⟨fun h hrec hf hok hfree => ?_, fun h => ⟨fun hd => ?_, fun hd => ?_⟩,
    fun h => ⟨fun hd => ?_, fun hd hu hr pa hpa => ?_⟩, fun h => replies_of_ready h rfl rfl,
    fun h w hw => ⟨fun p m hn => ⟨fun hp => ?_, fun hp => ?_⟩, fun hn => ?_⟩⟩
  · rw [← hf] at hfree ⊢
    refine replies_of_ready h rfl ((withRecord_of_ok hrec).trans ?_)
    dsimp only
    rw [hok, hfree]
    rfl
  · have he := (exec_of_ready h rfl).trans (if_pos hd)
    have hl := leaves_completeCtl (s.cancelDeferred s.focus.val) fun x => { x with done := true }
    refine ⟨_, he, ?_, ?_, ?_, hl.reg⟩
    · rw [hl.ctl]
    · rw [Cp.alive, hl.ctl]
      exact Bool.and_false _
    · rw [hl.pc]
  · exact (exec_of_ready h rfl).trans (if_neg (Bool.eq_false_iff.1 hd))
  · refine replies_of_ready h rfl ?_
    dsimp only
    rw [hd]
    rfl
  · refine (exec_of_ready h rfl).trans ?_
    dsimp only
    rw [hd, hu, hr, hpa]
    rfl
  · refine replies_of_ready h rfl ?_
    dsimp only
    rw [hw, hn]
    exact if_neg hp
  · refine replies_of_ready h rfl ?_
    dsimp only
    rw [hw, hn]
    exact if_pos hp
  · refine replies_of_ready h rfl ?_
    dsimp only
    rw [hw, hn]

section
variable (s : State) (d : Nat)

theorem cp_modDie (f : Die → Die) : (s.modDie d f).cp = s.cp := rfl

theorem cp_imageChecked (pa n : Nat) : (s.imageChecked pa n).cp = s.cp :=
  (keeps_foldl _ (fun s (p : Nat × Ecc) => keeps_correctHalf (paDie pa) s p.1) (s.marksIn pa n) s).issuing

end

section
variable {s t : State} {srcs : List Src} {d : Reg} {v : Word}

theorem cp_frzReply (h : s.frzReply srcs d v = .next t) : t.cp = (s.posted srcs d true).cp.deliver d v := by
  cases h
  exact cp_modCp (s.posted srcs d true) fun x => x.deliver d v

/-- A value that returns with its command waits in its pending register. -/
theorem mem_pend_frzReply (h : s.frzReply srcs d v = .next t) (hd : d ≠ 0) :
    (⟨d, true, some v⟩ : Pend) ∈ t.cp.ctl.pend := by
  rw [cp_frzReply h, Cp.deliver, (leaves_posted s srcs d true).ctl]
  refine List.mem_map.2 ⟨⟨d, true, none⟩, ?_, if_pos rfl⟩
  rw [awaiting]
  dsimp only
  rw [if_neg hd]
  exact List.mem_append_right _ (List.mem_singleton_self _)

theorem regs_frzReply (h : s.frzReply srcs d v = .next t) : t.cp.regs = (s.posted srcs d true).cp.regs := by
  rw [cp_frzReply h, Cp.deliver]

theorem dies_frzReply (h : s.frzReply srcs d v = .next t) : t.dies = s.dies := by
  cases h
  rw [State.deliver, modCpOf_dies, State.posted, State.complete, modCp_dies]

theorem mem_frzReply (h : s.frzReply srcs d v = .next t) : t.mem = s.mem := by
  cases h
  rw [State.deliver, modCpOf_mem, State.posted, State.complete, modCp_mem]

theorem clusters_frzReply (h : s.frzReply srcs d v = .next t) : t.clusters = s.clusters := by
  cases h
  rw [State.deliver, modCpOf_clusters, State.posted, State.complete, modCp_clusters]

end

/-- The scheduler once `frz.load` has made slot n of queue q a FROZEN task (R462). -/
def frozenLoaded (s : State) (e q n pa : Nat) (y : Image) : Sched :=
  let x := (s.die e).sched
  { (x.setSlot q n
      { TSlot.reset with
        used := true, gen := (x.slot q n).gen + 1, record := y.record, phase := .frozen, since := s.cyc, order := x.seq,
        tReady := s.ktime, shape := y.shape, prio := y.prio, xroot := y.xroot, image := some pa }) with
    seq := x.seq + 1 }

theorem slot_frozenLoaded (s : State) (e q n pa : Nat) (y : Image) :
    (frozenLoaded s e q n pa y).slot q n = { TSlot.reset with
      used := true, gen := ((s.die e).sched.slot q n).gen + 1, record := y.record, phase := .frozen, since := s.cyc
      order := (s.die e).sched.seq, tReady := s.ktime, shape := y.shape, prio := y.prio, xroot := y.xroot, image := some pa } := by
  simp only [frozenLoaded, Sched.slot, Sched.setSlot, tabGet_set, if_true]

/-- Settles O43: both forms go through every check to their last branch. -/
theorem freezeForms : Obligations.FreezeForms := by
  intro s g d a b q p n y
  refine ⟨fun h hn hne hr hok => ?_, fun h hok hy hok2 hfree => ?_⟩
  · refine ⟨_, (exec_of_ready h rfl).trans ?_, rfl, ?_, ?_⟩
    · dsimp only
      rw [hn]
      dsimp only
      rw [if_neg hne, if_neg (fun hx => hx hr), hok]
      rfl
    · rw [State.startWave, die_modDie_same]
      simp
    · exact (leaves_posted s [a, b] d true).pc
  · generalize he : s.focus.val / 96 = e at *
    generalize hpa : (s.cp.val a).toNat % 2 ^ 58 = pa at *
    obtain ⟨w, hw⟩ : ∃ w, w = (s.imageChecked pa (imageSize y.shape)).modDie e fun z =>
      { z with sched := frozenLoaded s e q.val n pa y } := ⟨_, rfl⟩
    obtain ⟨t, ht⟩ : ∃ t, w.frzReply [a] d ((frozenLoaded s e q.val n pa y).handle q.val n) = .next t := ⟨_, rfl⟩
    have hsched : (t.die e).sched = frozenLoaded s e q.val n pa y := by
      rw [State.die, dies_frzReply ht, ← State.die, hw, die_modDie_same]
    have hcp : w.cp = s.cp := by rw [hw, cp_modDie, cp_imageChecked]
    refine ⟨t, (exec_of_ready h rfl).trans ?_, ?_⟩
    · dsimp only
      rw [he, hpa, hok, hy]
      dsimp only
      rw [hok2, hfree, ← ht, hw]
      rfl
    · rw [hsched, slot_frozenLoaded, regs_frzReply ht, (leaves_posted w [a] d true).pc, hcp]
      exact ⟨rfl, rfl, rfl, rfl, rfl, fun hd => ⟨_, mem_pend_frzReply ht hd, rfl⟩⟩

/-- Settles O44: `wait` and `qui.poll` end on their condition and stand without it. -/
theorem quiescenceForms : Obligations.QuiescenceForms := by
  intro s g d a sel
  refine ⟨fun h => replies_of_ready h rfl rfl, fun hv h => ?_, fun hv h => ?_, fun h => replies_of_ready h rfl rfl,
    fun h => ⟨fun he => ?_, fun hw => ?_, fun he hw => ?_⟩⟩
  · exact replies_of_ready h rfl (if_neg (by simpa using hv))
  · exact stands_of_ready h rfl (if_pos (by simpa using hv))
  · exact ⟨_, (ready_run h).trans (if_pos he), leaves_completeCtl s id⟩
  · have he : s.cp.k.evt ≠ 0 := fun he => hw (by rw [he]; exact BitVec.zero_and)
    exact ⟨_, (ready_run h).trans ((if_neg he).trans (if_neg hw)), leaves_completeCtl s fun x =>
      { x with latch1 := x.latch1 && !s.cp.k.evt.getLsbD 1, latch3 := x.latch3 && !s.cp.k.evt.getLsbD 3 }⟩
  · exact stands_of ((ready_run h).trans ((if_neg he).trans (if_pos hw)))

end Sys2Proof.Proofs
end

section
/-!
Translation forms (R385-R390).
-/
namespace Sys2Proof.Proofs
open Sys2Proof.Machine Sys2Proof.Laws

/-! A walk changes no core and no cluster. -/

theorem cores_eccRead (s : State) (pa n : Nat) :
    (s.eccRead pa n).cores = s.cores ∧ (s.eccRead pa n).clusters = s.clusters := by
  rw [State.eccRead]
  generalize halvesOf (s.memKey pa) n = l
  induction l generalizing s with
  | nil => exact ⟨rfl, rfl⟩
  | cons h l ih =>
    have hc : (State.correctHalf (paDie pa) s h).cores = s.cores ∧ (State.correctHalf (paDie pa) s h).clusters = s.clusters := by
      rw [State.correctHalf]
      split <;> exact ⟨rfl, rfl⟩
    exact ⟨(ih _).1.trans hc.1, (ih _).2.trans hc.2⟩

theorem cores_walkFrom (root : BitVec 58) (va n : Nat) (s : State) (t : Nat) :
    (s.walkFrom root va t n).1.cores = s.cores ∧ (s.walkFrom root va t n).1.clusters = s.clusters := by
  induction n generalizing s t with
  | zero => exact ⟨rfl, rfl⟩
  | succ l ih =>
    have he := cores_eccRead s (t + 8 * (va / 2 ^ (12 + 9 * l) % 512)) 8
    have hn (t' : Nat) : ((s.eccRead (t + 8 * (va / 2 ^ (12 + 9 * l) % 512)) 8).walkFrom root va t' l).1.cores = s.cores
        ∧ ((s.eccRead (t + 8 * (va / 2 ^ (12 + 9 * l) % 512)) 8).walkFrom root va t' l).1.clusters = s.clusters :=
      ⟨(ih _ t').1.trans he.1, (ih _ t').2.trans he.2⟩
    rw [State.walkFrom]
    dsimp only
    split
    · exact ⟨rfl, rfl⟩
    · split
      · exact he
      · split
        · split
          · exact he
          · exact hn _
        · split
          · exact he
          · split <;> exact he

theorem cores_walk (s : State) (root : BitVec 58) (va : Nat) :
    (s.walk root va).1.cores = s.cores ∧ (s.walk root va).1.clusters = s.clusters := by
  rw [State.walk]
  split
  · exact cores_walkFrom ..
  · exact ⟨rfl, rfl⟩

/-! The removal of translations (R388). -/

theorem tabGet_map {α : Type} {d : α} {f : α → α} (hf : f d = d) (t : Tab α) (k : Nat) :
    tabGet d (t.map fun p => (p.1, f p.2)) k = f (tabGet d t k) := by
  induction t with
  | nil => exact hf.symm
  | cons p t ih =>
    obtain ⟨k', v⟩ := p
    simp only [List.map_cons, tabGet]
    split
    · rfl
    · exact ih

/-- A key that is not listed reads the default. -/
theorem tabGet_of_not_mem {α : Type} {d : α} {t : Tab α} {k : Nat} (h : k ∉ t.map fun p => p.1) : tabGet d t k = d := by
  induction t with
  | nil => rfl
  | cons p t ih =>
    obtain ⟨k', v⟩ := p
    rw [List.map_cons, List.mem_cons, not_or] at h
    rw [tabGet, if_neg (Ne.symm h.1)]
    exact ih h.2

section
variable (gone : Xlat → Bool)

theorem dropXlats_reset : Core.reset.dropXlats gone = Core.reset := rfl

/-- A second removal removes nothing more. -/
theorem dropXlats_twice (x : Core) : (x.dropXlats gone).dropXlats gone = x.dropXlats gone := by
  simp [Core.dropXlats, Xfer.dropXl, Function.comp_def, Option.filter_filter]

theorem core_foldl_dropXlats (l : List Nat) (s : State) (n : Nat) :
    (l.foldl (fun (s : State) n => s.modCore n fun x => x.dropXlats gone) s).core n =
      if n ∈ l then (s.core n).dropXlats gone else s.core n := by
  induction l generalizing s with
  | nil => rfl
  | cons m l ih =>
    rw [List.foldl_cons, ih, core_modCore]
    by_cases hm : m = n
    · subst hm
      simp [dropXlats_twice]
    · simp [hm, Ne.symm hm]

theorem cluster_foldl_filter (l : List Nat) (s : State) (k : Nat) :
    ((l.foldl (fun (s : State) k => s.modCluster k fun x => { x with tlb := x.tlb.filter fun e => !gone e }) s).cluster k).tlb =
      if k ∈ l then (s.cluster k).tlb.filter (fun e => !gone e) else (s.cluster k).tlb := by
  induction l generalizing s with
  | nil => rfl
  | cons m l ih =>
    rw [List.foldl_cons, ih, cluster_modCluster]
    by_cases hm : m = k
    · subst hm
      simp [List.filter_filter]
    · simp [hm, Ne.symm hm]

theorem core_foldl_modCluster (f : Cluster → Cluster) (l : List Nat) (s : State) (n : Nat) :
    (l.foldl (fun (s : State) k => s.modCluster k f) s).core n = s.core n := by
  induction l generalizing s with
  | nil => rfl
  | cons m l ih => exact ih _

theorem clusters_foldl_modCore (f : Core → Core) (l : List Nat) (s : State) :
    (l.foldl (fun (s : State) k => s.modCore k f) s).clusters = s.clusters := by
  induction l generalizing s with
  | nil => rfl
  | cons m l ih => exact ih _

variable (s : State) (sc c : Nat)

/-- `xlat.inv` removes the translations of every core within scope, listed or not. -/
theorem core_dropXlats (n : Nat) : (s.dropXlats sc c gone).core n =
    if coreInScope sc c n then (s.core n).dropXlats gone else s.core n := by
  rw [State.dropXlats]
  rw [core_foldl_modCluster, core_foldl_dropXlats]
  by_cases hn : n ∈ s.cores.map fun (p : Nat × Core) => p.1
  · simp [List.mem_filter, hn]
  · have hreset : s.core n = .reset := tabGet_of_not_mem hn
    rw [hreset, dropXlats_reset]
    simp

theorem tlb_cluster_dropXlats (k : Nat) : ((s.dropXlats sc c gone).cluster k).tlb =
    if coreInScope (max sc 1) c (12 * k) then (s.cluster k).tlb.filter (fun e => !gone e) else (s.cluster k).tlb := by
  rw [State.dropXlats]
  rw [cluster_foldl_filter, State.cluster, State.cluster, clusters_foldl_modCore]
  by_cases hk : k ∈ s.clusters.map fun (p : Nat × Cluster) => p.1
  · simp [List.mem_filter, hk]
  · have hreset : tabGet .reset s.clusters k = .reset := tabGet_of_not_mem hk
    rw [hreset]
    simp [Cluster.reset]

theorem xl_dropXlats (x : Core) (k : Nat) :
    (tabGet .reset (x.dropXlats gone).units.streams k).x.xl =
      (tabGet .reset x.units.streams k).x.xl.filter fun e => !gone e := by
  rw [Core.dropXlats]
  dsimp only
  rw [tabGet_map (f := fun (y : Stream) => { y with x := y.x.dropXl gone }) rfl]
  rfl

end

/-! The return of a translation form's value. -/

section
variable {s u : State} {srcs : List Src} {d : Reg} {v : Word}

theorem tlb_modCpOf (s : State) (c n : Nat) (f : Cp → Cp) : ((s.modCpOf c f).core n).tlb = (s.core n).tlb := by
  rw [State.modCpOf, core_modCore]
  split
  · next h => rw [h]
  · rfl

/-- What a translation form that has come to `u` leaves once its value has returned. -/
theorem returns_of_keeps (h : Keeps s u) :
    let t := (u.posted srcs d true).deliver s.focus.val d v
    (t.cp.regs.pc = s.cp.regs.pc + 8 ∧ (∀ r, t.cp.regs.get r = regAfter s srcs none r)
        ∧ (d ≠ 0 → (⟨d, true, some v⟩ : Pend) ∈ t.cp.ctl.pend))
      ∧ t.mem = s.mem ∧ (∀ n, (t.core n).tlb = (u.core n).tlb) ∧ (∀ k, t.cluster k = u.cluster k)
      ∧ ∀ n, t.units n = u.units n := by
  dsimp only
  rw [← h.focus]
  have hl := leaves_posted u srcs d true
  obtain ⟨t, ht, hr⟩ : ∃ t, (u.posted srcs d true).deliver u.focus.val d v = t ∧ u.frzReply srcs d v = .next t := ⟨_, rfl, rfl⟩
  have htlb (n : Nat) : (t.core n).tlb = (u.core n).tlb := by
    rw [← ht, State.deliver, tlb_modCpOf, State.posted, State.complete, State.modCp, tlb_modCpOf]
  have hun (n : Nat) : t.units n = u.units n := by
    rw [← ht, State.deliver, units_modCpOf, State.posted, State.complete, State.modCp, units_modCpOf]
  rw [ht]
  refine ⟨⟨?_, fun r => ?_, mem_pend_frzReply hr⟩, (mem_frzReply hr).trans h.mem, htlb, fun k => ?_, hun⟩
  · rw [regs_frzReply hr, hl.pc, h.issuing]
  · rw [regs_frzReply hr, hl.reg, regAfter, regAfter, h.issuing]
  · rw [State.cluster, State.cluster, clusters_frzReply hr]

end

/-- Settles O45: what each form removes, walks or resumes, and then its value returns. -/
theorem translationForms : Obligations.TranslationForms := by
  intro s g d a b sc mode target leaf ag
  refine ⟨fun h => ⟨fun hm => ?_, fun hm hst hp => ?_, fun hm hw => ?_⟩, fun h => ⟨fun hst => ?_, fun hst => ?_⟩,
    fun h => ⟨fun hst ht => ?_, fun hst ht w hw => ?_, fun hst => ?_⟩⟩
  · exact ⟨_, (exec_of_ready h rfl).trans (if_pos hm), (returns_of_keeps (.refl s)).1⟩
  · have he := (exec_of_ready h rfl).trans ((if_neg hm).trans (if_neg (by rw [hst, hp]; exact Bool.false_ne_true)))
    have hk := keeps_dropXlats s sc.toNat s.focus.val fun x => x.gone mode.toNat ((s.cp.val b).setWidth 58) (s.cp.val a).toNat
    obtain ⟨hret, hmem, htlb, hclu, hun⟩ := returns_of_keeps (srcs := [a, b]) (d := d) (v := 0) hk
    refine ⟨_, he, hret, hmem, fun n => ?_, fun k => ?_, fun n ag i hn => ?_⟩
    · rw [htlb, core_dropXlats]
      split <;> rfl
    · rw [hclu, tlb_cluster_dropXlats]
    · rw [State.stream, hun, State.units, core_dropXlats, if_pos hn]
      exact xl_dropXlats ..
  · exact (exec_of_ready h rfl).trans ((if_neg hm).trans (if_pos (by simpa using hw)))
  · have he := (exec_of_ready h rfl).trans (if_neg (Bool.eq_false_iff.1 hst))
    obtain ⟨hret, hmem, htlb, hclu, -⟩ := returns_of_keeps (srcs := [a, b]) (d := d)
      (v := probeWord leaf (s.cp.val a).toNat (s.walk ((s.cp.val b).setWidth 58) (s.cp.val a).toNat).2)
      (keeps_walk s ((s.cp.val b).setWidth 58) (s.cp.val a).toNat)
    obtain ⟨hcores, hclusters⟩ := cores_walk s ((s.cp.val b).setWidth 58) (s.cp.val a).toNat
    refine ⟨_, he, hret, hmem, fun n => ?_, fun k => ?_⟩
    · rw [htlb, State.core, State.core, hcores]
    · rw [hclu, State.cluster, State.cluster, hclusters]
  · exact (exec_of_ready h rfl).trans (if_pos hst)
  · have he := (exec_of_ready h rfl).trans ((if_neg (Bool.eq_false_iff.1 hst)).trans (if_neg ht))
    refine ⟨_, _, _, he, rfl, fun h0 => ?_, fun h1 => ?_, fun h2 => ?_⟩
    · subst h0
      rfl
    · subst h1
      rfl
    · subst h2
      rfl
  · have he := (exec_of_ready h rfl).trans ((if_neg (Bool.eq_false_iff.1 hst)).trans (if_pos ht))
    rw [wordOf_of_encode hw] at he
    exact he
  · exact (exec_of_ready h rfl).trans (if_pos hst)

end Sys2Proof.Proofs
end

section
/-!
Asynchronous traps, fetch, walks, verdicts and the clocks (R47-R49, R139, R369, R384, R450, R451).
-/
namespace Sys2Proof.Proofs
open Sys2Proof.Machine Sys2Proof.Laws

/-- What the taking of an asynchronous trap leaves at a control processor (R149, R450, R451). -/
theorem asyncTrap_spec (x : Cp) (t : BitVec 6 × Word) :
    (x.asyncTrap t).k.cause = t.1 ∧ (x.asyncTrap t).k.tval = t.2 ∧ (x.asyncTrap t).k.sys = true
      ∧ (x.asyncTrap t).k.psys = x.k.sys ∧ (x.asyncTrap t).regs.pc = x.k.tvec.setWidth 64 <<< 3
      ∧ (x.asyncTrap t).ctl.traps = x.ctl.traps.filter (fun y => y.1 != t.1) ∧ (x.asyncTrap t).ctl.standing = none := by
  unfold Cp.asyncTrap
  dsimp only
  split <;> exact ⟨rfl, rfl, rfl, rfl, rfl, rfl, rfl⟩

theorem asyncTrap_epc {x : Cp} (h : x.ctl.standing = none) (t : BitVec 6 × Word) : (x.asyncTrap t).k.epc = x.regs.pc := by
  rw [Cp.asyncTrap]
  dsimp only
  rw [h]
  rfl

theorem asyncTrap_epc_wait {x : Cp} {g : Guard} {sem : Option SemWait} (h : x.ctl.standing = some ⟨.wait g, sem⟩)
    (t : BitVec 6 × Word) : (x.asyncTrap t).k.epc = x.regs.pc + 8 := by
  rw [Cp.asyncTrap]
  dsimp only
  rw [h]
  rfl

theorem listFind_eq_none {α : Type} {p : α → Bool} {l : List α} (h : l.any p = false) : listFind p l = none := by
  induction l with
  | nil => rfl
  | cons a l ih =>
    rw [List.any_cons, Bool.or_eq_false_iff] at h
    rw [listFind, h.1]
    exact ih h.2

/-- An entry that is added to a TLB stands in it. -/
theorem mem_tlbAdd {n : Nat} (hn : 0 < n) (l : List Xlat) (x : Xlat) : x ∈ tlbAdd n l x := by
  have hlen : (l ++ [x]).length = l.length + 1 := by simp
  rw [tlbAdd]
  split
  · rw [List.drop_append_of_le_length (by omega)]
    exact List.mem_append_right _ (List.mem_singleton_self x)
  · exact List.mem_append_right _ (List.mem_singleton_self x)

/-- A lookup that misses both TLBs leaves what it finds in both (R384). -/
theorem lookup_fills {s : State} {c va : Nat} {root : BitVec 58} (hc : canonical va = true) (hm : s.tlbHit c root va = false)
    {x : Xlat} (hx : (s.lookup c root va).2 = .ok x) :
    x ∈ ((s.lookup c root va).1.core c).tlb ∧ x ∈ ((s.lookup c root va).1.cluster (c / 12)).tlb := by
  obtain ⟨h1, h2⟩ := Bool.or_eq_false_iff.1 hm
  have he : s.lookup c root va =
      match (s.modCore c fun y =>
        { y with grid := { y.grid with pcs := tabSet 0 y.grid.pcs 12 (tabGet 0 y.grid.pcs 12 + 1) } }).walk root va with
      | (s, .leaf x _) =>
        ((s.modCore c fun y => { y with tlb := tlbAdd 128 y.tlb x }).modCluster (c / 12)
          fun y => { y with tlb := tlbAdd 4096 y.tlb x }, .ok x)
      | (s, .stop f _) => (s, .error f) := by
    rw [State.lookup, hc, listFind_eq_none h1, listFind_eq_none h2]
    rfl
  revert hx
  rw [he]
  split
  · next t y e hw =>
    intro hx
    cases hx
    refine ⟨?_, ?_⟩
    · rw [core_modCluster, core_modCore_same]
      exact mem_tlbAdd (by decide) _ x
    · rw [cluster_modCluster_same]
      exact mem_tlbAdd (by decide) _ x
  · intro hx
    cases hx

/-- A page that is filled is resident (R369). -/
theorem fillPage_resident {s u : State} {c pa n : Nat}
    (hres : (canonical (s.cpOf c).regs.pc.toNat
      && ((s.core c).cache.find fun b => b.isPage (s.cpOf c).regs.pc.toNat).isSome) = false)
    (htr : s.translate c (s.cpOf c).ctl.xroot (s.cpOf c).regs.pc.toNat .fetch (s.cpOf c).k.sys = (u, .ok pa))
    (hok : u.fillFail (pa / 4096 * 4096) 4096 = none) (hv : (u.core c).cache.victim = some n) :
    (((s.fillPage c).core c).cache.block n).isPage (s.cpOf c).regs.pc.toNat = true := by
  rw [State.fillPage]
  dsimp only
  rw [hres, if_neg Bool.false_ne_true, htr]
  dsimp only
  rw [hok]
  dsimp only
  rw [hv]
  dsimp only
  rw [core_modCore_same]
  simp [Cache.touch, Cache.setBlock, Cache.block, tabGet_set, CBlock.isPage]

/-! Verdicts: given to every core of a list, whatever order and however often. -/

/-- A fold keeps what each of its steps keeps. -/
theorem foldl_keeps {α : Type} {P : State → Prop} {f : State → α → State} (hf : ∀ s a, P s → P (f s a)) (l : List α) {s : State}
    (h : P s) : P (l.foldl f s) := by
  induction l generalizing s with
  | nil => exact h
  | cons a l ih => exact ih (hf s a h)

/-- What a step establishes for its own index and every step keeps, a fold establishes for every index of its list. -/
theorem foldl_establishes {P : Nat → State → Prop} {f : State → Nat → State} (hown : ∀ s n, P n (f s n))
    (hf : ∀ s m n, P n s → P n (f s m)) {l : List Nat} {n : Nat} (hn : n ∈ l) (s : State) : P n (l.foldl f s) := by
  induction l generalizing s with
  | nil => cases hn
  | cons m l ih =>
    rcases List.mem_cons.1 hn with rfl | hn
    · exact foldl_keeps (P := P n) (fun s a => hf s a n) l (hown s n)
    · exact ih hn _

theorem verdict_giveVerdict (s : State) (m n : Nat) (v : BitVec 2) :
    ((s.giveVerdict m v).cpOf n).k.verdict = if m = n then v else (s.cpOf n).k.verdict := by
  rw [State.giveVerdict, State.count, cpOf_modGrid, cpOf_modCpOf]
  split
  · rfl
  · rfl

theorem grid_post (s : State) (c n : Nat) (r : FRec) : (s.post c r).grid n = s.grid n := by
  rw [State.post, grid_modCpOf]
  rfl

theorem k_post (s : State) (c n : Nat) (r : FRec) : ((s.post c r).cpOf n).k = (s.cpOf n).k := by
  rw [State.post, cpOf_modCpOf]
  split
  · next h => rw [h, cpOf_modDie]
  · rw [cpOf_modDie]

theorem verdict_giveDeadlock (s : State) (m n : Nat) :
    ((s.giveDeadlock m).cpOf n).k.verdict = if m = n then 2 else (s.cpOf n).k.verdict := by
  rw [State.giveDeadlock, cpOf_modGrid, verdict_giveVerdict, k_post]

theorem closed_giveDeadlock (s : State) (m n : Nat) :
    ((s.giveDeadlock m).grid n).closed = if m = n then true else (s.grid n).closed := by
  rw [State.giveDeadlock, grid_modGrid]
  split
  · rfl
  · next h => rw [State.giveVerdict, State.count, grid_modGrid, if_neg h, grid_modCpOf, grid_post]

theorem shutPlains_keeps (s : State) (c n : Nat) :
    (s.shutPlains c).cpOf n = s.cpOf n ∧ (s.shutPlains c).grid n = s.grid n :=
  foldl_keeps (P := fun t => t.cpOf n = s.cpOf n ∧ t.grid n = s.grid n)
    (f := fun (t : State) k => t.modCluster k fun x => { x with plain := { x.plain with shut := true } })
    (fun _ _ h => h) _ ⟨rfl, rfl⟩

/-- Settles O47: each event is its one branch, with what its helper leaves. -/
theorem processorEvents : Obligations.ProcessorEvents := by
  intro s c
  refine ⟨fun cause tval ha hu hf hw ht => ?_, fun ha hs hm hh hwk => ⟨?_, fun u pa n hres htr hok hv _ =>
    fillPage_resident hres htr hok hv⟩, fun va hb hc hm hr => ?_, fun hd => ⟨fun hr => ⟨?_, fun n hn => ?_⟩, fun hr => ?_⟩,
    fun num hd hv hw => ?_, rfl, _, rfl, rfl, rfl, rfl⟩
  · have he : exec (.asyncTrap c) s = .next (s.modCpOf c.val fun x => x.asyncTrap (cause, tval)) := by
      show execAsyncTrap c s = _
      simp only [execAsyncTrap, ha, hu, hf, hw, ht]
      rfl
    refine ⟨_, he, ?_⟩
    rw [cpOf_modCpOf_same]
    obtain ⟨h1, h2, h3, h4, h5, h6, h7⟩ := asyncTrap_spec (s.cpOf c.val) (cause, tval)
    exact ⟨h1, h2, h3, h4, h5, h6, h7, fun h => asyncTrap_epc h _, fun g sem h => asyncTrap_epc_wait h _⟩
  · show execProgramPageFill c s = _
    simp only [execProgramPageFill, ha, hs, hm, hh, hwk]
    rfl
  · have he : exec (.pageWalk c va) s = .next (s.lookup c.val (s.cpOf c.val).ctl.xroot va.toNat).1 := by
      show execPageWalk c va s = _
      simp only [execPageWalk, hb, hc, hm, hr]
      rfl
    exact ⟨_, _, he, rfl, fun x hx => lookup_fills hc hm hx⟩
  · show execQuiescenceVerdict c s = _
    simp only [execQuiescenceVerdict, hd, hr]
    rfl
  · exact foldl_establishes (P := fun n s => (s.cpOf n).k.verdict = 1)
      (fun s n => by rw [verdict_giveVerdict, if_pos rfl])
      (fun s m n h => by rw [verdict_giveVerdict, h, ite_self]) hn s
  · refine ⟨_, ?_, rfl, fun n hn => ?_⟩
    · show execQuiescenceVerdict c s = _
      simp only [execQuiescenceVerdict, hd, hr]
      rfl
    · obtain ⟨hcp, hgrid⟩ := shutPlains_keeps
        (((s.groupCores c.val).filter fun n => !(s.grid n).closed).foldl (fun s n => s.giveDeadlock n) s) c.val n
      rw [hcp, hgrid]
      exact foldl_establishes (P := fun n s => (s.cpOf n).k.verdict = 2 ∧ (s.grid n).closed = true)
        (fun s n => by rw [verdict_giveDeadlock, closed_giveDeadlock, if_pos rfl, if_pos rfl]; exact ⟨rfl, rfl⟩)
        (fun s m n h => by rw [verdict_giveDeadlock, closed_giveDeadlock, h.1, h.2, ite_self, ite_self]; exact ⟨rfl, rfl⟩) hn s
  · show execDeadlockTrap c s = _
    simp only [execDeadlockTrap, hd, hv, hw]
    rfl

end Sys2Proof.Proofs
end

section
/-!
Routers: plain forwarding and the nine operators (R248-R262, R402).
-/
namespace Sys2Proof.Proofs
open Sys2Proof.Machine Sys2Proof.Laws

/-! Moves of flits leave the cycle. -/

theorem cyc_post (s : State) (c : Nat) (r : FRec) : (s.post c r).cyc = s.cyc := rfl

theorem cyc_pushFrom (s : State) (c k rt : Nat) (f : Flit) (src : Option (Nat × BitVec 8 × BitVec 8)) :
    (s.pushFrom c k rt f src).cyc = s.cyc := by
  have hr : (s.receive c rt f).1.cyc = s.cyc := by
    rw [State.receive]
    split
    · rfl
    · split <;> rfl
  simp only [State.pushFrom, State.movedIn, State.modChan, modGrid_cyc, hr]

theorem cyc_outPush (s : State) (c rt : Nat) (f : Flit) (src : Option (Nat × BitVec 8 × BitVec 8)) (o : Nat) :
    (s.outPush c rt f src o).cyc = s.cyc := by
  rw [State.outPush]
  split
  · exact cyc_pushFrom ..
  · rfl

theorem cyc_popChan (s : State) (c k : Nat) : (s.popChan c k).cyc = s.cyc := rfl

theorem cyc_forward (s : State) (c rt kk : Nat) (f : Flit) (outs : List Nat) : (s.forward c rt kk f outs).cyc = s.cyc := by
  rw [State.forward]
  generalize (if f.kind = 1 then some (kk, (s.chan c kk).headNo, f.ctag) else none) = src
  refine foldl_keeps (P := fun t => t.cyc = s.cyc) (f := fun t o => t.outPush c rt f src o)
    (fun t o h => (cyc_outPush ..).trans h) outs ?_
  split
  · rw [modGrid_cyc, cyc_popChan]
  · rw [cyc_popChan]

theorem router_grantTo (s : State) (c rt k : Nat) : (s.grantTo c rt k).router c rt = (s.router c rt).granted s.cyc k := by
  rw [State.router, State.grantTo, grid_modGrid_same, tabGet_set, if_pos rfl, State.router]

/-! One input's turn. -/

section
variable {s : State} {c rt k : Nat}

theorem forwardInput_moves {f : Flit} {outs : List Nat} (hk : s.mayMove c rt k = true)
    (hm : s.movable c rt k = some (f, outs)) :
    State.forwardInput c rt s k = (s.forward c rt (inputKey rt k) f outs).grantTo c rt k := by
  rw [State.forwardInput, hk, hm]
  rfl

theorem forwardInput_stays (h : s.mayMove c rt k = false ∨ s.movable c rt k = none) : State.forwardInput c rt s k = s := by
  rw [State.forwardInput]
  rcases h with h | h
  · rw [h]
    rfl
  · rw [h]
    exact ite_self _

/-- Input k of the router has a flit that may move in this cycle. -/
def Moves (s : State) (c rt k : Nat) : Bool := (s.movable c rt k).isSome && s.mayMove c rt k

theorem forwardInput_not_moves (h : Moves s c rt k = false) : State.forwardInput c rt s k = s := by
  rw [Moves, Bool.and_eq_false_iff, Option.isSome_eq_false_iff, Option.isNone_iff_eq_none] at h
  exact forwardInput_stays h.symm

/-- The router has moved a flit in cycle `n`. -/
def MovedIn (c rt n : Nat) (s : State) : Prop := s.cyc = n ∧ (s.router c rt).moved = n + 1

theorem forwardInput_movedIn {n : Nat} (hn : s.cyc = n) (h : Moves s c rt k = true) :
    MovedIn c rt n (State.forwardInput c rt s k) := by
  rw [Moves, Bool.and_eq_true] at h
  obtain ⟨hm, hk⟩ := h
  obtain ⟨p, hp⟩ := Option.isSome_iff_exists.1 hm
  obtain ⟨f, outs⟩ := p
  rw [forwardInput_moves hk hp]
  have hc : (s.forward c rt (inputKey rt k) f outs).cyc = n := (cyc_forward ..).trans hn
  refine ⟨hc, ?_⟩
  rw [router_grantTo, Router.granted, hc]

theorem forwardInput_keeps_movedIn {n : Nat} (k : Nat) (h : MovedIn c rt n s) : MovedIn c rt n (State.forwardInput c rt s k) := by
  cases hm : Moves s c rt k with
  | true => exact forwardInput_movedIn h.1 hm
  | false => rwa [forwardInput_not_moves hm]

/-- The first input of the order that can move does. -/
theorem foldl_forwardInput_movedIn {l : List Nat} (h : ∃ k ∈ l, Moves s c rt k = true) :
    MovedIn c rt s.cyc (l.foldl (State.forwardInput c rt) s) := by
  induction l with
  | nil =>
    obtain ⟨k, hk, -⟩ := h
    cases hk
  | cons a l ih =>
    rw [List.foldl_cons]
    cases ha : Moves s c rt a with
    | true => exact foldl_keeps (fun _ k h => forwardInput_keeps_movedIn k h) l (forwardInput_movedIn rfl ha)
    | false =>
      rw [forwardInput_not_moves ha]
      obtain ⟨k, hk, hm⟩ := h
      rcases List.mem_cons.1 hk with rfl | hk
      · rw [ha] at hm
        cases hm
      · exact ih ⟨k, hk, hm⟩

theorem foldl_forwardInput_stays {l : List Nat} (h : ∀ k ∈ l, Moves s c rt k = false) :
    l.foldl (State.forwardInput c rt) s = s := by
  induction l with
  | nil => rfl
  | cons a l ih =>
    rw [List.foldl_cons, forwardInput_not_moves (h a (List.mem_cons_self ..))]
    exact ih fun k hk => h k (List.mem_cons_of_mem _ hk)

/-- Where one input alone can move, its move is all that happens. -/
theorem foldl_forwardInput_one {l : List Nat} {t : State} (hl : l.Nodup) (hk : k ∈ l) (ht : State.forwardInput c rt s k = t)
    (ho : ∀ n ∈ l, n ≠ k → Moves s c rt n = false ∧ Moves t c rt n = false) :
    l.foldl (State.forwardInput c rt) s = t := by
  induction l with
  | nil => cases hk
  | cons a l ih =>
    obtain ⟨ha, hl⟩ := List.nodup_cons.1 hl
    rw [List.foldl_cons]
    rcases List.mem_cons.1 hk with rfl | hk
    · rw [ht]
      exact foldl_forwardInput_stays fun n hn =>
        (ho n (List.mem_cons_of_mem _ hn) fun he => ha (he ▸ hn)).2
    · rw [forwardInput_not_moves (ho a (List.mem_cons_self ..) fun he => ha (he ▸ hk)).1]
      exact ih hl hk fun n hn => ho n (List.mem_cons_of_mem _ hn)

end

/-- The order of the grant (R248). -/
def grantOrder (m : Nat) : List Nat := (rangeFrom (m + 1) 5).map fun k => k % 5

theorem grantOrder_eq (m : Nat) : grantOrder m = [(m + 1) % 5, (m + 1 + 1) % 5, (m + 1 + 1 + 1) % 5, (m + 1 + 1 + 1 + 1) % 5,
    (m + 1 + 1 + 1 + 1 + 1) % 5] := rfl

theorem mem_grantOrder {m k : Nat} : k ∈ grantOrder m ↔ k < 5 := by
  simp only [grantOrder_eq, List.mem_cons, List.not_mem_nil, or_false]
  omega

theorem nodup_grantOrder (m : Nat) : (grantOrder m).Nodup := by
  simp only [grantOrder_eq, List.nodup_cons, List.mem_cons, List.not_mem_nil, or_false, not_or, List.nodup_nil, not_false_eq_true,
    and_true]
  omega

/-! The first slot that holds an operator. -/

theorem filter_rangeFrom_first {p : Nat → Bool} {a n i : Nat} (hi : a ≤ i ∧ i < a + n) (hp : p i = true)
    (ho : ∀ j < i, p j = false) : ∃ l, (rangeFrom a n).filter p = i :: l := by
  induction n generalizing a with
  | zero => omega
  | succ n ih =>
    rw [rangeFrom]
    by_cases ha : a = i
    · subst ha
      exact ⟨_, List.filter_cons_of_pos hp⟩
    · rw [List.filter_cons_of_neg (by rw [ho a (by omega)]; exact Bool.false_ne_true)]
      exact ih (by omega)

theorem filter_rangeFrom_only {p : Nat → Bool} {a n i : Nat} (hi : a ≤ i ∧ i < a + n) (hp : p i = true)
    (ho : ∀ j < a + n, j ≠ i → p j = false) : (rangeFrom a n).filter p = [i] := by
  induction n generalizing a with
  | zero => omega
  | succ n ih =>
    rw [rangeFrom]
    by_cases ha : a = i
    · subst ha
      rw [List.filter_cons_of_pos hp, List.filter_eq_nil_iff.2]
      intro j hj
      obtain ⟨hlo, hhi⟩ := mem_rangeFrom.1 hj
      exact Bool.eq_false_iff.1 (ho j (by omega) (by omega))
    · rw [List.filter_cons_of_neg (Bool.eq_false_iff.1 (ho a (by omega) ha))]
      exact ih (by omega) fun j hj hne => ho j (by omega) hne

/-- Slot j of the router holds operator `op`, which has not stopped. -/
def holdsOp (s : State) (c rt op j : Nat) : Bool :=
  (s.slotAt c (0x10 + rt) j).v && fOp (s.slotAt c (0x10 + rt) j).frame == op && !(s.opState c rt j).stopped

/-- What an operator event does when slot i holds the operator and its rule gives `a` (R255). -/
def OpGoes (s : State) (c : CoreIx) (rt : Fin 16) (op i : Nat) (e : Instr) (a : OpAct) (also : State → State) : Prop :=
  let x := s.slotAt c.val (0x10 + rt.val) i
  (∀ ks emit v, a = .move ks emit v → (∀ j < i, holdsOp s c.val rt.val op j = false) →
    s.opReady c.val rt.val x.frame x.ctag ks emit = true →
    exec e s = .next (also ((s.opMove c.val rt.val x.frame ks emit).setOpState c.val rt.val i v)))
  ∧ (∀ cause first, a = .stop cause first → (∀ j < i, holdsOp s c.val rt.val op j = false) →
    exec e s = .next (s.opStop c.val rt.val i x.ctag cause first))
  ∧ (a = .wait → (∀ j < 4, j ≠ i → holdsOp s c.val rt.val op j = false) → exec e s = .next s)

section
variable {s : State} {c : CoreIx} {rt : Fin 16} {op i : Nat} {e : Instr}

theorem exec_opEvent {act : Frame → BitVec 8 → (Nat → Option Flit) → OpState → OpAct} (hi : i < 4)
    (hh : holdsOp s c.val rt.val op i = true) (he : exec e s = opEvent op act c rt s) :
    OpGoes s c rt op i e (act (s.slotAt c.val (0x10 + rt.val) i).frame (s.slotAt c.val (0x10 + rt.val) i).ctag
      (s.opHead c.val rt.val (s.slotAt c.val (0x10 + rt.val) i).frame (s.slotAt c.val (0x10 + rt.val) i).ctag)
      (s.opState c.val rt.val i)) id := by
  have hfirst (ho : ∀ j < i, holdsOp s c.val rt.val op j = false) : ∃ l, (rangeFrom 0 4).filter (fun j =>
      (s.slotAt c.val (0x10 + rt.val) j).v && fOp (s.slotAt c.val (0x10 + rt.val) j).frame == op
        && !(s.opState c.val rt.val j).stopped) = i :: l :=
    filter_rangeFrom_first ⟨Nat.zero_le i, by omega⟩ hh ho
  have honly (ho : ∀ j < 4, j ≠ i → holdsOp s c.val rt.val op j = false) : (rangeFrom 0 4).filter (fun j =>
      (s.slotAt c.val (0x10 + rt.val) j).v && fOp (s.slotAt c.val (0x10 + rt.val) j).frame == op
        && !(s.opState c.val rt.val j).stopped) = [i] :=
    filter_rangeFrom_only ⟨Nat.zero_le i, by omega⟩ hh fun j hj hne => ho j (by omega) hne
  refine ⟨fun ks emit v ha ho hr => ?_, fun cause first ha ho => ?_, fun ha ho => ?_⟩
  · obtain ⟨l, hl⟩ := hfirst ho
    rw [he, opEvent]
    dsimp only
    rw [hl, List.filterMap_cons, ha]
    dsimp only
    rw [hr]
    rfl
  · obtain ⟨l, hl⟩ := hfirst ho
    rw [he, opEvent]
    dsimp only
    rw [hl, List.filterMap_cons, ha]
  · have hl := honly ho
    rw [he, opEvent]
    dsimp only
    rw [hl, List.filterMap_cons, ha]
    rfl

theorem exec_tagEvent {act : State → Nat → Frame → BitVec 8 → (Nat → Option Flit) → OpState → TagAct} (hi : i < 4)
    (hh : holdsOp s c.val rt.val op i = true) (he : exec e s = tagEvent op act c rt s) :
    let a := act s (4 * (0x10 + rt.val) + i) (s.slotAt c.val (0x10 + rt.val) i).frame (s.slotAt c.val (0x10 + rt.val) i).ctag
      (s.opHead c.val rt.val (s.slotAt c.val (0x10 + rt.val) i).frame (s.slotAt c.val (0x10 + rt.val) i).ctag)
      (s.opState c.val rt.val i)
    OpGoes s c rt op i e a.act a.also := by
  have hfirst (ho : ∀ j < i, holdsOp s c.val rt.val op j = false) : ∃ l, (rangeFrom 0 4).filter (fun j =>
      (s.slotAt c.val (0x10 + rt.val) j).v && fOp (s.slotAt c.val (0x10 + rt.val) j).frame == op
        && !(s.opState c.val rt.val j).stopped) = i :: l :=
    filter_rangeFrom_first ⟨Nat.zero_le i, by omega⟩ hh ho
  have honly (ho : ∀ j < 4, j ≠ i → holdsOp s c.val rt.val op j = false) : (rangeFrom 0 4).filter (fun j =>
      (s.slotAt c.val (0x10 + rt.val) j).v && fOp (s.slotAt c.val (0x10 + rt.val) j).frame == op
        && !(s.opState c.val rt.val j).stopped) = [i] :=
    filter_rangeFrom_only ⟨Nat.zero_le i, by omega⟩ hh fun j hj hne => ho j (by omega) hne
  refine ⟨fun ks emit v ha ho hr => ?_, fun cause first ha ho => ?_, fun ha ho => ?_⟩
  · obtain ⟨l, hl⟩ := hfirst ho
    rw [he, tagEvent]
    dsimp only
    rw [hl, listFind, ha]
    dsimp only
    rw [if_pos hr]
    dsimp only
    rw [ha]
  · obtain ⟨l, hl⟩ := hfirst ho
    rw [he, tagEvent]
    dsimp only
    rw [hl, listFind, ha]
    dsimp only
    rw [if_pos rfl]
    dsimp only
    rw [ha]
  · have hl := honly ho
    rw [he, tagEvent]
    dsimp only
    rw [hl, listFind, ha]
    rfl

end

/-- Settles O48: the fold over the inputs in the order of the grant, and the first slot that holds the operator. -/
theorem routerEvents : Obligations.RouterEvents := by
  intro s c rt
  have he : exec (.routerForward c rt) s =
      .next ((grantOrder ((s.router c.val rt.val).start s.cyc)).foldl (State.forwardInput c.val rt.val) s) := rfl
  refine ⟨fun ⟨k, hk, hm⟩ => ⟨_, he, ?_⟩, fun hm => ?_, fun k f outs hk hm hmay ho => ?_, fun k => router_grantTo s c.val rt.val k,
    fun op i hi hh => ⟨fun e a he => ?_, fun e a he => ?_⟩⟩
  · exact (foldl_forwardInput_movedIn ⟨k, mem_grantOrder.2 hk, hm⟩).2
  · exact he.trans (congrArg Host.Outcome.next (foldl_forwardInput_stays fun k hk => hm k (mem_grantOrder.1 hk)))
  · refine he.trans <| congrArg Host.Outcome.next (foldl_forwardInput_one (nodup_grantOrder _) (mem_grantOrder.2 hk)
      (forwardInput_moves hmay hm) fun n hn hne => ?_)
    obtain ⟨h1, h2⟩ := ho n (mem_grantOrder.1 hn) hne
    rw [Moves, Moves, h1, h2]
    exact ⟨rfl, rfl⟩
  · simp only [List.mem_cons, List.not_mem_nil, or_false, Prod.mk.injEq] at he
    obtain ⟨rfl, rfl, rfl⟩ | ⟨rfl, rfl, rfl⟩ | ⟨rfl, rfl, rfl⟩ | ⟨rfl, rfl, rfl⟩ | ⟨rfl, rfl, rfl⟩ | ⟨rfl, rfl, rfl⟩ |
      ⟨rfl, rfl, rfl⟩ := he
    · exact exec_opEvent (act := fun f _ h st => opSteer (rtParam f).toNat h st) hi hh rfl
    · exact exec_opEvent (act := fun f _ h st => opCarry (rtParam f).toNat h st) hi hh rfl
    · exact exec_opEvent (act := fun f _ h st => opInvar (rtParam f).toNat h st) hi hh rfl
    · exact exec_opEvent (act := fun f _ h st => opMerge (rtParam f).toNat h st) hi hh rfl
    · exact exec_opEvent (act := fun f t h st => opJoin (rtParam f).toNat t h st) hi hh rfl
    · exact exec_opEvent (act := fun f _ h st => opOrder (rtParam f).toNat f h st) hi hh rfl
    · exact exec_opEvent (act := fun f _ h st => opArb (rtParam f).toNat f h st) hi hh rfl
  · simp only [List.mem_cons, List.not_mem_nil, or_false, Prod.mk.injEq] at he
    obtain ⟨rfl, rfl, rfl⟩ | ⟨rfl, rfl, rfl⟩ := he
    · exact exec_tagEvent (act := fun s _ f t h st => s.tagIn c.val (rtParam f).toNat t h st) hi hh rfl
    · exact exec_tagEvent (act := fun s key f t h st => s.tagOut c.val key (rtParam f).toNat t h st) hi hh rfl

end Sys2Proof.Proofs
end

section
/-!
Kills and processing elements (R86-R90, R254, R267-R289).
-/
namespace Sys2Proof.Proofs
open Sys2Proof.Machine Sys2Proof.Laws

/-- From `s` to `t` nothing that decides about the room of channel `k` of core `c` has changed. -/
structure SameChan (c k : Nat) (s t : State) : Prop where
  chan : t.chan c k = s.chan c k
  closed : (t.grid c).closed = (s.grid c).closed
  cyc : t.cyc = s.cyc

namespace SameChan
variable {c k : Nat} {s t w : State}

theorem refl (s : State) : SameChan c k s s := ⟨rfl, rfl, rfl⟩

theorem trans (h : SameChan c k s t) (h' : SameChan c k t w) : SameChan c k s w :=
  ⟨h'.chan.trans h.chan, h'.closed.trans h.closed, h'.cyc.trans h.cyc⟩

theorem modGrid {f : Grid → Grid} (hf : ∀ g, (f g).chans = g.chans ∧ (f g).closed = g.closed) : SameChan c k s (s.modGrid c f) :=
  ⟨by rw [State.chan, grid_modGrid_same, (hf _).1, State.chan], by rw [grid_modGrid_same, (hf _).2], modGrid_cyc ..⟩

theorem modChan {k' : Nat} (hk : k' ≠ k) (f : Chan → Chan) : SameChan c k s (s.modChan c k' f) :=
  ⟨by rw [State.chan, State.modChan, grid_modGrid_same, tabGet_set, if_neg hk, State.chan],
    by rw [State.modChan, grid_modGrid_same], modGrid_cyc ..⟩

theorem movedIn : SameChan c k s (s.movedIn c) := modGrid fun _ => ⟨rfl, rfl⟩

theorem popChan {k' : Nat} (hk : k' ≠ k) : SameChan c k s (s.popChan c k') :=
  (modChan hk _).trans movedIn

theorem count (n v : Nat) : SameChan c k s (s.count c n v) := modGrid fun _ => ⟨rfl, rfl⟩

theorem setPe (n : Nat) (p : Pe) : SameChan c k s (s.setPe c n p) := modGrid fun _ => ⟨rfl, rfl⟩

theorem setPeSlot (n i : Nat) (p : PeSlot) : SameChan c k s (s.setPeSlot c n i p) := modGrid fun _ => ⟨rfl, rfl⟩

theorem room (h : SameChan c k s t) (d : Nat) : t.room c k d = s.room c k d := by
  rw [State.room, State.room, h.chan, h.closed, h.cyc]

end SameChan

/-- A flit that enters a channel is its last (R247). -/
theorem flits_pushChan (s : State) (c k : Nat) (f : Flit) (src : Option (Nat × BitVec 8 × BitVec 8)) :
    ∃ y, ((s.pushChan c k f src).chan c k).flits = (s.chan c k).flits ++ [y] := by
  have hgrid : (s.receive c (chanRouter k) f).1.grid c = s.grid c := by
    rw [State.receive]
    split
    · exact grid_post ..
    · split <;> rfl
  have hpush (x : Chan) (n : Nat) (y : Flit) : (x.push n y src).flits = x.flits ++ [y] := by
    rw [Chan.push]
    dsimp only
    split <;> rfl
  refine ⟨(s.receive c (chanRouter k) f).2, ?_⟩
  rw [State.pushChan, State.pushFrom, State.movedIn, State.modChan, State.chan, grid_modGrid_same, grid_modGrid_same]
  dsimp only
  rw [tabGet_set, if_pos rfl, hpush, hgrid, State.chan]

/-- The same after steps that leave the channel. -/
theorem SameChan.flits_pushChan {c k : Nat} {s t : State} (h : SameChan c k s t) (f : Flit)
    (src : Option (Nat × BitVec 8 × BitVec 8)) :
    ∃ y, ((t.pushChan c k f src).chan c k).flits = (s.chan c k).flits ++ [y] := by
  rw [← h.chan]
  exact Proofs.flits_pushChan t c k f src

theorem operandKey_ne_resultKey {n k : Nat} (hn : n < 16) (m : Nat) : operandKey n k ≠ resultKey m ∨ 16 ≤ m := by
  rw [operandKey, resultKey]
  omega

/-! The heads of a PE leave its operand channels. -/

section
variable {s : State} {c n : Nat}

theorem pops_sameChan (hn : n < 16) (reads : List Nat) :
    SameChan c (resultKey n) s (reads.foldl (fun s k => s.popChan c (operandKey n k)) s) :=
  foldl_keeps (P := SameChan c (resultKey n) s) (f := fun s k => s.popChan c (operandKey n k))
    (fun _ k h => h.trans (.popChan ((operandKey_ne_resultKey hn n).resolve_right (by omega)))) reads (.refl s)

theorem pe_setPe_same (p : Pe) : (s.setPe c n p).pe c n = p := by
  rw [State.pe, State.setPe, grid_modGrid_same, tabGet_set, if_pos rfl]

theorem pe_count (m v : Nat) : (s.count c m v).pe c n = s.pe c n := by
  rw [State.pe, State.count, grid_modGrid_same, State.pe]

theorem peTile_flits {i : Nat} {f : Frame} {reads : List Nat} {x : Flit} (hn : n < 16) (ha : peIsAcc f = false)
    (hr : s.room c (resultKey n) 4 = true) :
    ∃ y, ((s.peTile c n i f reads x).chan c (resultKey n)).flits = (s.chan c (resultKey n)).flits ++ [y] := by
  rw [State.peTile]
  dsimp only
  rw [if_neg (fun h => Bool.false_ne_true (ha ▸ h.1)), if_pos hr]
  exact (pops_sameChan hn reads).flits_pushChan x none

theorem peWord_flits {i : Nat} {f : Frame} {tag : BitVec 8} {reads : List Nat} {heads : List Flit} (hn : n < 16)
    (hr : s.room c (resultKey n) 4 = true) :
    ∃ y, ((s.peWord c n i f tag reads heads).chan c (resultKey n)).flits = (s.chan c (resultKey n)).flits ++ [y] := by
  rw [State.peWord]
  dsimp only
  rw [hr, Bool.not_true, if_neg Bool.false_ne_true]
  have hp := (pops_sameChan (s := s) (c := c) hn reads).trans (.count 1 1)
  split
  · exact (hp.trans (.setPeSlot n i _)).flits_pushChan _ none
  · exact hp.flits_pushChan _ none

end

/-- An element that begins is in progress. -/
theorem peBegin_job (s : State) (c n i : Nat) (tag : BitVec 8) (reads : List Nat) (heads : List Flit) :
    ∃ j, ((s.peBegin c n i tag reads heads).pe c n).job = some j ∧ j.slot = i ∧ j.ctag = tag ∧ j.sent = 0 ∧ j.headed = false := by
  rw [State.peBegin, pe_count, pe_setPe_same]
  exact ⟨_, rfl, rfl, rfl, rfl, rfl⟩

/-! Emission. -/

/-- Two jobs of which the same flit is due, but for its payload. -/
structure SameNext (j j' : PeJob) : Prop where
  headed : j'.headed = j.headed
  sent : j'.sent = j.sent
  stop : j'.stop = j.stop
  stopAt : j'.stopAt = j.stopAt
  ops : (j'.ops.map fun o => (o.ended, o.last)) = j.ops.map fun o => (o.ended, o.last)

theorem SameNext.refl (j : PeJob) : SameNext j j := ⟨rfl, rfl, rfl, rfl, rfl⟩

theorem SameNext.trans {j j' j'' : PeJob} (h : SameNext j j') (h' : SameNext j' j'') : SameNext j j'' :=
  ⟨h'.headed.trans h.headed, h'.sent.trans h.sent, h'.stop.trans h.stop, h'.stopAt.trans h.stopAt, h'.ops.trans h.ops⟩

theorem SameNext.ended {j j' : PeJob} (h : SameNext j j') : (j'.ops.all fun o => o.ended) = j.ops.all fun o => o.ended := by
  have he (l : List Operand) : (l.all fun o => o.ended) = (l.map fun o => (o.ended, o.last)).all fun p => p.1 := by
    rw [List.all_map]
    rfl
  rw [he, he, h.ops]

/-- Whether a flit is due does not depend on the free exponent, nor on the KILLs that have been sent. -/
theorem SameNext.isSome {j j' : PeJob} (h : SameNext j j') (f : Frame) (own : Nat) (r : Res) (cyc : Nat) (z z' : Int) :
    (j'.next f own r cyc z').isSome = (j.next f own r cyc z).isSome := by
  rw [PeJob.next, PeJob.next, PeJob.stops, PeJob.stops, h.ended, h.headed, h.sent, h.stop, h.stopAt]
  rcases r.word with _ | w
  · rcases r.hdr with _ | y
    · rfl
    · dsimp only
      repeat' split
      all_goals simp only [Option.isSome_some, Option.isSome_none]
  · dsimp only
    repeat' split
    all_goals simp only [Option.isSome_some, Option.isSome_none]

theorem map_listSet {α β : Type} {g : α → β} {d a : α} {l : List α} {k : Nat} (h : g a = g (listGet d l k)) :
    (listSet l k a).map g = l.map g := by
  induction l generalizing k with
  | nil => rfl
  | cons b l ih =>
    cases k with
    | zero => rw [listSet, List.map_cons, List.map_cons, h, listGet]
    | succ k => rw [listSet, List.map_cons, List.map_cons, ih h]

section
variable {c n : Nat}

/-- The KILLs that are sent leave the result channel and what is due on it. -/
theorem peKills_same (hn : n < 16) (reads : List Nat) (l : List (Nat × Int)) (s : State) (j : PeJob) :
    SameChan c (resultKey n) s (s.peKills c n j reads l).1 ∧ SameNext j (s.peKills c n j reads l).2 := by
  induction l generalizing s j with
  | nil => exact ⟨.refl s, .refl j⟩
  | cons p l ih =>
    obtain ⟨k, pos⟩ := p
    rw [State.peKills]
    split
    · dsimp only
      refine ⟨((SameChan.modChan ((operandKey_ne_resultKey hn n).resolve_right (by omega)) _).trans (.count 3 1)).trans
        (ih _ _).1, SameNext.trans ?_ (ih _ _).2⟩
      exact ⟨rfl, rfl, rfl, rfl, map_listSet (d := Operand.empty) rfl⟩
    · exact ih s j

theorem peTake_same (hn : n < 16) (s : State) (j : PeJob) (k : Nat) : SameChan c (resultKey n) s (s.peTake c n j k).1 := by
  rw [State.peTake]
  split
  · exact .popChan ((operandKey_ne_resultKey hn n).resolve_right (by omega))
  · exact .refl s

theorem peTakes_same (hn : n < 16) (reads : List Nat) (s : State) (j : PeJob) :
    SameChan c (resultKey n) s (reads.foldl (fun (q : State × PeJob) k => q.1.peTake c n q.2 k) (s, j)).1 := by
  induction reads generalizing s j with
  | nil => exact .refl s
  | cons k l ih => exact (peTake_same hn s j k).trans (ih ..)

/-- A flit that is due enters the result channel where it has room (R269). -/
theorem peEmit_flits {s : State} {f : Frame} {j : PeJob} {r : Res} (hr : s.room c (resultKey n) 4 = true)
    (hd : ∀ z, (j.next f (originId c n) r s.cyc z).isSome = true) :
    ∃ y, ((s.peEmit c n f j r).chan c (resultKey n)).flits = (s.chan c (resultKey n)).flits ++ [y] := by
  unfold State.peEmit
  extract_lets p stay go
  have hgo (t : State) (z : Int) (h : SameChan c (resultKey n) s t) :
      ∃ y, ((go t z).chan c (resultKey n)).flits = (s.chan c (resultKey n)).flits ++ [y] := by
    obtain ⟨q, hq⟩ := Option.isSome_iff_exists.1 (hd z)
    obtain ⟨x, j', fin⟩ := q
    obtain ⟨y, hy⟩ := h.flits_pushChan x none
    refine ⟨y, (congrArg Chan.flits (SameChan.chan (s := t.pushChan c (resultKey n) x none) ?_)).trans hy⟩
    simp only [go, h.cyc, hq]
    have hcount (a m : Nat) (q : Prop) [Decidable q] : SameChan c (resultKey n) (t.pushChan c (resultKey n) x none)
        (if q then ((t.pushChan c (resultKey n) x none).count c 2 a).count c 4 m
          else (t.pushChan c (resultKey n) x none).count c 2 a) := by
      split
      · exact (SameChan.count 2 a).trans (.count 4 m)
      · exact .count 2 a
    split
    · exact ((hcount ..).trans (.setPe ..)).trans (.setPeSlot ..)
    · exact (hcount ..).trans (.setPe ..)
  clear_value go
  rw [hr, Bool.not_true, if_neg Bool.false_ne_true]
  split
  · split
    · exact hgo _ _ ⟨rfl, rfl, rfl⟩
    · exact hgo _ _ (.refl s)
  · exact hgo _ _ (.refl s)

end

section
variable (s : State) (c k n i : Nat) (f : Chan → Chan)

theorem cyc_modChan : (s.modChan c k f).cyc = s.cyc := by
  rw [State.modChan, modGrid_cyc]

theorem pe_modChan : (s.modChan c k f).pe c n = s.pe c n := by
  rw [State.pe, State.modChan, grid_modGrid_same, State.pe]

theorem slotAt_modChan : (s.modChan c k f).slotAt c n i = s.slotAt c n i := by
  rw [State.slotAt, State.modChan, grid_modGrid_same, State.cluster, modGrid_clusters, State.slotAt, State.cluster]

theorem peRes_modChan (F : Frame) (j : PeJob) : (s.modChan c k f).peRes c n F j = s.peRes c n F j := by
  rw [State.peRes, State.peSlot, State.modChan, grid_modGrid_same, State.peRes, State.peSlot]

end

/-- A KILL that names the element in progress in time stops it (R88, R90). -/
theorem execKill_stops {s : State} {c : CoreIx} {pe : Fin 16} {m : KillMsg} {rest : List KillMsg} {j : PeJob}
    (hk : (s.chan c.val (resultKey pe.val)).kills = m :: rest) (hl : (s.chan c.val (resultKey pe.val)).lastKill ≠ s.cyc + 1)
    (hj : (s.pe c.val pe.val).job = some j) (hh : j.headed = true) (hno : j.no = m.no) (hst : j.stop = none)
    (hdr : j.drained = false) (hsent : j.sent < (s.peRes c.val pe.val (s.slotAt c.val pe.val j.slot).frame j).total) :
    execKill c pe s = .next
      ((s.modChan c.val (resultKey pe.val) fun x => { x with kills := rest, lastKill := s.cyc + 1 }).setPe c.val pe.val
        { s.pe c.val pe.val with job := some { j with stop := some m.j, stopAt := s.cyc + 1 } }) := by
  have hkill : j.kill m true s.cyc = { j with stop := some m.j, stopAt := s.cyc + 1 } := by
    rw [PeJob.kill, hh, hno, hst, beq_self_eq_true]
    rfl
  have hmore : (if j.drained then j.out.head?.any fun y => y.kind == 2 else
      decide (j.sent < (s.peRes c.val pe.val (s.slotAt c.val pe.val j.slot).frame j).total)) = true := by
    rw [hdr, if_neg Bool.false_ne_true, decide_eq_true hsent]
  simp only [execKill, hk, if_neg hl, pe_modChan, hj, slotAt_modChan, peRes_modChan, hmore, cyc_modChan, hkill]

/-- Where a KILL that leaves a return queue goes (R254): from output `o` to the source of its element. -/
theorem execKillReturn_of_source {s : State} {c : CoreIx} {ch : ChanId} {m : KillMsg} {rest : List KillMsg} {src o : Nat}
    {no tag : BitVec 8} (hch : ∀ r, ch ≠ .result r) (hl : (s.chan c.val (chanKey ch)).lastKill ≠ s.cyc + 1)
    (hk : (s.chan c.val (chanKey ch)).kills = m :: rest)
    (hsrc : tabGet none (s.chan c.val (chanKey ch)).source m.no.toNat = some (src, no, tag))
    (hpart : (s.chan c.val src).part = some (no, tag))
    (ho : listFind (fun o => s.fedChan c.val src tag o == some (c.val, chanKey ch)) (s.fedOuts c.val src tag) = some o) :
    execKillReturn c ch s =
      let drop := s.modChan c.val (chanKey ch) fun x => { x with kills := rest, lastKill := s.cyc + 1 }
      let y := (s.chan c.val src).killFrom o ⟨no, tag, m.j⟩
      if !((s.fedOuts c.val src tag).all fun o => y.returned.any fun r => r.1 == o) then
        .next (drop.modChan c.val src fun x => x.killFrom o ⟨no, tag, m.j⟩)
      else if (s.chan c.val src).kills.length < 4 then
        .next (drop.modChan c.val src fun x =>
          { x with kills := x.kills ++ [⟨no, tag, maxKill y.returned⟩], returned := [] })
      else .next s := by
  unfold execKillReturn
  extract_lets k isResult
  have hres : isResult = false := by
    cases ch with
    | result r => exact absurd rfl (hch r)
    | _ => rfl
  have hb : ((s.chan c.val k).lastKill == s.cyc + 1) = false := beq_false_of_ne hl
  have hp : ((s.chan c.val src).part != some (no, tag)) = false := by rw [hpart, bne_self_eq_false]
  clear_value isResult
  subst k hres
  simp only [hb, hk, hsrc, ho, hp, Bool.false_eq_true, if_false]
  rfl

/-- Settles O49: each branch of the four events, with what it leaves in the result channel. -/
theorem killAndElementEvents : Obligations.KillAndElementEvents := by
  intro s c pe
  have hn := pe.isLt
  refine ⟨fun m rest j hk hl hj hh hno hst hdr hsent => execKill_stops hk hl hj hh hno hst hdr hsent,
    fun ch m rest src no tag o hch hl hk hsrc hpart => ?_, fun x i f hj hst hx hslot hwh => ?_,
    fun j hj => ⟨fun hc => ?_, fun hc ha hd => ?_, fun hc ha hd => ?_, fun hc ha hr hd => ?_, fun hc ha hd => ?_⟩⟩
  · dsimp only
    intro ho
    refine ⟨fun hall hlen => ?_, fun hall => ?_⟩
    · refine (execKillReturn_of_source hch hl hk hsrc hpart ho).trans ?_
      exact (if_neg (by rw [Chan.killFrom]; dsimp only; rw [hall]; exact Bool.false_ne_true)).trans (if_pos hlen)
    · refine (execKillReturn_of_source hch hl hk hsrc hpart ho).trans ?_
      exact if_pos (by rw [Chan.killFrom]; dsimp only; rw [hall]; rfl)
  · dsimp only
    intro hlen hcfg
    have hready : execPeFire c pe s =
        if ((peReads f).filterMap (s.peHead c.val pe.val)).all (fun h => h.kind == 4) then
          .next (s.peTile c.val pe.val i f (peReads f) x)
        else if ((peReads f).filterMap (s.peHead c.val pe.val)).all (peStart f)
            && ((peReads f).filterMap (s.peHead c.val pe.val)).all (fun h => h.ctag == x.ctag) then
          if peIsWord (fOp f) && fOp f != 0x30 && (!peIsCst f || x.last) then
            .next (s.peWord c.val pe.val i f x.ctag (peReads f) ((peReads f).filterMap (s.peHead c.val pe.val)))
          else .next (s.peBegin c.val pe.val i x.ctag (peReads f) ((peReads f).filterMap (s.peHead c.val pe.val)))
        else .next (s.peStop c.val pe.val x.ctag) := by
      simp only [execPeFire, hj, hst, hx, hslot, hwh, hlen, hcfg, Option.isSome_none, Bool.or_self, bne_self_eq_false,
        Bool.false_eq_true, if_false]
    refine ⟨fun htile => ⟨?_, peTile_flits hn⟩, fun htile hstart htag => ⟨fun hw => ⟨?_, peWord_flits hn⟩, fun hw => ?_⟩,
      fun htile hbad => ?_⟩
    · exact hready.trans (if_pos htile)
    · refine (hready.trans (if_neg (ne_true_of_eq_false htile))).trans ?_
      rw [hstart, htag, hw]
      rfl
    · obtain ⟨j, hjob⟩ := peBegin_job s c.val pe.val i x.ctag (peReads f) ((peReads f).filterMap (s.peHead c.val pe.val))
      refine ⟨_, j, (hready.trans (if_neg (ne_true_of_eq_false htile))).trans ?_, rfl, hjob⟩
      rw [hstart, htag, hw]
      rfl
    · exact (hready.trans (if_neg (ne_true_of_eq_false htile))).trans (if_neg (ne_true_of_eq_false hbad))
  · show execDigitEmit c pe s = _
    simp only [execDigitEmit, hj, hc, if_true]
  · show execDigitEmit c pe s = _
    simp only [execDigitEmit, hj, hc, ha, hd, Bool.and_self, if_true, Bool.false_eq_true, if_false]
  · show execDigitEmit c pe s = _
    simp only [execDigitEmit, hj, hc, ha, hd, Bool.and_false, if_true, Bool.false_eq_true, if_false]
  · have hex : ∃ t v r, exec (.digitEmit c pe) s = .next t
        ∧ r = (peReads (s.slotAt c.val pe.val j.slot).frame).foldl
            (fun (q : State × PeJob) k => q.1.peTake c.val pe.val q.2 k) (s, j)
        ∧ v = r.1.peKills c.val pe.val r.2 (peReads (s.slotAt c.val pe.val j.slot).frame)
            (s.peDue (s.slotAt c.val pe.val j.slot).frame r.2
              (s.peRes c.val pe.val (s.slotAt c.val pe.val j.slot).frame r.2))
        ∧ t = v.1.peEmit c.val pe.val (s.slotAt c.val pe.val j.slot).frame v.2
            (s.peRes c.val pe.val (s.slotAt c.val pe.val j.slot).frame r.2) := by
      refine ⟨_, _, _, ?_, rfl, rfl, rfl⟩
      show execDigitEmit c pe s = _
      simp only [execDigitEmit, hj, hc, ha, hd, hr, Bool.not_true, Bool.and_false, Bool.false_and, Bool.false_eq_true, if_false]
    obtain ⟨t, v, r, he, hr', hv, ht⟩ := hex
    rw [← hr'] at hd
    have htakes : SameChan c.val (resultKey pe.val) s r.1 := hr' ▸ peTakes_same hn _ s j
    obtain ⟨hchan, hnext⟩ := peKills_same (c := c.val) hn (peReads (s.slotAt c.val pe.val j.slot).frame)
      (s.peDue (s.slotAt c.val pe.val j.slot).frame r.2
        (s.peRes c.val pe.val (s.slotAt c.val pe.val j.slot).frame r.2)) r.1 r.2
    rw [← hv] at hchan hnext
    have hsame := htakes.trans hchan
    obtain ⟨y, hy⟩ := peEmit_flits (c := c.val) (n := pe.val) (s := v.1) (f := (s.slotAt c.val pe.val j.slot).frame) (j := v.2)
      (r := s.peRes c.val pe.val (s.slotAt c.val pe.val j.slot).frame r.2) (by rw [hsame.room, hr])
      (fun z => by rw [hsame.cyc, hnext.isSome _ _ _ _ 0 z, hd])
    exact ⟨t, y, he, by rw [ht, hy, hsame.chan]⟩
  · refine ⟨_, _, ?_, rfl, rfl⟩
    show execDigitEmit c pe s = _
    simp only [execDigitEmit, hj, hc, ha, hd, Bool.false_and, Bool.false_eq_true, if_false]

end Sys2Proof.Proofs
end

section
/-!
Memory-tile ports and sparse-update windows (R199-R203, R233-R242).
-/
namespace Sys2Proof.Proofs
open Sys2Proof.Machine Sys2Proof.Laws

/-! Bytes that an operation leaves. -/

/-- The memory and the map of addresses of two states are the same. -/
structure SameBytes (s t : State) : Prop where
  mem : t.mem = s.mem
  pkg : t.pkg = s.pkg

theorem SameBytes.refl (s : State) : SameBytes s s := ⟨rfl, rfl⟩

theorem SameBytes.trans {s t u : State} (h : SameBytes s t) (h' : SameBytes t u) : SameBytes s u :=
  ⟨h'.mem.trans h.mem, h'.pkg.trans h.pkg⟩

theorem SameBytes.natAt {s t : State} (h : SameBytes s t) (pa n : Nat) : t.natAt pa n = s.natAt pa n := by
  have hown (a : Nat) : t.isOwn a = s.isOwn a := by
    rw [State.isOwn, State.isOwn, State.ownPkg, State.ownPkg, h.pkg]
  simp only [State.natAt, State.bytesAt, State.memKey, hown, h.mem]

theorem sameBytes_modGrid (s : State) (c : Nat) (f : Grid → Grid) : SameBytes s (s.modGrid c f) := ⟨modGrid_mem .., modGrid_pkg ..⟩

theorem sameBytes_modPortq (s : State) (c key : Nat) (f : PortQ → PortQ) : SameBytes s (s.modPortq c key f) :=
  sameBytes_modGrid ..

theorem sameBytes_setRecords (s : State) (c key i : Nat) (l : List PortRec) : SameBytes s (s.setRecords c key i l) := by
  rw [State.setRecords, State.setPort]
  exact sameBytes_modGrid ..

theorem sameBytes_post (s : State) (c : Nat) (r : FRec) : SameBytes s (s.post c r) := by
  rw [State.post]
  exact ⟨by rw [modCpOf_mem, modDie_mem], by rw [modCpOf_pkg, modDie_pkg]⟩

theorem sameBytes_eccRead (s : State) (pa n : Nat) : SameBytes s (s.eccRead pa n) :=
  ⟨(keeps_eccRead s pa n).mem, (keeps_eccRead s pa n).pkg⟩

/-! Requests of a port. -/

section
variable {s : State} {c key : Nat}

theorem portq_modPortq (f : PortQ → PortQ) : (s.modPortq c key f).portq c key = f (s.portq c key) := by
  rw [State.portq, State.modPortq, grid_modGrid_same, tabGet_set, if_pos rfl, State.portq]

theorem portq_modGrid {f : Grid → Grid} (hf : ∀ g, (f g).portqs = g.portqs) : (s.modGrid c f).portq c key = s.portq c key := by
  rw [State.portq, grid_modGrid_same, hf, State.portq]

theorem portq_modChan (k : Nat) (f : Chan → Chan) : (s.modChan c k f).portq c key = s.portq c key := portq_modGrid fun _ => rfl

theorem portq_movedIn : (s.movedIn c).portq c key = s.portq c key := portq_modGrid fun _ => rfl

theorem portq_popChan (k : Nat) : (s.popChan c k).portq c key = s.portq c key := by
  rw [State.popChan, portq_movedIn, portq_modChan]

theorem portq_setPort (i : Nat) (p : Port) : (s.setPort c key i p).portq c key = s.portq c key := portq_modGrid fun _ => rfl

theorem portq_active : (s.active c).portq c key = s.portq c key := portq_modGrid fun _ => rfl

theorem portq_setWindow (w : Nat) (l : List UpdElem) : (s.setWindow c w l).portq c key = s.portq c key :=
  portq_modGrid fun _ => rfl

/-- A port that fires enters one request at the back of its queue (R199). -/
theorem portFire_reqs (i : Nat) (f : Frame) (o : Nat) (poison : Bool) (data : List Flit) (x : Flit) (it : Option (Nat × Nat)) :
    ∃ r, ((s.portFire c key i f o poison data x it).portq c key).reqs = (s.portq c key).reqs ++ [r]
      ∧ r.slot = i ∧ r.off = o ∧ r.poison = poison ∧ r.data = data ∧ r.fired = x := by
  rw [State.portFire]
  dsimp only
  split
  · rw [portq_modPortq, portq_setPort]
    exact ⟨_, rfl, rfl, rfl, rfl, rfl, rfl⟩
  · rw [portq_modPortq, portq_setPort]
    exact ⟨_, rfl, rfl, rfl, rfl, rfl, rfl⟩

/-- The flit at a port's head, whose access fires, enters one request (R235). -/
theorem portHead_fires {op : Nat} {x : Flit} {i : Nat} {f : Frame} {o : Int} {poison : Bool} {data : List Flit}
    (hx : s.head c (drainKey key) = some x) (hslot : s.slotFor c key x.ctag = some (i, f)) (hop : fOp f = op)
    (hw : s.portWithheld c key i = false) (hbad : x.sideBad = false) (h5 : x.kind ≠ 5) (h4 : x.kind ≠ 4)
    (hreqs : (s.portq c key).reqs.length < 16) (hheld : 4 ≤ op → s.portHeld c key < 32)
    (hstep : s.portStep c key f (s.port c key i).taken x = .fire o poison data none)
    (hin : poison = true ∨ offsetIn f o = true) :
    ∃ r, ((s.portHead c key op).portq c key).reqs = (s.portq c key).reqs ++ [r]
      ∧ r.slot = i ∧ r.off = o.toNat ∧ r.poison = poison ∧ r.data = data ∧ r.fired = x := by
  have hopen : (fOp f != op || x.sideBad || x.kind == 5 || s.portWithheld c key i
      || decide (16 ≤ (s.portq c key).reqs.length) || (decide (4 ≤ op) && decide (32 ≤ s.portHeld c key))) = false := by
    have hk : (x.kind == 5) = false := beq_false_of_ne h5
    have hroom : (decide (4 ≤ op) && decide (32 ≤ s.portHeld c key)) = false := by
      rw [Bool.and_eq_false_iff, decide_eq_false_iff_not, decide_eq_false_iff_not]
      omega
    rw [hop, bne_self_eq_false, hbad, hk, hw, decide_eq_false (Nat.not_le.2 hreqs), hroom]
    rfl
  have hgo : (!poison && !offsetIn f o) = false := by
    rcases hin with h | h <;> rw [h]
    · rfl
    · exact Bool.and_false _
  have hhead : s.portHead c key op
      = (s.popChan c (drainKey key)).portFire c key i f o.toNat poison data x none := by
    simp only [State.portHead, hx, hslot, hopen, Bool.false_eq_true, if_false, State.portTake, if_neg h4, hstep, hgo,
      Option.map_none]
  obtain ⟨r, h⟩ := portFire_reqs (s := s.popChan c (drainKey key)) (c := c) (key := key) i f o.toNat poison data x none
  rw [portq_popChan] at h
  exact ⟨r, by rw [hhead]; exact h⟩

/-- A port that is withheld takes nothing (R234). -/
theorem portHead_of_withheld (op : Nat) (hw : ∀ i, s.portWithheld c key i = true) : s.portHead c key op = s := by
  rw [State.portHead]
  split
  · rfl
  · split
    · rfl
    · exact if_pos (by rw [hw, Bool.or_true, Bool.true_or, Bool.true_or])

theorem listFind_of_forall_false {α : Type} {p : α → Bool} {l : List α} (h : ∀ a, p a = false) : listFind p l = none := by
  induction l with
  | nil => rfl
  | cons a l ih => rw [listFind, h, if_neg Bool.false_ne_true, ih]

/-- And sends nothing (R455). -/
theorem portSend_of_withheld (op : Nat) (hw : ∀ i, s.portWithheld c key i = true) : s.portSend c key op = s := by
  rw [State.portSend]
  dsimp only
  split
  · rw [listFind_of_forall_false fun i => by rw [hw, Bool.not_true, Bool.and_false, Bool.false_and, Bool.false_and]]
  · have hf : s.portFront c key (s.portq c key).outs = none := by
      refine listFind_of_forall_false fun n => ?_
      split
      · rw [hw, Bool.not_true, Bool.false_and]
      · rfl
    rw [hf]
    rfl

/-- The first response of a port leaves for its side (R200). -/
theorem portSend_first {op : Nat} {o : PortOut} {l : List PortOut} {x : Flit} {m : List Flit} (hlt : op < 4)
    (houts : (s.portq c key).outs = o :: l) (hflits : o.flits = x :: m) (hop : fOp (s.slotAt c key o.slot).frame = op)
    (hw : s.portWithheld c key o.slot = false)
    (hroom : s.sideRoom c (fb (s.slotAt c key o.slot).frame 221 218) = true) :
    s.portSend c key op = (s.modPortq c key fun q => { q with outs := dropSent ({ o with flits := m } :: l) }).sidePush c
      (fb (s.slotAt c key o.slot).frame 221 218) x := by
  have hfront : s.portFront c key (o :: l) = some 0 := by
    rw [State.portFront, List.length_cons, rangeFrom, listFind]
    refine if_pos ?_
    simp [hw, hflits]
  rw [State.portSend]
  dsimp only
  rw [if_neg (Nat.not_le.2 hlt), houts, hfront]
  simp only [Option.bind_some, List.getElem?_cons_zero, Option.map_some, hflits, hop, hroom, beq_self_eq_true, Bool.and_self,
    if_true, listSet]

/-- An update port sends the first flit that is due (R239, R242). -/
theorem portSend_update {op i : Nat} {x : Flit} {l : List PortRec} (hlt : 4 ≤ op)
    (hi : listFind (fun i =>
      (s.slotAt c key i).v && fOp (s.slotAt c key i).frame == op && !s.portWithheld c key i
        && (nextUpdate key (fCtag (s.slotAt c key i).frame) (s.port c key i).waiting).isSome
        && s.sideRoom c (fb (s.slotAt c key i).frame 221 218)) (rangeFrom 0 4) = some i)
    (hx : nextUpdate key (fCtag (s.slotAt c key i).frame) (s.port c key i).waiting = some (x, l)) :
    s.portSend c key op = (s.setRecords c key i l).sidePush c (fb (s.slotAt c key i).frame 221 218) x := by
  rw [State.portSend]
  dsimp only
  rw [if_pos hlt, hi]
  dsimp only
  rw [hx]

/-! Accesses. -/

theorem mem_portAccess_read {f : Frame} (r : PortReq) (hop : fOp f = 0 ∨ fOp f = 2) :
    (s.portAccess c key f r).mem = s.mem := by
  have hread : SameBytes s (s.portRead c key f r).1 := by
    rw [State.portRead]
    dsimp only
    have h1 : SameBytes s (if r.poison then s else s.eccRead (s.scratchPa c r.off) (fBytes f)) := by
      split
      · exact .refl s
      · exact sameBytes_eccRead ..
    split
    · exact h1.trans (sameBytes_post ..)
    · exact h1
  rw [State.portAccess]
  rw [if_pos hop]
  exact (hread.trans (sameBytes_modPortq ..)).mem

theorem natAt_portAccess_write {f : Frame} {r : PortReq} (hop : fOp f = 1 ∨ fOp f = 3) (hp : r.poison = false)
    (hd : (r.data.any fun d => d.poison) = false) (hn : s.narrowBad (s.scratchPa c r.off) (fBytes f) = false) :
    (s.portAccess c key f r).natAt (s.scratchPa c r.off) (fBytes f)
      = r.data.foldr (fun d v => d.pay.toNat + 2 ^ 64 * v) 0 % 256 ^ fBytes f := by
  have hwrite : s.portWrite c key f r
      = s.writeNat (s.scratchPa c r.off) (fBytes f) (r.data.foldr (fun d v => d.pay.toNat + 2 ^ 64 * v) 0) := by
    rw [State.portWrite]
    rw [if_neg (by rw [hp, hd]; exact Bool.false_ne_true), if_neg (by rw [hn]; exact Bool.false_ne_true)]
  rw [State.portAccess]
  rw [if_neg (by omega), (sameBytes_modPortq ..).natAt]
  dsimp only
  rw [hwrite, natAt_writeNat, Nat.pow_mul]

/-- An element of an update enters the window of its bank (R239, R240). -/
theorem portUpdate_enters {f : Frame} (j : Nat) {r : PortReq} (hp : r.poison = false) (hd : (r.data.any fun d => d.poison) = false)
    (hl : (s.window c (bankOf r.off)).length < 16) :
    ∃ x, (((s.portUpdate c key f j r).active c).portq c key).reqs = (s.portq c key).reqs.eraseIdx j
      ∧ ((s.portUpdate c key f j r).active c).window c (bankOf r.off) = s.window c (bankOf r.off) ++ [x] ∧ x.off = r.off := by
  have hupd : ∃ x : UpdElem, x.off = r.off ∧ s.portUpdate c key f j r
      = (s.modPortq c key fun q => { q with reqs := q.reqs.eraseIdx j }).setWindow c (bankOf r.off)
        (s.window c (bankOf r.off) ++ [x]) := by
    rw [State.portUpdate]
    dsimp only
    rw [hp, hd, if_neg (by rw [decide_eq_false (Nat.not_le.2 hl)]; exact Bool.false_ne_true), Bool.or_false,
      if_neg Bool.false_ne_true]
    exact ⟨_, rfl, rfl⟩
  obtain ⟨x, hx, he⟩ := hupd
  refine ⟨x, ?_, ?_, hx⟩
  · rw [he, portq_active, portq_setWindow, portq_modPortq]
  · rw [he, State.active, State.window, grid_modGrid_same, State.setWindow, grid_modGrid_same, tabGet_set, if_pos rfl]

/-! Windows. -/

theorem natAt_updApply {e : UpdElem} (hb : s.eccBad (s.scratchPa c e.off) (2 ^ e.esz) = false) (hd : e.dep = none) :
    (s.updApply c e).natAt (s.scratchPa c e.off) (2 ^ e.esz)
      = (updNew e.op (8 * 2 ^ e.esz) (s.natAt (s.scratchPa c e.off) (2 ^ e.esz)) e.val.toNat).1 % 256 ^ 2 ^ e.esz := by
  rw [State.updApply]
  dsimp only
  rw [if_neg (by rw [hb]; exact Bool.false_ne_true), hd]
  dsimp only
  have hw (t : State) (v : Nat) :
      (t.writeNat (s.scratchPa c e.off) (2 ^ e.esz) v).natAt (s.scratchPa c e.off) (2 ^ e.esz) = v % 256 ^ 2 ^ e.esz := by
    rw [natAt_writeNat, Nat.pow_mul]
  split
  · rw [State.portPoison, (sameBytes_post ..).natAt, hw]
  · rw [hw]

theorem natAt_updApply_dep {e : UpdElem} {u : Word × Nat} (hb : s.eccBad (s.scratchPa c e.off) (2 ^ e.esz) = false)
    (hd : e.dep = some u) :
    (s.updApply c e).natAt (s.scratchPa c e.off) 2 = (s.natAt (s.scratchPa c e.off) (2 ^ e.esz) + 0xFFFF) % 2 ^ 16 := by
  rw [State.updApply]
  dsimp only
  rw [if_neg (by rw [hb]; exact Bool.false_ne_true), hd]
  dsimp only
  have hw (t : State) (v : Nat) :
      (t.writeNat (s.scratchPa c e.off) 2 (v % 2 ^ 16)).natAt (s.scratchPa c e.off) 2 = v % 2 ^ 16 := by
    rw [natAt_writeNat, Nat.mod_mod]
  split
  · rw [(sameBytes_modGrid ..).natAt, (sameBytes_setRecords ..).natAt, hw]
  · rw [hw]

end

/-- Settles O50: each of the six operations is `portEvent`, whose three parts are followed on their own. -/
theorem portEvents : Obligations.PortEvents := by
  intro s c mt port
  refine ⟨fun op e hmem => ?_, fun bank i x => ?_⟩
  · have hexec : op < 6 ∧ ∀ p, exec (e p) s = portEvent op c mt port p s := by
      simp only [List.mem_cons, List.not_mem_nil, or_false, Prod.mk.injEq] at hmem
      rcases hmem with ⟨rfl, rfl⟩ | ⟨rfl, rfl⟩ | ⟨rfl, rfl⟩ | ⟨rfl, rfl⟩ | ⟨rfl, rfl⟩ | ⟨rfl, rfl⟩ <;>
        exact ⟨by omega, fun _ => rfl⟩
    obtain ⟨-, hexec⟩ := hexec
    refine ⟨fun x i f o poison data hx hslot hop hw hbad h5 h4 hreqs hheld hstep hin => ?_, fun j r hr hop hready => ?_,
      fun hw => ⟨?_, ?_⟩, fun o l x m hlt houts hflits hop hw hroom => ?_, fun i x l hle hi hx => ?_⟩
    · obtain ⟨r, h⟩ := portHead_fires hx hslot hop hw hbad h5 h4 hreqs hheld hstep hin
      exact ⟨_, r, hexec _, h⟩
    · have hperf : s.portPerform c.val (256 + 4 * mt.val + port.val) op j =
          (if 4 ≤ op then (s.portUpdate c.val (256 + 4 * mt.val + port.val)
              (s.slotAt c.val (256 + 4 * mt.val + port.val) r.slot).frame j r).active c.val
            else if !(s.portq c.val (256 + 4 * mt.val + port.val)).mayIssue r.id then s
            else (s.portAccess c.val (256 + 4 * mt.val + port.val)
              (s.slotAt c.val (256 + 4 * mt.val + port.val) r.slot).frame r).active c.val) := by
        rw [State.portPerform]
        dsimp only
        rw [hr]
        dsimp only
        exact if_neg (by rw [hready, hop]; simp)
      refine ⟨fun hlt hissue => ⟨?_, fun h => mem_portAccess_read r ?_, fun h hp hd hn =>
        natAt_portAccess_write ?_ hp hd hn⟩, fun hle hp hd hl => ?_⟩
      · refine (hexec _).trans (congrArg Host.Outcome.next (hperf.trans ?_))
        rw [if_neg (Nat.not_le.2 hlt), hissue, Bool.not_true, if_neg Bool.false_ne_true]
      · rw [hop]; exact h
      · rw [hop]; exact h
      · obtain ⟨x, h⟩ := portUpdate_enters (c := c.val) (key := 256 + 4 * mt.val + port.val)
          (f := (s.slotAt c.val (256 + 4 * mt.val + port.val) r.slot).frame) j hp hd hl
        exact ⟨_, x, (hexec _).trans (congrArg Host.Outcome.next (hperf.trans (if_pos hle))), h⟩
    · exact (hexec _).trans (congrArg Host.Outcome.next (portHead_of_withheld op hw))
    · exact (hexec _).trans (congrArg Host.Outcome.next (portSend_of_withheld op hw))
    · exact (hexec _).trans (congrArg Host.Outcome.next (portSend_first hlt houts hflits hop hw hroom))
    · exact (hexec _).trans (congrArg Host.Outcome.next (portSend_update hle hi hx))
  · dsimp only
    intro hx
    have hwin := sameBytes_modGrid s c.val fun g =>
      { g with windows := tabSet [] g.windows (16 * mt.val + bank.val) ((s.window c.val (16 * mt.val + bank.val)).eraseIdx i) }
    refine ⟨fun hready hmay => ⟨?_, fun hb hd => ?_, fun u hb hd => ?_⟩, fun j y hy hj hm => ?_⟩
    · show execSparseUpdateApply c mt bank i none s = _
      simp only [execSparseUpdateApply, hx, hready, hmay, Bool.and_self, if_true]
    · rw [← hwin.natAt]
      exact natAt_updApply hb hd
    · rw [← hwin.natAt]
      exact natAt_updApply_dep hb hd
    · show execSparseUpdateApply c mt bank i (some j) s = _
      simp only [execSparseUpdateApply, hx, hy, hj, hm, and_self, if_true]

end Sys2Proof.Proofs
end

section
/-!
The matrix unit (R171-R192).
-/
namespace Sys2Proof.Proofs
open Sys2Proof.Machine Sys2Proof.Laws

section
variable {s : State} {c : Nat}

theorem mx_setMx_same (m : Mx) : (s.setMx c m).mx c = m := by rw [State.mx, State.setMx, units_modUnits_same]

theorem mx_active : (s.active c).mx c = s.mx c := by rw [State.mx, State.active, units_modGrid, State.mx]

/-- An operation that begins is at its first step (R177). -/
theorem mxBegin_op (w : Word) (a b : MxOperand) :
    ∃ o, ((s.mxBegin c w a b).mx c).op = some o ∧ o.q = 0 ∧ o.g = 0 ∧ o.k = 0 := by
  rw [State.mxBegin, mx_active, mx_setMx_same]
  exact ⟨_, rfl, rfl, rfl, rfl⟩

/-- Before the last block of a K row an operation goes on with the next block (R178). -/
theorem mxStep_op {e : MxEntry} {w : Word} {p : MxPlace} {o : MxOp} (hk : o.k + 1 < mxKb w) :
    ∃ v, ((s.mxStep c e w p o).mx c).op = some v ∧ v.k = o.k + 1 ∧ v.g = o.g ∧ v.q = o.q := by
  unfold State.mxStep
  extract_lets na nb a b r t o'
  have ho : o'.k = o.k ∧ o'.g = o.g ∧ o'.q = o.q := ⟨rfl, rfl, rfl⟩
  clear_value o' t
  obtain ⟨hk', hg, hq⟩ := ho
  rw [if_pos (by rw [hk']; exact hk), mx_setMx_same]
  exact ⟨_, rfl, by rw [hk'], hg, hq⟩

end

section
variable {s : State} {c : CoreIx} {e : MxEntry} {w : Word} {p : MxPlace}

/-- Whatever the operands of the `mma` token at the head, its event does what R172 and R173 say of them. -/
theorem mxStart_token {m : Nat} (hh : s.mxHead c.val = .token e w p) (hm : mxMop w = m) (hop : (s.mx c.val).op = none) :
    s.mxStart c.val m = match s.mxOperands c.val w p with
      | .malformed => s.mxError c.val e causeCfgerr
      | .wait => s
      | .axis a b => (s.mxFlags c.val w p a b).mxError c.val e causeBlkaxis
      | .ready a b => s.mxBegin c.val w a b := by
  rw [State.mxStart, hh]
  dsimp only
  refine (if_neg (by rw [hm, hop]; simp)).trans ?_
  cases s.mxOperands c.val w p <;> rfl

/-- A read token at the head reads its rectangle (R184). -/
theorem execAccRd_begins (hh : s.mxHead c.val = .token e w p) (hm : mxMop w = 2) (ho : (s.mx c.val).out = none) :
    ∃ (t : State) (v : List Flit), execAccRd c s = .next ((t.setMx c.val { t.mx c.val with out := some v }).active c.val) := by
  rw [execAccRd, hh]
  dsimp only
  rw [if_neg (not_not_intro hm), ho]
  dsimp only
  generalize (s.accFix c.val _).rectFlits c.val e.ctag w _ = r
  exact ⟨r.1, r.2, rfl⟩

/-- A flit of the rectangle enters a buffer with room, and the last ends the token (R184). -/
theorem execAccRd_flit {x : Flit} {l : List Flit} (hh : s.mxHead c.val = .token e w p) (hm : mxMop w = 2)
    (ho : (s.mx c.val).out = some (x :: l)) (hr : s.sbRoom c.val p.rsb.1 p.rsb.2.1 p.rsb.2.2 byMatrix 16 = true) :
    execAccRd c s =
      let t := s.sbPutFlit c.val p.rsb.1 p.rsb.2.1 p.rsb.2.2 byMatrix x
      .next (if l.isEmpty then (t.setMx c.val { t.mx c.val with out := some l }).mxFinish c.val e
        else t.setMx c.val { t.mx c.val with out := some l }) := by
  rw [execAccRd, hh]
  dsimp only
  rw [if_neg (not_not_intro hm), ho]
  exact if_pos hr

end

/-- Settles O51: the head of the queue decides which event goes on, and each does its part. -/
theorem matrixEvents : Obligations.MatrixEvents := by
  intro s c
  refine ⟨fun rt f hsrc hroom hoff => ?_, fun e w p hh => ⟨fun i m hi hm hop => ?_, fun o ho hm => ⟨?_, mxStep_op⟩,
    fun hm ho => ?_, fun x y l hm ho hr => ?_, fun x hm ho hr => ?_, fun hm ho => ?_, fun hm => ?_⟩,
    fun e hh => ?_, fun e hh hb => ?_⟩
  · show execMxTokenEnqueue c s = _
    rw [execMxTokenEnqueue, hsrc]
    exact if_pos (by rw [hroom, hoff]; rfl)
  · have hexec : exec i s = .next (s.mxStart c.val m) := by
      simp only [List.mem_cons, List.not_mem_nil, or_false, Prod.mk.injEq] at hi
      rcases hi with ⟨rfl, rfl⟩ | ⟨rfl, rfl⟩
      · rfl
      · rfl
    rw [mxStart_token hh hm hop] at hexec
    refine ⟨fun a b hr => ?_, fun a b hr => ?_, fun hr => ?_⟩
    · rw [hr] at hexec
      obtain ⟨o, h⟩ := mxBegin_op (s := s) (c := c.val) w a b
      exact ⟨_, o, hexec, rfl, h⟩
    · rw [hr] at hexec
      exact hexec
    · rw [hr] at hexec
      exact hexec
  · show execMatrixStep c s = _
    rw [execMatrixStep, hh]
    dsimp only
    rw [ho]
    exact if_pos hm
  · show execAccRd c s = _
    rw [execAccRd, hh]
    dsimp only
    rw [if_neg (not_not_intro hm), ho]
  · refine (execAccRd_flit hh hm ho hr).trans ?_
    dsimp only
    rw [List.isEmpty_cons, if_neg Bool.false_ne_true]
  · refine (execAccRd_flit hh hm ho hr).trans ?_
    dsimp only
    rw [List.isEmpty_nil, if_pos rfl]
  · obtain ⟨t, v, hread⟩ := execAccRd_begins hh hm ho
    exact ⟨_, v, hread, by rw [mx_active, mx_setMx_same]⟩
  · show execAccClr c s = _
    rw [execAccClr, hh]
    exact if_neg (not_not_intro hm)
  · show execMatrixStep c s = _
    rw [execMatrixStep, hh]
  · show execMatrixStep c s = _
    rw [execMatrixStep, hh]
    exact if_pos (Or.inl hb)

end Sys2Proof.Proofs
end

section
/-!
What the operations on channels, buffers and registers leave of the streams and templates of a core.
-/
namespace Sys2Proof.Proofs
open Sys2Proof.Machine Sys2Proof.Laws

theorem units_modDie (s : State) (d : Nat) (f : Die → Die) (n : Nat) : (s.modDie d f).units n = s.units n := by
  rw [State.units, core_modDie, State.units]

theorem units_post (s : State) (c : Nat) (r : FRec) (n : Nat) : (s.post c r).units n = s.units n := by
  rw [State.post, units_modCpOf, units_modDie]

theorem units_pendTrap (s : State) (c : Nat) (cause : BitVec 6) (v : Word) (n : Nat) :
    (s.pendTrap c cause v).units n = s.units n := units_modCpOf ..

theorem units_deliver (s : State) (c : Nat) (d : Reg) (v : Word) (n : Nat) : (s.deliver c d v).units n = s.units n :=
  units_modCpOf ..

theorem units_active (s : State) (c n : Nat) : (s.active c).units n = s.units n := units_modGrid ..

theorem units_count (s : State) (c k v n : Nat) : (s.count c k v).units n = s.units n := units_modGrid ..

theorem units_movedIn (s : State) (c n : Nat) : (s.movedIn c).units n = s.units n := units_modGrid ..

theorem units_entryIn (s : State) (c n : Nat) : (s.entryIn c).units n = s.units n := by
  rw [State.entryIn, units_active, units_modCpOf]

theorem units_writeBytes (s : State) (pa : Nat) (bs : List Byte) (n : Nat) : (s.writeBytes pa bs).units n = s.units n := rfl

theorem units_unitWrite (s : State) (c orig : Nat) (w3 : Word) (pa : Nat) (bs : List Byte) (n : Nat) :
    (s.unitWrite c orig w3 pa bs).units n = s.units n := by
  rw [State.unitWrite]
  split
  · exact units_post ..
  · exact units_writeBytes ..

theorem units_sbWrite (s : State) (c m : Nat) (f : Frame) (p : Nat) (bs : List Byte) (n : Nat) :
    (s.sbWrite c m f p bs).units n = s.units n := by
  unfold State.sbWrite
  extract_lets put
  have hput (t : State) (o : Nat) (bs : List Byte) : (put t o bs).units n = t.units n := units_unitWrite ..
  clear_value put
  split
  · rw [hput, hput]
  · exact hput ..
  · rfl

theorem units_pushFrom (s : State) (c k rt : Nat) (f : Flit) (src : Option (Nat × BitVec 8 × BitVec 8)) (n : Nat) :
    (s.pushFrom c k rt f src).units n = s.units n := by
  have hreceive : (s.receive c rt f).1.units n = s.units n := by
    rw [State.receive]
    split
    · exact units_post ..
    · split <;> rfl
  rw [State.pushFrom, units_movedIn, State.modChan, units_modGrid, hreceive]

theorem units_sidePush (s : State) (c q : Nat) (f : Flit) (n : Nat) : (s.sidePush c q f).units n = s.units n := units_pushFrom ..

/-- The streams of core `c` are the same. -/
def SameStreams (c : Nat) (s t : State) : Prop := (t.units c).streams = (s.units c).streams

section
variable {s t : State} {c : Nat}

theorem SameStreams.stream (h : SameStreams c s t) (a i : Nat) : t.stream c a i = s.stream c a i := by
  rw [State.stream, h, State.stream]

theorem sameStreams_of_units (h : t.units c = s.units c) : SameStreams c s t := congrArg Units.streams h

theorem sameStreams_modUnits {f : Units → Units} (hf : ∀ u, (f u).streams = u.streams) : SameStreams c s (s.modUnits c f) := by
  rw [SameStreams, units_modUnits_same, hf]

theorem SameStreams.trans {u : State} (h : SameStreams c s t) (h' : SameStreams c t u) : SameStreams c s u :=
  Eq.trans h' h

theorem sameStreams_sbPut (n i : Nat) (f : Frame) (src : Nat) (bs : List Byte) (last : Bool) :
    SameStreams c s (s.sbPut c n i f src bs last) := by
  rw [SameStreams, State.sbPut, units_movedIn, units_entryIn, State.setSbuf, units_modUnits_same, units_sbWrite]

theorem sameStreams_deliverFlit {src : Nat} {g : Target} {x : Flit} {u : State} (h : s.deliverFlit c src g x = .sent u) :
    SameStreams c s u := by
  rw [State.deliverFlit.eq_def] at h
  split at h
  · split at h
    · cases h
      exact sameStreams_of_units (units_sidePush ..)
    · cases h
  · split at h
    · cases h
      exact sameStreams_sbPut ..
    · cases h
  · cases h
  · cases h

end

section
variable {s : State} {c a i : Nat}

theorem stream_active : (s.active c).stream c a i = s.stream c a i :=
  (sameStreams_of_units (units_active ..)).stream ..

theorem stream_tilePoison (node sid : Nat) (trap : Bool) (p : TilePoison) :
    (s.tilePoison c node sid trap p).stream c a i = s.stream c a i := by
  refine (sameStreams_of_units ?_).stream a i
  rw [State.tilePoison]
  split
  · rfl
  · dsimp only
    split
    · rw [units_pendTrap, State.postPoison, units_post]
    · rw [State.postPoison, units_post]

/-- A stream that ends stands in the phase in which it ends (R303). -/
theorem phase_streamEnd (p : StreamPhase) : ((s.streamEnd c a i p).stream c a i).phase = p := by
  rw [State.streamEnd]
  have hd (l : List Reg) (v : Word) (t : State) :
      SameStreams c t (l.foldl (fun (s : State) r => s.deliver c r v) t) :=
    foldl_keeps (P := SameStreams c t) (f := fun (s : State) r => s.deliver c r v)
      (fun _ _ h => h.trans (sameStreams_of_units (units_deliver ..))) l (sameStreams_of_units rfl)
  dsimp only
  rw [stream_active, (hd ..).stream, stream_setStream_same]

theorem phase_streamFinish : ((s.streamFinish c a i).stream c a i).phase = .done := by
  rw [State.streamFinish]
  split
  · refine (congrArg Stream.phase ((sameStreams_modUnits ?_).stream a i)).trans (phase_streamEnd .done)
    exact fun _ => rfl
  · exact phase_streamEnd .done

theorem phase_launch : ((s.launch c a i).stream c a i).phase = .running := by
  rw [State.launch, stream_active]
  refine (congrArg Stream.phase ((sameStreams_modUnits ?_).stream a i)).trans ?_
  · exact fun _ => rfl
  · rw [stream_setStream_same]

theorem flown_inIssued (n : Nat) (x : Stream) (y : Xfer) : ((s.inIssued c a i n x y).stream c a i).x.flown = y.flown := by
  rw [State.inIssued, stream_active, (sameStreams_of_units (units_count ..)).stream, stream_setStream_same]

theorem tpl_setTpl_same (m : Tpl) : (s.setTpl c a m).tpl c a = m := by
  rw [State.tpl, State.setTpl, units_modUnits_same, tabGet_set, if_pos rfl]

theorem tpl_active : (s.active c).tpl c a = s.tpl c a := by
  rw [State.tpl, units_active, State.tpl]

end

end Sys2Proof.Proofs
end

section
/-!
Streams and copy templates (R290-R307, R313-R320).
-/
namespace Sys2Proof.Proofs
open Sys2Proof.Machine Sys2Proof.Laws

/-! Inbound streams. -/

section
variable {s : State} {c a i : Nat}

/-- A running stream with nothing in hand issues its next element (R292, R295). -/
theorem inStep_issues {x : Stream} {t : State} {y : Xfer} (hx : s.stream c a i = x) (hrun : x.phase = .running)
    (hcan : x.cancelling = false) (hend : x.atEnd = false) (hsent : x.x.sent = true) (hfront : x.x.front = none)
    (hagain : againOf x.x.flown = none) (hroom : x.x.waiting < 32) (hk : x.konst = none) (hind : shInd x.record = false)
    (htarget : s.streamTarget c a x ≠ .wait) (hissue : s.issueRead c x.x x.record x.base x.sys 0 1 = .ok t y) :
    s.inStep c a i = t.inIssued c a i 0 x y := by
  have htake : s.inTake c a i = s := by
    rw [State.inTake, hx, hfront]
  have hread : s.inRead c a i = t.inIssued c a i 0 x y := by
    rw [State.inRead, hx]
    split
    · next h => exact absurd h htarget
    · rw [hk]
      dsimp only
      rw [hind, Bool.not_false, if_pos rfl, hissue]
  rw [State.inStep]
  simp only [hx, hrun, hcan, hend, hsent, hagain, htake, hread, ne_eq, not_true_eq_false, if_false, if_true, or_self,
    Bool.false_eq_true, Nat.not_le.2 hroom]

theorem pos_issueRead {x : Xfer} {r : Shape} {base : Word} {sys : Bool} {u : Int} {n : Nat} {t : State} {y : Xfer}
    (h : s.issueRead c x r base sys u n = .ok t y) : y.pos = x.pos + 1 := by
  rw [State.issueRead] at h
  split at h <;> cases h
  rfl

/-- A stream at its end with flits in hand delivers the first (R295, R297). -/
theorem inStep_delivers {x : Stream} {f g : Flit} {l : List Flit} {u : State} (hx : s.stream c a i = x)
    (hrun : x.phase = .running) (hend : x.atEnd = true) (hagain : againOf x.x.flown = none) (hout : x.x.out = f :: g :: l)
    (hturn : s.hasTurn c a (shPort x.record) x.ctag x.order = true)
    (hsent : s.deliverFlit c (byStream a i) (s.streamTarget c a x) f = .sent u) :
    ((s.inStep c a i).stream c a i).x.out = g :: l := by
  have hnot : x.x.sent = false := by rw [Xfer.sent, hout]; rfl
  obtain ⟨w, hgive, hwout, hwflown, hwend⟩ : ∃ w : Stream, s.inDeliver c a i = u.setStream c a i w ∧ w.x.out = g :: l
      ∧ w.x.flown = x.x.flown ∧ w.atEnd = true := by
    refine ⟨{ x with x := { x.x with out := g :: l } }, ?_, rfl, rfl, hend⟩
    rw [State.inDeliver, hx]
    dsimp only
    rw [hturn, Bool.not_true, if_neg Bool.false_ne_true, hout]
    dsimp only
    rw [hsent]
    dsimp only
    rw [(sameStreams_deliverFlit hsent).stream, hx]
  have hwnot : w.x.sent = false := by rw [Xfer.sent, hwout]; rfl
  have hstep : s.inStep c a i = u.setStream c a i w := by
    rw [State.inStep]
    simp only [hx, hrun, hnot, hgive, stream_setStream_same, hwnot, hwflown, hagain, hwend, ne_eq, not_true_eq_false,
      if_false, Bool.false_eq_true, true_or, if_true, ite_self]
  rw [hstep, stream_setStream_same, hwout]

end

/-! Copies. -/

section
variable {s : State} {c a i : Nat}

/-- A copy that has gathered what it needs writes it (R313). -/
theorem copyStep_writes {m : Tpl} {n : Nat} {t : State} {y : Xfer} (hm : s.tpl c n = m) (hrun : m.phase = .copying)
    (hsent : m.x.sent = true) (hframe : s.copyFrame c m = some true) (hkind : armKind m.arm.record = 0)
    (hagain : againOf m.x.flown = none) (hg : m.gathered = true) (hw : m.x.writing < 32)
    (hissue : s.issueWrite c { m.x with xl := none } m.arm.sys (m.took - m.sources) m.sources (m.puts n) = .ok t y) :
    ((s.copyStep c n).tpl c n).x.block = [] ∧ ((s.copyStep c n).tpl c n).x.flown = y.flown := by
  have hstep : s.copyStep c n = s.copyWrite c n := by
    rw [State.copyStep]
    simp only [hm, hsent, hrun, hframe, hagain, hkind, hg, hw, Bool.not_true, Bool.false_eq_true, if_false, if_true, ne_eq,
      not_true_eq_false, Nat.reduceEqDiff, false_and]
  have hne : (armKind m.arm.record == 2) = false := by rw [hkind]; rfl
  rw [hstep, State.copyWrite]
  simp only [hm, hne, Bool.false_eq_true, if_false, Bool.false_and, List.isEmpty_nil, if_true, hissue, tpl_active,
    tpl_setTpl_same, and_self]

/-! Outbound streams. -/

/-- A stream with nothing to issue again and elements left goes on with `outWrite` or `outTake`. -/
theorem outStep_running {x : Stream} (hx : s.stream c a i = x) (hrun : x.phase = .running) (hcan : x.cancelling = false)
    (hagain : againOf x.x.flown = none) (hend : x.atEnd = false) :
    s.outStep c a i =
      if x.konst.isSome ∨ x.gathers ≤ x.x.block.length then
        if x.x.writing < 32 then s.outWrite c a i else s
      else if s.hasTurn c a (shPort x.record) x.ctag x.order then s.outTake c a i
      else s := by
  rw [State.outStep]
  simp only [hx, hrun, hcan, hagain, hend, ne_eq, not_true_eq_false, Bool.false_eq_true, or_self, if_false]

/-- The element at an outbound stream's position is issued, and the position goes on (R296). -/
theorem outWrite_issues {x : Stream} {t : State} {y : Xfer} (hx : s.stream c a i = x)
    (hissue : s.issueWrite c x.x x.sys x.x.pos 1 (x.puts c a i).1 = .ok t y) :
    ((s.outWrite c a i).stream c a i).x.pos = x.x.pos + 1 ∧ ((s.outWrite c a i).stream c a i).x.flown = y.flown := by
  rw [State.outWrite, hx, hissue]
  dsimp only
  split
  · rw [stream_tilePoison, stream_active, stream_setStream_same]
    exact ⟨rfl, rfl⟩
  · rw [stream_active, stream_setStream_same]
    exact ⟨rfl, rfl⟩

/-- A stream of words takes a word (R296). -/
theorem outTake_word {x : Stream} {f : Flit} {t : State} (hx : s.stream c a i = x) (hhead : s.outHead c a i x = .flit f t)
    (hw : shIsWord x.record = true) (hf : f.kind = 0) :
    s.outTake c a i = t.setStream c a i { x with
      x := { x.x with block := x.x.block ++ [wordElem (shFmt x.record) f (originId c (0x30 + a))] } } := by
  rw [State.outTake, hx]
  dsimp only
  rw [hhead]
  dsimp only
  rw [if_neg (by rw [hf]; decide), if_pos hw, if_neg (not_not_intro hf)]

/-- A stream of digit floats takes the end flit of one (R296). -/
theorem outTake_end {x : Stream} {f : Flit} {t : State} (hx : s.stream c a i = x) (hhead : s.outHead c a i x = .flit f t)
    (hw : shIsWord x.record = false) (hf : f.kind = 3) (ht : x.x.taken ≠ []) :
    s.outTake c a i = t.setStream c a i { x with
      x := { x.x with taken := [], block := x.x.block ++ [floatElem (x.x.taken ++ [f])] } } := by
  have he : (!x.x.taken.isEmpty) = true := by rw [Bool.not_eq_true', List.isEmpty_eq_false_iff]; exact ht
  rw [State.outTake, hx]
  dsimp only
  rw [hhead]
  dsimp only
  rw [if_neg (by rw [hf]; decide), hw, if_neg Bool.false_ne_true, if_neg (by rw [hf]; simp), if_pos ⟨hf, he⟩]

theorem cancelTail_outbound (ha : 4 ≤ a) (x : Stream) : s.cancelTail c a i x = s := by
  rw [State.cancelTail]
  exact if_pos (Or.inl ha)

/-! Compressing copies. -/

/-- A word that a compressing copy writes is issued (R319). -/
theorem squeezePut_issues {m : Tpl} {n : Nat} {va : Word} {w v : Nat} {t : State} {y : Xfer} (f : Tpl → Tpl)
    (hm : s.tpl c n = m) (hw : m.x.writing < 32)
    (hissue : s.issueWrite c { m.x with xl := none } m.arm.sys m.x.pos 0 [{ va := va, bit := 0, w := w, v := v }] = .ok t y) :
    s.squeezePut c n va w v f = (t.setTpl c n (f { m with x := { y with xl := m.x.xl } })).active c := by
  rw [State.squeezePut, hm]
  dsimp only
  rw [if_neg (Nat.not_le.2 hw), hissue]

theorem fired_next {m : Tpl} (hp : m.pending = none) : m.next.fired = m.fired + 1 := by
  rw [Tpl.next]
  dsimp only
  rw [hp]
  dsimp only
  split <;> rfl

end

/-- A compressing copy that copies, under its frame and with nothing to issue again, is in one of the stages of R319. -/
theorem execCompressPhase_copying {s : State} {c : CoreIx} {tm : Fin 16} {m : Tpl} (hm : s.tpl c.val tm.val = m)
    (hrun : m.phase = .copying) (hkind : armKind m.arm.record = 2) (hwave : s.waved c.val = false)
    (hframe : s.copyFrame c.val m = some true) (hagain : againOf m.x.flown = none) :
    (m.stage = 1 → m.copied = true →
      execCompressPhase c tm s = .next (s.setTpl c.val tm.val { m with stage := 2, rows := 0 }))
    ∧ (m.stage = 2 → m.fullRows < m.rows → m.x.flown = [] →
      execCompressPhase c tm s = .next (s.setTpl c.val tm.val { m with stage := 3 }))
    ∧ (m.stage = 2 → m.rows ≤ m.fullRows → execCompressPhase c tm s =
        .next (s.squeezePut c.val tm.val (m.rowp + word (4 * m.rows)) 32
          (if m.rows = 0 then 0 else listGet 0 m.ends (m.rows - 1)) fun t => { t with rows := t.rows + 1 }))
    ∧ (m.stage = 3 → execCompressPhase c tm s =
        .next (s.squeezePut c.val tm.val (m.daddr + 8) 64 m.kept fun t => { t with stage := 4 }))
    ∧ (m.stage = 4 → m.x.flown = [] → execCompressPhase c tm s =
        .next (s.squeezePut c.val tm.val m.daddr 64 (if decide (m.cap.toNat < m.kept) then 2 else 1) fun t =>
          { t with stage := 5, ovf := decide (m.cap.toNat < m.kept) })) := by
  have hguard : ¬(m.phase ≠ .copying ∨ armKind m.arm.record ≠ 2 ∨ s.waved c.val = true ∨ s.copyFrame c.val m ≠ some true) := by
    rw [hrun, hkind, hwave, hframe]
    simp
  have hnone : ¬(againOf m.x.flown).isSome = true := by rw [hagain]; exact Bool.false_ne_true
  unfold execCompressPhase
  dsimp only
  rw [hm, if_neg hguard, if_neg hnone]
  refine ⟨fun hs hc => ?_, fun hs hr hf => ?_, fun hs hr => ?_, fun hs => ?_, fun hs hf => ?_⟩
  · rw [hs]
    exact if_pos hc
  · rw [hs, hf]
    exact (if_pos hr).trans (if_pos rfl)
  · rw [hs]
    exact if_neg (Nat.not_lt.2 hr)
  · rw [hs]
    rfl
  · rw [hs, hf]
    exact congrArg Host.Outcome.next (if_pos rfl)

/-- A cancelled stream whose accesses are performed ends CANCELLED (R304). -/
theorem execStreamCancelComplete_cancelled {s : State} {c : CoreIx} {ag : Fin 8} {slot : Fin 4}
    (htails : listFind (fun (t : Tail) => t.ag == ag.val && t.slot == slot.val && !t.lost) (s.units c.val).tails = none)
    (hcan : (s.stream c.val ag.val slot.val).cancelling = true) (hperf : (s.stream c.val ag.val slot.val).x.performed = true)
    (hsince : (s.stream c.val ag.val slot.val).since ≠ s.cyc + 1) :
    execStreamCancelComplete c ag slot s =
      let t := if ag.val < 4 then s.inTakeAll c.val ag.val slot.val else s
      .next ((t.streamEnd c.val ag.val slot.val .cancelled).cancelTail c.val ag.val slot.val
        (t.stream c.val ag.val slot.val)) := by
  have hlate : ((s.stream c.val ag.val slot.val).since == s.cyc + 1) = false := beq_false_of_ne hsince
  have hnot : (s.stream c.val ag.val slot.val).complete s.cyc = false := by
    rw [Stream.complete, hcan, hlate]
    simp
  rw [execStreamCancelComplete, htails]
  dsimp only
  rw [hnot, if_neg Bool.false_ne_true, hcan, hperf, hlate]
  rfl

/-- The last flit of a decider that no earlier one has decided, decides (R307). -/
theorem execBarIfDecide_decides {s : State} {c : CoreIx} {ag : Fin 8} {slot : Fin 4} {x : Stream} {q : Decider} {k : Nat}
    {f : Frame} {h : Flit} (hx : s.stream c.val ag.val slot.val = x) (hphase : x.phase = .deciding) (hdec : x.decider = some q)
    (hcan : x.cancelling = false) (hwave : s.waved c.val = false) (hskip : x.skip = none)
    (hat : s.sbAt c.val q.sb x.ctag = some (k, f)) (hq : sbQdst f = 0x14)
    (hhead : s.sbHead c.val q.sb k f (byStream ag.val slot.val) = some h) (hkind : h.kind = 0 ∨ h.kind = 6)
    (hlast : h.last = true) :
    execBarIfDecide c ag slot s =
      let t := (s.sbDropFlit c.val q.sb k f (byStream ag.val slot.val) h).setStream c.val ag.val slot.val { x with skip := none }
      if (!h.poison && (h.pay.getLsbD q.dbit != q.inv)) = true then .next (t.launch c.val ag.val slot.val)
      else .next (t.setStream c.val ag.val slot.val { t.stream c.val ag.val slot.val with cancelling := true }) := by
  have hok : ¬(x.skip.isNone = true ∧ h.kind ≠ 0 ∧ h.kind ≠ 6) := fun hn => hkind.elim hn.2.1 hn.2.2
  unfold execBarIfDecide
  dsimp only
  rw [hx, hphase, hdec]
  dsimp only
  rw [hcan, hwave, Bool.or_self, if_neg Bool.false_ne_true, hat]
  dsimp only
  rw [if_neg (not_not_intro hq), hhead]
  dsimp only
  rw [if_neg hok, hlast, Bool.not_true, if_neg Bool.false_ne_true, hskip]
  rfl

/-- Settles O52: each event is followed to the branch that its conditions name. -/
theorem streamAndTemplateEvents : Obligations.StreamAndTemplateEvents := by
  intro s c ag slot tm
  refine ⟨fun hag hcopy hwave => ⟨fun t y hrun hcan hend hsent hfront hagain hroom hk hind htarget hissue =>
      ⟨?_, pos_issueRead hissue, flown_inIssued ..⟩, fun hrun => ?_,
      fun f g l u hrun hend hagain hout hturn hsent => ?_⟩,
    fun n hcopy hwave => ⟨?_, fun t y hrun hsent hframe hkind hagain hg hw hissue =>
      copyStep_writes rfl hrun hsent hframe hkind hagain hg hw hissue⟩,
    fun hag hwave hrun hcan hagain hend => ⟨fun t y hfull hw hissue => ?_, fun f t hk hlen hturn hhead =>
      ⟨fun hword hf => ?_, fun hword hf htaken => ?_⟩⟩,
    fun hfires hrun hcan hend hdel => ⟨?_, phase_streamFinish⟩, fun t u hfires hemit => ?_,
    fun htails hcan hperf hsince hag => ⟨_, ?_, rfl, phase_streamEnd _⟩, fun htails hcan hperf hsince hag => ?_,
    fun q k f h hphase hdec hcan hwave hskip hat hq hhead hkind hlast => ?_,
    fun f e l k hphase hwave hframe hfq hfree => ?_,
    fun hrun hkind hwave hframe hagain => ?_,
    fun hrun hcopied hkind hpoison hfdst => ⟨_, ?_, rfl, fun hp => ?_⟩⟩
  · show execStreamElement c ag slot s = _
    rw [execStreamElement, hwave, if_neg Bool.false_ne_true, hcopy]
    refine (if_pos ⟨hag, hrun⟩).trans (congrArg Host.Outcome.next ?_)
    exact inStep_issues rfl hrun hcan hend hsent hfront hagain hroom hk hind htarget hissue
  · show execStreamElement c ag slot s = _
    rw [execStreamElement, hwave, if_neg Bool.false_ne_true, hcopy]
    exact if_neg fun h => hrun h.2
  · refine ⟨s.inStep c.val ag.val slot.val, ?_, inStep_delivers rfl hrun hend hagain hout hturn hsent⟩
    show execStreamElement c ag slot s = _
    rw [execStreamElement, hwave, if_neg Bool.false_ne_true, hcopy]
    exact if_pos ⟨hag, hrun⟩
  · show execStreamElement c ag slot s = _
    rw [execStreamElement, hwave, if_neg Bool.false_ne_true, hcopy]
  · refine ⟨s.outWrite c.val ag.val slot.val, ?_, outWrite_issues rfl hissue⟩
    show execStreamWrite c ag slot s = _
    rw [execStreamWrite, if_pos ⟨hag, hwave⟩, outStep_running rfl hrun hcan hagain hend, if_pos hfull, if_pos hw]
  · show execStreamWrite c ag slot s = _
    rw [execStreamWrite, if_pos ⟨hag, hwave⟩, outStep_running rfl hrun hcan hagain hend,
      if_neg (by rw [hk]; simpa using hlen), if_pos hturn, outTake_word rfl hhead hword hf]
  · show execStreamWrite c ag slot s = _
    rw [execStreamWrite, if_pos ⟨hag, hwave⟩, outStep_running rfl hrun hcan hagain hend,
      if_neg (by rw [hk]; simpa using hlen), if_pos hturn, outTake_end rfl hhead hword hf htaken]
  · have hcomplete : (s.stream c.val ag.val slot.val).complete s.cyc = true := by
      rw [Stream.complete, hrun, hend, hdel]
      rcases hcan with h | h <;> rw [h] <;> simp
    show execStreamDone c ag slot s = _
    rw [execStreamDone, hfires]
    exact if_pos hcomplete
  · show execStreamDone c ag slot s = _
    rw [execStreamDone, hfires]
    dsimp only
    rw [hemit]
  · rw [← cancelTail_outbound (s := s.streamEnd c.val ag.val slot.val .cancelled) hag (s.stream c.val ag.val slot.val)]
    refine (execStreamCancelComplete_cancelled htails hcan hperf hsince).trans ?_
    rw [if_neg (Nat.not_lt.2 hag)]
  · refine (execStreamCancelComplete_cancelled htails hcan hperf hsince).trans ?_
    rw [if_pos hag]
  · have hgo : execBarIfDecide c ag slot s =
        let t := (s.sbDropFlit c.val q.sb k f (byStream ag.val slot.val) h).setStream c.val ag.val slot.val
          { s.stream c.val ag.val slot.val with skip := none }
        if (!h.poison && (h.pay.getLsbD q.dbit != q.inv)) = true then .next (t.launch c.val ag.val slot.val)
        else .next (t.setStream c.val ag.val slot.val { t.stream c.val ag.val slot.val with cancelling := true }) :=
      execBarIfDecide_decides rfl hphase hdec hcan hwave hskip hat hq hhead hkind hlast
    dsimp only at hgo ⊢
    refine ⟨fun hv => ⟨?_, phase_launch⟩, fun hv => ?_⟩
    · rw [if_pos hv] at hgo
      exact hgo
    · rw [if_neg (ne_true_of_eq_false hv)] at hgo
      exact hgo
  · show execTemplateFiring c tm s = _
    unfold execTemplateFiring
    dsimp only
    rw [if_neg (by rw [hphase, hwave]; simp), hframe]
    dsimp only
    rw [hfq, hfree]
  · obtain ⟨h1, h2, h2', h3, h4⟩ := execCompressPhase_copying (s := s) (c := c) (tm := tm) rfl hrun hkind hwave hframe hagain
    refine ⟨h1, h2, fun hs hr hw t y hissue => ?_, fun hs hw t y hissue => ?_, fun hs hf t y hissue => ?_⟩
    · refine (h2' hs hr).trans ?_
      rw [squeezePut_issues _ rfl hw hissue]
    · refine (h3 hs).trans ?_
      rw [squeezePut_issues _ rfl hw hissue]
    · refine (h4 hs hf).trans ?_
      rw [squeezePut_issues _ rfl (by rw [Xfer.writing, hf]; exact Nat.zero_lt_succ _) hissue]
  · show execCopyEnd c tm s = _
    unfold execCopyEnd
    dsimp only
    rw [if_neg (by rw [hrun, hcopied]; simp [hkind]), if_neg (not_not_intro hpoison), if_pos hfdst]
  · rw [tpl_active, tpl_setTpl_same, fired_next hp]

end Sys2Proof.Proofs
end

section
/-!
Buffers, context slots and controllers (R182, R308-R309, R361-R375, R429-R432).
-/
namespace Sys2Proof.Proofs
open Sys2Proof.Machine Sys2Proof.Laws

/-! Buffers. -/

section
variable {s : State} {c n i : Nat}

theorem sbuf_setSbuf_same (b : Sbuf) : (s.setSbuf c n i b).sbuf c n i = b := by
  rw [State.sbuf, State.setSbuf, units_modUnits_same, tabGet_set, if_pos rfl]

theorem sbuf_of_units {t : State} (h : t.units c = s.units c) : t.sbuf c n i = s.sbuf c n i := by
  rw [State.sbuf, h, State.sbuf]

theorem sbuf_modUnits {f : Units → Units} (hf : ∀ u, (f u).sbufs = u.sbufs) : (s.modUnits c f).sbuf c n i = s.sbuf c n i := by
  rw [State.sbuf, units_modUnits_same, hf, State.sbuf]

theorem units_popChan (k m : Nat) : (s.popChan c k).units m = s.units m := by
  rw [State.popChan, units_movedIn, State.modChan, units_modGrid]

theorem flitBytes_length (x : Flit) : (flitBytes x).length = 16 := by
  rw [flitBytes, List.length_append, leBytes_length, leBytes_length]

/-- A flit takes 16 bytes of its buffer (R308). -/
theorem fill_sbPutFlit (f : Frame) (src : Nat) (x : Flit) :
    ((s.sbPutFlit c n i f src x).sbuf c n i).fill = (s.sbuf c n i).fill + 16 := by
  rw [State.sbPutFlit, State.sbPut, sbuf_of_units (units_movedIn ..), sbuf_of_units (units_entryIn ..), sbuf_setSbuf_same]
  dsimp only
  rw [flitBytes_length]

theorem sbuf_fqOwed : (s.fqOwed c).sbuf c n i = s.sbuf c n i := by
  rw [State.fqOwed]
  refine foldl_keeps (P := fun t => t.sbuf c n i = s.sbuf c n i) (f := fun (s : State) (p : Nat × Word) =>
    if s.fqRoom c p.1 then (s.modUnits c fun u => { u with owed := u.owed.erase p }).fqPut c p.1 p.2 [] else s)
    (fun t p ht => ?_) _ rfl
  split
  · rw [State.fqPut, sbuf_of_units (units_entryIn ..)]
    refine (sbuf_modUnits ?_).trans ((sbuf_modUnits ?_).trans ht)
    · exact fun _ => rfl
    · exact fun _ => rfl
  · exact ht

/-- A release takes the flag of its slot away (R182). -/
theorem flag_sbRelease {f : Frame} (hr : s.readerCount c n (s.slotAt c (0x40 + n) i).ctag = 0) (hf : (s.sbuf c n i).flag = true) :
    ((s.sbRelease c n i f).sbuf c n i).flag = false := by
  rw [State.sbRelease, if_pos ⟨hr, hf⟩, sbuf_fqOwed]
  refine (congrArg Sbuf.flag (sbuf_modUnits ?_)).trans ?_
  · exact fun _ => rfl
  · rw [sbuf_setSbuf_same]

theorem prop_of_listFind {α : Type} {p : α → Bool} {l : List α} {a : α} (h : listFind p l = some a) : p a = true := by
  induction l with
  | nil => cases h
  | cons b l ih =>
    rw [listFind] at h
    split at h
    · next hb =>
      cases h
      exact hb
    · exact ih h

end

/-! Slots. -/

section
variable {s t : State} {c : Nat}

theorem slotAt_of_slots (hg : (t.grid c).slots = (s.grid c).slots)
    (hc : (t.cluster (c / 12)).slots = (s.cluster (c / 12)).slots) (k i : Nat) : t.slotAt c k i = s.slotAt c k i := by
  rw [State.slotAt, hg, hc, State.slotAt]

theorem slotAt_modGrid {f : Grid → Grid} (hf : ∀ g, (f g).slots = g.slots) (k i : Nat) :
    (s.modGrid c f).slotAt c k i = s.slotAt c k i :=
  slotAt_of_slots (by rw [grid_modGrid_same, hf]) (by rw [State.cluster, modGrid_clusters, State.cluster]) k i

theorem slotAt_modUnits (f : Units → Units) (k i : Nat) : (s.modUnits c f).slotAt c k i = s.slotAt c k i :=
  slotAt_of_slots (by rw [grid_modUnits]) (by rw [State.cluster, modUnits_clusters, State.cluster]) k i

theorem slotAt_modCluster {f : Cluster → Cluster} (hf : ∀ x, (f x).slots = x.slots) (k i : Nat) :
    (s.modCluster (c / 12) f).slotAt c k i = s.slotAt c k i :=
  slotAt_of_slots (by rw [State.grid, core_modCluster, State.grid]) (by rw [cluster_modCluster_same, hf]) k i

theorem slotAt_setSlotAt_same (k i : Nat) (x : Slot) : (s.setSlotAt c k i x).slotAt c k i = x := by
  rw [State.setSlotAt]
  split
  · next h => rw [State.slotAt, if_pos h, cluster_modCluster_same, tabGet_set, if_pos rfl]
  · next h => rw [State.slotAt, if_neg h, grid_modGrid_same, tabGet_set, if_pos rfl]

/-- The node state of an install leaves the slots (R363). -/
theorem slotAt_initNode (k i : Nat) (f : Frame) (k' i' : Nat) : (s.initNode c k i f).slotAt c k' i' = s.slotAt c k' i' := by
  rw [State.initNode.eq_def]
  split
  · rw [State.setPeSlot]
    refine slotAt_modGrid ?_ k' i'
    exact fun _ => rfl
  · rw [State.setOpState]
    refine slotAt_modGrid ?_ k' i'
    exact fun _ => rfl
  · rw [State.modPortq, State.setPort]
    refine (slotAt_modGrid ?_ k' i').trans (slotAt_modGrid ?_ k' i')
    · exact fun _ => rfl
    · exact fun _ => rfl
  · rw [State.setCtl]
    refine slotAt_modGrid ?_ k' i'
    exact fun _ => rfl
  · refine slotAt_modCluster ?_ k' i'
    exact fun _ => rfl
  · rw [State.setSbuf]
    exact slotAt_modUnits ..
  · rfl

theorem frame_installWrite (f : Frame) : ((s.installWrite c f).slotAt c (fKey f) (fSlot f).toNat).frame = f := by
  rw [State.installWrite]
  dsimp only
  rw [slotAt_initNode, slotAt_setSlotAt_same]

/-- An install whose turn it is, and whose frame has no initial token, is written and ends (R363). -/
theorem stepInstall_writes {i : Nat} {x : Install} (hmay : s.mayWrite c x = true) (hfirst : s.firstInstall c i x = true)
    (hdemand : x.kind = .demand → s.slotFor c (fKey x.frame) (fCtag x.frame) = none) (hinit : initOuts x.frame = []) :
    s.stepInstall c i x = (s.installWrite c x.frame).endInstall c i x := by
  have hplaced : x.placed = false := by
    rw [State.mayWrite, Bool.and_eq_true, Bool.not_eq_true'] at hmay
    exact hmay.1
  have hnew : (x.kind == .demand && (s.slotFor c (fKey x.frame) (fCtag x.frame)).isSome) = false := by
    by_cases hk : x.kind = .demand
    · rw [hdemand hk]
      exact Bool.and_false _
    · rw [beq_false_of_ne hk]
      rfl
  rw [State.stepInstall, hplaced, hmay, hfirst, hnew, hinit]
  rfl

theorem v_clearSlot (k i : Nat) : ((s.clearSlot c k i).slotAt c k i).v = false := by
  rw [State.clearSlot, slotAt_setSlotAt_same]

/-! In-band records. -/

theorem collect_popChan (k : Nat) : ((s.popChan c k).grid c).collect = (s.grid c).collect := by
  rw [State.popChan, State.movedIn, grid_modGrid_same, State.modChan, grid_modGrid_same]

/-- A flit joins the record of its input, unless it ends it short of four (R375). -/
theorem collect_collectFlit {kk : Nat} {f : Flit} (h : f.last = false ∨ 3 ≤ (tabGet [] (s.grid c).collect kk).length) (rt k : Nat) :
    tabGet [] (((s.collectFlit c kk f).grantTo c rt k).grid c).collect kk = tabGet [] (s.grid c).collect kk ++ [f] := by
  have hcut : (f.last && decide ((tabGet [] (s.grid c).collect kk ++ [f]).length < 4)) = false := by
    rw [List.length_append, List.length_singleton, Bool.and_eq_false_iff, decide_eq_false_iff_not]
    exact h.imp id fun h => by omega
  rw [State.grantTo, grid_modGrid_same, State.collectFlit]
  dsimp only
  rw [hcut, grid_modGrid_same]
  dsimp only
  rw [if_neg Bool.false_ne_true, tabGet_set, if_pos rfl]

/-- The configuration flit at the head of a channel. -/
def configHead (s : State) (c kk : Nat) : Option Flit :=
  match s.head c kk with
  | some f => if f.kind == 5 && !f.sideBad then some f else none
  | none => none

theorem inputKey_inputOf {m kk : Nat} (hm : m < 16) (h : kk ∈ nodeInputs (0x10 + m)) : inputKey m (inputOf kk) = kk := by
  have hn : nodeInputs (0x10 + m) = [faceKey m 0, faceKey m 1, faceKey m 2, faceKey m 3, resultKey m] := by
    rw [nodeInputs, if_neg (by omega), if_pos (by omega), Nat.add_sub_cancel_left]
    rfl
  rw [hn] at h
  simp only [List.mem_cons, List.not_mem_nil, or_false] at h
  have hface {j : Nat} (hj : j < 4) : inputKey m (inputOf (faceKey m j)) = faceKey m j := by
    have ho : inputOf (faceKey m j) = j := by
      rw [inputOf, faceKey, if_pos (by omega)]
      omega
    rw [ho, inputKey, if_pos hj]
  have hresult : inputKey m (inputOf (resultKey m)) = resultKey m := by
    rw [inputOf, resultKey, if_neg (by omega), inputKey, if_neg (by omega), resultKey]
  rcases h with rfl | rfl | rfl | rfl | rfl
  · exact hface (by omega)
  · exact hface (by omega)
  · exact hface (by omega)
  · exact hface (by omega)
  · exact hresult

theorem configHead_of_cfgTakes {m kk : Nat} (hm : m < 16) (h : kk ∈ nodeInputs (0x10 + m))
    (ht : s.cfgTakes c m (inputOf kk) = true) : configHead s c kk = s.head c kk := by
  rw [State.cfgTakes, inputKey_inputOf hm h] at ht
  rw [configHead]
  split at ht
  · cases ht
  · next f hf =>
    rw [Bool.and_eq_true] at ht
    rw [hf]
    exact if_pos ht.1

theorem listFind_congr {α : Type} {p q : α → Bool} {l : List α} (h : ∀ a ∈ l, p a = q a) : listFind p l = listFind q l := by
  induction l with
  | nil => rfl
  | cons a l ih => rw [listFind, listFind, h a List.mem_cons_self, ih fun b hb => h b (List.mem_cons_of_mem _ hb)]

end

end Sys2Proof.Proofs
end

section
/-!
The events of buffers, context slots and controllers.
-/
namespace Sys2Proof.Proofs
open Sys2Proof.Machine Sys2Proof.Laws

section
variable {s : State} {c : CoreIx}

/-- A router collects the configuration flit that it would take (R375). -/
theorem execConfigRecord_collects {m : Fin 16} {f : Flit} {kk : Nat}
    (hfull : listFind (fun kk => (tabGet [] (s.grid c.val).collect kk).length == 4
      && !((s.grid c.val).installs.any fun x => x.via == kk + 1)) (nodeInputs (nodeKey (.rt m))) = none)
    (htake : listFind (fun kk => s.cfgTakes c.val m.val (inputOf kk) && s.mayMove c.val m.val (inputOf kk))
      (nodeInputs (nodeKey (.rt m))) = some kk) (hhead : s.head c.val kk = some f) :
    execConfigRecord c (.rt m) s = .next ((s.collectFlit c.val kk f).grantTo c.val m.val (inputOf kk)) := by
  have hkind : keyKind (0x10 + m.val) = 1 := by
    rw [keyKind, if_neg (by omega), if_neg (by omega), if_neg (by omega), if_pos (by omega)]
  have hin := mem_of_listFind htake
  have hmove := prop_of_listFind htake
  have hcfg : configHead s c.val kk = some f := by
    rw [configHead_of_cfgTakes m.isLt hin (Bool.and_eq_true_iff.1 hmove).1, hhead]
  have htakes : listFind (fun kk => match configHead s c.val kk with
      | none => false
      | some f =>
        if keyKind (nodeKey (.rt m)) = 1 then s.cfgTakes c.val (nodeKey (.rt m) - 0x10) (inputOf kk)
          && s.mayMove c.val (nodeKey (.rt m) - 0x10) (inputOf kk)
        else kk != passInKey && !(keyKind (nodeKey (.rt m)) == 0 && kk == operandKey (nodeKey (.rt m)) 2
          && s.tokensFrom c.val (nodeKey (.rt m)) f.ctag)) (nodeInputs (nodeKey (.rt m))) = some kk := by
    rw [← htake]
    refine listFind_congr fun k hk => ?_
    rw [nodeKey, hkind, Nat.add_sub_cancel_left]
    split
    · next h =>
      cases ht : s.cfgTakes c.val m.val (inputOf k) with
      | false => rfl
      | true =>
        rw [configHead_of_cfgTakes m.isLt hk ht] at h
        rw [State.cfgTakes, inputKey_inputOf m.isLt hk, h] at ht
        cases ht
    · exact if_pos rfl
  unfold execConfigRecord
  extract_lets k head mine full takes
  have hh : head = configHead s c.val := rfl
  have hf : full = none := hfull
  have ht : listFind takes (nodeInputs k) = some kk := htakes
  clear_value full takes
  subst hf
  dsimp only
  rw [ht, hh]
  dsimp only
  rw [hcfg]
  have hk1 : keyKind k = 1 := hkind
  have hk : k - 0x10 = m.val := Nat.add_sub_cancel_left ..
  dsimp only
  rw [if_neg (by rw [hk1]; exact Nat.one_ne_zero), if_pos hk1, hk]

/-- A whole record of a router, which nothing spoils, goes to be installed (R375). -/
theorem recordDone_installs {k kk : Nat} {mine : Frame → Bool} {f : Frame}
    (hf : f = frameOf (listGet 0 ((tabGet [] (s.grid c.val).collect kk).map fun x => x.pay) 3)
      (listGet 0 ((tabGet [] (s.grid c.val).collect kk).map fun x => x.pay) 2)
      (listGet 0 ((tabGet [] (s.grid c.val).collect kk).map fun x => x.pay) 1)
      (listGet 0 ((tabGet [] (s.grid c.val).collect kk).map fun x => x.pay) 0))
    (hbad : (s.grid c.val).badCfg.contains kk = false) (hmine : mine f = true) (hok : frameOk f = true) (hkind : fKind f ≠ 15)
    (hvia : ((s.grid c.val).installs.any fun x => x.via == kk + 1) = false) :
    ((s.recordDone c.val k kk mine).grid c.val).installs = (s.grid c.val).installs ++
      [{ frame := f, kind := .inband, load := 0, via := kk + 1,
         src := (((tabGet [] (s.grid c.val).collect kk).head?).map fun x => x.src).getD 0, met := 0, placed := false,
         tokens := [] }] := by
  have hk : (fKind f != 15) = true := bne_iff_ne.2 hkind
  have hspoiled : ((s.grid c.val).badCfg.contains kk || (mine f && !(frameOk f && fKind f != 15))) = false := by
    rw [hbad, hok, hk, Bool.and_self, Bool.not_true, Bool.and_false, Bool.or_false]
  unfold State.recordDone
  extract_lets l w src f' clear
  have hf' : f' = f := hf.symm
  have hsrc : src = ((l.head?).map fun x => x.src).getD 0 := by
    show (match l with
      | h :: _ => h.src
      | [] => 0) = _
    cases l <;> rfl
  clear_value f' src clear
  subst hf' hsrc
  rw [hspoiled, if_neg Bool.false_ne_true, hmine, Bool.not_true, if_neg Bool.false_ne_true, hvia, if_neg Bool.false_ne_true,
    State.active, grid_modGrid_same, grid_modGrid_same]

/-- A record that stands whole at an input of a router is done with (R375). -/
theorem execConfigRecord_full {m : Fin 16} {kk : Nat}
    (hfull : listFind (fun kk => (tabGet [] (s.grid c.val).collect kk).length == 4
      && !((s.grid c.val).installs.any fun x => x.via == kk + 1)) (nodeInputs (nodeKey (.rt m))) = some kk) :
    execConfigRecord c (.rt m) s = .next (s.recordDone c.val (nodeKey (.rt m)) kk fun f =>
      if keyKind (nodeKey (.rt m)) = 1 then
        fKey f == nodeKey (.rt m) && fKind f == 1 || (fKind f == 0 && fNode f + 0x10 == nodeKey (.rt m))
      else fKey f == nodeKey (.rt m) && fKind f == keyKind (nodeKey (.rt m))) := by
  rw [execConfigRecord, hfull]

end

/-- Settles O53: each event is followed to the branch that its conditions name. -/
theorem bufferAndContextEvents : Obligations.BufferAndContextEvents := by
  intro s c
  refine ⟨fun sb x i f hhead hat hkind hside hraw hsrc hroom => ⟨_, ?_, rfl, ?_⟩, fun sb i hfind => ⟨_, ?_, rfl, ?_⟩,
    fun sb i x => ?_, fun i x hget hmay hfirst hdemand hinit => ⟨?_, frame_installWrite _⟩, fun node tag hdue =>
      ⟨fun f hf hok hkind => ?_, fun hf => ?_⟩, fun m f kk hfull htake hhead hcut =>
      ⟨_, execConfigRecord_collects hfull htake hhead, rfl, collect_collectFlit hcut ..⟩, fun m kk hfull => ?_,
    fun i e hget hended => ⟨fun k hdis hfind hrest => ⟨?_, v_clearSlot ..⟩, fun hdis => ?_, fun hdis hslots => ?_⟩,
    fun ct t i f hslot => ⟨fun htok => ?_, fun htok => ?_⟩, fun ct i hfind => ⟨fun hports => ?_, fun hports => ?_⟩⟩
  · have hok : (x.kind == 5 || x.sideBad || sbRaw f || !decide (sbPsrc f < 16)) = false := by
      rw [beq_false_of_ne hkind, hside, hraw, decide_eq_true hsrc]
      rfl
    show execSbPush c sb s = _
    rw [execSbPush, hhead]
    dsimp only
    rw [hat]
    dsimp only
    rw [hok, if_neg Bool.false_ne_true, hroom, Bool.not_true, if_neg Bool.false_ne_true]
  · rw [fill_sbPutFlit, sbuf_of_units (units_popChan ..)]
  · show execSbPop c sb s = _
    rw [execSbPop, hfind]
  · have hdue := prop_of_listFind hfind
    rw [Bool.and_eq_true_iff, beq_iff_eq] at hdue
    exact flag_sbRelease hdue.1 hdue.2
  · dsimp only
    intro hrel hfind hx
    show execSbPop c sb s = _
    rw [execSbPop, hrel]
    dsimp only
    rw [hfind]
    dsimp only
    rw [hx]
  · show execFrameInstall c i s = _
    rw [execFrameInstall, hget]
    exact congrArg Host.Outcome.next (stepInstall_writes hmay hfirst hdemand hinit)
  · have hk : (frameOk f && fKind f != 15) = true := by rw [hok, bne_iff_ne.2 hkind, Bool.and_self]
    show execDemandFill c node s = _
    unfold execDemandFill
    dsimp only
    rw [hdue]
    dsimp only
    rw [hf]
    exact if_pos hk
  · show execDemandFill c node s = _
    unfold execDemandFill
    dsimp only
    rw [hdue]
    dsimp only
    rw [hf]
  · dsimp only
    intro hbad hok hkind hkey
    have hrt : keyKind (nodeKey (.rt m)) = 1 := by
      rw [nodeKey, keyKind, if_neg (by omega), if_neg (by omega), if_neg (by omega), if_pos (by omega)]
    have hvia := prop_of_listFind hfull
    rw [Bool.and_eq_true_iff] at hvia
    refine ⟨_, execConfigRecord_full hfull, recordDone_installs rfl hbad ?_ hok (by rw [hkind]; decide) ?_⟩
    · rw [if_pos hrt, hkey, hkind]
      simp
    · exact Bool.not_eq_true' _ ▸ hvia.2
  · show execEvictDrainClear c i s = _
    rw [execEvictDrainClear, hget]
    dsimp only
    rw [hended, Bool.not_true, if_neg Bool.false_ne_true, hdis, if_neg Bool.false_ne_true, hfind]
    dsimp only
    rw [hrest]
    rfl
  · show execEvictDrainClear c i s = _
    rw [execEvictDrainClear, hget]
    dsimp only
    rw [hended, Bool.not_true, if_neg Bool.false_ne_true, hdis]
    exact if_pos rfl
  · show execEvictDrainClear c i s = _
    rw [execEvictDrainClear, hget]
    dsimp only at hslots ⊢
    rw [hended, Bool.not_true, if_neg Bool.false_ne_true, hdis, if_neg Bool.false_ne_true, hslots]
    rfl
  · show execPermit c ct s = _
    rw [execPermit, htok]
    dsimp only
    rw [hslot]
  · show execDoneToken c ct s = _
    rw [execDoneToken, htok]
    dsimp only
    rw [hslot]
  · show execIterationOpen c ct s = _
    rw [execIterationOpen, hfind]
    dsimp only
    rw [if_neg]
    · rfl
    · rw [List.isEmpty_iff]; exact hports
  · show execIterationOpen c ct s = _
    rw [execIterationOpen, hfind]
    dsimp only
    rw [hports]
    rfl

end Sys2Proof.Proofs
end

section
/-!
The scheduler (R30-R43, R325-R337, R459).
-/
namespace Sys2Proof.Proofs
open Sys2Proof.Machine Sys2Proof.Laws

/-! What leaves the schedulers. -/

/-- The scheduler of every die is the same. -/
structure SameSched (s t : State) : Prop where
  sched : ∀ e, (t.die e).sched = (s.die e).sched

theorem SameSched.refl (s : State) : SameSched s s := ⟨fun _ => rfl⟩

theorem SameSched.trans {s t u : State} (h : SameSched s t) (h' : SameSched t u) : SameSched s u :=
  ⟨fun e => (h'.sched e).trans (h.sched e)⟩

theorem sameSched_of_dies {s t : State} (h : t.dies = s.dies) : SameSched s t := ⟨fun e => by rw [State.die, h, State.die]⟩

theorem sameSched_foldl {α : Type} {f : State → α → State} (h : ∀ s a, SameSched s (f s a)) (l : List α) (s : State) :
    SameSched s (l.foldl f s) :=
  foldl_keeps (P := SameSched s) (f := f) (fun t a ht => ht.trans (h t a)) l (.refl s)

theorem sameSched_modDie {f : Die → Die} (hf : ∀ x, (f x).sched = x.sched) (s : State) (d : Nat) :
    SameSched s (s.modDie d f) := by
  refine ⟨fun e => ?_⟩
  rw [die_modDie]
  split
  · next h => rw [hf, h]
  · rfl

section
variable (s : State) (c : Nat)

theorem sameSched_modCore (f : Core → Core) : SameSched s (s.modCore c f) := sameSched_of_dies (modCore_dies ..)
theorem sameSched_modGrid (f : Grid → Grid) : SameSched s (s.modGrid c f) := sameSched_of_dies (modGrid_dies ..)
theorem sameSched_modCpOf (f : Cp → Cp) : SameSched s (s.modCpOf c f) := sameSched_of_dies (modCpOf_dies ..)
theorem sameSched_modCluster (f : Cluster → Cluster) : SameSched s (s.modCluster c f) := sameSched_of_dies (modCluster_dies ..)

theorem sameSched_correctHalf (d h : Nat) : SameSched s (State.correctHalf d s h) := by
  rw [State.correctHalf]
  split
  · refine SameSched.trans (t := { s with ecc := tabSet .clean s.ecc h .clean }) (sameSched_of_dies rfl)
      (sameSched_modDie (fun x => ?_) ..)
    rw [Die.corrected]
    split <;> rfl
  · exact .refl s

theorem sameSched_eccRead (pa n : Nat) : SameSched s (s.eccRead pa n) :=
  sameSched_foldl (fun t h => sameSched_correctHalf t (paDie pa) h) _ s

theorem sameSched_walkFrom (root : BitVec 58) (va t n : Nat) : SameSched s (s.walkFrom root va t n).1 := by
  induction n generalizing s t with
  | zero => exact .refl s
  | succ l ih =>
    have he := sameSched_eccRead s (t + 8 * (va / 2 ^ (12 + 9 * l) % 512)) 8
    rw [State.walkFrom]
    dsimp only
    split
    · exact .refl s
    · split
      · exact he
      · split
        · split
          · exact he
          · exact he.trans (ih _ _)
        · split
          · exact he
          · split <;> exact he

theorem sameSched_walk (root : BitVec 58) (va : Nat) : SameSched s (s.walk root va).1 := by
  rw [State.walk]
  split
  · exact sameSched_walkFrom ..
  · exact .refl s

theorem sameSched_lookup (root : BitVec 58) (va : Nat) : SameSched s (s.lookup c root va).1 := by
  rw [State.lookup]
  split
  · exact .refl s
  · split
    · exact .refl s
    · split
      · next x _ => exact sameSched_modCore s c fun y => { y with tlb := tlbAdd 128 y.tlb x }
      · dsimp only
        have h := (sameSched_modCore s c fun y =>
          { y with grid := { y.grid with pcs := tabSet 0 y.grid.pcs 12 (tabGet 0 y.grid.pcs 12 + 1) } }).trans
            (sameSched_walk _ root va)
        split
        · next x _ e =>
          rw [e] at h
          exact (h.trans (sameSched_modCore _ c fun y => { y with tlb := tlbAdd 128 y.tlb x })).trans
            (sameSched_modCluster _ (c / 12) fun y => { y with tlb := tlbAdd 4096 y.tlb x })
        · next e =>
          rw [e] at h
          exact h

theorem sameSched_translate (root : BitVec 58) (va : Nat) (u : Use) (sys : Bool) :
    SameSched s (s.translate c root va u sys).1 := by
  have h := sameSched_lookup s c root va
  rw [State.translate.eq_def]
  split
  · next e =>
    rw [e] at h
    exact h
  · next e =>
    rw [e] at h
    split <;> exact h

theorem sameSched_readImage (va : Nat) (waits sys : Bool) (n : Nat) : SameSched s (s.readImage c va waits sys n).1 := by
  induction n generalizing s va with
  | zero => exact .refl s
  | succ n ih =>
    have ht := sameSched_translate s c (s.cpOf c).ctl.xroot va .read sys
    rw [State.readImage]
    split
    · exact .refl s
    · split
      · next e =>
        rw [e] at ht
        exact ht
      · next t pa e =>
        rw [e] at ht
        split
        · exact ht
        · have hr := ht.trans (sameSched_eccRead t pa 32)
          dsimp only
          split
          · exact hr
          · have hn := hr.trans (ih (t.eccRead pa 32) (va + 32))
            split
            · next e' =>
              rw [e'] at hn
              exact hn
            · next e' =>
              rw [e'] at hn
              exact hn

theorem sameSched_cacheReadFrame (m n : Nat) : SameSched s (s.cacheReadFrame c m n) := by
  refine sameSched_foldl (fun t w => ?_) _ s
  rw [State.cacheRead]
  split
  · refine (sameSched_modCore t c _).trans (sameSched_modDie (fun x => ?_) ..)
    rw [Die.corrected]
    split <;> rfl
  · exact .refl t

theorem sameSched_imageRead (va n : Nat) : SameSched s (s.imageRead c va n) := by
  refine sameSched_foldl (fun t i => ?_) _ s
  split
  · exact sameSched_cacheReadFrame ..
  · exact .refl t

theorem sameSched_postWork : SameSched s (s.postWork c) := by
  rw [State.postWork]
  dsimp only
  split
  · exact ((sameSched_modGrid ..).trans (sameSched_modGrid ..)).trans (sameSched_modCpOf ..)
  · exact sameSched_modGrid ..

theorem sameSched_noteFail (u : Option (BitVec 8)) : SameSched s (s.noteFail c u) := sameSched_modGrid ..

theorem sameSched_pendTrap (cause : BitVec 6) (v : Word) : SameSched s (s.pendTrap c cause v) := sameSched_modCpOf ..

/-- Loading the frames of an image leaves the schedulers, however it ends. -/
theorem sameSched_loadFrames (va : Nat) (u : Option (BitVec 8)) (reg : Option Reg) (fs : List Frame) :
    match s.loadFrames c va u reg fs with
    | .wait => True
    | .ends t _ => SameSched s t
    | .goes t _ => SameSched s t := by
  have hread := sameSched_imageRead s c va (fs.length + 1)
  unfold State.loadFrames
  extract_lets fin fin' bad t
  have ht : SameSched s t := hread
  clear_value t bad
  cases bad with
  | some i => exact (ht.trans (sameSched_noteFail ..)).trans (sameSched_pendTrap ..)
  | none =>
    dsimp only
    by_cases he : (fs.filter (inUnit u)).isEmpty = true
    · rw [if_pos he]
      exact ht
    · rw [if_neg he]
      rw [State.submitLoad]
      exact ht.trans (sameSched_modGrid ..)

theorem sameSched_bindLoad (va : Nat) : SameSched s (s.bindLoad c va) := by
  unfold State.bindLoad
  extract_lets t
  have ht : SameSched s t := by
    simp only [t]
    split
    · exact .refl s
    · exact sameSched_postWork ..
  clear_value t
  split
  · exact ht
  · have hr := ht.trans (sameSched_readImage t c va false (t.cpOf c).k.sys 4096)
    split
    · next e =>
      rw [e] at hr
      exact (hr.trans (sameSched_noteFail ..)).trans (sameSched_pendTrap ..)
    · next e =>
      rw [e] at hr
      exact hr
    · next u l e =>
      rw [e] at hr
      split
      · exact (hr.trans (sameSched_noteFail ..)).trans (sameSched_pendTrap ..)
      · have hm := hr.trans (sameSched_modCore u c fun y => { y with cache := y.cache.placeImage va 0 l 32 })
        have hl := sameSched_loadFrames (u.modCore c fun y => { y with cache := y.cache.placeImage va 0 l 32 }) c va none none
          l.dropLast
        split
        · exact hr
        · next e' =>
          rw [e'] at hl
          exact hm.trans hl
        · next e' =>
          rw [e'] at hl
          exact hm.trans hl

theorem sameSched_withdrawCore : SameSched s (s.withdrawCore c) := by
  have hst (t : State) (f : Stations → Stations) : SameSched t (t.modStations f) := sameSched_of_dies rfl
  have hfail (t : State) (team seq : BitVec 16) : SameSched t (t.failWithdrawn team seq) := by
    refine sameSched_foldl (fun u q => ?_) _ t
    dsimp only
    split
    · exact .refl u
    · rw [State.collFail, State.setColl]
      exact (sameSched_modCore ..).trans (hst ..)
  rw [State.withdrawCore]
  refine (hst ..).trans (sameSched_foldl (fun t p => ?_) _ _)
  rw [State.withdrawSlot]
  split
  · exact (hst ..).trans (hfail ..)
  · exact .refl t

end

/-! Binding. -/

/-- The start of a task leaves the cycle of the last binding. -/
theorem boundCyc_startTask (s : State) (d q n : Nat) : ((s.startTask d q n).die d).sched.boundCyc = (s.die d).sched.boundCyc := by
  rw [State.startTask]
  dsimp only
  split
  · rw [(sameSched_foldl (fun t c => sameSched_bindLoad t c _) _ _).sched, die_modDie_same]
    rfl
  · rfl

/-- A binding is the only one of its die in the cycle (R334). -/
theorem boundCyc_bindTask (s : State) (d q n sh first prio : Nat) :
    ((s.bindTask d q n sh first prio).die d).sched.boundCyc = s.cyc + 1 := by
  rw [State.bindTask]
  dsimp only
  rw [boundCyc_startTask, (sameSched_foldl (fun t p => sameSched_modCore t _ _) _ _).sched,
    (sameSched_foldl (fun t c => sameSched_withdrawCore t c) _ _).sched, die_modDie_same]

end Sys2Proof.Proofs
end

section
/-!
The events of the scheduler.
-/
namespace Sys2Proof.Proofs
open Sys2Proof.Machine Sys2Proof.Laws

theorem modDie_congr {s : State} {d : Nat} {f g : Die → Die} (h : f (s.die d) = g (s.die d)) : s.modDie d f = s.modDie d g := by
  rw [State.modDie, State.modDie, h]

theorem slot_setSlot_same (x : Sched) (q n : Nat) (t : TSlot) : (x.setSlot q n t).slot q n = t := by
  rw [Sched.slot, Sched.setSlot, tabGet_set, if_pos rfl]

theorem waves_addCounters (l : List Nat) (v : BitVec 16) (x : Sched) :
    (l.foldl (fun (x : Sched) k => x.addCounter k v) x).waves = x.waves := by
  induction l generalizing x with
  | nil => rfl
  | cons k l ih => exact ih _

/-- The first candidate, where it has a placement, is the one that is bound (R334). -/
theorem bindFirst_places {s : State} {d : Nat} {a : Cand} {l : List Cand} {sh first : Nat}
    (himage : ((s.die d).sched.slot a.queue a.slot).image = none)
    (hplace : (s.shapesOf d ((s.die d).sched.slot a.queue a.slot)).1.firstPlacement d
      (recPcl ((s.die d).sched.slot a.queue a.slot).record) (s.shapesOf d ((s.die d).sched.slot a.queue a.slot)).2
        = some (sh, first)) :
    s.bindFirst d (a :: l)
      = (s.shapesOf d ((s.die d).sched.slot a.queue a.slot)).1.bindTask d a.queue a.slot sh first a.level := by
  rw [State.bindFirst]
  dsimp only
  rw [himage]
  dsimp only
  rw [hplace]

/-- Settles O54: each event is its definition; that no die binds twice in a cycle is `boundCyc_bindTask`. -/
theorem schedulerEvents : Obligations.SchedulerEvents := by
  intro s d q slot
  refine ⟨fun v => ?_, fun v hrun => ?_, fun t v => ?_, ?_, fun v harea => ?_, fun hready => ⟨_, rfl, ?_, ?_⟩,
    ⟨fun hb => ?_, fun w q n sh first prio => boundCyc_bindTask .., fun hb => ⟨?_, fun a l sh first hc himage hplace => ?_⟩⟩,
    fun a v pa hbusy hfind hv hpa => ?_, fun w hw => ?_, fun hused hphase hwaves hdone => ?_⟩
  · exact congrArg Host.Outcome.next (modDie_congr rfl)
  · exact (if_pos hrun).trans (congrArg Host.Outcome.next (modDie_congr rfl))
  · exact congrArg Host.Outcome.next (modDie_congr rfl)
  · rfl
  · exact if_neg (ne_true_of_eq_false harea)
  · rw [die_modDie_same]
    dsimp only
    rw [Sched.ready, if_pos hready, slot_setSlot_same]
  · rw [die_modDie_same]
    dsimp only
    rw [Sched.ready, if_pos hready, slot_setSlot_same]
  · show execSchedulerBind d s = _
    rw [execSchedulerBind, State.bindOne]
    exact congrArg Host.Outcome.next (if_pos hb)
  · show execSchedulerBind d s = _
    rw [execSchedulerBind, State.bindOne]
    exact congrArg Host.Outcome.next (if_neg hb)
  · show execSchedulerBind d s = _
    rw [execSchedulerBind, State.bindOne]
    refine congrArg Host.Outcome.next ((if_neg hb).trans ?_)
    rw [hc]
    exact bindFirst_places himage hplace
  · show execPreempt d s = _
    rw [execPreempt]
    dsimp only
    rw [hbusy, if_neg Bool.false_ne_true, hfind]
    dsimp only
    rw [hv]
    dsimp only
    rw [hpa]
  · show execFreeze d s = _
    rw [execFreeze, hw]
  · have hcond : (((s.die d.val).sched.slot q.val slot.toNat).used
        && ((s.die d.val).sched.slot q.val slot.toNat).phase == .running
        && (coresFrom ((s.die d.val).sched.slot q.val slot.toNat).first ((s.die d.val).sched.slot q.val slot.toNat).shape).all
          fun c => (s.cpOf c).ctl.done && !s.accessing c) = true := by
      rw [hused, hphase, hdone]
      rfl
    show execTaskRetire d q slot s = _
    rw [execTaskRetire]
    refine (if_pos hcond).trans ?_
    dsimp only
    rw [hwaves, List.foldl_nil]
    refine congrArg (fun t : State => Host.Outcome.next (t.freeCores _)) (modDie_congr ?_)
    rw [waves_addCounters, hwaves]
    rfl

end Sys2Proof.Proofs
end

section
/-!
Collectives, pairs, KV requests and the Plain (R341-R357, R394-R400, R405-R426).
-/
namespace Sys2Proof.Proofs
open Sys2Proof.Machine Sys2Proof.Laws

theorem listFind_none_of_all {α : Type} {p : α → Bool} {l : List α} (h : l.all (fun a => !p a) = true) : listFind p l = none := by
  induction l with
  | nil => rfl
  | cons a l ih =>
    rw [List.all_cons, Bool.and_eq_true_iff, Bool.not_eq_true'] at h
    rw [listFind, h.1, if_neg Bool.false_ne_true, ih h.2]

theorem length_rangeFrom (a n : Nat) : (rangeFrom a n).length = n := by
  induction n generalizing a with
  | zero => rfl
  | succ n ih => rw [rangeFrom, List.length_cons, ih]

/-! Collectives. -/

theorem stations_foldl_setColl {α : Type} {f : State → α → State} (hf : ∀ s a, (f s a).stations = s.stations) (l : List α)
    (s : State) : (l.foldl f s).stations = s.stations :=
  foldl_keeps (P := fun t => t.stations = s.stations) (f := f) (fun t a ht => (hf t a).trans ht) l rfl

/-- A collective begins as one job of all its members (R341). -/
theorem collBegin_job (s : State) (team seq : BitVec 16) (x : CollSlot) (l : List (Nat × Nat))
    (far : List (Nat × CollDesc × List Byte)) :
    ∃ j, (s.collBegin team seq x l far).stations.jobs = s.stations.jobs ++ [j] ∧ j.id = s.stations.nextJob ∧ j.team = team
      ∧ j.seq = seq ∧ j.form = x.form ∧ j.members.length = x.table.length
      ∧ (s.collBegin team seq x l far).stations.nextJob = s.stations.nextJob + 1 := by
  unfold State.collBegin
  extract_lets id farOf ranks descs t
  have ht : t.stations = s.stations := stations_foldl_setColl (fun u q => by rw [State.setColl, modCore_stations]) l s
  have hranks : ranks.length = x.table.length := by
    simp only [ranks, List.length_map, length_rangeFrom]
  clear_value t ranks
  rw [State.modStations]
  dsimp only
  rw [ht]
  exact ⟨_, rfl, rfl, rfl, rfl, rfl, hranks, rfl⟩

/-- A rendezvous whose news are all there, of members that have all issued, is decided by `collAgrees` (R341). -/
theorem execCollRendezvous_issued {s u : State} {team seq : BitVec 16} {far : List FarMember} {p : Nat × Nat} {l : List (Nat × Nat)}
    {news : List (Nat × Option FarNews)} (hu : s.failWithdrawn team seq = u) (hl : u.collIssued team seq = p :: l)
    (hnews : (u.farRanks (u.coll p.1 p.2).table).map (fun r =>
      (r, (listFind (fun (f : FarMember) => f.rank == r) far).map fun f => f.news)) = news) :
    (((u.coll p.1 p.2).table.any u.memberLost || news.any fun q => q.2 == some .withdrawn) = true →
      execCollRendezvous team ⟨seq, far⟩ s = .next ((p :: l).foldl (fun (s : State) q => s.collFail q.1 q.2 0x0A) u))
    ∧ (∀ there : List (Nat × CollDesc × List Byte),
      ((u.coll p.1 p.2).table.any u.memberLost || news.any fun q => q.2 == some .withdrawn) = false →
      news = there.map (fun q => (q.1, some (.issued q.2.1 q.2.2))) →
      ((u.coll p.1 p.2).table.filterMap u.memberCore).all (fun m => (p :: l).any fun q => q.1 == m) = true →
      execCollRendezvous team ⟨seq, far⟩ s =
        if u.collAgrees (u.coll p.1 p.2) (p :: l) (there.map fun q => (q.1, q.2.1)) then
          .next (u.collBegin team seq (u.coll p.1 p.2) (p :: l) there)
        else .next ((p :: l).foldl (fun (s : State) q => s.collFail q.1 q.2 0x09) u)) := by
  unfold execCollRendezvous
  dsimp only
  rw [hu, hl]
  dsimp only
  rw [hnews]
  refine ⟨fun hlost => if_pos hlost, fun there hlost hthere hall => ?_⟩
  have hsome : (news.any fun q => q.2.isNone) = false := by
    rw [hthere, List.any_map, List.any_eq_false]
    exact fun q _ => Bool.false_ne_true
  have hpick : (news.filterMap fun (p : Nat × Option FarNews) => match p.2 with
      | some (.issued d b) => some (p.1, d, b)
      | _ => none) = there := by
    rw [hthere, List.filterMap_map]
    exact List.filterMap_some
  have hlen : (there.length != news.length) = false := by
    rw [hthere, List.length_map, bne_self_eq_false]
  rw [hlost, if_neg Bool.false_ne_true, hsome, hall, Bool.not_true, Bool.or_false, if_neg Bool.false_ne_true]
  refine Eq.trans (b := if there.length != news.length || !u.collAgrees (u.coll p.1 p.2) (p :: l) (there.map fun q => (q.1, q.2.1))
    then .next ((p :: l).foldl (fun (s : State) q => s.collFail q.1 q.2 0x09) u)
    else .next (u.collBegin team seq (u.coll p.1 p.2) (p :: l) there)) ?_ ?_
  · rw [← hpick] <;> rfl
  · rw [hlen, Bool.false_or]
    cases u.collAgrees (u.coll p.1 p.2) (p :: l) (there.map fun q => (q.1, q.2.1)) <;> rfl

/-- A collective whose members all hold their data combines it (R349). -/
theorem jobStep_combines {s : State} {j : CollJob} {a : Arrival} (hw : s.withdrawn j = false) (ho : s.jobOpen j = true)
    (hall : ((j.members.zip (rangeFrom 0 j.members.length)).filter fun p => !j.ended.contains p.2).all (fun p =>
      !(s.coll p.1.1 p.1.2).ready && (s.coll p.1.1 p.1.2).phase == .ready) = true) (ha : j.arrives a = true) :
    s.jobStep j a = s.collCompute j a := by
  have hnone {q : (Nat × Nat) × Nat → Bool} (hq : ∀ p, (!(s.coll p.1.1 p.1.2).ready && (s.coll p.1.1 p.1.2).phase == .ready) = true
      → q p = false) :
      listFind q ((j.members.zip (rangeFrom 0 j.members.length)).filter fun p => !j.ended.contains p.2) = none := by
    refine listFind_none_of_all (List.all_eq_true.2 fun p hp => ?_)
    rw [hq p (List.all_eq_true.1 hall p hp)]
    rfl
  have hphase (p : (Nat × Nat) × Nat) (h : (!(s.coll p.1.1 p.1.2).ready && (s.coll p.1.1 p.1.2).phase == .ready) = true) :
      (s.coll p.1.1 p.1.2).phase = .ready := by
    rw [Bool.and_eq_true_iff, beq_iff_eq] at h
    exact h.2
  have hready : ((j.members.zip (rangeFrom 0 j.members.length)).filter fun p => !j.ended.contains p.2).all (fun p =>
      (s.coll p.1.1 p.1.2).phase == .ready) = true :=
    List.all_eq_true.2 fun p hp => beq_iff_eq.2 (hphase p (List.all_eq_true.1 hall p hp))
  rw [State.jobStep, hw, if_neg Bool.false_ne_true, ho, Bool.not_true, if_neg Bool.false_ne_true]
  dsimp only
  rw [hnone fun p h => by rw [Bool.and_eq_true_iff, Bool.not_eq_true'] at h; exact h.1]
  dsimp only
  rw [hnone fun p h => by rw [hphase p h]; exact Bool.and_false _]
  dsimp only
  rw [hnone fun p h => by rw [hphase p h]; exact Bool.and_false _]
  dsimp only
  rw [hready, ha]
  rfl

/-- With nothing to read, a member of a ring issues nothing. -/
theorem collIssue_idle {s : State} {c i : Nat} (ht : (s.coll c i).todo = []) (hf : (s.coll c i).flown = []) :
    s.collIssue c i = s := by
  rw [State.collIssue]
  dsimp only
  rw [ht, hf]
  exact ite_self _

section
variable {s : State} {j : CollJob} {r c i : Nat}

/-- A pass of a ring begins with the reads of its blocks (R355). -/
theorem ringStep_reads (hp : (s.coll c i).pass ≠ j.members.length) (h0 : (s.coll c i).part = 0) :
    ((s.ringStep j r c i).coll c i).part = 1
    ∧ ((s.ringStep j r c i).coll c i).todo
      = ringReads (s.coll (listGet (0, 0) j.members ((r + j.members.length - (s.coll c i).pass % j.members.length) % j.members.length)).1
          (listGet (0, 0) j.members ((r + j.members.length - (s.coll c i).pass % j.members.length) % j.members.length)).2)
        (listGet (0, 0) j.members ((r + j.members.length - (s.coll c i).pass % j.members.length) % j.members.length)).1 := by
  rw [State.ringStep]
  dsimp only
  rw [if_neg hp, if_pos h0, coll_setColl_same]
  exact ⟨rfl, rfl⟩

/-- K, once it has been read, is pushed (R355). -/
theorem ringStep_pushes {b size : Nat} (hb : (r + j.members.length - (s.coll c i).pass % j.members.length) % j.members.length = b)
    (hsize : cdBytes (listGet 0 j.descs b) 0 = size) (hp : (s.coll c i).pass ≠ j.members.length) (h1 : (s.coll c i).part = 1)
    (ht : (s.coll c i).todo = []) (hf : (s.coll c i).flown = []) (hread : j.read.contains (r, b) = true) (h0 : size ≠ 0)
    (hgot : size ≤ (s.coll c i).got.length) :
    s.ringStep j r c i = s.ringPush c (cdBuf (s.coll c i).desc 0) (s.coll c i).ctag ((s.coll c i).got.take size)
      fun w => w.setColl c i { w.coll c i with part := 2 } := by
  rw [State.ringStep]
  dsimp only
  rw [if_neg hp, if_neg (by rw [h1]; exact Nat.one_ne_zero), hb, collIssue_idle ht hf, hread, Bool.not_true, Bool.and_false,
    if_neg Bool.false_ne_true, if_pos h1, hsize, if_neg (Nat.not_lt.2 hgot), if_neg h0, h1]

end

/-! The Plain. -/

theorem head_eq_none {s : State} {c k : Nat} (h : (s.chan c k).flits = []) : s.head c k = none := by
  rw [State.head, h]
  exact ite_self _

end Sys2Proof.Proofs
end

section
/-!
The events of collectives, pairs, KV requests and the Plain.
-/
namespace Sys2Proof.Proofs
open Sys2Proof.Machine Sys2Proof.Laws

/-- A record that arrives at an element with room, and meets no other of its key, stands at its input (R394, R397). -/
theorem execPlainDelivery_element {s : State} {k : ClusterIx} {i : Nat} {f : Flight} (hget : (s.plain k.val).links[i]? = some f)
    (hfirst : ((s.plain k.val).links.take i).all (fun g => !(g.src == f.src && g.dst == f.dst && g.input == f.input)) = true)
    (hheld : s.plainHeld k.val f.body.owner = false) (hdst : f.dst < 128)
    (hroom : ((s.plain k.val).inputAt f.dst f.input).length < 8)
    (hkey : ∀ n F, s.plainSlot k.val f.dst f.body.owner f.body.ctag = some (n, F) →
      ((s.plain k.val).inputAt f.dst f.input).all (fun r => !(r.owner == f.body.owner && r.ctag == f.body.ctag
        && matchKey F r == matchKey F f.body)) = true) :
    execPlainDelivery k i s = .next (s.modPlain k.val fun x =>
      { x with
        links := (s.plain k.val).links.eraseIdx i
        inputs := tabSet [] x.inputs (3 * f.dst + f.input) ((s.plain k.val).inputAt f.dst f.input ++ [f.body]) }) := by
  unfold execPlainDelivery
  dsimp only
  rw [hget]
  dsimp only
  rw [hfirst, hheld, Bool.not_true, Bool.or_false, if_neg Bool.false_ne_true, if_neg (Nat.not_le.2 hdst),
    if_neg (Nat.not_le.2 hroom)]
  cases hslot : s.plainSlot k.val f.dst f.body.owner f.body.ctag with
  | none => rfl
  | some p =>
    obtain ⟨n, F⟩ := p
    dsimp only
    rw [listFind_none_of_all (hkey n F hslot)]

/-- A step of an engine that nothing holds and that issues nothing again (R409, R413). -/
theorem execPairHomeCell_steps {s : State} {k : ClusterIx} {o : PairOp} (hop : (s.pair k.val).op = some o)
    (hheld : (s.pair k.val).held = false) (hwave : s.waved o.core = false) (hdrained : (s.cpOf o.core).drained o.covered = true)
    (hagain : s.pairAgain k.val o = none) :
    execPairHomeCell k s =
      if (s.pair k.val).phase = .binning then .next (s.binStep k.val (s.pair k.val) o)
      else if !o.cur.isEmpty then .next s
      else match o.ending with
      | some v => .next (s.scanDone k.val (s.pair k.val) o v)
      | none => if o.tested ∨ !(s.pair k.val).clear.isEmpty then .next (s.scanNext k.val (s.pair k.val) o)
        else .next (s.scanStep k.val (s.pair k.val) o) := by
  rw [execPairHomeCell, hop]
  dsimp only
  refine (if_neg (by rw [hheld, hwave, hdrained]; decide)).trans ?_
  generalize s.pairAgain k.val o = again at hagain ⊢
  subst hagain
  rfl

/-- Settles O55: each event is followed to the branch that its conditions name. -/
theorem collectivePairKvPlainEvents : Obligations.CollectivePairKvPlainEvents := by
  intro s c k
  refine ⟨fun team seq far p l => ?_, fun team seq a j hj hring => ?_, fun i j => ?_,
    fun o hop hheld hwave hdrained hagain => ⟨fun hbin => ?_, fun hbin hcur => ⟨fun v hend => ?_, fun hend hclear => ?_⟩⟩,
    fun o f l i F hop hcur hat hraw hroom => ?_,
    fun i r hget hdrained hbehind => ⟨fun t v hstep => ?_, fun t e hstep => ?_, fun t n hstep => ?_⟩,
    fun i f hget hfirst hheld => ⟨fun hdst hroom => fun hkey => execPlainDelivery_element hget hfirst hheld hdst hroom hkey,
      fun y l hdst hflits hbound howner hbegun hroom => ?_⟩,
    fun e => ⟨fun hstop => ?_, fun hstop => ⟨fun a b l htwins => ?_, fun r i f rs l htwins hfires => ?_⟩⟩, rfl,
    fun f hflits hhead hside hkind hroom => ?_, fun f l F hleave hbuf hframe hroom => ?_⟩
  · intro u x news lost fails hl
    obtain ⟨hlost, hissued⟩ := execCollRendezvous_issued (s := s) (u := u) (team := team) (seq := seq) (far := far) (news := news)
      rfl hl rfl
    refine ⟨hlost, fun there hnot hthere hall => ⟨fun hagree => ?_, fun hagree => ?_⟩⟩
    · exact (hissued there hnot hthere hall).trans (if_neg (ne_true_of_eq_false hagree))
    · obtain ⟨j, h⟩ := collBegin_job u team seq x (p :: l) there
      exact ⟨_, j, (hissued there hnot hthere hall).trans (if_pos hagree), rfl, h⟩
  · refine ⟨?_, fun hw ho => ⟨fun p hp => ?_, fun hall ha => jobStep_combines hw ho hall ha⟩⟩
    · show execCollCombine team seq a s = _
      rw [execCollCombine, hj]
      exact if_neg (ne_true_of_eq_false hring)
    · rw [State.jobStep, hw, if_neg Bool.false_ne_true, ho, Bool.not_true, if_neg Bool.false_ne_true]
      dsimp only
      rw [hp]
  · intro x n b size hj
    have hring : execRingPass c i s = if s.withdrawn j then .next (s.jobFail j)
        else if !s.jobOpen j then .next s
        else .next (s.ringStep j (cdRank x.desc) c.val i.val) := by
      rw [execRingPass, hj]
    refine ⟨fun hw => hring.trans (if_pos hw), fun hw ho => ⟨_, ?_, rfl, fun hp h0 => ringStep_reads hp h0,
      fun hp h1 ht hf hread h0 hgot => ringStep_pushes rfl rfl hp h1 ht hf hread h0 hgot⟩⟩
    refine (hring.trans (if_neg (ne_true_of_eq_false hw))).trans ?_
    rw [ho]
    rfl
  · exact (execPairHomeCell_steps hop hheld hwave hdrained hagain).trans (if_pos hbin)
  · refine ((execPairHomeCell_steps hop hheld hwave hdrained hagain).trans (if_neg hbin)).trans ?_
    rw [hcur, hend]
    rfl
  · refine ((execPairHomeCell_steps hop hheld hwave hdrained hagain).trans (if_neg hbin)).trans ?_
    rw [hcur, hend, hclear]
    cases o.tested <;> rfl
  · show execPairRecordPush k s = _
    rw [execPairRecordPush, hop]
    dsimp only
    rw [hcur, hat]
    exact if_pos (by rw [hraw, hroom]; rfl)
  · show execKvRequestRoute i s = _
    rw [execKvRequestRoute, hget]
    dsimp only
    rw [hdrained, hbehind, if_neg (by decide), hstep]
  · show execKvRequestRoute i s = _
    rw [execKvRequestRoute, hget]
    dsimp only
    rw [hdrained, hbehind, if_neg (by decide), hstep]
  · show execKvRequestRoute i s = _
    rw [execKvRequestRoute, hget]
    dsimp only
    rw [hdrained, hbehind, if_neg (by decide), hstep]
  · show execPlainDelivery k i s = _
    unfold execPlainDelivery
    dsimp only
    rw [hget]
    dsimp only
    rw [hfirst, hheld, Bool.not_true, Bool.or_false, if_neg Bool.false_ne_true, if_pos hdst, hflits]
    refine if_pos ⟨hbound, howner, ?_, hroom⟩
    rcases hbegun with h | h
    · exact Or.inl h
    · exact Or.inr (by rw [h]; rfl)
  · show execPlainElementFire k e s = _
    rw [execPlainElementFire]
    exact if_pos hstop
  · show execPlainElementFire k e s = _
    dsimp only at htwins
    rw [execPlainElementFire]
    dsimp only
    rw [hstop, if_neg Bool.false_ne_true, htwins]
  · show execPlainElementFire k e s = _
    dsimp only at htwins hfires
    rw [execPlainElementFire]
    dsimp only
    rw [hstop, if_neg Bool.false_ne_true, htwins, hfires]
  · show Host.Outcome.next ((s.passEnter c.val).passTake c.val) = _
    have henter : s.passEnter c.val = s := by
      rw [State.passEnter, head_eq_none hflits]
    rw [henter, State.passTake, hhead]
    refine congrArg Host.Outcome.next (if_neg ?_)
    rw [hside, beq_false_of_ne hkind, hroom]
    decide
  · show execPassOutbound c s = _
    have hsend : s.passSend c.val F f = .ok (s.sidePush c.val (fb F 223 220) f) := by
      rw [State.passSend, hbuf]
      exact if_pos hroom
    rw [execPassOutbound]
    rw [hleave, List.isEmpty_cons, if_neg Bool.false_ne_true, hleave]
    dsimp only
    rw [hframe]
    dsimp only
    rw [hsend]

end Sys2Proof.Proofs
end

section
/-!
The resets: a package that a failed link has stopped does not leave WARMRESET in the ROM.
-/
namespace Sys2Proof.Proofs
open Sys2Proof.Machine

/-- A package that a failed link has stopped reads FAILED after WARMRESET (R468). -/
theorem execWarmreset_boot_of_stopped {s t : State} (hstopped : s.stopped = true) (h : exec .warmreset s = .next t) :
    t.pkg.boot = .failed := by
  have ht : t = s.warm := (Host.Outcome.next.inj h).symm
  rw [ht, State.warm, hstopped]
  rfl

/-- Refutes O56: WARMRESET of the reset state with `stopped` set reads FAILED, and the statement asks for the ROM. -/
theorem not_resetAndHostEvents : ¬ Obligations.ResetAndHostEvents := by
  intro h
  obtain ⟨-, ⟨t, hexec, -, -, -, -, -, -, -, -, -, -, hboot, -⟩, -⟩ := h { State.reset with stopped := true }
  rw [execWarmreset_boot_of_stopped rfl hexec] at hboot
  exact BootState.noConfusion hboot

end Sys2Proof.Proofs
end

section
/-!
The writes to management and pool registers, the clock, the stretches and the links.
-/
namespace Sys2Proof.Proofs
open Sys2Proof.Machine Sys2Proof.Laws

/-- The step that the power manager takes is at most 4, and below 4 it is one that MAXSTEP admits (R473). -/
theorem getD_listFind_rangeFrom {ok : Nat → Bool} {m : Nat} (hok : ∀ n, ok n = true → m ≤ n) :
    (listFind ok (rangeFrom 0 5)).getD 4 ≤ 4 ∧
      ((listFind ok (rangeFrom 0 5)).getD 4 < 4 → m ≤ (listFind ok (rangeFrom 0 5)).getD 4) := by
  cases hfind : listFind ok (rangeFrom 0 5) with
  | none => exact ⟨Nat.le_refl 4, fun h => absurd h (Nat.lt_irrefl 4)⟩
  | some n =>
    have hn : n < 0 + 5 := (mem_rangeFrom.1 (mem_of_listFind hfind)).2
    exact ⟨Nat.le_of_lt_succ (by simpa using hn), fun _ => hok n (prop_of_listFind hfind)⟩

/-- A trained port is up, and one that is lost is down, where the port has lanes (R468). -/
theorem execStanumPortTraining_ports {s : State} (p : Fin 18) (up : Bool) (hst : s.pkg.stEn = true) :
    ∃ t, exec (.stanumPortTraining p up) s = .next t ∧ t.pkg.ports.getLsbD p.val =
      if Config.lanes.getLsbD p.val then up else s.pkg.ports.getLsbD p.val := by
  have hexec : exec (.stanumPortTraining p up) s = execStanumPortTraining p up s := rfl
  rw [hexec, execStanumPortTraining, hst, Bool.true_and]
  cases hlane : Config.lanes.getLsbD p.val with
  | false => exact ⟨s, rfl, rfl⟩
  | true =>
    refine ⟨_, rfl, ?_⟩
    cases up <;> simp [p.isLt]

theorem stretched_modDie (s : State) (d : Nat) (b : Bool) :
    ((s.modDie d fun x => { x with stretched := b }).die d).stretched = b := by
  rw [die_modDie, if_pos rfl]

/-- The two low bits of a word, as a number (R473). -/
theorem extractLsb'_toNat_eq_bits (v : Word) : (v.extractLsb' 0 2).toNat = bits v 0 2 := by
  simp [bits]

/-- Settles O57: each write is followed to the branch that its conditions name. -/
theorem managementEvents : Obligations.ManagementEvents := by
  intro s d v
  refine ⟨fun n hlock => ⟨?_, ?_⟩, fun n b hlock => if_pos hlock, rfl,
    ⟨_, rfl, rfl, rfl, fun hen => if_neg (ne_true_of_eq_false hen), fun hen hst => ?_⟩,
    fun p r hst => if_neg (ne_true_of_eq_false hst), fun q => rfl, rfl, rfl, rfl, rfl, rfl, ⟨_, rfl, rfl, rfl⟩,
    fun hv => ?_, fun hv => ⟨_, rfl, ?_⟩, ⟨_, rfl, ?_⟩, fun hd => ⟨_, if_neg (ne_true_of_eq_false hd), ?_, rfl⟩,
    ⟨_, rfl, ?_⟩, fun l => ⟨_, rfl, rfl, rfl, rfl, rfl⟩, fun p hst => ?_, fun hidle r => if_pos ?_,
    fun hidle => ?_⟩
  · exact if_neg (ne_true_of_eq_false hlock)
  · exact if_neg (ne_true_of_eq_false hlock)
  · refine (if_pos ?_).trans (if_neg (ne_true_of_eq_false hst))
    rw [hen, hst]
    rfl
  · have hbits : bits v 0 2 ≠ 3 := fun h => hv (BitVec.eq_of_toNat_eq ((extractLsb'_toNat_eq_bits v).trans h))
    show execRegisterWrite .deglvl v s = _
    rw [execRegisterWrite, if_neg hbits, BitVec.setWidth_eq_extractLsb' (by decide)]
  · have hbits : bits v 0 2 = 3 := (extractLsb'_toNat_eq_bits v).symm.trans (congrArg BitVec.toNat hv)
    show { s with pkg := { s.pkg with deg := if bits v 0 2 = 3 then s.pkg.deg else v.setWidth 2 } } = s
    rw [if_pos hbits]
  · have hstep := getD_listFind_rangeFrom (m := s.pkg.maxStep.toNat)
      (ok := fun n => decide (s.pkg.maxStep.toNat ≤ n ∧ Config.power s.free (BitVec.ofNat 3 n) ≤ s.pkg.limit))
      fun n h => (of_decide_eq_true h).1
    rw [BitVec.toNat_ofNat, Nat.mod_eq_of_lt (Nat.lt_of_le_of_lt hstep.1 (by decide))]
    exact hstep
  · exact stretched_modDie s d.val true
  · exact stretched_modDie s d.val false
  · obtain ⟨t, ht, htp⟩ := execStanumPortTraining_ports p true hst
    obtain ⟨u, hu, hup⟩ := execStanumPortTraining_ports p false hst
    refine ⟨t, u, ht, hu, ?_, ?_⟩
    · rw [htp]
      cases Config.lanes.getLsbD p.val <;> rfl
    · rw [hup]
      cases Config.lanes.getLsbD p.val <;> simp
  · rw [hidle]
    rfl
  · have hbusy : ¬ (!s.kvIdle d.val) = true := by
      rw [hidle]
      decide
    exact ⟨if_neg hbusy, if_neg hbusy, if_neg hbusy⟩

end Sys2Proof.Proofs
end
